-- ==== Sys2Proof/Word.lean ====
section
/-! DEFINITION. The machine's words: 64-bit general registers, bytes, 32-bit instruction words and 1024-bit rows (R5, R101). -/

namespace Sys2Proof

/-- A general register, an address or a system register (R101, R132). -/
abbrev Word := BitVec 64

/-- A byte of memory (R4). -/
abbrev Byte := BitVec 8

/-- A counting flag or an instruction word (R101, R115). -/
abbrev Word32 := BitVec 32

/-- A register of the operand file or the main file, or a queue row (R5, R101). -/
abbrev Row := BitVec 1024

end Sys2Proof
end

