-- ==== Sys2Proof/Kinds.lean ====
section
/-! DEFINITION. The closed sets of names that instruction fields and events choose from: conditions, element types,
scopes, levels, rounding modes and the records an instruction or an outside event carries (R70, R123, R125). -/

namespace Sys2Proof

/-- Conditions of CMP (R123, R139). -/
inductive CmpCond where
  | eq | ne | lt | ge | ltu | geu
  deriving DecidableEq, Repr

/-- Conditions of FCMP (R125, R166). -/
inductive FCond where
  | eq | ne | lt | le | un
  deriving DecidableEq, Repr

/-- Conditions of VCMP (R125, R171). -/
inductive ICond where
  | eq | ne | lt | le
  deriving DecidableEq, Repr

/-- Element types, the TYPE codes of R70. -/
inductive ElemType where
  | z8 | z16 | z32 | z64 | s8 | s16 | s32 | s64 | q | bf16 | f16 | f32
  deriving DecidableEq, Repr

/-- Operations of AMO (R260). -/
inductive AmoOp where
  | swap | add | and | or | xor | min | max | minu | maxu | fadd
  deriving DecidableEq, Repr

/-- Ordering scopes (R123, R348). -/
inductive Scope where
  | core | cluster | chip | pair
  deriving DecidableEq, Repr

/-- Levels of work, as cancel operations name them (R49, R369). -/
inductive CancelLevel where
  | unit | launch | graph | phase | job
  deriving DecidableEq, Repr

/-- Hardware loop levels (R144, R185). -/
inductive LoopLevel where
  | A | B
  deriving DecidableEq, Repr

/-- Rounding modes (R7, R37). -/
inductive RoundMode where
  | rne | rtz | rup | rdn
  deriving DecidableEq, Repr

/-- Patterns of SHUF (R183). -/
inductive ShufPattern where
  | deint | inter | rev | swap1 | half | tr4
  deriving DecidableEq, Repr

/-- The four inline words of an extended instruction's shape record, before substitution (R67 to R69). -/
structure ShapeRec where
  w0 : Word32
  w1 : Word32
  w2 : Word32
  w3 : Word32
  deriving DecidableEq, Repr

/-- The slice that issues an instruction: both-slice words have a half in each (R104). -/
inductive Slice where
  | control | execute
  deriving DecidableEq, Repr, Inhabited

/-- A resource that a targeted self-test quarantines (R407). -/
inductive Resource where
  | array (cluster : Fin 32)
  | stashBank (core : Fin 128) (bank : Fin 256)
  | coreStore (core : Fin 128)
  | sliceWay (slice : Fin 64) (way : Fin 16)
  | gusset (gid : Fin 128)
  deriving DecidableEq, Repr

/-- An arbiter of the crossing chains: a general lane of one direction at a station, or a station's local switch (R284). -/
inductive ArbId where
  | lane (east : Bool) (station : Fin 15) (lane : Fin 20)
  | local (station : Fin 15)
  deriving DecidableEq, Repr

/-- Bytes written into this part by the peer: a COPY.PEER (translated here, with its tag) or a store to the peer range
(a physical address, tag 0) (R276, R424). -/
structure PeerWrite where
  asid : BitVec 16
  tag : Word32
  physical : Bool
  addr : Nat
  /-- The record of the copy, for the page checks of R268. -/
  shape : ShapeRec
  bytes : List Byte
  /-- The slack it had left when it crossed the link, and its late bit (R297). -/
  slack : Nat
  late : Bool
  deriving DecidableEq, Repr

/-- A WRQ as it reaches the peer: the payload's rows and the 64-byte task record (R277). -/
structure WrqMsg where
  asid : BitVec 16
  dst : Nat
  shape : ShapeRec
  rows : List (List Byte)
  task : List Byte
  taskAddr : Word
  slack : Nat
  late : Bool
  deriving DecidableEq, Repr

/-- A mirror as it reaches the peer: the job, and each page's address and bytes in ascending order (R413, R426). -/
structure MirrorMsg where
  asid : BitVec 16
  pages : List (Nat × List Byte)
  /-- The slack it had left when it crossed the link, and its late bit (R297). -/
  slack : Nat
  late : Bool
  /-- All of the mirror has come; one cut off by a link failure brings a prefix of its pages and is not counted (R426). -/
  whole : Bool
  deriving DecidableEq, Repr

/-- What the peer answers: done with the data of a read, or a refusal with its fault code and the acknowledged prefix (R276, R426); its
slack and its late bit are those the answer has as it leaves the link (R290, R297). -/
structure PeerReply where
  ok : Bool
  code : BitVec 8
  bytes : Nat
  addr : Word
  data : List Byte
  slack : Nat
  late : Bool
  deriving DecidableEq, Repr

end Sys2Proof
end

