-- ==== Sys2Proof/Syntax.lean ====
section
/-! DEFINITION. The one syntax of the part's steps: every instruction of the opcode map (R121 to R126) and every event of
the table of operations and events, each event with the data that comes from outside the state. Register numbers are `Fin`,
immediates and offsets bit vectors, codes their named kinds. -/

namespace Sys2Proof

/-- One step of the part: an instruction word as decoded, or an event. -/
inductive Instr where
  /-- ADD (R134). -/
  | add (d a b : Fin 32)
  /-- SUB (R134). -/
  | sub (d a b : Fin 32)
  /-- AND (R134). -/
  | and (d a b : Fin 32)
  /-- OR (R134). -/
  | or (d a b : Fin 32)
  /-- XOR (R134). -/
  | xor (d a b : Fin 32)
  /-- ANDN (R134). -/
  | andn (d a b : Fin 32)
  /-- SHL (R134). -/
  | shl (d a b : Fin 32)
  /-- SHR (R134). -/
  | shr (d a b : Fin 32)
  /-- SRA (R134). -/
  | sra (d a b : Fin 32)
  /-- SLT (R134). -/
  | slt (d a b : Fin 32)
  /-- SLTU (R134). -/
  | sltu (d a b : Fin 32)
  /-- MIN (R134). -/
  | min (d a b : Fin 32)
  /-- MINU (R134). -/
  | minu (d a b : Fin 32)
  /-- MAX (R134). -/
  | max (d a b : Fin 32)
  /-- MAXU (R134). -/
  | maxu (d a b : Fin 32)
  /-- MUL (R134). -/
  | mul (d a b : Fin 32)
  /-- MULH (R134). -/
  | mulh (d a b : Fin 32)
  /-- MULHU (R134). -/
  | mulhu (d a b : Fin 32)
  /-- DIV (R135). -/
  | div (d a b : Fin 32)
  /-- DIVU (R135). -/
  | divu (d a b : Fin 32)
  /-- REM (R135). -/
  | rem (d a b : Fin 32)
  /-- REMU (R135). -/
  | remu (d a b : Fin 32)
  /-- CLZ (R134). -/
  | clz (d a : Fin 32)
  /-- POPC (R134). -/
  | popc (d a : Fin 32)
  /-- ADDSH (R134). -/
  | addsh (d a b : Fin 32) (s : Fin 8)
  /-- SEL (R134). -/
  | sel (d a b : Fin 32) (c : Fin 4)
  /-- ADDI (R136). -/
  | addi (d a : Fin 32) (i : BitVec 15)
  /-- ANDI (R136). -/
  | andi (d a : Fin 32) (i : BitVec 15)
  /-- ORI (R136). -/
  | ori (d a : Fin 32) (i : BitVec 15)
  /-- XORI (R136). -/
  | xori (d a : Fin 32) (i : BitVec 15)
  /-- SHLI (R136). -/
  | shli (d a : Fin 32) (n : Fin 64)
  /-- SHRI (R136). -/
  | shri (d a : Fin 32) (n : Fin 64)
  /-- SRAI (R136). -/
  | srai (d a : Fin 32) (n : Fin 64)
  /-- BFX (R137). -/
  | bfx (d a : Fin 32) (l p : Fin 64)
  /-- BFX.sx (R137). -/
  | bfxSx (d a : Fin 32) (l p : Fin 64)
  /-- BFI (R137). -/
  | bfi (d a : Fin 32) (l p : Fin 64)
  /-- LI (R138). -/
  | li (d : Fin 32) (i : BitVec 20)
  /-- LIH (R138). -/
  | lih (d : Fin 32) (i : BitVec 20)
  /-- CMP (R139). -/
  | cmp (c : Fin 4) (a b : Fin 32) (x : CmpCond)
  /-- CMP (R139). -/
  | cmpImm (x : CmpCond) (c : Fin 4) (a : Fin 32) (i : BitVec 15)
  /-- PBR (R140). -/
  | pbr (b : Fin 4) (o : BitVec 23)
  /-- PBRG (R140). -/
  | pbrg (b : Fin 4) (a : Fin 32)
  /-- LD.z8 (R252). -/
  | ldZ8 (d b : Fin 32) (c : Fin 16) (u : Fin 8) (o : BitVec 8)
  /-- LD.z16 (R252). -/
  | ldZ16 (d b : Fin 32) (c : Fin 16) (u : Fin 8) (o : BitVec 8)
  /-- LD.z32 (R252). -/
  | ldZ32 (d b : Fin 32) (c : Fin 16) (u : Fin 8) (o : BitVec 8)
  /-- LD.z64 (R252). -/
  | ldZ64 (d b : Fin 32) (c : Fin 16) (u : Fin 8) (o : BitVec 8)
  /-- LD.s8 (R252). -/
  | ldS8 (d b : Fin 32) (c : Fin 16) (u : Fin 8) (o : BitVec 8)
  /-- LD.s16 (R252). -/
  | ldS16 (d b : Fin 32) (c : Fin 16) (u : Fin 8) (o : BitVec 8)
  /-- LD.s32 (R252). -/
  | ldS32 (d b : Fin 32) (c : Fin 16) (u : Fin 8) (o : BitVec 8)
  /-- ST.z8 (R252). -/
  | stZ8 (d b : Fin 32) (c : Fin 16) (u : Fin 8) (o : BitVec 8)
  /-- ST.z16 (R252). -/
  | stZ16 (d b : Fin 32) (c : Fin 16) (u : Fin 8) (o : BitVec 8)
  /-- ST.z32 (R252). -/
  | stZ32 (d b : Fin 32) (c : Fin 16) (u : Fin 8) (o : BitVec 8)
  /-- ST.z64 (R252). -/
  | stZ64 (d b : Fin 32) (c : Fin 16) (u : Fin 8) (o : BitVec 8)
  /-- VLD (R254). -/
  | vld (m b : Fin 32) (c : Fin 16) (u : Fin 8) (o : BitVec 8)
  /-- VST (R254). -/
  | vst (m b : Fin 32) (c : Fin 16) (u : Fin 8) (o : BitVec 8)
  /-- VGATHER (R256). -/
  | vgather (m b : Fin 32) (c : Fin 16) (u : Fin 8)
  /-- VSCATTER (R256). -/
  | vscatter (m b : Fin 32) (c : Fin 16) (u : Fin 8)
  /-- VRADD (R258). -/
  | vradd (m b : Fin 32) (c : Fin 16) (u : Fin 8) (t : ElemType)
  /-- AMO.z32 (R260). -/
  | amoZ32 (d a b : Fin 32) (c : Fin 16) (s : Scope) (o : AmoOp)
  /-- AMO.z64 (R260). -/
  | amoZ64 (d a b : Fin 32) (c : Fin 16) (s : Scope) (o : AmoOp)
  /-- CAS.z32 (R261). -/
  | casZ32 (d a b : Fin 32) (c : Fin 16) (s : Scope)
  /-- CAS.z64 (R261). -/
  | casZ64 (d a b : Fin 32) (c : Fin 16) (s : Scope)
  /-- PIN (R266). -/
  | pin (d a b : Fin 32)
  /-- UNPIN (R265). -/
  | unpin (a b : Fin 32)
  /-- CFLUSH (R265). -/
  | cflush (a b : Fin 32) (c : Fin 16)
  /-- CINV (R265). -/
  | cinv (a b : Fin 32) (c : Fin 16)
  /-- STOUCH (R265). -/
  | stouch (a b : Fin 32) (e : Bool)
  /-- SWB (R265). -/
  | swb (a b : Fin 32) (c : Fin 16)
  /-- FLAG.ADD (R359). -/
  | flagAdd (a : Fin 32) (n : Fin 64)
  /-- FLAG.WAIT (R359). -/
  | flagWait (d a : Fin 32) (n : Fin 64)
  /-- FLAG.WAIT.SUB (R359). -/
  | flagWaitSub (d a : Fin 32) (n : Fin 64)
  /-- FLAG.RD (R359). -/
  | flagRd (d : Fin 32) (n : Fin 64)
  /-- WAIT (R360). -/
  | wait (t c s l : Fin 32)
  /-- FENCE (R361). -/
  | fence (s : Scope) (m : BitVec 16)
  /-- BAR.ARRIVE (R362). -/
  | barArrive (s : Fin 8)
  /-- BAR.WAIT (R362). -/
  | barWait (a : Fin 32) (s : Fin 8)
  /-- START.NEXT (R363). -/
  | startNext
  /-- WAIT.PRED (R363). -/
  | waitPred
  /-- TSPAWN (R364). -/
  | tspawn (a : Fin 32)
  /-- FUT.RD (R367). -/
  | futRd (d a : Fin 32)
  /-- FUT.FILL (R368). -/
  | futFill (d a b : Fin 32)
  /-- LVL.CANCEL (R369). -/
  | lvlCancel (a : Fin 32) (l : CancelLevel)
  /-- LEASE (R205). -/
  | lease (u : Fin 8)
  /-- UNLEASE (R206). -/
  | unlease
  /-- MZERO (R207). -/
  | mzero (t : Fin 4)
  /-- MOUT (R208). -/
  | mout (t : Fin 4) (a b : Fin 32) (f : Fin 64)
  /-- MOUT (R208). -/
  | moutRq (t : Fin 4) (f : Fin 64)
  /-- MSTAT (R209). -/
  | mstat (d : Fin 32)
  /-- SUNBIND (R314). -/
  | sunbind (a : Fin 32)
  /-- SCTX.START (R317). -/
  | sctxStart (d a : Fin 32)
  /-- SCTX.STOP (R317). -/
  | sctxStop (d a : Fin 32)
  /-- SDEPTH (R315). -/
  | sdepth (d a b : Fin 32)
  /-- ROW.WAIT (R334). -/
  | rowWait (a b : Fin 32)
  /-- ROW.POST (R335). -/
  | rowPost (a : Fin 32)
  /-- ROW.POST.FRAME (R335). -/
  | rowPostFrame
  /-- ROW.POST.SET (R335). -/
  | rowPostSet (a : Fin 32)
  /-- ROW.RD.POS (R336). -/
  | rowRdPos (d a : Fin 32)
  /-- ROW.RD.REC (R336). -/
  | rowRdRec (d a : Fin 32)
  /-- ROW.RD.STAMP (R336). -/
  | rowRdStamp (d a : Fin 32)
  /-- ROI.RD (R338). -/
  | roiRd (d a b : Fin 32)
  /-- ALIGN.WAIT (R347). -/
  | alignWait (d a b : Fin 32)
  /-- ALIGN.WAIT.CNT (R347). -/
  | alignWaitCnt (d a : Fin 32)
  /-- TRAP (R411). -/
  | trap (n : Fin 64)
  /-- ERET (R398). -/
  | eret
  /-- SYS.RD (R412). -/
  | sysRd (d : Fin 32) (r : Fin 64)
  /-- SYS.WR (R412). -/
  | sysWr (a : Fin 32) (r : Fin 64)
  /-- TIME (R413). -/
  | time (d : Fin 32)
  /-- TLBINV.PAGE (R413). -/
  | tlbinvPage (a : Fin 32)
  /-- TLBINV.ASID (R413). -/
  | tlbinvAsid
  /-- CRGN.OPEN (R413). -/
  | crgnOpen (a b : Fin 32)
  /-- CRGN.CLOSE (R413). -/
  | crgnClose
  /-- CRGN.CLOSE.MIRROR (R413). -/
  | crgnCloseMirror (f : Fin 64)
  /-- SELFTEST.ARRAY (R413). -/
  | selftestArray (d : Fin 32)
  /-- LOOP (R144). -/
  | loop (v : LoopLevel) (a : Fin 32) (i : BitVec 15)
  /-- LOOPI (R144). -/
  | loopi (v : LoopLevel) (c n : Fin 1024)
  /-- BR (R141). -/
  | br (b c : Fin 4) (s : Bool)
  /-- BR.PN (R152). -/
  | brPn (b c : Fin 4) (s : Bool)
  /-- BR.PT (R152). -/
  | brPt (b c : Fin 4) (s : Bool)
  /-- JMP (R141). -/
  | jmp (b : Fin 4)
  /-- CALL (R141). -/
  | call (b : Fin 4) (a : Fin 32)
  /-- RET (R141). -/
  | ret (a : Fin 32)
  /-- VANY (R149). -/
  | vany (c : Fin 4) (k : Fin 8)
  /-- VALL (R149). -/
  | vall (c : Fin 4) (k : Fin 8)
  /-- VCNT (R149). -/
  | vcnt (d : Fin 32) (k : Fin 8)
  /-- POPV (R150). -/
  | popv (d : Fin 32)
  /-- PUSHC (R156). -/
  | pushc (a : Fin 32)
  /-- PUSHD (R156). -/
  | pushd (a : Fin 32)
  /-- MKTAIL (R157). -/
  | mktail (a : Fin 32)
  /-- END (R158). -/
  | endUnit
  /-- MOV (R162). -/
  | mov (d : Fin 256) (a : Fin 16) (k : Fin 8) (u : Bool)
  /-- MOV (R162). -/
  | movMain (d : Fin 256) (n : Fin 128) (k : Fin 8)
  /-- BCAST (R163). -/
  | bcast (d : Fin 256) (a : Fin 16) (i : Fin 256) (k : Fin 8) (u : Bool)
  /-- IOTA (R163). -/
  | iota (d : Fin 256) (t : ElemType) (k : Fin 8)
  /-- ZERO (R163). -/
  | zero (d : Fin 256) (k : Fin 8)
  /-- EXTR (R163). -/
  | extr (a : Fin 16) (i : Fin 256) (u : Bool)
  /-- FADD (R164). -/
  | fadd (d : Fin 256) (a b : Fin 16) (t : ElemType) (k : Fin 8) (u v : Bool)
  /-- FSUB (R164). -/
  | fsub (d : Fin 256) (a b : Fin 16) (t : ElemType) (k : Fin 8) (u v : Bool)
  /-- FMUL (R164). -/
  | fmul (d : Fin 256) (a b : Fin 16) (t : ElemType) (k : Fin 8) (u v : Bool)
  /-- FMIN (R165). -/
  | fmin (d : Fin 256) (a b : Fin 16) (t : ElemType) (k : Fin 8) (u v : Bool)
  /-- FMAX (R165). -/
  | fmax (d : Fin 256) (a b : Fin 16) (t : ElemType) (k : Fin 8) (u v : Bool)
  /-- FCMP (R166). -/
  | fcmp (x : FCond) (p : Fin 8) (a b : Fin 16) (t : ElemType) (k : Fin 8) (u v : Bool)
  /-- FABS (R167). -/
  | fabs (d : Fin 256) (a : Fin 16) (t : ElemType) (k : Fin 8) (u : Bool)
  /-- FNEG (R167). -/
  | fneg (d : Fin 256) (a : Fin 16) (t : ElemType) (k : Fin 8) (u : Bool)
  /-- FCLASS (R168). -/
  | fclass (d : Fin 256) (a : Fin 16) (t : ElemType) (k : Fin 8) (u : Bool)
  /-- FRCP (R45). -/
  | frcp (d : Fin 256) (a : Fin 16) (t : ElemType) (k : Fin 8) (u : Bool)
  /-- FRSQRT (R45). -/
  | frsqrt (d : Fin 256) (a : Fin 16) (t : ElemType) (k : Fin 8) (u : Bool)
  /-- FSQRT (R45). -/
  | fsqrt (d : Fin 256) (a : Fin 16) (t : ElemType) (k : Fin 8) (u : Bool)
  /-- FEXP2 (R45). -/
  | fexp2 (d : Fin 256) (a : Fin 16) (t : ElemType) (k : Fin 8) (u : Bool)
  /-- FLOG2 (R45). -/
  | flog2 (d : Fin 256) (a : Fin 16) (t : ElemType) (k : Fin 8) (u : Bool)
  /-- FTANH (R47). -/
  | ftanh (d : Fin 256) (a : Fin 16) (t : ElemType) (k : Fin 8) (u : Bool)
  /-- FSIG (R47). -/
  | fsig (d : Fin 256) (a : Fin 16) (t : ElemType) (k : Fin 8) (u : Bool)
  /-- FMA.f32 (R164). -/
  | fmaF32 (d : Fin 256) (a b c : Fin 16) (k : Fin 8) (u v : Bool)
  /-- FMA.bf16 (R164). -/
  | fmaBf16 (d : Fin 256) (a b c : Fin 16) (k : Fin 8) (u v : Bool)
  /-- FMA.f16 (R164). -/
  | fmaF16 (d : Fin 256) (a b c : Fin 16) (k : Fin 8) (u v : Bool)
  /-- FMS.f32 (R164). -/
  | fmsF32 (d : Fin 256) (a b c : Fin 16) (k : Fin 8) (u v : Bool)
  /-- FMS.bf16 (R164). -/
  | fmsBf16 (d : Fin 256) (a b c : Fin 16) (k : Fin 8) (u v : Bool)
  /-- FMS.f16 (R164). -/
  | fmsF16 (d : Fin 256) (a b c : Fin 16) (k : Fin 8) (u v : Bool)
  /-- FNMA.f32 (R164). -/
  | fnmaF32 (d : Fin 256) (a b c : Fin 16) (k : Fin 8) (u v : Bool)
  /-- FNMA.bf16 (R164). -/
  | fnmaBf16 (d : Fin 256) (a b c : Fin 16) (k : Fin 8) (u v : Bool)
  /-- FNMA.f16 (R164). -/
  | fnmaF16 (d : Fin 256) (a b c : Fin 16) (k : Fin 8) (u v : Bool)
  /-- VADD (R169). -/
  | vadd (d : Fin 256) (a b : Fin 16) (t : ElemType) (k : Fin 8) (u v : Bool)
  /-- VSUB (R169). -/
  | vsub (d : Fin 256) (a b : Fin 16) (t : ElemType) (k : Fin 8) (u v : Bool)
  /-- VADDS (R169). -/
  | vadds (d : Fin 256) (a b : Fin 16) (t : ElemType) (k : Fin 8) (u v : Bool)
  /-- VSUBS (R169). -/
  | vsubs (d : Fin 256) (a b : Fin 16) (t : ElemType) (k : Fin 8) (u v : Bool)
  /-- VMUL (R169). -/
  | vmul (d : Fin 256) (a b : Fin 16) (t : ElemType) (k : Fin 8) (u v : Bool)
  /-- VMULH (R169). -/
  | vmulh (d : Fin 256) (a b : Fin 16) (t : ElemType) (k : Fin 8) (u v : Bool)
  /-- VMIN (R169). -/
  | vmin (d : Fin 256) (a b : Fin 16) (t : ElemType) (k : Fin 8) (u v : Bool)
  /-- VMAX (R169). -/
  | vmax (d : Fin 256) (a b : Fin 16) (t : ElemType) (k : Fin 8) (u v : Bool)
  /-- VAND (R169). -/
  | vand (d : Fin 256) (a b : Fin 16) (t : ElemType) (k : Fin 8) (u v : Bool)
  /-- VOR (R169). -/
  | vor (d : Fin 256) (a b : Fin 16) (t : ElemType) (k : Fin 8) (u v : Bool)
  /-- VXOR (R169). -/
  | vxor (d : Fin 256) (a b : Fin 16) (t : ElemType) (k : Fin 8) (u v : Bool)
  /-- VSHL (R170). -/
  | vshl (d : Fin 256) (a b : Fin 16) (t : ElemType) (k : Fin 8) (u v : Bool)
  /-- VSHR (R170). -/
  | vshr (d : Fin 256) (a b : Fin 16) (t : ElemType) (k : Fin 8) (u v : Bool)
  /-- VSHLS (R170). -/
  | vshls (d : Fin 256) (a b : Fin 16) (t : ElemType) (k : Fin 8) (u v : Bool)
  /-- VCMP (R171). -/
  | vcmp (x : ICond) (p : Fin 8) (a b : Fin 16) (t : ElemType) (k : Fin 8) (u v : Bool)
  /-- VABS (R172). -/
  | vabs (d : Fin 256) (a : Fin 16) (t : ElemType) (k : Fin 8) (u : Bool)
  /-- VABSS (R172). -/
  | vabss (d : Fin 256) (a : Fin 16) (t : ElemType) (k : Fin 8) (u : Bool)
  /-- VNEG (R172). -/
  | vneg (d : Fin 256) (a : Fin 16) (t : ElemType) (k : Fin 8) (u : Bool)
  /-- VNEGS (R172). -/
  | vnegs (d : Fin 256) (a : Fin 16) (t : ElemType) (k : Fin 8) (u : Bool)
  /-- VNOT (R172). -/
  | vnot (d : Fin 256) (a : Fin 16) (t : ElemType) (k : Fin 8) (u : Bool)
  /-- VCLZ (R172). -/
  | vclz (d : Fin 256) (a : Fin 16) (t : ElemType) (k : Fin 8) (u : Bool)
  /-- VPOPC (R172). -/
  | vpopc (d : Fin 256) (a : Fin 16) (t : ElemType) (k : Fin 8) (u : Bool)
  /-- CVT.RNE (R173). -/
  | cvtRne (d : Fin 256) (a : Fin 16) (s t : ElemType) (k : Fin 8) (u : Bool)
  /-- CVTS.RNE (R173). -/
  | cvtsRne (d : Fin 256) (a : Fin 16) (s t : ElemType) (k : Fin 8) (u : Bool)
  /-- CVT.RTZ (R173). -/
  | cvtRtz (d : Fin 256) (a : Fin 16) (s t : ElemType) (k : Fin 8) (u : Bool)
  /-- CVTS.RTZ (R173). -/
  | cvtsRtz (d : Fin 256) (a : Fin 16) (s t : ElemType) (k : Fin 8) (u : Bool)
  /-- CVT.RUP (R173). -/
  | cvtRup (d : Fin 256) (a : Fin 16) (s t : ElemType) (k : Fin 8) (u : Bool)
  /-- CVTS.RUP (R173). -/
  | cvtsRup (d : Fin 256) (a : Fin 16) (s t : ElemType) (k : Fin 8) (u : Bool)
  /-- CVT.RDN (R173). -/
  | cvtRdn (d : Fin 256) (a : Fin 16) (s t : ElemType) (k : Fin 8) (u : Bool)
  /-- CVTS.RDN (R173). -/
  | cvtsRdn (d : Fin 256) (a : Fin 16) (s t : ElemType) (k : Fin 8) (u : Bool)
  /-- QPACK (R176). -/
  | qpack (d : Fin 256) (a : Fin 16) (p : Fin 8) (b : Fin 4) (f : Bool) (k : Fin 8) (u : Bool)
  /-- QUNPACK (R177). -/
  | qunpack (d : Fin 256) (a : Fin 16) (p : Fin 8) (b : Fin 4) (m : RoundMode) (f : Bool) (k : Fin 8) (u : Bool)
  /-- KAND (R178). -/
  | kand (d : Fin 256) (a b k : Fin 8)
  /-- KOR (R178). -/
  | kor (d : Fin 256) (a b k : Fin 8)
  /-- KXOR (R178). -/
  | kxor (d : Fin 256) (a b k : Fin 8)
  /-- KANDN (R178). -/
  | kandn (d : Fin 256) (a b k : Fin 8)
  /-- KNOT (R178). -/
  | knot (d : Fin 256) (a k : Fin 8)
  /-- KMOV (R178). -/
  | kmov (d : Fin 256) (a k : Fin 8)
  /-- KPOP (R178). -/
  | kpop (d : Fin 256) (k : Fin 8)
  /-- SEL (R179). -/
  | selExecute (d : Fin 256) (a b : Fin 16) (k : Fin 8) (u v : Bool)
  /-- RSUM (R180). -/
  | rsum (d : Fin 256) (a : Fin 16) (t : ElemType) (k : Fin 8) (u : Bool)
  /-- RMAX (R180). -/
  | rmax (d : Fin 256) (a : Fin 16) (t : ElemType) (k : Fin 8) (u : Bool)
  /-- RMIN (R180). -/
  | rmin (d : Fin 256) (a : Fin 16) (t : ElemType) (k : Fin 8) (u : Bool)
  /-- RISUM (R180). -/
  | risum (d : Fin 256) (a : Fin 16) (t : ElemType) (k : Fin 8) (u : Bool)
  /-- RISUMS (R180). -/
  | risums (d : Fin 256) (a : Fin 16) (t : ElemType) (k : Fin 8) (u : Bool)
  /-- PERM (R181). -/
  | perm (d : Fin 256) (a b : Fin 16) (t : ElemType) (k : Fin 8) (u v : Bool)
  /-- ROT (R182). -/
  | rot (d : Fin 256) (a : Fin 16) (n : Fin 256) (k : Fin 8) (u : Bool)
  /-- SHUF (R183). -/
  | shuf (d : Fin 256) (a : Fin 16) (p : ShufPattern) (t : ElemType) (k : Fin 8) (u : Bool)
  /-- SLIDE (R184). -/
  | slide (d : Fin 256) (a b n : Fin 16) (k : Fin 8) (u v : Bool)
  /-- VLOOP (R185). -/
  | vloop (v : LoopLevel) (n : Fin 4096)
  /-- MMA (R204). -/
  | mma (a b : Fin 32) (f : Fin 64) (rec : ShapeRec)
  /-- MMA.SP (R204). -/
  | mmaSp (a b c : Fin 32) (f : Fin 64) (rec : ShapeRec)
  /-- MKAT (R211). -/
  | mkat (a : Fin 32) (f : Fin 64) (rec : ShapeRec)
  /-- COPY (R269). -/
  | copy (a b c : Fin 32) (f : Fin 64) (rec : ShapeRec)
  /-- COPYS (R268). -/
  | copys (a b c : Fin 32) (f : Fin 64) (rec : ShapeRec)
  /-- COPY.DEC (R273). -/
  | copyDec (a b : Fin 32) (f : Fin 64) (rec : ShapeRec)
  /-- FILL (R271). -/
  | fill (a b : Fin 32) (f : Fin 64) (rec : ShapeRec)
  /-- COPY.PEER (R276). -/
  | copyPeer (a b c : Fin 32) (f : Fin 64) (rec : ShapeRec)
  /-- WRQ (R277). -/
  | wrq (a b c : Fin 32) (f : Fin 64) (rec : ShapeRec)
  /-- DTAB (R274). -/
  | dtab (a : Fin 32) (f : Fin 64) (rec : ShapeRec)
  /-- VLDS (R259). -/
  | vlds (a : Fin 32) (rec : ShapeRec)
  /-- VSTS (R259). -/
  | vsts (a : Fin 32) (rec : ShapeRec)
  /-- SBIND (R312). -/
  | sbind (a b c : Fin 32) (f : Fin 64) (rec : ShapeRec)
  /-- TILE.COMMIT (R341). -/
  | tileCommit (a b c : Fin 32) (f : Fin 64) (rec : ShapeRec)
  /-- ALIGN.SET (R343). -/
  | alignSet (a b : Fin 32) (f : Fin 64) (rec : ShapeRec)
  /-- TSHAPE_WRITE (R102). -/
  | tshapeWrite (v : Word)
  /-- FPMODE_WRITE (R38). -/
  | fpmodeWrite (v : Word)
  /-- TIMECMP_WRITE (R412). -/
  | timecmpWrite (v : Word)
  /-- LOOP_REGISTER_WRITE (R148). -/
  | loopRegisterWrite (r : Fin 64) (v : Word)
  /-- SLACKTAB_WRITE (R288). -/
  | slacktabWrite (i : Fin 3) (v : Word)
  /-- POWER_GOOD (R432). -/
  | powerGood
  /-- RECOVERY_IMAGE_WRITE (R433). -/
  | recoveryImageWrite (slot : Fin 2) (image : List Byte)
  /-- QUOTE_REQUEST (R434). -/
  | quoteRequest (v : Word)
  /-- QUOTE_DONE (R434). -/
  | quoteDone
  /-- HOUSEKEEPING_WRITE (R437). -/
  | housekeepingWrite (off n : Nat) (v : Word)
  /-- STASHCFG_WRITE (R219). -/
  | stashcfgWrite (core : Fin 128) (v : Word)
  /-- CTC_TICK (R318). -/
  | ctcTick
  /-- CTCRATE_WRITE (R319). -/
  | ctcrateWrite (v : Word)
  /-- CTCOFS_WRITE (R319). -/
  | ctcofsWrite (v : Word)
  /-- RING_INSTALL (R435). -/
  | ringInstall (ring : Fin 256) (cfg : Word)
  /-- RING_REMOVE (R435). -/
  | ringRemove (ring : Fin 256)
  /-- TAIL_WRITE (R76). -/
  | tailWrite (ring : Fin 256) (v : Word32)
  /-- ADMISSION_TURN (R77). -/
  | admissionTurn
  /-- RING_STALL_EPISODE (R81). -/
  | ringStallEpisode (ring : Fin 256)
  /-- MATCH_ENTRY_ARM (R83). -/
  | matchEntryArm (e : Fin 64)
  /-- MATCH_WRITE_ARRIVAL (R83). -/
  | matchWriteArrival (tag : Word32) (asid : BitVec 16) (n : Nat)
  /-- DEADLINE_PASS (R85). -/
  | deadlinePass (slot : Fin 64)
  /-- WALKER_STEP (R89). -/
  | walkerStep
  /-- AFFINITY_EXPIRY (R91). -/
  | affinityExpiry (grp : Fin 4) (n : Nat)
  /-- COMMON_QUEUE_MOVE (R91). -/
  | commonQueueMove
  /-- DISPATCH (R84). -/
  | dispatch (core : Fin 128)
  /-- SCHEDULER_PREEMPT (R87). -/
  | schedulerPreempt
  /-- PREEMPT_HALT (R400). -/
  | preemptHalt
  /-- SAVE_COMPLETE (R400). -/
  | saveComplete
  /-- TSPAWN_ENQUEUE (R364). -/
  | tspawnEnqueue
  /-- BANK_REFILL (R93). -/
  | bankRefill (cluster : Fin 32) (bank : Fin 4)
  /-- UNIT_RETIRE (R48). -/
  | unitRetire
  /-- JOB_END (R422). -/
  | jobEnd (asid : BitVec 16)
  /-- JOB_CANCEL (R422). -/
  | jobCancel (asid : BitVec 16)
  /-- JOB_ACTIVATE (R422). -/
  | jobActivate (asid : BitVec 16)
  /-- JOB_HOLD (R422). -/
  | jobHold (asid : BitVec 16)
  /-- JOB_RETIRE (R422). -/
  | jobRetire (asid : BitVec 16)
  /-- CHANNEL_INSTALL (R324). -/
  | channelInstall (ch : Fin 264) (ctl : Word)
  /-- FAULT_REPLY (R436). -/
  | faultReply (asid : BitVec 16) (token : Word32) (retry : Bool)
  /-- PAGE_WALK_COMPLETE (R234). -/
  | pageWalkComplete (n : Nat)
  /-- LOAD_REPLY (R253). -/
  | loadReply (n : Nat)
  /-- RESULT_LAND (R112). -/
  | resultLand
  /-- VOTE_POP (R150). -/
  | votePop
  /-- ARBITER_GRANT (R291). -/
  | arbiterGrant (arb : ArbId)
  /-- SLACK_DECREMENT (R289). -/
  | slackDecrement (n : Nat)
  /-- NO_URGENCY_PROMOTION (R289). -/
  | noUrgencyPromotion (n : Nat)
  /-- SLICE_REQUEST_GRANT (R285). -/
  | sliceRequestGrant (slice : Fin 64)
  /-- SLICE_FILL_COMPLETE (R223). -/
  | sliceFillComplete (slice : Fin 64)
  /-- WINDOW_ACCESS_SERVE (R441). -/
  | windowAccessServe (core : Fin 128)
  /-- FENCE_MARKER_RETIRE (R297). -/
  | fenceMarkerRetire (slice : Fin 64)
  /-- FLIT_CRC_REPLAY (R404). -/
  | flitCrcReplay (east : Bool) (lane : Fin 24) (station : Fin 15) (failed : Bool)
  /-- GAUNTLET_GRANT (R192). -/
  | gauntletGrant (cluster : Fin 32)
  /-- LEASE_SLACK_DECREMENT (R191). -/
  | leaseSlackDecrement (core : Fin 128)
  /-- TERM_CLOCK_EXPIRY (R199). -/
  | termClockExpiry (cluster : Fin 32)
  /-- TERM_IDLE_EXPIRY (R193). -/
  | termIdleExpiry (cluster : Fin 32)
  /-- MATRIX_PASS_END (R198). -/
  | matrixPassEnd
  /-- MATRIX_COMMAND_COMPLETE (R204). -/
  | matrixCommandComplete
  /-- MZERO_COMPLETE (R207). -/
  | mzeroComplete
  /-- MOUT_COMPLETE (R208). -/
  | moutComplete
  /-- SELFTEST_COMPLETE (R407). -/
  | selftestComplete (res : Resource) (lasting : Bool)
  /-- COPY_START (R269). -/
  | copyStart (n : Nat)
  /-- COPY_COMPLETE (R275). -/
  | copyComplete (n : Nat)
  /-- PEER_WRITE_ARRIVAL (R276). -/
  | peerWriteArrival (pw : PeerWrite)
  /-- WRQ_ARRIVAL (R277). -/
  | wrqArrival (msg : WrqMsg)
  /-- PEER_ACK (R276). -/
  | peerAck (n : Nat) (reply : PeerReply)
  /-- MIRROR_ARRIVAL (R426). -/
  | mirrorArrival (msg : MirrorMsg)
  /-- MIRROR_ACK (R413). -/
  | mirrorAck (reply : PeerReply)
  /-- STREAM_FLIT_LAND (R309). -/
  | streamFlitLand (turn : Fin 256 × Bool)
  /-- FLOW_SIGNAL_ARRIVAL (R309). -/
  | flowSignalArrival (stream : Fin 256)
  /-- CONTEXT_END (R302). -/
  | contextEnd
  /-- CAMERA_FRAME_START (R326). -/
  | cameraFrameStart (ch : Fin 256)
  /-- EMBEDDED_HEADER (R326). -/
  | embeddedHeader (ch : Fin 256) (width height : BitVec 16)
  /-- CAMERA_LINE (R330). -/
  | cameraLine (ch : Fin 256) (num dt : Nat) (crcOk : Bool) (first : Word) (elems : List (BitVec 16))
  /-- CAMERA_FRAME_END (R327). -/
  | cameraFrameEnd (ch : Fin 256)
  /-- LIDAR_PACKET (R327). -/
  | lidarPacket (port : Fin 8) (payload : List Byte) (udpOk : Bool) (first : Word)
  /-- ETHERNET_FRAME (R322). -/
  | ethernetFrame (port : Fin 8) (frame : List Byte) (fcsOk : Bool) (first : Word)
  /-- PTP_EGRESS (R323). -/
  | ptpEgress (port : Fin 8) (header message : List Byte) (oneStep : Bool)
  /-- OTHER_PACKET_DISCARD (R320). -/
  | otherPacketDiscard (port : Fin 16) (vc : Fin 32)
  /-- ROW_DEADLINE_EXPIRY (R329). -/
  | rowDeadlineExpiry (ch : Fin 264)
  /-- LIDAR_FRAME_TIMEOUT (R327). -/
  | lidarFrameTimeout (port : Fin 8)
  /-- TILE_COMMIT_COMPLETE (R341). -/
  | tileCommitComplete (n : Nat)
  /-- SET_TIMEOUT (R345). -/
  | setTimeout (grp : Fin 16)
  /-- TIMER_EXPIRY (R412). -/
  | timerExpiry
  /-- TRAP_ENTRY (R393). -/
  | trapEntry
  /-- UNWIND (R406). -/
  | unwind
  /-- UNIT_FAIL (R401). -/
  | unitFail
  /-- CANCEL_STOP (R370). -/
  | cancelStop
  /-- HEARTBEAT_SEND (R427). -/
  | heartbeatSend
  /-- HEARTBEAT_RECEIVE (R427). -/
  | heartbeatReceive (ctc : Word) (part : Bool)
  /-- PEER_LOST_TIMEOUT (R428). -/
  | peerLostTimeout
  /-- LINK_ENABLE (R437). -/
  | linkEnable
  /-- LINK_TRAINED (R421). -/
  | linkTrained
  /-- LINK_FLIT_REPLAY (R423). -/
  | linkFlitReplay
  /-- LINK_RETRAIN (R423). -/
  | linkRetrain
  /-- RETRAIN_TIMEOUT (R425). -/
  | retrainTimeout
  /-- LINK_IDLE_TIMEOUT (R425). -/
  | linkIdleTimeout
  /-- FATAL_NOTICE_RECEIVE (R425). -/
  | fatalNoticeReceive
  /-- THROTTLE_START (R438). -/
  | throttleStart (temp : BitVec 8) (power : BitVec 16)
  /-- THROTTLE_END (R438). -/
  | throttleEnd (temp : BitVec 8) (power : BitVec 16)
  /-- OVERHEAT (R438). -/
  | overheat (temp : BitVec 8)
  /-- BOOT_WATCHDOG_STALL (R438). -/
  | bootWatchdogStall
  /-- DISPATCH_ECC (R438). -/
  | dispatchEcc (place : BitVec 8)
  /-- DEBUG_HALT (R439). -/
  | debugHalt
  /-- DEBUG_RESUME (R439). -/
  | debugResume
  /-- LINK_RETRAINED (R423). -/
  | linkRetrained
  /-- IDLE_FLIT_SEND (R425). -/
  | idleFlitSend
  /-- IDLE_FLIT_RECEIVE (R425). -/
  | idleFlitReceive
  /-- LINK_FLIT_ACKNOWLEDGMENT (R423). -/
  | linkFlitAcknowledgment (upTo : Nat)
  /-- WRITE_ACKNOWLEDGMENT (R285). -/
  | writeAcknowledgment (n : Nat)
  /-- CAMERA_LINK_TRAINING (R320). -/
  | cameraLinkTraining (port : Fin 16) (gear : Nat)
  /-- CONTROL_MESSAGE_PASS_THROUGH (R320). -/
  | controlMessagePassThrough (port : Fin 16) (message : List Byte)
  deriving DecidableEq, Repr

end Sys2Proof
end

