-- ==== Sys2Proof/Config.lean ====
section
/-! DEFINITION. What an implementation fixes and what the manual leaves open: constants with no body, so that no proof can
see a value of them. Each is named in the assumption log. -/

namespace Sys2Proof

/-- Who moves next: the control slice or the execute slice of a context, or an event seen by that context (for events of the
part the context plays no role). Contexts 0 to 127 are the control cores; 128 + 4·gid + x is context x of Gusset gid (R10, R301). -/
inductive Move where
  | slice (side : Slice) (ctx : Nat)
  | event (ctx : Nat) (e : Instr)
  deriving DecidableEq, Repr, Inhabited

/-- One thing that happens next: a move of the part, or an act of the outside world. -/
inductive Input where
  | move (m : Move)
  /-- The application cores write DRAM bytes (R230). -/
  | hostStore (pa : Nat) (bytes : List Byte)
  /-- A DRAM word becomes uncorrectable (R403). -/
  | upset (pa : Nat)
  /-- A resource's storage reports an error, which starts its targeted self-test (R403, R407). -/
  | storageError (r : Resource)
  /-- A single-bit error in a core's or a Gusset's storage is corrected (R403). -/
  | corrected (r : Resource)
  /-- A word of a context's window becomes uncorrectable (R403). -/
  | windowUpset (ctx off : Nat)
  /-- The execute instruction that a context would issue next reads an uncorrectable word of its files, queues or latches (R403). -/
  | registerError (ctx : Nat)
  /-- The matrix command that a context would run next reads an uncorrectable word of its tile (R403). -/
  | tileError (ctx : Nat)
  /-- A level of the TLBs replaces its n-th translation, and a strip its n-th non-leaf entry (R240, R241, R243). -/
  | evict (n : Nat)
  | evictWalk (n : Nat)
  /-- A level of the TLBs keeps the translation that a walk for an engine, or for the part itself, finds now (R187, R240, R241). -/
  | fill (level : Nat) (asid : BitVec 16) (va : Nat)
  /-- The slices issue nothing and nothing happens. -/
  | idle
  deriving DecidableEq, Repr, Inhabited

namespace Config

/-- The order in which the parties of the part move where no rule fixes it, by the number of moves made so far: the
interleaving of slices, engines, chains, sensors, host and peer is free (assumption 2). -/
opaque schedule : Nat → Input

/-- FTANH and FSIG are faithful: which of the two neighbours is returned depends only on the format and the operand's
magnitude or bits, and is the same on every run (R45, R47; assumption 20). The first argument is the fraction width. -/
opaque tanhUp : Nat → Nat → Bool
opaque sigUp : Nat → Nat → Bool

/-- The order in which the lanes of one VRADD add to one element, by draw and lane (R257; assumption 22). -/
opaque addOrder : Nat → Nat → Nat

/-- How many of a row's elements are performed at a time, by draw (R250; assumption 115). -/
opaque pieces : Nat → Nat

/-- Whether the unit with a sequence number of the launch with an admission number fetches the code word at an address, written since
that admission, as the old word (R62; assumption 15). -/
opaque seesOld : Nat → Nat → Nat → Bool

/-- Clocks left in a core's term as MSTAT.TCLK shows them: clocks are not modelled (R209; assumption 3). -/
opaque termClocks : Nat → Nat

/-- How many requests of an engine operation came back late, by draw (R293; assumption 21). -/
opaque lateRequests : Nat → Nat

/-- Ed25519 verification, against the fused key hash, of the bytes that a boot image's signature covers and of the signature (R433, R443;
assumption 31). -/
opaque ed25519Ok : List Byte → List Byte → Bool

/-- ML-DSA-65 verification, against the second fused key hash, of the same bytes and of the signature (R433, R443). -/
opaque mldsa65Ok : List Byte → List Byte → Bool

/-- SHA-384 of a byte string (R432, R434, R443): 48 bytes. -/
opaque sha384 : List Byte → BitVec 384

/-- The Ed25519 public key derived from the fused secret and a measurement (R434): 32 bytes. -/
opaque ed25519Key : BitVec 384 → BitVec 256

/-- The ML-DSA-65 public key derived from the fused secret and a measurement (R434): 1,952 bytes. -/
opaque mldsa65Key : BitVec 384 → BitVec 15616

/-- The Ed25519 signature over a message under the key of a measurement (R434): 64 bytes. -/
opaque ed25519Sign : BitVec 384 → List Byte → BitVec 512

/-- The ML-DSA-65 signature over a message under the key of a measurement (R434): 3,309 bytes. -/
opaque mldsa65Sign : BitVec 384 → List Byte → BitVec 26472

/-- The fused minimum image version (R433). -/
opaque fusedMinVersion : Nat

/-- The fused device serial number (R434). -/
opaque deviceId : Word

/-- Whether the image with a measurement permits debug (R439). -/
opaque permitsDebug : BitVec 384 → Bool

/-- Installed DRAM in GiB less one, 0 to 127, as training finds it (R432, R437). -/
opaque installedDram : Fin 128

/-- The strap that gives COREID.PART (R415). -/
opaque partStrap : Bool

/-- A word the manual leaves open, by draw: the ADDR of a record of an operation that no address made fail (assumption 33). -/
opaque freeWord : Nat → Word

/-- A choice of two that the manual leaves open, by draw: whether STOUCH brings its line in, and whether a byte that an overlapping
copy has read stays as it stood before the copy's own write to it or is as written (R265, R268; assumption 23). -/
opaque coin : Nat → Bool

end Config

end Sys2Proof
end

