-- ==== Sys2Proof/Decode.lean ====
section
/-! DEFINITION. Decoding of instruction words and the encoder, both written from the encoding tables of R115 to R126. -/

namespace Sys2Proof

/-! The code of each named kind (R70, R123, R125, R183, R260). -/

def CmpCond.code : CmpCond → Nat
  | .eq => 0 | .ne => 1 | .lt => 2 | .ge => 3 | .ltu => 4 | .geu => 5
def CmpCond.ofCode : Nat → Option CmpCond
  | 0 => some .eq | 1 => some .ne | 2 => some .lt | 3 => some .ge | 4 => some .ltu | 5 => some .geu | _ => none

def FCond.code : FCond → Nat
  | .eq => 0 | .ne => 1 | .lt => 2 | .le => 3 | .un => 4
def FCond.ofCode : Nat → Option FCond
  | 0 => some .eq | 1 => some .ne | 2 => some .lt | 3 => some .le | 4 => some .un | _ => none

def ICond.code : ICond → Nat
  | .eq => 0 | .ne => 1 | .lt => 2 | .le => 3
def ICond.ofCode : Nat → Option ICond
  | 0 => some .eq | 1 => some .ne | 2 => some .lt | 3 => some .le | _ => none

def ElemType.code : ElemType → Nat
  | .z8 => 0 | .z16 => 1 | .z32 => 2 | .z64 => 3 | .s8 => 4 | .s16 => 5 | .s32 => 6 | .s64 => 7
  | .q => 8 | .bf16 => 9 | .f16 => 10 | .f32 => 11
def ElemType.ofCode : Nat → Option ElemType
  | 0 => some .z8 | 1 => some .z16 | 2 => some .z32 | 3 => some .z64 | 4 => some .s8 | 5 => some .s16
  | 6 => some .s32 | 7 => some .s64 | 8 => some .q | 9 => some .bf16 | 10 => some .f16 | 11 => some .f32
  | _ => none

def AmoOp.code : AmoOp → Nat
  | .swap => 0 | .add => 1 | .and => 2 | .or => 3 | .xor => 4 | .min => 5 | .max => 6 | .minu => 7
  | .maxu => 8 | .fadd => 9
def AmoOp.ofCode : Nat → Option AmoOp
  | 0 => some .swap | 1 => some .add | 2 => some .and | 3 => some .or | 4 => some .xor | 5 => some .min
  | 6 => some .max | 7 => some .minu | 8 => some .maxu | 9 => some .fadd | _ => none

def Scope.code : Scope → Nat
  | .core => 0 | .cluster => 1 | .chip => 2 | .pair => 3
def Scope.ofCode : Nat → Option Scope
  | 0 => some .core | 1 => some .cluster | 2 => some .chip | 3 => some .pair | _ => none

def CancelLevel.code : CancelLevel → Nat
  | .unit => 0 | .launch => 1 | .graph => 2 | .phase => 3 | .job => 4
def CancelLevel.ofCode : Nat → Option CancelLevel
  | 0 => some .unit | 1 => some .launch | 2 => some .graph | 3 => some .phase | 4 => some .job | _ => none

def LoopLevel.code : LoopLevel → Nat
  | .A => 0 | .B => 1
def LoopLevel.ofCode : Nat → Option LoopLevel
  | 0 => some .A | 1 => some .B | _ => none

def RoundMode.code : RoundMode → Nat
  | .rne => 0 | .rtz => 1 | .rup => 2 | .rdn => 3
def RoundMode.ofCode : Nat → Option RoundMode
  | 0 => some .rne | 1 => some .rtz | 2 => some .rup | 3 => some .rdn | _ => none

def ShufPattern.code : ShufPattern → Nat
  | .deint => 0 | .inter => 1 | .rev => 2 | .swap1 => 3 | .half => 4 | .tr4 => 5
def ShufPattern.ofCode : Nat → Option ShufPattern
  | 0 => some .deint | 1 => some .inter | 2 => some .rev | 3 => some .swap1 | 4 => some .half | 5 => some .tr4
  | _ => none

/-- Bits hi to lo of a word read as a number (R2). -/
def bits (w hi lo : Nat) : Nat := w / 2 ^ lo % 2 ^ (hi + 1 - lo)

/-- A field of a word as an index of its own width. -/
def fin {n : Nat} [NeZero n] (w hi lo : Nat) : Fin n := Fin.ofNat n (bits w hi lo)

/-- Why a word is no instruction; each raises ILLEGAL (R121). -/
inductive DecodeError where
  /-- The major is reserved. -/
  | reservedMajor
  /-- The function or SUB code is not assigned. -/
  | unassignedFunction
  /-- A reserved or unused field is not zero, or no function code matches. -/
  | reservedField
  /-- A condition, type, scope, level, operation or pattern code is not assigned. -/
  | unassignedValue
  /-- Fewer bytes than the instruction has. -/
  | truncated
  deriving DecidableEq, Repr

/-- Continue with an assigned code, or name the unassigned one. -/
def named {α : Type} (o : Option α) (f : α → Except DecodeError Instr) : Except DecodeError Instr :=
  match o with
  | some x => f x
  | none => .error .unassignedValue

/-- Major 0x00: ADD, SUB, AND, OR, …. -/
def decodeMajor00 (w : Nat) : Except DecodeError Instr :=
    if bits w 9 0 = 0 then .ok (.add (fin w 24 20) (fin w 19 15) (fin w 14 10))
    else if bits w 9 0 = 1 then .ok (.sub (fin w 24 20) (fin w 19 15) (fin w 14 10))
    else if bits w 9 0 = 2 then .ok (.and (fin w 24 20) (fin w 19 15) (fin w 14 10))
    else if bits w 9 0 = 3 then .ok (.or (fin w 24 20) (fin w 19 15) (fin w 14 10))
    else if bits w 9 0 = 4 then .ok (.xor (fin w 24 20) (fin w 19 15) (fin w 14 10))
    else if bits w 9 0 = 5 then .ok (.andn (fin w 24 20) (fin w 19 15) (fin w 14 10))
    else if bits w 9 0 = 6 then .ok (.shl (fin w 24 20) (fin w 19 15) (fin w 14 10))
    else if bits w 9 0 = 7 then .ok (.shr (fin w 24 20) (fin w 19 15) (fin w 14 10))
    else if bits w 9 0 = 8 then .ok (.sra (fin w 24 20) (fin w 19 15) (fin w 14 10))
    else if bits w 9 0 = 9 then .ok (.slt (fin w 24 20) (fin w 19 15) (fin w 14 10))
    else if bits w 9 0 = 10 then .ok (.sltu (fin w 24 20) (fin w 19 15) (fin w 14 10))
    else if bits w 9 0 = 11 then .ok (.min (fin w 24 20) (fin w 19 15) (fin w 14 10))
    else if bits w 9 0 = 12 then .ok (.minu (fin w 24 20) (fin w 19 15) (fin w 14 10))
    else if bits w 9 0 = 13 then .ok (.max (fin w 24 20) (fin w 19 15) (fin w 14 10))
    else if bits w 9 0 = 14 then .ok (.maxu (fin w 24 20) (fin w 19 15) (fin w 14 10))
    else if bits w 9 0 = 16 then .ok (.mul (fin w 24 20) (fin w 19 15) (fin w 14 10))
    else if bits w 9 0 = 17 then .ok (.mulh (fin w 24 20) (fin w 19 15) (fin w 14 10))
    else if bits w 9 0 = 18 then .ok (.mulhu (fin w 24 20) (fin w 19 15) (fin w 14 10))
    else if bits w 9 0 = 20 then .ok (.div (fin w 24 20) (fin w 19 15) (fin w 14 10))
    else if bits w 9 0 = 21 then .ok (.divu (fin w 24 20) (fin w 19 15) (fin w 14 10))
    else if bits w 9 0 = 22 then .ok (.rem (fin w 24 20) (fin w 19 15) (fin w 14 10))
    else if bits w 9 0 = 23 then .ok (.remu (fin w 24 20) (fin w 19 15) (fin w 14 10))
    else if bits w 14 0 = 24 then .ok (.clz (fin w 24 20) (fin w 19 15))
    else if bits w 14 0 = 25 then .ok (.popc (fin w 24 20) (fin w 19 15))
    else if bits w 9 3 = 4 then .ok (.addsh (fin w 24 20) (fin w 19 15) (fin w 14 10) (fin w 2 0))
    else if bits w 9 2 = 10 then .ok (.sel (fin w 24 20) (fin w 19 15) (fin w 14 10) (fin w 1 0))
    else .error .reservedField

/-- Major 0x01: ADDI. -/
def decodeMajor01 (w : Nat) : Except DecodeError Instr :=
    .ok (.addi (fin w 24 20) (fin w 19 15) (BitVec.ofNat 15 (bits w 14 0)))

/-- Major 0x02: ANDI. -/
def decodeMajor02 (w : Nat) : Except DecodeError Instr :=
    .ok (.andi (fin w 24 20) (fin w 19 15) (BitVec.ofNat 15 (bits w 14 0)))

/-- Major 0x03: ORI. -/
def decodeMajor03 (w : Nat) : Except DecodeError Instr :=
    .ok (.ori (fin w 24 20) (fin w 19 15) (BitVec.ofNat 15 (bits w 14 0)))

/-- Major 0x04: XORI. -/
def decodeMajor04 (w : Nat) : Except DecodeError Instr :=
    .ok (.xori (fin w 24 20) (fin w 19 15) (BitVec.ofNat 15 (bits w 14 0)))

/-- Major 0x05: SHLI, SHRI, SRAI. -/
def decodeMajor05 (w : Nat) : Except DecodeError Instr :=
    if bits w 14 6 = 0 then .ok (.shli (fin w 24 20) (fin w 19 15) (fin w 5 0))
    else if bits w 14 6 = 128 then .ok (.shri (fin w 24 20) (fin w 19 15) (fin w 5 0))
    else if bits w 14 6 = 256 then .ok (.srai (fin w 24 20) (fin w 19 15) (fin w 5 0))
    else .error .reservedField

/-- Major 0x06: BFX, BFX.sx. -/
def decodeMajor06 (w : Nat) : Except DecodeError Instr :=
    if bits w 14 12 = 0 then .ok (.bfx (fin w 24 20) (fin w 19 15) (fin w 11 6) (fin w 5 0))
    else if bits w 14 12 = 1 then .ok (.bfxSx (fin w 24 20) (fin w 19 15) (fin w 11 6) (fin w 5 0))
    else .error .reservedField

/-- Major 0x07: BFI. -/
def decodeMajor07 (w : Nat) : Except DecodeError Instr :=
    if bits w 14 12 = 0 then .ok (.bfi (fin w 24 20) (fin w 19 15) (fin w 11 6) (fin w 5 0))
    else .error .reservedField

/-- Major 0x08: LI. -/
def decodeMajor08 (w : Nat) : Except DecodeError Instr :=
    .ok (.li (fin w 24 20) (BitVec.ofNat 20 (bits w 19 0)))

/-- Major 0x09: LIH. -/
def decodeMajor09 (w : Nat) : Except DecodeError Instr :=
    .ok (.lih (fin w 24 20) (BitVec.ofNat 20 (bits w 19 0)))

/-- Major 0x0A: CMP. -/
def decodeMajor0A (w : Nat) : Except DecodeError Instr :=
    if bits w 24 22 = 0 ∧ bits w 9 3 = 0 then named (CmpCond.ofCode (bits w 2 0)) fun x => .ok (.cmp (fin w 21 20) (fin w 19 15) (fin w 14 10) x)
    else .error .reservedField

/-- Major 0x0B: CMP. -/
def decodeMajor0B (w : Nat) : Except DecodeError Instr :=
    named (CmpCond.ofCode (bits w 24 22)) fun x => .ok (.cmpImm x (fin w 21 20) (fin w 19 15) (BitVec.ofNat 15 (bits w 14 0)))

/-- Major 0x0C: PBR. -/
def decodeMajor0C (w : Nat) : Except DecodeError Instr :=
    .ok (.pbr (fin w 24 23) (BitVec.ofNat 23 (bits w 22 0)))

/-- Major 0x0D: PBRG. -/
def decodeMajor0D (w : Nat) : Except DecodeError Instr :=
    if bits w 24 22 = 0 ∧ bits w 14 0 = 0 then .ok (.pbrg (fin w 21 20) (fin w 19 15))
    else .error .reservedField

/-- Major 0x10: LD.z8. -/
def decodeMajor10 (w : Nat) : Except DecodeError Instr :=
    .ok (.ldZ8 (fin w 24 20) (fin w 19 15) (fin w 14 11) (fin w 10 8) (BitVec.ofNat 8 (bits w 7 0)))

/-- Major 0x11: LD.z16. -/
def decodeMajor11 (w : Nat) : Except DecodeError Instr :=
    .ok (.ldZ16 (fin w 24 20) (fin w 19 15) (fin w 14 11) (fin w 10 8) (BitVec.ofNat 8 (bits w 7 0)))

/-- Major 0x12: LD.z32. -/
def decodeMajor12 (w : Nat) : Except DecodeError Instr :=
    .ok (.ldZ32 (fin w 24 20) (fin w 19 15) (fin w 14 11) (fin w 10 8) (BitVec.ofNat 8 (bits w 7 0)))

/-- Major 0x13: LD.z64. -/
def decodeMajor13 (w : Nat) : Except DecodeError Instr :=
    .ok (.ldZ64 (fin w 24 20) (fin w 19 15) (fin w 14 11) (fin w 10 8) (BitVec.ofNat 8 (bits w 7 0)))

/-- Major 0x14: LD.s8. -/
def decodeMajor14 (w : Nat) : Except DecodeError Instr :=
    .ok (.ldS8 (fin w 24 20) (fin w 19 15) (fin w 14 11) (fin w 10 8) (BitVec.ofNat 8 (bits w 7 0)))

/-- Major 0x15: LD.s16. -/
def decodeMajor15 (w : Nat) : Except DecodeError Instr :=
    .ok (.ldS16 (fin w 24 20) (fin w 19 15) (fin w 14 11) (fin w 10 8) (BitVec.ofNat 8 (bits w 7 0)))

/-- Major 0x16: LD.s32. -/
def decodeMajor16 (w : Nat) : Except DecodeError Instr :=
    .ok (.ldS32 (fin w 24 20) (fin w 19 15) (fin w 14 11) (fin w 10 8) (BitVec.ofNat 8 (bits w 7 0)))

/-- Major 0x17: ST.z8. -/
def decodeMajor17 (w : Nat) : Except DecodeError Instr :=
    .ok (.stZ8 (fin w 24 20) (fin w 19 15) (fin w 14 11) (fin w 10 8) (BitVec.ofNat 8 (bits w 7 0)))

/-- Major 0x18: ST.z16. -/
def decodeMajor18 (w : Nat) : Except DecodeError Instr :=
    .ok (.stZ16 (fin w 24 20) (fin w 19 15) (fin w 14 11) (fin w 10 8) (BitVec.ofNat 8 (bits w 7 0)))

/-- Major 0x19: ST.z32. -/
def decodeMajor19 (w : Nat) : Except DecodeError Instr :=
    .ok (.stZ32 (fin w 24 20) (fin w 19 15) (fin w 14 11) (fin w 10 8) (BitVec.ofNat 8 (bits w 7 0)))

/-- Major 0x1A: ST.z64. -/
def decodeMajor1A (w : Nat) : Except DecodeError Instr :=
    .ok (.stZ64 (fin w 24 20) (fin w 19 15) (fin w 14 11) (fin w 10 8) (BitVec.ofNat 8 (bits w 7 0)))

/-- Major 0x1B: VLD. -/
def decodeMajor1B (w : Nat) : Except DecodeError Instr :=
    .ok (.vld (fin w 24 20) (fin w 19 15) (fin w 14 11) (fin w 10 8) (BitVec.ofNat 8 (bits w 7 0)))

/-- Major 0x1C: VST. -/
def decodeMajor1C (w : Nat) : Except DecodeError Instr :=
    .ok (.vst (fin w 24 20) (fin w 19 15) (fin w 14 11) (fin w 10 8) (BitVec.ofNat 8 (bits w 7 0)))

/-- Major 0x1D: VGATHER. -/
def decodeMajor1D (w : Nat) : Except DecodeError Instr :=
    if bits w 7 0 = 0 then .ok (.vgather (fin w 24 20) (fin w 19 15) (fin w 14 11) (fin w 10 8))
    else .error .reservedField

/-- Major 0x1E: VSCATTER. -/
def decodeMajor1E (w : Nat) : Except DecodeError Instr :=
    if bits w 7 0 = 0 then .ok (.vscatter (fin w 24 20) (fin w 19 15) (fin w 14 11) (fin w 10 8))
    else .error .reservedField

/-- Major 0x1F: VRADD. -/
def decodeMajor1F (w : Nat) : Except DecodeError Instr :=
    if bits w 7 5 = 0 then named (ElemType.ofCode (bits w 4 0)) fun t => .ok (.vradd (fin w 24 20) (fin w 19 15) (fin w 14 11) (fin w 10 8) t)
    else .error .reservedField

/-- Major 0x20: AMO.z32. -/
def decodeMajor20 (w : Nat) : Except DecodeError Instr :=
    named (Scope.ofCode (bits w 5 4)) fun s => named (AmoOp.ofCode (bits w 3 0)) fun o => .ok (.amoZ32 (fin w 24 20) (fin w 19 15) (fin w 14 10) (fin w 9 6) s o)

/-- Major 0x21: AMO.z64. -/
def decodeMajor21 (w : Nat) : Except DecodeError Instr :=
    named (Scope.ofCode (bits w 5 4)) fun s => named (AmoOp.ofCode (bits w 3 0)) fun o => .ok (.amoZ64 (fin w 24 20) (fin w 19 15) (fin w 14 10) (fin w 9 6) s o)

/-- Major 0x22: CAS.z32. -/
def decodeMajor22 (w : Nat) : Except DecodeError Instr :=
    if bits w 3 0 = 0 then named (Scope.ofCode (bits w 5 4)) fun s => .ok (.casZ32 (fin w 24 20) (fin w 19 15) (fin w 14 10) (fin w 9 6) s)
    else .error .reservedField

/-- Major 0x23: CAS.z64. -/
def decodeMajor23 (w : Nat) : Except DecodeError Instr :=
    if bits w 3 0 = 0 then named (Scope.ofCode (bits w 5 4)) fun s => .ok (.casZ64 (fin w 24 20) (fin w 19 15) (fin w 14 10) (fin w 9 6) s)
    else .error .reservedField

/-- Major 0x24: PIN, UNPIN, CFLUSH, CINV, …. -/
def decodeMajor24 (w : Nat) : Except DecodeError Instr :=
    if bits w 9 0 = 0 then .ok (.pin (fin w 24 20) (fin w 19 15) (fin w 14 10))
    else if bits w 24 20 = 0 ∧ bits w 9 0 = 1 then .ok (.unpin (fin w 19 15) (fin w 14 10))
    else if bits w 24 20 = 0 ∧ bits w 9 8 = 0 ∧ bits w 3 0 = 2 then .ok (.cflush (fin w 19 15) (fin w 14 10) (fin w 7 4))
    else if bits w 24 20 = 0 ∧ bits w 9 8 = 0 ∧ bits w 3 0 = 3 then .ok (.cinv (fin w 19 15) (fin w 14 10) (fin w 7 4))
    else if bits w 24 20 = 0 ∧ bits w 9 5 = 0 ∧ bits w 3 0 = 4 then .ok (.stouch (fin w 19 15) (fin w 14 10) (bits w 4 4 == 1))
    else if bits w 24 20 = 0 ∧ bits w 9 8 = 0 ∧ bits w 3 0 = 5 then .ok (.swb (fin w 19 15) (fin w 14 10) (fin w 7 4))
    else .error .reservedField

/-- Major 0x25: FLAG.ADD, FLAG.WAIT, FLAG.WAIT.SUB, FLAG.RD. -/
def decodeMajor25 (w : Nat) : Except DecodeError Instr :=
    if bits w 24 20 = 0 ∧ bits w 14 10 = 0 ∧ bits w 3 0 = 0 then .ok (.flagAdd (fin w 19 15) (fin w 9 4))
    else if bits w 14 10 = 0 ∧ bits w 3 0 = 1 then .ok (.flagWait (fin w 24 20) (fin w 19 15) (fin w 9 4))
    else if bits w 14 10 = 0 ∧ bits w 3 0 = 2 then .ok (.flagWaitSub (fin w 24 20) (fin w 19 15) (fin w 9 4))
    else if bits w 19 10 = 0 ∧ bits w 3 0 = 3 then .ok (.flagRd (fin w 24 20) (fin w 9 4))
    else .error .reservedField

/-- Major 0x26: WAIT. -/
def decodeMajor26 (w : Nat) : Except DecodeError Instr :=
    if bits w 24 20 = 0 then .ok (.wait (fin w 19 15) (fin w 14 10) (fin w 9 5) (fin w 4 0))
    else .error .reservedField

/-- Major 0x27: FENCE. -/
def decodeMajor27 (w : Nat) : Except DecodeError Instr :=
    if bits w 24 18 = 0 then named (Scope.ofCode (bits w 17 16)) fun s => .ok (.fence s (BitVec.ofNat 16 (bits w 15 0)))
    else .error .reservedField

/-- Major 0x28: BAR.ARRIVE, BAR.WAIT. -/
def decodeMajor28 (w : Nat) : Except DecodeError Instr :=
    if bits w 24 7 = 0 ∧ bits w 3 0 = 0 then .ok (.barArrive (fin w 6 4))
    else if bits w 24 20 = 0 ∧ bits w 14 7 = 0 ∧ bits w 3 0 = 1 then .ok (.barWait (fin w 19 15) (fin w 6 4))
    else .error .reservedField

/-- Major 0x29: START.NEXT, WAIT.PRED, TSPAWN, FUT.RD, …. -/
def decodeMajor29 (w : Nat) : Except DecodeError Instr :=
    if bits w 24 0 = 0 then .ok .startNext
    else if bits w 24 0 = 1 then .ok .waitPred
    else if bits w 24 20 = 0 ∧ bits w 14 0 = 2 then .ok (.tspawn (fin w 19 15))
    else if bits w 14 0 = 3 then .ok (.futRd (fin w 24 20) (fin w 19 15))
    else if bits w 9 0 = 4 then .ok (.futFill (fin w 24 20) (fin w 19 15) (fin w 14 10))
    else if bits w 24 20 = 0 ∧ bits w 14 7 = 0 ∧ bits w 3 0 = 5 then named (CancelLevel.ofCode (bits w 6 4)) fun l => .ok (.lvlCancel (fin w 19 15) l)
    else .error .reservedField

/-- Major 0x2A: LEASE, UNLEASE, MZERO, MOUT, …. -/
def decodeMajor2A (w : Nat) : Except DecodeError Instr :=
    if bits w 24 7 = 0 ∧ bits w 3 0 = 0 then .ok (.lease (fin w 6 4))
    else if bits w 24 0 = 1 then .ok .unlease
    else if bits w 24 6 = 0 ∧ bits w 3 0 = 2 then .ok (.mzero (fin w 5 4))
    else if bits w 24 22 = 0 ∧ bits w 19 10 = 0 ∧ bits w 3 0 = 3 then .ok (.moutRq (fin w 21 20) (fin w 9 4))
    else if bits w 19 0 = 4 then .ok (.mstat (fin w 24 20))
    else if bits w 24 22 = 0 ∧ bits w 3 0 = 3 then .ok (.mout (fin w 21 20) (fin w 19 15) (fin w 14 10) (fin w 9 4))
    else .error .reservedField

/-- Major 0x2B: SUNBIND, SCTX.START, SCTX.STOP, SDEPTH. -/
def decodeMajor2B (w : Nat) : Except DecodeError Instr :=
    if bits w 24 20 = 0 ∧ bits w 14 0 = 0 then .ok (.sunbind (fin w 19 15))
    else if bits w 14 0 = 1 then .ok (.sctxStart (fin w 24 20) (fin w 19 15))
    else if bits w 14 0 = 17 then .ok (.sctxStop (fin w 24 20) (fin w 19 15))
    else if bits w 9 0 = 2 then .ok (.sdepth (fin w 24 20) (fin w 19 15) (fin w 14 10))
    else .error .reservedField

/-- Major 0x2C: ROW.WAIT, ROW.POST, ROW.POST.FRAME, ROW.POST.SET, …. -/
def decodeMajor2C (w : Nat) : Except DecodeError Instr :=
    if bits w 24 20 = 0 ∧ bits w 9 0 = 0 then .ok (.rowWait (fin w 19 15) (fin w 14 10))
    else if bits w 24 20 = 0 ∧ bits w 14 0 = 1 then .ok (.rowPost (fin w 19 15))
    else if bits w 24 0 = 17 then .ok .rowPostFrame
    else if bits w 24 20 = 0 ∧ bits w 14 0 = 33 then .ok (.rowPostSet (fin w 19 15))
    else if bits w 14 0 = 2 then .ok (.rowRdPos (fin w 24 20) (fin w 19 15))
    else if bits w 14 0 = 18 then .ok (.rowRdRec (fin w 24 20) (fin w 19 15))
    else if bits w 14 0 = 34 then .ok (.rowRdStamp (fin w 24 20) (fin w 19 15))
    else if bits w 9 0 = 3 then .ok (.roiRd (fin w 24 20) (fin w 19 15) (fin w 14 10))
    else if bits w 9 0 = 4 then .ok (.alignWait (fin w 24 20) (fin w 19 15) (fin w 14 10))
    else if bits w 14 0 = 20 then .ok (.alignWaitCnt (fin w 24 20) (fin w 19 15))
    else .error .reservedField

/-- Major 0x2D: TRAP, ERET, SYS.RD, SYS.WR, …. -/
def decodeMajor2D (w : Nat) : Except DecodeError Instr :=
    if bits w 24 10 = 0 ∧ bits w 3 0 = 0 then .ok (.trap (fin w 9 4))
    else if bits w 24 0 = 1 then .ok .eret
    else if bits w 19 10 = 0 ∧ bits w 3 0 = 2 then .ok (.sysRd (fin w 24 20) (fin w 9 4))
    else if bits w 24 20 = 0 ∧ bits w 14 10 = 0 ∧ bits w 3 0 = 3 then .ok (.sysWr (fin w 19 15) (fin w 9 4))
    else if bits w 19 0 = 4 then .ok (.time (fin w 24 20))
    else if bits w 24 20 = 0 ∧ bits w 14 0 = 5 then .ok (.tlbinvPage (fin w 19 15))
    else if bits w 24 0 = 21 then .ok .tlbinvAsid
    else if bits w 24 20 = 0 ∧ bits w 9 0 = 6 then .ok (.crgnOpen (fin w 19 15) (fin w 14 10))
    else if bits w 24 0 = 7 then .ok .crgnClose
    else if bits w 24 10 = 1024 ∧ bits w 3 0 = 7 then .ok (.crgnCloseMirror (fin w 9 4))
    else if bits w 19 0 = 8 then .ok (.selftestArray (fin w 24 20))
    else .error .reservedField

/-- Major 0x2E: LOOP. -/
def decodeMajor2E (w : Nat) : Except DecodeError Instr :=
    if bits w 24 21 = 0 then named (LoopLevel.ofCode (bits w 20 20)) fun v => .ok (.loop v (fin w 19 15) (BitVec.ofNat 15 (bits w 14 0)))
    else .error .reservedField

/-- Major 0x2F: LOOPI. -/
def decodeMajor2F (w : Nat) : Except DecodeError Instr :=
    if bits w 24 21 = 0 then named (LoopLevel.ofCode (bits w 20 20)) fun v => .ok (.loopi v (fin w 19 10) (fin w 9 0))
    else .error .reservedField

/-- Major 0x30: BR, BR.PN, BR.PT. -/
def decodeMajor30 (w : Nat) : Except DecodeError Instr :=
    if bits w 19 0 = 0 then .ok (.br (fin w 24 23) (fin w 22 21) (bits w 20 20 == 1))
    else if bits w 19 0 = 2 then .ok (.brPn (fin w 24 23) (fin w 22 21) (bits w 20 20 == 1))
    else if bits w 19 0 = 3 then .ok (.brPt (fin w 24 23) (fin w 22 21) (bits w 20 20 == 1))
    else .error .reservedField

/-- Major 0x31: JMP. -/
def decodeMajor31 (w : Nat) : Except DecodeError Instr :=
    if bits w 22 0 = 0 then .ok (.jmp (fin w 24 23))
    else .error .reservedField

/-- Major 0x32: CALL. -/
def decodeMajor32 (w : Nat) : Except DecodeError Instr :=
    if bits w 22 20 = 0 ∧ bits w 14 0 = 0 then .ok (.call (fin w 24 23) (fin w 19 15))
    else .error .reservedField

/-- Major 0x33: RET. -/
def decodeMajor33 (w : Nat) : Except DecodeError Instr :=
    if bits w 24 20 = 0 ∧ bits w 14 0 = 0 then .ok (.ret (fin w 19 15))
    else .error .reservedField

/-- Major 0x34: VANY. -/
def decodeMajor34 (w : Nat) : Except DecodeError Instr :=
    if bits w 24 22 = 0 ∧ bits w 19 3 = 0 then .ok (.vany (fin w 21 20) (fin w 2 0))
    else .error .reservedField

/-- Major 0x35: VALL. -/
def decodeMajor35 (w : Nat) : Except DecodeError Instr :=
    if bits w 24 22 = 0 ∧ bits w 19 3 = 0 then .ok (.vall (fin w 21 20) (fin w 2 0))
    else .error .reservedField

/-- Major 0x36: VCNT. -/
def decodeMajor36 (w : Nat) : Except DecodeError Instr :=
    if bits w 19 3 = 0 then .ok (.vcnt (fin w 24 20) (fin w 2 0))
    else .error .reservedField

/-- Major 0x37: POPV. -/
def decodeMajor37 (w : Nat) : Except DecodeError Instr :=
    if bits w 19 0 = 0 then .ok (.popv (fin w 24 20))
    else .error .reservedField

/-- Major 0x38: PUSHC. -/
def decodeMajor38 (w : Nat) : Except DecodeError Instr :=
    if bits w 24 20 = 0 ∧ bits w 14 0 = 0 then .ok (.pushc (fin w 19 15))
    else .error .reservedField

/-- Major 0x39: PUSHD. -/
def decodeMajor39 (w : Nat) : Except DecodeError Instr :=
    if bits w 24 20 = 0 ∧ bits w 14 0 = 0 then .ok (.pushd (fin w 19 15))
    else .error .reservedField

/-- Major 0x3A: MKTAIL. -/
def decodeMajor3A (w : Nat) : Except DecodeError Instr :=
    if bits w 24 20 = 0 ∧ bits w 14 0 = 0 then .ok (.mktail (fin w 19 15))
    else .error .reservedField

/-- Major 0x3B: END. -/
def decodeMajor3B (w : Nat) : Except DecodeError Instr :=
    if bits w 24 0 = 0 then .ok .endUnit
    else .error .reservedField

/-- Major 0x40: MOV. -/
def decodeMajor40 (w : Nat) : Except DecodeError Instr :=
    if bits w 12 5 = 0 ∧ bits w 0 0 = 0 then .ok (.mov (fin w 24 17) (fin w 16 13) (fin w 4 2) (bits w 1 1 == 1))
    else .error .reservedField

/-- Major 0x41: MOV. -/
def decodeMajor41 (w : Nat) : Except DecodeError Instr :=
    if bits w 16 12 = 0 ∧ bits w 1 0 = 0 then .ok (.movMain (fin w 24 17) (fin w 11 5) (fin w 4 2))
    else .error .reservedField

/-- Major 0x42: BCAST. -/
def decodeMajor42 (w : Nat) : Except DecodeError Instr :=
    if bits w 0 0 = 0 then .ok (.bcast (fin w 24 17) (fin w 16 13) (fin w 12 5) (fin w 4 2) (bits w 1 1 == 1))
    else .error .reservedField

/-- Major 0x43: IOTA. -/
def decodeMajor43 (w : Nat) : Except DecodeError Instr :=
    if bits w 16 9 = 0 ∧ bits w 1 0 = 0 then named (ElemType.ofCode (bits w 8 5)) fun t => .ok (.iota (fin w 24 17) t (fin w 4 2))
    else .error .reservedField

/-- Major 0x44: ZERO. -/
def decodeMajor44 (w : Nat) : Except DecodeError Instr :=
    if bits w 16 5 = 0 ∧ bits w 1 0 = 0 then .ok (.zero (fin w 24 17) (fin w 4 2))
    else .error .reservedField

/-- Major 0x45: EXTR. -/
def decodeMajor45 (w : Nat) : Except DecodeError Instr :=
    if bits w 24 17 = 17 ∧ bits w 4 2 = 0 ∧ bits w 0 0 = 0 then .ok (.extr (fin w 16 13) (fin w 12 5) (bits w 1 1 == 1))
    else .error .reservedField

/-- Major 0x46: FADD. -/
def decodeMajor46 (w : Nat) : Except DecodeError Instr :=
    named (ElemType.ofCode (bits w 8 5)) fun t => .ok (.fadd (fin w 24 17) (fin w 16 13) (fin w 12 9) t (fin w 4 2) (bits w 1 1 == 1) (bits w 0 0 == 1))

/-- Major 0x47: FSUB. -/
def decodeMajor47 (w : Nat) : Except DecodeError Instr :=
    named (ElemType.ofCode (bits w 8 5)) fun t => .ok (.fsub (fin w 24 17) (fin w 16 13) (fin w 12 9) t (fin w 4 2) (bits w 1 1 == 1) (bits w 0 0 == 1))

/-- Major 0x48: FMUL. -/
def decodeMajor48 (w : Nat) : Except DecodeError Instr :=
    named (ElemType.ofCode (bits w 8 5)) fun t => .ok (.fmul (fin w 24 17) (fin w 16 13) (fin w 12 9) t (fin w 4 2) (bits w 1 1 == 1) (bits w 0 0 == 1))

/-- Major 0x49: FMIN. -/
def decodeMajor49 (w : Nat) : Except DecodeError Instr :=
    named (ElemType.ofCode (bits w 8 5)) fun t => .ok (.fmin (fin w 24 17) (fin w 16 13) (fin w 12 9) t (fin w 4 2) (bits w 1 1 == 1) (bits w 0 0 == 1))

/-- Major 0x4A: FMAX. -/
def decodeMajor4A (w : Nat) : Except DecodeError Instr :=
    named (ElemType.ofCode (bits w 8 5)) fun t => .ok (.fmax (fin w 24 17) (fin w 16 13) (fin w 12 9) t (fin w 4 2) (bits w 1 1 == 1) (bits w 0 0 == 1))

/-- Major 0x4B: FCMP. -/
def decodeMajor4B (w : Nat) : Except DecodeError Instr :=
    named (FCond.ofCode (bits w 24 20)) fun x => named (ElemType.ofCode (bits w 8 5)) fun t => .ok (.fcmp x (fin w 19 17) (fin w 16 13) (fin w 12 9) t (fin w 4 2) (bits w 1 1 == 1) (bits w 0 0 == 1))

/-- Major 0x4C: FABS, FNEG, FCLASS, FRCP, …. -/
def decodeMajor4C (w : Nat) : Except DecodeError Instr :=
    if bits w 12 9 = 0 ∧ bits w 0 0 = 0 then named (ElemType.ofCode (bits w 8 5)) fun t => .ok (.fabs (fin w 24 17) (fin w 16 13) t (fin w 4 2) (bits w 1 1 == 1))
    else if bits w 12 9 = 1 ∧ bits w 0 0 = 0 then named (ElemType.ofCode (bits w 8 5)) fun t => .ok (.fneg (fin w 24 17) (fin w 16 13) t (fin w 4 2) (bits w 1 1 == 1))
    else if bits w 12 9 = 2 ∧ bits w 0 0 = 0 then named (ElemType.ofCode (bits w 8 5)) fun t => .ok (.fclass (fin w 24 17) (fin w 16 13) t (fin w 4 2) (bits w 1 1 == 1))
    else if bits w 12 9 = 3 ∧ bits w 0 0 = 0 then named (ElemType.ofCode (bits w 8 5)) fun t => .ok (.frcp (fin w 24 17) (fin w 16 13) t (fin w 4 2) (bits w 1 1 == 1))
    else if bits w 12 9 = 4 ∧ bits w 0 0 = 0 then named (ElemType.ofCode (bits w 8 5)) fun t => .ok (.frsqrt (fin w 24 17) (fin w 16 13) t (fin w 4 2) (bits w 1 1 == 1))
    else if bits w 12 9 = 5 ∧ bits w 0 0 = 0 then named (ElemType.ofCode (bits w 8 5)) fun t => .ok (.fsqrt (fin w 24 17) (fin w 16 13) t (fin w 4 2) (bits w 1 1 == 1))
    else if bits w 12 9 = 6 ∧ bits w 0 0 = 0 then named (ElemType.ofCode (bits w 8 5)) fun t => .ok (.fexp2 (fin w 24 17) (fin w 16 13) t (fin w 4 2) (bits w 1 1 == 1))
    else if bits w 12 9 = 7 ∧ bits w 0 0 = 0 then named (ElemType.ofCode (bits w 8 5)) fun t => .ok (.flog2 (fin w 24 17) (fin w 16 13) t (fin w 4 2) (bits w 1 1 == 1))
    else if bits w 12 9 = 8 ∧ bits w 0 0 = 0 then named (ElemType.ofCode (bits w 8 5)) fun t => .ok (.ftanh (fin w 24 17) (fin w 16 13) t (fin w 4 2) (bits w 1 1 == 1))
    else if bits w 12 9 = 9 ∧ bits w 0 0 = 0 then named (ElemType.ofCode (bits w 8 5)) fun t => .ok (.fsig (fin w 24 17) (fin w 16 13) t (fin w 4 2) (bits w 1 1 == 1))
    else .error .reservedField

/-- Major 0x4D: FMA.f32. -/
def decodeMajor4D (w : Nat) : Except DecodeError Instr :=
    .ok (.fmaF32 (fin w 24 17) (fin w 16 13) (fin w 12 9) (fin w 8 5) (fin w 4 2) (bits w 1 1 == 1) (bits w 0 0 == 1))

/-- Major 0x4E: FMA.bf16. -/
def decodeMajor4E (w : Nat) : Except DecodeError Instr :=
    .ok (.fmaBf16 (fin w 24 17) (fin w 16 13) (fin w 12 9) (fin w 8 5) (fin w 4 2) (bits w 1 1 == 1) (bits w 0 0 == 1))

/-- Major 0x4F: FMA.f16. -/
def decodeMajor4F (w : Nat) : Except DecodeError Instr :=
    .ok (.fmaF16 (fin w 24 17) (fin w 16 13) (fin w 12 9) (fin w 8 5) (fin w 4 2) (bits w 1 1 == 1) (bits w 0 0 == 1))

/-- Major 0x50: FMS.f32. -/
def decodeMajor50 (w : Nat) : Except DecodeError Instr :=
    .ok (.fmsF32 (fin w 24 17) (fin w 16 13) (fin w 12 9) (fin w 8 5) (fin w 4 2) (bits w 1 1 == 1) (bits w 0 0 == 1))

/-- Major 0x51: FMS.bf16. -/
def decodeMajor51 (w : Nat) : Except DecodeError Instr :=
    .ok (.fmsBf16 (fin w 24 17) (fin w 16 13) (fin w 12 9) (fin w 8 5) (fin w 4 2) (bits w 1 1 == 1) (bits w 0 0 == 1))

/-- Major 0x52: FMS.f16. -/
def decodeMajor52 (w : Nat) : Except DecodeError Instr :=
    .ok (.fmsF16 (fin w 24 17) (fin w 16 13) (fin w 12 9) (fin w 8 5) (fin w 4 2) (bits w 1 1 == 1) (bits w 0 0 == 1))

/-- Major 0x53: FNMA.f32. -/
def decodeMajor53 (w : Nat) : Except DecodeError Instr :=
    .ok (.fnmaF32 (fin w 24 17) (fin w 16 13) (fin w 12 9) (fin w 8 5) (fin w 4 2) (bits w 1 1 == 1) (bits w 0 0 == 1))

/-- Major 0x54: FNMA.bf16. -/
def decodeMajor54 (w : Nat) : Except DecodeError Instr :=
    .ok (.fnmaBf16 (fin w 24 17) (fin w 16 13) (fin w 12 9) (fin w 8 5) (fin w 4 2) (bits w 1 1 == 1) (bits w 0 0 == 1))

/-- Major 0x55: FNMA.f16. -/
def decodeMajor55 (w : Nat) : Except DecodeError Instr :=
    .ok (.fnmaF16 (fin w 24 17) (fin w 16 13) (fin w 12 9) (fin w 8 5) (fin w 4 2) (bits w 1 1 == 1) (bits w 0 0 == 1))

/-- Major 0x56: VADD. -/
def decodeMajor56 (w : Nat) : Except DecodeError Instr :=
    named (ElemType.ofCode (bits w 8 5)) fun t => .ok (.vadd (fin w 24 17) (fin w 16 13) (fin w 12 9) t (fin w 4 2) (bits w 1 1 == 1) (bits w 0 0 == 1))

/-- Major 0x57: VSUB. -/
def decodeMajor57 (w : Nat) : Except DecodeError Instr :=
    named (ElemType.ofCode (bits w 8 5)) fun t => .ok (.vsub (fin w 24 17) (fin w 16 13) (fin w 12 9) t (fin w 4 2) (bits w 1 1 == 1) (bits w 0 0 == 1))

/-- Major 0x58: VADDS. -/
def decodeMajor58 (w : Nat) : Except DecodeError Instr :=
    named (ElemType.ofCode (bits w 8 5)) fun t => .ok (.vadds (fin w 24 17) (fin w 16 13) (fin w 12 9) t (fin w 4 2) (bits w 1 1 == 1) (bits w 0 0 == 1))

/-- Major 0x59: VSUBS. -/
def decodeMajor59 (w : Nat) : Except DecodeError Instr :=
    named (ElemType.ofCode (bits w 8 5)) fun t => .ok (.vsubs (fin w 24 17) (fin w 16 13) (fin w 12 9) t (fin w 4 2) (bits w 1 1 == 1) (bits w 0 0 == 1))

/-- Major 0x5A: VMUL. -/
def decodeMajor5A (w : Nat) : Except DecodeError Instr :=
    named (ElemType.ofCode (bits w 8 5)) fun t => .ok (.vmul (fin w 24 17) (fin w 16 13) (fin w 12 9) t (fin w 4 2) (bits w 1 1 == 1) (bits w 0 0 == 1))

/-- Major 0x5B: VMULH. -/
def decodeMajor5B (w : Nat) : Except DecodeError Instr :=
    named (ElemType.ofCode (bits w 8 5)) fun t => .ok (.vmulh (fin w 24 17) (fin w 16 13) (fin w 12 9) t (fin w 4 2) (bits w 1 1 == 1) (bits w 0 0 == 1))

/-- Major 0x5C: VMIN. -/
def decodeMajor5C (w : Nat) : Except DecodeError Instr :=
    named (ElemType.ofCode (bits w 8 5)) fun t => .ok (.vmin (fin w 24 17) (fin w 16 13) (fin w 12 9) t (fin w 4 2) (bits w 1 1 == 1) (bits w 0 0 == 1))

/-- Major 0x5D: VMAX. -/
def decodeMajor5D (w : Nat) : Except DecodeError Instr :=
    named (ElemType.ofCode (bits w 8 5)) fun t => .ok (.vmax (fin w 24 17) (fin w 16 13) (fin w 12 9) t (fin w 4 2) (bits w 1 1 == 1) (bits w 0 0 == 1))

/-- Major 0x5E: VAND. -/
def decodeMajor5E (w : Nat) : Except DecodeError Instr :=
    named (ElemType.ofCode (bits w 8 5)) fun t => .ok (.vand (fin w 24 17) (fin w 16 13) (fin w 12 9) t (fin w 4 2) (bits w 1 1 == 1) (bits w 0 0 == 1))

/-- Major 0x5F: VOR. -/
def decodeMajor5F (w : Nat) : Except DecodeError Instr :=
    named (ElemType.ofCode (bits w 8 5)) fun t => .ok (.vor (fin w 24 17) (fin w 16 13) (fin w 12 9) t (fin w 4 2) (bits w 1 1 == 1) (bits w 0 0 == 1))

/-- Major 0x60: VXOR. -/
def decodeMajor60 (w : Nat) : Except DecodeError Instr :=
    named (ElemType.ofCode (bits w 8 5)) fun t => .ok (.vxor (fin w 24 17) (fin w 16 13) (fin w 12 9) t (fin w 4 2) (bits w 1 1 == 1) (bits w 0 0 == 1))

/-- Major 0x61: VSHL. -/
def decodeMajor61 (w : Nat) : Except DecodeError Instr :=
    named (ElemType.ofCode (bits w 8 5)) fun t => .ok (.vshl (fin w 24 17) (fin w 16 13) (fin w 12 9) t (fin w 4 2) (bits w 1 1 == 1) (bits w 0 0 == 1))

/-- Major 0x62: VSHR. -/
def decodeMajor62 (w : Nat) : Except DecodeError Instr :=
    named (ElemType.ofCode (bits w 8 5)) fun t => .ok (.vshr (fin w 24 17) (fin w 16 13) (fin w 12 9) t (fin w 4 2) (bits w 1 1 == 1) (bits w 0 0 == 1))

/-- Major 0x63: VSHLS. -/
def decodeMajor63 (w : Nat) : Except DecodeError Instr :=
    named (ElemType.ofCode (bits w 8 5)) fun t => .ok (.vshls (fin w 24 17) (fin w 16 13) (fin w 12 9) t (fin w 4 2) (bits w 1 1 == 1) (bits w 0 0 == 1))

/-- Major 0x64: VCMP. -/
def decodeMajor64 (w : Nat) : Except DecodeError Instr :=
    named (ICond.ofCode (bits w 24 20)) fun x => named (ElemType.ofCode (bits w 8 5)) fun t => .ok (.vcmp x (fin w 19 17) (fin w 16 13) (fin w 12 9) t (fin w 4 2) (bits w 1 1 == 1) (bits w 0 0 == 1))

/-- Major 0x65: VABS, VABSS, VNEG, VNEGS, …. -/
def decodeMajor65 (w : Nat) : Except DecodeError Instr :=
    if bits w 12 9 = 0 ∧ bits w 0 0 = 0 then named (ElemType.ofCode (bits w 8 5)) fun t => .ok (.vabs (fin w 24 17) (fin w 16 13) t (fin w 4 2) (bits w 1 1 == 1))
    else if bits w 12 9 = 1 ∧ bits w 0 0 = 0 then named (ElemType.ofCode (bits w 8 5)) fun t => .ok (.vabss (fin w 24 17) (fin w 16 13) t (fin w 4 2) (bits w 1 1 == 1))
    else if bits w 12 9 = 2 ∧ bits w 0 0 = 0 then named (ElemType.ofCode (bits w 8 5)) fun t => .ok (.vneg (fin w 24 17) (fin w 16 13) t (fin w 4 2) (bits w 1 1 == 1))
    else if bits w 12 9 = 3 ∧ bits w 0 0 = 0 then named (ElemType.ofCode (bits w 8 5)) fun t => .ok (.vnegs (fin w 24 17) (fin w 16 13) t (fin w 4 2) (bits w 1 1 == 1))
    else if bits w 12 9 = 4 ∧ bits w 0 0 = 0 then named (ElemType.ofCode (bits w 8 5)) fun t => .ok (.vnot (fin w 24 17) (fin w 16 13) t (fin w 4 2) (bits w 1 1 == 1))
    else if bits w 12 9 = 5 ∧ bits w 0 0 = 0 then named (ElemType.ofCode (bits w 8 5)) fun t => .ok (.vclz (fin w 24 17) (fin w 16 13) t (fin w 4 2) (bits w 1 1 == 1))
    else if bits w 12 9 = 6 ∧ bits w 0 0 = 0 then named (ElemType.ofCode (bits w 8 5)) fun t => .ok (.vpopc (fin w 24 17) (fin w 16 13) t (fin w 4 2) (bits w 1 1 == 1))
    else .error .reservedField

/-- Major 0x66: CVT.RNE, CVTS.RNE. -/
def decodeMajor66 (w : Nat) : Except DecodeError Instr :=
    if bits w 0 0 = 0 then named (ElemType.ofCode (bits w 12 9)) fun s => named (ElemType.ofCode (bits w 8 5)) fun t => .ok (.cvtRne (fin w 24 17) (fin w 16 13) s t (fin w 4 2) (bits w 1 1 == 1))
    else if bits w 0 0 = 1 then named (ElemType.ofCode (bits w 12 9)) fun s => named (ElemType.ofCode (bits w 8 5)) fun t => .ok (.cvtsRne (fin w 24 17) (fin w 16 13) s t (fin w 4 2) (bits w 1 1 == 1))
    else .error .reservedField

/-- Major 0x67: CVT.RTZ, CVTS.RTZ. -/
def decodeMajor67 (w : Nat) : Except DecodeError Instr :=
    if bits w 0 0 = 0 then named (ElemType.ofCode (bits w 12 9)) fun s => named (ElemType.ofCode (bits w 8 5)) fun t => .ok (.cvtRtz (fin w 24 17) (fin w 16 13) s t (fin w 4 2) (bits w 1 1 == 1))
    else if bits w 0 0 = 1 then named (ElemType.ofCode (bits w 12 9)) fun s => named (ElemType.ofCode (bits w 8 5)) fun t => .ok (.cvtsRtz (fin w 24 17) (fin w 16 13) s t (fin w 4 2) (bits w 1 1 == 1))
    else .error .reservedField

/-- Major 0x68: CVT.RUP, CVTS.RUP. -/
def decodeMajor68 (w : Nat) : Except DecodeError Instr :=
    if bits w 0 0 = 0 then named (ElemType.ofCode (bits w 12 9)) fun s => named (ElemType.ofCode (bits w 8 5)) fun t => .ok (.cvtRup (fin w 24 17) (fin w 16 13) s t (fin w 4 2) (bits w 1 1 == 1))
    else if bits w 0 0 = 1 then named (ElemType.ofCode (bits w 12 9)) fun s => named (ElemType.ofCode (bits w 8 5)) fun t => .ok (.cvtsRup (fin w 24 17) (fin w 16 13) s t (fin w 4 2) (bits w 1 1 == 1))
    else .error .reservedField

/-- Major 0x69: CVT.RDN, CVTS.RDN. -/
def decodeMajor69 (w : Nat) : Except DecodeError Instr :=
    if bits w 0 0 = 0 then named (ElemType.ofCode (bits w 12 9)) fun s => named (ElemType.ofCode (bits w 8 5)) fun t => .ok (.cvtRdn (fin w 24 17) (fin w 16 13) s t (fin w 4 2) (bits w 1 1 == 1))
    else if bits w 0 0 = 1 then named (ElemType.ofCode (bits w 12 9)) fun s => named (ElemType.ofCode (bits w 8 5)) fun t => .ok (.cvtsRdn (fin w 24 17) (fin w 16 13) s t (fin w 4 2) (bits w 1 1 == 1))
    else .error .reservedField

/-- Major 0x6A: QPACK. -/
def decodeMajor6A (w : Nat) : Except DecodeError Instr :=
    if bits w 7 6 = 0 ∧ bits w 0 0 = 0 then .ok (.qpack (fin w 24 17) (fin w 16 13) (fin w 12 10) (fin w 9 8) (bits w 5 5 == 1) (fin w 4 2) (bits w 1 1 == 1))
    else .error .reservedField

/-- Major 0x6B: QUNPACK. -/
def decodeMajor6B (w : Nat) : Except DecodeError Instr :=
    if bits w 0 0 = 0 then named (RoundMode.ofCode (bits w 7 6)) fun m => .ok (.qunpack (fin w 24 17) (fin w 16 13) (fin w 12 10) (fin w 9 8) m (bits w 5 5 == 1) (fin w 4 2) (bits w 1 1 == 1))
    else .error .reservedField

/-- Major 0x6C: KAND, KOR, KXOR, KANDN, …. -/
def decodeMajor6C (w : Nat) : Except DecodeError Instr :=
    if bits w 16 16 = 0 ∧ bits w 12 12 = 0 ∧ bits w 8 5 = 0 ∧ bits w 1 0 = 0 then .ok (.kand (fin w 24 17) (fin w 15 13) (fin w 11 9) (fin w 4 2))
    else if bits w 16 16 = 0 ∧ bits w 12 12 = 0 ∧ bits w 8 5 = 1 ∧ bits w 1 0 = 0 then .ok (.kor (fin w 24 17) (fin w 15 13) (fin w 11 9) (fin w 4 2))
    else if bits w 16 16 = 0 ∧ bits w 12 12 = 0 ∧ bits w 8 5 = 2 ∧ bits w 1 0 = 0 then .ok (.kxor (fin w 24 17) (fin w 15 13) (fin w 11 9) (fin w 4 2))
    else if bits w 16 16 = 0 ∧ bits w 12 12 = 0 ∧ bits w 8 5 = 3 ∧ bits w 1 0 = 0 then .ok (.kandn (fin w 24 17) (fin w 15 13) (fin w 11 9) (fin w 4 2))
    else if bits w 16 16 = 0 ∧ bits w 12 5 = 4 ∧ bits w 1 0 = 0 then .ok (.knot (fin w 24 17) (fin w 15 13) (fin w 4 2))
    else if bits w 16 16 = 0 ∧ bits w 12 5 = 5 ∧ bits w 1 0 = 0 then .ok (.kmov (fin w 24 17) (fin w 15 13) (fin w 4 2))
    else if bits w 16 5 = 6 ∧ bits w 1 0 = 0 then .ok (.kpop (fin w 24 17) (fin w 4 2))
    else .error .reservedField

/-- Major 0x6D: SEL. -/
def decodeMajor6D (w : Nat) : Except DecodeError Instr :=
    if bits w 8 5 = 0 then .ok (.selExecute (fin w 24 17) (fin w 16 13) (fin w 12 9) (fin w 4 2) (bits w 1 1 == 1) (bits w 0 0 == 1))
    else .error .reservedField

/-- Major 0x6E: RSUM, RMAX, RMIN, RISUM, …. -/
def decodeMajor6E (w : Nat) : Except DecodeError Instr :=
    if bits w 12 9 = 0 ∧ bits w 0 0 = 0 then named (ElemType.ofCode (bits w 8 5)) fun t => .ok (.rsum (fin w 24 17) (fin w 16 13) t (fin w 4 2) (bits w 1 1 == 1))
    else if bits w 12 9 = 1 ∧ bits w 0 0 = 0 then named (ElemType.ofCode (bits w 8 5)) fun t => .ok (.rmax (fin w 24 17) (fin w 16 13) t (fin w 4 2) (bits w 1 1 == 1))
    else if bits w 12 9 = 2 ∧ bits w 0 0 = 0 then named (ElemType.ofCode (bits w 8 5)) fun t => .ok (.rmin (fin w 24 17) (fin w 16 13) t (fin w 4 2) (bits w 1 1 == 1))
    else if bits w 12 9 = 3 ∧ bits w 0 0 = 0 then named (ElemType.ofCode (bits w 8 5)) fun t => .ok (.risum (fin w 24 17) (fin w 16 13) t (fin w 4 2) (bits w 1 1 == 1))
    else if bits w 12 9 = 4 ∧ bits w 0 0 = 0 then named (ElemType.ofCode (bits w 8 5)) fun t => .ok (.risums (fin w 24 17) (fin w 16 13) t (fin w 4 2) (bits w 1 1 == 1))
    else .error .reservedField

/-- Major 0x6F: PERM. -/
def decodeMajor6F (w : Nat) : Except DecodeError Instr :=
    named (ElemType.ofCode (bits w 8 5)) fun t => .ok (.perm (fin w 24 17) (fin w 16 13) (fin w 12 9) t (fin w 4 2) (bits w 1 1 == 1) (bits w 0 0 == 1))

/-- Major 0x70: ROT. -/
def decodeMajor70 (w : Nat) : Except DecodeError Instr :=
    if bits w 0 0 = 0 then .ok (.rot (fin w 24 17) (fin w 16 13) (fin w 12 5) (fin w 4 2) (bits w 1 1 == 1))
    else .error .reservedField

/-- Major 0x71: SHUF. -/
def decodeMajor71 (w : Nat) : Except DecodeError Instr :=
    if bits w 0 0 = 0 then named (ShufPattern.ofCode (bits w 12 9)) fun p => named (ElemType.ofCode (bits w 8 5)) fun t => .ok (.shuf (fin w 24 17) (fin w 16 13) p t (fin w 4 2) (bits w 1 1 == 1))
    else .error .reservedField

/-- Major 0x72: SLIDE. -/
def decodeMajor72 (w : Nat) : Except DecodeError Instr :=
    .ok (.slide (fin w 24 17) (fin w 16 13) (fin w 12 9) (fin w 8 5) (fin w 4 2) (bits w 1 1 == 1) (bits w 0 0 == 1))

/-- Major 0x73: VLOOP. -/
def decodeMajor73 (w : Nat) : Except DecodeError Instr :=
    if bits w 24 18 = 0 ∧ bits w 4 0 = 0 then named (LoopLevel.ofCode (bits w 17 17)) fun v => .ok (.vloop v (fin w 16 5))
    else .error .reservedField

/-- The instruction that a word outside the extended majors encodes, by its major opcode, bits 31:25 (R104, R121 to R125).
Words that no row of the opcode map covers are named by what is wrong with them; every one of them raises ILLEGAL (R121). -/
def decodeWord (w : Nat) : Except DecodeError Instr :=
  match bits w 31 25 with
  | 0x00 => decodeMajor00 w
  | 0x01 => decodeMajor01 w
  | 0x02 => decodeMajor02 w
  | 0x03 => decodeMajor03 w
  | 0x04 => decodeMajor04 w
  | 0x05 => decodeMajor05 w
  | 0x06 => decodeMajor06 w
  | 0x07 => decodeMajor07 w
  | 0x08 => decodeMajor08 w
  | 0x09 => decodeMajor09 w
  | 0x0A => decodeMajor0A w
  | 0x0B => decodeMajor0B w
  | 0x0C => decodeMajor0C w
  | 0x0D => decodeMajor0D w
  | 0x10 => decodeMajor10 w
  | 0x11 => decodeMajor11 w
  | 0x12 => decodeMajor12 w
  | 0x13 => decodeMajor13 w
  | 0x14 => decodeMajor14 w
  | 0x15 => decodeMajor15 w
  | 0x16 => decodeMajor16 w
  | 0x17 => decodeMajor17 w
  | 0x18 => decodeMajor18 w
  | 0x19 => decodeMajor19 w
  | 0x1A => decodeMajor1A w
  | 0x1B => decodeMajor1B w
  | 0x1C => decodeMajor1C w
  | 0x1D => decodeMajor1D w
  | 0x1E => decodeMajor1E w
  | 0x1F => decodeMajor1F w
  | 0x20 => decodeMajor20 w
  | 0x21 => decodeMajor21 w
  | 0x22 => decodeMajor22 w
  | 0x23 => decodeMajor23 w
  | 0x24 => decodeMajor24 w
  | 0x25 => decodeMajor25 w
  | 0x26 => decodeMajor26 w
  | 0x27 => decodeMajor27 w
  | 0x28 => decodeMajor28 w
  | 0x29 => decodeMajor29 w
  | 0x2A => decodeMajor2A w
  | 0x2B => decodeMajor2B w
  | 0x2C => decodeMajor2C w
  | 0x2D => decodeMajor2D w
  | 0x2E => decodeMajor2E w
  | 0x2F => decodeMajor2F w
  | 0x30 => decodeMajor30 w
  | 0x31 => decodeMajor31 w
  | 0x32 => decodeMajor32 w
  | 0x33 => decodeMajor33 w
  | 0x34 => decodeMajor34 w
  | 0x35 => decodeMajor35 w
  | 0x36 => decodeMajor36 w
  | 0x37 => decodeMajor37 w
  | 0x38 => decodeMajor38 w
  | 0x39 => decodeMajor39 w
  | 0x3A => decodeMajor3A w
  | 0x3B => decodeMajor3B w
  | 0x40 => decodeMajor40 w
  | 0x41 => decodeMajor41 w
  | 0x42 => decodeMajor42 w
  | 0x43 => decodeMajor43 w
  | 0x44 => decodeMajor44 w
  | 0x45 => decodeMajor45 w
  | 0x46 => decodeMajor46 w
  | 0x47 => decodeMajor47 w
  | 0x48 => decodeMajor48 w
  | 0x49 => decodeMajor49 w
  | 0x4A => decodeMajor4A w
  | 0x4B => decodeMajor4B w
  | 0x4C => decodeMajor4C w
  | 0x4D => decodeMajor4D w
  | 0x4E => decodeMajor4E w
  | 0x4F => decodeMajor4F w
  | 0x50 => decodeMajor50 w
  | 0x51 => decodeMajor51 w
  | 0x52 => decodeMajor52 w
  | 0x53 => decodeMajor53 w
  | 0x54 => decodeMajor54 w
  | 0x55 => decodeMajor55 w
  | 0x56 => decodeMajor56 w
  | 0x57 => decodeMajor57 w
  | 0x58 => decodeMajor58 w
  | 0x59 => decodeMajor59 w
  | 0x5A => decodeMajor5A w
  | 0x5B => decodeMajor5B w
  | 0x5C => decodeMajor5C w
  | 0x5D => decodeMajor5D w
  | 0x5E => decodeMajor5E w
  | 0x5F => decodeMajor5F w
  | 0x60 => decodeMajor60 w
  | 0x61 => decodeMajor61 w
  | 0x62 => decodeMajor62 w
  | 0x63 => decodeMajor63 w
  | 0x64 => decodeMajor64 w
  | 0x65 => decodeMajor65 w
  | 0x66 => decodeMajor66 w
  | 0x67 => decodeMajor67 w
  | 0x68 => decodeMajor68 w
  | 0x69 => decodeMajor69 w
  | 0x6A => decodeMajor6A w
  | 0x6B => decodeMajor6B w
  | 0x6C => decodeMajor6C w
  | 0x6D => decodeMajor6D w
  | 0x6E => decodeMajor6E w
  | 0x6F => decodeMajor6F w
  | 0x70 => decodeMajor70 w
  | 0x71 => decodeMajor71 w
  | 0x72 => decodeMajor72 w
  | 0x73 => decodeMajor73 w
  | _ => .error .reservedMajor

/-- An extended word with its record (R120, R126). -/
def decodeExtended (w : Nat) (r : ShapeRec) : Except DecodeError Instr :=
  match bits w 31 25 with
  | 0x78 => match bits w 3 0 with
    | 0 => if bits w 14 10 = 0 then .ok (.mma (fin w 24 20) (fin w 19 15) (fin w 9 4) r) else .error .reservedField
    | 1 => .ok (.mmaSp (fin w 24 20) (fin w 19 15) (fin w 14 10) (fin w 9 4) r)
    | 2 => if bits w 19 15 = 0 ∧ bits w 14 10 = 0 then .ok (.mkat (fin w 24 20) (fin w 9 4) r) else .error .reservedField
    | _ => .error .unassignedFunction
  | 0x79 => match bits w 3 0 with
    | 0 => .ok (.copy (fin w 24 20) (fin w 19 15) (fin w 14 10) (fin w 9 4) r)
    | 1 => .ok (.copys (fin w 24 20) (fin w 19 15) (fin w 14 10) (fin w 9 4) r)
    | 2 => if bits w 14 10 = 0 then .ok (.copyDec (fin w 24 20) (fin w 19 15) (fin w 9 4) r) else .error .reservedField
    | 3 => if bits w 14 10 = 0 then .ok (.fill (fin w 24 20) (fin w 19 15) (fin w 9 4) r) else .error .reservedField
    | 4 => .ok (.copyPeer (fin w 24 20) (fin w 19 15) (fin w 14 10) (fin w 9 4) r)
    | 5 => .ok (.wrq (fin w 24 20) (fin w 19 15) (fin w 14 10) (fin w 9 4) r)
    | 6 => if bits w 19 15 = 0 ∧ bits w 14 10 = 0 then .ok (.dtab (fin w 24 20) (fin w 9 4) r) else .error .reservedField
    | _ => .error .unassignedFunction
  | 0x7A => match bits w 3 0 with
    | 0 => if bits w 19 15 = 0 ∧ bits w 14 10 = 0 ∧ bits w 9 4 = 0 then .ok (.vlds (fin w 24 20) r) else .error .reservedField
    | 1 => if bits w 19 15 = 0 ∧ bits w 14 10 = 0 ∧ bits w 9 4 = 0 then .ok (.vsts (fin w 24 20) r) else .error .reservedField
    | _ => .error .unassignedFunction
  | 0x7B => match bits w 3 0 with
    | 0 => .ok (.sbind (fin w 24 20) (fin w 19 15) (fin w 14 10) (fin w 9 4) r)
    | _ => .error .unassignedFunction
  | 0x7C => match bits w 3 0 with
    | 0 => .ok (.tileCommit (fin w 24 20) (fin w 19 15) (fin w 14 10) (fin w 9 4) r)
    | 1 => if bits w 14 10 = 0 then .ok (.alignSet (fin w 24 20) (fin w 19 15) (fin w 9 4) r) else .error .reservedField
    | _ => .error .unassignedFunction
  | _ => .error .reservedMajor

/-- The first word of an instruction, written from the same encodings (R116 to R126); events have none and give 0. -/
def encodeWord : Instr → Nat
  | .add d a b => 0 + d.val * 1048576 + a.val * 32768 + b.val * 1024
  | .sub d a b => 1 + d.val * 1048576 + a.val * 32768 + b.val * 1024
  | .and d a b => 2 + d.val * 1048576 + a.val * 32768 + b.val * 1024
  | .or d a b => 3 + d.val * 1048576 + a.val * 32768 + b.val * 1024
  | .xor d a b => 4 + d.val * 1048576 + a.val * 32768 + b.val * 1024
  | .andn d a b => 5 + d.val * 1048576 + a.val * 32768 + b.val * 1024
  | .shl d a b => 6 + d.val * 1048576 + a.val * 32768 + b.val * 1024
  | .shr d a b => 7 + d.val * 1048576 + a.val * 32768 + b.val * 1024
  | .sra d a b => 8 + d.val * 1048576 + a.val * 32768 + b.val * 1024
  | .slt d a b => 9 + d.val * 1048576 + a.val * 32768 + b.val * 1024
  | .sltu d a b => 10 + d.val * 1048576 + a.val * 32768 + b.val * 1024
  | .min d a b => 11 + d.val * 1048576 + a.val * 32768 + b.val * 1024
  | .minu d a b => 12 + d.val * 1048576 + a.val * 32768 + b.val * 1024
  | .max d a b => 13 + d.val * 1048576 + a.val * 32768 + b.val * 1024
  | .maxu d a b => 14 + d.val * 1048576 + a.val * 32768 + b.val * 1024
  | .mul d a b => 16 + d.val * 1048576 + a.val * 32768 + b.val * 1024
  | .mulh d a b => 17 + d.val * 1048576 + a.val * 32768 + b.val * 1024
  | .mulhu d a b => 18 + d.val * 1048576 + a.val * 32768 + b.val * 1024
  | .div d a b => 20 + d.val * 1048576 + a.val * 32768 + b.val * 1024
  | .divu d a b => 21 + d.val * 1048576 + a.val * 32768 + b.val * 1024
  | .rem d a b => 22 + d.val * 1048576 + a.val * 32768 + b.val * 1024
  | .remu d a b => 23 + d.val * 1048576 + a.val * 32768 + b.val * 1024
  | .clz d a => 24 + d.val * 1048576 + a.val * 32768
  | .popc d a => 25 + d.val * 1048576 + a.val * 32768
  | .addsh d a b s => 32 + d.val * 1048576 + a.val * 32768 + b.val * 1024 + s.val
  | .sel d a b c => 40 + d.val * 1048576 + a.val * 32768 + b.val * 1024 + c.val
  | .addi d a i => 33554432 + d.val * 1048576 + a.val * 32768 + i.toNat
  | .andi d a i => 67108864 + d.val * 1048576 + a.val * 32768 + i.toNat
  | .ori d a i => 100663296 + d.val * 1048576 + a.val * 32768 + i.toNat
  | .xori d a i => 134217728 + d.val * 1048576 + a.val * 32768 + i.toNat
  | .shli d a n => 167772160 + d.val * 1048576 + a.val * 32768 + n.val
  | .shri d a n => 167780352 + d.val * 1048576 + a.val * 32768 + n.val
  | .srai d a n => 167788544 + d.val * 1048576 + a.val * 32768 + n.val
  | .bfx d a l p => 201326592 + d.val * 1048576 + a.val * 32768 + l.val * 64 + p.val
  | .bfxSx d a l p => 201330688 + d.val * 1048576 + a.val * 32768 + l.val * 64 + p.val
  | .bfi d a l p => 234881024 + d.val * 1048576 + a.val * 32768 + l.val * 64 + p.val
  | .li d i => 268435456 + d.val * 1048576 + i.toNat
  | .lih d i => 301989888 + d.val * 1048576 + i.toNat
  | .cmp c a b x => 335544320 + c.val * 1048576 + a.val * 32768 + b.val * 1024 + x.code
  | .cmpImm x c a i => 369098752 + x.code * 4194304 + c.val * 1048576 + a.val * 32768 + i.toNat
  | .pbr b o => 402653184 + b.val * 8388608 + o.toNat
  | .pbrg b a => 436207616 + b.val * 1048576 + a.val * 32768
  | .ldZ8 d b c u o => 536870912 + d.val * 1048576 + b.val * 32768 + c.val * 2048 + u.val * 256 + o.toNat
  | .ldZ16 d b c u o => 570425344 + d.val * 1048576 + b.val * 32768 + c.val * 2048 + u.val * 256 + o.toNat
  | .ldZ32 d b c u o => 603979776 + d.val * 1048576 + b.val * 32768 + c.val * 2048 + u.val * 256 + o.toNat
  | .ldZ64 d b c u o => 637534208 + d.val * 1048576 + b.val * 32768 + c.val * 2048 + u.val * 256 + o.toNat
  | .ldS8 d b c u o => 671088640 + d.val * 1048576 + b.val * 32768 + c.val * 2048 + u.val * 256 + o.toNat
  | .ldS16 d b c u o => 704643072 + d.val * 1048576 + b.val * 32768 + c.val * 2048 + u.val * 256 + o.toNat
  | .ldS32 d b c u o => 738197504 + d.val * 1048576 + b.val * 32768 + c.val * 2048 + u.val * 256 + o.toNat
  | .stZ8 d b c u o => 771751936 + d.val * 1048576 + b.val * 32768 + c.val * 2048 + u.val * 256 + o.toNat
  | .stZ16 d b c u o => 805306368 + d.val * 1048576 + b.val * 32768 + c.val * 2048 + u.val * 256 + o.toNat
  | .stZ32 d b c u o => 838860800 + d.val * 1048576 + b.val * 32768 + c.val * 2048 + u.val * 256 + o.toNat
  | .stZ64 d b c u o => 872415232 + d.val * 1048576 + b.val * 32768 + c.val * 2048 + u.val * 256 + o.toNat
  | .vld m b c u o => 905969664 + m.val * 1048576 + b.val * 32768 + c.val * 2048 + u.val * 256 + o.toNat
  | .vst m b c u o => 939524096 + m.val * 1048576 + b.val * 32768 + c.val * 2048 + u.val * 256 + o.toNat
  | .vgather m b c u => 973078528 + m.val * 1048576 + b.val * 32768 + c.val * 2048 + u.val * 256
  | .vscatter m b c u => 1006632960 + m.val * 1048576 + b.val * 32768 + c.val * 2048 + u.val * 256
  | .vradd m b c u t => 1040187392 + m.val * 1048576 + b.val * 32768 + c.val * 2048 + u.val * 256 + t.code
  | .amoZ32 d a b c s o => 1073741824 + d.val * 1048576 + a.val * 32768 + b.val * 1024 + c.val * 64 + s.code * 16 + o.code
  | .amoZ64 d a b c s o => 1107296256 + d.val * 1048576 + a.val * 32768 + b.val * 1024 + c.val * 64 + s.code * 16 + o.code
  | .casZ32 d a b c s => 1140850688 + d.val * 1048576 + a.val * 32768 + b.val * 1024 + c.val * 64 + s.code * 16
  | .casZ64 d a b c s => 1174405120 + d.val * 1048576 + a.val * 32768 + b.val * 1024 + c.val * 64 + s.code * 16
  | .pin d a b => 1207959552 + d.val * 1048576 + a.val * 32768 + b.val * 1024
  | .unpin a b => 1207959553 + a.val * 32768 + b.val * 1024
  | .cflush a b c => 1207959554 + a.val * 32768 + b.val * 1024 + c.val * 16
  | .cinv a b c => 1207959555 + a.val * 32768 + b.val * 1024 + c.val * 16
  | .stouch a b e => 1207959556 + a.val * 32768 + b.val * 1024 + e.toNat * 16
  | .swb a b c => 1207959557 + a.val * 32768 + b.val * 1024 + c.val * 16
  | .flagAdd a n => 1241513984 + a.val * 32768 + n.val * 16
  | .flagWait d a n => 1241513985 + d.val * 1048576 + a.val * 32768 + n.val * 16
  | .flagWaitSub d a n => 1241513986 + d.val * 1048576 + a.val * 32768 + n.val * 16
  | .flagRd d n => 1241513987 + d.val * 1048576 + n.val * 16
  | .wait t c s l => 1275068416 + t.val * 32768 + c.val * 1024 + s.val * 32 + l.val
  | .fence s m => 1308622848 + s.code * 65536 + m.toNat
  | .barArrive s => 1342177280 + s.val * 16
  | .barWait a s => 1342177281 + a.val * 32768 + s.val * 16
  | .startNext => 1375731712
  | .waitPred => 1375731713
  | .tspawn a => 1375731714 + a.val * 32768
  | .futRd d a => 1375731715 + d.val * 1048576 + a.val * 32768
  | .futFill d a b => 1375731716 + d.val * 1048576 + a.val * 32768 + b.val * 1024
  | .lvlCancel a l => 1375731717 + a.val * 32768 + l.code * 16
  | .lease u => 1409286144 + u.val * 16
  | .unlease => 1409286145
  | .mzero t => 1409286146 + t.val * 16
  | .mout t a b f => 1409286147 + t.val * 1048576 + a.val * 32768 + b.val * 1024 + f.val * 16
  | .moutRq t f => 1409286147 + t.val * 1048576 + f.val * 16
  | .mstat d => 1409286148 + d.val * 1048576
  | .sunbind a => 1442840576 + a.val * 32768
  | .sctxStart d a => 1442840577 + d.val * 1048576 + a.val * 32768
  | .sctxStop d a => 1442840593 + d.val * 1048576 + a.val * 32768
  | .sdepth d a b => 1442840578 + d.val * 1048576 + a.val * 32768 + b.val * 1024
  | .rowWait a b => 1476395008 + a.val * 32768 + b.val * 1024
  | .rowPost a => 1476395009 + a.val * 32768
  | .rowPostFrame => 1476395025
  | .rowPostSet a => 1476395041 + a.val * 32768
  | .rowRdPos d a => 1476395010 + d.val * 1048576 + a.val * 32768
  | .rowRdRec d a => 1476395026 + d.val * 1048576 + a.val * 32768
  | .rowRdStamp d a => 1476395042 + d.val * 1048576 + a.val * 32768
  | .roiRd d a b => 1476395011 + d.val * 1048576 + a.val * 32768 + b.val * 1024
  | .alignWait d a b => 1476395012 + d.val * 1048576 + a.val * 32768 + b.val * 1024
  | .alignWaitCnt d a => 1476395028 + d.val * 1048576 + a.val * 32768
  | .trap n => 1509949440 + n.val * 16
  | .eret => 1509949441
  | .sysRd d r => 1509949442 + d.val * 1048576 + r.val * 16
  | .sysWr a r => 1509949443 + a.val * 32768 + r.val * 16
  | .time d => 1509949444 + d.val * 1048576
  | .tlbinvPage a => 1509949445 + a.val * 32768
  | .tlbinvAsid => 1509949461
  | .crgnOpen a b => 1509949446 + a.val * 32768 + b.val * 1024
  | .crgnClose => 1509949447
  | .crgnCloseMirror f => 1510998023 + f.val * 16
  | .selftestArray d => 1509949448 + d.val * 1048576
  | .loop v a i => 1543503872 + v.code * 1048576 + a.val * 32768 + i.toNat
  | .loopi v c n => 1577058304 + v.code * 1048576 + c.val * 1024 + n.val
  | .br b c s => 1610612736 + b.val * 8388608 + c.val * 2097152 + s.toNat * 1048576
  | .brPn b c s => 1610612738 + b.val * 8388608 + c.val * 2097152 + s.toNat * 1048576
  | .brPt b c s => 1610612739 + b.val * 8388608 + c.val * 2097152 + s.toNat * 1048576
  | .jmp b => 1644167168 + b.val * 8388608
  | .call b a => 1677721600 + b.val * 8388608 + a.val * 32768
  | .ret a => 1711276032 + a.val * 32768
  | .vany c k => 1744830464 + c.val * 1048576 + k.val
  | .vall c k => 1778384896 + c.val * 1048576 + k.val
  | .vcnt d k => 1811939328 + d.val * 1048576 + k.val
  | .popv d => 1845493760 + d.val * 1048576
  | .pushc a => 1879048192 + a.val * 32768
  | .pushd a => 1912602624 + a.val * 32768
  | .mktail a => 1946157056 + a.val * 32768
  | .endUnit => 1979711488
  | .mov d a k u => 2147483648 + d.val * 131072 + a.val * 8192 + k.val * 4 + u.toNat * 2
  | .movMain d n k => 2181038080 + d.val * 131072 + n.val * 32 + k.val * 4
  | .bcast d a i k u => 2214592512 + d.val * 131072 + a.val * 8192 + i.val * 32 + k.val * 4 + u.toNat * 2
  | .iota d t k => 2248146944 + d.val * 131072 + t.code * 32 + k.val * 4
  | .zero d k => 2281701376 + d.val * 131072 + k.val * 4
  | .extr a i u => 2317484032 + a.val * 8192 + i.val * 32 + u.toNat * 2
  | .fadd d a b t k u v => 2348810240 + d.val * 131072 + a.val * 8192 + b.val * 512 + t.code * 32 + k.val * 4 + u.toNat * 2 + v.toNat
  | .fsub d a b t k u v => 2382364672 + d.val * 131072 + a.val * 8192 + b.val * 512 + t.code * 32 + k.val * 4 + u.toNat * 2 + v.toNat
  | .fmul d a b t k u v => 2415919104 + d.val * 131072 + a.val * 8192 + b.val * 512 + t.code * 32 + k.val * 4 + u.toNat * 2 + v.toNat
  | .fmin d a b t k u v => 2449473536 + d.val * 131072 + a.val * 8192 + b.val * 512 + t.code * 32 + k.val * 4 + u.toNat * 2 + v.toNat
  | .fmax d a b t k u v => 2483027968 + d.val * 131072 + a.val * 8192 + b.val * 512 + t.code * 32 + k.val * 4 + u.toNat * 2 + v.toNat
  | .fcmp x p a b t k u v => 2516582400 + x.code * 1048576 + p.val * 131072 + a.val * 8192 + b.val * 512 + t.code * 32 + k.val * 4 + u.toNat * 2 + v.toNat
  | .fabs d a t k u => 2550136832 + d.val * 131072 + a.val * 8192 + t.code * 32 + k.val * 4 + u.toNat * 2
  | .fneg d a t k u => 2550137344 + d.val * 131072 + a.val * 8192 + t.code * 32 + k.val * 4 + u.toNat * 2
  | .fclass d a t k u => 2550137856 + d.val * 131072 + a.val * 8192 + t.code * 32 + k.val * 4 + u.toNat * 2
  | .frcp d a t k u => 2550138368 + d.val * 131072 + a.val * 8192 + t.code * 32 + k.val * 4 + u.toNat * 2
  | .frsqrt d a t k u => 2550138880 + d.val * 131072 + a.val * 8192 + t.code * 32 + k.val * 4 + u.toNat * 2
  | .fsqrt d a t k u => 2550139392 + d.val * 131072 + a.val * 8192 + t.code * 32 + k.val * 4 + u.toNat * 2
  | .fexp2 d a t k u => 2550139904 + d.val * 131072 + a.val * 8192 + t.code * 32 + k.val * 4 + u.toNat * 2
  | .flog2 d a t k u => 2550140416 + d.val * 131072 + a.val * 8192 + t.code * 32 + k.val * 4 + u.toNat * 2
  | .ftanh d a t k u => 2550140928 + d.val * 131072 + a.val * 8192 + t.code * 32 + k.val * 4 + u.toNat * 2
  | .fsig d a t k u => 2550141440 + d.val * 131072 + a.val * 8192 + t.code * 32 + k.val * 4 + u.toNat * 2
  | .fmaF32 d a b c k u v => 2583691264 + d.val * 131072 + a.val * 8192 + b.val * 512 + c.val * 32 + k.val * 4 + u.toNat * 2 + v.toNat
  | .fmaBf16 d a b c k u v => 2617245696 + d.val * 131072 + a.val * 8192 + b.val * 512 + c.val * 32 + k.val * 4 + u.toNat * 2 + v.toNat
  | .fmaF16 d a b c k u v => 2650800128 + d.val * 131072 + a.val * 8192 + b.val * 512 + c.val * 32 + k.val * 4 + u.toNat * 2 + v.toNat
  | .fmsF32 d a b c k u v => 2684354560 + d.val * 131072 + a.val * 8192 + b.val * 512 + c.val * 32 + k.val * 4 + u.toNat * 2 + v.toNat
  | .fmsBf16 d a b c k u v => 2717908992 + d.val * 131072 + a.val * 8192 + b.val * 512 + c.val * 32 + k.val * 4 + u.toNat * 2 + v.toNat
  | .fmsF16 d a b c k u v => 2751463424 + d.val * 131072 + a.val * 8192 + b.val * 512 + c.val * 32 + k.val * 4 + u.toNat * 2 + v.toNat
  | .fnmaF32 d a b c k u v => 2785017856 + d.val * 131072 + a.val * 8192 + b.val * 512 + c.val * 32 + k.val * 4 + u.toNat * 2 + v.toNat
  | .fnmaBf16 d a b c k u v => 2818572288 + d.val * 131072 + a.val * 8192 + b.val * 512 + c.val * 32 + k.val * 4 + u.toNat * 2 + v.toNat
  | .fnmaF16 d a b c k u v => 2852126720 + d.val * 131072 + a.val * 8192 + b.val * 512 + c.val * 32 + k.val * 4 + u.toNat * 2 + v.toNat
  | .vadd d a b t k u v => 2885681152 + d.val * 131072 + a.val * 8192 + b.val * 512 + t.code * 32 + k.val * 4 + u.toNat * 2 + v.toNat
  | .vsub d a b t k u v => 2919235584 + d.val * 131072 + a.val * 8192 + b.val * 512 + t.code * 32 + k.val * 4 + u.toNat * 2 + v.toNat
  | .vadds d a b t k u v => 2952790016 + d.val * 131072 + a.val * 8192 + b.val * 512 + t.code * 32 + k.val * 4 + u.toNat * 2 + v.toNat
  | .vsubs d a b t k u v => 2986344448 + d.val * 131072 + a.val * 8192 + b.val * 512 + t.code * 32 + k.val * 4 + u.toNat * 2 + v.toNat
  | .vmul d a b t k u v => 3019898880 + d.val * 131072 + a.val * 8192 + b.val * 512 + t.code * 32 + k.val * 4 + u.toNat * 2 + v.toNat
  | .vmulh d a b t k u v => 3053453312 + d.val * 131072 + a.val * 8192 + b.val * 512 + t.code * 32 + k.val * 4 + u.toNat * 2 + v.toNat
  | .vmin d a b t k u v => 3087007744 + d.val * 131072 + a.val * 8192 + b.val * 512 + t.code * 32 + k.val * 4 + u.toNat * 2 + v.toNat
  | .vmax d a b t k u v => 3120562176 + d.val * 131072 + a.val * 8192 + b.val * 512 + t.code * 32 + k.val * 4 + u.toNat * 2 + v.toNat
  | .vand d a b t k u v => 3154116608 + d.val * 131072 + a.val * 8192 + b.val * 512 + t.code * 32 + k.val * 4 + u.toNat * 2 + v.toNat
  | .vor d a b t k u v => 3187671040 + d.val * 131072 + a.val * 8192 + b.val * 512 + t.code * 32 + k.val * 4 + u.toNat * 2 + v.toNat
  | .vxor d a b t k u v => 3221225472 + d.val * 131072 + a.val * 8192 + b.val * 512 + t.code * 32 + k.val * 4 + u.toNat * 2 + v.toNat
  | .vshl d a b t k u v => 3254779904 + d.val * 131072 + a.val * 8192 + b.val * 512 + t.code * 32 + k.val * 4 + u.toNat * 2 + v.toNat
  | .vshr d a b t k u v => 3288334336 + d.val * 131072 + a.val * 8192 + b.val * 512 + t.code * 32 + k.val * 4 + u.toNat * 2 + v.toNat
  | .vshls d a b t k u v => 3321888768 + d.val * 131072 + a.val * 8192 + b.val * 512 + t.code * 32 + k.val * 4 + u.toNat * 2 + v.toNat
  | .vcmp x p a b t k u v => 3355443200 + x.code * 1048576 + p.val * 131072 + a.val * 8192 + b.val * 512 + t.code * 32 + k.val * 4 + u.toNat * 2 + v.toNat
  | .vabs d a t k u => 3388997632 + d.val * 131072 + a.val * 8192 + t.code * 32 + k.val * 4 + u.toNat * 2
  | .vabss d a t k u => 3388998144 + d.val * 131072 + a.val * 8192 + t.code * 32 + k.val * 4 + u.toNat * 2
  | .vneg d a t k u => 3388998656 + d.val * 131072 + a.val * 8192 + t.code * 32 + k.val * 4 + u.toNat * 2
  | .vnegs d a t k u => 3388999168 + d.val * 131072 + a.val * 8192 + t.code * 32 + k.val * 4 + u.toNat * 2
  | .vnot d a t k u => 3388999680 + d.val * 131072 + a.val * 8192 + t.code * 32 + k.val * 4 + u.toNat * 2
  | .vclz d a t k u => 3389000192 + d.val * 131072 + a.val * 8192 + t.code * 32 + k.val * 4 + u.toNat * 2
  | .vpopc d a t k u => 3389000704 + d.val * 131072 + a.val * 8192 + t.code * 32 + k.val * 4 + u.toNat * 2
  | .cvtRne d a s t k u => 3422552064 + d.val * 131072 + a.val * 8192 + s.code * 512 + t.code * 32 + k.val * 4 + u.toNat * 2
  | .cvtsRne d a s t k u => 3422552065 + d.val * 131072 + a.val * 8192 + s.code * 512 + t.code * 32 + k.val * 4 + u.toNat * 2
  | .cvtRtz d a s t k u => 3456106496 + d.val * 131072 + a.val * 8192 + s.code * 512 + t.code * 32 + k.val * 4 + u.toNat * 2
  | .cvtsRtz d a s t k u => 3456106497 + d.val * 131072 + a.val * 8192 + s.code * 512 + t.code * 32 + k.val * 4 + u.toNat * 2
  | .cvtRup d a s t k u => 3489660928 + d.val * 131072 + a.val * 8192 + s.code * 512 + t.code * 32 + k.val * 4 + u.toNat * 2
  | .cvtsRup d a s t k u => 3489660929 + d.val * 131072 + a.val * 8192 + s.code * 512 + t.code * 32 + k.val * 4 + u.toNat * 2
  | .cvtRdn d a s t k u => 3523215360 + d.val * 131072 + a.val * 8192 + s.code * 512 + t.code * 32 + k.val * 4 + u.toNat * 2
  | .cvtsRdn d a s t k u => 3523215361 + d.val * 131072 + a.val * 8192 + s.code * 512 + t.code * 32 + k.val * 4 + u.toNat * 2
  | .qpack d a p b f k u => 3556769792 + d.val * 131072 + a.val * 8192 + p.val * 1024 + b.val * 256 + f.toNat * 32 + k.val * 4 + u.toNat * 2
  | .qunpack d a p b m f k u => 3590324224 + d.val * 131072 + a.val * 8192 + p.val * 1024 + b.val * 256 + m.code * 64 + f.toNat * 32 + k.val * 4 + u.toNat * 2
  | .kand d a b k => 3623878656 + d.val * 131072 + a.val * 8192 + b.val * 512 + k.val * 4
  | .kor d a b k => 3623878688 + d.val * 131072 + a.val * 8192 + b.val * 512 + k.val * 4
  | .kxor d a b k => 3623878720 + d.val * 131072 + a.val * 8192 + b.val * 512 + k.val * 4
  | .kandn d a b k => 3623878752 + d.val * 131072 + a.val * 8192 + b.val * 512 + k.val * 4
  | .knot d a k => 3623878784 + d.val * 131072 + a.val * 8192 + k.val * 4
  | .kmov d a k => 3623878816 + d.val * 131072 + a.val * 8192 + k.val * 4
  | .kpop d k => 3623878848 + d.val * 131072 + k.val * 4
  | .selExecute d a b k u v => 3657433088 + d.val * 131072 + a.val * 8192 + b.val * 512 + k.val * 4 + u.toNat * 2 + v.toNat
  | .rsum d a t k u => 3690987520 + d.val * 131072 + a.val * 8192 + t.code * 32 + k.val * 4 + u.toNat * 2
  | .rmax d a t k u => 3690988032 + d.val * 131072 + a.val * 8192 + t.code * 32 + k.val * 4 + u.toNat * 2
  | .rmin d a t k u => 3690988544 + d.val * 131072 + a.val * 8192 + t.code * 32 + k.val * 4 + u.toNat * 2
  | .risum d a t k u => 3690989056 + d.val * 131072 + a.val * 8192 + t.code * 32 + k.val * 4 + u.toNat * 2
  | .risums d a t k u => 3690989568 + d.val * 131072 + a.val * 8192 + t.code * 32 + k.val * 4 + u.toNat * 2
  | .perm d a b t k u v => 3724541952 + d.val * 131072 + a.val * 8192 + b.val * 512 + t.code * 32 + k.val * 4 + u.toNat * 2 + v.toNat
  | .rot d a n k u => 3758096384 + d.val * 131072 + a.val * 8192 + n.val * 32 + k.val * 4 + u.toNat * 2
  | .shuf d a p t k u => 3791650816 + d.val * 131072 + a.val * 8192 + p.code * 512 + t.code * 32 + k.val * 4 + u.toNat * 2
  | .slide d a b n k u v => 3825205248 + d.val * 131072 + a.val * 8192 + b.val * 512 + n.val * 32 + k.val * 4 + u.toNat * 2 + v.toNat
  | .vloop v n => 3858759680 + v.code * 131072 + n.val * 32
  | .mma a b f _ => 4026531840 + a.val * 1048576 + b.val * 32768 + f.val * 16
  | .mmaSp a b c f _ => 4026531840 + a.val * 1048576 + b.val * 32768 + c.val * 1024 + f.val * 16 + 1
  | .mkat a f _ => 4026531840 + a.val * 1048576 + f.val * 16 + 2
  | .copy a b c f _ => 4060086272 + a.val * 1048576 + b.val * 32768 + c.val * 1024 + f.val * 16
  | .copys a b c f _ => 4060086272 + a.val * 1048576 + b.val * 32768 + c.val * 1024 + f.val * 16 + 1
  | .copyDec a b f _ => 4060086272 + a.val * 1048576 + b.val * 32768 + f.val * 16 + 2
  | .fill a b f _ => 4060086272 + a.val * 1048576 + b.val * 32768 + f.val * 16 + 3
  | .copyPeer a b c f _ => 4060086272 + a.val * 1048576 + b.val * 32768 + c.val * 1024 + f.val * 16 + 4
  | .wrq a b c f _ => 4060086272 + a.val * 1048576 + b.val * 32768 + c.val * 1024 + f.val * 16 + 5
  | .dtab a f _ => 4060086272 + a.val * 1048576 + f.val * 16 + 6
  | .vlds a _ => 4093640704 + a.val * 1048576
  | .vsts a _ => 4093640704 + a.val * 1048576 + 1
  | .sbind a b c f _ => 4127195136 + a.val * 1048576 + b.val * 32768 + c.val * 1024 + f.val * 16
  | .tileCommit a b c f _ => 4160749568 + a.val * 1048576 + b.val * 32768 + c.val * 1024 + f.val * 16
  | .alignSet a b f _ => 4160749568 + a.val * 1048576 + b.val * 32768 + f.val * 16 + 1
  | _ => 0

/-- The record of an extended instruction; `none` for a one-word instruction. -/
def encodeRec : Instr → Option ShapeRec
  | .mma _ _ _ rec => some rec
  | .mmaSp _ _ _ _ rec => some rec
  | .mkat _ _ rec => some rec
  | .copy _ _ _ _ rec => some rec
  | .copys _ _ _ _ rec => some rec
  | .copyDec _ _ _ rec => some rec
  | .fill _ _ _ rec => some rec
  | .copyPeer _ _ _ _ rec => some rec
  | .wrq _ _ _ _ rec => some rec
  | .dtab _ _ rec => some rec
  | .vlds _ rec => some rec
  | .vsts _ rec => some rec
  | .sbind _ _ _ _ rec => some rec
  | .tileCommit _ _ _ _ rec => some rec
  | .alignSet _ _ _ rec => some rec
  | _ => none

/-- Majors 0x78 to 0x7F are extended: one word and four record words (R120). -/
def isExtendedWord (w : Nat) : Bool := 0x78 ≤ bits w 31 25

/-- The length of an instruction in words (R67, R120). -/
def lengthWords (w : Nat) : Nat := if isExtendedWord w then 5 else 1

/-- The instruction of a word and, for an extended word, its record. -/
def decodeWith (w : Nat) (r : ShapeRec) : Except DecodeError Instr :=
  if isExtendedWord w then decodeExtended w r else decodeWord w

/-- A little-endian word of four bytes (R4, R115). -/
def word32OfBytes (b0 b1 b2 b3 : Byte) : Nat :=
  b0.toNat + b1.toNat * 256 + b2.toNat * 65536 + b3.toNat * 16777216

/-- Read one little-endian word from a list of bytes. -/
def takeWord : List Byte → Option (Nat × List Byte)
  | b0 :: b1 :: b2 :: b3 :: rest => some (word32OfBytes b0 b1 b2 b3, rest)
  | _ => none

/-- Read the four record words that follow an extended word (R67). -/
def takeRec (bs : List Byte) : Option (ShapeRec × List Byte) :=
  match takeWord bs with
  | none => none
  | some (a, bs) => match takeWord bs with
    | none => none
    | some (b, bs) => match takeWord bs with
      | none => none
      | some (c, bs) => match takeWord bs with
        | none => none
        | some (d, bs) => some (⟨BitVec.ofNat 32 a, BitVec.ofNat 32 b, BitVec.ofNat 32 c, BitVec.ofNat 32 d⟩, bs)

/-- Decode the instruction at the head of a byte list, and the bytes after it. -/
def decode (bs : List Byte) : Except DecodeError (Instr × List Byte) :=
  match takeWord bs with
  | none => .error .truncated
  | some (w, rest) =>
    if isExtendedWord w then
      match takeRec rest with
      | none => .error .truncated
      | some (r, rest) => match decodeExtended w r with
        | .ok i => .ok (i, rest)
        | .error e => .error e
    else match decodeWord w with
      | .ok i => .ok (i, rest)
      | .error e => .error e

/-- The four bytes of a word in memory, lowest address first (R4). -/
def bytesOfWord32 (w : Nat) : List Byte :=
  [BitVec.ofNat 8 w, BitVec.ofNat 8 (w / 256), BitVec.ofNat 8 (w / 65536), BitVec.ofNat 8 (w / 16777216)]

/-- The bytes of a record in memory. -/
def bytesOfRec (r : ShapeRec) : List Byte :=
  bytesOfWord32 r.w0.toNat ++ bytesOfWord32 r.w1.toNat ++ bytesOfWord32 r.w2.toNat ++ bytesOfWord32 r.w3.toNat

/-- The bytes of an instruction in memory: its word, then its record if it has one (R67, R115). -/
def encode (i : Instr) : List Byte :=
  bytesOfWord32 (encodeWord i) ++ (match encodeRec i with | some r => bytesOfRec r | none => [])

/-- The bytes of an instruction whose bits are `w`, numbered from the first word's bit 0; bits from `nbits` up are zero, up
to the longest instruction's five words. -/
def tableBytes (nbits w : Nat) : List Byte :=
  let v := w % 2 ^ nbits
  bytesOfWord32 v ++ bytesOfWord32 (v / 2 ^ 32) ++ bytesOfWord32 (v / 2 ^ 64) ++ bytesOfWord32 (v / 2 ^ 96) ++
    bytesOfWord32 (v / 2 ^ 128)

/-- What the decoder reads from an instruction whose bits are `w` (the opcode table's numbering). -/
def decodeTableWord (nbits w : Nat) : Option Instr :=
  match decode (tableBytes nbits w) with
  | .ok (i, _) => some i
  | .error _ => none

end Sys2Proof
end

