-- ==== Sys2Proof/Machine/Num.lean ====
section
/-! DEFINITION. Numbers (R24 to R47): integers and their narrowing functions, NBI codes, block scales, and the floating-point
formats with exact arithmetic on dyadic values and one rounding at the end. -/

namespace Sys2Proof
namespace Num

/-! ## Narrowing functions (R7) -/

/-- The n-bit unsigned value congruent to x (R7). -/
def wrapz (x : Int) (n : Nat) : Nat := (x % (2 : Int) ^ n).toNat

/-- The n-bit two's complement value congruent to x (R7). -/
def wrap (x : Int) (n : Nat) : Int :=
  let u := wrapz x n
  if 2 * u < 2 ^ n then (u : Int) else (u : Int) - (2 : Int) ^ n

/-- x clamped to lo..hi. -/
def clamp (x lo hi : Int) : Int := if x < lo then lo else if hi < x then hi else x

/-- x clamped to the signed n-bit range (R7). -/
def sat (x : Int) (n : Nat) : Int := clamp x (-(2 : Int) ^ (n - 1)) ((2 : Int) ^ (n - 1) - 1)

/-- x clamped to the unsigned n-bit range (R7). -/
def satz (x : Int) (n : Nat) : Int := clamp x 0 ((2 : Int) ^ n - 1)

/-! ## Floating-point formats (R32) and flags (R37) -/

/-- A binary format: exponent and fraction widths. -/
structure Fmt where
  ebits : Nat
  mbits : Nat
  deriving DecidableEq, Repr

def f32 : Fmt := ⟨8, 23⟩
def bf16 : Fmt := ⟨8, 7⟩
def f16 : Fmt := ⟨5, 10⟩
/-- A block scale is a 24-bit number with 15 fraction bits (R29). -/
def scaleFmt : Fmt := ⟨8, 15⟩

namespace Fmt

def width (f : Fmt) : Nat := f.ebits + f.mbits + 1
def bias (f : Fmt) : Nat := 2 ^ (f.ebits - 1) - 1
/-- The code of +∞. -/
def infCode (f : Fmt) : Nat := (2 ^ f.ebits - 1) * 2 ^ f.mbits
/-- The default NaN: sign 0, most significant fraction bit set (R32, R33). -/
def defaultNaN (f : Fmt) : Nat := f.infCode + 2 ^ (f.mbits - 1)
/-- The sign bit's weight. -/
def signBit (f : Fmt) : Nat := 2 ^ (f.ebits + f.mbits)

end Fmt

/-- The exception flags of FPMODE bits 7:3 (R37). -/
structure Flags where
  nv : Bool
  dz : Bool
  ovf : Bool
  unf : Bool
  nx : Bool
  deriving DecidableEq, Repr

namespace Flags

def none : Flags := ⟨false, false, false, false, false⟩
def invalid : Flags := ⟨true, false, false, false, false⟩
def divZero : Flags := ⟨false, true, false, false, false⟩
def inexact : Flags := ⟨false, false, false, false, true⟩
def union (a b : Flags) : Flags := ⟨a.nv || b.nv, a.dz || b.dz, a.ovf || b.ovf, a.unf || b.unf, a.nx || b.nx⟩
/-- The flags as FPMODE bits 7:3, shifted down by 3 (R37, R395). -/
def code (a : Flags) : Nat :=
  a.nx.toNat + 2 * a.unf.toNat + 4 * a.ovf.toNat + 8 * a.dz.toNat + 16 * a.nv.toNat
/-- The flags of a code of 5 bits. -/
def ofCode (n : Nat) : Flags := ⟨n.testBit 4, n.testBit 3, n.testBit 2, n.testBit 1, n.testBit 0⟩

end Flags

/-! ## Values -/

/-- What a float lane holds: a NaN, an infinity, or (−1)^neg · mant · 2^exp, a signed zero when mant is 0. -/
inductive Val where
  | nan (signalling : Bool)
  | inf (neg : Bool)
  | num (neg : Bool) (mant : Nat) (exp : Int)
  deriving DecidableEq, Repr

/-- The value of a code of format f (R32); a NaN is signalling when its top fraction bit is 0 (R33). -/
def unpack (f : Fmt) (x : Nat) : Val :=
  let neg := x / f.signBit % 2 == 1
  let e := x / 2 ^ f.mbits % 2 ^ f.ebits
  let m := x % 2 ^ f.mbits
  if e = 2 ^ f.ebits - 1 then
    if m = 0 then .inf neg else .nan (m / 2 ^ (f.mbits - 1) == 0)
  else if e = 0 then .num neg m (1 - (f.bias : Int) - f.mbits)
  else .num neg (m + 2 ^ f.mbits) ((e : Int) - f.bias - f.mbits)

namespace Val

def isNaN : Val → Bool
  | .nan _ => true
  | _ => false

def isSignalling : Val → Bool
  | .nan s => s
  | _ => false

def isInf : Val → Bool
  | .inf _ => true
  | _ => false

def isZero : Val → Bool
  | .num _ m _ => m == 0
  | _ => false

def negative : Val → Bool
  | .nan _ => false
  | .inf n => n
  | .num n _ _ => n

def neg : Val → Val
  | .nan s => .nan s
  | .inf n => .inf !n
  | .num n m e => .num (!n) m e

def abs : Val → Val
  | .nan s => .nan s
  | .inf _ => .inf false
  | .num _ m e => .num false m e

/-- A signed mantissa as an integer. -/
def signed (n : Bool) (m : Nat) : Int := if n then -(m : Int) else m

/-- x · y exactly; 0 · ∞ is a NaN (R164). A NaN result is quiet here: signalling operands are seen apart. DESIGN CHOICE (unsafe; assumption 105):
a zero product of R39 and R40, which compute in exact reals, has the exclusive or of the signs. -/
def mul : Val → Val → Val
  | .num n m e, .num n' m' e' => .num (n != n') (m * m') (e + e')
  | .inf n, .inf n' => .inf (n != n')
  | .inf n, .num n' m' _ => if m' = 0 then .nan false else .inf (n != n')
  | .num n m _, .inf n' => if m = 0 then .nan false else .inf (n != n')
  | _, _ => .nan false

/-- x + y exactly; the sign of an exact zero sum of opposite signs is − only in rdn (R34). -/
def add (mode : RoundMode) : Val → Val → Val
  | .num n m e, .num n' m' e' =>
    let lo := min e e'
    let s := signed n (m * 2 ^ (e - lo).toNat) + signed n' (m' * 2 ^ (e' - lo).toNat)
    if s = 0 then .num (if n = n' then n else mode == .rdn) 0 0
    else .num (s < 0) s.natAbs lo
  | .inf n, .inf n' => if n = n' then .inf n else .nan false
  | .inf n, .num .. => .inf n
  | .num .., .inf n => .inf n
  | _, _ => .nan false

/-- The order of two numbers that are no NaN, zeros of both signs equal: `none` when either is a NaN. -/
def lt : Val → Val → Bool
  | .num n m e, .num n' m' e' =>
    let lo := min e e'
    signed n (m * 2 ^ (e - lo).toNat) < signed n' (m' * 2 ^ (e' - lo).toNat)
  | .inf n, .inf n' => n && !n'
  | .inf n, .num .. => n
  | .num .., .inf n => !n
  | _, _ => false

def eq : Val → Val → Bool
  | .num n m e, .num n' m' e' =>
    let lo := min e e'
    signed n (m * 2 ^ (e - lo).toNat) == signed n' (m' * 2 ^ (e' - lo).toNat)
  | .inf n, .inf n' => n == n'
  | _, _ => false

end Val

/-! ## Rounding (R34, R36) -/

/-- Whether the magnitude is increased: `rem` is compared with half of `unit`, `sticky` says more bits follow. -/
def roundsUp (mode : RoundMode) (neg odd : Bool) (rem unit : Nat) (sticky : Bool) : Bool :=
  match mode with
  | .rne => (unit < 2 * rem) || (2 * rem == unit && unit ≠ 0 && (sticky || odd))
  | .rtz => false
  | .rup => !neg && (rem ≠ 0 || sticky)
  | .rdn => neg && (rem ≠ 0 || sticky)

/-- The magnitude mant·2^exp in units of 2^q, rounded to an integer, and whether it is inexact. -/
def roundAt (mode : RoundMode) (neg : Bool) (mant : Nat) (exp q : Int) (sticky : Bool) : Nat × Bool :=
  if q ≤ exp then (mant * 2 ^ (exp - q).toNat, sticky)
  else
    let u := 2 ^ (q - exp).toNat
    let sig := mant / u
    let rem := mant % u
    (sig + (roundsUp mode neg (sig % 2 == 1) rem u sticky).toNat, rem ≠ 0 || sticky)

/-- Overflow's result in each mode: infinity or the largest finite value (R34). -/
def overflowCode (f : Fmt) (mode : RoundMode) (neg : Bool) : Nat :=
  match mode with
  | .rne => f.infCode
  | .rtz => f.infCode - 1
  | .rup => if neg then f.infCode - 1 else f.infCode
  | .rdn => if neg then f.infCode else f.infCode - 1

/-- Round a nonzero magnitude (mant·2^exp, plus a positive fraction of 2^exp when sticky) to a code of format f, with its
flags. Tininess is detected after rounding (R34); under `ftz` a subnormal result becomes a zero with UF and NX (R36). -/
def roundMag (f : Fmt) (mode : RoundMode) (ftz neg : Bool) (mant : Nat) (exp : Int) (sticky : Bool) : Nat × Flags :=
  let s := if neg then f.signBit else 0
  let emin : Int := 1 - f.bias
  let top : Int := (Nat.log2 mant : Int) + exp
  let q := max (top - f.mbits) (emin - f.mbits)
  let (sig, inx) := roundAt mode neg mant exp q sticky
  let code := (sig : Int) + (q - (emin - f.mbits)) * (2 : Int) ^ f.mbits
  if (f.infCode : Int) ≤ code then
    (s + overflowCode f mode neg, ⟨false, false, true, false, true⟩)
  else
    let full := (roundAt mode neg mant exp (top - f.mbits) sticky).1
    let tiny := top < emin && !(top == emin - 1 && full == 2 ^ (f.mbits + 1))
    let c := code.toNat
    if ftz && c < 2 ^ f.mbits && c ≠ 0 then (s, ⟨false, false, false, true, true⟩)
    else (s + c, ⟨false, false, false, tiny && inx, inx⟩)

/-- A value as a code of format f, rounded once, with its flags; every NaN is the default NaN (R33, R34, R36). -/
def round (f : Fmt) (mode : RoundMode) (ftz : Bool) : Val → Nat × Flags
  | .nan _ => (f.defaultNaN, .none)
  | .inf n => ((if n then f.signBit else 0) + f.infCode, .none)
  | .num n m e =>
    if m = 0 then ((if n then f.signBit else 0), .none) else roundMag f mode ftz n m e false

/-- An operand as read: a subnormal reads as a zero of its sign under FTZ, with no flag (R36). -/
def flushIn (ftz : Bool) (f : Fmt) (x : Nat) : Nat :=
  if ftz && x / 2 ^ f.mbits % 2 ^ f.ebits == 0 then x / f.signBit % 2 * f.signBit else x % 2 ^ f.width

/-- The bits of a lane read as format f and flushed, as a value: `fin` of the execute slice's pseudocode. -/
def load (ftz : Bool) (f : Fmt) (x : Nat) : Val := unpack f (flushIn ftz f x)

/-- NV when any of the operands is a signalling NaN (R33). -/
def signalled (vs : List Val) : Flags := if vs.any Val.isSignalling then .invalid else .none

/-- A result that is a NaN made from operands none of which is a NaN is invalid (R164). -/
def madeNaN (vs : List Val) (r : Val) : Flags :=
  if r.isNaN && !(vs.any Val.isNaN) then .invalid else .none

/-- `fout`: round a result formed from operands vs, with every flag (R33, R34, R36, R164). -/
def store (f : Fmt) (mode : RoundMode) (ftz : Bool) (vs : List Val) (r : Val) : Nat × Flags :=
  let (c, fl) := round f mode ftz r
  (c, (fl.union (signalled vs)).union (madeNaN vs r))

/-! ## Arithmetic of the execute slice (R164 to R168) -/

def fadd (f : Fmt) (mode : RoundMode) (ftz : Bool) (x y : Nat) : Nat × Flags :=
  let a := load ftz f x; let b := load ftz f y
  store f mode ftz [a, b] (a.add mode b)

def fsub (f : Fmt) (mode : RoundMode) (ftz : Bool) (x y : Nat) : Nat × Flags :=
  let a := load ftz f x; let b := load ftz f y
  store f mode ftz [a, b] (a.add mode b.neg)

def fmul (f : Fmt) (mode : RoundMode) (ftz : Bool) (x y : Nat) : Nat × Flags :=
  let a := load ftz f x; let b := load ftz f y
  store f mode ftz [a, b] (a.mul b)

/-- The fused forms round once; 0 · ∞ is invalid whatever z is (R164). -/
def fused (f : Fmt) (mode : RoundMode) (ftz negProduct negAddend : Bool) (x y z : Nat) : Nat × Flags :=
  let a := load ftz f x; let b := load ftz f y; let c := load ftz f z
  let p := a.mul b
  let p' := if negProduct then p.neg else p
  let c' := if negAddend then c.neg else c
  let (r, fl) := store f mode ftz [a, b, c] (p'.add mode c')
  (r, fl.union (madeNaN [a, b] p))

/-- −0 is below +0 in FMIN and FMAX (R165). -/
def below (x y : Val) : Bool := x.lt y || (x.eq y && x.negative && !y.negative)

/-- FMIN and FMAX: one of the operands' flushed codes (R165). -/
def fminmax (f : Fmt) (ftz isMax : Bool) (x y : Nat) : Nat × Flags :=
  let x' := flushIn ftz f x; let y' := flushIn ftz f y
  let a := unpack f x'; let b := unpack f y'
  let fl := signalled [a, b]
  if a.isNaN && b.isNaN then (f.defaultNaN, fl)
  else if a.isNaN then (y', fl)
  else if b.isNaN then (x', fl)
  else ((if isMax then (if below a b then y' else x') else (if below b a then y' else x')), fl)

/-- FCMP's conditions and the NaNs that raise NV (R166). -/
def fcmp (f : Fmt) (ftz : Bool) (c : FCond) (x y : Nat) : Bool × Flags :=
  let a := load ftz f x; let b := load ftz f y
  let anyNaN := a.isNaN || b.isNaN
  let sig := signalled [a, b]
  let any := if anyNaN then Flags.invalid else Flags.none
  match c with
  | .eq => (a.eq b, sig)
  | .ne => (!(a.eq b), sig)
  | .lt => (a.lt b, any)
  | .le => (a.lt b || a.eq b, any)
  | .un => (anyNaN, sig)

/-- FCLASS's mask, exactly one of bits 9:0 (R168). -/
def fclass (f : Fmt) (ftz : Bool) (x : Nat) : Nat :=
  let x' := flushIn ftz f x
  match unpack f x' with
  | .nan s => if s then 2 ^ 8 else 2 ^ 9
  | .inf n => if n then 2 ^ 0 else 2 ^ 7
  | .num n m _ =>
    if m = 0 then (if n then 2 ^ 3 else 2 ^ 4)
    else if m < 2 ^ f.mbits then (if n then 2 ^ 2 else 2 ^ 5)
    else (if n then 2 ^ 1 else 2 ^ 6)

/-! ## Special functions (R45 to R47) -/

/-- floor(sqrt x) from the bit of weight 2^n down. -/
def isqrtFrom : Nat → Nat → Nat → Nat
  | 0, r, x => if (r + 1) * (r + 1) ≤ x then r + 1 else r
  | n + 1, r, x =>
    let r' := r + 2 ^ (n + 1)
    isqrtFrom n (if r' * r' ≤ x then r' else r) x

/-- floor(sqrt x). -/
def isqrt (x : Nat) : Nat := isqrtFrom (Nat.log2 x / 2 + 1) 0 x

/-- Fraction bits of the fixed-point work. -/
def wide : Nat := 320

/-- Σ over k from n down to 1 of 2^wide / (k · 2^k): ln 2 in fixed point. -/
def ln2Sum : Nat → Nat
  | 0 => 0
  | k + 1 => 2 ^ wide / ((k + 1) * 2 ^ (k + 1)) + ln2Sum k

/-- ln 2 · 2^wide, to the last few units. -/
def ln2 : Nat := ln2Sum 330


/-- Terms of the Taylor series from index k on. -/
def expTerms (y : Nat) : Nat → Nat → Nat → Nat
  | 0, _, _ => 0
  | n + 1, k, term => term + expTerms y n (k + 1) (term * y / (2 ^ wide * k))

/-- 2^(fr / 2^wide) · 2^wide for 0 ≤ fr < 2^wide. -/
def exp2Frac (fr : Nat) : Nat := expTerms (fr * ln2 / 2 ^ wide) 100 1 (2 ^ wide)

/-- Terms z^(2k+1)/(2k+1) of atanh, `zz` being z². -/
def atanhTerms (zz : Nat) : Nat → Nat → Nat → Nat
  | 0, _, _ => 0
  | n + 1, k, zp => zp / (2 * k + 1) + atanhTerms zz n (k + 1) (zp * zz / 2 ^ wide)

/-- log2(num/den) · 2^wide for 1 ≤ num/den < 2. -/
def log2Frac (num den : Nat) : Nat :=
  let z := (num - den) * 2 ^ wide / (num + den)
  2 * atanhTerms (z * z / 2 ^ wide) 120 0 z * 2 ^ wide / ln2

/-- A value in fixed point with `wide` fraction bits, rounded toward −∞. -/
def fixed (n : Bool) (m : Nat) (e : Int) : Int :=
  let k := e + wide
  if 0 ≤ k then Val.signed n (m * 2 ^ k.toNat) else Int.fdiv (Val.signed n m) ((2 : Int) ^ (-k).toNat)

/-- Reciprocal (R45, R46). -/
def frcp (f : Fmt) (ftz : Bool) (x : Nat) : Nat × Flags :=
  match load ftz f x with
  | .nan s => (f.defaultNaN, if s then .invalid else .none)
  | .inf n => ((if n then f.signBit else 0), .none)
  | .num n m e =>
    if m = 0 then ((if n then f.signBit else 0) + f.infCode, .divZero)
    else
      let k : Nat := 96
      roundMag f .rne ftz n (2 ^ k / m) (-(k : Int) - e) (2 ^ k % m ≠ 0)

/-- Square root (R45, R46). -/
def fsqrt (f : Fmt) (ftz : Bool) (x : Nat) : Nat × Flags :=
  match load ftz f x with
  | .nan s => (f.defaultNaN, if s then .invalid else .none)
  | .inf n => if n then (f.defaultNaN, .invalid) else (f.infCode, .none)
  | .num n m e =>
    if m = 0 then ((if n then f.signBit else 0), .none)
    else if n then (f.defaultNaN, .invalid)
    else
      let m' := if e % 2 = 0 then m * 2 ^ 96 else m * 2 ^ 97
      let e' := if e % 2 = 0 then e - 96 else e - 97
      let r := isqrt m'
      roundMag f .rne ftz false r (e' / 2) (r * r ≠ m')

/-- Reciprocal square root (R45, R46). -/
def frsqrt (f : Fmt) (ftz : Bool) (x : Nat) : Nat × Flags :=
  match load ftz f x with
  | .nan s => (f.defaultNaN, if s then .invalid else .none)
  | .inf n => if n then (f.defaultNaN, .invalid) else (0, .none)
  | .num n m e =>
    if m = 0 then ((if n then f.signBit else 0) + f.infCode, .divZero)
    else if n then (f.defaultNaN, .invalid)
    else
      let m' := if e % 2 = 0 then m else 2 * m
      let e' := if e % 2 = 0 then e else e - 1
      let q := 2 ^ 192 / m'
      let r := isqrt q
      roundMag f .rne ftz false r (-96 - e' / 2) (r * r * m' ≠ 2 ^ 192)

/-- 2^x (R45, R46). Integer powers are exact; other results are irrational, so sticky is always right. -/
def fexp2 (f : Fmt) (ftz : Bool) (x : Nat) : Nat × Flags :=
  match load ftz f x with
  | .nan s => (f.defaultNaN, if s then .invalid else .none)
  | .inf n => if n then (0, .none) else (f.infCode, .none)
  | .num n m e =>
    let v := fixed n m e
    let ip := clamp (Int.fdiv v ((2 : Int) ^ wide)) (-1000) 1000
    let fr := (v % (2 : Int) ^ wide).toNat
    if fr = 0 then roundMag f .rne ftz false 1 ip false
    else roundMag f .rne ftz false (exp2Frac fr) (ip - wide) true

/-- log2 x (R45, R46). -/
def flog2 (f : Fmt) (ftz : Bool) (x : Nat) : Nat × Flags :=
  match load ftz f x with
  | .nan s => (f.defaultNaN, if s then .invalid else .none)
  | .inf n => if n then (f.defaultNaN, .invalid) else (f.infCode, .none)
  | .num n m e =>
    if m = 0 then (f.signBit + f.infCode, .divZero)
    else if n then (f.defaultNaN, .invalid)
    else
      let k := Nat.log2 m
      let ip : Int := e + k
      if m = 2 ^ k then round f .rne ftz (.num (ip < 0) ip.natAbs 0)
      else
        let t : Int := ip * (2 : Int) ^ wide + log2Frac m (2 ^ k)
        roundMag f .rne ftz (t < 0) t.natAbs (-(wide : Int)) true

/-- e^y as a mantissa with `wide` fraction bits and a power of two, y = v / 2^wide. -/
def expParts (v : Int) : Nat × Int :=
  let t := Int.fdiv (v * (2 : Int) ^ wide) ln2
  (exp2Frac (t % (2 : Int) ^ wide).toNat, Int.fdiv t ((2 : Int) ^ wide))

/-- tanh: x itself below 2^−12, ±1 from 10 up, else one of the two neighbours of the exact value, chosen by the magnitude
alone so that the function is odd (R45 to R47). -/
def ftanh (f : Fmt) (ftz : Bool) (x : Nat) : Nat × Flags :=
  let x' := flushIn ftz f x
  match unpack f x' with
  | .nan s => (f.defaultNaN, if s then .invalid else .none)
  | .inf n => ((if n then f.signBit else 0) + f.bias * 2 ^ f.mbits, .none)
  | .num n m e =>
    let s := if n then f.signBit else 0
    if m = 0 then (x', .none)
    else if (Val.num false m e).lt (.num false 1 (-12)) then (x', ⟨false, false, false, decide (x' % f.signBit < 2 ^ f.mbits), true⟩)
    else if !(Val.num false m e).lt (.num false 10 0) then (s + f.bias * 2 ^ f.mbits, .inexact)
    else
      let (r, p) := expParts (2 * fixed false m e)
      let big := r * 2 ^ p.toNat
      let num := (big - 2 ^ wide) * 2 ^ wide
      let mode : RoundMode := if Config.tanhUp f.mbits (x' % f.signBit) then .rup else .rdn
      let (c, fl) := roundMag f mode ftz false (num / (big + 2 ^ wide)) (-(wide : Int)) true
      (s + c, fl)

/-- The logistic function: 1.0 from 24 up, else one of the two neighbours of the exact value (R45 to R47). -/
def fsig (f : Fmt) (ftz : Bool) (x : Nat) : Nat × Flags :=
  let x' := flushIn ftz f x
  let one := f.bias * 2 ^ f.mbits
  match unpack f x' with
  | .nan s => (f.defaultNaN, if s then .invalid else .none)
  | .inf n => ((if n then 0 else one), .none)
  | .num n m e =>
    if m = 0 then (one - 2 ^ f.mbits, .none)
    else if !n && !(Val.num false m e).lt (.num false 24 0) then (one, .inexact)
    else
      let v := max (fixed n m e) (-(1000 * (2 : Int) ^ wide))
      let (r, p) := expParts v
      let mode : RoundMode := if Config.sigUp f.mbits x' then .rup else .rdn
      let sh := p.toNat
      let sh' := (-p).toNat
      let num := r * 2 ^ sh
      let den := 2 ^ (wide + sh') + num
      let k := wide + sh'
      roundMag f mode ftz false (num * 2 ^ k / den) (-(k : Int)) true

/-! ## Conversions (R39) -/

/-- Float to float, rounded once in the named mode; a NaN becomes the default NaN, with NV if signalling. -/
def convFF (src dst : Fmt) (mode : RoundMode) (ftz : Bool) (x : Nat) : Nat × Flags :=
  let a := load ftz src x
  store dst mode ftz [a] a

/-- Integer to float. -/
def convIF (dst : Fmt) (mode : RoundMode) (ftz : Bool) (x : Int) : Nat × Flags :=
  round dst mode ftz (.num (x < 0) x.natAbs 0)

/-- Float to integer in lo..hi: rounded, then clamped; a NaN gives 0 with NV, a value outside the range its nearer end with NV. -/
def convFI (src : Fmt) (mode : RoundMode) (ftz : Bool) (lo hi : Int) (x : Nat) : Int × Flags :=
  match load ftz src x with
  | .nan _ => (0, .invalid)
  | .inf n => ((if n then lo else hi), .invalid)
  | .num n m e =>
    let (sig, inx) := roundAt mode n m e 0 false
    let v := Val.signed n sig
    if v < lo then (lo, .invalid) else if hi < v then (hi, .invalid)
    else (v, if inx then .inexact else .none)

/-! ## NBI codes and block scales (R26 to R31) -/

/-- An 8-bit code as a signed integer. -/
def codeOf (b : Nat) : Int := wrap b 8

/-- The value of code q read at k planes (R26). -/
def nbiValue (q : Int) (k : Nat) : Int :=
  let qk := Int.fdiv q ((2 : Int) ^ (8 - k))
  let qk := if qk = -(2 : Int) ^ (k - 1) then qk + 1 else qk
  if k = 8 then qk else qk * (2 : Int) ^ (8 - k) + (2 : Int) ^ (7 - k)

/-- num/den rounded to the nearest integer, ties to even; den > 0. -/
def divRne (num : Int) (den : Nat) : Int :=
  let q := Int.fdiv num den
  let r := num - q * den
  if (den : Int) < 2 * r || (2 * r == den && q % 2 == 1) then q + 1 else q

/-- The code of y = num/den at p planes, as a signed integer with the planes below p zero (R28). -/
def quantise (num : Int) (den : Nat) (p : Nat) : Int :=
  if p = 8 then clamp (divRne num den) (-127) 127
  else clamp (Int.fdiv num ((den : Int) * (2 : Int) ^ (8 - p))) (-((2 : Int) ^ (p - 1) - 1)) ((2 : Int) ^ (p - 1) - 1) *
    (2 : Int) ^ (8 - p)

/-- The extreme code of a sign at p planes. -/
def extremeCode (neg : Bool) (p : Nat) : Int :=
  let m := ((2 : Int) ^ (p - 1) - 1) * (2 : Int) ^ (8 - p)
  if neg then -m else m

/-- The value of a 24-bit scale: exponent 0xFF reads as the largest finite scale, or as +0 when the fraction is not zero (R29). -/
def scaleValue (s : Nat) : Val :=
  let s := s % 2 ^ 24
  match unpack scaleFmt s with
  | .inf n => unpack scaleFmt ((if n then scaleFmt.signBit else 0) + (scaleFmt.infCode - 1))
  | .nan _ => .num false 0 0
  | v => v

/-- A value as a block scale: nearest, ties to even, subnormals kept, the largest finite scale on overflow or infinity, +0 for
a NaN (R31). `sticky` marks a positive remainder below 2^exp. -/
def scaleOf (v : Val) (sticky : Bool) : Nat :=
  let maxi := scaleFmt.infCode - 1
  match v with
  | .nan _ => 0
  | .inf n => (if n then scaleFmt.signBit else 0) + maxi
  | .num n m e =>
    let s := if n then scaleFmt.signBit else 0
    if m = 0 then s
    else
      let c := (roundMag scaleFmt .rne false n m e sticky).1 % scaleFmt.signBit
      s + min c maxi

/-! ## Element types (R24, R32, R70) -/

end Num

namespace ElemType

/-- The width of an element in bits; a q code is stored in 8 (R24, R26). -/
def width : ElemType → Nat
  | .z8 | .s8 | .q => 8
  | .z16 | .s16 | .bf16 | .f16 => 16
  | .z32 | .s32 | .f32 => 32
  | .z64 | .s64 => 64

/-- The width of an element in bytes. -/
def bytes (t : ElemType) : Nat := t.width / 8

def signed : ElemType → Bool
  | .s8 | .s16 | .s32 | .s64 => true
  | _ => false

/-- The floating-point format of a float type. -/
def fmt? : ElemType → Option Num.Fmt
  | .f32 => some Num.f32
  | .bf16 => some Num.bf16
  | .f16 => some Num.f16
  | _ => none

/-- The low bits of a lane read as the type's integer: `int` of the execute slice's pseudocode (R161). -/
def toInt (t : ElemType) (x : Nat) : Int :=
  if t.signed then Num.wrap x t.width else ((x % 2 ^ t.width : Nat) : Int)

/-- `nar`: the low bits of an exact result (R161). -/
def narrow (t : ElemType) (x : Int) : Nat := Num.wrapz x t.width

/-- `sn`: the exact result clamped to the type's range, as its bits (R161). -/
def saturate (t : ElemType) (x : Int) : Nat :=
  Num.wrapz (if t.signed then Num.sat x t.width else Num.satz x t.width) t.width

/-- The ends of the type's range. -/
def minValue (t : ElemType) : Int := if t.signed then -(2 : Int) ^ (t.width - 1) else 0
def maxValue (t : ElemType) : Int := if t.signed then (2 : Int) ^ (t.width - 1) - 1 else (2 : Int) ^ t.width - 1

end ElemType

end Sys2Proof
end

