-- ==== Sys2Proof/Machine/State.lean ====
section
/-! DEFINITION. The state of one TK480 part as plain data: the context that is in focus, the other contexts, memory with its
caches and translations, the scheduler, the crossing chains, the matrix arrays, streams, sensors, the Hatband, jobs, the
link and the housekeeping registers; and the ways a step can stop. -/

namespace Sys2Proof.Machine

/-- Why the machine stops with a fault. Every trap, exception and failure the manual describes is a next state instead. -/
inductive Fault where
  /-- Raised by `step` for any move but POWER_GOOD once the part's fatal event has stopped it (R431): the part resumes only
  after a reset. Safe: nothing is claimed of a stopped part. -/
  | partStopped
  deriving DecidableEq, Repr

/-- Why an instruction has no meaning. -/
inductive Refusal where
  /-- Raised by a dispatch arm of an instruction that is not modelled. Safe: no claim is made of it. -/
  | notModelled (mnemonic : String)
  deriving DecidableEq, Repr

/-- The causes of R387. -/
inductive Cause where
  | illegal | align | shape | queue | stream | future | trap | frame
  | page | perm | format | bus | window
  | decode | noslot | nopin | noframe | arrayFailed | unwound
  | ecc | restoreEcc | silent
  | cancel | preempt | timer | halt
  | laneFail | overheat | dispatchEcc | watchdog
  deriving DecidableEq, Repr

/-! ## Memory -/

/-- Memory as cells in rising address order, none of them zero: an address not listed reads as zero (assumption 5). -/
abbrev Memory := List Host.Cell

/-- The format of a page (R233). -/
inductive PageFormat where
  | raw | q | bf16 | f16 | f32
  deriving DecidableEq, Repr

/-- What a translation gives: the page's base and attributes (R232, R233). -/
structure PageAttr where
  vbase : Nat
  sizeLog : Nat
  pbase : Nat
  w : Bool
  x : Bool
  tso : Bool
  dev : Bool
  ec : Bool
  fmt : PageFormat
  spl : Nat
  blk : Nat
  swz : Nat
  scale : Nat
  deriving DecidableEq, Repr

/-- Where a byte that an access names lies (R218, R222). -/
inductive Place where
  | dram (pa : Nat)
  | peer (pa : Nat)
  | register (pa : Nat)
  | window (owner off : Nat)
  | nowhere
  deriving DecidableEq, Repr

/-- A held translation (R240), with the level that holds it: n the first level of core n, 128 + c the second level of cluster c,
160 + g Gusset g's, 288 the walker's, 320 + 2·c and 321 + 2·c those of cluster c's load pipes A and B. -/
structure TlbEntry where
  place : Nat
  asid : BitVec 16
  attr : PageAttr
  deriving DecidableEq, Repr

/-- A non-leaf entry that a strip's walkers hold (R241): the address bits it stands for, the levels below it still to come, and the
table it names, of 64 KiB pages or not. -/
structure WalkEntry where
  strip : Nat
  asid : BitVec 16
  key : Nat
  level : Nat
  table : Nat
  g64 : Bool
  deriving DecidableEq, Repr

/-- A cached address-space descriptor (R217). -/
structure SpaceDesc where
  asid : BitVec 16
  root : Nat
  pinq : Nat
  en : Bool
  bad : Bool
  deriving DecidableEq, Repr

/-- A line a slice holds in a way of its set, in LRU order in its list, with valid and dirty sectors, the ASID that pins it, and the core
whose consecutive atomics it counts with their number (R223, R227, R263). -/
structure SliceLine where
  line : Nat
  way : Nat
  valid : BitVec 4
  dirty : BitVec 4
  pin : Option (BitVec 16)
  atoms : Option (Nat × Nat)
  deriving DecidableEq, Repr

/-- A line a core's stash holds in its mapped part (R220, R226). -/
structure StashLine where
  line : Nat
  valid : BitVec 4
  dirty : BitVec 4
  owned : Bool
  deriving DecidableEq, Repr

/-! ## Accesses of a context -/

/-- The kinds of access a control slice issues. -/
inductive AccKind where
  | load (bytes : Nat) (signed : Bool)
  | store (bytes : Nat)
  | vload
  | vstore
  | gather
  | scatter
  | radd (t : ElemType)
  | vloads
  | vstores
  | amo (bytes : Nat) (op : AmoOp)
  | cas (bytes : Nat)
  | roi
  /-- What is left of a TSPAWN, FUT.RD or FUT.FILL (functions 2 to 4) whose access faulted (R249, R364, R367). -/
  | probe (fn : Nat)
  /-- CFLUSH, CINV or SWB, by its function code 2, 3 or 5 (R265). -/
  | cacheOp (fn : Nat)
  | fetch
  deriving DecidableEq, Repr

/-- One element of an access: its row and lane, its virtual address, its bytes of the element stream and its page. -/
structure Elem where
  row : Nat
  lane : Nat
  va : Nat
  n : Nat
  attr : PageAttr
  deriving DecidableEq, Repr

/-- Where an access, or one of its line-sized parts, stands. -/
inductive PartStage where
  | waiting
  | sent
  | filling
  | performed
  | returned
  deriving DecidableEq, Repr

/-- The elements of an access that lie in one line, which travel as one request (R283). -/
structure Part where
  line : Nat
  elems : List Elem
  stage : PartStage
  /-- Of a request that has reached the peer: the slack it had left, and whether it was late (R290, R297). -/
  slack : Nat
  late : Bool
  /-- Of a part that is being performed: its elements still to come, in their order (R250). -/
  left : Option (List Elem)
  deriving DecidableEq, Repr

/-- The stages of an access between issue and completion (R249, R391). -/
inductive AccStage where
  | walking
  | planned
  | faulted (c : Cause) (va : Word)
  | offered (c : Cause) (va : Word) (token : Nat)
  /-- The fault service declined, or had no room (R392). -/
  | declined (c : Cause) (va : Word)
  | dropped
  deriving DecidableEq, Repr

/-- An issued access that has not completed (R249, R396). -/
structure Access where
  id : Nat
  iaddr : Word
  kind : AccKind
  ea : Word
  v1 : Word
  v2 : Word
  shape : ShapeRec
  dest : Fin 32
  qi : Nat
  cls : Fin 16
  urg : Fin 8
  slack : Nat
  stage : AccStage
  parts : List Part
  /-- Rows taken from sq, oldest first (R108), and the identifiers of the first entries that it takes where a frame's descriptor names them (R397). -/
  rows : List Nat
  rowIds : List Nat
  /-- The value read so far: the scalar, or the rows as numbers, lane 0 lowest. -/
  data : List Nat
  tagged : Bool
  /-- Its mask register is g0, which names every lane; V1 of its descriptor is then zero (R254, R417). -/
  allLanes : Bool
  /-- It reaches a page with TSO = 1 and belongs to the TSO class (R353). -/
  tso : Bool
  /-- The lane width it was issued under (R102, R254). -/
  laneWidth : Nat
  /-- The format of the page that holds its base, once known: it fixes the element size (R254, R256). -/
  fmt : Option PageFormat
  deriving DecidableEq, Repr

/-! ## Queues, latches and loops of a context -/

/-- An entry of bq (R141, R153). -/
structure BqEntry where
  addr : Word
  taken : Bool
  target : Word
  tagged : Bool
  deriving DecidableEq, Repr

/-- An entry of lq or sq: reserved under an identifier, filled or not (R108). -/
structure RowEntry where
  id : Nat
  data : Row
  filled : Bool
  tagged : Bool
  deriving DecidableEq, Repr

/-- An entry of vq (R107, R149). -/
structure VqEntry where
  id : Nat
  data : Word
  filled : Bool
  deriving DecidableEq, Repr

/-- An execute result issued and not landed (R112, R395): `rem` issue clocks are left, 0 when it is due. -/
structure Latch where
  dest : Nat
  rem : Nat
  flags : BitVec 5
  qi : Nat
  mask : Word
  data : Row
  /-- Where its instruction stands in the execute slice's order: its stretch, and how many steps of the stretch came before (R440). -/
  stretch : Nat
  nth : Nat
  /-- Words that the result pushes to vq besides, each with its entry's identifier (R175). -/
  extra : List (Nat × Word)
  deriving DecidableEq, Repr

/-- The registers of one hardware loop level, its active bounds and whether it is active (R144). -/
structure LoopRegs where
  count : Word
  start : Word
  stop : Word
  actStart : Word
  actStop : Word
  active : Bool
  deriving DecidableEq, Repr

/-- A pending redirection: the address after the second delay slot, and the target when the transfer is taken (R110). -/
structure Redirect where
  after : Word
  target : Word
  taken : Bool
  deriving DecidableEq, Repr

/-- An open prediction or an unresolved branch (R152, R155). -/
structure Branch where
  addr : Word
  target : Word
  c : Fin 4
  sense : Bool
  predicted : Bool
  after : Word
  deriving DecidableEq, Repr

/-- A place in the execute slice's program order (R440): the stretch, the control instruction's address, and which execution of
it within the stretch. -/
structure OrderPoint where
  stretch : Nat
  addr : Word
  nth : Nat
  deriving DecidableEq, Repr

/-! ## Engine operations -/

/-- The kinds of engine operation (R188, R267, R340, R364, R413). -/
inductive OpKind where
  | mma | mmaSp | mkat | mzero | mout | moutRq | unlease | lease
  | copy | copys | copyDec | fill | copyPeer | wrq | dtab
  | commit | mirror | tspawn
  /-- A read at the peer for an instruction that waits for it: ERET's of its frame, TSPAWN's of its record (R218, R364, R398). -/
  | frame
  deriving DecidableEq, Repr

/-- The states of an engine operation. -/
inductive OpStage where
  | queued
  | started
  | suspended (c : Cause) (va : Word)
  | offered (c : Cause) (va : Word) (token : Nat)
  | atPeer
  /-- Stopped in the middle of a row or pass: it goes on to the row's or pass's end and then fails (R370). -/
  | failing (status code : Nat)
  deriving DecidableEq, Repr

/-- A line that an operation reads (R244, R378): its key, the first address that needs it, the page and the place that address had when the
line was asked for, the sectors it needs, the endpoint that asks, and how far the read has come. A read that the place refuses keeps its
cause (R222). `poison` lists the poisoned words of the line as read. -/
structure LineRead where
  key : Nat
  va : Nat
  attr : PageAttr
  place : Place
  mask : BitVec 4
  src : Nat
  stage : PartStage
  cause : Option Cause
  poison : List Nat
  slack : Nat
  late : Bool
  deriving DecidableEq, Repr

/-- The bytes of one line that an operation is writing: their address, page, place and value, and how far the write has come (R268, R285). -/
structure LineWrite where
  va : Nat
  attr : PageAttr
  place : Place
  bytes : List Byte
  stage : PartStage
  cause : Option Cause
  slack : Nat
  late : Bool
  deriving DecidableEq, Repr

/-- An engine operation issued and not completed. Register operands and the record are as captured at issue (R68, R356). -/
structure EngineOp where
  id : Nat
  kind : OpKind
  iaddr : Word
  flag : Fin 64
  a : Word
  b : Word
  c : Word
  shape : ShapeRec
  wide16 : Bool
  cls : Fin 16
  issueTime : Word
  stage : OpStage
  /-- Passes written, or bytes written in row-major order. -/
  progress : Nat
  order : OrderPoint
  /-- Issued before the running handler's entry, its execute point not yet reached (R189, R440). -/
  held : Bool
  sinceOpen : Bool
  slackTab : Nat
  /-- TSPAWN's record, WRQ's record, a mirror's pages. -/
  task : List Byte
  pages : List Nat
  /-- The move at which it was issued. -/
  seq : Nat
  /-- The lines asked for so far, their bytes under their physical addresses or window keys, and how many of the lines it needs have been
  asked for (R378). -/
  reads : List LineRead
  got : Memory
  nextRead : Nat
  /-- The write under way. -/
  write : Option LineWrite
  /-- The bit of its source at which COPY.DEC stands (R247). -/
  bitPos : Nat
  /-- The level of the lease under which a command runs, as it stood when the command started (R205, R287). -/
  level : Nat
  deriving DecidableEq, Repr

/-! ## Contexts -/

/-- What a kernel header says (R59). -/
structure KernelHeader where
  kind : Bool
  rm : RoundMode
  ftz : Bool
  w16 : Bool
  fut : Bool
  nm : Bool
  codelen : Nat
  nbar : Nat
  win : Nat
  nflag : Nat
  slktrap : BitVec 8
  slk : List Nat
  reserved : Bool
  deriving DecidableEq, Repr

/-- The trailer's drain bits (R63). -/
structure Trailer where
  atom : Bool
  scom : Bool
  spsh : Bool
  copy : Bool
  mat : Bool
  reserved : Bool
  deriving DecidableEq, Repr

/-- What a context is doing. -/
inductive RunState where
  | idle
  | running
  | saving
  | saved
  | draining
  | debugHalted
  deriving DecidableEq, Repr

/-- The identity of the unit a context runs, as the scheduler gave it (R57, R65). -/
structure UnitInfo where
  asid : BitVec 16
  slot : Nat
  seq : Word
  kref : Word
  arg : Word
  coords : List Word32
  place : Word
  nopl : Bool
  spawned : Bool
  header : KernelHeader
  trailer : Trailer
  done : Word
  minres : Nat
  /-- The group in which the unit was placed; `none` without a placement (R88, R89, R92). -/
  group : Option Nat
  deriving DecidableEq, Repr

/-- How a unit is to be counted when it retires (R48, R367). -/
inductive Fate where
  | ended
  | failed (c : Cause)
  | cancelled
  | squashed
  deriving DecidableEq, Repr

/-- Causes that are ready and not yet taken, other than an access's own fault (R387). -/
structure Ready where
  timer : Bool
  preempt : Bool
  cancel : Bool
  halt : Bool
  /-- The address at which poison was consumed, and the address of the instruction that consumed it. -/
  ecc : Option (Word × Word)
  /-- The address of the MKAT that mismatched. -/
  silent : Option Word
  deriving DecidableEq, Repr

/-- A mitten region (R405). -/
structure Region where
  isOpen : Bool
  handler : Word
  trk : Bool
  base : Nat
  pages : Nat
  marked : List Nat
  mir : Bool
  ucode : Nat
  fa : Word
  deriving DecidableEq, Repr

/-- The FENCE under way at the control slice's boundary: its classes and scope, the accesses it covers, and the slices its marker was
sent to and has been acknowledged by (R297, R361). -/
structure FenceWait where
  mask : BitVec 16
  scope : Scope
  upTo : Nat
  slices : List Nat
  acked : List Nat
  deriving DecidableEq, Repr

/-- The context of a unit on a control core, or of a program on a Gusset context (R101, R103, R414). -/
structure Context where
  run : RunState
  info : UnitInfo
  pcc : Word
  pcx : Word
  g : Vector Word 32
  b : Vector Word 4
  c : Vector Bool 4
  loopA : LoopRegs
  loopB : LoopRegs
  vloopA : LoopRegs
  vloopB : LoopRegs
  /-- The control slice's loop levels as they stood before the run-ahead of the open prediction, and before each of its tagged loads, by the
  load's first lq identifier (R154). -/
  spec : List (Nat × LoopRegs × LoopRegs)
  v : Vector Row 8
  live : Vector Bool 8
  m : Vector Row 128
  k : Vector Word 8
  f : Vector Word32 64
  bq : List BqEntry
  cq : List Word
  dq : List Word
  lq : List RowEntry
  sq : List RowEntry
  vq : List VqEntry
  latches : List Latch
  /-- The c indices of pending votes, oldest claim first; a claim of VCNT or POPV is not among them (R150). -/
  votes : List (Fin 4)
  redirC : Option Redirect
  redirX : Option Redirect
  prediction : Option Branch
  unresolved : Option Branch
  endedC : Bool
  endedX : Bool
  accesses : List Access
  /-- Accesses that stand as descriptors: those of the frame of the trap under way, and above them those of a saved image, as they stood when they
  were kept (R356, R396). -/
  kept : List (List Access)
  ops : List EngineOp
  nextId : Nat
  fence : Option FenceWait
  stretchC : Nat
  stretchX : Nat
  logC : List Word
  logX : List Word
  /-- The program-order record of the interrupted program while its handler runs. -/
  savedC : Nat
  savedX : Nat
  savedLogC : List Word
  savedLogX : List Word
  ready : Ready
  fate : Fate
  /-- SYS.RD, SYS.WR or another wait of R38 holds the execute slice: its latches go on (assumption 6). -/
  xdrain : Bool
  /-- A SELFTEST.ARRAY waits for its test, and then its result: whether the fault was lasting (R413). -/
  selftest : Option (Option Bool)
  region : Region
  /-- The position of a Gusset context as a stage (R332). -/
  position : Word
  /-- Which start of a stage SCTX.START of this context was; the ROW.WAIT that waits, and the start of the stage it waits for (R334). -/
  started : Nat
  rowWait : Option (Word × Nat)
  /-- The execute instruction that stalls on ports, by its place among those issued, and the handles of the ports' streams (R305). -/
  portWait : Option (Nat × Nat × List Nat)
  fpmode : Word
  w16 : Bool
  slacktab : Vector Word 3
  late : Word
  crcfg : Word
  crcnt : Word
  trapbase : Word
  tframe : Word
  timecmp : Word
  lcode : BitVec 8
  fse : Bool
  inh : Bool
  /-- INH of a context that is halted for debug, as it stood at the halt (R439). -/
  haltedInh : Bool
  /-- Its unit has retired and been counted, and commands of it still hold the core (R48, R215). -/
  counted : Bool
  /-- The completion word of a Gusset context that has left is yet to be written (R302, R419). -/
  owesWord : Bool
  /-- The level of the LEASE in force: its request, its term or the commands left over from its term (R193, R195, R205). -/
  leaseLevel : Option (Fin 8)
  saveSlot : Option Nat
  /-- The core or Gusset context it runs on, or ran on before it was saved or retired with operations under way. -/
  home : Nat
  deriving DecidableEq, Repr

/-! ## Describing, launching and placing -/

/-- A launch packet (R50, R51). -/
structure LaunchPacket where
  kref : Word
  arg : Word
  deadline : Word
  ctl : Word
  ext : List Nat
  pbase : Word
  pstr : List Word
  phase : Nat
  npred : Nat
  succ : List Nat
  done : Word
  graph : Nat
  reserved : Bool
  deriving DecidableEq, Repr

/-- A launch slot (R77, R48). -/
structure LaunchSlot where
  slot : Nat
  ring : Nat
  index : Nat
  asid : BitVec 16
  pkt : LaunchPacket
  header : KernelHeader
  trailer : Trailer
  pending : Nat
  count : Nat
  nbad : Nat
  failed : Bool
  cancelled : Bool
  late : Bool
  early : Bool
  walked : Nat
  total : Nat
  admitted : Nat
  /-- Admission numbers of the launches of its batch whose links name it. -/
  preds : List Nat
  /-- Every unit not on a core is cancelled (R85, R98), and sequence numbers cancelled before they were walked or returned. -/
  stopped : Bool
  skips : List Nat
  /-- The launch has been cancelled as a whole: its records are discarded as they come back from overflow rings (R98). -/
  dropped : Bool
  /-- The first bytes of code as the launch slot holds them: 256 at most, up to the first page that does not translate (R77). -/
  copied : List Byte
  /-- Memory as it stood at admission: what a word of code written since may still be fetched as (R62). -/
  code : Memory
  deriving DecidableEq, Repr

/-- A unit that waits for a core in a group's queue or the common queue (R91): new, or saved and to be resumed (R400). -/
structure Entry where
  info : UnitInfo
  resumed : Bool
  /-- The saved context's place, for a resumed unit. -/
  image : Option Nat
  home : Nat
  order : Nat
  /-- Set when its affinity wait has run out: the place of that among all such expiries (R91). -/
  expired : Option Nat
  deriving DecidableEq, Repr

/-- A task record in a bank, an overflow ring, the park table or the match table (R65). -/
structure TaskRec where
  info : UnitInfo
  dep : Nat
  future : Word
  /-- The core on which its unit was squashed, while the record is parked or woken and not dispatched again (R90). -/
  parkedOn : Option Nat
  /-- The header and trailer as read when the record first became an entry; `none` before (R66). -/
  checked : Option (KernelHeader × Trailer)
  deriving DecidableEq, Repr

/-- A submission ring (R72 to R81). -/
structure Ring where
  ring : Nat
  base : Word
  ready : Word
  headm : Word
  evt : Word
  cfg : Word
  stallt : Word
  enabled : Bool
  disabledByFault : Bool
  range : Bool
  stall : Bool
  tail : Word32
  head : Word32
  evcnt : Word32
  bounds : List Word32
  /-- The CTC at the last advance of HEAD, for the watchdog (R81). -/
  lastMove : Nat
  /-- The descriptor's reserved 16 bytes as written. -/
  rsvd : Nat
  /-- The packets of the current batch that have had their turn: ring index, admission number of one that took a launch slot, and the indices
  its links name (R53, R77). -/
  batch : List (Nat × Option Nat × List Nat)
  refusals : List (Nat × Nat)
  batchEnd : Word32
  deriving DecidableEq, Repr

/-- An entry of the link match table (R82). -/
structure MatchEntry where
  idx : Nat
  tag : Word32
  len : Word32
  count : Word32
  asid : BitVec 16
  armed : Bool
  done : Bool
  err : Bool
  recAddr : Word
  task : Option TaskRec
  deriving DecidableEq, Repr

/-- Counts of a graph or phase of a job (R48, R421, R442). -/
structure LevelCount where
  ident : Nat
  live : Nat
  launches : Nat
  status : Nat
  isSealed : Bool
  cancelled : Bool
  deriving DecidableEq, Repr

/-- A fault offered to a job's fault queue and not answered (R392). -/
structure Offer where
  token : Nat
  ctx : Nat
  engine : Bool
  ident : Nat
  deriving DecidableEq, Repr

/-- A job: its control block and service block, its levels and its offers (R422, R436, R48). -/
structure Job where
  asid : BitVec 16
  state : Nat
  auto : Bool
  /-- A unit has cancelled the job, which the host has not ended yet (R98). -/
  cancelled : Bool
  mirwa : Word
  fqbase : Nat
  fqlog : Nat
  spbase : Nat
  slotsz : Nat
  spnum : Nat
  offersWritten : Nat
  offers : List Offer
  graphs : List LevelCount
  phases : List LevelCount
  highPhase : Nat
  slotsUsed : List Nat
  pincnt : Nat
  deriving DecidableEq, Repr

/-! ## Chains, arrays, streams -/

/-- What a packet is (R283, R285, R297). -/
inductive PacketKind where
  | request
  | reply
  | marker
  | markerAck
  /-- A row writer's flit on its way to its home slice: `acc` is the stream's handle (R311). -/
  | rowWrite
  deriving DecidableEq, Repr

/-- A packet on the general lanes (R283, R289): `ctx`, `acc` and `part` name the part of the access, or the line of the operation, that it
carries; `lead` says that it is the first of two, whose second carries on; `urg` and `va` are the level and the address under which
a late request counts (R295). -/
structure Packet where
  id : Nat
  kind : PacketKind
  lead : Bool
  urg : Nat
  va : Nat
  src : Nat
  dst : Nat
  mask : BitVec 16
  slack : Nat
  late : Bool
  input : Nat
  ctx : Nat
  acc : Nat
  part : Nat
  deriving DecidableEq, Repr

/-- An arbiter's packets in order of arrival, and the FIFO of its last grant at effective slack 0 (R284, R291). -/
structure Arbiter where
  arb : ArbId
  packets : List Packet
  lastZero : Nat
  deriving DecidableEq, Repr

/-- A slice of the slice store: its request FIFOs, its lines in LRU order, its misses being filled, its mapped-out ways and its ways under
test (R223, R228, R285, R407). -/
structure SliceState where
  slice : Nat
  requests : List Packet
  lastZero : Nat
  lines : List SliceLine
  fills : List Packet
  waysOut : List Nat
  waysTest : List Nat
  /-- Copies of a context's fence that have reached the head of their FIFOs: context, fence, how many (R297). -/
  markers : List (Nat × Nat × Nat)
  deriving DecidableEq, Repr

/-- A control core's own storage: the stash's mapped lines, its window part, its split and its health (R219 to R222, R407, R415). -/
structure CoreState where
  core : Nat
  wink : Nat
  stash : List StashLine
  window : Memory
  windowReqs : List Packet
  lastZero : Nat
  quarantined : Bool
  withdrawn : Bool
  /-- The spare stash bank is in use (R407). -/
  spareUsed : Bool
  errstat : Word
  deriving DecidableEq, Repr

/-- A lease request waiting at an array (R191). -/
structure LeaseReq where
  core : Nat
  level : Fin 8
  slack : Nat
  implicit : Bool
  lateCounted : Bool
  deriving DecidableEq, Repr

/-- A running term (R193). -/
structure Term where
  core : Nat
  implicit : Bool
  started : Nat
  level : Fin 8
  deriving DecidableEq, Repr

/-- A cluster's matrix array, decoder and barrier slots (R12, R187 to R195, R245, R362). Index 32 + gid is a Gusset's array. -/
structure ArrayState where
  idx : Nat
  reqs : List LeaseReq
  term : Option Term
  lastHolder : Nat
  failed : Bool
  testing : Bool
  kmis : List Nat
  tables : List (Nat × List Nat)
  barriers : List (Nat × Nat × Word32)
  deriving DecidableEq, Repr

/-- A Gusset: health, and the stream entries its contexts set aside and reserve (R302, R304). -/
structure GussetState where
  gid : Nat
  withdrawn : Bool
  quarantined : Bool
  minres : List (Nat × Nat)
  remainderUsed : Nat
  /-- Lines of DRAM in the mapped part of its line buffer, in LRU order (R302). -/
  mapped : List StashLine
  windows : List (Nat × Memory)
  errstat : Word
  /-- The context, 0 to 3, that last issued in the control slice and in the execute slice (R300). -/
  lastControl : Nat
  lastExecute : Nat
  deriving DecidableEq, Repr

/-- Endpoint kinds (R306). -/
inductive EndKind where
  | gussetOut | resultQueue | camera | ethernet | gussetIn | operandQueue | rowWriter
  deriving DecidableEq, Repr

/-- An endpoint of a stream (R306). -/
structure Endpoint where
  kind : EndKind
  ident : Nat
  ctx : Nat
  port : Nat
  va : Nat
  deriving DecidableEq, Repr

/-- A bound stream: an entry of the part's stream table (R304 to R316). -/
structure Stream where
  entry : Nat
  gen : Nat
  asid : BitVec 16
  owner : Nat
  prod : Endpoint
  cons : Endpoint
  rows : Nat
  cols : Nat
  etype : ElemType
  stride : Nat
  cls : Fin 16
  res : Nat
  rofs : Nat
  fen : Bool
  flag : Fin 64
  off : Nat
  on : Nat
  lane : Option (Nat × Nat × Nat)
  slice : Nat
  /-- The consumer's and the producer's view of the flow state; `signal` is an on or off signal under way. -/
  consOn : Bool
  prodOn : Bool
  signals : List Bool
  /-- Flits the producer holds filled and not sent, and flits landed and not popped, released or performed. -/
  outgoing : List (BitVec 512)
  /-- Output entries reserved and not yet sent on, oldest first, each with its result's identifier and, once filled, its flit (R305). -/
  reserved : List (Nat × Option (BitVec 512))
  landed : List (BitVec 512)
  unsent : Nat
  sent : Nat
  taken : Nat
  frames : Nat
  fromMinimum : Nat
  /-- Of each flit from a receiver not yet popped: its frame, its row, and whether it is its slot's first or last, and its frame's last
  (R328, R336). -/
  slots : List (Nat × Nat × Bool × Bool × Bool)
  /-- A row writer's swizzle code and planes of q elements; the identifier from which on accesses of the binding context follow the binding (R312, R356). -/
  swz : Nat
  planes : Nat
  fork : Nat
  /-- A flit of a row whose home lies in another slice is on its way there in a packet (R311). -/
  writing : Bool
  deriving DecidableEq, Repr

/-! ## Sensors, time and alignment -/

/-- A row slot's status (R328). -/
inductive RowStatus where
  | good | corrupt | dropped | late
  deriving DecidableEq, Repr

/-- A frame of a receiver channel (R326 to R330). -/
structure Frame where
  /-- Its number, counted from the first accepted frame as 0, and the number that a lidar's sequence numbers give it (R327, R328). -/
  number : Nat
  series : Nat
  height : Nat
  width : Nat
  fs : Word
  rows : List (RowStatus × Word)
  /-- Row slots landed at the first port (R328, R332). -/
  landed : Nat
  /-- DECIDED: row slots landed or landing (R328). -/
  decided : Nat
  open_ : Bool
  /-- The CTC at which it was accepted: no row is decided before (R326, R330). -/
  opened : Nat
  deriving DecidableEq, Repr

/-- An installed receiver channel (R324). -/
structure Channel where
  ch : Nat
  ctl : Word
  wmax : Nat
  hmax : Nat
  rowofs : Word
  rowper : Nat
  udpport : Nat
  seqofs : Nat
  stat : Word
  /-- The record's reserved 24 bytes as written. -/
  rsvd : Nat
  enabled : Bool
  frames : Nat
  refused : Nat
  extra : Nat
  other : Nat
  /-- The frame being received before its header is known: its start stamp (R326). -/
  starting : Option Word
  refusing : Bool
  held : List Frame
  nextLine : Nat
  lastSeq : Option Nat
  lastRow : List Byte
  nextCommit : Nat
  /-- Which start of a stage its installation was (R334). -/
  started : Nat
  deriving DecidableEq, Repr

/-- A camera or Ethernet port outside the channels: its link, discarded packets and last stamps (R320, R323). -/
structure PortState where
  port : Nat
  gear : Option Nat
  other : Nat
  stamp : Word
  /-- The CTC when the last packet had arrived whole; the stamp of the last Pdelay_Req received (R323). -/
  since : Nat
  pdelay : Word
  deriving DecidableEq, Repr

/-- A member's tile in a set or in history (R344, R345). -/
structure TileRef where
  index : Nat
  valid : Bool
  set : Nat
  deriving DecidableEq, Repr

/-- An open set of a fusion group: its number and each member's accepted tile (R344). -/
structure FusionSet where
  n : Nat
  tiles : List (Option TileRef)
  deriving DecidableEq, Repr

/-- A fusion group of the Hatband (R342 to R347). -/
structure Group where
  grp : Nat
  asid : BitVec 16
  owner : Nat
  t0 : Word
  period : Nat
  win : Nat
  grace : Nat
  sensors : List Nat
  gbase : Word
  ring : Word
  rsz : Nat
  fen : Bool
  flag : Fin 64
  n0 : Nat
  rcount : Nat
  late : Nat
  miss : Nat
  sets : List FusionSet
  history : List (Option TileRef)
  deriving DecidableEq, Repr

/-! ## The pair, the host and the part's own registers -/

/-- What this part sends to the outside: to the host and to the peer. -/
inductive Outgoing where
  | interrupt
  | hostFrame (port : Nat) (stamp : Word) (bytes : List Byte)
  | egressStamp (port : Nat) (message : BitVec 8) (stamp : Word)
  /-- An event message as it leaves an Ethernet port (R323). -/
  | etherFrame (port : Nat) (bytes : List Byte)
  | control (port : Nat) (bytes : List Byte)
  | heartbeat (ctc : Word) (part : Bool)
  | idleFlit
  | fatalNotice
  /-- What crosses the link keeps the slack it had left and its late bit (R297). -/
  | peerWrite (w : PeerWrite)
  | peerRead (addr bytes slack : Nat) (late : Bool)
  | peerAdd (addr : Nat) (t : ElemType) (operand : Word) (slack : Nat) (late : Bool)
  | peerAtomic (addr bytes : Nat) (op : Option AmoOp) (expected operand : Word) (slack : Nat) (late : Bool)
  | wrq (m : WrqMsg)
  | mirror (m : MirrorMsg)
  | ack (r : PeerReply)
  | replayRequest
  deriving DecidableEq, Repr

/-- The Lanigidy link (R423 to R428, R437). -/
structure Link where
  en : Bool
  up : Bool
  training : Bool
  retraining : Bool
  hbhold : Bool
  reason : Nat
  /-- Flits the peer has acknowledged, of those sent. -/
  acked : Nat
  failedReplays : Nat
  /-- Reference cycles since the last heartbeat sent and the last received, since any flit arrived, and of a retraining. -/
  sinceSend : Nat
  sinceHeard : Nat
  idleIn : Nat
  retrainFor : Nat
  /-- A heartbeat has arrived since the link came up. -/
  heardOnce : Bool
  deriving DecidableEq, Repr

/-- The boot block (R432 to R434, R443). -/
structure Boot where
  state : Nat
  slot : Nat
  edf : Bool
  mlf : Bool
  version : Nat
  flash0 : List Byte
  flash1 : List Byte
  measurement : BitVec 384
  debugSeen : Bool
  quoting : Bool
  entry : Nat
  deriving DecidableEq, Repr

/-- The housekeeping registers that have no home elsewhere (R437). -/
structure Housekeeping where
  asdbase : Nat
  dramcap : Nat
  ptpepoch : Word
  prethr : Word
  heqbase : Nat
  heqlog : Nat
  heqcnt : Word32
  heqack : Word32
  heqLost : Bool
  ovfbase : Nat
  parkbase : Nat
  parklog : Nat
  temp : BitVec 8
  throttling : Bool
  pwrlim : Nat
  qaddr : Nat
  qdone : Bool
  dbgen : Bool
  deriving DecidableEq, Repr

/-- Chip time (R318, R319): integer part, 40-bit fraction, rate and the ticks still to be slewed. -/
structure ChipTime where
  ticks : Nat
  frac : Nat
  rate : BitVec 32
  slew : Nat
  /-- Half ticks left of the slew, as 2^−40 parts absorbed so far. -/
  absorbed : Nat
  deriving DecidableEq, Repr

/-- The queues between the walker and the cores (R91 to R95). Bank b of cluster c is number 4·c + b. -/
structure Queues where
  group0 : List Entry
  group1 : List Entry
  group2 : List Entry
  group3 : List Entry
  common : List Entry
  banks : List (Nat × List TaskRec)
  /-- Records ever taken from and put into a bank's overflow ring, whose bytes stand in memory (R93). -/
  overflow : List (Nat × Nat × Nat)
  /-- Of the records in overflow rings, by bank and place: the cores on which woken ones were squashed, and those removed (R90, R98). -/
  overflowOn : List (Nat × Nat × Nat)
  overflowGone : List (Nat × Nat)
  /-- The park table, of 1,024 records (R94). -/
  park : List TaskRec
  /-- The used places of the park overflow list, each with the core on which its unit was squashed (R94, R437). -/
  parkList : List (Nat × Nat)
  /-- Saved units for which neither their group's queue nor the common queue has had room yet (R88, R91). -/
  joining : List Entry
  nextOrder : Nat
  deriving DecidableEq, Repr

/-- The state of the part. -/
structure State where
  /-- The context in focus and its number; the others that are not idle, in rising order of number. -/
  ctx : Context
  self : Nat
  others : List (Nat × Context)
  /-- The slice whose half of a both-slice word `exec` runs. -/
  side : Slice
  agenda : List Input
  moves : Nat
  /-- Values the manual leaves open that have been drawn so far. -/
  draws : Nat
  mem : Memory
  dram : Memory
  poison : List Nat
  tlb : List TlbEntry
  walks : List WalkEntry
  spaces : List SpaceDesc
  slices : List SliceState
  cores : List CoreState
  gussets : List GussetState
  arbiters : List Arbiter
  nextPacket : Nat
  arrays : List ArrayState
  streams : List Stream
  streamGens : List (Nat × Nat)
  /-- Stages started so far: contexts of Gussets and installed channels (R332, R334). -/
  starts : Nat
  rings : List Ring
  lastRing : Nat
  matches_ : List MatchEntry
  slots : List LaunchSlot
  admissions : Nat
  queues : Queues
  jobs : List Job
  channels : List Channel
  cameraPorts : List PortState
  etherPorts : List PortState
  groups : List Group
  time : ChipTime
  link : Link
  boot : Boot
  hk : Housekeeping
  out : List Outgoing
  laneFails : List (Nat × Nat)
  /-- Resources under a targeted self-test, with the context whose ERRSTAT counts it (R407, R408). -/
  testing : List (Resource × Nat)
  fatal : Option Cause
  deriving DecidableEq, Repr

/-! ## Reset -/

def Ready.none : Ready := ⟨false, false, false, false, Option.none, Option.none⟩

def Region.none : Region := ⟨false, 0, false, 0, 0, [], false, 0, 0⟩

def LoopRegs.zero : LoopRegs := ⟨0, 0, 0, 0, 0, false⟩

def KernelHeader.zero : KernelHeader :=
  ⟨false, .rne, false, false, false, false, 0, 0, 0, 0, 0, [0, 0, 0, 0, 0, 0, 0, 0], false⟩

def Trailer.zero : Trailer := ⟨false, false, false, false, false, false⟩

def UnitInfo.none : UnitInfo :=
  ⟨0, 0, 0, 0, 0, [0, 0, 0, 0], 0, false, false, KernelHeader.zero, Trailer.zero, 0, 0, Option.none⟩

/-- A context as a unit finds it before R57's values are loaded: the third column of R101 and the "unit start" column of
R414. No unit is resident. -/
def Context.idle : Context where
  run := .idle
  info := .none
  pcc := 0
  pcx := 0
  g := Vector.replicate 32 0
  b := Vector.replicate 4 0
  c := Vector.replicate 4 false
  loopA := .zero
  loopB := .zero
  vloopA := .zero
  vloopB := .zero
  spec := []
  v := Vector.replicate 8 0
  live := Vector.replicate 8 false
  m := Vector.replicate 128 0
  k := Vector.replicate 8 0
  f := Vector.replicate 64 0
  bq := []
  cq := []
  dq := []
  lq := []
  sq := []
  vq := []
  latches := []
  votes := []
  redirC := none
  redirX := none
  prediction := none
  unresolved := none
  endedC := false
  endedX := false
  accesses := []
  kept := []
  ops := []
  nextId := 0
  fence := none
  stretchC := 0
  stretchX := 0
  logC := []
  logX := []
  savedC := 0
  savedX := 0
  savedLogC := []
  savedLogX := []
  ready := .none
  fate := .ended
  xdrain := false
  selftest := none
  region := .none
  position := 0
  started := 0
  rowWait := none
  portWait := none
  fpmode := 0
  w16 := false
  slacktab := Vector.replicate 3 0
  late := 0
  crcfg := 0
  crcnt := 0
  trapbase := 0
  tframe := 0
  timecmp := 0
  lcode := 0
  fse := false
  inh := false
  haltedInh := false
  counted := false
  owesWord := false
  leaseLevel := none
  saveSlot := none
  home := 0

/-- The part right after power-good, before any step of R432 has run: no job and no ring installed, every core idle, the link
down with its heartbeats held, the CTC at 0, and the housekeeping registers at the reset values of R437. -/
def State.reset : State where
  ctx := .idle
  self := 0
  others := []
  side := .control
  agenda := []
  moves := 0
  draws := 0
  mem := []
  dram := []
  poison := []
  tlb := []
  walks := []
  spaces := []
  slices := []
  cores := []
  gussets := []
  arbiters := []
  nextPacket := 0
  arrays := []
  streams := []
  streamGens := []
  starts := 0
  rings := []
  lastRing := 255
  matches_ := []
  slots := []
  admissions := 0
  queues := ⟨[], [], [], [], [], [], [], [], [], [], [], [], 0⟩
  jobs := []
  channels := []
  cameraPorts := []
  etherPorts := []
  groups := []
  time := ⟨0, 0, 0, 0, 0⟩
  link := ⟨false, false, false, false, true, 0, 0, 0, 0, 0, 0, 0, false⟩
  boot := ⟨0, 0, false, false, 0, [], [], 0, false, false, 0⟩
  hk := ⟨0, 0, 0, BitVec.allOnes 64, 0, 0, 0, 0, false, 0, 0, 0, 0, false, 380, 0, false, false⟩
  out := []
  laneFails := []
  testing := []
  fatal := none

end Sys2Proof.Machine
end

