-- ==== Sys2Proof/Machine/Memory.lean ====
section
/-! DEFINITION. Memory and translation: bytes in canonical form, the physical map (R218), page walks (R231 to R234), held
translations (R240), formatted pages (R235 to R238) and the stash windows (R222, R303). -/

namespace Sys2Proof.Machine

/-! ## Bits and bytes -/

/-- Bits hi to lo of a number. -/
def bitsOf (x hi lo : Nat) : Nat := x / 2 ^ lo % 2 ^ (hi + 1 - lo)

def bitOf (x i : Nat) : Bool := x / 2 ^ i % 2 == 1

/-- Bytes as a number, lowest address least significant (R4). -/
def leNat : List Byte → Nat
  | [] => 0
  | b :: bs => b.toNat + 256 * leNat bs

/-- The low n bytes of a number, least significant first (R4). -/
def leBytes : Nat → Nat → List Byte
  | 0, _ => []
  | n + 1, v => BitVec.ofNat 8 v :: leBytes n (v / 256)

/-- A `w`-bit-wide lane of a row. -/
def laneOf (x w l : Nat) : Nat := x / 2 ^ (w * l) % 2 ^ w

/-- Lanes as one number, lane 0 lowest; each lane is taken modulo 2^w. -/
def packLanes (w : Nat) : List Nat → Nat
  | [] => 0
  | x :: xs => x % 2 ^ w + 2 ^ w * packLanes w xs

/-- Insert or replace in a list in rising order of a key. -/
def upsert {α : Type} (key : α → Nat) (x : α) : List α → List α
  | [] => [x]
  | y :: ys => if key x < key y then x :: y :: ys else if key x = key y then x :: ys else y :: upsert key x ys

/-- Replace the n-th element of a list by a function of it. -/
def modifyNth {α : Type} (f : α → α) : Nat → List α → List α
  | _, [] => []
  | 0, x :: xs => f x :: xs
  | n + 1, x :: xs => x :: modifyNth f n xs

/-! ## Bytes of memory -/

/-- The byte at an address; an address not listed reads as zero (assumption 5). -/
def readByte : Memory → Nat → Byte
  | [], _ => 0
  | (a, b) :: m, x => if x = a then b else if x < a then 0 else readByte m x

/-- Write one byte, keeping the canonical form. -/
def writeByte : Memory → Nat → Byte → Memory
  | [], x, v => if v = 0 then [] else [(x, v)]
  | (a, b) :: m, x, v =>
    if x < a then (if v = 0 then (a, b) :: m else (x, v) :: (a, b) :: m)
    else if x = a then (if v = 0 then m else (a, v) :: m)
    else (a, b) :: writeByte m x v

/-- Every cell of the list lies at or above n, in rising order, and none is zero. -/
def wfFrom : Nat → Memory → Bool
  | _, [] => true
  | n, (a, b) :: m => decide (n ≤ a) && b != 0 && wfFrom (a + 1) m

/-- The canonical form: addresses strictly rising, no cell equal to what an unlisted address reads as. -/
def Memory.wf (m : Memory) : Bool := wfFrom 0 m

/-- n bytes from an address up. -/
def readBytes (m : Memory) (a : Nat) : Nat → List Byte
  | 0 => []
  | n + 1 => readByte m a :: readBytes m (a + 1) n

def writeBytes (m : Memory) (a : Nat) : List Byte → Memory
  | [] => m
  | b :: bs => writeBytes (writeByte m a b) (a + 1) bs

/-- n bytes as a little-endian number. -/
def readLE (m : Memory) (a n : Nat) : Nat := leNat (readBytes m a n)

def writeLE (m : Memory) (a n v : Nat) : Memory := writeBytes m a (leBytes n v)

/-- Bytes of a fresh range of memory, as after clearing. -/
def clearBelow (m : Memory) (n : Nat) : Memory := m.filter (fun c => n ≤ c.1)

/-! ## Who is who -/

/-- Context numbers: cores 0 to 127, then context x of Gusset gid at 128 + 4·gid + x; saved images lie from 1024 up. -/
def isGusset (n : Nat) : Bool := decide (128 ≤ n) && decide (n < 640)

def gidOf (n : Nat) : Nat := (n - 128) / 4

def gctxOf (n : Nat) : Nat := (n - 128) % 4

/-- The cluster of a context's engines: its own, or for an ingest Gusset cluster 0 (R10, R269). -/
def clusterOf (n : Nat) : Nat :=
  if n < 128 then n / 4 else if isGusset n && decide (64 ≤ gidOf n) then (gidOf n - 64) / 2 else 0

/-- The number of no context: what the requests of one that has ended still do reaches nobody. -/
def nobody : Nat := 1023

/-- Endpoint identifiers of R282. -/
def endpointOf (n : Nat) : Nat :=
  if n < 128 then n else if gidOf n < 64 then 192 + gidOf n else 256 + (gidOf n - 64)

def sliceEndpoint (s : Nat) : Nat := 384 + s

namespace State

/-- A context's row width in bits (R103). -/
def rowBits (s : State) : Nat := if isGusset s.self then 512 else 1024

def rowBytes (s : State) : Nat := s.rowBits / 8

/-- The lane width L and the number of lanes W (R102, R160). -/
def laneBits (s : State) : Nat := if s.ctx.w16 then 16 else 32

def lanes (s : State) : Nat := s.rowBits / s.laneBits

/-- The context with a number, idle when none is kept. -/
def ctxAt (s : State) (n : Nat) : Context :=
  if n = s.self then s.ctx
  else match s.others.find? (fun p => p.1 == n) with
    | some p => p.2
    | none => .idle

/-- Put context n in focus; the one that had it is kept unless it is as an idle context is. -/
def focus (s : State) (n : Nat) : State :=
  if n = s.self then s
  else
    let c := s.ctxAt n
    let rest := s.others.filter (fun p => p.1 != n)
    let rest := if s.ctx = .idle then rest.filter (fun p => p.1 != s.self)
      else upsert (·.1) (s.self, s.ctx) rest
    { s with ctx := c, self := n, others := rest }

/-- Change the context in focus. -/
def mod (s : State) (f : Context → Context) : State := { s with ctx := f s.ctx }

/-- Act on context n and return the focus to where it was. -/
def withCtx (s : State) (n : Nat) (f : State → State) : State :=
  (f (s.focus n)).focus s.self

def coreState (s : State) (c : Nat) : CoreState :=
  (s.cores.find? (fun k => k.core == c)).getD ⟨c, 0, [], [], [], 0, false, false, false, 0⟩

def setCore (s : State) (k : CoreState) : State := { s with cores := upsert CoreState.core k s.cores }

def gussetState (s : State) (g : Nat) : GussetState :=
  (s.gussets.find? (fun k => k.gid == g)).getD ⟨g, false, false, [], 0, [], [], 0, 3, 3⟩

def setGusset (s : State) (k : GussetState) : State := { s with gussets := upsert GussetState.gid k s.gussets }

def sliceState (s : State) (n : Nat) : SliceState :=
  (s.slices.find? (fun k => k.slice == n)).getD ⟨n, [], 0, [], [], [], [], []⟩

def setSlice (s : State) (k : SliceState) : State := { s with slices := upsert SliceState.slice k s.slices }

/-- The array of a cluster, or of a Gusset at index 32 + gid. -/
def arrayAt (s : State) (n : Nat) : ArrayState :=
  (s.arrays.find? (fun k => k.idx == n)).getD ⟨n, [], none, 3, false, false, [], [], []⟩

def setArray (s : State) (a : ArrayState) : State := { s with arrays := upsert ArrayState.idx a s.arrays }

def jobOf (s : State) (asid : BitVec 16) : Option Job := s.jobs.find? (fun j => j.asid == asid)

def setJob (s : State) (j : Job) : State := { s with jobs := upsert (fun j => j.asid.toNat) j s.jobs }

/-- The next value the manual leaves open, and the state after drawing it. -/
def drawn (s : State) : State := { s with draws := s.draws + 1 }

/-- The CTC's integer part (R318). -/
def ctc (s : State) : Nat := s.time.ticks

end State

/-! ## The physical map (R218) -/

def peerBase : Nat := 0x400000000000
def peerTop : Nat := 0x402000000000
def registerBase : Nat := 0xFE0000000000
def registerTop : Nat := 0xFE0001000000

/-- What lies at a physical address; the peer notify window of R424 lies at the peer. -/
inductive Region48 where
  | dram | peer | register | nothing
  deriving DecidableEq, Repr

def regionOf (s : State) (pa : Nat) : Region48 :=
  if pa < s.hk.dramcap * 2 ^ 30 then .dram
  else if (peerBase ≤ pa ∧ pa < peerTop) ∨ (registerBase + 0x100000 ≤ pa ∧ pa < registerBase + 0x200000) then .peer
  else if registerBase ≤ pa ∧ pa < registerTop then .register
  else .nothing

def isDram (s : State) (pa : Nat) : Bool := regionOf s pa == .dram

/-- The home slice of a physical address (R224). -/
def sliceOfFrom : Nat → Nat → Nat
  | 0, _ => 0
  | n + 1, x => (x % 64) ^^^ sliceOfFrom n (x / 64)

def sliceOf (pa : Nat) : Nat := sliceOfFrom 7 (pa / 128)

/-- The set of a line in its home slice (R223), and the sets of a stash of `wink` window steps (R220). -/
def sliceSet (pa : Nat) : Nat := bitsOf pa 16 7 ^^^ bitsOf pa 26 17

def stashSet (wink pa : Nat) : Nat := pa / 128 % (256 - 16 * wink)

/-! ## Address spaces and walks (R216, R217, R231 to R234) -/

/-- Canonical: bits 63:47 all equal (R216). -/
def canonical (va : Nat) : Bool := va / 2 ^ 47 == 0 || va / 2 ^ 47 == 2 ^ 17 - 1

def apertureBase : Nat := 0xFFFFFF8000000000

def inAperture (va : Nat) : Bool := decide (apertureBase ≤ va)

/-- The descriptor of an address space as it stands in memory (R217). -/
def readDesc (s : State) (asid : BitVec 16) : SpaceDesc :=
  let a := s.hk.asdbase + 32 * asid.toNat
  let root := readLE s.mem a 8
  let ctl := readLE s.mem (a + 16) 8
  { asid := asid, root := root, pinq := readLE s.mem (a + 8) 4, en := ctl % 2 == 1
    bad := root % 2 ^ 12 != 0 || root / 2 ^ 48 != 0 || ctl / 2 != 0 || readLE s.mem (a + 24) 8 != 0 }

/-- The descriptor the part uses: its cached copy, else as it stands in memory (R217). -/
def descOf (s : State) (asid : BitVec 16) : SpaceDesc :=
  (s.spaces.find? (fun d => d.asid == asid)).getD (readDesc s asid)

/-- Cache the descriptor of an address space. -/
def cacheDesc (s : State) (asid : BitVec 16) : State :=
  { s with spaces := upsert (fun d => d.asid.toNat) (descOf s asid) s.spaces }

/-- The translation of a leaf entry of a page of 2^sz bytes (R232 to R234). -/
def leafAttr (va e w2 sz : Nat) : Except Cause PageAttr :=
  let pa := bitsOf e 47 12 * 2 ^ 12
  let fmt := bitsOf w2 6 4
  let blk := bitsOf w2 8 7
  let spl := bitsOf w2 12 9
  let swz := bitsOf w2 16 13
  let w := bitOf e 4
  let dev := bitOf e 6
  let ec := bitOf e 8
  if pa % 2 ^ sz != 0 || bitOf e 3 then .error .format
  else if w2 % 16 != 0 || bitsOf w2 23 17 != 0 || bitsOf w2 63 60 != 0 || decide (4 < fmt) || decide (5 < swz) then .error .format
  else if (if fmt = 1 then decide (spl < 2) || decide (8 < spl) else spl != 0 || blk != 0) then .error .format
  else if (ec && (w || dev || fmt != 0)) || (dev && fmt != 0) then .error .format
  else .ok {
    vbase := va / 2 ^ sz * 2 ^ sz, sizeLog := sz, pbase := pa, w := w, x := bitOf e 5, tso := bitOf e 7, dev := dev, ec := ec
    fmt := match fmt with | 0 => .raw | 1 => .q | 2 => .bf16 | 3 => .f16 | _ => .f32
    spl := spl, blk := blk, swz := swz, scale := bitsOf w2 59 24 * 2 ^ 12 }

/-- One table entry: BUS where no DRAM lies, PAGE when not valid, FORMAT for a reserved field (R234). -/
def tableEntry (s : State) (a : Nat) : Except Cause Nat :=
  if !isDram s a then .error .bus
  else
    let e := readLE s.mem a 8
    if e % 2 = 0 then .error .page
    else if bitsOf e 63 48 != 0 || bitsOf e 11 9 != 0 || bitOf e 2 then .error .format
    else .ok e

/-- The last level: a 64 KiB table or a 4 KiB table (R231). -/
def walkLast (s : State) (va tbl : Nat) (g64 : Bool) : Except Cause PageAttr :=
  let a := if g64 then tbl + 16 * bitsOf va 20 16 else tbl + 8 * bitsOf va 20 12
  match tableEntry s a with
  | .error c => .error c
  | .ok e =>
    if !bitOf e 1 then .error .format
    else leafAttr va e (if g64 then readLE s.mem (a + 8) 8 else 0) (if g64 then 16 else 12)

/-- Levels 0 to 2, given the levels still to come; level n indexes with VA bits from 12 + 9·n up (R231). -/
def walkFrom (s : State) (va : Nat) : Nat → Nat → Bool → Except Cause PageAttr
  | 0, tbl, g64 => walkLast s va tbl g64
  | n + 1, tbl, _ =>
    let sh := 12 + 9 * (n + 1)
    match tableEntry s (tbl + 8 * bitsOf va (sh + 8) sh) with
    | .error c => .error c
    | .ok e =>
      if bitOf e 1 then (if n = 2 then .error .format else leafAttr va e 0 sh)
      else if (bitOf e 3 && n != 0) || bitsOf e 8 4 != 0 then .error .format
      else walkFrom s va n (bitsOf e 47 12 * 2 ^ 12) (bitOf e 3)

/-- The address bits that the table of n levels still to come stands for. -/
def walkKey (va n : Nat) : Nat := va / 2 ^ (12 + 9 * (n + 1))

/-- The non-leaf entries a walk passes, from a table up to n levels down: the levels still to come, the table and its kind (R231). -/
def tablesFrom (s : State) (va : Nat) : Nat → Nat → List (Nat × Nat × Bool)
  | 0, _ => []
  | n + 1, tbl =>
    let sh := 12 + 9 * (n + 1)
    match tableEntry s (tbl + 8 * bitsOf va (sh + 8) sh) with
    | .error _ => []
    | .ok e => if bitOf e 1 then [] else
      let t := (n, bitsOf e 47 12 * 2 ^ 12, bitOf e 3)
      t :: tablesFrom s va n t.2.1

/-! ## Held translations (R240, R241, R243) -/

/-- The walker's level (R89). The rings, the slices and the peer endpoint have none, and walk at every access. -/
def outPlace : Nat := 288

/-- The levels of a cluster's load pipe A or B (R187, R240). -/
def pipePlaces (cluster : Nat) (b : Bool) : List Nat := [320 + 2 * cluster + (if b then 1 else 0), 128 + cluster]

/-- The levels that the context in focus looks in (R240). -/
def tlbPlaces (s : State) : List Nat :=
  let n := if s.self < 640 then s.self else s.ctx.home
  if n < 128 then [n, 128 + n / 4] else if isGusset n then [160 + gidOf n] else [outPlace]

/-- The strip whose walkers serve a level (R11, R241). -/
def stripOf (place : Nat) : Nat :=
  if place < 128 then place / 32 else if place < 160 then (place - 128) / 8
  else if place < 288 then (if place < 224 then 0 else (place - 224) / 16)
  else if 320 ≤ place ∧ place < 384 then (place - 320) / 16 else 3

/-- Where a walk of a strip starts: at the deepest non-leaf entry it holds, or at the root (R241, R243). -/
def walkStart (s : State) (strip : Nat) (asid : BitVec 16) (va root : Nat) : Nat × Nat × Bool :=
  (([0, 1, 2].findSome? (fun n => s.walks.find? (fun w => w.strip == strip && w.asid == asid && w.level == n && w.key == walkKey va n))).map
    (fun w => (w.level, w.table, w.g64))).getD (3, root, false)

/-- A page walk of an address space by the walkers of a level (R231, R234). -/
def walkAt (s : State) (place : Nat) (asid : BitVec 16) (va : Nat) : Except Cause PageAttr :=
  let d := descOf s asid
  if !canonical va || !d.en || d.bad then .error .page
  else
    let w := walkStart s (stripOf place) asid va d.root
    walkFrom s va w.1 w.2.1 w.2.2

/-- A page walk for the context in focus. -/
def walk (s : State) (asid : BitVec 16) (va : Nat) : Except Cause PageAttr := walkAt s ((tlbPlaces s).headD outPlace) asid va

/-- The aperture as a page: raw, writable, not executable (R222). -/
def apertureAttr (va : Nat) : PageAttr :=
  { vbase := va / 2 ^ 18 * 2 ^ 18, sizeLog := 18, pbase := 0, w := true, x := false, tso := false, dev := false, ec := false
    fmt := .raw, spl := 0, blk := 0, swz := 0, scale := 0 }

def PageAttr.covers (a : PageAttr) (va : Nat) : Bool := va / 2 ^ a.sizeLog * 2 ^ a.sizeLog == a.vbase

/-- A translation that one of these levels holds: the aperture always, otherwise one that a walk left (R240). -/
def heldAt (s : State) (places : List Nat) (asid : BitVec 16) (va : Nat) : Option PageAttr :=
  if !canonical va then none
  else if inAperture va then some (apertureAttr va)
  else (s.tlb.find? (fun t => places.contains t.place && t.asid == asid && t.attr.covers va)).map TlbEntry.attr

/-- A translation that the context in focus holds. -/
def held (s : State) (asid : BitVec 16) (va : Nat) : Option PageAttr := heldAt s (tlbPlaces s) asid va

/-- The translation that one of these levels holds, else what a walk for the first of them gives. -/
def resolveAt (s : State) (places : List Nat) (asid : BitVec 16) (va : Nat) : Except Cause PageAttr :=
  match heldAt s places asid va with
  | some a => .ok a
  | none => walkAt s (places.headD outPlace) asid va

/-- The translation an access uses: the held one, else what a walk gives (R240, R243). -/
def resolve (s : State) (asid : BitVec 16) (va : Nat) : Except Cause PageAttr :=
  resolveAt s (tlbPlaces s) asid va

/-- The translation of a party that is on no core or Gusset. -/
def resolveOut (s : State) (asid : BitVec 16) (va : Nat) : Except Cause PageAttr := resolveAt s [] asid va

/-- Entries that a level holds in a set, and the set of a second-level TLB in which an entry lies (R12, R187, R240). -/
def tlbWays (place : Nat) : Nat := if place < 128 then 128 else if place < 160 then 8 else if place < 320 then 64 else 32

def tlbSet (t : TlbEntry) : Nat :=
  if 128 ≤ t.place ∧ t.place < 160 then bitsOf (t.attr.vbase / 2 ^ t.attr.sizeLog) 8 0 ^^^ bitsOf t.asid.toNat 8 0 else 0

/-- A level takes an entry; in a full set it replaces the one it has held longest (R240; assumption 92). -/
def putTlb (l : List TlbEntry) (t : TlbEntry) : List TlbEntry :=
  let same (x : TlbEntry) : Bool := x.place == t.place && tlbSet x == tlbSet t
  (if l.countP same < tlbWays t.place then l else l.eraseP same) ++ [t]

/-- A strip takes a non-leaf entry, of which it holds 64 (R241; assumption 92). -/
def putWalk (l : List WalkEntry) (w : WalkEntry) : List WalkEntry :=
  (if l.countP (fun x => x.strip == w.strip) < 64 then l else l.eraseP (fun x => x.strip == w.strip)) ++ [w]

/-- Complete a walk for a party: each of its levels keeps the translation, and its strip the non-leaf entries passed (R240, R241). -/
def fillAt (s : State) (places : List Nat) (asid : BitVec 16) (va : Nat) : State :=
  let place := places.headD outPlace
  match heldAt s places asid va, walkAt s place asid va with
  | none, .ok a =>
    let s' := cacheDesc s asid
    let w := walkStart s (stripOf place) asid va (descOf s asid).root
    { s' with tlb := (places.map (fun p => ⟨p, asid, a⟩)).foldl putTlb s.tlb
              walks := ((tablesFrom s va w.1 w.2.1).map (fun t => ⟨stripOf place, asid, walkKey va t.1, t.1, t.2.1, t.2.2⟩)).foldl putWalk s.walks }
  | _, _ => cacheDesc s asid

/-- Complete a walk for the context in focus. -/
def fillTlb (s : State) (asid : BitVec 16) (va : Nat) : State := fillAt s (tlbPlaces s) asid va

/-- What an access does to its page. -/
inductive Use where
  | read | write | atomic | fetch | decSource
  deriving DecidableEq, Repr

/-- The PERM checks of R234: `dev` says that the access is an aligned scalar load or store of 4 or 8 bytes. -/
def permFault (a : PageAttr) (u : Use) (dev : Bool) : Bool :=
  ((u == .write || u == .atomic) && !a.w) || (u == .fetch && (!a.x || a.fmt != .raw)) ||
  (a.ec && u != .decSource) || (a.dev && !dev)

/-! ## Formatted pages (R235 to R237) -/

/-- The physical line of element line L under a swizzle code (R236). -/
def swizzle (sw l : Nat) : Nat :=
  if sw = 0 then l else l / 16 * 16 + ((l % 16) ^^^ (l / 2 ^ (sw + 3) % 16))

/-- The physical address of byte `va` of a page whose bytes are not planes. -/
def physOf (a : PageAttr) (va : Nat) : Nat :=
  let o := va % 2 ^ a.sizeLog
  if a.fmt = .raw then a.pbase + o else a.pbase + 128 * swizzle a.swz (o / 128) + o % 128

/-- The planes of one code: plane j of element e lies in bit e mod 8 of byte 16·(7 − j) + e/8 of its line (R235). `n` planes
from plane 7 down. -/
def readPlanes (m : Memory) (line e : Nat) : Nat → Nat
  | 0 => 0
  | n + 1 =>
    (if bitOf (readByte m (line + 16 * n + e / 8)).toNat (e % 8) then 2 ^ (7 - n) else 0) + readPlanes m line e n

def writePlanes (m : Memory) (line e code : Nat) : Nat → Memory
  | 0 => m
  | n + 1 =>
    let a := line + 16 * n + e / 8
    let old := (readByte m a).toNat
    let cleared := old - (if bitOf old (e % 8) then 2 ^ (e % 8) else 0)
    writePlanes (writeByte m a (BitVec.ofNat 8 (cleared + if bitOf code (7 - n) then 2 ^ (e % 8) else 0))) line e code n

/-- One byte of a page's element stream in physical memory: for q, the code with its unstored planes zero (R237). -/
def streamByte (m : Memory) (a : PageAttr) (va : Nat) : Byte :=
  if a.fmt = .q then
    let o := va % 2 ^ a.sizeLog
    BitVec.ofNat 8 (readPlanes m (a.pbase + 128 * swizzle a.swz (o / 128)) (o % 128) a.spl)
  else readByte m (physOf a va)

/-- Write one byte of the element stream: for q, the top SPL planes of the code (R237). -/
def putStreamByte (m : Memory) (a : PageAttr) (va : Nat) (b : Byte) : Memory :=
  if a.fmt = .q then
    let o := va % 2 ^ a.sizeLog
    writePlanes m (a.pbase + 128 * swizzle a.swz (o / 128)) (o % 128) b.toNat a.spl
  else writeByte m (physOf a va) b

def streamBytes (m : Memory) (a : PageAttr) (va : Nat) : Nat → List Byte
  | 0 => []
  | n + 1 => streamByte m a va :: streamBytes m a (va + 1) n

def putStreamBytes (m : Memory) (a : PageAttr) (va : Nat) : List Byte → Memory
  | [] => m
  | b :: bs => putStreamBytes (putStreamByte m a va b) a (va + 1) bs

/-- The scale of element `va` of a q page, as a 24-bit slot; 1.0 with no blocks (R238, R29). -/
def scaleSlot (m : Memory) (a : PageAttr) (va : Nat) : Nat :=
  if a.blk = 0 then 0x3F8000
  else readLE m (a.scale + 4 * (va % 2 ^ a.sizeLog / (8 * 2 ^ a.blk))) 4 % 2 ^ 24

/-! ## Where a byte lies -/

/-- The context whose window an aperture address names, and the offset: core q of the cluster, or context q of the Gusset
(R222, R303). -/
def windowOf (self va : Nat) : Option (Nat × Nat) :=
  let q := (va - apertureBase) / 2 ^ 18
  let o := (va - apertureBase) % 2 ^ 18
  if 4 ≤ q then none
  else if isGusset self then some (128 + 4 * gidOf self + q, o)
  else some (4 * clusterOf self + q, o)

def placeOf (s : State) (a : PageAttr) (va : Nat) : Place :=
  if inAperture va then
    match windowOf (if s.self < 1024 then s.self else s.ctx.home) va with
    | some (w, o) => .window w o
    | none => .nowhere
  else
    let pa := if a.fmt = .q then a.pbase + 128 * swizzle a.swz (va % 2 ^ a.sizeLog / 128) else physOf a va
    match regionOf s pa with
    | .dram => .dram pa
    | .peer => .peer pa
    | .register => .register pa
    | .nothing => .nowhere

/-- A resident unit: from the start of its set-up, or the end of its restore, until it retires or halts for pre-emption (R383). -/
def Context.resident (c : Context) : Bool :=
  match c.run with
  | .running | .debugHalted => true
  | .draining => !c.counted && c.fate != .failed .restoreEcc
  | _ => false

/-- The checks of a window access at the owning stash (R222, R383). -/
def windowOk (s : State) (owner off n : Nat) : Bool :=
  let c := s.ctxAt owner
  c.resident && decide (off + n ≤ 2 ^ 14 * c.info.header.win) && c.info.asid == s.ctx.info.asid

/-- A context's window bytes. -/
def windowMem (s : State) (owner : Nat) : Memory :=
  if isGusset owner then
    ((s.gussetState (gidOf owner)).windows.find? (fun p => p.1 == gctxOf owner)).elim [] (·.2)
  else (s.coreState owner).window

def setWindow (s : State) (owner : Nat) (m : Memory) : State :=
  if isGusset owner then
    let g := s.gussetState (gidOf owner)
    s.setGusset { g with windows := upsert (·.1) (gctxOf owner, m) g.windows }
  else s.setCore { s.coreState owner with window := m }

/-- The key of the line an element lies in, for the order of accesses to one line (R250): windows have keys of their own. -/
def lineKey (p : Place) : Nat :=
  match p with
  | .dram pa | .peer pa | .register pa => pa / 128
  | .window w o => 2 ^ 50 + w * 2 ^ 12 + o / 128
  | .nowhere => 2 ^ 60

/-- The address by which poison in a window's byte is kept, beyond every physical address (R403). -/
def windowKey (w o : Nat) : Nat := 2 ^ 57 + w * 2 ^ 20 + o

/-- One of these words of 8 bytes lies among n bytes. -/
def wordsReach (l : List Nat) (pa n : Nat) : Bool := l.any (fun w => decide (w * 8 < pa + n) && decide (pa < w * 8 + 8))

/-- Words of 8 bytes that are poisoned among n bytes: of DRAM at a physical address, of a window at its key (R403). -/
def poisoned (s : State) (pa n : Nat) : Bool := wordsReach s.poison pa n

/-- The address of the first poisoned word among n bytes that lie at a physical address or key and start at the address va (R403). -/
def poisonAt (s : State) (pa va n : Nat) : Option Nat :=
  (s.poison.find? (fun w => decide (w * 8 < pa + n) && decide (pa < w * 8 + 8))).map (fun w => va + (8 * w - pa))

/-- Bytes of a line or page that hold n elements of a page's stream as read at k planes: for q, those of its stored planes (R235, R237). -/
def storedBytes (a : PageAttr) (k n : Nat) : Nat := if a.fmt = .q then 16 * Nat.min k a.spl else n

/-- A write clears the poison of the words it covers whole and leaves it elsewhere (R403). -/
def clearPoison (s : State) (pa n : Nat) : List Nat :=
  s.poison.filter (fun w => !(decide (pa ≤ w * 8) && decide (w * 8 + 8 ≤ pa + n)))

/-- Write bytes into a context's window. -/
def storeWindow (s : State) (w o : Nat) (bs : List Byte) : State :=
  setWindow { s with poison := clearPoison s (windowKey w o) bs.length } w (writeBytes (windowMem s w) o bs)

/-- A context's window holds other bytes from now on, none of them poisoned (R221, R302). -/
def replaceWindow (s : State) (w : Nat) (m : Memory) : State :=
  setWindow { s with poison := clearPoison s (windowKey w 0) (2 ^ 20) } w m

end Sys2Proof.Machine
end

