-- ==== Sys2Proof/Machine/Slices.lean ====
section
/-! DEFINITION. The two slices of a context: registers (R132), the next word of each stream (R104), delay slots and pending
redirections (R106, R110), hardware loops (R144 to R147), program order between the slices (R440), the queues' reservations
(R108) and landing results (R112, R113). -/

namespace Sys2Proof.Machine

/-! ## Kinds of access -/

/-- The access writes a g register when its data returns (R131). -/
def AccKind.writesG : AccKind → Bool
  | .load .. | .amo .. | .cas .. | .roi => true
  | _ => false

/-- Counted in the load class of R251. -/
def AccKind.isLoad : AccKind → Bool
  | .load .. | .vload | .vloads | .gather | .amo .. | .cas .. | .probe _ | .roi => true
  | _ => false

/-- Counted in the store class of R251. -/
def AccKind.isStore : AccKind → Bool
  | .store .. | .vstore | .vstores | .scatter | .radd .. | .cacheOp _ => true
  | _ => false

/-- A write of memory, for W, PERM and the side effects of R393. -/
def AccKind.writes : AccKind → Bool
  | .store .. | .vstore | .vstores | .scatter | .radd .. | .amo .. | .cas .. => true
  | _ => false

/-- A cache instruction's access (R265). -/
def AccKind.isCache : AccKind → Bool
  | .cacheOp _ => true
  | _ => false

/-! ## Registers -/

/-- g0 reads zero (R101). -/
def Context.getG (c : Context) (r : Fin 32) : Word := if r.val = 0 then 0 else c.g[r]

/-- An access that owed register r to an earlier instruction delivers it to no reader (R131): what it brings is discarded as a write of g0 is. -/
def Access.supersede (r : Fin 32) (a : Access) : Access := if a.kind.writesG ∧ a.dest = r then { a with dest := 0 } else a

/-- A write to g0 is discarded (R132). A write stands before what an earlier access still owes the register: a reader sees the latest earlier writer
in program order, and no instruction waits for a register that it only writes (R131). -/
def Context.setG (r : Fin 32) (v : Word) (c : Context) : Context :=
  if r.val = 0 then c else { c with g := c.g.set r v, accesses := c.accesses.map (Access.supersede r) }

def Context.getB (c : Context) (r : Fin 4) : Word := c.b[r]

def Context.setB (r : Fin 4) (v : Word) (c : Context) : Context := { c with b := c.b.set r v }

def Context.getC (c : Context) (r : Fin 4) : Bool := c.c[r]

def Context.setC (r : Fin 4) (v : Bool) (c : Context) : Context := { c with c := c.c.set r v }

/-- A dead register of the operand file reads as zero (R114). -/
def Context.getV (c : Context) (r : Fin 8) : Row := if c.live[r] then c.v[r] else 0

/-- Mark a register dead (R114). -/
def Context.kill (r : Fin 8) (c : Context) : Context := { c with v := c.v.set r 0, live := c.live.set r false }

/-- k0 is every lane; the others as written (R101). -/
def Context.getK (c : Context) (w : Nat) (r : Fin 8) : Nat :=
  if r.val = 0 then 2 ^ w - 1 else (c.k[r]).toNat % 2 ^ w

def Context.nflag (c : Context) : Nat := c.info.header.nflag

/-- In a kernel with FUT = 1 the first side effect is marked (R366). -/
def Context.markEffect (c : Context) : Context := if c.info.header.fut then { c with fse := true } else c

/-- f := satz(f + n, 32) (R359). -/
def Context.addFlag (n : Fin 64) (v : Nat) (c : Context) : Context :=
  { c with f := c.f.set n (BitVec.ofNat 32 (min (2 ^ 32 - 1) ((c.f[n]).toNat + v))) }

/-! ## What is owed -/

/-- Every part of the access has been performed; a cache instruction is performed only as it leaves. -/
def Access.performed (a : Access) : Bool :=
  a.stage == .planned && !a.kind.isCache && a.parts.all (fun p => p.stage == .performed || p.stage == .returned)

/-- A g register whose value an outstanding access still owes (R131). -/
def Context.pendingG (c : Context) (r : Fin 32) : Bool :=
  r.val != 0 && c.accesses.any (fun a => a.kind.writesG && a.dest == r)

/-- A c bit that a vote still owes (R151). -/
def Context.pendingC (c : Context) (r : Fin 4) : Bool := c.votes.contains r

/-! ## Words of the unit's code (R62, R104, R120) -/

def Context.codeBase (c : Context) : Nat := c.info.kref.toNat + 64

/-- The trailer's address (R62). -/
def Context.codeEnd (c : Context) : Nat := c.codeBase + 4 * c.info.header.codelen

/-- Majors that both slices take (R104). -/
def isBothMajor (m : Nat) : Bool := decide (0x30 ≤ m ∧ m ≤ 0x36) || m == 0x3B

/-- The slice whose stream a major belongs to (R104). -/
def ownsMajor (side : Slice) (m : Nat) : Bool :=
  isBothMajor m || match side with
    | .control => decide (m < 0x40) || decide (0x78 ≤ m)
    | .execute => decide (0x40 ≤ m) && decide (m < 0x78)

/-- Bytes of the instruction whose first word has major m (R120). -/
def lengthOfMajor (m : Nat) : Nat := if 0x78 ≤ m then 20 else 4

/-- The word at a place in DRAM as the unit in focus fetches it: where it has been written since its launch's admission, as the old word
or the new one, which the manual leaves open for each word and each unit (R62). -/
def fetchedWord (s : State) (va pa : Nat) : Nat :=
  let new := readLE s.mem pa 4
  match s.slots.find? (fun l => l.slot == s.ctx.info.slot && decide (s.self < 128)) with
  | some l =>
    let old := readLE l.code pa 4
    if old = new then new else if Config.seesOld l.admitted s.ctx.info.seq.toNat va then old else new
  | none => new

/-- The word that the launch slot's copy of the first 256 bytes of code holds for an address; a unit from a task record has no such copy (R77). -/
def copiedWord (s : State) (va : Nat) : Option Nat :=
  let o := va - s.ctx.codeBase
  match s.slots.find? (fun l => l.slot == s.ctx.info.slot && decide (s.self < 128) && !s.ctx.info.spawned) with
  | some l => if s.ctx.codeBase ≤ va ∧ o + 4 ≤ l.copied.length then some (leNat ((l.copied.drop o).take 4)) else none
  | none => none

/-- The word of code at an address, through the translation the fetch would use, or from the launch slot's copy; `none` where it cannot be
read. -/
def codeWord (s : State) (va : Nat) : Option Nat :=
  match resolve s s.ctx.info.asid (va % 2 ^ 64) with
  | .ok a => if permFault a .fetch false then copiedWord s va
    else match placeOf s a (va % 2 ^ 64) with
      | .dram pa => some (fetchedWord s (va % 2 ^ 64) pa)
      | _ => copiedWord s va
  | .error _ => copiedWord s va

/-- Bytes of the instruction at an address; an unreadable word counts as one word. -/
def lengthAt (s : State) (va : Nat) : Nat :=
  match codeWord s va with
  | some w => lengthOfMajor (w / 2 ^ 25)
  | none => 4

/-- Scan for the first word of a slice's stream at or after an address: that word, an unreadable word, or the trailer. -/
def scanFrom (s : State) (side : Slice) : Nat → Nat → Nat
  | 0, a => a
  | n + 1, a =>
    if s.ctx.codeEnd ≤ a then s.ctx.codeEnd
    else match codeWord s a with
      | none => a
      | some w => if ownsMajor side (w / 2 ^ 25) then a else scanFrom s side n (a + lengthOfMajor (w / 2 ^ 25))

/-- The first word of a slice's stream at or after an address (R104). -/
def nextOf (s : State) (side : Slice) (a : Nat) : Nat := scanFrom s side ((s.ctx.codeEnd - a) / 4 + 1) a

/-- The address after the second delay slot of the transfer at an address (R106). -/
def afterSlots (s : State) (a : Nat) : Nat :=
  let s1 := a + 4
  let s2 := s1 + lengthAt s s1
  s2 + lengthAt s s2

/-- The second delay slot's address. -/
def secondSlot (s : State) (a : Nat) : Nat := a + 4 + lengthAt s (a + 4)

/-- A target outside the kernel's code (R62). -/
def outsideCode (c : Context) (t : Nat) : Bool := decide (t < c.codeBase) || decide (c.codeEnd ≤ t)

/-! ## Per-slice state -/

def Context.pc (c : Context) : Slice → Word
  | .control => c.pcc
  | .execute => c.pcx

def Context.setPc (side : Slice) (v : Word) (c : Context) : Context :=
  match side with
  | .control => { c with pcc := v }
  | .execute => { c with pcx := v }

def Context.redir (c : Context) : Slice → Option Redirect
  | .control => c.redirC
  | .execute => c.redirX

def Context.setRedir (side : Slice) (r : Option Redirect) (c : Context) : Context :=
  match side with
  | .control => { c with redirC := r }
  | .execute => { c with redirX := r }

def Context.levelA (c : Context) : Slice → LoopRegs
  | .control => c.loopA
  | .execute => c.vloopA

def Context.levelB (c : Context) : Slice → LoopRegs
  | .control => c.loopB
  | .execute => c.vloopB

def Context.setLevel (side : Slice) (l : LoopLevel) (r : LoopRegs) (c : Context) : Context :=
  match side, l with
  | .control, .A => { c with loopA := r }
  | .control, .B => { c with loopB := r }
  | .execute, .A => { c with vloopA := r }
  | .execute, .B => { c with vloopB := r }

def Context.level (c : Context) (side : Slice) (l : LoopLevel) : LoopRegs :=
  match l with
  | .A => c.levelA side
  | .B => c.levelB side

def Context.ended (c : Context) : Slice → Bool
  | .control => c.endedC
  | .execute => c.endedX

/-! ## Steps of a slice -/

/-- The end check of one level on the step from i to j: the registers after it, and the address to continue at when it loops
back (R146). -/
def endCheck (r : LoopRegs) (i j : Nat) : LoopRegs × Option Nat :=
  if r.active && decide (r.actStart.toNat ≤ i) && decide (r.actStop.toNat < j) then
    if r.count.toNat ≤ 1 then ({ r with count := 0, active := false }, none)
    else ({ r with count := r.count - 1 }, some r.actStart.toNat)
  else (r, none)

/-- A body without a word of the slice's stream, as it shows where a page of it was not mapped when the loop started: the level repeats
nothing (R145, R185). -/
def emptyBody (s : State) (side : Slice) (r : LoopRegs × Option Nat) : LoopRegs × Option Nat :=
  match r.2 with
  | some t => if r.1.actStop.toNat < nextOf s side t then ({ r.1 with count := 0, active := false }, none) else r
  | none => r

/-- A step in sequence from i to j: level B's check first, then A's when B does not loop back (R146). -/
def stepSequence (s : State) (side : Slice) (i j : Nat) : State :=
  let (rb, back) := emptyBody s side (endCheck (s.ctx.levelB side) i j)
  match back with
  | some t => s.mod (fun c => (c.setLevel side .B rb).setPc side (BitVec.ofNat 64 (nextOf s side t)))
  | none =>
    let (ra, back) := emptyBody s side (endCheck (s.ctx.levelA side) i j)
    let t := match back with
      | some t => nextOf s side t
      | none => j
    s.mod (fun c => ((c.setLevel side .B rb).setLevel side .A ra).setPc side (BitVec.ofNat 64 t))

/-- A taken transfer deactivates a level whose active bounds do not hold its target (R147). -/
def leaveLevel (t : Nat) (r : LoopRegs) : LoopRegs :=
  if r.active && (decide (t < r.actStart.toNat) || decide (r.actStop.toNat < t)) then { r with active := false } else r

/-- A common point: a new stretch, whose record begins with the common point's own address (R440). -/
def Context.commonPoint (side : Slice) (mark : Word) (c : Context) : Context :=
  match side with
  | .control => { c with stretchC := c.stretchC + 1, logC := [mark] }
  | .execute => { c with stretchX := c.stretchX + 1, logX := [mark] }

/-- Record an issued instruction in the stretch (R440). -/
def Context.logIssue (side : Slice) (a : Word) (c : Context) : Context :=
  match side with
  | .control => { c with logC := a :: c.logC }
  | .execute => { c with logX := a :: c.logX }

/-- Continue at the target of a taken transfer (R106, R147). -/
def goTo (s : State) (side : Slice) (t : Word) : State :=
  let n := nextOf s side t.toNat
  s.mod (fun c =>
    let c := c.setLevel side .A (leaveLevel t.toNat (c.levelA side))
    let c := c.setLevel side .B (leaveLevel t.toNat (c.levelB side))
    (c.setRedir side none).setPc side (BitVec.ofNat 64 n))

/-- The same once the transfer is no prediction: the target opens a new stretch (R440). -/
def jumpTo (s : State) (side : Slice) (t : Word) : State :=
  (goTo s side t).mod (Context.commonPoint side (t - 1))

/-- The run-ahead of an open prediction begins: its loop levels are kept as they stand (R153, R154). -/
def beginSpec (c : Context) : Context := { c with spec := [(0, c.loopA, c.loopB)] }

/-- Move a slice past the instruction of `len` bytes at its pc: to the target after the second delay slot of a taken transfer,
else in sequence (R106, R110, R146). The step after a predicted branch's slots begins the run-ahead on the predicted path, whose target is
no common point yet (R153, R154), and an unresolved branch is waited for where its slots end (R155). -/
def advance (s : State) (side : Slice) (len : Nat) : State :=
  let i := (s.ctx.pc side).toNat
  let j := nextOf s side (i + len)
  let hold := side == .control && match s.ctx.unresolved with
    | some b => decide (i < b.after.toNat) && decide (b.after.toNat ≤ j)
    | none => false
  if hold then s.mod (·.setPc side (BitVec.ofNat 64 j))
  else match s.ctx.redir side with
  | some r =>
    if r.after.toNat ≤ j then
      if side = .control ∧ s.ctx.prediction.isSome then
        let s := s.mod (fun c => beginSpec (c.setRedir side none))
        if r.taken then goTo s side r.target else stepSequence s side i j
      else if r.taken then jumpTo s side r.target
      else stepSequence (s.mod (·.setRedir side none)) side i j
    else stepSequence s side i j
  | none => stepSequence s side i j

/-- A slice has issued the instruction of `len` bytes at its pc: it is logged and the slice moves on. A both-slice word is a
common point (R440). -/
def retire (s : State) (side : Slice) (len : Nat) (both : Bool) : State :=
  let a := s.ctx.pc side
  advance (s.mod (fun c => if both then c.commonPoint side a else c.logIssue side a)) side len

/-- The instruction at a slice's pc stands in a delay slot (R106); a slot of a branch that a trap left unresolved is one (R155). -/
def inSlot (c : Context) (side : Slice) : Bool :=
  match c.redir side with
  | some r => decide ((c.pc side).toNat < r.after.toNat)
  | none => side == .control && match c.unresolved with
    | some b => decide (c.pcc.toNat < b.after.toNat)
    | none => false

/-- A transfer that is the last word of an active body, or whose second slot lies past it (R106). -/
def slotsLeaveBody (s : State) (side : Slice) : Bool :=
  let a := (s.ctx.pc side).toNat
  let s2 := secondSlot s a
  let bad (r : LoopRegs) := r.active && decide (r.actStart.toNat ≤ a) && decide (a ≤ r.actStop.toNat) && decide (r.actStop.toNat < s2)
  bad (s.ctx.levelA side) || bad (s.ctx.levelB side)

/-! ## May a slice issue -/

/-- A core under a targeted self-test issues nothing (R407). -/
def quarantined (s : State) : Bool :=
  if s.self < 128 then (s.coreState s.self).quarantined
  else isGusset s.self && (s.gussetState (gidOf s.self)).quarantined

/-- The slice can issue: its unit runs, it has not reached END and its core is in service. -/
def canIssue (s : State) (side : Slice) : Bool :=
  s.ctx.run == .running && !s.ctx.ended side && !quarantined s

/-- The control slice runs ahead of an open prediction, or waits for an unresolved branch (R153, R155). -/
def runAhead (c : Context) : Bool :=
  (c.prediction.isSome && c.redirC.isNone) ||
  match c.unresolved with
  | some b => decide (b.after.toNat ≤ c.pcc.toNat)
  | none => false

/-! ## Program order between the slices (R440) -/

/-- Steps past address a among the addresses issued in a stretch, latest first, above its common point's: an address above a that is the
stretch's first, or whose predecessor in the stretch lies below a (R440). -/
def stepsPast (a : Nat) : List Word → Nat
  | q :: p :: rest => (if (rest.isEmpty || p.toNat < a) && a < q.toNat then 1 else 0) + stepsPast a (p :: rest)
  | _ => 0

def timesIn (a : Nat) (l : List Word) : Nat := l.countP (fun x => x.toNat == a)

/-- The control slice may still execute the instruction at a in its stretch: it lies ahead, or in an active body. -/
def controlMayRun (c : Context) (a : Nat) : Bool :=
  !c.endedC && (decide (c.pcc.toNat ≤ a) ||
    [c.loopA, c.loopB].any (fun r => r.active && decide (r.actStart.toNat ≤ a) && decide (a ≤ r.actStop.toNat)
      && decide (c.pcc.toNat ≤ r.actStop.toNat)))

/-- The execute slice has reached the execute point of the next execution of the control instruction at the control slice's
boundary (R440). -/
def atExecutePoint (s : State) : Bool :=
  let c := s.ctx
  let a := c.pcc.toNat
  if c.stretchC < c.stretchX then true
  else if c.stretchX < c.stretchC then false
  else if c.endedX then true
  else
    (codeWord s c.pcx.toNat).any (fun w => isBothMajor (w / 2 ^ 25)) || decide (timesIn a c.logC < stepsPast a (c.pcx :: c.logX))

/-- The result of an execute instruction precedes the control instruction at the control slice's boundary (R440). -/
def Latch.precedesControl (c : Context) (l : Latch) : Bool :=
  let a := c.pcc.toNat
  decide (l.stretch < c.stretchC) || (l.stretch == c.stretchC && (c.stretchX != c.stretchC ||
    decide (stepsPast a (c.logX.drop (c.logX.length - (l.nth + 1))) ≤ timesIn a c.logC)))

/-- The control words in [lo, hi) that satisfy p, by address; at most n words are read. -/
def controlWords (s : State) (p : Nat → Bool) (hi : Nat) : Nat → Nat → List Nat
  | 0, _ => []
  | n + 1, a =>
    if hi ≤ a then []
    else match codeWord s a with
      | none => []
      | some w => (if p w then [a] else []) ++ controlWords s p hi n (a + lengthOfMajor (w / 2 ^ 25))

/-- The execute instruction at pcx must wait for a control instruction that p selects and that precedes it in program order:
one that the execute slice's steps in the stretch, its issue among them, go past more often than the control slice has executed it, and which
the control slice may still execute; or, when the execute slice stands a common point ahead, one still before the control slice: in the delay
slots of the taken transfer that the execute slice has followed and from its target on, or else from the control slice's place on (R440). -/
def waitsForControl (s : State) (p : Nat → Bool) : Bool :=
  let c := s.ctx
  let loops := [c.loopA, c.loopB].filter LoopRegs.active
  let words (lo hi : Nat) : List Nat := controlWords s p hi ((hi - lo) / 4 + 1) lo
  let lowest (from_ : Nat) (ls : List LoopRegs) : Nat := ls.foldl (fun m r => min m r.actStart.toNat) from_
  if c.stretchX < c.stretchC then false
  else if c.stretchC < c.stretchX then
    let hull (from_ : Nat) (ls : List LoopRegs) : Bool :=
      !(words (lowest from_ ls) (ls.foldl (fun m r => max m (r.actStop.toNat + 4)) c.pcx.toNat)).isEmpty
    !c.endedC && match c.redirC with
      | some r =>
        if r.taken ∧ c.redirX.isNone then
          !(words c.pcc.toNat r.after.toNat).isEmpty ||
            hull r.target.toNat (loops.filter (fun l => decide (l.actStart.toNat ≤ r.target.toNat) && decide (r.target.toNat ≤ l.actStop.toNat)))
        else hull c.pcc.toNat loops
      | none => hull c.pcc.toNat loops
  else match c.logX.getLast? with
    | none => false
    | some mark =>
      let steps := c.pcx :: c.logX
      (words (lowest (min (mark.toNat / 4 * 4 + 4) c.pcc.toNat) loops) (steps.dropLast.foldl (fun m q => max m q.toNat) 0)).any (fun a =>
        decide (timesIn a c.logC < stepsPast a steps) && controlMayRun c a)

/-- SYS.RD and SYS.WR of FPMODE, TSHAPE and VLCA to VLEB (R412). -/
def isOrderedSysWord (w : Nat) : Bool :=
  let r := bitsOf w 9 4
  w / 2 ^ 25 == 0x2D && (w % 16 == 2 || w % 16 == 3) && (r == 0 || r == 1 || (decide (0x20 ≤ r) && decide (r ≤ 0x25)))

/-- Matrix commands: MMA, MMA.SP, MKAT, MZERO and MOUT (R188). -/
def isMatrixWord (w : Nat) : Bool :=
  w / 2 ^ 25 == 0x78 || (w / 2 ^ 25 == 0x2A && (w % 16 == 2 || w % 16 == 3))

/-! ## Queues (R107, R108) -/

def bqCap : Nat := 128
def cqCap : Nat := 32
def dqCap : Nat := 64
def rowCap : Nat := 16

/-- Reserve n entries of a row queue under consecutive identifiers. -/
def reserveRows (ident : Nat) (tagged : Bool) : Nat → List RowEntry
  | 0 => []
  | n + 1 => reserveRows ident tagged n ++ [⟨ident + n, 0, false, tagged⟩]

/-- Fill the row entry with an identifier. -/
def fillRow (ident : Nat) (data : Row) (q : List RowEntry) : List RowEntry :=
  q.map (fun e => if e.id = ident then { e with data := data, filled := true } else e)

def fillVq (ident : Nat) (data : Word) (q : List VqEntry) : List VqEntry :=
  q.map (fun e => if e.id = ident then { e with data := data, filled := true } else e)

/-! ## Landing (R112, R113, R119) -/

/-- Merge the masked lanes of a result into a row. -/
def mergeLanes (lw n : Nat) (mask : Nat) (new old : Nat) : Nat :=
  packLanes lw ((List.range n).map (fun l => if bitOf mask l then laneOf new lw l else laneOf old lw l))

/-- Flits landed and not popped, released or performed (R309). -/
def Stream.occupancy (st : Stream) : Nat := st.sent - st.taken

/-- The consumer compares its occupancy with the thresholds (R309). -/
def Stream.flowCheck (st : Stream) : Stream :=
  if st.consOn && decide (st.off ≤ st.occupancy) then { st with consOn := false, signals := st.signals ++ [false] }
  else if !st.consOn && decide (st.occupancy ≤ st.on) then { st with consOn := true, signals := st.signals ++ [true] }
  else st

/-- Output entries filled from the oldest on go out, in the order in which they were reserved (R305). -/
def Stream.release (st : Stream) : Stream :=
  { st with
    outgoing := st.outgoing ++ (st.reserved.takeWhile (fun e => e.2.isSome)).filterMap Prod.snd
    reserved := st.reserved.dropWhile (fun e => e.2.isSome) }

/-- The port that owns the destination fills the output entry that its result reserved; a result whose stream is gone finds none and is
discarded (R305); done by the context in focus. -/
def fillPort (s : State) (port ident : Nat) (data : Row) : State :=
  { s with streams := s.streams.map (fun st =>
      if st.prod.kind = .gussetOut && st.prod.ctx = s.self && st.prod.port = port then
        Stream.release { st with reserved := st.reserved.map (fun e => if e.1 = ident then (e.1, some (data.truncate 512)) else e) }
      else st) }

/-- One result lands: flags, then its register, predicate, queue entry or port, and the words it pushes to vq besides (R38, R112, R118,
R175). -/
def landOne (s : State) (l : Latch) : State :=
  let lw := s.laneBits
  let n := s.lanes
  let s := s.mod (fun c => { c with fpmode := c.fpmode ||| BitVec.ofNat 64 (l.flags.toNat * 8), vq := l.extra.foldl (fun q e => fillVq e.1 e.2 q) c.vq })
  if h : l.dest < 8 then
      s.mod (fun c =>
        let r : Fin 8 := ⟨l.dest, h⟩
        { c with v := c.v.set r (BitVec.ofNat 1024 (mergeLanes lw n l.mask.toNat l.data.toNat (c.getV r).toNat))
                 live := c.live.set r true })
  else if h : l.dest - 8 < 8 ∧ 8 ≤ l.dest then
      s.mod (fun c => { c with k := c.k.set (⟨l.dest - 8, h.1⟩ : Fin 8) (l.data.truncate 64) })
  else if l.dest = 0x10 then s.mod (fun c => { c with sq := fillRow l.qi l.data c.sq })
  else if l.dest = 0x11 then s.mod (fun c => { c with vq := fillVq l.qi (l.data.truncate 64) c.vq })
  else if l.dest < 0x16 then fillPort s (l.dest - 0x12) l.qi l.data
  else if h : l.dest - 0x80 < 128 ∧ 0x80 ≤ l.dest then
      s.mod (fun c =>
        let r : Fin 128 := ⟨l.dest - 0x80, h.1⟩
        { c with m := c.m.set r (BitVec.ofNat 1024 (mergeLanes lw n l.mask.toNat l.data.toNat (c.m[r]).toNat)) })
  else s

/-- Every result that is due lands, in program order (R112). -/
def landDue (s : State) : State :=
  let s' := s.mod (fun c => { c with latches := c.latches.filter (fun l => l.rem != 0) })
  (s.ctx.latches.filter (fun l => l.rem == 0)).foldl landOne s'

/-- One execute issue clock passes: every latch in flight has one clock less (R111, R112). -/
def Context.tick (c : Context) : Context :=
  { c with latches := c.latches.map (fun l => { l with rem := l.rem - 1 }) }

end Sys2Proof.Machine
end

