-- ==== Sys2Proof/Machine/Caches.lean ====
section
/-! DEFINITION. The slice store and the stashes as records of what each holds (R220, R223 to R227): lines, sectors, owners,
replacement, write-back and recall. The coherent value of every byte is `mem`; `dram` is what lies behind the slices. -/

namespace Sys2Proof.Machine

/-- The sectors of a line as a list of their indices. -/
def sectorsOf (mask : BitVec 4) : List Nat := (List.range 4).filter (fun i => mask.getLsbD i)

/-- Copy sectors of a line from the coherent memory to the DRAM behind it. -/
def writeBack (s : State) (line : Nat) (mask : BitVec 4) : State :=
  let sector (d : Memory) (i : Nat) := writeBytes d (line * 128 + 32 * i) (readBytes s.mem (line * 128 + 32 * i) 32)
  { s with dram := (sectorsOf mask).foldl sector s.dram }

/-- Discard the cached sectors of a line: the coherent bytes become the DRAM's. -/
def discardLine (s : State) (line : Nat) : State :=
  { s with mem := writeBytes s.mem (line * 128) (readBytes s.dram (line * 128) 128) }

/-- The number under which the mapped part that a context uses is named: its core, or the first context of its Gusset (R220, R302). -/
def holderOf (n : Nat) : Nat := if isGusset n then 128 + 4 * gidOf n else n

/-- The lines of the mapped part that a context uses. -/
def mappedOf (s : State) (n : Nat) : List StashLine :=
  if n < 128 then (s.coreState n).stash else if isGusset n then (s.gussetState (gidOf n)).mapped else []

/-- Change what every mapped part holds, by its number. -/
def mapMapped (s : State) (f : Nat → List StashLine → List StashLine) : State :=
  { s with cores := s.cores.map (fun k => { k with stash := f k.core k.stash })
           gussets := s.gussets.map (fun g => { g with mapped := f (128 + 4 * g.gid) g.mapped }) }

/-- Dirty sectors of a line in the mapped parts, that of one holder left out. -/
def stashDirtyBut (s : State) (line : Nat) (but : Option Nat) : BitVec 4 :=
  let inMapped (m : BitVec 4) (l : List StashLine) := l.foldl (fun m x => if x.line = line then m ||| x.dirty else m) m
  s.gussets.foldl (fun m g => if but = some (128 + 4 * g.gid) then m else inMapped m g.mapped)
    (s.cores.foldl (fun m k => if but = some k.core then m else inMapped m k.stash) 0)

def stashDirty (s : State) (line : Nat) : BitVec 4 := stashDirtyBut s line none

/-- Every mapped part but one gives up its copy of a line (R226). -/
def recallLine (s : State) (line : Nat) (keep : Option Nat) : State :=
  mapMapped s (fun h l => if keep = some h then l else l.filter (fun x => x.line != line))

/-- Every mapped part but one holds its copy of a line shared and clean (R226). -/
def shareLine (s : State) (line : Nat) (but : Option Nat) : State :=
  mapMapped s (fun h l => if but = some h then l else l.map (fun x => if x.line = line then { x with owned := false, dirty := 0 } else x))

/-- Working ways of a slice's sets (R228). -/
def SliceState.ways (k : SliceState) : Nat := 16 - k.waysOut.length

def setOf (line : Nat) : Nat := sliceSet (line * 128)

/-- A way that takes new lines: neither mapped out nor under test (R228, R407). -/
def SliceState.takesIn (k : SliceState) (w : Nat) : Bool := !k.waysOut.contains w && !k.waysTest.contains w

/-- A way of a line's set that holds nothing. -/
def freeWay (k : SliceState) (line : Nat) : Option Nat :=
  (List.range 16).find? (fun w => k.takesIn w && !k.lines.any (fun x => setOf x.line == setOf line && x.way == w))

/-- A line leaves its slice: it is recalled from every holder, its dirty sectors are written back, and it is dropped (R223, R225). -/
def evictLine (s : State) (n : Nat) (v : SliceLine) : State :=
  let s := recallLine (writeBack s v.line (v.dirty ||| stashDirty s v.line)) v.line none
  let k := s.sliceState n
  s.setSlice { k with lines := k.lines.filter (fun x => x.line != v.line) }

/-- The way a new line takes: a free one, or that of the least recently used unpinned line, which leaves first (R223). -/
def wayFor (s : State) (n line : Nat) : Option (State × Nat) :=
  let k := s.sliceState n
  match freeWay k line with
  | some w => some (s, w)
  | none => (k.lines.find? (fun x => setOf x.line == setOf line && x.pin.isNone && k.takesIn x.way)).map (fun v => (evictLine s n v, v.way))

/-- The home slice holds these sectors of a line, most recently used, dirty if written (R223); its count of one core's atomics
starts anew (R263). Where no way can take the line, what is written goes to the DRAM. -/
def touchSlice (s : State) (line : Nat) (mask : BitVec 4) (dirty : Bool) : State :=
  let n := sliceOf (line * 128)
  let d := if dirty then mask else 0
  match (s.sliceState n).lines.find? (fun x => x.line == line) with
  | some x =>
    let k := s.sliceState n
    s.setSlice { k with lines := k.lines.filter (fun y => y.line != line) ++
      [{ x with valid := x.valid ||| mask, dirty := x.dirty ||| d, atoms := none }] }
  | none => match wayFor s n line with
    | none => if dirty then writeBack s line mask else s
    | some (s, w) =>
      let k := s.sliceState n
      s.setSlice { k with lines := k.lines ++ [⟨line, w, mask, d, none, none⟩] }

/-- The home slice holds a line. -/
def sliceHolds (s : State) (line : Nat) : Bool := (s.sliceState (sliceOf (line * 128))).lines.any (fun x => x.line == line)

/-- The slice holds every sector that a request needs (R223). -/
def sliceHits (s : State) (line : Nat) (mask : BitVec 4) : Bool :=
  (s.sliceState (sliceOf (line * 128))).lines.any (fun x => x.line == line && x.valid &&& mask == mask)

/-- The slice records dirty sectors that a stash gives back. -/
def mergeDirty (s : State) (line : Nat) (d : BitVec 4) : State :=
  if d = 0 then s else touchSlice s line d true

/-- The mapped part that a context uses holds every sector that an access needs, owned for a write (R220, R226). -/
def stashHits (s : State) (n line : Nat) (mask : BitVec 4) (write : Bool) : Bool :=
  (mappedOf s n).any (fun x => x.line == line && x.valid &&& mask == mask && (x.owned || !write))

/-- Lines that the mapped part of a Gusset's line buffer holds: what its contexts' windows leave of it (R13, R302). Their placement in it is the
model's choice (assumption 96). -/
def gussetLines (s : State) (n : Nat) : Nat :=
  let used := (List.range 4).foldl (fun k x =>
    let c := s.ctxAt (128 + 4 * gidOf n + x)
    if c.run = .idle then k else k + 2 ^ 14 * c.info.header.win) 0
  ((if gidOf n < 64 then 256 else 128) * 1024 - used) / 128

/-- The line that must leave a mapped part before it takes another: a set of a stash holds 8 lines (R220). -/
def mappedVictim (s : State) (n line : Nat) (rest : List StashLine) : Option StashLine :=
  if n < 128 then
    let inSet := rest.filter (fun x => stashSet (s.coreState n).wink (x.line * 128) == stashSet (s.coreState n).wink (line * 128))
    if inSet.length < 8 then none else inSet.head?
  else if rest.length < gussetLines s n then none else rest.head?

/-- Replace what the mapped part of a context holds. -/
def setMapped (s : State) (n : Nat) (l : List StashLine) : State :=
  if n < 128 then s.setCore { s.coreState n with stash := l }
  else if isGusset n then s.setGusset { s.gussetState (gidOf n) with mapped := l } else s

/-- The mapped part that a context uses takes sectors of a line: the least recently used line is replaced and its dirty sectors go home; a
write takes the line from every other holder, a read leaves it shared (R220, R226). It takes no line that the home slice does not hold (R225). -/
def touchStash (s : State) (n line : Nat) (mask : BitVec 4) (write : Bool) : State :=
  if 640 ≤ n then s
  else if !sliceHolds s line then (if write then writeBack s line mask else s)
  else
    let keep := some (holderOf n)
    let o := ((mappedOf s n).find? (fun x => x.line == line)).getD ⟨line, 0, 0, false⟩
    let rest := (mappedOf s n).filter (fun x => x.line != line)
    let entry : StashLine := ⟨line, o.valid ||| mask, o.dirty ||| (if write then mask else 0), o.owned || write⟩
    let s := match mappedVictim s n line rest with
      | some v => mergeDirty (setMapped s n (rest.filter (fun x => x.line != v.line) ++ [entry])) v.line v.dirty
      | none => setMapped s n (rest ++ [entry])
    let d := stashDirtyBut s line keep
    mergeDirty (if write then recallLine s line keep else shareLine s line keep) line d

/-- The mapped part of a Gusset keeps no more lines than its windows leave room for: the least recently used go, their dirty sectors to the home
slice (R220, R302). -/
def shrinkMapped (s : State) (n : Nat) : State :=
  let l := mappedOf s n
  let k := l.length - gussetLines s n
  (l.take k).foldl (fun s x => mergeDirty s x.line x.dirty) (setMapped s n (l.drop k))

/-- Bytes are written at a line's home: every stash copy is recalled and the sectors become dirty in the slice (R226). -/
def writeHome (s : State) (line : Nat) (mask : BitVec 4) : State :=
  let d := stashDirty s line
  touchSlice (mergeDirty (recallLine s line none) line d) line mask true

/-- The sectors of a line that n bytes from an address reach. -/
def sectorsIn (pa n line : Nat) : BitVec 4 :=
  (List.range 4).foldl (fun m i =>
    if 128 * line + 32 * i < pa + n ∧ pa < 128 * line + 32 * i + 32 then m ||| BitVec.ofNat 4 (2 ^ i) else m) 0

/-- n bytes from an address up are written at their home slices. -/
def touchHomes (s : State) (pa n : Nat) : State :=
  (List.range ((pa + n + 127) / 128 - pa / 128)).foldl (fun s i => writeHome s (pa / 128 + i) (sectorsIn pa n (pa / 128 + i))) s

/-- DRAM bytes written by an engine, a receiver, the scheduler or the host, through the home slices (R226); the words they
cover whole lose their poison (R403). -/
def storeBytes (s : State) (pa : Nat) (bs : List Byte) : State :=
  touchHomes { s with mem := writeBytes s.mem pa bs, poison := clearPoison s pa bs.length } pa bs.length

/-- A line is read at its home slice past any stash: an owner's dirty sectors are recalled first, and the slice holds what is read
(R223, R226). -/
def readHome (s : State) (line : Nat) (mask : BitVec 4) : State :=
  let d := stashDirty s line
  touchSlice (mergeDirty (shareLine s line none) line d) line mask false

/-- The physical pieces that n bytes of a page's element stream lie in, line by line where the page is formatted: for q, the stored planes
of each line (R235, R236). -/
def streamPieces (a : PageAttr) (va n : Nat) : List (Nat × Nat) :=
  if a.fmt = .raw then [(physOf a va, n)]
  else
    let o := va % 2 ^ a.sizeLog
    (List.range ((o + n + 127) / 128 - o / 128)).map (fun i =>
      let from_ := Nat.max o (128 * (o / 128 + i))
      let line := a.pbase + 128 * swizzle a.swz (o / 128 + i)
      if a.fmt = .q then (line, 16 * a.spl) else (line + from_ % 128, Nat.min (o + n) (128 * (o / 128 + i) + 128) - from_))

/-- Bytes of a page's element stream are written in DRAM through the home slices; a q element leaves poison where it is (R226, R237,
R403). -/
def storeStream (s : State) (a : PageAttr) (va : Nat) (bs : List Byte) : State :=
  (streamPieces a va bs.length).foldl (fun s p =>
    touchHomes (if a.fmt = .q then s else { s with poison := clearPoison s p.1 p.2 }) p.1 p.2)
    { s with mem := putStreamBytes s.mem a va bs }

/-- The table entries that a walk reads go through the slice store (R241). -/
def tableReads (s : State) (va : Nat) : Nat → Nat → Bool → List Nat
  | 0, tbl, g64 => [if g64 then tbl + 16 * bitsOf va 20 16 else tbl + 8 * bitsOf va 20 12]
  | n + 1, tbl, _ =>
    let at_ := tbl + 8 * bitsOf va (12 + 9 * (n + 1) + 8) (12 + 9 * (n + 1))
    match tableEntry s at_ with
    | .error _ => [at_]
    | .ok e => if bitOf e 1 then [at_] else at_ :: tableReads s va n (bitsOf e 47 12 * 2 ^ 12) (bitOf e 3)

/-- The entries that a walk of a level reads, in order. -/
def walkReads (s : State) (place : Nat) (asid : BitVec 16) (va : Nat) : List Nat :=
  let d := descOf s asid
  if !canonical va || !d.en || d.bad then []
  else
    let w := walkStart s (stripOf place) asid va d.root
    (tableReads s va w.1 w.2.1 w.2.2).filter (isDram s)

/-- A walk by the walkers of a party's first level: its reads leave their lines in the slice store, and its translation is kept
(R240, R241). -/
def walkFill (s : State) (places : List Nat) (asid : BitVec 16) (va : Nat) : State :=
  (walkReads s (places.headD outPlace) asid va).foldl (fun s a => readHome s (a / 128) (sectorsIn a 8 (a / 128))) (fillAt s places asid va)

/-- A party's walk for an address, where none of its levels holds the translation (R240, R241). -/
def reach (s : State) (places : List Nat) (asid : BitVec 16) (va : Nat) : State :=
  if (heldAt s places asid va).isSome then s else walkFill s places asid va

/-- n bytes of DRAM from an address up are read at their home slices (R223, R226). -/
def readHomes (s : State) (pa n : Nat) : State :=
  (List.range ((pa + n + 127) / 128 - pa / 128)).foldl (fun s i => readHome s (pa / 128 + i) (sectorsIn pa n (pa / 128 + i))) s

/-- Bytes of a page's element stream in DRAM are read through the home slices (R223, R226). -/
def readStream (s : State) (a : PageAttr) (va n : Nat) : State :=
  (streamPieces a va n).foldl (fun s p => readHomes s p.1 p.2) s

/-- The consecutive atomics of one core on a line (R263). -/
def atomsOf (s : State) (line : Nat) : Option (Nat × Nat) :=
  ((s.sliceState (sliceOf (line * 128))).lines.find? (fun x => x.line == line)).bind SliceLine.atoms

def setAtoms (s : State) (line : Nat) (a : Option (Nat × Nat)) : State :=
  let k := s.sliceState (sliceOf (line * 128))
  s.setSlice { k with lines := k.lines.map (fun x => if x.line = line then { x with atoms := a } else x) }

/-- Atomics of one core on a line are granted to its stash after four in a row (R263). -/
def atomicsGranted (s : State) (core line : Nat) : Bool :=
  match atomsOf s line with
  | some (c, n) => c == core && decide (4 ≤ n) && decide (core < 128)
  | none => false

/-- A core has performed n atomics on a line: at the home slice, or in its stash once the line is granted to it (R262, R263). -/
def noteAtomics (s : State) (core line n : Nat) (mask : BitVec 4) : State :=
  if atomicsGranted s core line then
    let prev := atomsOf s line
    setAtoms (touchStash s core line mask true) line prev
  else
    let k := match atomsOf s line with
      | some (c, m) => if c = core then m + n else n
      | none => n
    let s := setAtoms (writeHome s line mask) line (some (core, k))
    if atomicsGranted s core line then setAtoms (touchStash s core line mask true) line (some (core, k)) else s

/-- CFLUSH of a line: every dirty sector goes to the DRAM, copies stay (R265). -/
def flushLine (s : State) (line : Nat) : State :=
  let n := sliceOf (line * 128)
  let k := s.sliceState n
  let d := (k.lines.find? (fun x => x.line == line)).elim (stashDirty s line) (fun x => x.dirty ||| stashDirty s line)
  let s := writeBack s line d
  let s := s.setSlice { k with lines := k.lines.map (fun x => if x.line = line then { x with dirty := 0 } else x) }
  mapMapped s (fun _ l => l.map (fun x => if x.line = line then { x with dirty := 0 } else x))

/-- CINV of a line: every copy is invalid, dirty sectors are lost; a pin stays (R265). -/
def invalidateLine (s : State) (line : Nat) : State :=
  let n := sliceOf (line * 128)
  let k := s.sliceState n
  let s := recallLine (discardLine s line) line none
  s.setSlice { k with lines := k.lines.filterMap (fun x =>
    if x.line = line then (if x.pin.isSome then some { x with valid := 0, dirty := 0 } else none) else some x) }

/-- SWB of a line: the core's own dirty sectors go to the home slice (R265). -/
def writeBackOwn (s : State) (n line : Nat) : State :=
  let l := mappedOf s n
  mergeDirty (setMapped s n (l.map (fun x => if x.line = line then { x with dirty := 0 } else x))) line
    ((l.find? (fun x => x.line == line)).elim 0 StashLine.dirty)

/-- Pinned ways of a line's set, and lines an address space holds pinned (R227). -/
def pinnedWays (s : State) (line : Nat) : Nat :=
  ((s.sliceState (sliceOf (line * 128))).lines.filter (fun x => setOf x.line == setOf line && x.pin.isSome)).length

def pinCount (s : State) (asid : BitVec 16) : Nat :=
  s.slices.foldl (fun n k => n + (k.lines.filter (fun x => x.pin == some asid)).length) 0

def pinOwner (s : State) (line : Nat) : Option (BitVec 16) :=
  ((s.sliceState (sliceOf (line * 128))).lines.find? (fun x => x.line == line)).bind SliceLine.pin

/-- Set or clear a line's pin; a line not held is first brought in (R227). -/
def setPin (s : State) (line : Nat) (p : Option (BitVec 16)) : State :=
  let s := if p.isSome then touchSlice s line 15 false else s
  let k := s.sliceState (sliceOf (line * 128))
  s.setSlice { k with lines := k.lines.map (fun x => if x.line = line then { x with pin := p } else x) }

/-- The part writes PINCNT after every pin and unpin (R217). -/
def writePincnt (s : State) (asid : BitVec 16) : State :=
  storeBytes s (s.hk.asdbase + 32 * asid.toNat + 12) (leBytes 4 (pinCount s asid))

end Sys2Proof.Machine
end

