-- ==== Sys2Proof/Machine/HostEvents.lean ====
section
/-! DEFINITION. The host event queue (R420, R421), and reads and writes that the part makes in an address space on its own. -/

namespace Sys2Proof.Machine

/-! ## The host event queue (R420, R421) -/

/-- Write a host event record, or set LOST; the interrupt goes out when the host had caught up. -/
def hostEvent (s : State) (cause status : Nat) (asid : BitVec 16) (ident detail : Nat) : State :=
  let h := s.hk
  if h.heqlog < 6 ∨ 16 < h.heqlog then s
  else if 2 ^ h.heqlog ≤ (h.heqcnt - h.heqack).toNat then { s with hk := { h with heqLost := true } }
  else
    let s' := storeBytes s (h.heqbase + 32 * (h.heqcnt.toNat % 2 ^ h.heqlog))
      (leBytes 1 cause ++ leBytes 1 status ++ leBytes 2 asid.toNat ++ leBytes 4 ident ++ leBytes 8 s.ctc ++ leBytes 8 detail ++ leBytes 8 0)
    { s' with hk := { s'.hk with heqcnt := h.heqcnt + 1 }
              out := if h.heqack = h.heqcnt then s'.out ++ [.interrupt] else s'.out }

/-! ## The part's own accesses to an address space -/

/-- The n bytes at a virtual address of a space, in one page of readable DRAM. -/
def readIn (s : State) (asid : BitVec 16) (va n : Nat) : Option (List Byte) :=
  match resolveOut s asid va with
  | .ok a => if permFault a .read false then none else match placeOf s a va with
    | .dram _ => some (streamBytes s.mem a va n)
    | _ => none
  | .error _ => none

/-- What reading n bytes of a space leaves behind: the space's descriptor, the walk's entries and lines, and the lines read (R217, R223, R241). -/
def noteRead (s : State) (asid : BitVec 16) (va n : Nat) : State :=
  let s' := reach s [] asid va
  match resolveOut s asid va with
  | .ok a => if permFault a .read false then s' else match placeOf s a va with
    | .dram _ => readStream s' a va n
    | _ => s'
  | .error _ => s'

/-- Write bytes at a virtual address of a space; none where no writable DRAM page lies there. -/
def storeIn (s : State) (asid : BitVec 16) (va : Nat) (bs : List Byte) : Option State :=
  match resolveOut s asid va with
  | .ok a => if permFault a .write false || a.fmt != .raw then none else match placeOf s a va with
    | .dram pa => some (storeBytes (reach s [] asid va) pa bs)
    | _ => none
  | .error _ => none

end Sys2Proof.Machine
end

