-- ==== Sys2Proof/Machine/Chains.lean ====
section
/-! DEFINITION. The crossing chains (R281 to R293): endpoints and stations, routes, the arbiters' choice by slack with
donation, FIFO room, and what happens to a packet granted. -/

namespace Sys2Proof.Machine

/-- Station of a cluster, and of slice strip k (R9). -/
def clusterStation (c : Nat) : Nat :=
  match c / 4 with | 0 => 2 | 1 => 4 | 2 => 5 | 3 => 7 | 4 => 8 | 5 => 10 | 6 => 11 | _ => 13

def sliceStation (k : Nat) : Nat := 3 + 3 * k

/-- Station of an endpoint identifier (R282). -/
def stationOf (e : Nat) : Nat :=
  if e < 128 then clusterStation (e / 4)
  else if e < 192 then clusterStation ((e - 128) / 2)
  else if e < 256 then (if e < 224 then 0 else 1)
  else if e < 320 then clusterStation ((e - 256) / 2)
  else if e < 384 then sliceStation ((e - 320) / 16)
  else if e < 448 then sliceStation ((e - 384) / 16)
  else if e = 451 then 1 else 14

/-- The local port of an endpoint at its station, from 1 (R284). -/
def portOf (e : Nat) : Nat :=
  if e < 128 then e / 4 % 4 + 1
  else if e < 192 then (e - 128) / 2 % 4 + 1
  else if e < 256 then (e - 192) % 32 / 4 + 1
  else if e < 320 then (e - 256) / 2 % 4 + 1
  else if e < 384 then (e - 320) % 16 + 1
  else if e < 448 then (e - 384) % 16 + 1
  else if e = 451 then 9 else if e = 448 then 1 else if e = 450 then 3 else 2

/-- Station numbers and lanes as indices of `ArbId`. -/
def stationFin (n : Nat) : Fin 15 := Fin.ofNat 15 n

/-- The arbiter a packet meets at a station on its way to an endpoint (R283). -/
def arbiterAt (st src dst cls : Nat) : ArbId :=
  let d := stationOf dst
  if st = d then .local (stationFin st)
  else .lane (decide (st < d)) (stationFin st) (Fin.ofNat 20 (src + 3 * dst + 7 * cls))

def arbIndex (a : ArbId) : Nat :=
  match a with
  | .lane e st l => (if e then 300 else 0) + 20 * st.val + l.val
  | .local st => 600 + st.val

def arbStation (a : ArbId) : Nat :=
  match a with
  | .lane _ st _ => st.val
  | .local st => st.val

namespace State

def arbiterOf (s : State) (a : ArbId) : Arbiter :=
  (s.arbiters.find? (fun x => x.arb == a)).getD ⟨a, [], 0⟩

def setArbiter (s : State) (a : Arbiter) : State :=
  { s with arbiters :=
      if a.packets = [] ∧ a.lastZero = 0 then s.arbiters.filter (fun x => x.arb != a.arb)
      else upsert (fun x => arbIndex x.arb) a s.arbiters }

end State

/-- A packet of slack 0 is late from then on (R293). -/
def Packet.marked (p : Packet) : Packet := if p.slack = 0 then { p with late := true } else p

/-- The lowest class of a packet's mask: a packet that is no marker has one class. -/
def classOf (m : BitVec 16) : Nat := ((List.range 16).find? (fun i => m.getLsbD i)).getD 0

def oneClass (c : Nat) : BitVec 16 := BitVec.ofNat 16 (2 ^ c)

/-- Inject a packet at its source's port (R284). -/
def inject (s : State) (p : Packet) : State :=
  let p := ({ p with id := s.nextPacket, input := portOf p.src } : Packet).marked
  let a := s.arbiterOf (arbiterAt (stationOf p.src) p.src p.dst (classOf p.mask))
  { s.setArbiter { a with packets := a.packets ++ [p] } with nextPacket := s.nextPacket + 1 }

/-- Packets of a request or reply that carries so many bytes of data (R283). -/
def flitsFor (bytes : Nat) : Nat := if 64 < bytes then 2 else 1

/-- The packets of one request or reply enter their FIFO back to back, the first leading (R283). -/
def injectAll (s : State) (p : Packet) (flits : Nat) : State :=
  if flits = 2 then inject (inject s { p with lead := true }) p else inject s p

/-- Packets of one FIFO: an input and a class (R284). -/
def inFifo (inp c : Nat) (p : Packet) : Bool := p.input == inp && p.mask.getLsbD c

/-- The head of one FIFO. -/
def fifoHead (l : List Packet) (inp c : Nat) : Option Packet := l.find? (inFifo inp c)

/-- Least own slack among the packets of a FIFO: the head's effective slack (R291). -/
def fifoSlack (l : List Packet) (inp c : Nat) : Nat :=
  (l.filter (inFifo inp c)).foldl (fun m p => min m p.slack) 4095

/-- A packet's FIFOs. -/
def fifosOf (p : Packet) : List (Nat × Nat) :=
  ((List.range 16).filter (fun c => p.mask.getLsbD c)).map (fun c => (p.input, c))

/-- A packet stands at the head of every FIFO it has a place in (R297). -/
def atHead (l : List Packet) (p : Packet) : Bool :=
  (fifosOf p).all (fun f => (fifoHead l f.1 f.2).any (fun q => q.id == p.id))

/-- Its effective slack: the least of its FIFOs' (R291, R297). -/
def effSlack (l : List Packet) (p : Packet) : Nat :=
  (fifosOf p).foldl (fun m f => min m (fifoSlack l f.1 f.2)) 4095

def fifoIndex (p : Packet) : Nat := p.input * 16 + classOf p.mask

/-- Of packets eligible at their FIFOs' heads, the one granted (R291): at effective slack 0 the first FIFO after the last one
so granted, wrapping around; otherwise the least slack, then the earliest arrival, then the lowest FIFO. -/
def choosePacket (l : List Packet) (lastZero n : Nat) (ok : Packet → Bool) : Option Packet :=
  let heads := l.filter (fun p => atHead l p && ok p)
  let zero := heads.filter (fun p => effSlack l p == 0)
  let best (key : Packet → Nat) (c : List Packet) : Option Packet :=
    c.foldl (fun b p => match b with
      | none => some p
      | some q => if key p < key q then some p else some q) none
  if zero != [] then best (fun p => (fifoIndex p + n - lastZero - 1) % n) zero
  else best (effSlack l) heads

/-- FIFOs of an arbiter: 16 for each input, of which the local switch has no upstream lane (R284). -/
def fifoCount (a : ArbId) : Nat :=
  let ports (st : Nat) := match st with | 0 => 8 | 1 => 9 | 3 | 6 | 9 | 12 => 16 | 14 => 3 | _ => 4
  match a with
  | .lane _ st _ => 16 * (ports st.val + 1)
  | .local st => 16 * ports st.val

/-- A FIFO holds 8 packets (R284, R285). -/
def roomIn (l : List Packet) (p : Packet) : Bool :=
  (fifosOf p).all (fun f => decide ((l.filter (inFifo f.1 f.2)).length < 8))

/-- The port FIFO that a source injects into has room for so many packets (R284, R378). -/
def portRoom (s : State) (p : Packet) (flits : Nat) : Bool :=
  let a := s.arbiterOf (arbiterAt (stationOf p.src) p.src p.dst (classOf p.mask))
  decide ((a.packets.filter (inFifo (portOf p.src) (classOf p.mask))).length + flits ≤ 8)

/-- The arrival side at a destination: 0 from the east, 1 from the west, 2 local (R285). -/
def arrivalSide (a : ArbId) : Nat :=
  match a with
  | .lane true _ _ => 1
  | .lane false _ _ => 0
  | .local _ => 2

/-- The station after a grant at an arbiter. -/
def nextStation (a : ArbId) : Nat :=
  match a with
  | .lane true st _ => st.val + 1
  | .lane false st _ => st.val - 1
  | .local st => st.val

/-- Where a packet stands after its grant: at the next arbiter of its lane, or at its destination. -/
def nextArbiter (a : ArbId) (p : Packet) : Option ArbId :=
  if nextStation a = stationOf p.dst then none
  else match a with
    | .lane e st l => some (.lane e (stationFin (nextStation (.lane e st l))) l)
    | .local _ => none

/-- The request FIFOs a packet enters at its destination: a slice's, or a core's window arbiter's (R285, R441). -/
def requestsAt (s : State) (dst : Nat) : List Packet :=
  if 384 ≤ dst ∧ dst < 448 then (s.sliceState (dst - 384)).requests
  else if dst < 128 then (s.coreState dst).windowReqs else []

def addRequest (s : State) (dst : Nat) (p : Packet) : State :=
  if 384 ≤ dst ∧ dst < 448 then
    let k := s.sliceState (dst - 384)
    s.setSlice { k with requests := k.requests ++ [p] }
  else if dst < 128 then
    let k := s.coreState dst
    s.setCore { k with windowReqs := k.windowReqs ++ [p] }
  else s

/-! ## The link's sending side (R423) -/

/-- A message that travels on the link. -/
def onLink (o : Outgoing) : Bool :=
  match o with
  | .interrupt | .hostFrame .. | .egressStamp .. | .etherFrame .. | .control .. | .replayRequest => false
  | _ => true

/-- Flits sent so far. -/
def flitsSent (s : State) : Nat := s.out.countP onLink

/-- Something arrived in order. -/
def heard (l : Link) : Link := { l with idleIn := 0, failedReplays := 0 }

/-- The link takes something to send: it does not retrain, and its replay buffer of 1,024 flits has room. -/
def linkTakes (s : State) : Bool := !s.link.retraining && decide (flitsSent s - s.link.acked < 1024)

/-- What the link brings arrives: it is up and does not retrain. -/
def linkBrings (s : State) : Bool := s.link.up && !s.link.retraining

/-- The state once something has arrived over the link (R425). -/
def hearing (s : State) : State := { s with link := heard s.link }

/-- The packet may move: its next FIFO has room (R292), or the link that is up takes it (R423). Replies are always accepted at their destination
(R285). -/
def mayMove (s : State) (a : ArbId) (p : Packet) : Bool :=
  match nextArbiter a p with
  | some b => roomIn (s.arbiterOf b).packets { p with input := 0 }
  | none => p.kind == .reply || p.kind == .markerAck ||
    if p.dst = 450 then !s.link.up || linkTakes s
    else roomIn (requestsAt s p.dst) { p with input := arrivalSide a }

/-- Slack decrements by one, and the packet is late at zero (R289, R293); no-urgency packets keep theirs. -/
def Packet.waited (p : Packet) : Packet :=
  if p.slack = 4095 ∨ p.slack = 0 then p else ({ p with slack := p.slack - 1 } : Packet).marked

/-- A packet of no urgency that has waited 1,024 clocks at one arbiter becomes 4,094 (R289). -/
def Packet.promoted (p : Packet) : Packet := if p.slack = 4095 then { p with slack := 4094 } else p

/-- Act on the packet with an identifier wherever it waits. -/
def State.modPacket (s : State) (n : Nat) (f : Packet → Packet) : State :=
  let g (l : List Packet) := l.map (fun p => if p.id = n then f p else p)
  { s with
    arbiters := s.arbiters.map (fun a => { a with packets := g a.packets })
    slices := s.slices.map (fun k => { k with requests := g k.requests })
    cores := s.cores.map (fun k => { k with windowReqs := g k.windowReqs }) }

end Sys2Proof.Machine
end

