-- ==== Sys2Proof/Machine/Registers.lean ====
section
/-! DEFINITION. Reads of the part registers (R75, R79, R82, R324, R422, R435 to R437), by offset from 0xFE00_0000_0000. Every
register is given as the aligned eight bytes it lies in. -/

namespace Sys2Proof.Machine

/-- CTCOFS as it reads: the negative remainder of a slew, in whole ticks (R319). -/
def ctcofsValue (t : ChipTime) : Word := BitVec.ofInt 64 (-(((t.slew * 2 ^ 40 - t.absorbed + 2 ^ 40 - 1) / 2 ^ 40 : Nat) : Int))

/-- STATUS of a ring (R79). -/
def ringStatus (r : Ring) : Nat :=
  (if r.enabled then 1 else 0) + (if r.stall then 2 else 0) + (if r.range then 4 else 0) + (if r.disabledByFault then 8 else 0)

/-- A notify page (R75). -/
def notifyWord (s : State) (n o : Nat) : Nat :=
  match s.rings.find? (fun r => r.ring == n) with
  | none => 0
  | some r => match o with
    | 0x00 => r.tail.toNat | 0x08 => r.head.toNat | 0x10 => ringStatus r | 0x18 => r.evcnt.toNat
    | _ => 0

/-- A ring descriptor (R72). -/
def descriptorStored (s : State) (n o : Nat) : Nat :=
  match s.rings.find? (fun r => r.ring == n) with
  | none => 0
  | some r => match o with
    | 0x00 => r.base.toNat | 0x08 => r.ready.toNat | 0x10 => r.headm.toNat | 0x18 => r.evt.toNat | 0x20 => r.cfg.toNat
    | 0x28 => r.stallt.toNat | 0x30 => r.rsvd % 2 ^ 64 | _ => r.rsvd / 2 ^ 64 % 2 ^ 64

/-- The fields of a ring's CFG word, and of a channel's CTL word (R72, R324). -/
def cfgFields : Nat := 0xF + 0x7F * 2 ^ 16 + 0xFFFF * 2 ^ 32

def ctlFields : Nat := 0x7 + 0x1FFF * 2 ^ 4 + 0x3F * 2 ^ 18 + 0xFFFF * 2 ^ 32

/-- A ring descriptor as it reads: reserved fields are zero (R3). -/
def descriptorWord (s : State) (n o : Nat) : Nat :=
  if o = 0x20 then descriptorStored s n o &&& cfgFields else if o < 0x30 then descriptorStored s n o else 0

/-- A job control block (R422). -/
def jobWord (s : State) (n o : Nat) : Nat :=
  match s.jobOf (BitVec.ofNat 16 n) with
  | none => 0
  | some j => if o = 0 then j.state % 16 * 2 ^ 4 + (if j.auto then 8 else 0) else j.mirwa.toNat

/-- A job service block (R436). -/
def serviceWord (s : State) (n o : Nat) : Nat :=
  match s.jobOf (BitVec.ofNat 16 n) with
  | none => 0
  | some j => match o with
    | 0x00 => j.fqbase + j.fqlog | 0x08 => 0 | 0x10 => j.spbase + j.slotsz * 2 ^ 8 | _ => j.spnum

/-- An entry of the match table (R82). -/
def matchWord (s : State) (n o : Nat) : Nat :=
  match s.matches_.find? (fun m => m.idx == n) with
  | none => 0
  | some m => match o with
    | 0x00 => m.tag.toNat + m.len.toNat * 2 ^ 32
    | 0x08 => m.count.toNat + m.asid.toNat * 2 ^ 32 + (if m.armed then 2 ^ 48 else 0) + (if m.done then 2 ^ 49 else 0) + (if m.err then 2 ^ 50 else 0)
    | 0x10 => m.recAddr.toNat
    | _ => 0

/-- A channel record (R324). -/
def channelStored (s : State) (n o : Nat) : Nat :=
  match s.channels.find? (fun c => c.ch == n) with
  | none => 0
  | some c => match o with
    | 0x00 => c.ctl.toNat
    | 0x08 => c.wmax + c.hmax * 2 ^ 32
    | 0x10 => c.rowofs.toNat
    | 0x18 => c.rowper + c.udpport * 2 ^ 32 + c.seqofs * 2 ^ 48
    | 0x20 => c.stat.toNat
    | _ => c.rsvd / 2 ^ (8 * (o - 0x28)) % 2 ^ 64

/-- A channel record as it reads: reserved fields are zero (R3). -/
def channelWord (s : State) (n o : Nat) : Nat :=
  if o = 0 then channelStored s n o &&& ctlFields else if o < 0x28 then channelStored s n o else 0

/-- The housekeeping registers (R437), STASHCFG of each core among them (R219). -/
def housekeepingWord (s : State) (o : Nat) : Nat :=
  let h := s.hk
  let b := s.boot
  let l := s.link
  match o with
  | 0x000 => 0x0480 * 2 ^ 16 + 0x4D56
  | 0x008 => b.version * 2 ^ 32 + (if b.mlf then 2 ^ 11 else 0) + (if b.edf then 2 ^ 10 else 0) + b.slot * 2 ^ 8 + b.state
  | 0x010 => h.asdbase
  | 0x018 => h.dramcap
  | 0x020 => s.ctc % 2 ^ 64
  | 0x028 => s.time.rate.toNat
  | 0x030 => (ctcofsValue s.time).toNat
  | 0x038 => h.ptpepoch.toNat
  | 0x040 => h.prethr.toNat
  | 0x048 => h.heqbase + h.heqlog
  | 0x050 => h.heqcnt.toNat
  | 0x058 => h.heqack.toNat
  | 0x060 => if h.heqLost then 1 else 0
  | 0x068 => h.ovfbase
  | 0x070 => h.parkbase + h.parklog
  | 0x078 => l.reason * 2 ^ 4 + (if l.hbhold then 4 else 0) + (if l.up then 2 else 0) + (if l.en then 1 else 0)
  | 0x080 => h.temp.toNat * 2 ^ 8 + (if h.throttling then 1 else 0)
  | 0x088 => h.pwrlim
  | 0x090 => h.qaddr + (if h.qdone then 2 else 0)
  | 0x098 => if h.dbgen then 1 else 0
  | _ => if 0x100 ≤ o ∧ o < 0x500 then (s.coreState ((o - 0x100) / 8)).wink else 0

/-- The eight bytes at an aligned offset (R435). -/
def registerWord (s : State) (off : Nat) : Nat :=
  if off < 0x100000 then notifyWord s (off / 4096) (off % 4096)
  else if 0x200000 ≤ off ∧ off < 0x300000 then jobWord s ((off - 0x200000) / 16) (off % 16)
  else if 0x300000 ≤ off ∧ off < 0x300800 then matchWord s ((off - 0x300000) / 32) (off % 32)
  else if 0x301000 ≤ off ∧ off < 0x305000 then descriptorWord s ((off - 0x301000) / 64) (off % 64)
  else if 0x308000 ≤ off ∧ off < 0x30C000 then channelWord s ((off - 0x308000) / 64) (off % 64)
  else if 0x30C000 ≤ off ∧ off < 0x30C200 then channelWord s (256 + (off - 0x30C000) / 64) (off % 64)
  else if 0x310000 ≤ off ∧ off < 0x311000 then housekeepingWord s (off - 0x310000)
  else if 0x400000 ≤ off ∧ off < 0x600000 then serviceWord s ((off - 0x400000) / 32) (off % 32)
  else 0

/-- The word at an offset as it is held, reserved fields included, which a write of a part of it leaves (R3, R435). -/
def registerHeld (s : State) (off : Nat) : Nat :=
  if 0x301000 ≤ off ∧ off < 0x305000 then descriptorStored s ((off - 0x301000) / 64) (off % 64)
  else if 0x308000 ≤ off ∧ off < 0x30C000 then channelStored s ((off - 0x308000) / 64) (off % 64)
  else if 0x30C000 ≤ off ∧ off < 0x30C200 then channelStored s (256 + (off - 0x30C000) / 64) (off % 64)
  else registerWord s off

/-- The n bytes at an offset, within one aligned word. -/
def registerRead (s : State) (off n : Nat) : Nat := registerWord s (off / 8 * 8) / 2 ^ (8 * (off % 8)) % 2 ^ (8 * n)

end Sys2Proof.Machine
end

