-- ==== Sys2Proof/Machine/SelfTest.lean ====
section
/-! DEFINITION. Targeted self-tests (R407): the resource that is quarantined and what its quarantine stops. -/

namespace Sys2Proof.Machine

/-- A resource is quarantined or returns to service: its core or Gusset issues nothing, its array starts no pass, its way takes no
new line (R214, R407). -/
def setQuarantine (s : State) (r : Resource) (on : Bool) : State :=
  match r with
  | .array c => s.setArray { s.arrayAt c.val with testing := on }
  | .stashBank c _ | .coreStore c => s.setCore { s.coreState c.val with quarantined := on }
  | .sliceWay n w =>
    let k := s.sliceState n.val
    s.setSlice { k with waysTest := if on then upsert id w.val k.waysTest else k.waysTest.filter (· != w.val) }
  | .gusset g => s.setGusset { s.gussetState g.val with quarantined := on }

/-- A test of the resource is running. -/
def underTest (s : State) (r : Resource) : Bool := s.testing.any (fun p => p.1 == r)

/-- Start a targeted self-test, unless the resource is under one or out of service already (R407, R409). -/
def startTest (s : State) (r : Resource) : State :=
  let out := match r with
    | .array c => (s.arrayAt c.val).failed
    | .stashBank c _ | .coreStore c => (s.coreState c.val).withdrawn
    | .sliceWay n w => (s.sliceState n.val).waysOut.contains w.val
    | .gusset g => (s.gussetState g.val).withdrawn
  let who := match r with
    | .array _ => s.self
    | .stashBank c _ | .coreStore c => c.val
    | .gusset g => 128 + 4 * g.val
    | .sliceWay .. => 1023
  if out || underTest s r then s else { setQuarantine s r true with testing := s.testing ++ [(r, who)] }

/-- The storage that a context's files, queues and latches are: its core's, or its Gusset (R407). -/
def storeResource (self : Nat) : Resource :=
  if isGusset self then .gusset (Fin.ofNat 128 (gidOf self)) else .coreStore (Fin.ofNat 128 self)

/-- The storage of a window's byte: a bank of the stash, or a Gusset (R219, R221, R407). -/
def windowResource (w o : Nat) : Resource :=
  if isGusset w then .gusset (Fin.ofNat 128 (gidOf w)) else .stashBank (Fin.ofNat 128 w) (Fin.ofNat 256 (o / 16))

/-- Poison at a virtual address of the context in focus is consumed: where it lies in a window, a targeted self-test of that storage
starts. In other memory the storage that reported the error is the DRAM, or reports on its own (R403; assumption 13). -/
def testStorage (s : State) (va : Nat) : State :=
  match resolve s s.ctx.info.asid va with
  | .ok a => match placeOf s a va with
    | .window w o => startTest s (windowResource w o)
    | _ => s
  | .error _ => s

/-- The instruction at an address consumes the poison at a virtual address: it does not complete (R403). -/
def consumePoison (s : State) (va : Nat) (at_ : Word) : State :=
  (testStorage s va).mod (fun c => { c with ready := { c.ready with ecc := some (BitVec.ofNat 64 va, at_) } })

/-- ERRSTAT after one more corrected error (R403, R415). -/
def countCorrected (e : Word) : Word :=
  let t := bitsOf e.toNat 15 0
  BitVec.ofNat 64 (e.toNat - t + Nat.min 65535 (t + 1))

/-- A single-bit error in the storage of a core or of a Gusset is corrected and counted (R403). -/
def noteCorrected (s : State) (r : Resource) : State :=
  match r with
  | .stashBank c _ | .coreStore c => s.setCore { s.coreState c.val with errstat := countCorrected (s.coreState c.val).errstat }
  | .gusset g => s.setGusset { s.gussetState g.val with errstat := countCorrected (s.gussetState g.val).errstat }
  | .array _ | .sliceWay .. => s

/-- The resource that holds a context's array: its cluster's, or its Gusset (R213, R407). -/
def arrayResource (self : Nat) : Resource :=
  if isGusset self then .gusset (Fin.ofNat 128 (gidOf self)) else .array (Fin.ofNat 32 (clusterOf self))

end Sys2Proof.Machine
end

