-- ==== Sys2Proof/Machine/Access.lean ====
section
/-! DEFINITION. The accesses a control slice issues: their elements and checks (R249 to R263), their order (R250, R351 to
R354), how each part is performed, and what its reply delivers. Completion records (R279, R280), flags (R358) and the LATE
register (R293 to R295) stand here because deliveries write them. -/

namespace Sys2Proof.Machine

/-! ## Shape records after substitution (R68 to R70) -/

def typeOfCode (c : Nat) : Option ElemType :=
  match c with
  | 0 => some .z8 | 1 => some .z16 | 2 => some .z32 | 3 => some .z64
  | 4 => some .s8 | 5 => some .s16 | 6 => some .s32 | 7 => some .s64
  | 8 => some .q | 9 => some .bf16 | 10 => some .f16 | 11 => some .f32
  | _ => none

end Sys2Proof.Machine

namespace Sys2Proof.ShapeRec


def rows (r : ShapeRec) : Nat := Machine.bitsOf r.w0.toNat 12 0
def cols (r : ShapeRec) : Nat := Machine.bitsOf r.w0.toNat 25 13
def stride (r : ShapeRec) : Nat := Machine.bitsOf r.w1.toNat 30 0
def swz (r : ShapeRec) : Nat := Machine.bitsOf r.w2.toNat 14 11
def blk (r : ShapeRec) : Nat := Machine.bitsOf r.w2.toNat 10 9
def planes (r : ShapeRec) : Nat := Machine.bitsOf r.w2.toNat 8 5
def typeCode (r : ShapeRec) : Nat := Machine.bitsOf r.w2.toNat 4 0
def aux (r : ShapeRec) : Nat := Machine.bitsOf r.w3.toNat 30 0
def etype (r : ShapeRec) : ElemType := (Machine.typeOfCode r.typeCode).getD .z8

end Sys2Proof.ShapeRec

namespace Sys2Proof.Machine

/-- A page's format is raw or the record's type (R197, R259, R268). -/
def fmtMatches (f : PageFormat) (t : ElemType) : Bool :=
  match f with
  | .raw => true
  | .q => t == .q
  | .bf16 => t == .bf16
  | .f16 => t == .f16
  | .f32 => t == .f32

/-! ## Completion records, flags and LATE -/

/-- Codes of R387. -/
def Cause.code : Cause → Nat
  | .illegal => 0x01 | .align => 0x02 | .shape => 0x03 | .queue => 0x04 | .stream => 0x05 | .future => 0x06
  | .trap => 0x07 | .frame => 0x08 | .page => 0x10 | .perm => 0x11 | .format => 0x12 | .bus => 0x13 | .window => 0x14
  | .decode => 0x18 | .noslot => 0x19 | .nopin => 0x1A | .noframe => 0x1B | .arrayFailed => 0x1C | .unwound => 0x1D
  | .ecc => 0x20 | .restoreEcc => 0x21 | .silent => 0x22
  | .cancel => 0x28 | .preempt => 0x29 | .timer => 0x2A | .halt => 0x2B
  | .laneFail => 0x30 | .overheat => 0x31 | .dispatchEcc => 0x32 | .watchdog => 0x33

/-- The writes of bytes of a page's element stream at the peer: a q element goes alone, with its place in its line and its stored
planes in its record (R235, R424). -/
def peerWrites (s : State) (a : PageAttr) (va : Nat) (bs : List Byte) (slack : Nat) (late : Bool) : List PeerWrite :=
  if a.fmt = .q then
    ((List.range bs.length).zip bs).map (fun p =>
      let o := (va + p.1) % 2 ^ a.sizeLog
      ⟨s.ctx.info.asid, 0, true, a.pbase + 128 * swizzle a.swz (o / 128), ⟨BitVec.ofNat 32 (o % 128), BitVec.ofNat 32 a.spl, 0, 0⟩, [p.2],
        slack, late⟩)
  else [⟨s.ctx.info.asid, 0, true, physOf a va, ⟨0, 0, 0, 0⟩, bs, slack, late⟩]

/-- Bytes written at a virtual address of the context's space by the part itself: the page's fault, or the store, which at the peer is
a message to it (R218, R222, R280, R394). The page must be writable. -/
def partStore (s : State) (va : Nat) (bs : List Byte) : State × Option Cause :=
  match resolve s s.ctx.info.asid va with
  | .error c => (reach s (tlbPlaces s) s.ctx.info.asid va, some c)
  | .ok a =>
    let s := reach s (tlbPlaces s) s.ctx.info.asid va
    if permFault a .write false then (s, some .perm)
    else match placeOf s a va with
      | .dram _ => (storeStream s a va bs, none)
      | .window w o => if windowOk s w o bs.length then (storeWindow s w o bs, none) else (s, some .window)
      | .peer _ => if s.link.up then ({ s with out := s.out ++ (peerWrites s a va bs 4095 false).map .peerWrite }, none) else (s, some .bus)
      | .register _ => (s, some .bus)
      | .nowhere => (s, some (if inAperture va then .window else .bus))

/-- The part's own read of n bytes at a virtual address of the context's space, in one page, with the address of the first poisoned word among
them (R403). -/
def partRead (s : State) (va n : Nat) : Except Cause (List Byte × Option Nat) :=
  match resolve s s.ctx.info.asid va with
  | .error c => .error c
  | .ok a =>
    if permFault a .read false then .error .perm
    else match placeOf s a va with
      | .dram pa => .ok (streamBytes s.mem a va n, poisonAt s pa va n)
      | .window w o => if windowOk s w o n then .ok (readBytes (windowMem s w) o n, poisonAt s (windowKey w o) va n) else .error .window
      | .nowhere => .error (if inAperture va then .window else .bus)
      | _ => .error .bus

/-- What such a read leaves in the caches: its walk, and its lines at their home slices (R223, R241). -/
def partReads (s : State) (va n : Nat) : State :=
  let s := reach s (tlbPlaces s) s.ctx.info.asid va
  match resolve s s.ctx.info.asid va with
  | .ok a => match placeOf s a va with
    | .dram _ => if permFault a .read false then s else readStream s a va n
    | _ => s
  | .error _ => s

/-- A completion record of the context in focus: written at its place in the ring, or lost; COUNT advances either way (R280). -/
def writeRecord (s : State) (status kind flag code bytes addr : Nat) : State :=
  let c := s.ctx
  let n := c.crcnt.toNat % 2 ^ 32
  let size := 2 ^ (c.crcfg.toNat % 16 + 7)
  let va := c.crcfg.toNat / 2 ^ 12 * 2 ^ 12 + 32 * (n % size)
  let bs := leBytes 1 status ++ leBytes 1 kind ++ leBytes 1 flag ++ leBytes 1 code ++ leBytes 4 c.info.seq.toNat ++
    leBytes 8 bytes ++ leBytes 8 addr ++ leBytes 8 s.ctc
  let r := partStore s va bs
  let lost := if r.2.isSome then 2 ^ 32 else 0
  r.1.mod (fun c => { c with crcnt := BitVec.ofNat 64 ((n + 1) % 2 ^ 32) ||| (c.crcnt &&& BitVec.ofNat 64 (2 ^ 32)) ||| BitVec.ofNat 64 lost })

/-- Where a job's save slot lies (R436). -/
def savePlace (s : State) (asid : BitVec 16) (k : Nat) : Nat :=
  (s.jobOf asid).elim 0 (fun j => j.spbase + 2 ^ 14 * j.slotsz * k)

/-- The save slot of the context in focus, where its increments still count: none without a slot, and none once the image of a cancelled unit is
discarded (R370, R399). -/
def saveHome (s : State) : Option Nat :=
  if s.ctx.fate = .cancelled then none else s.ctx.saveSlot.map (savePlace s s.ctx.info.asid)

/-- The context in focus is resident, and what counts in it counts in its registers; a squashed or retired unit's counts in its slot (R64, R358,
R367). -/
def countsHere (s : State) : Bool := decide (s.self < nobody) && s.ctx.fate != .squashed && !s.ctx.counted

/-- A flag rises, in its register or in its memory home (R357, R358). -/
def countFlag (s : State) (f : Fin 64) (n : Nat) : State :=
  if countsHere s then s.mod (·.addFlag f n)
  else match saveHome s with
    | some b => storeBytes s (b + 0x4400 + 4 * f.val) (leBytes 4 (min (2 ^ 32 - 1) (readLE s.mem (b + 0x4400 + 4 * f.val) 4 + n)))
    | none => s

/-- LATE of the context in focus: its register, or its home in the save slot, among the system registers (R293, R399); none where no increment
lands. -/
def lateOf (s : State) : Option Nat :=
  if countsHere s then some s.ctx.late.toNat else (saveHome s).map (fun b => readLE s.mem (b + 0x4230) 8)

def setLate (s : State) (v : Nat) : State :=
  if countsHere s then s.mod (fun c => { c with late := BitVec.ofNat 64 v })
  else match saveHome s with
    | some b => storeBytes s (b + 0x4230) (leBytes 8 v)
    | none => s

/-- A late request of level u is counted, and raises the exhausted-slack event (R293, R295). -/
def countLate (s : State) (u : Nat) (va : Nat) : State :=
  match lateOf s with
  | none => s
  | some late =>
    let cnt := min (2 ^ 32 - 1) (late % 2 ^ 32 + 1)
    let lv := bitsOf late 39 32
    let s' := setLate s (cnt + 2 ^ 32 * (lv ||| 2 ^ u))
    let tab := (s.ctx.slacktab[2]).toNat
    if bitOf lv u || !bitOf tab u then s'
    else
      let ef := bitsOf tab 13 8
      let s' := writeRecord s' 0 16 ef u cnt va
      if bitOf tab 14 then countFlag s' (Fin.ofNat 64 ef) 1 else s'

/-- k late requests of a level are counted at once (R293). -/
def countLates (s : State) (u k va : Nat) : State :=
  if k = 0 then s
  else
    let s := countLate s u va
    match lateOf s with
    | some n => setLate s (min (2 ^ 32 - 1) (n % 2 ^ 32 + (k - 1)) + n / 2 ^ 32 * 2 ^ 32)
    | none => s

/-- n requests of a level go out and come back whole: all are late from the start at slack 0, of no urgency none is, and of any other slack the
timing decides how many become late (R289, R293; assumption 21). -/
def requestLates (s : State) (slack u n va : Nat) : State :=
  if slack = 4095 then s
  else if slack = 0 then countLates s u n va
  else countLates s.drawn u (Config.lateRequests s.draws % (n + 1)) va

/-- A walk for an access of a slack and a level: every read it makes is a request (R287, R293, R381). -/
def walkLates (s : State) (place slack u va : Nat) : State :=
  requestLates s slack u (walkReads s place s.ctx.info.asid va).length va

/-- SLACKTAB's entry of a level (R287, R288). -/
def slackEntry (c : Context) (u : Nat) : Nat :=
  let w := if u < 4 then c.slacktab[0] else c.slacktab[1]
  bitsOf w.toNat (16 * (u % 4) + 11) (16 * (u % 4))

/-- A checkpoint range's page is marked when the context writes it (R405). -/
def markWrite (va : Nat) (c : Context) : Context :=
  let r := c.region
  let p := va / 2 ^ 12
  if r.isOpen && r.trk && decide (r.base ≤ p) && decide (p < r.base + r.pages) && !r.marked.contains p then
    { c with region := { r with marked := upsert id p r.marked } }
  else c

/-! ## Elements and checks -/

/-- Rows of sq an access takes, in a context whose rows have so many bits (R108, R256, R259). -/
def rowsNeeded (bits : Nat) (a : Access) : Nat :=
  let w := bits / a.laneWidth
  match a.kind with
  | .vstore | .gather => 1
  | .scatter | .radd _ => 2
  | .vstores => a.shape.rows * ((a.shape.cols + w - 1) / w)
  | _ => 0

/-- The entry from which an access takes its next row: the one that its descriptor named, or else the oldest that no descriptor names (R108,
R397). -/
def nextRow (claimed : List Nat) (a : Access) (e : RowEntry) : Bool :=
  match a.rowIds[a.rows.length]? with
  | some i => e.id == i
  | none => !claimed.contains e.id

/-- An access takes rows from their entries while these are filled, at most n. -/
def takeRows (claimed : List Nat) : Nat → Access → List RowEntry → Access × List RowEntry
  | 0, a, q => (a, q)
  | n + 1, a, q => match q.find? (nextRow claimed a) with
    | some e =>
      if e.filled then takeRows claimed n { a with rows := a.rows ++ [e.data.toNat] } (q.eraseP (nextRow claimed a)) else (a, q)
    | none => (a, q)

/-- Accesses pair with sq entries in program order; one whose descriptor named all its entries waits for no other (R108, R397). -/
def feedRows (bits : Nat) (claimed : List Nat) : Bool → List Access → List RowEntry → List Access × List RowEntry
  | _, [], q => ([], q)
  | stop, a :: as, q =>
    let r := if stop && decide (a.rowIds.length < rowsNeeded bits a) then (a, q) else takeRows claimed (rowsNeeded bits a - a.rows.length) a q
    let t := feedRows bits claimed (stop || decide (r.1.rows.length < rowsNeeded bits a)) as r.2
    (r.1 :: t.1, t.2)

/-- Bytes of an element of a vector access in a page (R254). -/
def elemBytes (lw : Nat) (f : PageFormat) : Nat :=
  match f with
  | .raw => lw / 8
  | .q => 1
  | .bf16 | .f16 => 2
  | .f32 => 4

/-- What planning an access finds: rows or a walk still to come, a fault, or its elements. -/
inductive Plan where
  | wait
  | walk (va : Nat)
  | fault (c : Cause) (va : Nat)
  | ready (es : List Elem)
  deriving DecidableEq, Repr

/-- Check elements (row, lane, address, bytes) in order through the held translations; a down link gives BUS (R218, R425). -/
def planList (s : State) (chk : PageAttr → Nat → Option Cause) : List (Nat × Nat × Nat × Nat) → Plan
  | [] => .ready []
  | (r, l, va, n) :: rest =>
    match held s s.ctx.info.asid va with
    | none => if canonical va then .walk va else .fault .page va
    | some a => match chk a n with
      | some c => .fault c va
      | none => match placeOf s a va with
        | .nowhere => .fault (if inAperture va then .window else .bus) va
        | .peer _ => if !s.link.up then .fault .bus va else match planList s chk rest with
          | .ready es => .ready (⟨r, l, va, n, a⟩ :: es)
          | p => p
        | _ => match planList s chk rest with
          | .ready es => .ready (⟨r, l, va, n, a⟩ :: es)
          | p => p

/-- The page format that fixes a vector access's element size: that of the page holding its base, raw when the base has no
valid translation (R254, R256). -/
def baseFormat (s : State) (va : Nat) : Except Nat PageFormat :=
  match held s s.ctx.info.asid va with
  | some a => .ok a.fmt
  | none => match walk s s.ctx.info.asid va with
    | .ok _ => .error va
    | .error _ => .ok .raw

/-- The lanes that a vector access names, of w: g0 names every one (R254). -/
def activeLanes (a : Access) (w : Nat) : List Nat := (List.range w).filter (fun l => a.allLanes || bitOf a.v1.toNat l)

/-- An f32 page cannot be read or written in lanes of 16 bits (R254). -/
def narrowShape (lw : Nat) (f : PageFormat) : Option Cause := if f = .f32 ∧ lw = 16 then some .shape else none

/-- VRADD's pages: raw or of its type (R258). -/
def raddShape (t : ElemType) (f : PageFormat) : Option Cause :=
  if f = .raw || (fmtMatches f t && f != .q) then none else some .shape

/-- The elements of a record's rows, W to a queue entry (R259). -/
def recordElems (w base : Nat) (r : ShapeRec) : List (Nat × Nat × Nat × Nat) :=
  let e := r.etype.bytes
  let per := (r.cols + w - 1) / w
  (List.range r.rows).flatMap (fun i => (List.range r.cols).map (fun j =>
    (i * per + j / w, j % w, (base + i * r.stride + j * e) % 2 ^ 64, e)))

/-- Pages of a VLDS or VSTS (R71, R259). -/
def recordShape (r : ShapeRec) (a : PageAttr) : Bool :=
  !fmtMatches a.fmt r.etype || a.swz != r.swz || (a.fmt != .raw && r.stride % 128 != 0)

/-- Accesses of a row of lanes, whose element size the page of their base fixes (R254, R256). -/
def AccKind.isLaned : AccKind → Bool
  | .vload | .vstore | .gather | .scatter | .radd _ => true
  | _ => false

/-- Lanes at an index of sq (R256). -/
def AccKind.isIndexed : AccKind → Bool
  | .gather | .scatter | .radd _ => true
  | _ => false

/-- The format that gives an access's element size: the one fixed before, else that of its base's page, once known (R254, R256). -/
def elemFormat (s : State) (a : Access) : Option PageFormat :=
  match a.fmt with
  | some f => some f
  | none => match baseFormat s a.ea.toNat with
    | .ok f => some f
    | .error _ => none

/-- The format that fixes an access's element size: for an indexed form from its issue on, for a row once its base's page is mapped (R254,
R256). -/
def fixFormat (s : State) (a : Access) : Access :=
  if a.kind.isLaned && (a.kind.isIndexed || (held s s.ctx.info.asid a.ea.toNat).isSome) then { a with fmt := elemFormat s a } else a

/-- The elements of an access (row, lane, address, bytes) once they are known; before, the walk or the sq row it waits for. -/
def elemsOf (s : State) (a : Access) : Except Plan (List (Nat × Nat × Nat × Nat)) :=
  let ea := a.ea.toNat
  match a.kind with
  | .load n _ | .store n | .amo n _ | .cas n => .ok [(0, 0, ea, n)]
  | .probe _ => .ok [(0, 0, ea, 8)]
  | .fetch => .ok [(0, 0, ea, 4)]
  | .roi => .ok ((List.range 16).map (fun j => (j, 0, (ea + 8 * j) % 2 ^ 64, 8)))
  | .vloads | .vstores => .ok (recordElems (s.rowBits / a.laneWidth) ea a.shape)
  | .cacheOp _ => .ok []
  | .vload | .vstore | .gather | .scatter | .radd _ =>
    match elemFormat s a with
    | none => .error (.walk ea)
    | some f =>
      if a.kind.isIndexed && a.rows == [] then .error .wait
      else
        let e := elemBytes a.laneWidth f
        let at_ (l : Nat) : Nat := ea + (if a.kind.isIndexed then laneOf (a.rows.headD 0) a.laneWidth l else l) * e
        .ok ((activeLanes a (s.rowBits / a.laneWidth)).map (fun l => (0, l, at_ l % 2 ^ 64, e)))

/-- What an access's own rules find wrong with the page of an element (R234, R252 to R262, R365). -/
def pageCheck (s : State) (a : Access) (p : PageAttr) : Option Cause :=
  let perm (u : Use) (dev : Bool) : Option Cause := if permFault p u dev then some .perm else none
  let laned (extra : Option Cause) (u : Use) : Option Cause :=
    if some p.fmt != elemFormat s a then some .shape else match extra with
      | some c => some c
      | none => perm u false
  match a.kind with
  | .load n _ => perm .read (n == 4 || n == 8)
  | .store n => perm .write (n == 4 || n == 8)
  | .vload | .gather => laned (narrowShape a.laneWidth p.fmt) .read
  | .vstore | .scatter => laned (narrowShape a.laneWidth p.fmt) .write
  | .radd t => laned (raddShape t p.fmt) .atomic
  | .vloads => if recordShape a.shape p then some .shape else perm .read false
  | .vstores => if recordShape a.shape p then some .shape else perm .write false
  | .amo .. | .cas .. => if p.fmt != .raw then some .perm else perm .atomic false
  | .probe f =>
    if f != 2 && (p.fmt != .raw || p.dev || inAperture a.ea.toNat) then some .perm else perm (if f = 4 then .write else .read) false
  | .fetch => perm .fetch false
  | .roi => if p.fmt != .raw then some .perm else perm .read false
  | .cacheOp _ => none

/-- Plan an access of the context in focus (R249, R252 to R262, R365). -/
def planAccess (s : State) (a : Access) : Plan :=
  match elemsOf s a with
  | .error p => p
  | .ok es => planList s (fun p _ => pageCheck s a p) es

/-- Some page whose translation is held at issue has the wrong format for the access, wherever it stands among its pages (R71, R249,
R254 to R259). -/
def shapeAtIssue (s : State) (a : Access) : Bool :=
  match elemsOf s a with
  | .error _ => false
  | .ok es => es.any (fun e => match held s s.ctx.info.asid e.2.2.1 with
    | some p => pageCheck s a p == some .shape
    | none => false)

/-- A future lies in plain DRAM (R365), and so does code: programs reach the peer by other accesses only (R218, R424). -/
def badPlace (s : State) (a : Access) (es : List Elem) : Option Cause :=
  if es.any (fun e => match placeOf s e.attr e.va with
    | .dram _ => false
    | _ => true) then
    (match a.kind with
      | .probe 3 | .probe 4 => some .perm
      | .fetch => some .bus
      | _ => none)
  else none

/-- Elements grouped into parts by line, in order of first appearance (R283). -/
def partsOf (s : State) : List Elem → List Part → List Part
  | [], ps => ps
  | e :: es, ps =>
    let k := lineKey (placeOf s e.attr e.va)
    partsOf s es (if ps.any (fun p => p.line == k) then
      ps.map (fun p => if p.line = k then { p with elems := p.elems ++ [e] } else p)
      else ps ++ [⟨k, [e], .waiting, 0, false, none⟩])

/-- Rows of result data an access collects. -/
def dataRows (bits : Nat) (a : Access) : Nat :=
  let w := bits / a.laneWidth
  match a.kind with
  | .vloads => a.shape.rows * ((a.shape.cols + w - 1) / w)
  | .roi => 16
  | _ => 1

/-- A fault of an access: a speculative load is marked instead, and never faults (R153). -/
def Access.faultAt (c : Cause) (va : Word) (a : Access) : Access := { a with stage := if a.tagged then .dropped else .faulted c va }

/-- The access after planning: planned with its parts and the order it belongs to (R353), faulted, marked (R153), or as it was. -/
def planned (s : State) (a : Access) : Access :=
  if a.stage != .walking then a
  else
    let a := fixFormat s a
    match planAccess s a with
    | .wait | .walk _ => a
    | .fault c va => a.faultAt c (BitVec.ofNat 64 va)
    | .ready es => match badPlace s a es with
      | some c => a.faultAt c a.ea
      | none => { a with
          stage := .planned, parts := partsOf s es [], data := List.replicate (dataRows s.rowBits a) 0
          tso := es.any (fun e => e.attr.tso) }

/-- Pair rows and plan what can be planned. -/
def planAll (s : State) : State :=
  let r := feedRows s.rowBits (s.ctx.accesses.flatMap Access.rowIds) false s.ctx.accesses s.ctx.sq
  let s := s.mod (fun c => { c with accesses := r.1, sq := r.2 })
  s.mod (fun c => { c with accesses := c.accesses.map (planned s) })

/-! ## Order (R250, R351 to R354) -/

/-- A plain load, which under total store order may pass earlier stores to other addresses (R353). -/
def AccKind.plainLoad : AccKind → Bool
  | .load .. | .vload | .vloads | .gather | .roi => true
  | _ => false

def Access.onDev (a : Access) : Bool := a.parts.any (fun p => p.elems.any (fun e => e.attr.dev))

/-- The access stands on a fault, whose service may yet let it be performed (R391). -/
def Access.isHeld (a : Access) : Bool :=
  match a.stage with
  | .faulted .. | .offered .. | .declined .. => true
  | _ => false

/-- Two accesses belong to one ordering class: that of TSO, or one of the sixteen that instructions name (R351, R353). -/
def sameClass (a b : Access) : Bool := a.tso == b.tso && (a.tso || a.cls == b.cls)

/-- The earlier access a, not yet performed, keeps every part of the later access b waiting: their class, the order of DEV
accesses (R252, R351, R353). An access whose addresses are not known yet keeps all others; one that stands on a fault may still turn out to lie
in a DEV page. -/
def holdsBack (a b : Access) : Bool :=
  a.stage != .dropped && !a.performed &&
  ((sameClass a b && !(a.tso && b.kind.plainLoad && !a.kind.plainLoad && a.kind.isStore)) ||
 ((a.onDev || a.isHeld) && b.onDev) || a.stage == .walking)

/-- An access that stands on a fault has an element at an address in the line of a part, or in its lines' place as far as that is known (R250). -/
def heldLine (s : State) (a : Access) (p : Part) : Bool :=
  match elemsOf s a with
  | .error _ => false
  | .ok es => es.any (fun x => p.elems.any (fun e => e.va / 128 == x.2.2.1 / 128) ||
      (held s s.ctx.info.asid x.2.2.1).any (fun t => lineKey (placeOf s t x.2.2.1) == p.line))

/-- The earlier access a has an unperformed element in the line of a part (R250). -/
def sharesLine (s : State) (a : Access) (p : Part) : Bool :=
  (a.stage == .planned && a.parts.any (fun q => q.line == p.line && !(q.stage == .performed || q.stage == .returned))) ||
  (a.isHeld && heldLine s a p)

/-- Every sq row of the access has come. -/
def hasRows (bits : Nat) (a : Access) : Bool := decide (rowsNeeded bits a ≤ a.rows.length)

/-- Part p of access b may be performed, given the accesses issued before b. -/
def mayPerform (s : State) (before : List Access) (b : Access) (p : Part) : Bool :=
  b.stage == .planned && p.stage == .waiting && hasRows s.rowBits b &&
  before.all (fun a => !holdsBack a b && !sharesLine s a p)

/-! ## Performing -/

/-- An n-byte atomic's new value (R260). -/
def amoNew (n : Nat) (op : AmoOp) (old b : Nat) : Nat :=
  let w := 8 * n
  let b := b % 2 ^ w
  match op with
  | .swap => b
  | .add => (old + b) % 2 ^ w
  | .and => old &&& b
  | .or => old ||| b
  | .xor => old ^^^ b
  | .min => if Num.wrap old w ≤ Num.wrap b w then old else b
  | .max => if Num.wrap b w ≤ Num.wrap old w then old else b
  | .minu => Nat.min old b
  | .maxu => Nat.max old b
  | .fadd => (Num.fadd Num.f32 .rne false old b).1

/-- VRADD's add (R258). -/
def raddNew (t : ElemType) (old b : Nat) : Nat :=
  match t.fmt? with
  | some f => (Num.fadd f .rne false (old % 2 ^ t.width) (b % 2 ^ t.width)).1
  | none => (old + b) % 2 ^ t.width

/-- The bytes of an element as a number (R237, R252). -/
def readElem (s : State) (e : Elem) : Nat :=
  match placeOf s e.attr e.va with
  | .dram _ => leNat (streamBytes s.mem e.attr e.va e.n)
  | .window w o => readLE (windowMem s w) o e.n
  | .register pa => registerRead s (pa - registerBase) e.n
  | _ => 0

/-- Write an element; a part register's write takes effect as the next move (R435). -/
def writeElem (s : State) (e : Elem) (v : Nat) : State :=
  let s := s.mod (markWrite e.va)
  match placeOf s e.attr e.va with
  | .dram pa => { s with
      mem := putStreamBytes s.mem e.attr e.va (leBytes e.n v)
      poison := if e.attr.fmt = .q then s.poison else clearPoison s pa e.n }
  | .window w o => storeWindow s w o (leBytes e.n v)
  | .register pa =>
    { s with agenda := .move (.event s.self (.housekeepingWrite (pa - registerBase) e.n (BitVec.ofNat 64 v))) :: s.agenda }
  | _ => s

/-- Put a value into a lane of a row that holds zero there. -/
def addLane (lw row lane v : Nat) (data : List Nat) : List Nat := modifyNth (· + v * 2 ^ (lw * lane)) row data

/-- A q element is delivered at the record's planes (R259). -/
def atPlanes (a : Access) (e : Elem) (v : Nat) : Nat :=
  if a.kind == .vloads && e.attr.fmt == .q && a.shape.planes != 0 then v / 2 ^ (8 - a.shape.planes) * 2 ^ (8 - a.shape.planes)
  else v

/-- The lane of sq data an element takes. -/
def laneData (a : Access) (e : Elem) : Nat :=
  match a.kind with
  | .vstore => laneOf (a.rows.headD 0) a.laneWidth e.lane
  | .scatter | .radd _ => laneOf ((a.rows.drop 1).headD 0) a.laneWidth e.lane
  | .vstores => laneOf ((a.rows.drop e.row).headD 0) a.laneWidth e.lane
  | _ => 0

/-- One element is performed: memory, and what the access has read. -/
def performElem (sa : State × Access) (e : Elem) : State × Access :=
  let (s, a) := sa
  let lw := a.laneWidth
  let old := readElem s e
  match a.kind with
  | .load .. | .fetch | .probe _ => (s, { a with data := [old] })
  | .roi => (s, { a with data := modifyNth (fun _ => old) e.row a.data })
  | .store _ => (writeElem s e a.v1.toNat, a)
  | .vload | .vloads | .gather => (s, { a with data := addLane lw e.row e.lane (atPlanes a e old) a.data })
  | .vstore | .vstores | .scatter => (writeElem s e (laneData a e), a)
  | .radd t => (writeElem s e (raddNew t old (laneData a e)), a)
  | .amo n op => (writeElem s e (amoNew n op old a.v1.toNat), { a with data := [old] })
  | .cas n =>
    (if old = a.v2.toNat % 2 ^ (8 * n) then writeElem s e a.v1.toNat else s, { a with data := [old] })
  | .cacheOp _ => (s, a)

/-- The sectors of their line that n bytes of a page's element stream need, a q element at k planes (R220, R237). -/
def needSectors (a : PageAttr) (k va n : Nat) : BitVec 4 :=
  if a.fmt = .q then BitVec.ofNat 4 (2 ^ ((Nat.min k a.spl + 1) / 2) - 1) else sectorsIn (va % 128) n 0

/-- The planes an access reads of a q element: its record's in VLDS, else all (R237, R259). -/
def Access.planes (a : Access) : Nat := if a.kind == .vloads && a.shape.planes != 0 then a.shape.planes else 8

def partSectors (s : State) (a : Access) (p : Part) : BitVec 4 :=
  p.elems.foldl (fun m e => match placeOf s e.attr e.va with
    | .dram _ => m ||| needSectors e.attr a.planes e.va e.n
    | _ => m) 0

/-- Where a part is performed. -/
def partPlace (s : State) (p : Part) : Place :=
  match p.elems with
  | e :: _ => placeOf s e.attr e.va
  | [] => .nowhere

/-- Insert by rank. -/
def insertRank {α : Type} (rank : α → Nat) (x : α) : List α → List α
  | [] => [x]
  | y :: ys => if rank y ≤ rank x then y :: insertRank rank x ys else x :: y :: ys

/-- The elements of a part in the order they are performed: by lane, but VRADD's in an order the part does not fix (R257). -/
def performOrder (s : State) (a : Access) (p : Part) : List Elem :=
  match a.kind with
  | .radd _ => p.elems.foldr (insertRank (fun e => Config.addOrder s.draws e.lane)) []
  | _ => p.elems

/-- A part reads poison (R403). -/
def partPoison (s : State) (a : Access) (p : Part) : Option Nat :=
  (p.elems.find? (fun e => match placeOf s e.attr e.va with
    | .dram pa => poisoned s pa (storedBytes e.attr a.planes e.n)
    | .window w o => poisoned s (windowKey w o) e.n
    | _ => false)).map Elem.va

/-- The records of what the caches hold after a DRAM part is performed (R220, R226, R262). -/
def cachePart (s : State) (a : Access) (p : Part) : State :=
  match partPlace s p with
  | .dram pa =>
    let line := pa / 128
    let mask := partSectors s a p
    let atomic := match a.kind with | .amo .. | .cas .. | .radd _ => true | _ => false
    if a.onDev then (if a.kind.writes then writeBack s line mask else s)
    else if atomic then noteAtomics s s.self line p.elems.length mask
    else
      let prev := (atomsOf s line).filter (fun x => x.1 == s.self)
      setAtoms (touchStash (touchSlice s line mask false) s.self line mask a.kind.writes) line prev
  | _ => s

/-- Lanes that together write a word of 8 bytes whole clear its poison (R403). -/
def clearWritten (s : State) (p : Part) : State :=
  let writes (b : Nat) (e : Elem) : Bool := match placeOf s e.attr e.va with
    | .dram pa => e.attr.fmt != .q && decide (pa ≤ b) && decide (b < pa + e.n)
    | .window w o => decide (windowKey w o ≤ b) && decide (b < windowKey w o + e.n)
    | _ => false
  if s.poison = [] then s
  else { s with poison := s.poison.filter (fun w => !(List.range 8).all (fun i => p.elems.any (writes (8 * w + i)))) }

/-- How many of a part's remaining elements are performed at a time: of a row, no fixed number of them, since only its elements are atomic (R250). -/
def pieceOf (s : State) (a : Access) (n : Nat) : Nat :=
  if n ≤ 1 || a.kind == .fetch || a.onDev then n else Config.pieces s.draws % (n + 1)

/-- Perform one part of an access, whole or a piece of it: a window that refuses fails the access (R222, R383); poison read is an error of the context
and leaves no result (R403); a speculative load is marked instead (R153); otherwise its elements in order (R250). -/
def performPart (s : State) (whole : Bool) (a : Access) (p : Part) : State × Access :=
  let windowBad := p.elems.find? (fun e => match placeOf s e.attr e.va with
    | .window w o => !windowOk s w o e.n
    | _ => false)
  match windowBad with
  | some e => (s, a.faultAt .window (BitVec.ofNat 64 e.va))
  | none =>
    let reads := !(a.kind.writes) || (match a.kind with | .amo .. | .cas .. | .radd _ => true | _ => false)
    match (if reads then partPoison s a p else none) with
    | some va => (if a.tagged then s else consumePoison s va a.iaddr, { a with stage := .dropped })
    | none =>
      let es := p.left.getD (performOrder s a p)
      let n := if whole then es.length else pieceOf s a es.length
      let (s', a') := (es.take n).foldl performElem (if es.length ≤ 1 then s else s.drawn, a)
      let mark (f : Part → Part) : Access := { a' with parts := a'.parts.map (fun q => if q.line = p.line then f q else q) }
      if a'.stage != .planned then (s', a')
      else if n < es.length then (s', mark (fun q => { q with left := some (es.drop n) }))
      else (cachePart (if a.kind.writes then clearWritten s' p else s') a p, mark (fun q => { q with stage := .performed, left := none }))

/-- Replace an access of the context in focus. -/
def putAccess (a : Access) (c : Context) : Context :=
  { c with accesses := c.accesses.map (fun b => if b.id = a.id then a else b) }

def dropAccess (ident : Nat) (c : Context) : Context :=
  { c with accesses := c.accesses.filter (fun b => b.id != ident) }

/-- Perform the part of a line of an access of the context in focus, by identifier, whole or a piece of it. -/
def performLine (s : State) (whole : Bool) (ident line : Nat) : State :=
  match s.ctx.accesses.find? (fun a => a.id == ident) with
  | some a => match a.parts.find? (fun p => p.line == line && !(p.stage == .performed || p.stage == .returned)) with
    | some p => let r := performPart s whole a p; r.1.mod (putAccess r.2)
    | none => s
  | none => s

/-! ## Delivery -/

/-- An entry of a region-of-interest table covers row y (R337, R338). -/
def roiCovers (y e : Nat) : Bool :=
  bitOf e 63 && bitsOf e 62 61 == 0 && bitsOf e 47 45 == 0 && bitsOf e 31 29 == 0 && bitsOf e 15 13 == 0 &&
  decide (bitsOf e 44 32 ≤ y) && decide (y ≤ bitsOf e 60 48)

/-- What ROI.RD writes for row y of a table (R338). -/
def roiWord (y : Nat) (table : List Nat) : Nat :=
  let cov := table.filter (roiCovers y)
  if cov = [] then 0
  else
    let mask := ((List.range table.length).zip table).foldl (fun m p => if roiCovers y p.2 then m + 2 ^ p.1 else m) 0
    2 ^ 63 + mask * 2 ^ 32 + cov.foldl (fun m e => Nat.max m (bitsOf e 28 16)) 0 * 2 ^ 16 +
      cov.foldl (fun m e => Nat.min m (bitsOf e 12 0)) (2 ^ 13 - 1)

/-- The value a load or atomic writes to its register (R252, R260). -/
def loadValue (a : Access) : Word :=
  let v := a.data.headD 0
  match a.kind with
  | .load n true => BitVec.ofInt 64 (Num.wrap v (8 * n))
  | .roi => BitVec.ofNat 64 (roiWord a.v1.toNat a.data)
  | _ => BitVec.ofNat 64 v

/-- Fill an access's lq entries with its rows, in order (R108). -/
def fillLq (ident : Nat) : List Nat → List RowEntry → List RowEntry
  | [], q => q
  | d :: ds, q => fillLq (ident + 1) ds (fillRow ident (BitVec.ofNat 1024 d) q)

def AccKind.fillsLq : AccKind → Bool
  | .vload | .vloads | .gather => true
  | _ => false

/-- The level a late request counts under (R295). -/
def Access.level (a : Access) : Nat := a.urg.val

/-- A completed access leaves: its data goes to its register or its lq entries (R253). -/
def deliver (s : State) (a : Access) : State :=
  let s := s.mod (dropAccess a.id)
  let s := if a.kind.writesG then s.mod (Context.setG a.dest (loadValue a)) else s
  if a.kind.fillsLq then s.mod (fun c => { c with lq := fillLq a.qi a.data c.lq }) else s

/-- CFLUSH, CINV and SWB act on the lines of their range that translate to cacheable DRAM (R265). The count of lines
stands in v1. -/
def cacheLines (s : State) (ea count : Nat) : List (Nat × PageAttr) :=
  (List.range (min count (2 ^ 20))).filterMap (fun i =>
    let va := (ea / 128 * 128 + 128 * i) % 2 ^ 64
    if inAperture va then none
    else match resolve s s.ctx.info.asid va with
      | .ok a => match placeOf s a va with
        | .dram pa => if a.dev then none else some (pa / 128, a)
        | _ => none
      | .error _ => none)

/-- The walks for the lines of a range leave their entries and lines behind (R240, R241). -/
def reachLines (s : State) (ea count : Nat) : State :=
  (List.range (min count (2 ^ 20))).foldl (fun s i => reach s (tlbPlaces s) s.ctx.info.asid ((ea / 128 * 128 + 128 * i) % 2 ^ 64)) s

/-- The effect on each line; a line asks its home slice with the access's slack (R287, R293). -/
def cacheEffect (s : State) (a : Access) : State :=
  let lines := cacheLines s a.ea.toNat a.v1.toNat
  let s := lines.foldl (fun s p =>
    if a.kind = .cacheOp 2 then flushLine s p.1
    else if a.kind = .cacheOp 3 then (if p.2.w then invalidateLine s p.1 else s)
    else writeBackOwn s s.self p.1) (reachLines s a.ea.toNat a.v1.toNat)
  requestLates s a.slack a.urg.val lines.length a.ea.toNat

/-! ## Sending parts on their way (R283, R441) -/

/-- A part is performed where the context stands: in its own stash or its own window. -/
def performsHere (s : State) (a : Access) (p : Part) : Bool :=
  match partPlace s p with
  | .dram pa =>
    (match a.kind with
      | .amo .. | .cas .. | .radd _ => atomicsGranted s s.self (pa / 128) && stashHits s s.self (pa / 128) (partSectors s a p) true
      | _ => !a.onDev && stashHits s s.self (pa / 128) (partSectors s a p) a.kind.writes)
  | .window w _ => w == s.self || isGusset s.self
  | _ => false

/-- The endpoint that performs what lies at a place (R282). -/
def placeEndpoint (p : Place) : Nat :=
  match p with
  | .dram pa => sliceEndpoint (sliceOf pa)
  | .window w _ => endpointOf w
  | .peer _ => 450
  | _ => 452

/-- The endpoint that performs a part (R282). -/
def partEndpoint (s : State) (p : Part) : Nat := placeEndpoint (partPlace s p)

/-- A part of an access of the context in focus is on its way. -/
def markSent (ident line : Nat) (c : Context) : Context :=
  { c with accesses := c.accesses.map (fun b => if b.id = ident then
      { b with parts := b.parts.map (fun q => if q.line = line then { q with stage := .sent } else q) } else b) }

/-- Bytes of memory that a part reads or writes, the stored planes of its line for q elements (R237, R283). -/
def partBytes (k : Nat) (p : Part) : Nat :=
  Nat.min 128 (p.elems.foldl (fun n e => if e.attr.fmt = .q then Nat.max n (storedBytes e.attr k 1) else n + e.n) 0)

/-- Bytes of data that a part's request carries, and its reply: an atomic and a reply without data take one packet (R283). -/
def requestBytes (a : Access) (p : Part) : Nat :=
  match a.kind with
  | .store _ | .vstore | .vstores | .scatter | .radd _ => partBytes 8 p
  | _ => 0

/-- A reply from a slice brings the sectors that the load needs; one from elsewhere, or of a DEV page, the bytes (R220, R252, R283). -/
def replyBytes (s : State) (a : Access) (p : Part) : Nat :=
  match a.kind with
  | .load .. | .vload | .vloads | .gather | .fetch | .roi | .probe _ => match partPlace s p with
    | .dram _ => if a.onDev then partBytes a.planes p else 32 * (sectorsOf (partSectors s a p)).length
    | _ => partBytes a.planes p
  | _ => 0

/-- The request packet of a part of an access of the context in focus (R283, R287). -/
def partPacket (s : State) (a : Access) (p : Part) : Packet :=
  { id := 0, kind := .request, lead := false, urg := a.level, va := ((p.elems.head?).map Elem.va).getD a.ea.toNat, src := endpointOf s.self
    dst := partEndpoint s p, mask := oneClass a.cls.val, slack := a.slack, late := false, input := 0, ctx := s.self, acc := a.id
    part := p.line }

/-- Send the parts of one access that may go, for which their port has room, and that are not performed on the spot. -/
def sendParts (s : State) (before : List Access) (a : Access) : State :=
  a.parts.foldl (fun s p =>
    let k := partPacket s a p
    let n := flitsFor (requestBytes a p)
    if mayPerform s before a p && !performsHere s a p && portRoom s k n then injectAll (s.mod (markSent a.id p.line)) k n
    else s) s

/-- Send what may go, over the accesses in issue order. -/
def pumpFrom : List Access → List Access → State → State
  | _, [], s => s
  | before, a :: rest, s => pumpFrom (before ++ [a]) rest (sendParts s before a)

/-- Pair, plan and send: what the memory side of a context does of itself after every change. -/
def settle (s : State) : State :=
  let s := planAll s
  pumpFrom [] s.ctx.accesses s

/-- Issue an access: it takes the next identifier and stands last (R131, R396). -/
def issueAccess (s : State) (a : Access) : State :=
  settle (s.mod (fun c => { c with accesses := c.accesses ++ [{ a with id := c.nextId }], nextId := c.nextId + 1 }))

/-! ## Completing everything at once, for trap entry, saves and stops (R393, R370) -/

/-- Walk the pages an access needs, at most n of them. -/
def walkAll (ident : Nat) : Nat → State → State
  | 0, s => s
  | n + 1, s =>
    match s.ctx.accesses.find? (fun a => a.id == ident) with
    | some a =>
      if a.stage != .walking then s
      else match planAccess s a with
        | .walk va => match walk s s.ctx.info.asid va with
          | .ok _ =>
            walkAll ident n (walkFill (walkLates s ((tlbPlaces s).headD outPlace) a.slack a.level va) (tlbPlaces s) s.ctx.info.asid va)
          | .error c => s.mod (putAccess (a.faultAt c (BitVec.ofNat 64 va)))
        | _ => s.mod (putAccess (planned s a))
    | none => s

/-- A part lies at the peer. -/
def atPeer (s : State) (p : Part) : Bool :=
  match partPlace s p with
  | .peer _ => true
  | _ => false

/-- An access that the peer has still to answer, and of which something is under way or done: the context halts once it is performed
there (R348, R355, R393). -/
def midPeer (s : State) (a : Access) : Bool :=
  a.stage == .planned && a.parts.any (fun p => atPeer s p && !(p.stage == .performed || p.stage == .returned)) &&
    a.parts.any (fun p => p.stage != .waiting || p.left.isSome)

/-- The context in focus may halt: nothing of it is left half done at the peer. -/
def mayHalt (s : State) : Bool := !s.ctx.accesses.any (midPeer s)

/-- A part is performed while its context halts; one that has not gone out yet goes out and comes back meanwhile (R293, R393). -/
def performHalting (s : State) (a : Access) (p : Part) : State :=
  let s' := performLine s true a.id p.line
  if p.stage = .waiting ∧ !performsHere s a p then requestLates s' a.slack a.level 1 ((p.elems.map Elem.va).headD 0) else s'

/-- Perform every part of an access that its predecessors do not hold back; one with a part at the peer is kept whole (R348, R393). -/
def performNow (s : State) (before : List Access) (ident : Nat) : State :=
  match s.ctx.accesses.find? (fun a => a.id == ident) with
  | some a =>
    if a.kind.isCache then
      if before.all (fun b => !holdsBack b a) then (cacheEffect s a).mod (dropAccess ident) else s
    else
      let s := a.parts.foldl (fun s p =>
        if !a.parts.any (atPeer s) && hasRows s.rowBits a && before.all (fun b => !holdsBack b a && !sharesLine s b p) then performHalting s a p else s) s
      match s.ctx.accesses.find? (fun b => b.id == ident) with
      | some b => if b.performed then deliver s b else s
      | none => s
  | none => s

/-- Perform now each access that can be performed, in issue order (R393 step 3). -/
def drainFrom : List Nat → State → State
  | [], s => s
  | i :: is, s =>
    let s := walkAll i 4096 (planAll s)
    let before := (s.ctx.accesses.takeWhile (fun a => a.id != i))
    drainFrom is (performNow s before i)

def drainAccesses (s : State) : State := drainFrom (s.ctx.accesses.map Access.id) s

end Sys2Proof.Machine
end

