-- ==== Sys2Proof/Machine/Enqueue.lean ====
section
/-! DEFINITION. Task records (R65), their banks and overflow rings (R92, R93), the park table (R94, R95), and what enqueues them. -/

namespace Sys2Proof.Machine

/-! ## Task records (R65) -/

/-- A record's reserved fields are zero (R65, R83). -/
def taskClean (bs : List Byte) : Bool :=
  let w (o : Nat) := leNat ((bs.drop o).take 8)
  decide (w 0x30 < 2 ^ 55) && w 0x38 == 0

/-- A record's reserved fields are zero and its KREF is aligned (R65, R364). -/
def taskOk (bs : List Byte) : Bool := leNat (bs.take 8) % 64 == 0 && taskClean bs

/-- The unit of a task record in a launch (R65). -/
def taskInfo (asid : BitVec 16) (slot : Nat) (bs : List Byte) : UnitInfo :=
  let w (o : Nat) := leNat ((bs.drop o).take 8)
  let x (o : Nat) : Word32 := BitVec.ofNat 32 (leNat ((bs.drop o).take 4))
  { UnitInfo.none with
    asid := asid, slot := slot, seq := BitVec.ofNat 64 (w 0x30 % 2 ^ 32), kref := BitVec.ofNat 64 (w 0), arg := BitVec.ofNat 64 (w 8)
    coords := [x 0x10, x 0x14, x 0x18, x 0x1C], place := BitVec.ofNat 64 (w 0x20), nopl := bitOf (w 0x30) 54, spawned := true }

/-- A record that waits for a core. -/
def freshTask (u : UnitInfo) : TaskRec := { info := u, dep := 0, future := 0, parkedOn := none, checked := none }

/-- The 64 bytes of a record. -/
def taskBytes (r : TaskRec) : List Byte :=
  leBytes 8 r.info.kref.toNat ++ leBytes 8 r.info.arg.toNat ++ (r.info.coords.take 4).flatMap (fun x => leBytes 4 x.toNat) ++
  leBytes 8 r.info.place.toNat ++ leBytes 8 r.future.toNat ++
  leBytes 8 (r.info.seq.toNat % 2 ^ 32 + r.dep % 2 ^ 16 * 2 ^ 32 + r.info.slot % 64 * 2 ^ 48 + (if r.info.nopl then 2 ^ 54 else 0)) ++
  leBytes 8 0

def slotNumbered (s : State) (n : Nat) : Option LaunchSlot := s.slots.find? (fun l => l.slot == n)

def modSlot (s : State) (n : Nat) (f : LaunchSlot → LaunchSlot) : State :=
  { s with slots := s.slots.map (fun l => if l.slot = n then f l else l) }

/-- The launch's completion counter rises by one unit (R83, R364). -/
def raiseCount (s : State) (slot : Nat) : State := modSlot s slot (fun l => { l with count := l.count + 1 })

/-- A unit that never ran fails before any of its instructions: a UNITFAIL record, and a bad unit of its launch (R66, R421). -/
def failBeforeStart (s : State) (u : UnitInfo) (code : Nat) : State :=
  let s := hostEvent s 0x0A code u.asid (u.seq.toNat % 2 ^ 32) u.kref.toNat
  modSlot s u.slot (fun l => { l with nbad := l.nbad + 1, failed := true, count := l.count - 1 })

/-! ## Banks and overflow rings (R92, R93) -/

def bankCap : Nat := 128

def bankOf (s : State) (b : Nat) : List TaskRec := ((s.queues.banks.find? (fun p => p.1 == b)).map Prod.snd).getD []

def setBank (s : State) (b : Nat) (l : List TaskRec) : State :=
  { s with queues := { s.queues with banks :=
      if l = [] then s.queues.banks.filter (fun p => p.1 != b) else upsert Prod.fst (b, l) s.queues.banks } }

/-- Records taken from and put into a bank's overflow ring. -/
def ovfOf (s : State) (b : Nat) : Nat × Nat := ((s.queues.overflow.find? (fun p => p.1 == b)).map Prod.snd).getD (0, 0)

def setOvf (s : State) (b : Nat) (p : Nat × Nat) : State :=
  { s with queues := { s.queues with overflow := upsert Prod.fst (b, p) s.queues.overflow } }

/-- Place of overflow record k of a bank (R437). -/
def ovfPlace (s : State) (b k : Nat) : Nat := s.hk.ovfbase + 2 ^ 20 * (b / 4) + 2 ^ 18 * (b % 4) + 64 * (k % 4096)

/-- Put a record at an overflow ring's tail. -/
def spillOne (b : Nat) (s : State) (r : TaskRec) : State :=
  let (h, t) := ovfOf s b
  let s := setOvf (storeBytes s (ovfPlace s b t) (taskBytes r)) b (h, t + 1)
  { s with queues := { s.queues with overflowOn := s.queues.overflowOn ++ (r.parkedOn.map (fun c => (b, t, c))).toList } }

def spill (b : Nat) (s : State) (rs : List TaskRec) : State := rs.foldl (spillOne b) s

/-- The bank's overflow ring has no room for what an arriving record would put there (R93). -/
def bankFull (s : State) (b : Nat) : Bool :=
  let (h, t) := ovfOf s b
  let n := if h < t then 1 else if (bankOf s b).length < bankCap then 0 else 32
  decide (4096 < t - h + n)

/-- A record arrives at a bank (R93). DESIGN CHOICE (unsafe; assumption 99): a released or woken record that finds the ring full is
written over the oldest, since the spec lets only a TSPAWN wait for space. -/
def arriveBank (s : State) (b : Nat) (r : TaskRec) : State :=
  let (h, t) := ovfOf s b
  let l := bankOf s b
  if h < t then spill b s [r]
  else if l.length < bankCap then setBank s b (l ++ [r])
  else spill b (setBank s b (l.take (bankCap - 31))) (l.drop (bankCap - 31) ++ [r])

/-- Free entries of a cluster's four banks. -/
def bankFree (s : State) (c : Nat) : Nat :=
  ((List.range 4).map (fun i => bankCap - (bankOf s (4 * c + i)).length)).sum

/-- The group of a placement address: the strip of its line's home slice (R89). -/
def placeGroup (s : State) (asid : BitVec 16) (va : Nat) : Option Nat :=
  match resolveOut s asid va with
  | .ok a => if inAperture va then none else some (sliceOf (physOf a va) / 16)
  | .error _ => none

/-- The cluster of a group with the most free bank entries, the lowest on a tie (R92). -/
def roomiest (s : State) (g : Nat) : Nat :=
  (List.range 8).foldl (fun best i => if bankFree s best < bankFree s (8 * g + i) then 8 * g + i else best) (8 * g)

/-- Every resident unit with its context number. -/
def allContexts (s : State) : List (Nat × Context) := upsert Prod.fst (s.self, s.ctx) s.others

/-- The cluster of a launch's lowest-numbered resident unit, or cluster 0 (R92). -/
def launchCluster (s : State) (slot : Nat) : Nat :=
  let us := (allContexts s).filter (fun p => decide (p.1 < 128) && p.2.resident && p.2.info.slot == slot)
  ((us.foldl (fun (m : Option (Nat × Context)) p => match m with
    | none => some p
    | some q => if p.2.info.seq.toNat < q.2.info.seq.toNat then some p else some q) none).map (fun p => clusterOf p.1)).getD 0

/-- The bank a record goes to: `home` is the cluster for a record without placement (R92). -/
def bankFor (s : State) (r : TaskRec) (home : Nat) : Nat :=
  let c := if r.info.nopl then home
    else match placeGroup s r.info.asid r.info.place.toNat with
      | some g => roomiest s g
      | none => home
  4 * c + r.info.slot % 4

/-- Enqueue a record (R92). -/
def enqueueTask (s : State) (r : TaskRec) (home : Nat) : State :=
  arriveBank (if r.info.nopl then s else reach s [] r.info.asid r.info.place.toNat) (bankFor s r home) r

/-! ## Parking (R94, R95) -/

/-- Records that the park table and the park overflow list hold (R94, R437). -/
def parkTable : Nat := 1024

def parkSpace (s : State) : Nat := 2 ^ (s.hk.parklog + 6)

/-- Place of a record of the park overflow list. -/
def parkPlace (s : State) (k : Nat) : Nat := s.hk.parkbase + 64 * k

/-- The record at a used place of the list: what its 64 bytes say (R65). -/
def listedTask (s : State) (p : Nat × Nat) : TaskRec :=
  let bs := readBytes s.mem (parkPlace s p.1) 64
  let slot := bitsOf (readLE s.mem (parkPlace s p.1 + 0x30) 8) 53 48
  { freshTask (taskInfo ((slotNumbered s slot).elim 0 LaunchSlot.asid) slot bs) with
    dep := bitsOf (readLE s.mem (parkPlace s p.1 + 0x30) 8) 47 32, future := BitVec.ofNat 64 (readLE s.mem (parkPlace s p.1 + 0x28) 8)
    parkedOn := some p.2 }

/-- Every parked record. -/
def allParked (s : State) : List TaskRec := s.queues.park ++ s.queues.parkList.map (listedTask s)

/-- The lowest free place of the list. -/
def parkHole (s : State) : Nat :=
  ((List.range (s.queues.parkList.length + 1)).find? (fun k => !s.queues.parkList.any (fun p => p.1 == k))).getD 0

/-- Neither the table nor the list has room for another record. -/
def parkFull (s : State) : Bool := decide (parkTable ≤ s.queues.park.length) && decide (parkSpace s ≤ s.queues.parkList.length)

/-- A record goes into the park table, or into the list in memory while the table is full (R94). -/
def parkRecord (s : State) (r : TaskRec) : State :=
  if s.queues.park.length < parkTable then { s with queues := { s.queues with park := s.queues.park ++ [r] } }
  else
    let k := parkHole s
    let s := storeBytes s (parkPlace s k) (taskBytes r)
    { s with queues := { s.queues with parkList := s.queues.parkList ++ [(k, r.parkedOn.getD 0)] } }

/-- Only the parked records that p selects stay. -/
def keepParked (s : State) (p : TaskRec → Bool) : State :=
  { s with queues := { s.queues with park := s.queues.park.filter p, parkList := s.queues.parkList.filter (fun x => p (listedTask s x)) } }

/-- The record of the unit in focus, parked on a future. -/
def parkUnit (s : State) (va : Nat) : State :=
  parkRecord s { freshTask s.ctx.info with dep := 1, future := BitVec.ofNat 64 va, parkedOn := some s.self }

/-- The cores on which the parked and woken units of a launch were squashed (R90). -/
def squashedOn (s : State) (slot : Nat) : List Nat :=
  ((allParked s ++ s.queues.banks.flatMap Prod.snd).filter (fun r => r.info.slot == slot)).filterMap TaskRec.parkedOn ++
  (s.queues.overflowOn.filter (fun o => bitsOf (readLE s.mem (ovfPlace s o.1 o.2.1 + 0x30) 8) 53 48 == slot)).map (fun o => o.2.2)

end Sys2Proof.Machine
end

