-- ==== Sys2Proof/Machine/Levels.lean ====
section
/-! DEFINITION. Launches and the levels above them (R48 to R55, R442): packets and headers as they are read and checked,
completion words, what a launch's retirement does to its successors, its graph and its phase, and what becomes of records that come
back to the banks. -/

namespace Sys2Proof.Machine

/-! ## Packets, headers and trailers (R50, R51, R59, R63) -/

/-- Bytes o to o + n of a block as a number. -/
def fieldOf (bs : List Byte) (o n : Nat) : Nat := leNat ((bs.drop o).take n)

def word64 (bs : List Byte) (o : Nat) : Word := BitVec.ofNat 64 (fieldOf bs o 8)

/-- A launch packet from its 128 bytes. -/
def packetOf (bs : List Byte) : LaunchPacket :=
  let phasew := fieldOf bs 0x58 8
  let graphw := fieldOf bs 0x70 8
  let ctl := fieldOf bs 0x18 8
  { kref := word64 bs 0, arg := word64 bs 8, deadline := word64 bs 0x10, ctl := word64 bs 0x18
    ext := (List.range 4).map (fun i => fieldOf bs (0x20 + 4 * i) 4), pbase := word64 bs 0x30
    pstr := (List.range 4).map (fun i => word64 bs (0x38 + 8 * i)), phase := phasew % 2 ^ 32, npred := bitsOf phasew 39 32
    succ := (List.range 4).map (fun i => fieldOf bs (0x60 + 2 * i) 2), done := word64 bs 0x68, graph := graphw % 2 ^ 32
    reserved := phasew / 2 ^ 40 != 0 || graphw / 2 ^ 32 != 0 || fieldOf bs 0x78 8 != 0 || bitsOf ctl 63 48 != 0 ||
      bitsOf ctl 31 16 != 0 || bitsOf ctl 7 6 != 0 || bitOf ctl 2 }

namespace LaunchPacket

def afw (p : LaunchPacket) : Nat := bitsOf p.ctl.toNat 47 32
def nd (p : LaunchPacket) : Nat := bitsOf p.ctl.toNat 5 4
def order (p : LaunchPacket) (j : Nat) : Nat := bitsOf p.ctl.toNat (9 + 2 * j) (8 + 2 * j)
def nopl (p : LaunchPacket) : Bool := bitOf p.ctl.toNat 3
def pre (p : LaunchPacket) : Bool := bitOf p.ctl.toNat 1
def lateAction (p : LaunchPacket) : Bool := bitOf p.ctl.toNat 0
def extent (p : LaunchPacket) (d : Nat) : Nat := p.ext.getD d 0

/-- Units of the launch: the product of its extents. -/
def units (p : LaunchPacket) : Nat := (List.range (p.nd + 1)).foldl (fun n d => n * p.extent d) 1

end LaunchPacket

/-- Coordinate d of the unit at a sequence number (R56). -/
def coordOf (p : LaunchPacket) (seq d : Nat) : Nat :=
  ((List.range (p.nd + 1)).foldl (fun (st : Nat × Nat) j =>
    let e := Nat.max 1 (p.extent (p.order j))
    (st.1 / e, if p.order j = d then st.1 % e else st.2)) (seq, 0)).2

/-- The placement address of a unit (R58). -/
def placementOf (p : LaunchPacket) (seq : Nat) : Word :=
  (List.range 4).foldl (fun a d => a + BitVec.ofNat 64 (coordOf p seq d) * p.pstr.getD d 0) p.pbase

/-- A kernel header from its 64 bytes (R59). -/
def headerOf (bs : List Byte) : KernelHeader :=
  let w0 := fieldOf bs 0 4
  let w8 := fieldOf bs 8 4
  let wc := fieldOf bs 0xC 4
  let slk := (List.range 8).map (fun i => fieldOf bs (0x10 + 2 * i) 2)
  { kind := bitOf w0 6
    rm := match bitsOf w0 5 4 with | 0 => .rne | 1 => .rtz | 2 => .rup | _ => .rdn
    ftz := bitOf w0 3, w16 := bitOf w0 2, fut := bitOf w0 1, nm := bitOf w0 0, codelen := fieldOf bs 4 4
    nbar := bitsOf w8 16 13, win := bitsOf w8 12 8, nflag := bitsOf w8 7 0, slktrap := BitVec.ofNat 8 wc, slk := slk.map (· % 2 ^ 12)
    reserved := w0 / 2 ^ 7 != 0 || w8 / 2 ^ 17 != 0 || wc / 2 ^ 8 != 0 || slk.any (fun x => decide (2 ^ 12 ≤ x)) ||
      ((bs.drop 0x20).take 32).any (· != 0) }

/-- A trailer from its word (R63). -/
def trailerOf (w : Nat) : Trailer :=
  ⟨bitOf w 4, bitOf w 3, bitOf w 2, bitOf w 1, bitOf w 0, w / 2 ^ 5 != 0⟩

/-- The kernel header at an address; none when a byte does not translate (R55). -/
def readHeader (s : State) (asid : BitVec 16) (kref : Nat) : Option KernelHeader := (readIn s asid kref 64).map headerOf

/-- The trailer of a kernel, which one of a broken CODELEN has not (R62). -/
def readTrailer (s : State) (asid : BitVec 16) (kref : Nat) (h : KernelHeader) : Option Trailer :=
  if h.codelen = 0 ∨ 2 ^ 20 < h.codelen then some Trailer.zero
  else (readIn s asid (kref + 64 + 4 * h.codelen) 4).map (fun t => trailerOf (leNat t))

/-- The kernel header and trailer at an address, as the part copies them (R55). -/
def readKernel (s : State) (asid : BitVec 16) (kref : Nat) : Option (KernelHeader × Trailer) :=
  (readHeader s asid kref).bind (fun h => (readTrailer s asid kref h).map (fun t => (h, t)))

/-- Largest WIN a core offers: its window part is set by STASHCFG (R219). -/
def widestWindow (s : State) : Nat :=
  (List.range 128).foldl (fun m c => Nat.max m (s.coreState c).wink) 0

/-- The refusal codes of R55 that a header and trailer earn on a control core. -/
def headerCodes (s : State) (asid : BitVec 16) (h : KernelHeader) (t : Trailer) : List Nat :=
  let size := match s.jobOf asid with
    | some j => j.slotsz
    | none => 0
  (if h.reserved || h.kind then [1] else []) ++ (if h.codelen = 0 ∨ 2 ^ 20 < h.codelen then [2] else []) ++
  (if decide (64 < h.nflag) || decide (8 < h.nbar) || decide (widestWindow s < h.win) || decide (size < 3 + h.win)
    then [3] else []) ++
  (if t.reserved then [9] else [])

/-- The refusal codes that the kernel at an address earns, by one party's checks of header and trailer; 0x0A where either does not translate
(R55). -/
def kernelCodes (s : State) (asid : BitVec 16) (kref : Nat) (codes : KernelHeader → Trailer → List Nat) : List Nat :=
  match readHeader s asid kref with
  | none => [0x0A]
  | some h => match readTrailer s asid kref h with
    | some t => codes h t
    | none => codes h Trailer.zero ++ [0x0A]

def lowest (l : List Nat) : Option Nat := l.foldl (fun m x => match m with
  | none => some x
  | some y => some (Nat.min x y)) none

/-! ## Completion words (R54) -/

/-- Write a completion word; nothing is written for DONE = 0, or where the word does not translate. -/
def writeDone (s : State) (asid : BitVec 16) (done : Nat) (status code nbad : Nat) : State :=
  if done = 0 ∨ done % 8 ≠ 0 then s
  else (storeIn s asid done (leBytes 8 (status + code * 2 ^ 8 + Nat.min (2 ^ 32 - 1) nbad * 2 ^ 16))).getD s

/-! ## Graphs, phases and jobs (R48, R442) -/

def findLevel (l : List LevelCount) (n : Nat) : Option LevelCount := l.find? (fun x => x.ident == n)

/-- The order of statuses in a GRAPH or PHASE record. -/
def worse (a b : Nat) : Nat := Nat.max a b

/-- A packet with this graph identifier waits in a batch of the job whose admission has begun (R442). -/
def graphWaits (s : State) (asid : BitVec 16) (g : Nat) : Bool :=
  s.rings.any (fun r => r.enabled && BitVec.ofNat 16 (bitsOf r.cfg.toNat 47 32) == asid && r.batchEnd != r.head &&
    (List.range (r.batchEnd - r.head).toNat).any (fun i =>
      let idx := r.head.toNat + i
      match readIn s asid (r.base.toNat + 128 * (idx % 2 ^ (r.cfg.toNat % 16))) 128 with
      | some bs => (packetOf bs).graph == g
      | none => false))

/-- A graph whose counter is zero and of which no packet waits retires (R442). -/
def retireGraph (s : State) (asid : BitVec 16) (g : Nat) : State :=
  match s.jobOf asid with
  | none => s
  | some j => match findLevel j.graphs g with
    | none => s
    | some l =>
      if l.live = 0 && !graphWaits s asid g then
        let s := s.setJob { j with graphs := j.graphs.filter (fun x => x.ident != g) }
        if l.launches = 0 then s else hostEvent s 0x02 l.status asid g l.launches
      else s

/-- A sealed phase with zero count retires (R48). -/
def retirePhase (s : State) (asid : BitVec 16) (p : Nat) : State :=
  match s.jobOf asid with
  | none => s
  | some j => match findLevel j.phases p with
    | none => s
    | some l =>
      if l.live = 0 && l.isSealed then
        let s := s.setJob { j with phases := j.phases.filter (fun x => x.ident != p) }
        if l.launches = 0 then s else hostEvent s 0x03 l.status asid p l.launches
      else s

/-- A launch enters a level's count; a phase below one admitted before is sealed already (R48). -/
def countIn (l : List LevelCount) (n : Nat) (isSealed : Bool) : List LevelCount :=
  match findLevel l n with
  | some x => upsert LevelCount.ident { x with live := x.live + 1, launches := x.launches + 1, isSealed := x.isSealed || isSealed } l
  | none => upsert LevelCount.ident ⟨n, 1, 1, 0, isSealed, false⟩ l

def countOut (l : List LevelCount) (n status : Nat) : List LevelCount :=
  l.map (fun x => if x.ident = n then { x with live := x.live - 1, status := worse x.status status } else x)

/-- Seal the phases below n and retire those that are empty. -/
def sealPhases (s : State) (asid : BitVec 16) (below : Nat → Bool) : State :=
  match s.jobOf asid with
  | none => s
  | some j =>
    let s := s.setJob { j with phases := j.phases.map (fun x => if below x.ident then { x with isSealed := true } else x) }
    (j.phases.filter (fun x => below x.ident)).foldl (fun s x => retirePhase s asid x.ident) s

/-! ## A launch's retirement (R48, R53, R54, R419) -/

/-- STATUS of a launch that retires now (R54). DESIGN CHOICE (unsafe; assumption 98): the spec ranks 3 above 1 and 2 only; of a launch that
is late and has cancelled units the word reads 2. -/
def launchStatus (s : State) (l : LaunchSlot) : Nat :=
  if l.failed then 3 else if l.cancelled then 2 else if l.late || decide (l.pkt.deadline.toNat ≤ s.ctc) then 1 else 0

/-- An access that its context waits for no more: performed accesses have left, and what is dropped or faults with nowhere to take it is over
(assumption 102). -/
def Access.over (a : Access) : Bool :=
  match a.stage with
  | .dropped | .declined .. => true
  | .faulted c _ => !(c == .page || c == .perm)
  | _ => false

/-- Units of a launch have retired while accesses of theirs are still to be performed (R63, R419). -/
def accessesOwed (s : State) (slot : Nat) : Bool :=
  (allContexts s).any (fun p => (p.2.counted || (decide (nobody < p.1) && p.2.run == .idle)) && p.2.info.slot == slot && !p.2.info.header.kind &&
    !p.2.accesses.all Access.over)

/-- STATUS of a Gusset context's completion word (R302). -/
def contextStatus (f : Fate) : Nat :=
  match f with
  | .failed _ => 3
  | .cancelled => 2
  | _ => 0

/-- Barrier slots of a launch leave the clusters where none of its units is resident or parked, a squashed unit counting until it is dispatched
again (R90). -/
def freeBarriers (s : State) (slot : Nat) : State :=
  let kept (c : Nat) := (allContexts s).any (fun p => decide (p.1 < 128) && clusterOf p.1 == c && p.2.run != .idle && !p.2.counted && p.2.info.slot == slot) ||
    (squashedOn s slot).any (fun n => clusterOf n == c)
  { s with arrays := s.arrays.map (fun a => if kept a.idx then a else { a with barriers := a.barriers.filter (fun b => b.1 != slot) }) }

/-- The launch in a slot retires when its counter is zero and every access of its units is performed (R419): its word is written, its successors' pending counts fall, then its graph
and its phase are counted. -/
def retireLaunch (s : State) (slot : Nat) : State :=
  match slotNumbered s slot with
  | none => s
  | some l =>
    if l.count != 0 || decide (l.walked < l.total) || accessesOwed s slot then s
    else
      let st := launchStatus s l
      let s := freeBarriers s slot
      let s := writeDone s l.asid l.pkt.done.toNat st 0 l.nbad
      let s := { s with slots := (s.slots.filter (fun (x : LaunchSlot) => x.slot != slot)).map (fun (x : LaunchSlot) =>
        if x.preds.contains l.admitted then { x with pending := x.pending - 1 } else x) }
      match s.jobOf l.asid with
      | none => s
      | some j =>
        let s := s.setJob { j with graphs := if l.pkt.graph = 0 then j.graphs else countOut j.graphs l.pkt.graph st
                                   phases := countOut j.phases l.pkt.phase st }
        retirePhase (if l.pkt.graph = 0 then s else retireGraph s l.asid l.pkt.graph) l.asid l.pkt.phase

/-- Retire every launch whose counter has come to zero. -/
def retireLaunches (s : State) : State := (s.slots.map LaunchSlot.slot).foldl retireLaunch s

/-! ## Records that come back to the banks (R66, R83, R93, R95, R98) -/

/-- n units of a launch count as cancelled. -/
def cancelUnits (s : State) (slot n : Nat) : State :=
  if n = 0 then s
  else modSlot s slot (fun l => { l with nbad := l.nbad + n, cancelled := true, count := l.count - n })

/-- A spawned, released or returned record joins its bank; in a launch that takes no more units it counts as cancelled (R83, R93, R98). -/
def offerTask (s : State) (r : TaskRec) (home : Nat) : State :=
  if (slotNumbered s r.info.slot).any LaunchSlot.stopped then retireLaunch (cancelUnits s r.info.slot 1) r.info.slot
  else enqueueTask s r home

/-- A parked record whose last dependence has come goes back to a bank; one read back from memory with a reserved field not zero fails its unit,
and one of a cancelled launch counts as cancelled (R3, R66, R95, R98). -/
def wakeOne (s : State) (r : TaskRec × Bool) : State :=
  match slotNumbered s r.1.info.slot with
  | none => s
  | some l =>
    if !r.2 then retireLaunch (freeBarriers (failBeforeStart s r.1.info 8) l.slot) l.slot
    else if l.dropped then retireLaunch (freeBarriers (cancelUnits s l.slot 1) l.slot) l.slot
    else enqueueTask s r.1 (launchCluster s l.slot)

/-- Parked records, each with whether its reserved fields are zero as it is read back. -/
def parkedClean (s : State) : List (TaskRec × Bool) :=
  s.queues.park.map (fun r => (r, true)) ++
    s.queues.parkList.map (fun p => (listedTask s p, taskClean (readBytes s.mem (parkPlace s p.1) 64)))

/-- Records of a space parked on a future are woken: DEP falls by one, and at zero the record is enqueued again (R95, R368). -/
def wakeParked (s : State) (asid : BitVec 16) (va : Nat) : State :=
  let hit (r : TaskRec) := r.info.asid == asid && r.future.toNat == va
  let woken := ((parkedClean s).filter (fun r => hit r.1)).map (fun r => ({ r.1 with dep := r.1.dep - 1, future := 0 }, r.2))
  let lists := (s.queues.parkList.filter (fun p => hit (listedTask s p))).map (fun p => parkPlace s p.1)
  let s := lists.foldl (fun s pa => readHomes s pa 64) (keepParked s (fun r => !hit r))
  let goes (r : TaskRec × Bool) : Bool := r.1.dep == 0 || !r.2
  (woken.filter goes).foldl wakeOne ((woken.filter (fun r => !goes r)).foldl (fun s r => parkRecord s r.1) s)

end Sys2Proof.Machine
end

