-- ==== Sys2Proof/Machine/Ops.lean ====
section
/-! DEFINITION. The shared operations of the exception system (R387 to R406): engine operations' completion and failure, the
trap frame (R394 to R397), taking a trap (R393), returning from it (R398), failing a unit (R401), unwinding a mitten region
(R406), stopping a cancelled unit (R370), and the common issue of control instructions (R131). -/

namespace Sys2Proof.Machine

/-! ## Engine operations (R275, R280, R357) -/

/-- KIND of an operation's completion record (R280, R341, R402). MZERO has none of its own (assumption 9). -/
def OpKind.code : OpKind → Nat
  | .mma | .mmaSp | .mkat | .mzero | .unlease | .lease => 1
  | .mout | .moutRq => 2
  | .copy => 3 | .copys => 4 | .copyDec => 5 | .fill => 6 | .copyPeer => 7 | .wrq => 8 | .dtab => 9
  | .commit => 18 | .mirror => 22 | .tspawn => 3 | .frame => 0

/-- Commands of the matrix queue (R188). -/
def OpKind.isMatrix : OpKind → Bool
  | .mma | .mmaSp | .mkat | .mzero | .mout | .moutRq => true
  | _ => false

/-- Lease commands (R187). -/
def OpKind.isLease : OpKind → Bool
  | .mma | .mmaSp | .mkat => true
  | _ => false

/-- The copy family (R267), TSPAWN included (R360). -/
def OpKind.isCopy : OpKind → Bool
  | .copy | .copys | .copyDec | .fill | .copyPeer | .wrq | .dtab | .tspawn | .mirror => true
  | _ => false

/-- Operations that name a flag. -/
def OpKind.hasFlag : OpKind → Bool
  | .mzero | .unlease | .lease | .tspawn | .frame => false
  | _ => true

def putOp (o : EngineOp) (c : Context) : Context :=
  { c with ops := c.ops.map (fun x => if x.id = o.id then o else x) }

def dropOp (ident : Nat) (c : Context) : Context := { c with ops := c.ops.filter (fun x => x.id != ident) }

/-- An operation that is queued, not started, with nothing captured but its address. -/
def plainOp (s : State) (kind : OpKind) (a : Word) : EngineOp :=
  { id := s.ctx.nextId, kind := kind, iaddr := s.ctx.pcc, flag := 0, a := a, b := 0, c := 0, shape := ⟨0, 0, 0, 0⟩, wide16 := s.ctx.w16
    cls := 0, issueTime := 0, stage := .queued, progress := 0
    order := ⟨s.ctx.stretchC, s.ctx.pcc, timesIn s.ctx.pcc.toNat s.ctx.logC + 1⟩, sinceOpen := s.ctx.region.isOpen, slackTab := s.ctx.slacktab[0].toNat + 2 ^ 64 * s.ctx.slacktab[1].toNat
    task := [], pages := [], seq := s.moves, held := false, reads := [], got := [], nextRead := 0, write := none
    bitPos := 0, level := 0 }

/-- Put an operation directly behind the last UNLEASE of a queue and the LEASEs that stand there already (R205). -/
def behindUnlease (o : EngineOp) : List EngineOp → List EngineOp
  | [] => [o]
  | x :: xs =>
    if xs.any (fun y => y.kind == .unlease) || x.kind != .unlease then x :: behindUnlease o xs
    else x :: (xs.takeWhile (fun y => y.kind == .lease) ++ o :: xs.dropWhile (fun y => y.kind == .lease))

/-- Put an operation on its queue. -/
def addOp (o : EngineOp) (c : Context) : Context := { c with ops := c.ops ++ [o], nextId := c.nextId + 1 }

/-- An operation completes: it leaves and its flag counts (R357). -/
def completeOp (s : State) (o : EngineOp) : State :=
  let s := s.mod (dropOp o.id)
  if o.kind.hasFlag then countFlag s o.flag 1 else s

/-- An operation fails: its record is written, then its flag counts (R275, R280). -/
def failOp (s : State) (o : EngineOp) (status code bytes addr : Nat) : State :=
  if o.kind = .unlease ∨ o.kind = .lease then s.mod (dropOp o.id)
  else completeOp (writeRecord s status o.kind.code (if o.kind.hasFlag then o.flag.val else 0xFF) code bytes addr) o

/-- An operation fails though no address faulted: its record's ADDR is left open (R280). -/
def failUnnamed (s : State) (o : EngineOp) (status code bytes : Nat) : State :=
  failOp s.drawn o status code bytes (Config.freeWord s.draws).toNat

/-- A launch's unit that never ran counts as cancelled (R54, R364). -/
def countCancelled (s : State) (slot : Nat) : State :=
  { s with slots := s.slots.map (fun l => if l.slot = slot then { l with nbad := l.nbad + 1, cancelled := true, count := l.count - 1 } else l) }

/-- Bytes of a row of what a copy or a commit moves. -/
def EngineOp.rowSize (o : EngineOp) : Nat := o.shape.cols * o.shape.etype.bytes

/-- A started copy in the middle of a row, a MOUT or commit with a write under way, or a lease command in the middle of a pass (R370). -/
def EngineOp.midway (o : EngineOp) : Bool :=
  match o.kind with
  | .copy | .copys | .copyDec | .fill | .copyPeer | .commit => o.write.isSome || o.progress % o.rowSize != 0
  | .mout => o.write.isSome
  | .mma | .mmaSp | .mkat => o.stage == .started
  | _ => false

/-- A context whose operations have changed: MIR reads 1 while a mirror is in flight (R413). -/
def clearMir (c : Context) : Context := { c with region := { c.region with mir := c.ops.any (fun o => o.kind == .mirror) } }

/-- An operation is stopped with a status and code (R370, R401, R406): a spawn not yet enqueued counts as a cancelled unit, what is in the
middle of a row or pass goes on to its end, and a WRQ or mirror that has left for the peer until the peer has answered (R357). -/
def stopOp (status code : Nat) (s : State) (o : EngineOp) : State :=
  match o.kind with
  | .tspawn => countCancelled (s.mod (dropOp o.id)) s.ctx.info.slot
  | .unlease | .lease | .frame => s.mod (dropOp o.id)
  | .mirror => if o.stage = .atPeer then s else (failOp s o status code 0 (4096 * o.pages.headD 0)).mod clearMir
  | _ => if o.stage = .atPeer then s else if o.midway then s.mod (putOp { o with stage := .failing status code }) else failUnnamed s o status code o.progress

/-- An operation that is stopped but still finishes its row or pass. -/
def EngineOp.isFailing (o : EngineOp) : Bool :=
  match o.stage with
  | .failing .. => true
  | _ => false

/-- Stop every operation that p selects. -/
def stopOps (p : EngineOp → Bool) (status code : Nat) (s : State) : State :=
  (s.ctx.ops.filter p).foldl (stopOp status code) s

/-- A lease command that runs. -/
def startedLease (o : EngineOp) : Bool := o.kind.isLease && (o.stage == .started || o.isFailing)

/-- The term and the request of the core in focus end (R206). -/
def dropLease (s : State) : State :=
  if s.self < 128 then
    let a := s.arrayAt (clusterOf s.self)
    s.setArray { a with
      reqs := a.reqs.filter (fun r => r.core != s.self % 4)
      lastHolder := match a.term with
        | some t => if t.core = s.self % 4 then t.core else a.lastHolder
        | none => a.lastHolder
      term := match a.term with
        | some t => if t.core = s.self % 4 then none else some t
        | none => none }
  else s

/-- A cluster's running term or request of a core ends with its commands; while a stopped one still runs to the end of its pass, the term stays
(R187, R206, R370). -/
def releaseLease (s : State) : State :=
  if decide (s.self < 128) && s.ctx.ops.any startedLease then
    let a := s.arrayAt (clusterOf s.self)
    s.setArray { a with reqs := a.reqs.filter (fun r => r.core != s.self % 4) }
  else dropLease s

/-! ## The gauntlet (R191 to R195, R205, R206) -/

/-- An operation stands in the order of lease commands. -/
def OpKind.inLeaseOrder (k : OpKind) : Bool := k.isLease || k == .lease || k == .unlease

/-- The oldest of the lease commands, queued LEASEs and UNLEASEs of the context in focus. -/
def leaseHead (c : Context) : Option EngineOp := c.ops.find? (fun o => o.kind.inLeaseOrder)

/-- The array of the core in focus, when its term is running. -/
def ownTerm (s : State) : Option Term := (s.arrayAt (clusterOf s.self)).term.filter (fun t => t.core == s.self % 4)

def ownRequest (s : State) : Option LeaseReq := (s.arrayAt (clusterOf s.self)).reqs.find? (fun r => r.core == s.self % 4)

/-- A request enters, or starts again; one that starts at slack 0 is late (R191, R293). -/
def enterRequest (s : State) (u : Fin 8) (implicit : Bool) : State :=
  let a := s.arrayAt (clusterOf s.self)
  let k := slackEntry s.ctx u.val
  let s := s.setArray { a with reqs := a.reqs.filter (fun r => r.core != s.self % 4) ++ [⟨s.self % 4, u, k, implicit, k == 0⟩] }
  if k = 0 then countLate s u.val 0 else s

/-- LEASE acts (R205). -/
def leaseAct (s : State) (u : Fin 8) : State :=
  let a := s.arrayAt (clusterOf s.self)
  let s := s.mod (fun c => { c with leaseLevel := some u })
  match ownTerm s with
  | some t => s.setArray { a with term := some { t with level := u } }
  | none => enterRequest s u false

/-- UNLEASE acts: the term ends or the request is withdrawn (R206). -/
def unleaseAct (s : State) : State := (releaseLease s).mod (fun c => { c with leaseLevel := none })

/-- A command stands at the head of its core's queue: every earlier one has started (R188, R194). -/
def atQueueHead (c : Context) (o : EngineOp) : Bool :=
  (c.ops.takeWhile (fun x => x.id != o.id)).all (fun x => !x.kind.isMatrix || x.stage != .queued || x.progress != 0)

/-- The context's queue is served: it runs, or its unit has retired and its commands still hold the core (R195, R215). -/
def queueServed (s : State) : Bool := s.ctx.run == .running || s.ctx.run == .debugHalted || s.ctx.counted

/-- What acts of itself at the head of a core's lease order: an UNLEASE, a LEASE behind one, and a lease command with neither a
term nor a request, which asks again under its lease or, once at the head of its queue, for an implicit one (R193, R194, R205, R206). -/
def settleLeaseFrom : Nat → State → State
  | 0, s => s
  | n + 1, s =>
    match leaseHead s.ctx with
    | none => s
    | some o => match o.kind with
      | .unlease => settleLeaseFrom n (unleaseAct (s.mod (dropOp o.id)))
      | .lease => settleLeaseFrom n (leaseAct (s.mod (dropOp o.id)) (Fin.ofNat 8 o.a.toNat))
      | _ =>
        if (ownTerm s).isNone && (ownRequest s).isNone && queueServed s then
          (match s.ctx.leaseLevel with
            | some u => enterRequest s u false
            | none => if atQueueHead s.ctx o then enterRequest s 0 true else s)
        else s

def settleLease (s : State) : State := if s.self < 128 then settleLeaseFrom (s.ctx.ops.length + 1) s else s

/-- A stopped command whose pass in progress is abandoned fails with what it has written (R199, R370). -/
def abandonPass (s : State) (o : EngineOp) : State :=
  match o.stage with
  | .failing st code => if o.kind.isLease then failUnnamed s o st code o.progress else s
  | _ => s

/-- The term of the core in focus ends: a pass in progress is abandoned, and what is queued asks again (R193, R199). -/
def endTerm (s : State) : State :=
  let a := s.arrayAt (clusterOf s.self)
  let s := s.setArray { a with term := none, lastHolder := s.self % 4 }
  let s := s.ctx.ops.foldl abandonPass s
  settleLease (s.mod (fun c => { c with
    ops := c.ops.map (fun o => if o.kind.isLease && o.stage == .started then { o with stage := .queued, reads := [], got := [] } else o)
    leaseLevel := if c.ops.any (fun o => o.kind.isLease) then c.leaseLevel else none }))

/-- A lease command of the context in focus has completed, failed or been suspended: a suspension, the 16th command of a term and the
one command of an implicit term end it (R193, R194, R198). -/
def afterLease (s : State) (suspended : Bool) : State :=
  if s.self < 128 then
    match ownTerm s with
    | some t =>
      if suspended || ((decide (16 ≤ t.started) || (t.implicit && decide (1 ≤ t.started))) && !s.ctx.ops.any startedLease) then endTerm s
      else settleLease s
    | none => settleLease s
  else s

/-! ## Faults of accesses -/

/-- The fault an access stands on. -/
def Access.fault? (a : Access) : Option (Cause × Word) :=
  match a.stage with
  | .faulted c va | .offered c va _ | .declined c va => some (c, va)
  | _ => none

/-- The access stands on a fault that is not, or no longer, before the fault service (R391). -/
def Access.refused (a : Access) : Bool :=
  match a.stage with
  | .faulted .. | .declined .. => true
  | _ => false

/-- Offers of the context's accesses name none from now on: their records stay until the host answers, and what it answers is discarded
(R392, R436). -/
def withdrawOffers (s : State) : State :=
  { s with jobs := s.jobs.map (fun j => { j with
      offers := j.offers.map (fun o => if o.ctx = s.self ∧ !o.engine then { o with ctx := nobody } else o) }) }

/-- Offer a fault that an endpoint met to the job's fault service: its token, or none when there is no queue or no room (R392, R436). -/
def offerFault (s : State) (c : Cause) (acc : Nat) (va : Word) (src : Nat) (engine : Bool) (ident : Nat) : Option (Nat × State) :=
  match s.jobOf s.ctx.info.asid with
  | none => none
  | some j =>
    if j.fqlog = 0 || decide (2 ^ j.fqlog ≤ j.offers.length) then none
    else
      let tok := j.offersWritten % 2 ^ 32
      let bs := leBytes 4 tok ++ leBytes 2 j.asid.toNat ++ leBytes 1 c.code ++ leBytes 1 acc ++ leBytes 8 va.toNat ++
        leBytes 2 src ++ leBytes 6 0 ++ leBytes 8 s.ctc
      let s := storeBytes s (j.fqbase + 32 * (j.offersWritten % 2 ^ j.fqlog)) bs
      let s := hostEvent s 0x06 c.code j.asid tok va.toNat
      some (tok, s.setJob { j with offersWritten := j.offersWritten + 1, offers := j.offers ++ [⟨tok, s.self, engine, ident⟩] })

/-- ACC of the offer's record (R392). -/
def AccKind.accCode : AccKind → Nat
  | .amo .. | .cas .. | .radd _ | .probe 4 => 2
  | .fetch => 3
  | k => if k.writes then 1 else 0

/-! ## Descriptors (R396) -/

/-- Major and SUB of an access. -/
def AccKind.major : AccKind → Nat × Nat
  | .load n sg => (match n, sg with
    | 1, false => 0x10 | 2, false => 0x11 | 4, false => 0x12 | 8, _ => 0x13
    | 1, true => 0x14 | 2, true => 0x15 | _, _ => 0x16, 0)
  | .store n => (match n with | 1 => 0x17 | 2 => 0x18 | 4 => 0x19 | _ => 0x1A, 0)
  | .vload => (0x1B, 0) | .vstore => (0x1C, 0) | .gather => (0x1D, 0) | .scatter => (0x1E, 0) | .radd _ => (0x1F, 0)
  | .vloads => (0x7A, 0) | .vstores => (0x7A, 1)
  | .amo n _ => (if n = 4 then 0x20 else 0x21, 0) | .cas n => (if n = 4 then 0x22 else 0x23, 0)
  | .probe f => (0x29, f) | .roi => (0x2C, 3)
  | .cacheOp f => (0x24, f) | .fetch => (0xFF, 0)

/-- Position of an identifier in a queue. -/
def indexOfId (ids : List Nat) (i : Nat) : Nat := (ids.findIdx? (· == i)).getD ids.length

/-- The 64 bytes of a descriptor, given its queue index. -/
def descBytes (a : Access) (qi : Nat) : List Byte :=
  let mj := a.kind.major
  let rec_ := if mj.1 = 0x7A then
    leBytes 4 a.shape.w0.toNat ++ leBytes 4 a.shape.w1.toNat ++ leBytes 4 a.shape.w2.toNat ++ leBytes 4 a.shape.w3.toNat
    else leBytes 16 0
  let ctl := mj.1 + mj.2 * 2 ^ 8 + a.dest.val * 2 ^ 12 + qi % 32 * 2 ^ 17 + a.cls.val * 2 ^ 22 + a.urg.val * 2 ^ 26 + a.slack * 2 ^ 29
  leBytes 8 a.iaddr.toNat ++ leBytes 8 a.ea.toNat ++ leBytes 8 a.v1.toNat ++ leBytes 8 a.v2.toNat ++ rec_ ++ leBytes 8 ctl ++
    leBytes 8 0

/-- AMO's operation codes (R260). -/
def amoOfCode (c : Nat) : AmoOp :=
  match c with
  | 0 => .swap | 1 => .add | 2 => .and | 3 => .or | 4 => .xor | 5 => .min | 6 => .max | 7 => .minu | 8 => .maxu | _ => .fadd

/-- The kind a descriptor names; what its CTL does not hold is read from the word of its instruction. -/
def kindOf (s : State) (major sub : Nat) (iaddr : Nat) : Option AccKind :=
  let w := (codeWord s iaddr).getD 0
  match major with
  | 0x10 => some (.load 1 false) | 0x11 => some (.load 2 false) | 0x12 => some (.load 4 false) | 0x13 => some (.load 8 false)
  | 0x14 => some (.load 1 true) | 0x15 => some (.load 2 true) | 0x16 => some (.load 4 true)
  | 0x17 => some (.store 1) | 0x18 => some (.store 2) | 0x19 => some (.store 4) | 0x1A => some (.store 8)
  | 0x1B => some .vload | 0x1C => some .vstore | 0x1D => some .gather | 0x1E => some .scatter
  | 0x1F => some (.radd ((typeOfCode (w % 32)).getD .s32))
  | 0x20 => some (.amo 4 (amoOfCode (w % 16))) | 0x21 => some (.amo 8 (amoOfCode (w % 16)))
  | 0x22 => some (.cas 4) | 0x23 => some (.cas 8)
  | 0x24 => if sub = 2 ∨ sub = 3 ∨ sub = 5 then some (.cacheOp sub) else none
  | 0x29 => if 2 ≤ sub ∧ sub ≤ 4 then some (.probe sub) else none
  | 0x2C => if sub = 3 then some .roi else none
  | 0x7A => if sub = 0 then some .vloads else if sub = 1 then some .vstores else none
  | 0xFF => some .fetch
  | _ => none

/-- Vector stores, whose rows CTL names (R396). -/
def AccKind.takesRows : AccKind → Bool
  | .vstore | .vstores | .scatter | .radd _ => true
  | _ => false

/-- The access of a descriptor at an offset of a frame; none when it is malformed. `lq0` is the identifier of lq entry 0, and sq entry i has the
identifier lq0 + 16 + i for each of the frame's entries. -/
def descAccess (s : State) (fm : Memory) (o lq0 : Nat) : Option Access :=
  let ctl := readLE fm (o + 0x30) 8
  if ctl / 2 ^ 41 != 0 || readLE fm (o + 0x38) 8 != 0 then none
  else match kindOf s (ctl % 256) (bitsOf ctl 11 8) (readLE fm o 8) with
    | none => none
    | some k =>
      let a : Access := {
        id := 0, iaddr := BitVec.ofNat 64 (readLE fm o 8), kind := k, ea := BitVec.ofNat 64 (readLE fm (o + 8) 8)
        v1 := BitVec.ofNat 64 (readLE fm (o + 0x10) 8), v2 := BitVec.ofNat 64 (readLE fm (o + 0x18) 8)
        shape := ⟨BitVec.ofNat 32 (readLE fm (o + 0x20) 4), BitVec.ofNat 32 (readLE fm (o + 0x24) 4),
          BitVec.ofNat 32 (readLE fm (o + 0x28) 4), BitVec.ofNat 32 (readLE fm (o + 0x2C) 4)⟩
        dest := Fin.ofNat 32 (bitsOf ctl 16 12), qi := lq0 + bitsOf ctl 21 17, cls := Fin.ofNat 16 (bitsOf ctl 25 22)
        urg := Fin.ofNat 8 (bitsOf ctl 28 26), slack := bitsOf ctl 40 29, stage := .walking, parts := [], rows := [], rowIds := []
        data := [], tagged := false, tso := false, laneWidth := s.laneBits, fmt := none
        allLanes := k.isLaned && bitsOf ((codeWord s (readLE fm o 8)).getD 0) 24 20 == 0 }
      let held := bitsOf (readLE fm 0x28 8) 30 26 - bitsOf ctl 21 17
      let n := if k.takesRows then min (rowsNeeded s.rowBits a) held else 0
      some { a with rowIds := (List.range n).map (fun i => lq0 + 16 + bitsOf ctl 21 17 + i) }

/-! ## The frame (R394, R395) -/

/-- Bytes placed at offsets of an empty frame. -/
def layout (fs : List (Nat × List Byte)) : Memory := fs.foldl (fun m f => writeBytes m f.1 f.2) []

/-- Entries of equal size from an offset up. -/
def entries (o size : Nat) (es : List (List Byte)) : List (Nat × List Byte) :=
  (List.range es.length).zip es |>.map (fun p => (o + size * p.1, p.2))

def bitsWhere (p : Nat → Bool) (n : Nat) : Nat := (List.range n).foldl (fun m i => if p i then m + 2 ^ i else m) 0

/-- The stream that output port n of the context in focus produces (R305). -/
def outputStream (s : State) (n : Nat) : Option Stream :=
  s.streams.find? (fun st => st.prod.kind == .gussetOut && st.prod.ctx == s.self && st.prod.port == n)

/-- The place of a reserved output entry among its port's four: after the flits that wait to be sent, in the order of reservation (R395). -/
def portEntry (s : State) (l : Latch) : Nat :=
  (outputStream s (l.dest - 0x12)).elim 0 (fun st => st.outgoing.length + indexOfId (st.reserved.map Prod.fst) l.qi)

/-- Entries of an output port that wait for their results, oldest first. -/
def unfilledIds (s : State) (port : Nat) : List Nat :=
  (outputStream s port).elim [] (fun st => (st.reserved.filter (fun e => e.2.isNone)).map Prod.fst)

/-- Latches of a frame bound for output ports belong to the entries still unfilled there, in order; `none_` names no entry (R305, R395). -/
def rebindPorts (s : State) (none_ : Nat) (ls : List Latch) : List Latch :=
  (List.range ls.length).zip ls |>.map (fun p =>
    if 0x12 ≤ p.2.dest ∧ p.2.dest ≤ 0x15 then
      { p.2 with qi := (unfilledIds s (p.2.dest - 0x12)).getD ((ls.take p.1).countP (fun l => l.dest == p.2.dest)) none_ }
    else p.2)

/-- A latch record (R395): a queue destination's QI is the index of its reserved entry. -/
def latchBytes (s : State) (l : Latch) : List Byte :=
  let qi := if l.dest = 0x10 then indexOfId (s.ctx.sq.map RowEntry.id) l.qi
    else if l.dest = 0x11 then indexOfId (s.ctx.vq.map VqEntry.id) l.qi
    else if 0x12 ≤ l.dest ∧ l.dest ≤ 0x15 then portEntry s l else 0
  leBytes 8 (l.dest + l.rem * 2 ^ 8 + l.flags.toNat * 2 ^ 11 + qi % 16 * 2 ^ 16 + 2 ^ 20) ++ leBytes 8 l.mask.toNat ++
    leBytes 128 l.data.toNat

def loopBytes (r : LoopRegs) : List Byte :=
  leBytes 8 r.count.toNat ++ leBytes 8 r.start.toNat ++ leBytes 8 r.stop.toNat ++ leBytes 8 r.actStart.toNat ++ leBytes 8 r.actStop.toNat

def redirBytes (r : Option Redirect) : List Byte :=
  match r with
  | some x => if x.taken then leBytes 8 (x.after.toNat + 1) ++ leBytes 8 x.target.toNat else leBytes 16 0
  | none => leBytes 16 0

/-- The queue index a descriptor carries: its first lq entry, or where its sq entries stand. -/
def queueIndex (c : Context) (a : Access) : Nat :=
  if a.kind.fillsLq then indexOfId (c.lq.map RowEntry.id) a.qi else if a.kind.takesRows then a.qi else 0

/-- The frame of the context in focus (R394): CAUSE's low bits, FADDR, the slot's access and the descriptors. -/
def frameOf (s : State) (cause : Nat) (faddr : Word) (slot : Option Access) (before : Nat) (descs : List Access) : Memory :=
  let c := s.ctx
  let ub := c.unresolved
  let causeWord := cause + (if slot.isSome then 2 ^ 16 else 0) + (if ub.isSome then 2 ^ 18 else 0)
    + before * 2 ^ 19
  let counts := c.bq.length + c.cq.length * 2 ^ 8 + c.dq.length * 2 ^ 14 + c.lq.length * 2 ^ 21 + c.sq.length * 2 ^ 26 +
    c.vq.length * 2 ^ 31 + c.latches.length * 2 ^ 36 + descs.length * 2 ^ 40 + c.votes.length * 2 ^ 46
  let qstat := bitsWhere (fun i => (c.lq[i]?).any (fun e => !e.filled)) 16 +
    bitsWhere (fun i => (c.sq[i]?).any (fun e => !e.filled)) 16 * 2 ^ 16 +
    bitsWhere (fun i => (c.vq[i]?).any (fun e => !e.filled)) 16 * 2 ^ 32
  let act := (if c.loopA.active then 1 else 0) + (if c.loopB.active then 2 else 0) + (if c.vloopA.active then 4 else 0) +
    (if c.vloopB.active then 8 else 0)
  layout (
    [(0x00, leBytes 8 causeWord), (0x08, leBytes 8 c.pcc.toNat), (0x10, leBytes 8 c.pcx.toNat), (0x18, leBytes 8 faddr.toNat),
     (0x20, leBytes 8 s.ctc), (0x28, leBytes 8 counts), (0x30, leBytes 8 qstat),
     (0x38, leBytes 8 (packLanes 2 (c.votes.map Fin.val))),
     (0x40, match ub with
        | some b => leBytes 8 b.addr.toNat ++ leBytes 8 b.target.toNat ++ leBytes 8 (b.c.val + if b.sense then 4 else 0)
        | none => []),
     (0x60, match slot with
        | some a => descBytes a (queueIndex c a)
        | none => []),
     (0xA0, loopBytes c.loopA ++ loopBytes c.loopB), (0xF0, loopBytes c.vloopA ++ loopBytes c.vloopB), (0x140, leBytes 8 act),
     (0x150, redirBytes c.redirC), (0x160, redirBytes c.redirX)] ++
    entries 0x200 8 (c.cq.map (fun w => leBytes 8 w.toNat)) ++ entries 0x300 8 (c.dq.map (fun w => leBytes 8 w.toNat)) ++
    entries 0x500 8 (c.vq.map (fun e => leBytes 8 e.data.toNat)) ++
    entries 0x600 144 ((c.latches.take 8).map (latchBytes s)) ++
    entries 0xC00 16 (c.bq.map (fun e => leBytes 8 (e.addr.toNat + if e.taken then 1 else 0) ++ leBytes 8 e.target.toNat)) ++
    entries 0x1400 128 (c.lq.map (fun e => leBytes 128 e.data.toNat)) ++
    entries 0x1C00 128 (c.sq.map (fun e => leBytes 128 e.data.toNat)) ++
    entries 0x2400 64 (descs.map (fun a => descBytes a (queueIndex c a))))

/-- Write the frame's four 4 KiB pages; a fault stops it at its page, which is given with it (R393). -/
def writeFrame (s : State) (fm : Memory) : Nat → State × Option (Cause × Nat)
  | 0 => (s, none)
  | n + 1 =>
    let va := s.ctx.tframe.toNat + 4096 * n
    match writeFrame s fm n with
    | (s, none) => ((partStore s va (readBytes fm (4096 * n) 4096)).1,
        (partStore s va (readBytes fm (4096 * n) 4096)).2.map (fun c => (c, va)))
    | r => r

/-- An access fault that is taken at the next boundary: one that is not offered or was declined (R391). -/
def takenFault (a : Access) : Bool :=
  match a.stage with
  | .declined .. => true
  | .faulted c _ => !(c == .page || c == .perm)
  | _ => false

/-! ## Contexts that outlive their unit (R64, R399) -/

/-- Release a save slot of a job's pool (R399). -/
def releaseSave (s : State) (asid : BitVec 16) (n : Option Nat) : State :=
  match n, s.jobOf asid with
  | some k, some j => s.setJob { j with slotsUsed := j.slotsUsed.filter (· != k) }
  | _, _ => s

/-- Packets, fence copies, streams, fusion groups and offered faults of a context belong to another context number from now on. -/
def rehome (s : State) (old new : Nat) : State :=
  let f (l : List Packet) := l.map (fun p => if p.ctx = old then { p with ctx := new } else p)
  { s with
    arbiters := s.arbiters.map (fun a => { a with packets := f a.packets })
    slices := s.slices.map (fun k => { k with
      requests := f k.requests, fills := f k.fills, markers := k.markers.map (fun m => if m.1 = old then (new, m.2) else m) })
    cores := s.cores.map (fun k => { k with windowReqs := f k.windowReqs })
    streams := s.streams.map (fun st => if st.owner = old then { st with owner := new } else st)
    groups := s.groups.map (fun g => if g.owner = old then { g with owner := new } else g)
    jobs := s.jobs.map (fun j => { j with offers := j.offers.map (fun o => if o.ctx = old then { o with ctx := new } else o) }) }

/-- The context in focus only outlived its unit (R64). -/
def outlived (s : State) : Bool := decide (nobody < s.self) && s.ctx.run == .idle

/-- The last access of a context that outlived its unit is performed: the completion word that waited for it is written (R302, R419). -/
def settleWord (s : State) : State :=
  if s.ctx.owesWord then
    writeDone (s.mod (fun c => { c with owesWord := false })) s.ctx.info.asid s.ctx.info.done.toNat (contextStatus s.ctx.fate) 0 0
  else if s.ctx.info.header.kind then s else retireLaunch s s.ctx.info.slot

/-- A context that only outlived its unit ends with its last operation, atomic and stream, and its save slot is released (R64, R316, R399);
a fault of such an atomic has no context to be taken in (assumption 102). -/
def sweep (s : State) : State :=
  if outlived s && s.ctx.accesses.all Access.over then
    let s := settleWord s
    if s.ctx.ops == [] && !s.streams.any (fun st => st.owner == s.self) then
      releaseSave (rehome { s with ctx := .idle } s.self nobody) s.ctx.info.asid s.ctx.saveSlot
    else s
  else s

/-! ## Teardown of streams (R314) -/

/-- An operation on the context that bound a stream, while it exists (R316). -/
def forOwner (s : State) (owner : Nat) (f : State → State) : State :=
  if owner ≤ nobody ∧ (s.ctxAt owner).run = .idle then s else s.withCtx owner f

/-- A Gusset's pool entries return to where they came from (R304). -/
def returnPool (s : State) (st : Stream) : State :=
  if st.cons.kind = .gussetIn ∧ st.cons.port < 4 then
    let g := s.gussetState st.cons.ident
    s.setGusset { g with
      minres := g.minres.map (fun p => if p.1 = gctxOf st.cons.ctx then (p.1, p.2 + st.fromMinimum) else p)
      remainderUsed := g.remainderUsed - (st.res - st.fromMinimum) }
  else s

def dropStream (s : State) (st : Stream) : State :=
  { returnPool s st with streams := s.streams.filter (fun x => x.entry != st.entry) }

/-- A stream is torn down; a context that has outlived its unit for it alone goes with it (R399). -/
def tearDown (s : State) (st : Stream) : State := forOwner (dropStream s st) st.owner sweep

/-- Tear down every stream that p selects. -/
def tearDownAll (s : State) (p : Stream → Bool) : State := (s.streams.filter p).foldl tearDown s

/-- A stream has an endpoint in a context. -/
def hasEnd (n : Nat) (st : Stream) : Bool :=
  let at_ (e : Endpoint) := e.ctx == n && !(e.kind == .camera || e.kind == .ethernet || e.kind == .rowWriter)
  at_ st.prod || at_ st.cons

/-- The core or Gusset of the context in focus has been withdrawn (R409). -/
def withdrawn (s : State) : Bool :=
  if isGusset s.self then (s.gussetState (gidOf s.self)).withdrawn else decide (s.self < 128) && (s.coreState s.self).withdrawn

/-! ## Failure of a unit (R401) -/

/-- Discarded stores, atomics and vector stores are recorded (R401, R402). -/
def discardStores (code : Nat) (s : State) : State :=
  s.ctx.accesses.foldl (fun s a => if a.kind.writes && !a.performed then writeRecord s 4 23 0xFF code 0 a.ea.toNat else s) s

/-- Latches, queues, load data, predictions and accesses are given up. -/
def Context.dropWork (c : Context) : Context :=
  { c with bq := [], cq := [], dq := [], lq := [], sq := [], vq := [], latches := [], votes := [], accesses := [], prediction := none, portWait := none
           spec := [], unresolved := none, redirC := none, redirX := none, xdrain := false, selftest := none, fence := none
           loopA := { c.loopA with active := false }, loopB := { c.loopB with active := false }
           vloopA := { c.vloopA with active := false }, vloopB := { c.vloopB with active := false } }

/-- A unit fails with a cause (R401); it then retires as failed. -/
def failWithout (s : State) (c : Cause) : State :=
  let s := discardStores c.code s
  let s := stopOps (fun _ => true) 4 c.code s
  let s := withdrawOffers (releaseLease s)
  let s := tearDownAll s (hasEnd s.self)
  s.mod (fun x => { x.dropWork with
    fate := .failed c, run := .draining, endedC := true, endedX := true, ready := .none, region := .none, kept := [] })

/-- A unit fails with a cause, and its record is written last; `addr` is the record's ADDR (R401, R402). -/
def failUnit (s : State) (c : Cause) (addr : Nat) : State := writeRecord (failWithout s c) 1 19 0xFF c.code 0 addr

/-! ## Taking a trap (R389, R393) -/

/-- The handler can be entered. -/
def enterable (c : Context) : Bool := c.trapbase != 0 && c.tframe != 0 && !c.inh

/-- The loop levels go back to where they stood before the tagged load whose first lq identifier is given, or before the run-ahead (R154). -/
def loopsBack (entry : Nat) (c : Context) : Context :=
  match c.spec.find? (fun p => p.1 == entry) with
  | some p => { c with loopA := p.2.1, loopB := p.2.2, spec := [] }
  | none => { c with spec := [] }

/-- The boundary when a prediction is open: its branch is recorded unresolved, tagged entries go (R154, R155). -/
def dropPrediction (c : Context) : Context :=
  match c.prediction with
  | none => c
  | some b =>
    { loopsBack 0 c with
      prediction := none, unresolved := some b, redirC := none, pcc := if c.redirC.isSome then c.pcc else b.after
      bq := c.bq.filter (fun e => !e.tagged), lq := c.lq.filter (fun e => !e.tagged), accesses := c.accesses.filter (fun a => !a.tagged) }

/-- Rows that unperformed accesses have taken go back to the front of sq, in the accesses' order, each as an entry that its access names
(R393 step 3, R397). -/
def returnRows (c : Context) : List Access → Context
  | [] => c
  | a :: as =>
    let c := returnRows c as
    let ids := (List.range a.rows.length).map (fun i => c.nextId + i)
    { c with
      nextId := c.nextId + a.rows.length
      sq := ids.zipWith (fun i r => ⟨i, BitVec.ofNat 1024 r, true, false⟩) a.rows ++ c.sq
      accesses := { a with rows := [], rowIds := ids ++ a.rowIds.drop a.rows.length } :: c.accesses }

/-- sq indices of the accesses that await rows, in order: where the entries stand that they name, or else the next places that no access
names; a gather keeps the name of its lq entry. -/
def numberStores (bits : Nat) (sq : List RowEntry) : List Nat → List Access → List Access
  | _, [] => []
  | free, a :: as =>
    let n := rowsNeeded bits a
    { a with qi := if n = 0 ∨ a.kind.fillsLq then a.qi else match a.rowIds with
      | i :: _ => indexOfId (sq.map RowEntry.id) i
      | [] => free.headD 0 } :: numberStores bits sq (free.drop (n - a.rowIds.length)) as

/-- The words that a result pushes to vq besides are filled when the pipelines halt: a latch record has no place for them (R395; assumption
95). -/
def landExtras (c : Context) : Context :=
  { c with
    vq := (c.latches.flatMap Latch.extra).foldl (fun q e => fillVq e.1 e.2 q) c.vq
    latches := c.latches.map (fun l => { l with extra := [] }) }

/-- Halt: due results land, the prediction goes, accesses are performed or kept (R393 steps 1 to 3). -/
def haltContext (s : State) : State :=
  let s := (landDue s).mod landExtras
  let s := s.mod dropPrediction
  let s := withdrawOffers (drainAccesses s)
  s.mod (fun c =>
    let c := returnRows { c with accesses := [] } (c.accesses.filter (fun a => a.stage != .dropped))
    let claimed := c.accesses.flatMap Access.rowIds
    let free := (List.range (c.sq.length + 64)).filter (fun i => !(c.sq[i]?).any (fun e => claimed.contains e.id))
    { c with accesses := numberStores s.rowBits c.sq free c.accesses, ops := c.ops.filter (fun o => o.kind != .frame) })

/-- Accesses that stand as descriptors and were issued before an operation of the context or in its own program: the handler's own operations do
not wait for those of the program it interrupts (R356; assumption 111). -/
def keptBefore (c : Context) (o : EngineOp) : List Access :=
  if o.held || o.order.nth == 0 then c.kept.flatten else if c.run = .saved then c.kept.headD [] else []

/-- A command precedes the execute instruction at pcx in program order (R440). -/
def precedesHere (c : Context) (o : EngineOp) : Bool :=
  !o.held && (decide (o.order.stretch < c.stretchX) ||
  (o.order.stretch == c.stretchX && decide (o.order.nth ≤ stepsPast o.order.addr.toNat (c.pcx :: c.logX))))

/-- The registers of an accumulator tile: 32, or 16 in a Gusset (R103, R190). -/
def tileRegs (s : State) : Nat := if isGusset s.self then 16 else 32

/-- The tile a matrix command locks. -/
def EngineOp.tile (o : EngineOp) : Option Nat :=
  match o.kind with
  | .mma | .mmaSp => some (bitsOf o.shape.w3.toNat 30 29)
  | .mzero | .mout | .moutRq => some (o.pages.headD 0)
  | _ => none

/-- A result of the pipelines is bound for a command's tile of so many registers. -/
def latchInTile (regs : Nat) (c : Context) (o : EngineOp) : Bool :=
  c.latches.any (fun l => decide (0x80 ≤ l.dest) && o.kind.isMatrix && o.tile == some ((l.dest - 0x80) / regs))

/-- Trap entry: commands whose execute point is reached precede all of the handler, the others none of it; nor does one whose tile a result
that stands in the frame is yet to reach (R189, R440). -/
def holdOps (regs : Nat) (c : Context) : List EngineOp :=
  c.ops.map (fun o => if o.held then o else if precedesHere c o && !latchInTile regs c o then { o with order := ⟨0, 0, 0⟩ } else { o with held := true })

/-- Return or unwinding: the handler's own commands, or all, precede what follows. -/
def freeOps (all : Bool) (c : Context) : List EngineOp :=
  c.ops.map (fun o => if o.held && !all then { o with held := false } else { o with order := ⟨0, 0, 0⟩, held := false })

/-- Take a cause whose destination is the handler: TIMER is discarded and any other fails the unit when the handler cannot be
entered; otherwise the six steps of R393. `src` and `n` are CAUSE bits 9:8 and 15:10; `slotId` names the access of an access
cause. -/
def enterTrap (s : State) (c : Cause) (src n : Nat) (faddr : Word) (slotId : Option Nat) (addr : Nat) : State :=
  if !enterable s.ctx then
    if c = .timer then s.mod (fun x => { x with timecmp := 0, ready := { x.ready with timer := false } })
    else failUnit s c addr
  else
    let s := haltContext s
    let isSlot (a : Access) : Bool := match slotId with
      | some i => a.id == i
      | none => (s.ctx.accesses.find? Access.refused).any (fun b => a.id == b.id)
    let slot := s.ctx.accesses.find? isSlot
    let descs := s.ctx.accesses.filter (fun a => !isSlot a)
    let before := match slot with
      | some a => (s.ctx.accesses.takeWhile (fun b => b.id != a.id)).length
      | none => 0
    let fm := frameOf s (c.code + src * 2 ^ 8 + n * 2 ^ 10) faddr slot before descs
    match writeFrame s fm 4 with
    | (s, some e) => failUnit s e.1 e.2
    | (s, none) =>
      s.mod (fun x => { x.dropWork with
        ops := holdOps (tileRegs s) x, kept := x.accesses :: x.kept, inh := true, lcode := BitVec.ofNat 8 c.code, pcc := x.trapbase, pcx := x.trapbase
        timecmp := if c = .timer then 0 else x.timecmp
        ready := if c = .timer then { x.ready with timer := false } else x.ready
        rowWait := none, savedC := x.stretchC, savedX := x.stretchX, savedLogC := x.logC, savedLogX := x.logX
        stretchC := 0, stretchX := 0, logC := [x.trapbase - 1], logX := [x.trapbase - 1], endedC := false, endedX := false })

/-- END is unsafe to reach with: the execute slice has ended with nothing in flight, and this access awaits an sq row that can no
longer come (R109). -/
def rowLost (s : State) (a : Access) : Bool :=
  s.ctx.endedX && s.ctx.latches == [] && s.ctx.sq == [] && a.stage != .dropped && !hasRows s.rowBits a

/-- A cause of priority 1 to 3 is ready (R109, R387). -/
def betterReady (s : State) : Bool :=
  s.ctx.ready.ecc.isSome || (s.ctx.region.isOpen && s.ctx.ready.silent.isSome) || s.ctx.accesses.any takenFault ||
    s.ctx.accesses.any (rowLost s)

/-- A synchronous cause of a slice's instruction (R388, R389): taken at that instruction's boundary, unless a cause of a better
priority is taken there. -/
def trapSync (s : State) (side : Slice) (c : Cause) : State :=
  if betterReady s || !mayHalt s then s else
  enterTrap s c (match side with | .control => 0 | .execute => 1) 0 0 none (s.ctx.pc side).toNat

/-! ## Unwinding a mitten region (R406) -/

/-- The open region unwinds to its handler. -/
def unwindRegion (s : State) (c : Cause) (fa : Word) : State :=
  let s := discardStores c.code (landDue s)
  let s := afterLease (stopOps (fun o => o.sinceOpen && !(o.kind == .lease || o.kind == .unlease)) 1 Cause.unwound.code s) false
  let s := withdrawOffers s
  let marked := s.ctx.region.marked.length
  let s := s.mod (fun x => { x.dropWork with
    ops := freeOps true x, inh := false, endedC := false, endedX := false, kept := [], rowWait := none
    region := { Region.none with ucode := c.code, fa := fa, mir := x.region.mir }
    ready := { x.ready with ecc := none, silent := none }
    pcc := x.region.handler, pcx := x.region.handler
    stretchC := 0, stretchX := 0, logC := [x.region.handler - 1], logX := [x.region.handler - 1] })
  writeRecord s 1 20 0xFF c.code marked fa.toNat

/-! ## Stopping a cancelled unit (R370) -/

/-- The slices halt and accesses issued before the stop are performed, those at the peer as they come to be sent; operations fail with STATUS 4, and
streams with an endpoint in the unit are torn down. -/
def stopCancelled (s : State) : State :=
  let s := withdrawOffers (drainAccesses ((landDue s).mod dropPrediction))
  let s := stopOps (fun _ => true) 4 Cause.cancel.code s
  let s := tearDownAll (releaseLease s) (hasEnd s.self)
  s.mod (fun x => { x.dropWork with
    accesses := x.accesses.filter (fun a => a.stage == .planned && hasRows s.rowBits a && a.parts.any (atPeer s)), kept := []
    fate := .cancelled, run := .draining, endedC := true, endedX := true, ready := .none, region := .none })

/-! ## Returning from a trap (R397, R398) -/

/-- The bytes of the frame's first n pages, or the fault of reading it with the address of the page, or of the poisoned word (R398, R403). -/
def readFrame (s : State) : Nat → Except (Cause × Nat) (List Byte)
  | 0 => .ok []
  | n + 1 => match readFrame s n with
    | .error e => .error e
    | .ok bs =>
      let va := s.ctx.tframe.toNat + 4096 * n
      match partRead s va 4096 with
      | .error c => .error (c, va)
      | .ok (_, some bad) => .error (.ecc, bad)
      | .ok (page, none) => .ok (bs ++ page)

/-- What reading the frame's pages leaves in the caches (R223, R241). -/
def frameReads (s : State) : State :=
  (List.range 4).foldl (fun s n => partReads s (s.ctx.tframe.toNat + 4096 * n) 4096) s

def zeroBytes (fm : Memory) (lo hi : Nat) : Bool := fm.all (fun c => decide (c.1 < lo) || decide (hi ≤ c.1))

/-- A latch record is well formed (R395). -/
def latchOk (fm : Memory) (o : Nat) : Bool :=
  let h := readLE fm o 8
  let d := h % 256
  decide (h < 2 ^ 21) && bitOf h 20 && bitsOf h 10 8 != 0 && d != 8 && (decide (d < 0x16) || decide (0x80 ≤ d))

/-- The checks of R393 and R395 on a frame. -/
def frameOk (fm : Memory) : Bool :=
  let cause := readLE fm 0 8
  let k := readLE fm 0x28 8
  let n (hi lo : Nat) := bitsOf k hi lo
  decide (cause < 2 ^ 25) && decide (k < 2 ^ 49) && decide (n 7 0 ≤ 128) && decide (n 13 8 ≤ 32) && decide (n 20 14 ≤ 64) &&
  decide (n 25 21 ≤ 16) && decide (n 30 26 ≤ 16) && decide (n 35 31 ≤ 16) && decide (n 39 36 ≤ 8) && decide (n 45 40 ≤ 32) &&
  decide (n 48 46 ≤ 4) && decide (bitsOf cause 24 19 ≤ n 45 40) && decide (readLE fm 0x30 8 < 2 ^ 48) &&
  decide (readLE fm 0x38 8 < 256) && readLE fm 0x58 8 == 0 && decide (readLE fm 0x50 8 < 8) && decide (readLE fm 0x140 8 < 16) &&
  zeroBytes fm 0x148 0x150 && zeroBytes fm 0x170 0x200 && zeroBytes fm 0x580 0x600 && zeroBytes fm 0xA80 0xC00 &&
  zeroBytes fm 0x2C00 0x4000 && (List.range (n 39 36)).all (fun i => latchOk fm (0x600 + 144 * i))

def frameLoop (fm : Memory) (o : Nat) (act : Bool) : LoopRegs :=
  let w (k : Nat) : Word := BitVec.ofNat 64 (readLE fm (o + 8 * k) 8)
  ⟨w 0, w 1, w 2, w 3, w 4, act⟩

def frameRedir (fm : Memory) (o : Nat) : Option Redirect :=
  let a := readLE fm o 8
  if a % 2 = 1 then some ⟨BitVec.ofNat 64 (a - 1), BitVec.ofNat 64 (readLE fm (o + 8) 8), true⟩ else none

/-- A latch of a frame; identifiers of sq and vq entry 0 are given (R395). -/
def frameLatch (fm : Memory) (sq0 vq0 o : Nat) : Latch :=
  let h := readLE fm o 8
  let d := h % 256
  let qi := bitsOf h 19 16
  { dest := d, rem := bitsOf h 10 8, flags := BitVec.ofNat 5 (bitsOf h 15 11)
    qi := if d = 0x10 then sq0 + qi else if d = 0x11 then vq0 + qi else qi
    mask := BitVec.ofNat 64 (readLE fm (o + 8) 8), data := BitVec.ofNat 1024 (readLE fm (o + 16) 128), stretch := 0, nth := 0, extra := [] }

/-- Reload queues, loops, votes, redirections and latches from a frame (R398 steps 4 to 6). -/
def reloadFrame (s : State) (fm : Memory) : State :=
  s.mod (fun c =>
    let k := readLE fm 0x28 8
    let qs := readLE fm 0x30 8
    let id0 := c.nextId
    let w (a : Nat) : Word := BitVec.ofNat 64 (readLE fm a 8)
    let act := readLE fm 0x140 8
    let ubr := bitOf (readLE fm 0 8) 18
    let ubrc := readLE fm 0x50 8
    let pcc := w 8
    let pcx := w 0x10
    { c with
      pcc := pcc, pcx := pcx
      bq := (List.range (bitsOf k 7 0)).map (fun i =>
        let a := readLE fm (0xC00 + 16 * i) 8
        ⟨BitVec.ofNat 64 (a / 2 * 2), a % 2 == 1, w (0xC08 + 16 * i), false⟩)
      cq := (List.range (bitsOf k 13 8)).map (fun i => w (0x200 + 8 * i))
      dq := (List.range (bitsOf k 20 14)).map (fun i => w (0x300 + 8 * i))
      lq := (List.range (bitsOf k 25 21)).map (fun i => ⟨id0 + i, BitVec.ofNat 1024 (readLE fm (0x1400 + 128 * i) 128), !bitOf qs i, false⟩)
      sq := (List.range (bitsOf k 30 26)).map (fun i => ⟨id0 + 16 + i, BitVec.ofNat 1024 (readLE fm (0x1C00 + 128 * i) 128), !bitOf qs (16 + i), false⟩)
      vq := (List.range (bitsOf k 35 31)).map (fun i => ⟨id0 + 32 + i, w (0x500 + 8 * i), !bitOf qs (32 + i)⟩)
      latches := rebindPorts s (id0 + 47) ((List.range (bitsOf k 39 36)).map (fun i => frameLatch fm (id0 + 16) (id0 + 32) (0x600 + 144 * i)))
      votes := (List.range (bitsOf k 48 46)).map (fun i => Fin.ofNat 4 (bitsOf (readLE fm 0x38 8) (2 * i + 1) (2 * i)))
      unresolved := if ubr then some ⟨w 0x40, w 0x48, Fin.ofNat 4 (ubrc % 4), bitOf ubrc 2, false, BitVec.ofNat 64 (afterSlots s (readLE fm 0x40 8))⟩
        else none
      loopA := frameLoop fm 0xA0 (bitOf act 0), loopB := frameLoop fm 0xC8 (bitOf act 1)
      vloopA := frameLoop fm 0xF0 (bitOf act 2), vloopB := frameLoop fm 0x118 (bitOf act 3)
      redirC := frameRedir fm 0x150, redirX := frameRedir fm 0x160
      stretchC := c.savedC, stretchX := c.savedX, logC := c.savedLogC, logX := c.savedLogX, endedC := false, endedX := false
      ops := freeOps false c, inh := false, nextId := id0 + 48, prediction := none, spec := [], accesses := [], xdrain := false })

/-- A slot access under SKIP: a load gives zero, and fills its lq entries with zeros; anything else is dropped (R398). -/
def skipSlot (s : State) (a : Access) : State :=
  let s := if a.kind.writesG && !a.kind.writes then s.mod (Context.setG a.dest 0) else s
  if a.kind.fillsLq then s.mod (fun c => { c with lq := fillLq a.qi (List.replicate (dataRows s.rowBits a) 0) c.lq }) else s

/-- The accesses of a frame in their original issue order: the slot's stands after the first PFPOS descriptors, and under SKIP it stays only to
take the rows that were to be its own (R394, R397, R398). -/
def frameAccesses (s : State) (fm : Memory) (id0 : Nat) : List Access :=
  let cause := readLE fm 0 8
  let nd := bitsOf (readLE fm 0x28 8) 45 40
  let pos := bitsOf cause 24 19
  let desc (i : Nat) := descAccess s fm (0x2400 + 64 * i) id0
  let slot := if bitOf cause 16 then
    [(descAccess s fm 0x60 id0).map (fun a => if bitOf cause 17 then { a with stage := .dropped } else a)] else []
  ((List.range pos).map desc ++ slot ++ (List.range (nd - pos)).map (fun i => desc (pos + i))).filterMap id

/-- An access of a frame is reissued under the identifier it had, so that its place among the context's operations stays (R356, R397). -/
def reissueOne (kept : List Access) (s : State) (p : Nat × Access) : State :=
  match kept[p.1]? with
  | some k =>
    if k.iaddr = p.2.iaddr then s.mod (fun c => { c with accesses := c.accesses ++ [{ p.2 with id := k.id }] })
    else s.mod (fun c => { c with accesses := c.accesses ++ [{ p.2 with id := c.nextId }], nextId := c.nextId + 1 })
  | none => s.mod (fun c => { c with accesses := c.accesses ++ [{ p.2 with id := c.nextId }], nextId := c.nextId + 1 })

/-- Reissue the descriptors and the slot's access in their original order (R397, R398). -/
def reissue (s : State) (fm : Memory) (id0 : Nat) : State :=
  let cause := readLE fm 0 8
  let all := frameAccesses s fm id0
  let s := ((List.range all.length).zip all).foldl (reissueOne (s.ctx.kept.headD [])) (s.mod (fun c => { c with kept := c.kept.drop 1 }))
  settle (if bitOf cause 16 && bitOf cause 17 then (descAccess s fm 0x60 id0).elim s (skipSlot s) else s)

/-- Every descriptor of a frame, and its slot, can be reissued. -/
def descsOk (s : State) (fm : Memory) : Bool :=
  (List.range (bitsOf (readLE fm 0x28 8) 45 40)).all (fun i => (descAccess s fm (0x2400 + 64 * i) 0).isSome) &&
  (!bitOf (readLE fm 0 8) 16 || (descAccess s fm 0x60 0).isSome)

/-- A TIMER that is due by now is ready at the boundary at which the context goes on (R389, R398, R400). -/
def noteTimer (s : State) : State :=
  if s.ctx.timecmp != 0 && decide (s.ctx.timecmp.toNat ≤ s.ctc) then s.mod (fun c => { c with ready := { c.ready with timer := true } }) else s

/-- Return with the bytes of the frame (R398): it is checked and reloaded, INH is cleared and what it holds is reissued; a bad frame fails the unit
with FRAME. -/
def returnWith (s : State) (bs : List Byte) : State :=
  let fm := writeBytes [] 0 bs
  if frameOk fm && descsOk s fm then noteTimer (reissue (reloadFrame s fm) fm s.ctx.nextId)
  else failUnit s .frame s.ctx.pcc.toNat

/-- The frame's read faults: the unit fails with the fault (R398), and poison is consumed (R403). -/
def frameFault (s : State) (c : Cause) (va : Nat) : State :=
  if c = .ecc then consumePoison s va s.ctx.pcc else failUnit s c va

/-- Return from the handler through the frame at TFRAME (R398). -/
def returnFromTrap (s : State) : State :=
  match readFrame s 4 with
  | .error e => frameFault (frameReads s) e.1 e.2
  | .ok bs => returnWith (frameReads s) bs

/-- A page of the frame lies at the peer, or in another core's window: it is read by packets (R218, R441). -/
def peerFrame (s : State) : Bool :=
  (List.range 4).any (fun n => match resolve s s.ctx.info.asid (s.ctx.tframe.toNat + 4096 * n) with
    | .ok a => (match placeOf s a (s.ctx.tframe.toNat + 4096 * n) with
      | .peer _ => s.link.up
      | .window w _ => w != s.self
      | _ => false)
    | .error _ => false)

/-! ## Issuing control instructions -/

/-- What holds a control instruction back: its slice, an open run-ahead, a g register an access still owes, a pending c bit
(R131, R151, R153). -/
def stalledC (s : State) (gs : List (Fin 32)) (cs : List (Fin 4)) : Bool :=
  !canIssue s .control || runAhead s.ctx || gs.any s.ctx.pendingG || cs.any s.ctx.pendingC

/-- A vote that can no longer come: the execute slice has ended and vq holds too few entries for the claim (R109, R151). -/
def voteLost (c : Context) (r : Fin 4) : Bool :=
  c.endedX && c.pendingC r && decide (c.vq.length ≤ c.votes.findIdx (· == r))

abbrev Result := Host.Outcome State Fault Refusal

/-- Issue a control instruction that reads and writes these registers: it waits, or acts and the slice moves past `len` bytes.
A wait on a vote that can no longer come traps with QUEUE (R151). -/
def issueC (s : State) (gs : List (Fin 32)) (cs : List (Fin 4)) (len : Nat) (act : State → State) : Result :=
  if canIssue s .control && cs.any (voteLost s.ctx) then .next (trapSync s .control .queue)
  else if stalledC s gs cs then .next s
  else .next (retire (act s) .control len false)

/-- Raise a synchronous cause when its condition holds, once the instruction can issue; otherwise go on (R388). -/
def orTrap (s : State) (side : Slice) (bad : Bool) (c : Cause) (k : Result) : Result :=
  if bad then (if canIssue s side && !(side == .control && runAhead s.ctx) then .next (trapSync s side c) else .next s) else k

/-- A check that reads registers is made once their values are final (R131). -/
def orTrapG (s : State) (gs : List (Fin 32)) (bad : Bool) (c : Cause) (k : Result) : Result :=
  if stalledC s gs [] then .next s else if bad then .next (trapSync s .control c) else k

end Sys2Proof.Machine
end

