-- ==== Sys2Proof/Machine/Records.lean ====
section
/-! DEFINITION. Shape records: substitution (R68), the common limits (R69, R71) and the registers an extended instruction
waits for. -/

namespace Sys2Proof.Machine

/-- The g registers a record's words name (R68). -/
def recordRegs (r : ShapeRec) : List (Fin 32) :=
  [r.w0, r.w1, r.w2, r.w3].filterMap (fun w => if bitOf w.toNat 31 then some (Fin.ofNat 32 (w.toNat % 32)) else none)

/-- One word's content after substitution; none where a substituting word has other bits set (R68). -/
def substWord (c : Context) (w : Word32) : Option Word32 :=
  if bitOf w.toNat 31 then
    if bitsOf w.toNat 30 5 = 0 then some (BitVec.ofNat 32 ((c.getG (Fin.ofNat 32 (w.toNat % 32))).toNat % 2 ^ 31)) else none
  else some w

/-- The record with every substituting word's register in it, whatever the word's other bits. -/
def substAll (c : Context) (r : ShapeRec) : ShapeRec :=
  let f (w : Word32) : Word32 := (substWord c (if bitOf w.toNat 31 then w &&& 0x8000001F else w)).getD w
  ⟨f r.w0, f r.w1, f r.w2, f r.w3⟩

/-- The record as the control slice substitutes it at issue. -/
def substRecord (c : Context) (r : ShapeRec) : Option ShapeRec :=
  match substWord c r.w0, substWord c r.w1, substWord c r.w2, substWord c r.w3 with
  | some a, some b, some d, some e => some ⟨a, b, d, e⟩
  | _, _, _, _ => none

/-- Word 2 obeys R69: a known type, PLANES and BLK only with q, no reserved bit. -/
def typeWordOk (r : ShapeRec) : Bool :=
  decide (r.w2.toNat < 2 ^ 15) && (typeOfCode r.typeCode).isSome &&
  (if r.etype = .q then decide (2 ≤ r.planes) && decide (r.planes ≤ 8) else r.planes == 0 && r.blk == 0)

/-- The limits of R69 on rows, columns and type. -/
def recordOk (r : ShapeRec) : Bool :=
  bitsOf r.w0.toNat 30 26 == 0 && decide (1 ≤ r.rows) && decide (r.rows ≤ 4096) && decide (1 ≤ r.cols) && decide (r.cols ≤ 4096) &&
  typeWordOk r

/-- Elements of a page as they move: q codes at no more than the record's planes (R268). -/
def cutCodes (ty : ElemType) (a : PageAttr) (planes : Nat) (bs : List Byte) : List Byte :=
  if ty = .q ∧ a.fmt = .q then bs.map (fun b => BitVec.ofNat 8 (b.toNat / 2 ^ (8 - planes) * 2 ^ (8 - planes))) else bs

/-- STRIDE is a multiple of the element size (R69, R71). -/
def strideAligned (r : ShapeRec) : Bool := r.stride % r.etype.bytes == 0

/-- Check an extended instruction at issue: ALIGN before SHAPE, also where a substituting word is malformed (R71, R388). `align` and `shape` are the instruction's own checks
on the substituted record. -/
def recordTrap (c : Context) (r : ShapeRec) (align shape : ShapeRec → Bool) : Except Cause ShapeRec :=
  if align (substAll c r) then .error .align
  else match substRecord c r with
    | none => .error .shape
    | some x => if !recordOk x || shape x then .error .shape else .ok x

/-- An address in each page of 4 KiB that n bytes from an address lie in. -/
def rowPages (va n : Nat) : List Nat :=
  va :: (List.range ((va + n - 1) / 4096 - va / 4096)).map (fun i => (va / 4096 + 1 + i) * 4096)

/-- Some page held among those of rows of n bytes fails a check; pages not held are checked at their walk (R71, R197). -/
def heldRowsBad (s : State) (chk : PageAttr → Bool) (va stride n rows : Nat) : Bool :=
  (List.range rows).any (fun i => (rowPages (va + i * stride) n).any (fun x =>
    match held s s.ctx.info.asid (x % 2 ^ 64) with
    | some a => chk a
    | none => false))

/-- A page breaks a record: its format, swizzle or stride (R71, R197, R268). -/
def pageBreaks (r : ShapeRec) (stride : Nat) (a : PageAttr) : Bool :=
  !fmtMatches a.fmt r.etype || a.swz != r.swz || (a.fmt != .raw && stride % 128 != 0)

/-- A held page that the record addresses from `va` breaks it. -/
def heldPageBad (s : State) (va : Nat) (stride : Nat) (r : ShapeRec) : Bool :=
  heldRowsBad s (pageBreaks r stride) va stride (r.cols * r.etype.bytes) r.rows

end Sys2Proof.Machine
end

