-- ==== Sys2Proof/Machine/LoadsStores.lean ====
section
/-! DEFINITION. Scalar and vector loads and stores, gather, scatter and reduction-add, strided rows, and atomics (R248 to
R264). -/

namespace Sys2Proof.Machine

/-! ## Issuing an access -/

/-- Accesses that R390 counts: issued by the control slice and not performed. -/
def outstanding (c : Context) : Nat := c.accesses.countP (fun a => !a.performed && a.stage != .dropped && a.kind != .fetch)

/-- A new access of the control slice's instruction, before any walk; its slack is captured now (R287). -/
def newAccess (s : State) (kind : AccKind) (ea v1 v2 : Word) (shape : ShapeRec) (dest : Fin 32) (cls : Fin 16) (urg : Fin 8) : Access :=
  { id := 0, iaddr := s.ctx.pcc, kind := kind, ea := ea, v1 := v1, v2 := v2, shape := shape, dest := dest, qi := s.ctx.nextId
    cls := cls, urg := urg, slack := slackEntry s.ctx urg.val, stage := .walking, parts := [], rows := [], rowIds := [], data := []
    tagged := false, allLanes := false, tso := false, laneWidth := s.laneBits, fmt := none }

/-- A vector form's access under a mask register: bits at or above W are ignored, and g0 names every lane (R254, R417). -/
def lanedAccess (s : State) (kind : AccKind) (ea : Word) (m : Fin 32) (cls : Fin 16) (urg : Fin 8) : Access :=
  { newAccess s kind ea (BitVec.ofNat 64 ((s.ctx.getG m).toNat % 2 ^ s.lanes)) 0 ⟨0, 0, 0, 0⟩ 0 cls urg with allLanes := m.val == 0 }

/-- Reserve n entries of lq under the identifiers from nextId up (R108). -/
def reserveLq (tagged : Bool) (n : Nat) (c : Context) : Context :=
  { c with lq := c.lq ++ reserveRows c.nextId tagged n, nextId := c.nextId + n }

/-- An access that brings a g register its value stands before what earlier ones still owe it (R131). -/
def Context.supersedeBy (a : Access) (c : Context) : Context :=
  if a.kind.writesG then { c with accesses := c.accesses.map (Access.supersede a.dest) } else c

/-- An access of the same class that stands on a fault keeps a new one from issuing: it must be ordered after it (R351, R353, R391). -/
def followsHeld (s : State) (a : Access) : Bool :=
  let tso := (held s s.ctx.info.asid a.ea.toNat).any PageAttr.tso
  s.ctx.accesses.any (fun b => b.isHeld && b.kind != .fetch && (if tso then b.tso else b.cls == a.cls))

/-- Issue an access of `len` bytes of code: it waits for its registers, for a place among the 32 and for its lq entries; ALIGN,
then SHAPE on held pages, are precise (R249, R388, R390). -/
def accessC (s : State) (gs : List (Fin 32)) (len lqs : Nat) (misaligned : Bool) (a : Access) : Result :=
  if stalledC s gs [] then .next s
  else if misaligned then .next (trapSync s .control .align)
  else if shapeAtIssue s a then .next (trapSync s .control .shape)
  else if decide (32 ≤ outstanding s.ctx) || decide (rowCap < s.ctx.lq.length + lqs) || followsHeld s a then .next s
  else
    let s' := s.mod (fun c => (if a.kind.writes || a.kind.isCache then c.markEffect else c).supersedeBy a)
    .next (retire (issueAccess (s'.mod (reserveLq false lqs)) a) .control len false)

/-- A tagged load keeps the loop levels as they stand before it (R154). -/
def keepLoops (c : Context) : Context := { c with spec := c.spec ++ [(c.nextId, c.loopA, c.loopB)] }

/-- A vector load that fills lq: while a prediction is open and its slots are done it issues speculatively, its entries and its
access tagged, and a check that would trap marks it instead (R153). -/
def loadRows (s : State) (gs : List (Fin 32)) (len lqs : Nat) (misaligned : Bool) (a : Access) : Result :=
  if s.ctx.prediction.isSome && s.ctx.redirC.isNone then
    if !canIssue s .control || gs.any s.ctx.pendingG || decide (32 ≤ outstanding s.ctx) ||
        decide (rowCap < s.ctx.lq.length + lqs) then .next s
    else
      let a := { a with tagged := true, stage := if misaligned || shapeAtIssue s a then .dropped else .walking }
      .next (retire (issueAccess (s.mod (fun c => reserveLq true lqs (keepLoops c))) a) .control len false)
  else accessC s gs len lqs misaligned a

/-! ## Scalar loads and stores (R252, R253) -/

/-- The effective address of format CM (R116, R252). -/
def effectiveAddr (c : Context) (b : Fin 32) (o : BitVec 8) (n : Nat) : Word := c.getG b + o.signExtend 64 * BitVec.ofNat 64 n

def loadC (n : Nat) (sg : Bool) (d b : Fin 32) (cls : Fin 16) (u : Fin 8) (o : BitVec 8) (s : State) : Result :=
  let ea := effectiveAddr s.ctx b o n
  accessC s [b] 4 0 (ea.toNat % n != 0) (newAccess s (.load n sg) ea 0 0 ⟨0, 0, 0, 0⟩ d cls u)

def storeC (n : Nat) (d b : Fin 32) (cls : Fin 16) (u : Fin 8) (o : BitVec 8) (s : State) : Result :=
  let ea := effectiveAddr s.ctx b o n
  accessC s [d, b] 4 0 (ea.toNat % n != 0) (newAccess s (.store n) ea (s.ctx.getG d) 0 ⟨0, 0, 0, 0⟩ 0 cls u)

def execLdZ8 (d b : Fin 32) (c : Fin 16) (u : Fin 8) (o : BitVec 8) (s : State) : Result := loadC 1 false d b c u o s
def execLdZ16 (d b : Fin 32) (c : Fin 16) (u : Fin 8) (o : BitVec 8) (s : State) : Result := loadC 2 false d b c u o s
def execLdZ32 (d b : Fin 32) (c : Fin 16) (u : Fin 8) (o : BitVec 8) (s : State) : Result := loadC 4 false d b c u o s
def execLdZ64 (d b : Fin 32) (c : Fin 16) (u : Fin 8) (o : BitVec 8) (s : State) : Result := loadC 8 false d b c u o s
def execLdS8 (d b : Fin 32) (c : Fin 16) (u : Fin 8) (o : BitVec 8) (s : State) : Result := loadC 1 true d b c u o s
def execLdS16 (d b : Fin 32) (c : Fin 16) (u : Fin 8) (o : BitVec 8) (s : State) : Result := loadC 2 true d b c u o s
def execLdS32 (d b : Fin 32) (c : Fin 16) (u : Fin 8) (o : BitVec 8) (s : State) : Result := loadC 4 true d b c u o s
def execStZ8 (d b : Fin 32) (c : Fin 16) (u : Fin 8) (o : BitVec 8) (s : State) : Result := storeC 1 d b c u o s
def execStZ16 (d b : Fin 32) (c : Fin 16) (u : Fin 8) (o : BitVec 8) (s : State) : Result := storeC 2 d b c u o s
def execStZ32 (d b : Fin 32) (c : Fin 16) (u : Fin 8) (o : BitVec 8) (s : State) : Result := storeC 4 d b c u o s
def execStZ64 (d b : Fin 32) (c : Fin 16) (u : Fin 8) (o : BitVec 8) (s : State) : Result := storeC 8 d b c u o s

/-! ## Rows, gather, scatter and reduction-add (R254 to R258) -/

def execVld (m b : Fin 32) (c : Fin 16) (u : Fin 8) (o : BitVec 8) (s : State) : Result :=
  let ea := effectiveAddr s.ctx b o s.rowBytes
  loadRows s [m, b] 4 1 (ea.toNat % 16 != 0) (lanedAccess s .vload ea m c u)

def execVst (m b : Fin 32) (c : Fin 16) (u : Fin 8) (o : BitVec 8) (s : State) : Result :=
  let ea := effectiveAddr s.ctx b o s.rowBytes
  accessC s [m, b] 4 0 (ea.toNat % 16 != 0) (lanedAccess s .vstore ea m c u)

def execVgather (m b : Fin 32) (c : Fin 16) (u : Fin 8) (s : State) : Result :=
  let ea := s.ctx.getG b
  accessC s [m, b] 4 1 (ea.toNat % 4 != 0) (lanedAccess s .gather ea m c u)

def execVscatter (m b : Fin 32) (c : Fin 16) (u : Fin 8) (s : State) : Result :=
  let ea := s.ctx.getG b
  accessC s [m, b] 4 0 (ea.toNat % 4 != 0) (lanedAccess s .scatter ea m c u)

/-- VRADD's types: s32 and f32 in wide32; s16, bf16 and f16 in wide16 (R258). -/
def raddTypeOk (lw : Nat) (t : ElemType) : Bool :=
  match t with
  | .s32 | .f32 => lw == 32
  | .s16 | .bf16 | .f16 => lw == 16
  | _ => false

def execVradd (m b : Fin 32) (c : Fin 16) (u : Fin 8) (t : ElemType) (s : State) : Result :=
  let ea := s.ctx.getG b
  orTrap s .control (!raddTypeOk s.laneBits t) .illegal
    (accessC s [m, b] 4 0 (ea.toNat % 4 != 0) (lanedAccess s (.radd t) ea m c u))

/-! ## Strided rows (R259) -/

/-- Queue entries a record's rows take. -/
def entriesOf (w : Nat) (r : ShapeRec) : Nat := r.rows * ((r.cols + w - 1) / w)

/-- ALIGN and SHAPE of VLDS and VSTS. -/
def stridedRecord (s : State) (base : Word) (r : ShapeRec) : Except Cause ShapeRec :=
  recordTrap s.ctx r (fun x => base.toNat % x.etype.bytes != 0 || !strideAligned x)
    (fun x => x.blk != 0 || x.aux / 2 ^ 7 != 0 || decide (16 < entriesOf s.lanes x) || decide (s.laneBits < x.etype.width))

/-- The access of a checked record. -/
def stridedAccess (s : State) (kind : AccKind) (base : Word) (x : ShapeRec) : Access :=
  newAccess s kind base 0 0 x 0 (Fin.ofNat 16 (x.aux % 16)) (Fin.ofNat 8 (bitsOf x.aux 6 4))

def execVlds (a : Fin 32) (r : ShapeRec) (s : State) : Result :=
  let gs := a :: recordRegs r
  let base := s.ctx.getG a
  match stridedRecord s base r with
  | .ok x => loadRows s gs 20 (entriesOf s.lanes x) false (stridedAccess s .vloads base x)
  | .error c =>
    if s.ctx.prediction.isSome && s.ctx.redirC.isNone then
      if !canIssue s .control || gs.any s.ctx.pendingG || decide (32 ≤ outstanding s.ctx) then .next s
      else .next (retire (issueAccess (s.mod keepLoops) { stridedAccess s .vloads base r with tagged := true, stage := .dropped }) .control 20 false)
    else orTrapG s gs true c (.next s)

def execVsts (a : Fin 32) (r : ShapeRec) (s : State) : Result :=
  let gs := a :: recordRegs r
  let base := s.ctx.getG a
  match stridedRecord s base r with
  | .ok x => accessC s gs 20 0 false (stridedAccess s .vstores base x)
  | .error c => orTrapG s gs true c (.next s)

/-! ## Atomics (R260 to R262): level 0, and their scope orders nothing beyond what one coherent memory gives (assumption 11) -/

def amoC (n : Nat) (d a b : Fin 32) (cls : Fin 16) (o : AmoOp) (s : State) : Result :=
  let ea := s.ctx.getG a
  orTrap s .control (o == .fadd && n == 8) .illegal
    (accessC s [a, b] 4 0 (ea.toNat % n != 0) (newAccess s (.amo n o) ea (s.ctx.getG b) 0 ⟨0, 0, 0, 0⟩ d cls 0))

def casC (n : Nat) (d a b : Fin 32) (cls : Fin 16) (s : State) : Result :=
  let ea := s.ctx.getG a
  accessC s [d, a, b] 4 0 (ea.toNat % n != 0) (newAccess s (.cas n) ea (s.ctx.getG b) (s.ctx.getG d) ⟨0, 0, 0, 0⟩ d cls 0)

def execAmoZ32 (d a b : Fin 32) (c : Fin 16) (_sc : Scope) (o : AmoOp) (s : State) : Result := amoC 4 d a b c o s
def execAmoZ64 (d a b : Fin 32) (c : Fin 16) (_sc : Scope) (o : AmoOp) (s : State) : Result := amoC 8 d a b c o s
def execCasZ32 (d a b : Fin 32) (c : Fin 16) (_sc : Scope) (s : State) : Result := casC 4 d a b c s
def execCasZ64 (d a b : Fin 32) (c : Fin 16) (_sc : Scope) (s : State) : Result := casC 8 d a b c s

end Sys2Proof.Machine
end

