-- ==== Sys2Proof/Machine/CacheOps.lean ====
section
/-! DEFINITION. The cache group: PIN, UNPIN, CFLUSH, CINV, STOUCH and SWB (R227, R265, R266). None of them faults. -/

namespace Sys2Proof.Machine

/-- The line of DRAM that a virtual line is, when it translates, is not a DEV page and lies in the part's own DRAM (R265). -/
def plainLine (s : State) (va : Nat) : Option Nat :=
  if inAperture va then none
  else match resolve s s.ctx.info.asid va with
    | .ok a => if a.dev then none else match placeOf s a va with
      | .dram pa => some (pa / 128)
      | _ => none
    | .error _ => none

/-- Line i of a range. -/
def lineAddr (ea i : Nat) : Nat := (ea / 128 * 128 + 128 * i) % 2 ^ 64

/-- Most lines a cache instruction takes (R265). -/
def lineCount (v : Word) : Nat := min v.toNat (2 ^ 20)

/-- What PIN finds at a line: already held by this space, pinned now, or the status that stops it (R227, R266). -/
inductive PinTry where
  | held
  | pin (line : Nat)
  | stop (status : Nat)
  deriving DecidableEq, Repr

/-- Pins a set may hold: 12, or its working ways less 4 once a way is mapped out (R227, R228). -/
def pinLimit (s : State) (line : Nat) : Nat := (s.sliceState (sliceOf (line * 128))).ways - 4

/-- The line's home slice holds it, or has a way that takes it; while it has none, a self-test's ways among them, the set counts as full to PIN
(R228, R266, R407; DESIGN CHOICE, assumption 92). -/
def wayOpen (s : State) (line : Nat) : Bool := sliceHolds s line || (wayFor s (sliceOf (line * 128)) line).isSome

def tryPin (s : State) (va : Nat) : PinTry :=
  let asid := s.ctx.info.asid
  match plainLine s va with
  | none => .stop 3
  | some line =>
    match pinOwner s line with
    | some o => if o = asid then .held else .stop 3
    | none =>
      if (descOf s asid).pinq ≤ pinCount s asid then .stop 2
      else if decide (pinLimit s line ≤ pinnedWays s line) || !wayOpen s line then .stop 1
      else .pin line

/-- The walk for a line of the context in focus, where no level holds its translation (R240, R241). -/
def reachHere (s : State) (va : Nat) : State := reach s (tlbPlaces s) s.ctx.info.asid va

/-- PIN from line i on, n lines at most: the state, the lines held, the status (R266). -/
def pinLines (ea : Nat) : Nat → Nat → State → State × Nat × Nat
  | 0, i, s => (s, i, 0)
  | n + 1, i, s =>
    let s := reachHere s (lineAddr ea i)
    match tryPin s (lineAddr ea i) with
    | .held => pinLines ea n (i + 1) s
    | .pin line => pinLines ea n (i + 1) (setPin s line (some s.ctx.info.asid))
    | .stop st => (s, i, st)

/-- The first n lines of a range that lie in plain DRAM have asked their home slices, with entry 0 of SLACKTAB (R287, R293). -/
def askLines (ea n : Nat) (s : State) : State :=
  requestLates s (slackEntry s.ctx 0) 0 ((List.range n).countP (fun i => (plainLine s (lineAddr ea i)).isSome)) (lineAddr ea 0)

/-- PIN writes gd once the last pin is decided; each pin updates PINCNT (R217, R266). -/
def execPin (d a b : Fin 32) (s : State) : Result :=
  issueC s [a, b] [] 4 (fun s =>
    let (s', n, st) := pinLines (s.ctx.getG a).toNat (lineCount (s.ctx.getG b)) 0 s
    (writePincnt (askLines (s.ctx.getG a).toNat (min (n + 1) (lineCount (s.ctx.getG b))) s') s.ctx.info.asid).mod (fun c => (c.setG d (BitVec.ofNat 64 (n * 2 ^ 32 + st))).markEffect))

/-- UNPIN lets go the lines that the context's space pinned (R265). -/
def unpinLines (ea n : Nat) (s : State) : State :=
  (List.range n).foldl (fun s i =>
    let s := reachHere s (lineAddr ea i)
    match plainLine s (lineAddr ea i) with
    | some line => if pinOwner s line = some s.ctx.info.asid then setPin s line none else s
    | none => s) s

def execUnpin (a b : Fin 32) (s : State) : Result :=
  issueC s [a, b] [] 4 (fun s =>
    let n := lineCount (s.ctx.getG b)
    (writePincnt (askLines (s.ctx.getG a).toNat n (unpinLines (s.ctx.getG a).toNat n s)) s.ctx.info.asid).mod Context.markEffect)

/-- CFLUSH, CINV and SWB take their place in their class and act when it is reached (R251, R351). -/
def cacheC (fn : Nat) (a b : Fin 32) (cls : Fin 16) (s : State) : Result :=
  accessC s [a, b] 4 0 false (newAccess s (.cacheOp fn) (s.ctx.getG a) (s.ctx.getG b) 0 ⟨0, 0, 0, 0⟩ 0 cls 0)

def execCflush (a b : Fin 32) (c : Fin 16) (s : State) : Result := cacheC 2 a b c s
def execCinv (a b : Fin 32) (c : Fin 16) (s : State) : Result := cacheC 3 a b c s
def execSwb (a b : Fin 32) (c : Fin 16) (s : State) : Result := cacheC 5 a b c s

/-- STOUCH fills lines into the core's own stash; under load a line may be dropped, which nothing but the stash's record shows
(R265). -/
def touchLines (ea n : Nat) (excl : Bool) (s : State) : State :=
  (List.range n).foldl (fun s i =>
    let s := reachHere s (lineAddr ea i)
    match plainLine s (lineAddr ea i) with
    | some line =>
      if Config.coin s.draws then touchStash (touchSlice s.drawn line 15 false) s.self line 15 false |> fun s =>
        if excl then
          let s := recallLine s line (some (holderOf s.self))
          setMapped s s.self ((mappedOf s s.self).map (fun x => if x.line = line then { x with owned := true } else x)) else s
      else s.drawn
    | none => s) s

def execStouch (a b : Fin 32) (e : Bool) (s : State) : Result :=
  issueC s [a, b] [] 4 (fun s =>
    if s.self < 128 then touchLines (s.ctx.getG a).toNat (lineCount (s.ctx.getG b)) e s else s)

end Sys2Proof.Machine
end

