-- ==== Sys2Proof/Machine/Launch.lean ====
section
/-! DEFINITION. What a cancel, and a deadline with LATE = 1, do to work that is on no core (R85, R98, R370, R442). -/

namespace Sys2Proof.Machine

/-! ## Cancelling what is on no core (R85, R98) -/

def entryLists (q : Queues) : List Entry := q.group0 ++ q.group1 ++ q.group2 ++ q.group3 ++ q.common ++ q.joining

/-- Keep the walked and resumed entries that satisfy p. -/
def filterEntries (p : Entry → Bool) (q : Queues) : Queues :=
  { q with group0 := q.group0.filter p, group1 := q.group1.filter p, group2 := q.group2.filter p, group3 := q.group3.filter p
           common := q.common.filter p, joining := q.joining.filter p }

/-- A saved image is discarded: its operations stop with STATUS 4, those in the middle of a row at its end, and no later increment of theirs
lands; its slot is released once they are done (R370, R399). -/
def discardImage (s : State) (ident : Nat) : State :=
  s.withCtx (1024 + ident) (fun s => sweep ((stopOps (fun _ => true) 4 Cause.cancel.code (s.mod (fun c => { c with fate := .cancelled }))).mod
    (fun c => { c.dropWork with run := .idle })))

/-- Remove the entries and records of a launch that p selects, by unit, wherever they wait on no core but in overflow rings; each counts as
cancelled. -/
def cancelWaiting (s : State) (slot : Nat) (p : UnitInfo → Bool) : State :=
  let hit (u : UnitInfo) := u.slot == slot && p u
  let es := (entryLists s.queues).filter (fun e => hit e.info)
  let bank := s.queues.banks.flatMap (fun b => b.2.filter (fun r => hit r.info))
  let park := (allParked s).filter (fun r => hit r.info)
  let armed := s.matches_.filter (fun m => m.armed && m.task.any (fun r => hit r.info))
  let s := es.foldl (fun s e => match e.image with
    | some i => discardImage s i
    | none => s) s
  let s := keepParked s (fun r => !hit r.info)
  let q := filterEntries (fun e => !hit e.info) s.queues
  let s := { s with
    queues := { q with banks := (q.banks.map (fun b => (b.1, b.2.filter (fun r => !hit r.info)))).filter (fun b => b.2 != []) }
    matches_ := s.matches_.map (fun m => if m.armed && m.task.any (fun r => hit r.info) then { m with armed := false, task := none } else m) }
  freeBarriers (cancelUnits s slot (es.length + bank.length + park.length + armed.length)) slot

/-- Places of a bank's overflow ring that hold a record of a launch which p selects and that has not been removed (R93). -/
def ringPlaces (s : State) (slot : Nat) (p : UnitInfo → Bool) (b : Nat × Nat × Nat) : List (Nat × Nat) :=
  ((List.range (b.2.2 - b.2.1)).map (fun n => (b.1, b.2.1 + n))).filter (fun x =>
    let bs := readBytes s.mem (ovfPlace s x.1 x.2) 64
    bitsOf (fieldOf bs 0x30 8) 53 48 == slot && !s.queues.overflowGone.contains x && p (taskInfo 0 slot bs))

/-- Remove the records of a launch that p selects from the overflow rings; each counts as cancelled (R85, R98). -/
def cancelSpilled (s : State) (slot : Nat) (p : UnitInfo → Bool) : State :=
  let gone := s.queues.overflow.flatMap (ringPlaces s slot p)
  let s := { s with queues := { s.queues with
    overflowGone := s.queues.overflowGone ++ gone
    overflowOn := s.queues.overflowOn.filter (fun o => !gone.contains (o.1, o.2.1)) } }
  freeBarriers (cancelUnits s slot gone.length) slot

/-- The walker stops on a launch, and every unit of it that is on no core and in no overflow ring is cancelled. -/
def stopWalk (s : State) (slot : Nat) : State :=
  match slotNumbered s slot with
  | none => s
  | some l =>
    let left := l.total - l.walked
    let s := modSlot s slot (fun l => { l with stopped := true, walked := l.total })
    cancelWaiting (cancelUnits s slot (left - (l.skips.filter (fun q => decide (l.walked ≤ q) && decide (q < l.total))).length)) slot (fun _ => true)

/-- A launch's deadline has passed under LATE = 1: every unit of it that is on no core is cancelled (R52, R85). -/
def stopLaunch (s : State) (slot : Nat) : State := cancelSpilled (stopWalk s slot) slot (fun _ => true)

/-- Units on cores that p selects are to stop (R370). -/
def stopResident (s : State) (p : Context → Bool) : State :=
  let f (n : Nat) (c : Context) : Context :=
    if decide (n < 640) && c.run != .idle && c.run != .draining && p c then { c with ready := { c.ready with cancel := true } } else c
  { s with ctx := f s.self s.ctx, others := s.others.map (fun x => (x.1, f x.1 x.2)) }

/-- A launch's deadline passes once, when the CTC has reached it: with LATE = 1 every unit on no core is cancelled, and the launch is late
(R52, R85). -/
def passDeadline (s : State) (slot : Nat) : State :=
  match slotNumbered s slot with
  | none => s
  | some l =>
    if l.late || decide (s.ctc < l.pkt.deadline.toNat) then s
    else
      let s := modSlot s slot (fun l => { l with late := true })
      if l.pkt.lateAction then retireLaunch (stopLaunch s slot) slot else s

/-- Cancel a whole launch; its records in overflow rings are discarded as they come back (R98, R370). -/
def cancelLaunch (s : State) (slot : Nat) : State :=
  let s := modSlot (stopWalk s slot) slot (fun l => { l with cancelled := true, dropped := true })
  stopResident s (fun c => c.info.slot == slot && !c.info.header.kind)

/-- Cancel every unit of a launch with a sequence number (R98, R369). -/
def cancelUnit (s : State) (slot seq : Nat) : State :=
  match slotNumbered s slot with
  | none => s
  | some l =>
    let s := if decide (l.walked ≤ seq) && decide (seq < l.total) && !l.skips.contains seq then
      modSlot (cancelUnits s slot 1) slot (fun l => { l with skips := l.skips ++ [seq] })
      else s
    let s := cancelSpilled (cancelWaiting s slot (fun u => u.seq.toNat == seq)) slot (fun u => u.seq.toNat == seq)
    stopResident s (fun c => c.info.slot == slot && c.info.seq.toNat == seq && !c.info.header.kind)

/-- A packet of a graph or a phase has been refused or consumed with a status: the level's record counts it (R421). -/
def noteStatus (l : List LevelCount) (n status : Nat) (enters : Bool) : List LevelCount :=
  match findLevel l n with
  | some x => upsert LevelCount.ident { x with status := worse x.status status } l
  | none => if enters then upsert LevelCount.ident ⟨n, 0, 0, status, false, false⟩ l else l

/-- Mark a level as cancelled; one with no launch yet is entered when packets of it may still come. -/
def markLevel (l : List LevelCount) (n : Nat) (waits : Bool) : List LevelCount :=
  match findLevel l n with
  | some x => upsert LevelCount.ident { x with cancelled := true } l
  | none => if waits then upsert LevelCount.ident ⟨n, 0, 0, 0, false, true⟩ l else l

/-- Mark a graph or a phase of a job as cancelled, and cancel its launches (R98). -/
def cancelGraph (s : State) (asid : BitVec 16) (g : Nat) : State :=
  if g = 0 then s
  else
    let s := match s.jobOf asid with
      | some j => s.setJob { j with graphs := markLevel j.graphs g (graphWaits s asid g) }
      | none => s
    (s.slots.filter (fun (l : LaunchSlot) => l.asid == asid && l.pkt.graph == g)).foldl (fun s (l : LaunchSlot) => cancelLaunch s l.slot) s

def cancelPhase (s : State) (asid : BitVec 16) (p : Nat) : State :=
  let s := match s.jobOf asid with
    | some j => s.setJob { j with phases := markLevel j.phases p (decide (j.highPhase ≤ p)) }
    | none => s
  (s.slots.filter (fun (l : LaunchSlot) => l.asid == asid && l.pkt.phase == p)).foldl (fun s (l : LaunchSlot) => cancelLaunch s l.slot) s

def cancelLaunches (s : State) (asid : BitVec 16) : State :=
  (s.slots.filter (fun (l : LaunchSlot) => l.asid == asid)).foldl (fun s (l : LaunchSlot) => cancelLaunch s l.slot) s

end Sys2Proof.Machine
end

