-- ==== Sys2Proof/Machine/Lines.lean ====
section
/-! DEFINITION. The lines that engine operations read and write (R187, R197, R218, R226, R244, R268, R282 to R287, R378, R403): how a line is
asked for, what is kept of it, how a write is sent, and what happens to either where the line lies. -/

namespace Sys2Proof.Machine

/-! ## Who reads and writes -/

/-- The core or Gusset context that an operation's packets come from, also once its unit has left it. -/
def homeOf (s : State) : Nat := if s.self < 640 then s.self else s.ctx.home

/-- The level under which an operation's late requests count (R295). -/
def EngineOp.lateLevel (o : EngineOp) : Nat :=
  match o.kind with
  | .mma | .mmaSp | .mkat => o.level
  | .mout => bitsOf o.b.toNat 38 36
  | _ => 0

/-- The endpoint that reads or writes for an operation: load pipe A or B of a core's cluster where one is named, else the core or Gusset (R282). -/
def readerEndpoint (s : State) (pipe : Option Bool) : Nat :=
  match pipe with
  | some b => if homeOf s < 128 then 128 + 2 * clusterOf (homeOf s) + (if b then 1 else 0) else endpointOf (homeOf s)
  | none => endpointOf (homeOf s)

/-- The levels in which that endpoint looks a translation up (R240). -/
def readerPlaces (s : State) (pipe : Option Bool) : List Nat :=
  match pipe with
  | some b => if homeOf s < 128 then pipePlaces (clusterOf (homeOf s)) b else tlbPlaces s
  | none => tlbPlaces s

/-- The page and the place of a byte that an operation reads or writes, or what stops it there (R218, R222, R234, R244, R425). -/
def checkByte (s : State) (places : List Nat) (u : Use) (chk : PageAttr → Option Cause) (va : Nat) : Except Cause (PageAttr × Place) :=
  match resolveAt s places s.ctx.info.asid va with
  | .error c => .error c
  | .ok a =>
    if permFault a u false then .error .perm
    else match chk a with
      | some c => .error c
      | none => match placeOf s a va with
        | .register _ => .error .bus
        | .nowhere => .error (if inAperture va then .window else .bus)
        | .peer pa => if s.link.up then .ok (a, .peer pa) else .error .bus
        | p => .ok (a, p)

/-- A party's levels hold the translation of an address from here on (R240, R241). -/
def obtain (s : State) (places : List Nat) (slack u va : Nat) : State :=
  if (heldAt s places s.ctx.info.asid va).isSome then s
  else walkFill (walkLates s (places.headD outPlace) slack u va) places s.ctx.info.asid va

/-! ## Lines that are read -/

/-- Keys of lines: those of one reader's virtual lines count from a base of its own, and a load pipe's lines of scales from another (R187, R238). -/
def keyBase (pipe : Option Bool) (scales : Bool) : Nat := (if pipe = some true then 2 ^ 60 else 0) + (if scales then 2 ^ 61 else 0)

/-- The line that an address lies in, as a reader of the operation has asked for it. -/
def EngineOp.readAt (o : EngineOp) (pipe : Option Bool) (va : Nat) : Option LineRead :=
  o.reads.find? (fun r => r.key == keyBase pipe false + va / 128)

/-- Put a line among those an operation has asked for. -/
def EngineOp.withRead (o : EngineOp) (r : LineRead) : EngineOp :=
  { o with reads := if o.reads.any (fun x => x.key == r.key) then o.reads.map (fun x => if x.key = r.key then r else x) else o.reads ++ [r] }

/-- Nothing that was read is kept (R198, R199). -/
def EngineOp.forget (o : EngineOp) : EngineOp := { o with reads := [], got := [] }

/-- The address in `got`, and in the list of poisoned words, of a line's first byte. -/
def placeBase (p : Place) : Nat :=
  match p with
  | .window w o => windowKey w (o / 128 * 128)
  | .dram pa | .peer pa | .register pa => pa / 128 * 128
  | .nowhere => 0

/-- n bytes of the element stream from an address up, out of a line that has come. -/
def LineRead.bytes (r : LineRead) (got : Memory) (va n : Nat) : List Byte :=
  match r.place with
  | .window .. => readBytes got (placeBase r.place + va % 128) n
  | _ => streamBytes got r.attr va n

/-- Poison lies among n bytes of a line, as read at k planes (R237, R403). -/
def LineRead.spoiled (r : LineRead) (k va n : Nat) : Bool :=
  wordsReach r.poison (placeBase r.place + if r.attr.fmt = .q then 0 else va % 128) (storedBytes r.attr k n)

/-- The line as it stands where it lies: its bytes, and which of its words are poisoned. -/
def lineAsRead (s : State) (p : Place) : List Byte × List Nat :=
  let b := placeBase p
  (match p with
    | .window w o => readBytes (windowMem s w) (o / 128 * 128) 128
    | _ => readBytes s.mem b 128, s.poison.filter (fun w => decide (b ≤ 8 * w) && decide (8 * w < b + 128)))

/-- A line is read where it lies, for the operation in the context in focus: through the stash or line buffer for a load pipe, at the home slice
otherwise; a window may refuse (R187, R213, R222, R226). -/
def takeLine (s : State) (o : EngineOp) (r : LineRead) (stage : PartStage) : State :=
  let b := lineAsRead s r.place
  let o' := { o.withRead { r with stage := stage, poison := b.2 } with got := writeBytes o.got (placeBase r.place) b.1 }
  match r.place with
  | .dram pa =>
    let s := if o.kind.isLease && stashHits s (homeOf s) (pa / 128) r.mask false then s else readHome s (pa / 128) r.mask
    (if o.kind.isLease then touchStash s (homeOf s) (pa / 128) r.mask false else s).mod (putOp o')
  | .window w o₀ =>
    if windowOk s w (o₀ / 128 * 128) 128 then s.mod (putOp o') else s.mod (putOp (o.withRead { r with stage := stage, cause := some .window }))
  | _ => s

/-- A request of an operation of the context in focus. -/
def opPacket (s : State) (o : EngineOp) (src dst part slack va : Nat) : Packet :=
  { id := 0, kind := .request, lead := false, urg := o.lateLevel, va := va, src := src, dst := dst, mask := oneClass o.cls.val, slack := slack
    late := false, input := 0, ctx := s.self, acc := o.id, part := part }

/-- A line is at hand: in the reader's own window, or for a load pipe in the stash or line buffer it reads through (R187, R213, R441). -/
def atHand (s : State) (o : EngineOp) (r : LineRead) : Bool :=
  match r.place with
  | .window w _ => w == homeOf s || isGusset (homeOf s)
  | .dram pa => o.kind.isLease && stashHits s (homeOf s) (pa / 128) r.mask false
  | _ => false

/-- A line is asked for: read at once where it is at hand, else by one request packet; `none` while the port has no room (R284, R378). -/
def askLine (s : State) (o : EngineOp) (r : LineRead) : Option State :=
  if atHand s o r then some (takeLine s o r .returned)
  else
    let k := opPacket s o r.src (placeEndpoint r.place) r.key r.slack r.va
    if portRoom s k 1 then some (inject (s.mod (putOp (o.withRead r))) k) else none

/-- Lines asked for that have not come. -/
def EngineOp.outstanding (o : EngineOp) : Nat := o.reads.countP (fun r => r.stage != .returned)

/-- Bytes that the reply for a line carries (R283). -/
def LineRead.replySize (r : LineRead) : Nat := 32 * (sectorsOf r.mask).length

/-- Ask for the line of an address through a reader's levels: what its page's check finds, or the state with the request made or still held
back; a q page is read at the planes given. -/
def seekLine (s : State) (o : EngineOp) (pipe : Option Bool) (u : Use) (chk : PageAttr → Option Cause) (slack planes va : Nat) (mask : BitVec 4) :
    Except (Cause × Nat) State :=
  match checkByte s (readerPlaces s pipe) u chk va with
  | .error c => .error (c, va)
  | .ok (a, p) =>
    let r : LineRead := {
      key := keyBase pipe false + va / 128, va := va, attr := a, place := p, mask := if a.fmt = .q then needSectors a planes va 1 else mask
      src := readerEndpoint s pipe, stage := .sent, cause := none, poison := [], slack := slack, late := false }
    match askLine (obtain s (readerPlaces s pipe) slack o.lateLevel va) { o with nextRead := o.nextRead + 1 } r with
    | some s' => .ok s'
    | none => .ok s

/-- The lines that a list of addresses and sizes needs, in order of first appearance: first address and sectors (R378). -/
def linesOf (span : List (Nat × Nat)) : List (Nat × BitVec 4) :=
  span.foldl (fun l p =>
    let m := sectorsIn (p.1 % 128) p.2 0
    if l.any (fun x => x.1 / 128 == p.1 / 128) then l.map (fun x => if x.1 / 128 = p.1 / 128 then (x.1, x.2 ||| m) else x) else l ++ [(p.1, m)]) []

/-! ## Lines that are written -/

/-- A write in what an operation has read: each of its bytes stays as it stood, or is as written (R268; assumption 23). -/
def mixStream (draw : Nat) (w : LineWrite) (va : Nat) (m : Memory) : List Byte → Memory
  | [] => m
  | b :: bs =>
    let m' := match w.place with
      | .window q off => writeBytes m (windowKey q (off + (va - w.va))) [b]
      | _ => putStreamByte m w.attr va b
    mixStream (draw + 1) w (va + 1) (if Config.coin draw then m' else m) bs

/-- COPY and COPYS write to a line that they have read already: source and destination overlap there (R268). -/
def writesSource (o : EngineOp) (w : LineWrite) : Bool :=
  (o.kind == .copy || o.kind == .copys) && o.reads.any (fun r => r.stage != .sent && placeBase r.place == placeBase w.place)

/-- A write is performed where its line lies; a window may refuse (R222, R226, R237). A Gusset's MOUT writes through its line buffer (R208). -/
def performWrite (s : State) (o : EngineOp) (w : LineWrite) (stage : PartStage) : State :=
  let done (s : State) (o : EngineOp) (c : Option Cause) : State := s.mod (putOp { o with write := some { w with stage := stage, cause := c } })
  let (s, o') := if writesSource o w then ({ s with draws := s.draws + w.bytes.length }, { o with got := mixStream s.draws w w.va o.got w.bytes }) else (s, o)
  let s' := s.mod (markWrite w.va)
  match w.place with
  | .dram pa =>
    let s' := storeStream s' w.attr w.va w.bytes
    done (if o.kind = .mout ∧ isGusset (homeOf s) then touchStash s' (homeOf s) (pa / 128) (sectorsIn pa w.bytes.length (pa / 128)) true else s') o' none
  | .window q off => if windowOk s q off w.bytes.length then done (storeWindow s' q off w.bytes) o' none else done s o (some .window)
  | _ => s

/-- The part of a packet that names an operation's write, not one of its lines read. -/
def writePart (va : Nat) : Nat := 2 ^ 64 + va / 128

/-- A write is sent, or performed at once in the writer's own window or line buffer; `none` while the port has no room (R283, R284). -/
def sendWrite (s : State) (o : EngineOp) (w : LineWrite) : Option State :=
  let here : Bool := match w.place with
    | .window q _ => q == homeOf s || isGusset (homeOf s)
    | .dram pa => o.kind == .mout && isGusset (homeOf s) && stashHits s (homeOf s) (pa / 128) (sectorsIn pa w.bytes.length (pa / 128)) true
    | _ => false
  if here then some (performWrite s o w .returned)
  else
    let k := opPacket s o (endpointOf (homeOf s)) (placeEndpoint w.place) (writePart w.va) w.slack w.va
    let n := flitsFor (storedBytes w.attr 8 w.bytes.length)
    if portRoom s k n then some (injectAll (s.mod (putOp { o with write := some w })) k n) else none

/-- Write bytes of one line: what the page's check finds, or the state with the write under way, done, or still held back. -/
def putLine (s : State) (o : EngineOp) (chk : PageAttr → Option Cause) (slack va : Nat) (bs : List Byte) : Except (Cause × Nat) State :=
  match checkByte s (tlbPlaces s) .write chk va with
  | .error c => .error (c, va)
  | .ok (a, p) =>
    let w : LineWrite := { va := va, attr := a, place := p, bytes := bs, stage := .sent, cause := none, slack := slack, late := false }
    .ok ((sendWrite (obtain s (tlbPlaces s) slack o.lateLevel va) o w).getD s)

/-! ## What a packet does for an operation -/

/-- The operation of the context in focus that a packet acts for. -/
def opOfPacket (s : State) (p : Packet) : Option EngineOp := s.ctx.ops.find? (fun o => o.id == p.acc)

/-- The line read, of an operation, that a packet carries. -/
def EngineOp.readOf (o : EngineOp) (p : Packet) : Option LineRead := o.reads.find? (fun r => r.key == p.part)

/-- The write, of an operation, that a packet carries. -/
def EngineOp.writeOf (o : EngineOp) (p : Packet) : Option LineWrite := o.write.filter (fun w => writePart w.va == p.part)

/-- A request of an operation is performed where its line lies. -/
def serveOp (s : State) (p : Packet) : State :=
  match opOfPacket s p with
  | none => s
  | some o => match o.readOf p, o.writeOf p with
    | some r, _ => if r.stage = .sent then takeLine s o r .performed else s
    | none, some w => if w.stage = .sent then performWrite s o w .performed else s
    | none, none => s

/-- A reply to an operation has come (R285). -/
def returnOp (p : Packet) (c : Context) : Context :=
  { c with ops := c.ops.map (fun o => if o.id != p.acc then o else
      { o with reads := o.reads.map (fun r => if r.key = p.part ∧ r.stage = .performed then { r with stage := .returned } else r)
               write := o.write.map (fun w => if writePart w.va = p.part ∧ w.stage = .performed then { w with stage := .returned } else w) }) }

/-- The messages that a write of an operation sends to the peer: a COPY.PEER's under its tag, to be translated there (R276, R424). -/
def writeMessages (s : State) (o : EngineOp) (w : LineWrite) (slack : Nat) (late : Bool) : List PeerWrite :=
  if o.kind = .copyPeer then [⟨s.ctx.info.asid, BitVec.ofNat 32 o.c.toNat, false, w.va, o.shape, w.bytes, slack, late⟩]
  else peerWrites s w.attr w.va w.bytes slack late

/-- A request of an operation reaches the link: it crosses with its slack and late bit, or fails with BUS where the link is down (R297, R425). -/
def opToPeer (s : State) (p : Packet) : State :=
  match opOfPacket s p with
  | none => s
  | some o => match o.readOf p, o.writeOf p with
    | some r, _ =>
      if r.stage != .sent then s
      else if s.link.up then
        { s.mod (putOp (o.withRead { r with stage := .filling, slack := p.slack, late := p.late })) with
          out := s.out ++ [.peerRead (placeBase r.place) 128 p.slack p.late] }
      else s.mod (putOp (o.withRead { r with stage := .returned, cause := some .bus }))
    | none, some w =>
      if w.stage != .sent then s
      else if s.link.up then
        { s.mod (fun c => (if o.kind = .copyPeer then id else markWrite w.va) (putOp { o with write := some { w with stage := .filling, slack := p.slack, late := p.late } } c)) with
          out := s.out ++ (writeMessages s o w p.slack p.late).map .peerWrite }
      else s.mod (putOp { o with write := some { w with stage := .returned, cause := some .bus } })
    | none, none => s

end Sys2Proof.Machine
end

