-- ==== Sys2Proof/Machine/Sync.lean ====
section
/-! DEFINITION. Flags, class counters, fences, barriers, the launch-level waits, spawning, futures and LVL.CANCEL (R348 to
R370). -/

namespace Sys2Proof.Machine

/-! ## Flags (R359) -/

/-- The threshold of a flag wait. -/
def flagThreshold (c : Context) (a : Fin 32) : Nat := min (c.getG a).toNat (2 ^ 32 - 1)

/-- A flag instruction: an index at or above NFLAG is ILLEGAL (R101, R359). -/
def flagC (n : Fin 64) (s : State) (k : Result) : Result :=
  orTrap s .control (decide (s.ctx.nflag ≤ n.val)) .illegal k

def execFlagAdd (a : Fin 32) (n : Fin 64) (s : State) : Result :=
  flagC n s (issueC s [a] [] 4 (fun s => s.mod (fun c => c.addFlag n (c.getG a).toNat)))

def execFlagWait (d a : Fin 32) (n : Fin 64) (s : State) : Result :=
  flagC n s (
    if (s.ctx.f[n]).toNat < flagThreshold s.ctx a then .next s
    else issueC s [a] [] 4 (fun s => s.mod (fun c => c.setG d (BitVec.ofNat 64 (c.f[n]).toNat))))

/-- FLAG.WAIT.SUB tests and subtracts in one step. -/
def execFlagWaitSub (d a : Fin 32) (n : Fin 64) (s : State) : Result :=
  flagC n s (
    if (s.ctx.f[n]).toNat < flagThreshold s.ctx a then .next s
    else issueC s [a] [] 4 (fun s => s.mod (fun c =>
      let v := (c.f[n]).toNat
      { c.setG d (BitVec.ofNat 64 v) with f := c.f.set n (BitVec.ofNat 32 (v - flagThreshold c a)) })))

def execFlagRd (d : Fin 32) (n : Fin 64) (s : State) : Result :=
  flagC n s (issueC s [] [] 4 (fun s => s.mod (fun c => c.setG d (BitVec.ofNat 64 (c.f[n]).toNat))))

/-! ## Class counters and WAIT (R251, R360) -/

/-- Loads whose data is not returned. -/
def loadCount (c : Context) : Nat := c.accesses.countP (fun a => a.kind.isLoad)

/-- Stores, cache operations and VRADDs not performed. -/
def storeCount (c : Context) : Nat := c.accesses.countP (fun a => a.kind.isStore && !a.performed)

def copyCount (c : Context) : Nat := c.ops.countP (fun o => o.kind.isCopy)

/-- Matrix commands and TILE.COMMITs. -/
def tileCount (c : Context) : Nat := c.ops.countP (fun o => o.kind.isMatrix || o.kind == .commit)

def execWait (t c sc l : Fin 32) (s : State) : Result :=
  if decide (l.val < loadCount s.ctx) || decide (sc.val < storeCount s.ctx) || decide (c.val < copyCount s.ctx) ||
      decide (t.val < tileCount s.ctx) then .next s
  else issueC s [] [] 4 id

/-! ## FENCE (R297, R353, R355, R361) -/

/-- An access is performed, parts at the peer left out when `peers` is false: only a FENCE of chip scope and a BAR.ARRIVE do not wait for them (R348,
R355). -/
def performedBut (s : State) (peers : Bool) (a : Access) : Bool :=
  a.stage == .planned && !a.kind.isCache &&
  a.parts.all (fun p => p.stage == .performed || p.stage == .returned || (!peers && atPeer s p))

/-- A fence of a mask and scope covers an access: its class; at chip and pair scope the TSO class, to which an access not yet
walked may belong (R353, R361). -/
def covers (mask : BitVec 16) (sc : Scope) (a : Access) : Bool :=
  let wide := sc == .chip || sc == .pair
  a.kind != .fetch && !a.tagged &&
  (if a.tso then wide else mask.getLsbD a.cls.val || (wide && a.stage == .walking))

/-- Every access a fence waits for is performed at its scope. -/
def fenceDone (s : State) (mask : BitVec 16) (sc : Scope) : Bool :=
  s.ctx.accesses.all (fun a => !covers mask sc a || performedBut s (sc != .chip) a)

/-- The slices that acknowledge a fence's markers. -/
def allSlices : List Nat := List.range 64

/-- A marker of the context in focus enters one arbiter (R297). -/
def addMarker (mask : BitVec 16) (ident slack dst : Nat) (s : State) (arb : ArbId) : State :=
  let p : Packet := ({ id := s.nextPacket, kind := .marker, lead := false, urg := 0, va := 0, src := endpointOf s.self, dst := dst, mask := mask, slack := slack
                       late := false, input := portOf (endpointOf s.self), ctx := s.self, acc := ident, part := 0 } : Packet).marked
  let a := s.arbiterOf arb
  { s.setArbiter { a with packets := a.packets ++ [p] } with nextPacket := s.nextPacket + 1 }

/-- Markers go out on the 20 general lanes of each direction that leaves the issuer's station, and into its local switch. -/
def sendMarkers (s : State) (mask : BitVec 16) (ident : Nat) : State :=
  let st := stationOf (endpointOf s.self)
  let slack := slackEntry s.ctx 0
  let east := if st < 14 then (List.range 20).map (fun l => (ArbId.lane true (stationFin st) (Fin.ofNat 20 l), 449)) else []
  let west := if 0 < st then (List.range 20).map (fun l => (ArbId.lane false (stationFin st) (Fin.ofNat 20 l), 192)) else []
  (east ++ west ++ [(ArbId.local (stationFin st), endpointOf s.self)]).foldl (fun s p => addMarker mask ident slack p.2 s p.1) s

/-- Every arbiter that a fence's markers enter has room for one in each class it covers (R284, R297). -/
def markersFit (s : State) (mask : BitVec 16) : Bool :=
  let e := endpointOf s.self
  let st := stationOf e
  let p : Packet := { id := 0, kind := .marker, lead := false, urg := 0, va := 0, src := e, dst := 0, mask := mask, slack := 0, late := false
                      input := portOf e, ctx := 0, acc := 0, part := 0 }
  let fits (a : ArbId) : Bool := roomIn (s.arbiterOf a).packets p
  fits (.local (stationFin st)) && (List.range 20).all (fun l =>
    (decide (14 ≤ st) || fits (.lane true (stationFin st) (Fin.ofNat 20 l))) && (decide (st = 0) || fits (.lane false (stationFin st) (Fin.ofNat 20 l))))

/-- FENCE of chip or pair scope first sends its markers and then waits for their acknowledgments; every FENCE waits for the
accesses it covers. -/
def execFence (sc : Scope) (m : BitVec 16) (s : State) : Result :=
  let marks := (sc == .chip || sc == .pair) && m != 0
  if stalledC s [] [] then .next s
  else match s.ctx.fence with
    | none =>
      if marks && !markersFit s m then .next s
      else if marks then .next ((sendMarkers s m s.ctx.nextId).mod (fun c =>
        { c with fence := some ⟨m, sc, c.nextId, allSlices, []⟩, nextId := c.nextId + 1 }))
      else if fenceDone s m sc then .next (retire s .control 4 false) else .next s
    | some w =>
      if w.slices.all (fun n => w.acked.contains n) && fenceDone s m sc then
        .next (retire (s.mod (fun c => { c with fence := none })) .control 4 false)
      else .next s

/-! ## Barriers (R90, R362) -/

/-- A barrier slot's count in the issuer's cluster. -/
def barrierCount (s : State) (n : Nat) : Word32 :=
  (((s.arrayAt (clusterOf s.self)).barriers.find? (fun b => b.1 == s.ctx.info.slot && b.2.1 == n)).map (fun b => b.2.2)).getD 0

def setBarrier (s : State) (n : Nat) (v : Word32) : State :=
  let a := s.arrayAt (clusterOf s.self)
  s.setArray { a with barriers := a.barriers.filter (fun b => !(b.1 == s.ctx.info.slot && b.2.1 == n)) ++ [(s.ctx.info.slot, n, v)] }

/-- A slot at or above NBAR, or a Gusset, is ILLEGAL. -/
def badBarrier (s : State) (n : Fin 8) : Bool := isGusset s.self || decide (s.ctx.info.header.nbar ≤ n.val)

/-- Every access issued before is performed at cluster scope; peer writes are not waited for (R355, R362). -/
def allPerformed (s : State) (peers : Bool) : Bool :=
  s.ctx.accesses.all (fun a => a.kind == .fetch || a.tagged || performedBut s peers a)

def execBarArrive (n : Fin 8) (s : State) : Result :=
  orTrap s .control (badBarrier s n) .illegal (
    if !allPerformed s false then .next s
    else issueC s [] [] 4 (fun s => (setBarrier s n.val (barrierCount s n.val + 1)).mod Context.markEffect))

def execBarWait (a : Fin 32) (n : Fin 8) (s : State) : Result :=
  orTrap s .control (badBarrier s n) .illegal (
    if (barrierCount s n.val).toNat < (s.ctx.getG a).toNat % 2 ^ 32 then .next s else issueC s [a] [] 4 id)

/-! ## Early start (R96, R363) -/

/-- START.NEXT sets the early mark of the issuer's launch. -/
def execStartNext (s : State) : Result :=
  orTrap s .control (isGusset s.self) .illegal (issueC s [] [] 4 (fun s =>
    { s.mod Context.markEffect with
      slots := s.slots.map (fun l => if l.slot = s.ctx.info.slot then { l with early := true } else l) }))

/-- Predecessors of the issuer's launch that have not retired: launches still in their slots. -/
def predsLive (s : State) (slot : Nat) : Bool :=
  match s.slots.find? (fun l => l.slot == slot) with
  | some l => decide (0 < l.pending)
  | none => false

def execWaitPred (s : State) : Result :=
  orTrap s .control (isGusset s.self) .illegal (if predsLive s s.ctx.info.slot then .next s else issueC s [] [] 4 id)

/-! ## Spawning (R65, R364) -/

/-- A fault of the memory access that an instruction makes at issue stands as a deferred fault at the instruction's own address,
and the instruction waits (R249, R364, R367). -/
def probeFault (s : State) (fn : Nat) (c : Cause) (ea : Word) : State :=
  if s.ctx.accesses.any (fun x => x.kind == .probe fn && x.iaddr == s.ctx.pcc) then s
  else s.mod (fun x => { x with
    accesses := x.accesses ++ [{ newAccess s (.probe fn) ea 0 0 ⟨0, 0, 0, 0⟩ 0 0 0 with id := x.nextId, stage := .faulted c ea }]
    nextId := x.nextId + 1 })

/-- Poison read by an instruction at issue is an error of the context; the instruction does not complete (R403). -/
def consume (s : State) (ea : Word) : State := consumePoison s ea.toNat s.ctx.pcc

/-- An earlier access of the class of a read at `ea`, or one that may touch its line, is not performed: the read waits. Its class is 0, or on a
TSO page the TSO class, in which it waits for no store (R250, R351, R353, R364, R367). -/
def zeroClassHeld (s : State) (ea : Nat) : Bool :=
  let tso : Bool := match resolve s s.ctx.info.asid ea with
    | .ok a => a.tso
    | .error _ => false
  s.ctx.accesses.any (fun a => a.kind != .fetch && !a.performed &&
    (a.stage != .planned || (if tso then a.tso && !a.kind.isStore else !a.tso && a.cls.val == 0) || a.parts.any (fun p => p.elems.any (fun e => e.va / 128 == ea / 128))))

/-- TSPAWN once its record has been read: the record is checked, the launch is raised, and the enqueuing waits as an operation of the copy
class. -/
def spawnFrom (s : State) (ea : Word) (bs : List Byte) : Result :=
  if !taskOk bs then .next (trapSync s .control .shape)
  else
    let s' := raiseCount s s.ctx.info.slot
    .next (retire (s'.mod (fun c => addOp { plainOp s .tspawn ea with task := bs } c.markEffect)) .control 4 false)

/-- The record lies at the peer, with the link up, or in another core's window, in a page that may be read: it is asked for (R218, R441). -/
def recordAtPeer (s : State) (ea : Nat) : Bool :=
  match checkByte s (tlbPlaces s) .read (fun _ => none) ea with
  | .ok (_, .peer _) => true
  | .ok (_, .window w _) => w != s.self && !isGusset s.self
  | _ => false

/-- A turn of TSPAWN with its record at the peer or in another core's window: it asks for the record's line, and goes on once that has come (R218, R364). -/
def recordTurn (s : State) (ea : Word) : Result :=
  match s.ctx.ops.find? (fun o => o.kind == .frame && o.a == ea) with
  | none => .next (s.mod (addOp { plainOp s .frame ea with stage := .started }))
  | some o => match o.readAt none ea.toNat with
    | none => match seekLine s o none .read (fun _ => none) (slackEntry s.ctx 0) 8 ea.toNat 15 with
      | .ok s' => .next s'
      | .error (c, _) => .next (probeFault (s.mod (dropOp o.id)) 2 c ea)
    | some r =>
      if r.stage != .returned then .next s
      else match r.cause with
        | some c => .next (probeFault (s.mod (dropOp o.id)) 2 c ea)
        | none => spawnFrom (s.mod (dropOp o.id)) ea (r.bytes o.got ea.toNat 64)

/-- TSPAWN: ALIGN, then its record is read as a load of class 0 (R364). -/
def execTspawn (a : Fin 32) (s : State) : Result :=
  orTrap s .control (isGusset s.self) .illegal (
    let ea := s.ctx.getG a
    if stalledC s [a] [] then .next s
    else if ea.toNat % 64 != 0 then .next (trapSync s .control .align)
    else if zeroClassHeld s ea.toNat then .next s
    else if recordAtPeer s ea.toNat then recordTurn s ea
    else match partRead s ea.toNat 64 with
      | .error c => .next (probeFault s 2 c ea)
      | .ok (_, some bad) => .next (consume s (BitVec.ofNat 64 bad))
      | .ok (bs, none) => spawnFrom (partReads s ea.toNat 64) ea bs)

/-! ## Futures (R365 to R368) -/

/-- The DRAM address of a future: a raw page with DEV = 0 and EC = 0, not the aperture, not the peer range (R365). -/
def futurePage (s : State) (ea : Nat) (u : Use) : Except Cause Nat :=
  if inAperture ea then .error .perm
  else match resolve s s.ctx.info.asid ea with
    | .error c => .error c
    | .ok a =>
      if a.fmt != .raw || a.dev || permFault a u false then .error .perm
      else match placeOf s a ea with
        | .dram pa => .ok pa
        | .nowhere => .error .bus
        | _ => .error .perm

/-- The unit is squashed: its context is discarded, its matrix commands fail with STATUS 4, and its record is parked (R94,
R367). -/
def squashUnit (s : State) (va : Nat) : State :=
  let s := releaseLease (stopOps (fun _ => true) 4 Cause.cancel.code (s.mod (fun c => { c with fate := .squashed })))
  (parkUnit s va).mod (fun c => { c.dropWork with
    fate := .squashed, run := .draining, endedC := true, endedX := true, ready := .none, region := .none })

/-- FUT.RD tests its future and parks in one step. DESIGN CHOICE (safe; assumption 100): while neither the park table nor its overflow list
has room, it waits. -/
def execFutRd (d a : Fin 32) (s : State) : Result :=
  orTrap s .control (!s.ctx.info.header.fut) .illegal (
    let ea := s.ctx.getG a
    if stalledC s [a] [] || s.ctx.ready.cancel then .next s
    else if ea.toNat % 8 != 0 then .next (trapSync s .control .align)
    else if zeroClassHeld s ea.toNat then .next s
    else match futurePage s ea.toNat .read with
      | .error c => .next (probeFault s 3 c ea)
      | .ok pa =>
        let w := readLE s.mem pa 8
        if poisoned s pa 8 then .next (consume s ea)
        else if bitOf w 63 then
          .next (retire ((walkFill s (tlbPlaces s) s.ctx.info.asid ea.toNat).mod (fun c => c.setG d (BitVec.ofNat 64 (w % 2 ^ 63)))) .control 4 false)
        else if s.ctx.fse then .next (trapSync s .control .future)
        else if parkFull s then .next s
        else .next (squashUnit s ea.toNat))

/-- FUT.FILL waits for every earlier access, fills an empty future and wakes what is parked on it. -/
def execFutFill (d a b : Fin 32) (s : State) : Result :=
  let ea := s.ctx.getG a
  if stalledC s [a, b] [] then .next s
  else if ea.toNat % 8 != 0 then .next (trapSync s .control .align)
  else if !allPerformed s true then .next s
  else match futurePage s ea.toNat .write with
    | .error c => .next (probeFault s 4 c ea)
    | .ok pa =>
      if poisoned s pa 8 then .next (consume s ea)
      else
        let full := bitOf (readLE s.mem pa 8) 63
        let v := 2 ^ 63 + (s.ctx.getG b).toNat % 2 ^ 63
        let s' := walkFill s (tlbPlaces s) s.ctx.info.asid ea.toNat
        let s' := if full then s' else storeBytes s' pa (leBytes 8 v)
        let s' := s'.mod (fun c => ((markWrite ea.toNat c).setG d (if full then 1 else 0)).markEffect)
        .next (retire (wakeParked s' s.ctx.info.asid ea.toNat) .control 4 false)

end Sys2Proof.Machine
end

