-- ==== Sys2Proof/Machine/Admission.lean ====
section
/-! DEFINITION. Submission rings and admission (R72 to R81), the link match table (R82, R83), deadlines (R52, R85), LVL.CANCEL
(R369) and the job commands (R422). -/

namespace Sys2Proof.Machine

/-! ## Jobs -/

def emptyJob (asid : BitVec 16) : Job :=
  { asid := asid, state := 0, auto := false, cancelled := false, mirwa := 0, fqbase := 0, fqlog := 0, spbase := 0, slotsz := 0, spnum := 0, offersWritten := 0
    offers := [], graphs := [], phases := [], highPhase := 0, slotsUsed := [], pincnt := 0 }

def jobAt (s : State) (asid : BitVec 16) : Job := (s.jobOf asid).getD (emptyJob asid)

def jobState (s : State) (asid : BitVec 16) : Nat := (jobAt s asid).state

/-! ## Rings -/

namespace Ring

def asid (r : Ring) : BitVec 16 := BitVec.ofNat 16 (bitsOf r.cfg.toNat 47 32)
def size (r : Ring) : Nat := 2 ^ (r.cfg.toNat % 16)
def maxl (r : Ring) : Nat := bitsOf r.cfg.toNat 22 16

/-- Addresses of the slot and the ready byte of an index (R73). -/
def slotVa (r : Ring) (idx : Word32) : Nat := r.base.toNat + 128 * (idx.toNat % r.size)
def readyVa (r : Ring) (idx : Word32) : Nat := r.ready.toNat + idx.toNat % r.size

end Ring

def emptyRing (n : Nat) : Ring :=
  { ring := n, base := 0, ready := 0, headm := 0, evt := 0, cfg := 0, stallt := 0, enabled := false, disabledByFault := false, range := false
    stall := false, tail := 0, head := 0, evcnt := 0, bounds := [], lastMove := 0, rsvd := 0, batch := [], refusals := [], batchEnd := 0 }

def ringAt (s : State) (n : Nat) : Ring := (s.rings.find? (fun r => r.ring == n)).getD (emptyRing n)

def setRing (s : State) (r : Ring) : State := { s with rings := upsert Ring.ring r s.rings }

/-- The descriptor of a ring obeys R72. -/
def ringOk (r : Ring) : Bool :=
  let c := r.cfg.toNat
  r.base.toNat % 128 == 0 && r.ready.toNat % 64 == 0 && r.headm.toNat % 8 == 0 && r.evt.toNat % 32 == 0 &&
  decide (3 ≤ c % 16) && decide (c % 16 ≤ 12) && bitsOf c 15 4 == 0 && decide (1 ≤ r.maxl) && decide (r.maxl ≤ 64) &&
  bitsOf c 31 23 == 0 && c / 2 ^ 48 == 0 && r.rsvd == 0

/-- The CFG word of a descriptor is written last: the ring is installed, or stays disabled (R72, R435); the job of the first ring
installed for it runs (assumption 12). DESIGN CHOICE (unsafe; assumption 98): the spec gives HEAD and TAIL their reset value alone, and a ring
installed again starts with both at 0. -/
def execRingInstall (ring : Fin 256) (cfg : Word) (s : State) : Result :=
  let r := ringAt s ring.val
  let r' := { r with cfg := cfg }
  if r.enabled then .next s
  else if !ringOk r' then .next (setRing s r')
  else
    let s := setRing s { emptyRing ring.val with
      base := r.base, ready := r.ready, headm := r.headm, evt := r.evt, stallt := r.stallt, cfg := cfg, enabled := true, lastMove := s.ctc }
    let j := jobAt s r'.asid
    .next (s.setJob { j with state := if j.state = 0 ∨ j.state = 5 then 1 else j.state, cancelled := j.cancelled && j.state != 0 && j.state != 5 })

/-- A CFG of zero removes the ring (R435). -/
def execRingRemove (ring : Fin 256) (s : State) : Result :=
  .next (setRing s { ringAt s ring.val with enabled := false, cfg := 0, stall := false, bounds := [], batch := [], refusals := [] })

/-- A ring event record and the host event that reports it (R80, R421); `fault` is set when its area does not translate (R78). -/
def ringEvent (s : State) (n cause code : Nat) (index : Word32) (detail : Nat) : State × Bool :=
  let r := ringAt s n
  let bs := leBytes 1 cause ++ leBytes 1 code ++ leBytes 2 n ++ leBytes 4 index.toNat ++ leBytes 8 s.ctc ++ leBytes 8 detail ++ leBytes 8 0
  match storeIn s r.asid (r.evt.toNat + 32 * (r.evcnt.toNat % 64)) bs with
  | some s' =>
    let r' := { r with evcnt := r.evcnt + 1 }
    (hostEvent (setRing s' r') 0x01 cause r.asid n r'.evcnt.toNat, false)
  | none => (s, true)

/-- A translation fault on a ring's structures disables it; the record's INDEX is that of the slot or ready byte (R78, R80). -/
def ringFaultAt (s : State) (n : Nat) (index : Word32) (va : Nat) : State :=
  let s := setRing s { ringAt s n with enabled := false, disabledByFault := true, stall := false }
  (ringEvent s n 0x05 0 index va).1

/-- A fault on HEADM, on the event area or on what lies at HEAD. DESIGN CHOICE (unsafe; assumption 98): the record's INDEX, 'ring index
concerned', is then HEAD (R80). -/
def ringFault (s : State) (n : Nat) (va : Nat) : State := ringFaultAt s n (ringAt s n).head va

/-- Record an event, or disable the ring when its event area does not translate. -/
def recordRing (s : State) (n cause code : Nat) (index : Word32) (detail : Nat) : State :=
  match ringEvent s n cause code index detail with
  | (s, false) => s
  | (s, true) => ringFault s n ((ringAt s n).evt.toNat + 32 * ((ringAt s n).evcnt.toNat % 64))

/-- A write of TAIL (R76). -/
def execTailWrite (ring : Fin 256) (v : Word32) (s : State) : Result :=
  let r := ringAt s ring.val
  if !r.enabled || v == r.tail || decide (2 ^ 31 ≤ (v - r.tail).toNat) then .next s
  else if decide (r.size < (v - r.head).toNat) then
    .next (recordRing (setRing s { r with range := true }) ring.val 0x04 0 v 0)
  else
    .next (setRing s { r with
      tail := v, lastMove := if r.tail = r.head then s.ctc else r.lastMove
      bounds := if r.bounds.length < 64 then r.bounds ++ [v] else r.bounds.take 63 ++ [v] })

/-! ## The checks of a batch (R53, R55) -/

/-- A null packet: every field but DONE is zero (R77). -/
def isNull (bs : List Byte) : Bool := (bs.take 0x68).all (· == 0) && (bs.drop 0x70).all (· == 0)

/-- The dimensions named by ORDER are a permutation, zero beyond ND (R55). -/
def orderOk (p : LaunchPacket) : Bool :=
  (List.range (p.nd + 1)).all (fun d => (List.range (p.nd + 1)).any (fun j => p.order j == d)) &&
  (List.range 4).all (fun j => decide (j ≤ p.nd) || p.order j == 0)

/-- Codes of the packet's own checks, its graph links apart (R55). DESIGN CHOICE (unsafe; assumption 98): the header of a KREF that is not 64-byte
aligned is not looked at, so that packet is refused with 8 whatever lies there. -/
def packetCodes (s : State) (asid : BitVec 16) (ready : Nat) (p : LaunchPacket) : List Nat :=
  let badExt := (List.range 4).any (fun d => if d ≤ p.nd then p.extent d == 0 || decide (2 ^ 20 < p.extent d) else p.extent d != 0)
  let badStride := (List.range 4).any (fun d => decide (p.nd < d) && p.pstr.getD d 0 != 0)
  let noplBad := p.nopl && (p.pbase != 0 || p.pstr.any (· != 0))
  (if badExt || decide (2 ^ 32 < p.units) then [4] else []) ++ (if orderOk p then [] else [5]) ++
  (if noplBad || badStride then [7] else []) ++
  (if p.reserved || p.kref.toNat % 64 != 0 || p.done.toNat % 8 != 0 || ready != 1 then [8] else []) ++
  (if p.done != 0 && p.done.toNat % 8 == 0 && (readIn s asid p.done.toNat 8).isNone then [0x0A] else []) ++
  (if p.kref.toNat % 64 != 0 then [] else kernelCodes s asid p.kref.toNat (headerCodes s asid))

/-- A packet of a batch: its index, its position, its bytes and its ready byte. -/
structure BatchItem where
  idx : Word32
  pos : Nat
  null : Bool
  pkt : LaunchPacket
  ready : Nat
  deriving DecidableEq, Repr

/-- The positions a packet's links name (R53). -/
def linksOf (x : BatchItem) : List Nat := (x.pkt.succ.filter (· != 0)).map (fun d => x.pos + d)

/-- Links naming a position. -/
def namedBy (b : List BatchItem) (pos : Nat) : List BatchItem := b.filter (fun x => (linksOf x).contains pos)

/-- A packet's own fault under R53: a link outside the batch or to another graph, or a wrong NPRED. `gone` holds the indices named by the
packets of the batch that have had their turn. -/
def linkBad (gone : List Nat) (b : List BatchItem) (x : BatchItem) : Bool :=
  (linksOf x).any (fun q => match b.find? (fun y => y.pos == q) with
    | some y => y.pkt.graph != x.pkt.graph
    | none => true) ||
  (b.map (fun y => (linksOf y).countP (· == x.pos))).sum + gone.countP (· == x.idx.toNat) != x.pkt.npred

/-- Spread refusal along links, n times over (R53). -/
def spreadRefusals (b : List BatchItem) : Nat → List Nat → List Nat
  | 0, r => r
  | n + 1, r => spreadRefusals b n (r ++ (b.filter (fun x => !r.contains x.pos && (namedBy b x.pos).any (fun y => r.contains y.pos))).map BatchItem.pos)

/-- The codes of the checks that a packet fails itself; of a null packet only its ready byte is checked (R53, R55, R73, R77). -/
def ownCodes (s : State) (asid : BitVec 16) (gone : List Nat) (b : List BatchItem) (x : BatchItem) : List Nat :=
  if x.null then (if x.ready != 1 then [8] else [])
  else packetCodes s asid x.ready x.pkt ++ (if linkBad gone b x then [6] else [])

/-- The packets that fall with those at some positions, with their codes (R53). DESIGN CHOICE (unsafe; assumption 98): a null packet that a refused
packet's links reach falls with it, and its NPRED, which is 0, is not held against the links that name it; the spec does not say how links and null
packets meet. -/
def refuseFrom (s : State) (asid : BitVec 16) (gone : List Nat) (b : List BatchItem) (first : List Nat) : List (Nat × Nat) :=
  let all := spreadRefusals b b.length first
  (b.filter (fun x => all.contains x.pos)).map (fun x => (x.idx.toNat, (lowest (ownCodes s asid gone b x)).getD 6))

/-- The refused packets of a batch with their codes. -/
def batchRefusals (s : State) (asid : BitVec 16) (b : List BatchItem) : List (Nat × Nat) :=
  refuseFrom s asid [] b ((b.filter (fun x => ownCodes s asid [] b x != [])).map BatchItem.pos)

/-- The packets of a ring from HEAD to a boundary; an error gives the index and the address that does not translate. -/
def readBatch (s : State) (r : Ring) : Nat → Nat → Except (Word32 × Nat) (List BatchItem)
  | 0, _ => .ok []
  | n + 1, pos =>
    let idx := r.head + BitVec.ofNat 32 pos
    match readIn s r.asid (r.slotVa idx) 128, readIn s r.asid (r.readyVa idx) 1 with
    | some bs, some rb => match readBatch s r n (pos + 1) with
      | .ok l => .ok (⟨idx, pos, isNull bs, packetOf bs, leNat rb⟩ :: l)
      | .error e => .error e
    | none, _ => .error (idx, r.slotVa idx)
    | _, none => .error (idx, r.readyVa idx)

/-! ## Admission (R77) -/

/-- Consume the packet at HEAD: its ready byte is cleared and HEAD and HEADM advance (R77). -/
def consumeHead (s : State) (n : Nat) : State :=
  let r := ringAt s n
  let h := r.head + 1
  match storeIn s r.asid (r.readyVa r.head) [0] with
  | none => ringFault s n (r.readyVa r.head)
  | some s =>
    let s := setRing s { r with
      head := h, lastMove := s.ctc, stall := false, bounds := if r.batchEnd = h then r.bounds.drop 1 else r.bounds
      batch := if r.batchEnd = h then [] else r.batch, refusals := if r.batchEnd = h then [] else r.refusals }
    match storeIn s r.asid r.headm.toNat (leBytes 8 h.toNat) with
    | none => ringFault s n r.headm.toNat
    | some s => s

/-- A free launch slot of the 64. DESIGN CHOICE (unsafe; assumption 98): the lowest, where the spec says only that one is free (R77). -/
def freeSlot (s : State) : Option Nat := (List.range 64).find? (fun n => !s.slots.any (fun l => l.slot == n))

/-- The first 256 bytes of code, or all of it if shorter, up to the first page that does not translate (R77). -/
def copyCode (s : State) (asid : BitVec 16) (va : Nat) : Nat → List Byte
  | 0 => []
  | n + 1 => match readIn s asid va 4 with
    | some w => w ++ copyCode s asid (va + 4) n
    | none => []

/-- A packet that has had its turn is recorded with the indices its links name (R53). -/
def noteTurn (s : State) (n : Nat) (x : BatchItem) (admitted : Option Nat) : State :=
  let r := ringAt s n
  let links := (x.pkt.succ.filter (· != 0)).map (fun d => (x.idx + BitVec.ofNat 32 d).toNat)
  setRing s { r with batch := r.batch ++ [(x.idx.toNat, admitted, links)] }

/-- The packet at HEAD takes a launch slot (R48, R53, R77). DESIGN CHOICE (unsafe; assumption 98): its pending count starts with the
predecessors that hold or held a launch slot; the spec starts it at NPRED and names no retirement that would lower it for a predecessor consumed as
cancelled (R98). -/
def admitLaunch (s : State) (n slot : Nat) (x : BatchItem) (h : KernelHeader) (t : Trailer) : State :=
  let r := ringAt s n
  let preds := r.batch.filterMap (fun (p : Nat × Option Nat × List Nat) =>
    p.2.1.filter (fun a => p.2.2.contains x.idx.toNat && s.slots.any (fun l => l.admitted == a)))
  let total := x.pkt.units
  let l : LaunchSlot := {
    slot := slot, ring := n, index := x.idx.toNat, asid := r.asid, pkt := x.pkt, header := h, trailer := t, pending := preds.length
    count := total, nbad := 0, failed := false, cancelled := false, late := false, early := false, walked := 0, total := total
    admitted := s.admissions, preds := preds, stopped := false, skips := [], dropped := false
    copied := copyCode s r.asid (x.pkt.kref.toNat + 64) (Nat.min 64 h.codelen), code := s.mem }
  let j := jobAt s r.asid
  let s := s.setJob { j with graphs := if x.pkt.graph = 0 then j.graphs else countIn j.graphs x.pkt.graph false
                             phases := countIn j.phases x.pkt.phase (decide (x.pkt.phase < j.highPhase))
                             highPhase := Nat.max j.highPhase x.pkt.phase }
  let s := noteTurn { s with slots := upsert LaunchSlot.slot l s.slots, admissions := s.admissions + 1 } n x (some l.admitted)
  let s := consumeHead s n
  let s := sealPhases s r.asid (fun p => decide (p < x.pkt.phase))
  if decide (x.pkt.deadline.toNat ≤ s.ctc) then passDeadline s slot else s

/-- The packet at HEAD is consumed with no launch slot, its word reading this status and code (R55, R77, R98). -/
def consumeWith (s : State) (n : Nat) (x : BatchItem) (status code : Nat) : State :=
  let asid := (ringAt s n).asid
  let s := writeDone s asid x.pkt.done.toNat status code 0
  let s := if status = 4 then recordRing s n 0x01 code x.idx x.pkt.kref.toNat else s
  let j := jobAt s asid
  let s := if x.null || jobState s asid == 0 then s else s.setJob { j with
    graphs := if x.pkt.graph = 0 then j.graphs else noteStatus j.graphs x.pkt.graph status true
    phases := noteStatus j.phases x.pkt.phase status (decide (j.highPhase ≤ x.pkt.phase)) }
  let s := consumeHead (noteTurn s n x none) n
  if x.pkt.graph = 0 then s else retireGraph s asid x.pkt.graph

/-- The job's graph or phase of a packet has been cancelled (R98). -/
def packetCancelled (s : State) (asid : BitVec 16) (p : LaunchPacket) : Bool :=
  let j := jobAt s asid
  decide (3 ≤ j.state) || j.cancelled || (p.graph != 0 && (findLevel j.graphs p.graph).any LevelCount.cancelled) ||
  (findLevel j.phases p.phase).any (fun l => l.cancelled && !l.isSealed)

/-- The packet at HEAD is checked as it stands at its own turn, and one that fails then takes those its links reach with it (R53, R55, R74). -/
def recheck (s : State) (n : Nat) (b : List BatchItem) (x : BatchItem) : State :=
  let r := ringAt s n
  let gone := r.batch.flatMap (fun p => p.2.2)
  if ownCodes s r.asid gone b x = [] then s
  else setRing s { r with refusals := refuseFrom s r.asid gone b [x.pos] ++ r.refusals }

/-- One ring's turn: none when its packet at HEAD can be neither admitted nor refused (R77). DESIGN CHOICE (unsafe; assumption 98): a packet of a
cancelled level that is refused, or is null, is consumed as refused or null: the spec does not say which comes first (R98). -/
def ringTurn (s : State) (n : Nat) : Option State :=
  let r := ringAt s n
  if !r.enabled || r.head == r.tail || (jobState s r.asid == 2 && !(jobAt s r.asid).cancelled) then none
  else
    let stop := r.bounds.headD r.tail
    match readBatch s r (stop - r.head).toNat 0 with
    | .error (i, va) => some (ringFaultAt s n i va)
    | .ok b =>
      if b.any (fun x => x.ready == 0) then none
      else match b with
        | [] => none
        | x :: _ =>
          let s := if r.batchEnd = stop then recheck s n b x
            else setRing s { r with batchEnd := stop, batch := [], refusals := batchRefusals s r.asid b }
          match (ringAt s n).refusals.find? (fun q => q.1 == x.idx.toNat) with
          | some q => some (consumeWith s n x 4 q.2)
          | none =>
            if x.null then some (consumeWith s n x 0 0)
            else if packetCancelled s r.asid x.pkt then some (consumeWith s n x 2 0)
            else match freeSlot s, readKernel s r.asid x.pkt.kref.toNat with
              | some k, some (h, t) =>
                if (s.slots.filter (fun l => l.ring == n)).length < r.maxl && jobState s r.asid == 1 then some (admitLaunch s n k x h t) else none
              | some _, none => some (consumeWith s n x 4 0x0A)
              | none, _ => none

/-- The ring served next: the first in round-robin order that has a turn (R77). -/
def firstTurn (s : State) : List Nat → Option (Nat × State)
  | [] => none
  | n :: rest => match ringTurn s n with
    | some s' => some (n, s')
    | none => firstTurn s rest

/-- What a turn reads of the batch at HEAD, up to the first place that does not translate (R223, R241). -/
def batchReads (s : State) (r : Ring) : Nat → Nat → List (Nat × Nat)
  | 0, _ => []
  | n + 1, pos =>
    let idx := r.head + BitVec.ofNat 32 pos
    [(r.slotVa idx, 128), (r.readyVa idx, 1)] ++
      if (readIn s r.asid (r.slotVa idx) 128).isSome && (readIn s r.asid (r.readyVa idx) 1).isSome then batchReads s r n (pos + 1) else []

/-- What a turn's reads of the batch, and of the kernel that it admits, leave behind in the slice store. -/
def noteAdmission (before : State) (n : Nat) (s : State) : State :=
  let r := ringAt before n
  let batch := (batchReads before r ((r.bounds.headD r.tail) - r.head).toNat 0).foldl (fun s p => noteRead s r.asid p.1 p.2) s
  match s.slots.find? (fun l => l.admitted == before.admissions) with
  | none => batch
  | some l =>
    (List.range (l.copied.length / 4)).foldl (fun s i => noteRead s r.asid (l.pkt.kref.toNat + 64 + 4 * i) 4) (noteRead batch r.asid l.pkt.kref.toNat 64)

def execAdmissionTurn (s : State) : Result :=
  let order := (s.rings.map Ring.ring).filter (fun n => decide (s.lastRing < n)) ++ (s.rings.map Ring.ring).filter (fun n => decide (n ≤ s.lastRing))
  match firstTurn s order with
  | some (n, s') => .next { noteAdmission s n s' with lastRing := n }
  | none => .next s

/-- The watchdog opens a stall episode (R81); a ready byte that does not translate disables the ring (R78). DESIGN CHOICE (unsafe; assumption 98):
where the slot at HEAD is published and another of its batch is not, neither cause fits, and STALL_SLOT is recorded. -/
def execRingStallEpisode (ring : Fin 256) (s : State) : Result :=
  let r := ringAt s ring.val
  if r.enabled && !r.stall && r.stallt != 0 && r.tail != r.head && jobState s r.asid == 1 && decide (r.lastMove + r.stallt.toNat ≤ s.ctc) then
    match readIn s r.asid (r.readyVa r.head) 1 with
    | some bs => .next (recordRing (setRing s { r with stall := true }) ring.val (if leNat bs = 0 then 0x02 else 0x03) 0 r.head 0)
    | none => .next (ringFault s ring.val (r.readyVa r.head))
  else .next s

/-! ## The match table (R82, R83) -/

def emptyMatch (n : Nat) : MatchEntry :=
  { idx := n, tag := 0, len := 0, count := 0, asid := 0, armed := false, done := false, err := false, recAddr := 0, task := none }

def matchAt (s : State) (n : Nat) : MatchEntry := (s.matches_.find? (fun m => m.idx == n)).getD (emptyMatch n)

def setMatch (s : State) (m : MatchEntry) : State := { s with matches_ := upsert MatchEntry.idx m s.matches_ }

/-- A record's slot number holds an unretired launch of the space. -/
def launchOfTask (s : State) (asid : BitVec 16) (bs : List Byte) : Option LaunchSlot :=
  s.slots.find? (fun l => l.slot == bitsOf (fieldOf bs 0x30 8) 53 48 && l.asid == asid)

/-- ARM is written with 1 (R83). DESIGN CHOICE (unsafe; assumption 98): an armed entry ignores it, a successful arm clears ERR, and a failed one
leaves COUNT and DONE; the spec says none of these. -/
def execMatchEntryArm (e : Fin 64) (s : State) : Result :=
  let m := matchAt s e.val
  if m.armed then .next s
  else
    let bad := .next (setMatch s { m with err := true, armed := false })
    if m.recAddr.toNat % 64 != 0 then bad
    else match readIn s m.asid m.recAddr.toNat 64 with
      | none => bad
      | some bs => match launchOfTask s m.asid bs with
        | none => bad
        | some l =>
          if !taskClean bs then bad
          else .next (raiseCount (setMatch s { m with armed := true, done := false, err := false, count := 0
                                                      task := some (freshTask (taskInfo m.asid l.slot bs)) }) l.slot)

/-- n bytes of a tagged message have become visible: the lowest matching armed entry counts them and, at LEN, releases its record (R83). DESIGN CHOICE
(unsafe; assumption 98): a LEN of 0, outside the range R82 gives, releases the record at the first matching write. -/
def countMatch (s : State) (tag : Word32) (asid : BitVec 16) (n : Nat) : State :=
  match s.matches_.find? (fun m => m.armed && m.tag == tag && m.asid == asid) with
  | none => s
  | some m =>
    let c := m.count.toNat + n
    if c < m.len.toNat then setMatch s { m with count := BitVec.ofNat 32 c }
    else
      let s := setMatch s { m with count := BitVec.ofNat 32 c, armed := false, done := true, task := none }
      match m.task with
      | some r => offerTask s r (launchCluster s r.info.slot)
      | none => s

def execMatchWriteArrival (tag : Word32) (asid : BitVec 16) (n : Nat) (s : State) : Result := .next (countMatch s tag asid n)

/-- The deadline of a launch passes as the CTC comes to it (R52, R85). -/
def execDeadlinePass (slot : Fin 64) (s : State) : Result := .next (passDeadline s slot.val)

/-! ## LVL.CANCEL (R369) -/

/-- What a cancel at a level does to the issuer's job; the job level is done by the caller. -/
def cancelAt (s : State) (lv : CancelLevel) (v : Nat) (job : State → BitVec 16 → State) : State :=
  let asid := s.ctx.info.asid
  match lv with
  | .unit => cancelUnit s s.ctx.info.slot v
  | .launch => cancelLaunch s s.ctx.info.slot
  | .graph => cancelGraph s asid (v % 2 ^ 32)
  | .phase => cancelPhase s asid (v % 2 ^ 32)
  | .job => job s asid

end Sys2Proof.Machine
end

