-- ==== Sys2Proof/Machine/Branches.lean ====
section
/-! DEFINITION. Control transfers in both slices (R105, R106, R141, R142), predictions and their resolution (R152 to R155),
hardware loops' start (R144, R185) and the claims on vq (R149 to R151). -/

namespace Sys2Proof.Machine

/-- The slot and loop rules of R106 on a transfer in its slice. -/
def badTransfer (s : State) (side : Slice) : Bool := inSlot s.ctx side || slotsLeaveBody s side

/-- The words of code from an address up that begin a VLOOP whose body ends inside the transfer at `a` or its slots: address of the last body word. -/
def loopsInto (s : State) (a : Nat) : Nat → Nat → Bool
  | 0, _ => false
  | n + 1, b =>
    if a ≤ b then false
    else match codeWord s b with
      | none => loopsInto s a n (b + 4)
      | some w =>
        let stop := b + 4 * bitsOf w 16 5
        (w / 2 ^ 25 == 0x73 && decide (a ≤ stop) && decide (stop < secondSlot s a)) || loopsInto s a n (b + lengthOfMajor (w / 2 ^ 25))

/-- A body of the execute slice's loops may end inside the transfer at the control boundary: the control slice waits for the execute slice there,
so that a trap of R106 finds neither slice past the word (R104, R121, R389; assumption 94). -/
def meetsExecute (s : State) : Bool :=
  let a := s.ctx.pcc.toNat
  let covers (r : LoopRegs) : Bool := r.active && decide (r.actStart.toNat ≤ a) && decide (a ≤ r.actStop.toNat) && decide (r.actStop.toNat < secondSlot s a)
  covers s.ctx.vloopA || covers s.ctx.vloopB || loopsInto s a ((a - s.ctx.codeBase) / 4 + 1) s.ctx.codeBase

/-- The execute slice stands at the word at the control boundary, at the same point of program order. -/
def slicesMeet (c : Context) : Bool := c.pcx == c.pcc && c.stretchX == c.stretchC

/-- The loop rule of R106 in the execute slice, on the transfer at the control boundary: once both slices stand there it traps. -/
def orMeet (s : State) (k : Result) : Result :=
  if meetsExecute s && canIssue s .control && !runAhead s.ctx then
    (if !slicesMeet s.ctx then .next s else if slotsLeaveBody s .execute then .next (trapSync s .control .illegal) else k)
  else k

/-- Push the transfer at the control boundary to bq and start its redirection (R141, R110). -/
def pushTransfer (s : State) (taken : Bool) (target : Word) (tagged : Bool) : State :=
  let after := BitVec.ofNat 64 (afterSlots s s.ctx.pcc.toNat)
  s.mod (fun c => { c with
    bq := c.bq ++ [⟨c.pcc, taken, if taken || tagged then target else 0, tagged⟩]
    redirC := some ⟨after, target, taken⟩ })

/-- The control half of a transfer whose outcome is known: ILLEGAL, then ALIGN, then bq's room; `link` receives the address
after the second slot (R62, R106, R141). -/
def transferC (s : State) (gs : List (Fin 32)) (cs : List (Fin 4)) (taken : State → Bool) (target : State → Word)
    (link : Option (Fin 32)) : Result :=
  orTrap s .control (badTransfer s .control) .illegal (orMeet s (
    if canIssue s .control && cs.any (voteLost s.ctx) then .next (trapSync s .control .queue)
    else if stalledC s gs cs then .next s
    else if taken s && outsideCode s.ctx (target s).toNat then .next (trapSync s .control .illegal)
    else if taken s && (target s).toNat % 4 != 0 then .next (trapSync s .control .align)
    else if bqCap ≤ s.ctx.bq.length then .next s
    else
      let s' := pushTransfer s (taken s) (target s) false
      let s' := match link with
        | some r => s'.mod (Context.setG r (BitVec.ofNat 64 (afterSlots s s.ctx.pcc.toNat)))
        | none => s'
      .next (retire s' .control 4 true)))

/-- The execute half: pop the oldest untagged bq entry and follow it (R105, R142). The control half has seen to it that its slots leave no body of
the execute slice's loops (R106); where a handler has changed the loops since, the word traps as the control slice's (R104; assumption 94). -/
def transferX (s : State) : Result :=
  if !canIssue s .execute || inSlot s.ctx .execute then .next s
  else match s.ctx.bq with
    | [] => if s.ctx.endedC then .next (trapSync s .execute .queue) else .next s
    | e :: rest =>
      if e.tagged then .next s
      else if e.addr != s.ctx.pcx then .next (trapSync s .execute .queue)
      else if slotsLeaveBody s .execute then .next (trapSync s .control .illegal)
      else
        let s := (landDue s).mod Context.tick
        let after := BitVec.ofNat 64 (afterSlots s s.ctx.pcx.toNat)
        .next (settle (retire (s.mod (fun c => { c with bq := rest, redirX := some ⟨after, e.target, e.taken⟩ })) .execute 4 true))

/-- BR in the control slice: a hint matters only while the c bit is pending (R141, R152). -/
def branchC (s : State) (b c : Fin 4) (sense : Bool) (hint : Option Bool) : Result :=
  let target := s.ctx.getB b
  match hint with
  | some p =>
    if s.ctx.pendingC c && s.ctx.prediction.isNone && s.ctx.unresolved.isNone && target.toNat % 4 == 0 &&
        !outsideCode s.ctx target.toNat then
      orTrap s .control (badTransfer s .control) .illegal (orMeet s (
        if !canIssue s .control || decide (bqCap ≤ s.ctx.bq.length) then .next s
        else
          let s' := pushTransfer s p target true
          let after := BitVec.ofNat 64 (afterSlots s s.ctx.pcc.toNat)
          .next (retire (s'.mod (fun k => { k with spec := [], prediction := some ⟨k.pcc, target, c, sense, p, after⟩ })) .control 4 true)))
    else transferC s [] [c] (fun s => s.ctx.getC c == sense) (fun s => s.ctx.getB b) none
  | none => transferC s [] [c] (fun s => s.ctx.getC c == sense) (fun s => s.ctx.getB b) none

/-- A both-slice word in the slice that runs it. -/
def bothSlices (s : State) (control execute : Result) : Result :=
  match s.side with
  | .control => control
  | .execute => execute

/-- Continue on a resolved branch's path after its slots (R146, R147, R154). -/
def continueAfter (s : State) (b : Branch) (taken : Bool) : State :=
  if taken then jumpTo s .control b.target
  else stepSequence s .control b.addr.toNat (nextOf s .control b.after.toNat)

/-- Tagged entries and loads become as issued at their original clocks (R154). -/
def clearTags (c : Context) : Context :=
  { c with bq := c.bq.map (fun e => { e with tagged := false }), lq := c.lq.map (fun e => { e with tagged := false })
           accesses := c.accesses.map (fun a => { a with tagged := false }) }

/-- Drop the tagged loads from an identifier up, and the tagged lq entries from that of the first of them up, filled or not (R154). -/
def dropTagged (acc entry : Nat) (c : Context) : Context :=
  { c with accesses := c.accesses.filter (fun a => !(a.tagged && decide (acc ≤ a.id)))
           lq := c.lq.filter (fun e => !(e.tagged && decide (entry ≤ e.id))) }

/-- The open prediction resolves as its c bit does (R154). A fetch of the run-ahead that found no translation is forgotten: the slice still stands
at its instruction and fetches it again. What the run-ahead did to the loop levels counts when it is confirmed, up to the
first marked load, and is undone when it was wrong. -/
def resolvePrediction (s : State) (b : Branch) : State :=
  let actual := s.ctx.getC b.c == b.sense
  if actual = b.predicted then
    let s := s.mod (fun c => { c with prediction := none })
    let s := if b.predicted ∧ s.ctx.redirC.isNone then s.mod (Context.commonPoint .control (b.target - 1)) else s
    let s := s.mod (fun c => { c with accesses := c.accesses.filter (fun a => !(a.tagged && a.kind == .fetch && a.stage == .dropped)) })
    match s.ctx.accesses.find? (fun a => a.tagged && a.stage == .dropped) with
    | none => s.mod (fun c => { clearTags c with spec := [] })
    | some m => s.mod (fun c => { clearTags (dropTagged m.id m.qi (loopsBack m.qi c)) with pcc := m.iaddr })
  else
    let s := s.mod (fun c =>
      let c := dropTagged 0 0 (loopsBack 0 c)
      { c with prediction := none
               bq := c.bq.map (fun e => if e.tagged then { e with tagged := false, taken := actual, target := if actual then b.target else 0 } else e) })
    match s.ctx.redirC with
    | some r => s.mod (fun c => { c with redirC := some { r with taken := actual } })
    | none => continueAfter s b actual

/-- The branch a trap left unresolved: once its vote is in and its slots are done, its bq entry is pushed; a vote that can no longer come
traps with QUEUE (R109, R151, R155). -/
def resolveUnresolved (s : State) : Option State :=
  match s.ctx.unresolved with
  | none => none
  | some b =>
    if voteLost s.ctx b.c ∧ b.after.toNat ≤ s.ctx.pcc.toNat then some (trapSync s .control .queue)
    else if s.ctx.pcc.toNat < b.after.toNat ∨ s.ctx.pendingC b.c ∨ bqCap ≤ s.ctx.bq.length then none
    else
      let taken := s.ctx.getC b.c == b.sense
      let s := s.mod (fun c => { c with unresolved := none, bq := c.bq ++ [⟨b.addr, taken, if taken then b.target else 0, false⟩] })
      some (continueAfter s b taken)

/-! ## Loops (R144, R145, R185) -/

/-- The first instruction after a body, stepping over whole instructions (R144). -/
def skipBody (s : State) (stop : Nat) : Nat → Nat → Nat
  | 0, a => a
  | n + 1, a => if stop < a then a else skipBody s stop n (a + lengthAt s a)

/-- Start a loop of `len` words after the word at a slice's pc; a count of 0, or a body with no word of the slice, continues
after the body (R144, R145, R185). -/
def startLoop (s : State) (side : Slice) (l : LoopLevel) (count : Word) (len : Nat) : State :=
  let a := s.ctx.pc side
  let start := a + 4
  let stop := a + BitVec.ofNat 64 (4 * len)
  let empty := decide (stop.toNat < nextOf s side start.toNat)
  let run := count != 0 && !empty
  let r : LoopRegs := ⟨if empty then 0 else count, start, stop, start, stop, run⟩
  let s := s.mod (fun c => (c.setLevel side l r).logIssue side a)
  let j := nextOf s side (if run then start.toNat else skipBody s stop.toNat (len + 1) start.toNat)
  stepSequence s side a.toNat j

/-- LOOP and LOOPI (R106, R144). -/
def loopC (s : State) (l : LoopLevel) (gs : List (Fin 32)) (count : Context → Word) (len : Nat) : Result :=
  orTrap s .control (len == 0 || inSlot s.ctx .control) .illegal (
    if stalledC s gs [] then .next s else .next (startLoop s .control l (count s.ctx) len))

/-! ## Votes (R149 to R151) -/

/-- The control half of VANY and VALL: the c bit becomes pending on the next claim (R150). -/
def claimVote (s : State) (c : Fin 4) : Result :=
  if canIssue s .control && voteLost s.ctx c then .next (trapSync s .control .queue)
  else if stalledC s [] [c] then .next s
  else .next (retire (s.mod (fun k => { k with votes := k.votes ++ [c] })) .control 4 true)

/-- VCNT's control half and POPV: wait until the entry is filled and every earlier claim has popped; an entry that can no longer be pushed
traps with QUEUE (R109, R150). -/
def popVq (s : State) (d : Fin 32) (both : Bool) : Result :=
  if stalledC s [] [] then .next s
  else if s.ctx.endedX && decide (s.ctx.vq.length ≤ s.ctx.votes.length) then .next (trapSync s .control .queue)
  else if s.ctx.votes != [] then .next s
  else match s.ctx.vq with
    | [] => .next s
    | e :: rest =>
      if e.filled then .next (retire (s.mod (fun c => { c.setG d e.data with vq := rest })) .control 4 both) else .next s

/-- An execute half pushes its value to vq with latency 1 (R149). -/
def pushVote (s : State) (value : Nat → Context → Nat) : Result :=
  let s' := landDue s
  if !canIssue s .execute || waitsForControl s isOrderedSysWord || decide (rowCap ≤ s'.ctx.vq.length) then .next s
  else
    let w := s.lanes
    let s' := s'.mod Context.tick
    .next (retire (s'.mod (fun c => { c with
      vq := c.vq ++ [⟨c.nextId, 0, false⟩], nextId := c.nextId + 1
      latches := c.latches ++ [⟨0x11, 0, 0, c.nextId, BitVec.allOnes 64, BitVec.ofNat 1024 (value w c), c.stretchX, c.logX.length, []⟩] })) .execute 4 true)

end Sys2Proof.Machine
end

