-- ==== Sys2Proof/Machine/RowWriters.lean ====
section
/-! DEFINITION. Streams as they stand, the end of a frame (R316), and the slices' row writers (R311). -/

namespace Sys2Proof.Machine

/-! ## Streams as they stand -/

def streamAt (s : State) (n : Nat) : Option Stream := s.streams.find? (fun st => st.entry == n)

def setStream (s : State) (st : Stream) : State := { s with streams := upsert Stream.entry st s.streams }

namespace Stream

/-- Flits of a row, and of a frame (R311, R321). -/
def fpr (st : Stream) : Nat := (st.cols * st.etype.bytes + 63) / 64
def frameFlits (st : Stream) : Nat := st.rows * st.fpr

/-- Two words name one endpoint: a Gusset's port is one, whichever of its contexts holds it (R305, R306). -/
def sameEnd (a b : Endpoint) : Bool := a.kind == b.kind && a.ident == b.ident && a.port == b.port && a.kind != .rowWriter

end Stream

/-- A frame of a stream is complete: its flag counts (R316). -/
def frameDone (s : State) (st : Stream) : State :=
  let s := setStream s { st with frames := st.frames + 1 }
  if st.fen then forOwner s st.owner (fun s => countFlag s st.flag 1) else s

/-! ## Row writers (R311) -/

/-- A page breaks what a row writer's record says of swizzle and stride (R69, R71). -/
def writerLimits (swz stride : Nat) (a : PageAttr) : Bool := a.swz != swz || (a.fmt != .raw && stride % 128 != 0)

/-- The row writer of a stream may write: every access of CLASS that its binder issued before it bound the stream is performed (R316, R356). -/
def writerForked (s : State) (st : Stream) : Bool :=
  let c := s.ctxAt st.owner
  (c.accesses ++ c.kept.flatten).all (fun a =>
    decide (st.fork ≤ a.id) || a.kind == .fetch || a.performed || !(a.cls == st.cls || a.tso || a.stage == .walking))

/-- Where a row writer's next flit goes: its page, its address and its place in DRAM, or the fault with its address (R311). -/
def writerAim (s : State) (st : Stream) : Except (Cause × Nat) (PageAttr × Nat × Nat) :=
  let k := st.taken % st.frameFlits
  let va := st.cons.va + k / st.fpr * st.stride + 64 * (k % st.fpr)
  match resolveOut s st.asid va with
  | .error c => .error (c, va)
  | .ok a =>
    if permFault a .write false then .error (.perm, va)
    else if !fmtMatches a.fmt st.etype || writerLimits st.swz st.stride a then .error (.shape, va)
    else match placeOf s a va with
      | .dram pa => .ok (a, va, pa)
      | _ => .error (.bus, va)

/-- A row writer's write of the oldest flit it holds: the state, or the fault with its address (R311). -/
def writerFlit (s : State) (st : Stream) (f : BitVec 512) : Except (Cause × Nat) State :=
  match writerAim s st with
  | .error e => .error e
  | .ok (a, va, _) =>
    let n := Nat.min 64 (st.cols * st.etype.bytes - 64 * (st.taken % st.frameFlits % st.fpr))
    .ok (storeStream (reach s [] st.asid va) a va (cutCodes st.etype a st.planes (leBytes n f.toNat)))

/-- A row writer's fault tears its stream down and is recorded (R311). -/
def writerFault (s : State) (st : Stream) (c : Cause) (va : Nat) : State :=
  let k := st.taken % st.frameFlits
  let bytes := k / st.fpr * (st.cols * st.etype.bytes) + Nat.min (64 * (k % st.fpr)) (st.cols * st.etype.bytes)
  forOwner (dropStream s st) st.owner (fun s =>
    let s := writeRecord s 1 17 (if st.fen then st.flag.val else 0xFF) c.code bytes va
    sweep (if st.fen then countFlag s st.flag 1 else s))

/-- What a flit that lands, or that its row writer has written, does for its frame: `done` says that it is the frame's last (R316). -/
def flitDone (s : State) (st : Stream) (done : Bool) : State :=
  if done then frameDone s st else s

/-- The oldest flit that a row writer holds is written (R311, R316). -/
def rowWritten (s : State) (st : Stream) : State :=
  match st.landed with
  | [] => s
  | f :: rest => match writerFlit s st f with
    | .error (c, va) => writerFault s st c va
    | .ok s' =>
      let st' := Stream.flowCheck { st with landed := rest, taken := st.taken + 1 }
      flitDone (setStream s' st') st' ((st.taken + 1) % st.frameFlits == 0)

/-- The packet that takes a row writer's flit to its home slice, with slack 4,095 (R283, R311). -/
def rowPacket (st : Stream) (pa va : Nat) : Packet :=
  { id := 0, kind := .rowWrite, lead := false, urg := 0, va := va, src := sliceEndpoint st.slice, dst := sliceEndpoint (sliceOf pa), mask := oneClass st.cls.val
    slack := 4095, late := false, input := 0, ctx := nobody, acc := 2 ^ 8 * st.gen + st.entry, part := pa / 128 }

/-- A row writer performs the oldest flit it holds, in flit order: at its own slice on the spot, at another by a packet (R311, R316). -/
def rowTurn (s : State) (st : Stream) : State :=
  if st.landed = [] || st.writing || !writerForked s st then s
  else match writerAim s st with
    | .error (c, va) => writerFault s st c va
    | .ok (_, va, pa) =>
      if sliceOf pa = st.slice then rowWritten s st
      else if portRoom s (rowPacket st pa va) 1 then inject (setStream s { st with writing := true }) (rowPacket st pa va)
      else s

/-- A row writer's packet is granted at the home slice: the flit is written, if its stream still stands. -/
def rowPerform (s : State) (p : Packet) : State :=
  match s.streams.find? (fun st => st.writing && 2 ^ 8 * st.gen + st.entry == p.acc) with
  | some st => rowWritten s { st with writing := false }
  | none => s

end Sys2Proof.Machine
end

