-- ==== Sys2Proof/Machine/MemoryEvents.lean ====
section
/-! DEFINITION. The events of the memory side: page walks (R234, R391, R392), the chains' grants, waits and replies (R285, R289
to R297), the slices and window arbiters (R223, R350, R441), the peer endpoint, and what reaches a context: load replies, write
acknowledgments, landing results and vote pops (R112, R150, R253). -/

namespace Sys2Proof.Machine

/-! ## Faults offered (R391, R392) -/

/-- A faulted access of the context in focus with PAGE or PERM is offered, or declined where there is no room. -/
def offerOne (s : State) (a : Access) : State :=
  match a.stage with
  | .faulted c va =>
    if c = .page ∨ c = .perm then
      match offerFault s c a.kind.accCode va (endpointOf s.self) false a.id with
      | some (tok, s') => s'.mod (putAccess { a with stage := .offered c va tok })
      | none => s.mod (putAccess { a with stage := .declined c va })
    else s
  | _ => s

def offerFaults (s : State) : State := s.ctx.accesses.foldl offerOne s

/-! ## Walks -/

/-- The accesses of the context in focus that wait for a walk, with the address each needs. -/
def walkers (s : State) : List (Access × Nat) :=
  s.ctx.accesses.filterMap (fun a => if a.stage = .walking then
    (match planAccess s a with
      | .walk va => some (a, va)
      | _ => none) else none)

/-- A fetch whose translation is held now. -/
def fetched (s : State) (a : Access) : Bool :=
  a.kind == .fetch && a.stage == .walking &&
  match planAccess s a with
  | .ready _ => true
  | _ => false

/-- A fetch's access ends once the translation is held (R391). -/
def dropFetched (s : State) : State := s.mod (fun c => { c with accesses := c.accesses.filter (fun a => !fetched s a) })

/-- Every waiting walk of the context in focus for one page ends with the fault of the walk they wait on (R153, R242). -/
def failWalkers (asid : BitVec 16) (page : Nat) (c : Cause) (s : State) : State :=
  if s.ctx.info.asid != asid then s
  else (walkers s).foldl (fun s p => if p.2 / 2 ^ 12 != page then s else
    s.mod (putAccess (p.1.faultAt c (BitVec.ofNat 64 p.2)))) s

/-- Every context that shares a context's miss table: those of its cluster's cores, or of its Gusset (R242). -/
def tableSharers (n : Nat) : List Nat := if n < 640 then (List.range 4).map (fun i => n / 4 * 4 + i) else [n]

/-- The slack of a walk's packets: the least left to the requests that wait for its page (R242, R287). -/
def walkSlack (s : State) (a : Access) (va : Nat) : Nat :=
  (tableSharers s.self).foldl (fun m n =>
    let x := s.focus n
    if x.ctx.info.asid != s.ctx.info.asid then m
    else ((walkers x).filter (fun p => p.2 / 2 ^ 12 == va / 2 ^ 12)).foldl (fun m p => Nat.min m p.1.slack) m) a.slack

/-- The n-th waiting walk completes: its translation is kept, or it faults, and every miss that waits on it completes with it (R153, R234, R240,
R242); its reads are in the slice store, and the late ones count (R241, R293). -/
def execPageWalkComplete (n : Nat) (s : State) : Result :=
  match (walkers s)[n]? with
  | none => .next s
  | some (a, va) =>
    let asid := s.ctx.info.asid
    let s' := walkFill (walkLates s ((tlbPlaces s).headD outPlace) (walkSlack s a va) a.level va) (tlbPlaces s) asid va
    let finish (s : State) : State := match walk s' asid va with
      | .ok _ => offerFaults (settle (dropFetched s))
      | .error c => offerFaults (settle (failWalkers asid (va / 2 ^ 12) c s))
    .next ((tableSharers s.self).foldl (fun s n => s.withCtx n finish) s')

/-! ## The chains -/

/-- The part of an access that a packet carries, in the context in focus. -/
def partOfPacket (s : State) (p : Packet) : Option (Access × Part) :=
  match s.ctx.accesses.find? (fun a => a.id == p.acc) with
  | some a => (a.parts.find? (fun q => q.line == p.part)).map (fun q => (a, q))
  | none => none

/-- Mark a part of an access of the context in focus. -/
def markPart (acc line : Nat) (f : Part → Part) (c : Context) : Context :=
  { c with accesses := c.accesses.map (fun a => if a.id = acc then
      { a with parts := a.parts.map (fun q => if q.line = line then f q else q) } else a) }

/-- The reply to a request takes the slack and the late bit its request had left, in as many packets as its data needs (R283, R290). -/
def reply (s : State) (p : Packet) (flits : Nat) : State :=
  injectAll s { p with kind := .reply, lead := false, src := p.dst, dst := p.src } flits

/-- Perform what a request carries, for the context that sent it, if that is still to be done (R285, R311, R441). -/
def act (s : State) (p : Packet) : State :=
  if p.kind = .rowWrite then rowPerform s p
  else s.withCtx p.ctx (fun s => match partOfPacket s p with
    | some _ => performLine s false p.acc p.part
    | none => serveOp s p)

/-- A row that a request carries has been begun and is not yet all performed (R250). -/
def begun (s : State) (p : Packet) : Bool :=
  !p.lead && (partOfPacket (s.focus p.ctx) p).any (fun x => x.1.stage == .planned && x.2.left.isSome)

/-- Bytes of data in the reply to a request (R283). -/
def replyData (s : State) (p : Packet) : Nat :=
  match partOfPacket (s.focus p.ctx) p, (opOfPacket (s.focus p.ctx) p).bind (fun o => o.readOf p) with
  | some (a, q), _ => replyBytes (s.focus p.ctx) a q
  | none, some r => r.replySize
  | none, none => 0

/-- A granted request is performed and, once it is all performed, answered; of a request of two packets, with the second (R283, R285). -/
def serve (s : State) (p : Packet) : State :=
  if p.lead then s.modPacket (p.id + 1) (fun q => { q with late := q.late || p.late })
  else
    let t := act s p
    if begun t p then t else reply t p (flitsFor (replyData s p))

/-- What goes out to the peer for a part of an access of the context in focus, with the slack and the late bit its request had left (R264, R297,
R424). -/
def peerMessages (s : State) (a : Access) (q : Part) (slack : Nat) (late : Bool) : List Outgoing :=
  q.elems.flatMap (fun e => match placeOf s e.attr e.va with
    | .peer pa =>
      let v := leBytes e.n (match a.kind with
        | .store _ => a.v1.toNat
        | _ => laneData a e)
      (match a.kind with
        | .store _ | .vstore | .vstores | .scatter => (peerWrites s e.attr e.va v slack late).map .peerWrite
        | .amo n op => [.peerAtomic pa n (some op) 0 a.v1 slack late]
        | .cas n => [.peerAtomic pa n none a.v2 a.v1 slack late]
        | .radd t => [.peerAdd pa t (BitVec.ofNat 64 (laneData a e)) slack late]
        | _ => [.peerRead pa (if e.attr.fmt = .q then 128 else e.n) slack late])
    | _ => [])

/-- What an access writes through a part marks its pages (R405). -/
def markWrites (a : Access) (q : Part) (c : Context) : Context :=
  if a.kind.writes then q.elems.foldl (fun c e => markWrite e.va c) c else c

/-- A request reaches the peer endpoint: it leaves over the link, or ends in BUS when the link is down (R264, R425). -/
def toPeer (s : State) (p : Packet) : State :=
  s.withCtx p.ctx (fun s => match partOfPacket s p with
    | none => opToPeer s p
    | some (a, q) =>
      if q.stage != .sent then s
      else if s.link.up then
        { s.mod (fun c => markWrites a q (markPart p.acc p.part (fun q => { q with stage := .filling, slack := p.slack, late := p.late }) c)) with
          out := s.out ++ peerMessages s a q p.slack p.late }
      else s.mod (putAccess (a.faultAt .bus (BitVec.ofNat 64 (q.elems.headD ⟨0, 0, 0, 0, apertureAttr 0⟩).va))))

/-- A late request of a context has its reply (R293). -/
def countReply (p : Packet) (s : State) : State := if p.late then countLate s p.urg p.va else s

/-- A reply reaches its requester, which counts a late request once, whatever has become of the access (R253, R293). The first of two packets only
hands its late bit on. -/
def toRequester (s : State) (p : Packet) : State :=
  if p.lead then s.modPacket (p.id + 1) (fun q => { q with late := q.late || p.late })
  else if p.ctx = nobody then s
  else s.withCtx p.ctx (fun s => countReply p (s.mod (fun c =>
    returnOp p (markPart p.acc p.part (fun q => if q.stage = .performed then { q with stage := .returned } else q) c))))

/-- A fence's acknowledgment reaches its context; a late one counts, under level 0 and no address (R293, R297). -/
def toFence (s : State) (p : Packet) : State :=
  if p.ctx = nobody then s
  else s.withCtx p.ctx (fun s => countReply p (s.mod (fun c => match c.fence with
    | some w => if w.upTo = p.acc then { c with fence := some { w with acked := upsert id p.part w.acked } } else c
    | none => c)))

/-- A granted packet arrives at its destination. -/
def arrive (s : State) (a : ArbId) (p : Packet) : State :=
  match p.kind with
  | .request =>
    if p.dst = 450 then (if p.lead then s.modPacket (p.id + 1) (fun q => { q with late := q.late || p.late }) else toPeer s p)
    else if p.dst < 128 ∨ (384 ≤ p.dst ∧ p.dst < 448) then addRequest s p.dst { p with input := arrivalSide a }
    else serve s p
  | .rowWrite => addRequest s p.dst { p with input := arrivalSide a }
  | .reply => toRequester s p
  | .markerAck => toFence s p
  | .marker => s

/-- The slices of a station: 16 at each slice station (R9). -/
def slicesAt (st : Nat) : List Nat :=
  if st = 3 ∨ st = 6 ∨ st = 9 ∨ st = 12 then (List.range 16).map (fun i => 16 * ((st - 3) / 3) + i) else []

/-- The slices to which a marker granted at an arbiter gives a copy (R297). -/
def markerSlices (a : ArbId) : List Nat :=
  match a with
  | .lane .. => slicesAt (nextStation a)
  | .local st => slicesAt st.val

/-- A marker moves: a copy enters every slice's request arbiter at the station it reaches (R297). -/
def moveMarker (s : State) (a : ArbId) (p : Packet) : State :=
  let s := (markerSlices a).foldl (fun s k =>
    { addRequest s (sliceEndpoint k) { p with id := s.nextPacket, input := arrivalSide a } with nextPacket := s.nextPacket + 1 }) s
  match a with
  | .lane .. => match nextArbiter a p with
    | some b => let x := s.arbiterOf b; s.setArbiter { x with packets := x.packets ++ [{ p with input := 0 }] }
    | none => s
  | .local _ => s

/-- A granted packet has room where it goes; a marker at every FIFO it enters (R292, R297). -/
def hasRoom (s : State) (a : ArbId) (p : Packet) : Bool :=
  if p.kind = .marker then
    (markerSlices a).all (fun k => roomIn (s.sliceState k).requests { p with input := arrivalSide a }) &&
    (match a with
      | .lane .. => (match nextArbiter a p with
        | some b => roomIn (s.arbiterOf b).packets { p with input := 0 }
        | none => true)
      | .local _ => true)
  else mayMove s a p

/-- One arbiter grants one packet (R291, R292). -/
def execArbiterGrant (arb : ArbId) (s : State) : Result :=
  let a := s.arbiterOf arb
  match choosePacket a.packets a.lastZero (fifoCount arb) (hasRoom s arb) with
  | none => .next s
  | some p =>
    let zero := effSlack a.packets p == 0
    let s' := s.setArbiter { a with packets := a.packets.filter (fun q => q.id != p.id), lastZero := if zero then fifoIndex p else a.lastZero }
    if p.kind = .marker then .next (moveMarker s' arb p)
    else match nextArbiter arb p with
      | some b => let x := s'.arbiterOf b; .next (s'.setArbiter { x with packets := x.packets ++ [{ p with input := 0 }] })
      | none => .next (arrive s' arb p)

/-- The packet with an identifier has waited four clocks (R289, R293). -/
def execSlackDecrement (n : Nat) (s : State) : Result := .next (s.modPacket n Packet.waited)

/-- A packet of no urgency has waited 1,024 clocks at one arbiter (R289). -/
def execNoUrgencyPromotion (n : Nat) (s : State) : Result := .next (s.modPacket n Packet.promoted)

/-! ## Slices (R223, R285, R350) and window arbiters (R441) -/

/-- FIFOs of a slice's or a window's request arbiter (R285). -/
def requestFifos : Nat := 48

/-- The line and the sectors that a request needs the slice to hold: none when it goes past the store, leads another, or has nothing left to
do (R223, R252). -/
def wants (s : State) (p : Packet) : Option (Nat × BitVec 4) :=
  let x := s.focus p.ctx
  if p.lead then none
  else match partOfPacket x p with
    | some (a, q) => if a.onDev then none else some (p.part, partSectors x a q)
    | none => (opOfPacket x p).bind (fun o => match o.readOf p, o.writeOf p with
      | some r, _ => some (placeBase r.place / 128, r.mask)
      | none, some w => some (placeBase w.place / 128, sectorsIn (w.va % 128) w.bytes.length 0)
      | none, none => none)

/-- What a granted request carries has been performed. -/
def isServed (s : State) (p : Packet) : Bool :=
  let x := s.focus p.ctx
  let done (g : PartStage) : Bool := g == .performed || g == .returned
  match partOfPacket x p with
  | some (_, q) => done q.stage
  | none => (opOfPacket x p).all (fun o => ((o.readOf p).map LineRead.stage).all done && ((o.writeOf p).map LineWrite.stage).all done)

/-- A request is performed on its grant: it needs nothing of the slice, or its sectors are held and no fill of its line is under way (R223). -/
def servedAtOnce (s : State) (k : SliceState) (p : Packet) : Bool :=
  match wants s p with
  | none => true
  | some (line, mask) => !k.fills.any (fun f => !isServed s f && !begun s f && (wants s f).any (fun w => w.1 == line)) && sliceHits s line mask

/-- Replies of a slice that wait behind the full FIFOs of its port: a packet that leads another is no reply of its own (R283, R379). -/
def repliesWaiting (s : State) (slice : Nat) : Nat :=
  s.arbiters.foldl (fun n a => n + ((List.range 16).map (fun c =>
    ((a.packets.filter (fun p => p.src == sliceEndpoint slice && inFifo (portOf (sliceEndpoint slice)) c p)).drop 8).countP (fun p => !p.lead))).sum) 0

/-- The requests that a slice holds take on one whose row is begun, in front of the rest (R250). -/
def keepFill (s : State) (slice : Nat) (p : Packet) : State :=
  let k := s.sliceState slice
  if begun s p then s.setSlice { k with fills := p :: k.fills } else s

/-- A slice grants a request: it is performed, or misses and waits for its fill (R223, R285, R291); its reply enters behind those of requests granted
before (R379). It grants none while its 64 waiting replies fill their buffer (R379). -/
def execSliceRequestGrant (slice : Fin 64) (s : State) : Result :=
  let k := s.sliceState slice.val
  if 64 ≤ repliesWaiting s slice.val then .next s
  else match choosePacket k.requests k.lastZero requestFifos (fun p => p.kind != .marker) with
  | none => .next s
  | some p =>
    let k' := { k with requests := k.requests.filter (fun q => q.id != p.id)
                       lastZero := if effSlack k.requests p == 0 then fifoIndex p else k.lastZero }
    if !servedAtOnce s k p then .next (s.setSlice { k' with fills := k.fills ++ [p] })
    else if p.lead || k.fills.isEmpty then .next (keepFill (serve (s.setSlice k') p) slice.val p)
    else
      let s' := act (s.setSlice k') p
      let x := s'.sliceState slice.val
      .next (s'.setSlice { x with fills := x.fills ++ [p] })

/-- The oldest fill of a slice completes: its line is held, its request is performed and answered, once the reply buffer has room (R223, R225,
R379). -/
def execSliceFillComplete (slice : Fin 64) (s : State) : Result :=
  let k := s.sliceState slice.val
  if 64 ≤ repliesWaiting s slice.val then .next s else
  match k.fills with
  | [] => .next s
  | p :: rest => .next (keepFill (serve (s.setSlice { k with fills := rest }) p) slice.val p)

/-- The port of a window's core has room for the reply to a request (R284, R441). -/
def replyRoom (s : State) (p : Packet) : Bool :=
  p.lead || portRoom s { p with kind := .reply, src := p.dst, dst := p.src } (flitsFor (replyData s p))

/-- A core's window arbiter grants an access of its stash window, whose reply has room (R222, R292, R441). -/
def execWindowAccessServe (core : Fin 128) (s : State) : Result :=
  let k := s.coreState core.val
  match choosePacket k.windowReqs k.lastZero requestFifos (replyRoom s) with
  | none => .next s
  | some p =>
    let t := serve (s.setCore { k with windowReqs := k.windowReqs.filter (fun q => q.id != p.id)
                                       lastZero := if effSlack k.windowReqs p == 0 then fifoIndex p else k.lastZero }) p
    let x := t.coreState core.val
    .next (if begun t p then t.setCore { x with windowReqs := p :: x.windowReqs } else t)

/-! ## Fence markers at a slice (R297) -/

/-- A slice counts one copy of a fence. -/
def countMarker (p : Packet) (l : List (Nat × Nat × Nat)) : List (Nat × Nat × Nat) :=
  if l.any (fun m => m.1 == p.ctx && m.2.1 == p.acc) then
    l.map (fun m => if m.1 = p.ctx ∧ m.2.1 = p.acc then (m.1, m.2.1, m.2.2 + 1) else m)
  else l ++ [(p.ctx, p.acc, 1)]

/-- Copies a fence sends to a slice: one from each lane of the direction that reaches it, or one from the local switch. -/
def copiesOf (src slice : Nat) : Nat := if stationOf src = stationOf (sliceEndpoint slice) then 1 else 20

/-- The copies that stand at the head of all their FIFOs leave them and are counted, once no covered request ahead of them is still being filled;
a fence whose copies have all come is retired with an acknowledgment, which has the slack and late bit of a copy that came last (R290). -/
def execFenceMarkerRetire (slice : Fin 64) (s : State) : Result :=
  let k := s.sliceState slice.val
  let heads := if 64 ≤ repliesWaiting s slice.val then [] else k.requests.filter (fun p => p.kind == .marker && atHead k.requests p)
  let go := heads.filter (fun p => !k.fills.any (fun f => !isServed s f && f.mask &&& p.mask != 0))
  let markers := go.foldl (fun l p => countMarker p l) k.markers
  let last (m : Nat × Nat × Nat) : Option Packet :=
    (go.find? (fun p => p.ctx == m.1 && p.acc == m.2.1)).filter (fun p => decide (copiesOf p.src slice.val ≤ m.2.2))
  let s' := s.setSlice { k with
    requests := k.requests.filter (fun p => !go.any (fun q => q.id == p.id))
    markers := markers.filter (fun m => (last m).isNone) }
  .next ((markers.filterMap last).foldl (fun s p => inject s { p with
    kind := .markerAck, src := sliceEndpoint slice.val, dst := p.src, mask := oneClass (classOf p.mask), part := slice.val }) s')

/-! ## What reaches a context -/

/-- A row of the context in focus whose request a slice or a window has granted goes on: its line is held and no fill that came before it for the
same line waits (R223, R250). -/
def goesOn (s : State) (a : Access) (p : Part) : Bool :=
  p.stage == .sent && !a.onDev && match partPlace s p with
    | .dram pa =>
      let k := s.sliceState (sliceOf pa)
      let mine (f : Packet) : Bool := !f.lead && f.ctx == s.self && f.acc == a.id && f.part == p.line
      k.fills.any mine && servedAtOnce s { k with fills := k.fills.takeWhile (fun f => !mine f) } (partPacket s a p)
    | .window .. => p.left.isSome
    | _ => false

/-- Perform the parts of an access that the context performs itself, in its own stash or its own window, and further elements of its rows elsewhere
(R220, R222, R250). -/
def performOwn (s : State) (a : Access) : State :=
  let before := s.ctx.accesses.takeWhile (fun b => b.id != a.id)
  a.parts.foldl (fun s p =>
    if goesOn s a p then performLine s false a.id p.line
    else if mayPerform s before a p && performsHere s a p then
      (performLine s false a.id p.line).mod (markPart a.id p.line (fun q => if q.stage = .performed then { q with stage := .returned } else q))
    else s) s

/-- Complete an access whose every part has returned. -/
def finishAccess (s : State) (a : Access) : State :=
  let s := performOwn s a
  match s.ctx.accesses.find? (fun b => b.id == a.id) with
  | some b =>
    if b.kind.isCache then
      if (s.ctx.accesses.takeWhile (fun x => x.id != b.id)).all (fun x => !holdsBack x b) then
        settle ((cacheEffect s b).mod (dropAccess b.id)) else s
    else if b.stage = .dropped ∧ !b.tagged ∧ hasRows s.rowBits b then settle (s.mod (dropAccess b.id))
    else if b.stage = .planned ∧ b.parts.all (fun q => q.stage == .returned) then settle (deliver s b)
    else offerFaults (settle s)
  | none => s

/-- Data arrives for the n-th access of the load class (R251, R253). -/
def execLoadReply (n : Nat) (s : State) : Result :=
  match (s.ctx.accesses.filter (fun a => a.kind.isLoad))[n]? with
  | some a => .next (sweep (finishAccess s a))
  | none => .next s

/-- The n-th access of the store class is acknowledged, or takes effect where the context stands (R251, R265, R285). -/
def execWriteAcknowledgment (n : Nat) (s : State) : Result :=
  match (s.ctx.accesses.filter (fun a => a.kind.isStore))[n]? with
  | some a => .next (sweep (finishAccess s a))
  | none => .next s

/-- Results that are due land; a slice that has ended, or waits for its results, lets its pipelines run on (R112, R113;
assumption 6). -/
def execResultLand (s : State) : Result :=
  let s' := if s.ctx.run == .running && (s.ctx.endedX || s.ctx.xdrain) then s.mod Context.tick else s
  .next (settle (landDue s'))

/-- The oldest claim pops the oldest vq entry once it is filled: its c bit takes the value, and the prediction that waits for it
resolves (R150, R151, R154). -/
def execVotePop (s : State) : Result :=
  match s.ctx.votes, s.ctx.vq with
  | r :: claims, e :: rest =>
    if !e.filled then .next s
    else
      let s' := s.mod (fun c => { c.setC r (e.data != 0) with votes := claims, vq := rest })
      match s.ctx.prediction with
      | some b => .next (if b.c = r then settle (resolvePrediction s' b) else s')
      | none => .next s'
  | _, _ => .next s

end Sys2Proof.Machine
end

