-- ==== Sys2Proof/Machine/Flags.lean ====
section
/-! DEFINITION. FPMODE (R37, R38): the rounding mode and flushing that an execute instruction reads at issue, and the flags of
a lane result. -/

namespace Sys2Proof.Machine

/-- Rounding-mode codes of R7 and R37. -/
def roundOfCode (n : Nat) : RoundMode :=
  match n % 4 with | 0 => .rne | 1 => .rtz | 2 => .rup | _ => .rdn

/-- FPMODE.RM (R37). -/
def Context.rm (c : Context) : RoundMode := roundOfCode (c.fpmode.toNat % 4)

/-- FPMODE.FTZ (R36, R37). -/
def Context.ftz (c : Context) : Bool := bitOf c.fpmode.toNat 2

/-- Lane results with their flags: the row of results, and the union of the flags of the active lanes (R37). -/
def collectLanes (lw mask : Nat) (rs : List (Nat × Num.Flags)) : Nat × Num.Flags :=
  (packLanes lw (rs.map Prod.fst),
   ((List.range rs.length).zip rs).foldl (fun f p => if bitOf mask p.1 then f.union p.2.2 else f) Num.Flags.none)

/-- A write of FPMODE: NV to NX are cleared where 1 is written, FTZ and RM take the written bits (R37). -/
def writeFpmode (old v : Word) : Word :=
  BitVec.ofNat 64 ((old.toNat % 256 / 8 * 8 &&& (255 - v.toNat % 256 / 8 * 8)) / 8 * 8 + v.toNat % 8)

end Sys2Proof.Machine
end

