-- ==== Sys2Proof/Machine/Interrupts.lean ====
section
/-! DEFINITION. The causes a context takes at its boundaries other than an instruction's own (R387, R389, R391): trap entry,
unwinding, failure, the stop of a cancelled unit and the timer. -/

namespace Sys2Proof.Machine

/-- The cause that a context takes at its boundary, the best of those ready, with the access it names (R387). -/
def topCause (s : State) : Option (Cause × Option Access) :=
  let c := s.ctx
  if c.run != .running then none
  else if c.ready.ecc.isSome then some (.ecc, none)
  else if c.region.isOpen && c.ready.silent.isSome then some (.silent, none)
  else match c.accesses.find? takenFault with
    | some a => some (((a.fault?).map Prod.fst).getD .page, some a)
    | none => match c.accesses.find? (rowLost s) with
      | some a => some (.queue, some a)
      | none =>
        if c.ready.cancel then some (.cancel, none)
        else if c.ready.preempt then some (.preempt, none)
        else if c.ready.timer && !c.inh then some (.timer, none)
        else if c.ready.halt then some (.halt, none)
        else none

/-- FADDR of an access cause (R394). -/
def faultAddr (a : Access) : Word := ((a.fault?).map Prod.snd).getD a.ea

/-- The slice that owns an access: the control slice, or for a fetch the slice whose stream stands at the word (R394). -/
def accessSide (s : State) (a : Access) : Nat :=
  if a.kind == .fetch && a.iaddr != s.ctx.pcc && a.iaddr == s.ctx.pcx then 1 else 0

/-- Trap entry with an asynchronous cause or an access fault; a fault not yet offered is offered first (R391 to R394). -/
def execTrapEntry (s : State) : Result :=
  let s := offerFaults s
  if !mayHalt s then .next s
  else match topCause s with
  | some (.timer, _) => .next (enterTrap s .timer 2 0 0 none s.ctx.pcc.toNat)
  | some (c, some a) => .next (enterTrap s c (accessSide s a) 0 (faultAddr a) (some a.id) (faultAddr a).toNat)
  | _ => .next s

/-- ECC or SILENT with a region open: the region unwinds (R406). -/
def execUnwind (s : State) : Result :=
  if s.ctx.run != .running || !s.ctx.region.isOpen then .next s
  else match s.ctx.ready.ecc, s.ctx.ready.silent with
    | some p, _ => .next (unwindRegion s .ecc p.1)
    | none, some va => .next (unwindRegion s .silent va)
    | none, none => .next s

/-- A unit fails on ECC with no region open, and on the withdrawal of its core, halted for debug or not (R401, R409). -/
def execUnitFail (s : State) : Result :=
  if s.ctx.run != .running && !(s.ctx.run == .debugHalted && withdrawn s) then .next s
  else if withdrawn s then .next (failUnit s .ecc s.ctx.pcc.toNat)
  else match s.ctx.ready.ecc with
    | some p => if s.ctx.region.isOpen then .next s else .next (failUnit s .ecc p.2.toNat)
    | none => .next s

/-- A cancelled unit stops; one that is halted for debug at once (R370, R439). -/
def execCancelStop (s : State) : Result :=
  if !mayHalt s then .next s
  else if s.ctx.run == .debugHalted && s.ctx.ready.cancel then .next (stopCancelled s)
  else match topCause s with
    | some (.cancel, _) => .next (stopCancelled s)
    | _ => .next s

/-- The CTC reaches a nonzero TIMECMP (R412). -/
def execTimerExpiry (s : State) : Result :=
  if s.ctx.timecmp != 0 && decide (s.ctx.timecmp.toNat ≤ s.ctc) then
    .next (s.mod (fun c => { c with ready := { c.ready with timer := true } }))
  else .next s

end Sys2Proof.Machine
end

