-- ==== Sys2Proof/Machine/Scheduler.lean ====
section
/-! DEFINITION. The walker, the dispatch queues, dispatch, pre-emption with its save and restore, spawning and the banks (R84 to
R97, R364, R399, R400). -/

namespace Sys2Proof.Machine

/-! ## Readiness and eligibility (R84, R90, R97, R399) -/

def deadlineOf (s : State) (slot : Nat) : Nat := ((slotNumbered s slot).map (fun l => l.pkt.deadline.toNat)).getD 0

def admissionOf (s : State) (slot : Nat) : Nat := ((slotNumbered s slot).map LaunchSlot.admitted).getD 0

/-- Predecessors of a launch that have not retired. -/
def livePreds (s : State) (l : LaunchSlot) : List LaunchSlot := s.slots.filter (fun p => l.preds.contains p.admitted)

/-- Ready, or early-ready: every predecessor has retired or set the early mark. -/
def launchReady (s : State) (l : LaunchSlot) : Bool := (livePreds s l).all LaunchSlot.early

/-- The job of an entry has a free save slot, or the unit holds one. -/
def saveSlotFor (s : State) (asid : BitVec 16) (holds : Bool) : Bool :=
  holds || match s.jobOf asid with
    | some j => decide (j.slotsUsed.length < j.spnum)
    | none => false

/-- A cluster holds NBAR barrier slots for a launch, or has NBAR free (R90). -/
def barrierRoom (s : State) (cluster slot nbar : Nat) : Bool :=
  let b := (s.arrayAt cluster).barriers
  decide (nbar ≤ b.countP (fun x => x.1 == slot)) || decide (b.length + nbar ≤ 8)

/-- A core is eligible for a unit (R90, R399, R407, R409). -/
def eligible (s : State) (core : Nat) (h : KernelHeader) (slot : Nat) (asid : BitVec 16) (holds : Bool) : Bool :=
  let k := s.coreState core
  (h.nm || !(s.arrayAt (core / 4)).failed) && decide (h.win ≤ k.wink) && barrierRoom s (core / 4) slot h.nbar &&
  !k.withdrawn && !k.quarantined && saveSlotFor s asid holds

def coreFree (s : State) (core : Nat) : Bool := (s.ctxAt core).run == .idle

/-! ## Waiting entries -/

/-- Where an entry waits: a group's queue, the common queue (4), or a bank. -/
inductive Home where
  | queue (n : Nat)
  | bank (n : Nat)
  deriving DecidableEq, Repr

/-- An entry as the cores see it. -/
structure Waiting where
  place : Home
  rank : Nat
  order : Nat
  header : KernelHeader
  entry : Entry
  deriving DecidableEq, Repr

def queueOf (q : Queues) (n : Nat) : List Entry :=
  match n with
  | 0 => q.group0 | 1 => q.group1 | 2 => q.group2 | 3 => q.group3 | _ => q.common

def setQueue (q : Queues) (n : Nat) (l : List Entry) : Queues :=
  match n with
  | 0 => { q with group0 := l } | 1 => { q with group1 := l } | 2 => { q with group2 := l } | 3 => { q with group3 := l }
  | _ => { q with common := l }

def waitingIn (s : State) (n : Nat) : List Waiting :=
  (queueOf s.queues n).map (fun e => ⟨.queue n, if e.resumed then 0 else 2, e.order, e.info.header, e⟩)

/-- The head of a bank, once its header has been read and is sound (R66). -/
def waitingBank (s : State) (b : Nat) : List Waiting :=
  match bankOf s b with
  | r :: _ => match r.checked with
    | some (h, t) => [⟨.bank b, 1, 0, h, {
        info := { r.info with header := h, trailer := t, spawned := true, group := if r.info.nopl then none else some (b / 32) }
        resumed := false, image := none, home := b / 32, order := 0, expired := none }⟩]
    | none => []
  | [] => []

/-- What a core considers: its group's queue, the common queue and its cluster's banks (R84). -/
def visibleTo (s : State) (core : Nat) : List Waiting :=
  waitingIn s (core / 32) ++ waitingIn s 4 ++ (List.range 4).flatMap (fun i => waitingBank s (4 * (core / 4) + i))

def allWaiting (s : State) : List Waiting :=
  (List.range 5).flatMap (waitingIn s) ++ s.queues.banks.flatMap (fun b => waitingBank s b.1)

def waitsFor (s : State) (core : Nat) (w : Waiting) : Bool :=
  eligible s core w.header w.entry.info.slot w.entry.info.asid w.entry.resumed

/-- No entry of a predecessor waits where the core could take it (R97). -/
def predsServed (s : State) (core : Nat) (w : Waiting) : Bool :=
  match slotNumbered s w.entry.info.slot with
  | some l => (visibleTo s core).all (fun x => !((livePreds s l).any (fun p => p.slot == x.entry.info.slot)) || !waitsFor s core x)
  | none => true

/-- The order of entries: deadline, kind, admission, then place in the queue (R84). -/
def before (s : State) (a b : Waiting) : Bool :=
  let key (w : Waiting) := [deadlineOf s w.entry.info.slot, w.rank, admissionOf s w.entry.info.slot, w.order]
  let rec lt : List Nat → List Nat → Bool
    | x :: xs, y :: ys => decide (x < y) || (x == y && lt xs ys)
    | _, _ => false
  lt (key a) (key b)

def earliest (s : State) (l : List Waiting) : Option Waiting :=
  l.foldl (fun m w => match m with
    | none => some w
    | some x => if before s w x then some w else some x) none

/-- The entry a free core takes (R84, R90, R97). -/
def takes (s : State) (core : Nat) : Option Waiting :=
  if coreFree s core then earliest s ((visibleTo s core).filter (fun w => waitsFor s core w && predsServed s core w)) else none

/-! ## Entering the queues (R89, R91) -/

/-- Some core of a group is eligible for a unit. -/
def groupServes (s : State) (g : Nat) (e : Entry) : Bool :=
  (List.range 32).any (fun i => eligible s (32 * g + i) e.info.header e.info.slot e.info.asid e.resumed)

/-- An entry joins its group's queue, or the common queue (R91); none while the common queue is full. -/
def enterQueue (s : State) (g : Option Nat) (afw : Nat) (e : Entry) : Option State :=
  let e := { e with order := s.queues.nextOrder }
  let put (n : Nat) : State :=
    { s with queues := { setQueue s.queues n (queueOf s.queues n ++ [{ e with home := n }]) with nextOrder := s.queues.nextOrder + 1 } }
  match g with
  | some g =>
    if afw != 0 && decide ((queueOf s.queues g).length < 32) && groupServes s g e then some (put g)
    else if s.queues.common.length < 64 then some (put 4) else none
  | none => if s.queues.common.length < 64 then some (put 4) else none

/-- Saved units that found no room enter the queues, in the order in which they were saved, as soon as there is some. DESIGN CHOICE (unsafe;
assumption 98): the spec does not say where a saved unit waits while its group's queue and the common queue are both full (R88, R91). -/
def joinFrom : List Entry → State → State
  | [], s => s
  | e :: rest, s =>
    match enterQueue s e.info.group (((slotNumbered s e.info.slot).map (fun l => l.pkt.afw)).getD 0) e with
    | some s' => joinFrom rest { s' with queues := { s'.queues with joining := s'.queues.joining.drop 1 } }
    | none => s

def joinQueues (s : State) : State := joinFrom s.queues.joining s

/-! ## The walker (R56, R58, R89) -/

/-- The launch the walker works on: ready, with units left, the earliest deadline, then the earlier admission. -/
def walkerChoice (s : State) : Option LaunchSlot :=
  (s.slots.filter (fun l => launchReady s l && decide (l.walked < l.total))).foldl (fun m l => match m with
    | none => some l
    | some x =>
      if l.pkt.deadline.toNat < x.pkt.deadline.toNat ∨ (l.pkt.deadline = x.pkt.deadline ∧ l.admitted < x.admitted) then some l else some x) none

/-- The unit at a sequence number of a launch (R57). -/
def walkedUnit (l : LaunchSlot) (seq : Nat) : UnitInfo :=
  { UnitInfo.none with
    asid := l.asid, slot := l.slot, seq := BitVec.ofNat 64 seq, kref := l.pkt.kref, arg := l.pkt.arg
    coords := (List.range 4).map (fun d => BitVec.ofNat 32 (coordOf l.pkt seq d)), place := placementOf l.pkt seq, nopl := l.pkt.nopl
    header := l.header, trailer := l.trailer }

/-- The walker produces one unit, and stalls while the common queue is full (R91); one cancelled already is passed over (R89, R98). -/
def execWalkerStep (s : State) : Result :=
  let s := joinQueues s
  if 64 ≤ s.queues.common.length then .next s else
  match walkerChoice s with
  | none => .next s
  | some l =>
    let u := walkedUnit l l.walked
    let s1 := modSlot s l.slot (fun l => { l with walked := l.walked + 1 })
    if l.skips.contains l.walked then .next (retireLaunch s1 l.slot)
    else
      let hit := heldAt s [outPlace] u.asid u.place.toNat
      let g := if u.nopl || inAperture u.place.toNat then none else hit.map (fun a => sliceOf (physOf a u.place.toNat) / 16)
      let s2 := if u.nopl || hit.isSome then s1 else walkFill s1 [outPlace] u.asid u.place.toNat
      match enterQueue s2 g l.pkt.afw
        { info := { u with group := g }, resumed := false, image := none, home := 4, order := 0, expired := none } with
      | some s' => .next s'
      | none => .next s

/-- The affinity wait of the n-th entry of a group's queue runs out (R91). -/
def execAffinityExpiry (grp : Fin 4) (n : Nat) (s : State) : Result :=
  let k := s.queues.nextOrder
  let q := setQueue s.queues grp.val
    (modifyNth (fun e => { e with expired := some (e.expired.getD k) }) n (queueOf s.queues grp.val))
  .next { s with queues := { q with nextOrder := k + 1 } }

/-- The entry whose affinity wait ran out first moves to the common queue, once it has room (R91). -/
def execCommonQueueMove (s : State) : Result :=
  let s := joinQueues s
  let es := (List.range 4).flatMap (fun g => ((queueOf s.queues g).filter (fun e => e.expired.isSome)).map (fun e => (g, e)))
  let oldest := es.foldl (fun (m : Option (Nat × Entry)) x => match m with
    | none => some x
    | some y => if x.2.expired.getD 0 < y.2.expired.getD 0 then some x else some y) none
  match oldest with
  | none => .next s
  | some (g, e) =>
    if 64 ≤ s.queues.common.length then .next s
    else .next { s with queues := { setQueue s.queues g ((queueOf s.queues g).filter (fun x => x.order != e.order)) with
      common := s.queues.common ++ [{ e with expired := none }] } }

/-! ## Setting up a unit (R57, R101) -/

def roundCode (r : RoundMode) : Nat :=
  match r with | .rne => 0 | .rtz => 1 | .rup => 2 | .rdn => 3

/-- SLACKTAB from a kernel header (R288). -/
def slackOf (h : KernelHeader) : Vector Word 3 :=
  #v[BitVec.ofNat 64 (packLanes 16 (h.slk.take 4)), BitVec.ofNat 64 (packLanes 16 ((h.slk.drop 4).take 4)), BitVec.ofNat 64 h.slktrap.toNat]

/-- The registers a unit starts with (R57, R101). -/
def startContext (u : UnitInfo) (n : Nat) : Context :=
  let x (i : Nat) : Word := BitVec.ofNat 64 (u.coords.getD i 0).toNat
  let c : Context := { Context.idle with
    run := .running, info := u, w16 := u.header.w16, home := n
    fpmode := BitVec.ofNat 64 (roundCode u.header.rm + if u.header.ftz then 4 else 0), slacktab := slackOf u.header }
  c.setG 1 (x 0) |>.setG 2 (x 1) |>.setG 3 (x 2) |>.setG 4 (x 3) |>.setG 5 u.arg |>.setG 6 u.seq

/-- Both slices stand at the first word of their streams. -/
def toFirstWords (s : State) : State :=
  let b := s.ctx.codeBase
  let c := nextOf s .control b
  let x := nextOf s .execute b
  s.mod (fun k => { k with pcc := BitVec.ofNat 64 c, pcx := BitVec.ofNat 64 x, logC := [BitVec.ofNat 64 b - 1], logX := [BitVec.ofNat 64 b - 1] })

/-- The lowest free save slot of a job is drawn for the context in focus (R399). -/
def drawSave (s : State) : State :=
  let j := jobAt s s.ctx.info.asid
  match (List.range j.spnum).find? (fun k => !j.slotsUsed.contains k) with
  | some k => (s.setJob { j with slotsUsed := j.slotsUsed ++ [k] }).mod (fun c => { c with saveSlot := some k })
  | none => s

/-- A launch's barrier slots in a cluster, allocated with its first unit there, and those it lacks with a unit that uses more (R90). -/
def allocBarriers (s : State) (cluster slot nbar : Nat) : State :=
  let a := s.arrayAt cluster
  let lacking := (List.range nbar).filter (fun i => !a.barriers.any (fun b => b.1 == slot && b.2.1 == i))
  if lacking = [] then s else s.setArray { a with barriers := a.barriers ++ lacking.map (fun i => (slot, i, 0)) }

/-- A unit starts on a core: its window part is cleared and its registers are loaded (R57, R221). -/
def startUnit (s : State) (core : Nat) (u : UnitInfo) : State :=
  let s := replaceWindow s core []
  let s := allocBarriers s (core / 4) u.slot u.header.nbar
  s.withCtx core (fun s => drawSave (toFirstWords { s with ctx := startContext u core }))

/-! ## Save and restore (R399, R400) -/

/-- Commands that stand in the matrix queue: not a MOUT that has read its tile (R399). -/
def queuedCommand (o : EngineOp) : Bool := o.kind.isMatrix && !(o.kind == .mout && o.task != [])

/-- The 64 bytes of a matrix command in a save image. -/
def commandBytes (o : EngineOp) : List Byte :=
  leBytes 8 o.iaddr.toNat ++ leBytes 8 o.a.toNat ++ leBytes 8 o.b.toNat ++ leBytes 8 o.c.toNat ++ leBytes 4 o.shape.w0.toNat ++
    leBytes 4 o.shape.w1.toNat ++ leBytes 4 o.shape.w2.toNat ++ leBytes 4 o.shape.w3.toNat ++ leBytes 8 o.progress ++ leBytes 8 o.flag.val

def tstatValue (c : Context) : Nat := (if c.inh then 1 else 0) + (if c.fse then 2 else 0) + c.lcode.toNat * 2 ^ 8

def crgnValue (r : Region) : Nat :=
  (if r.isOpen then 1 else 0) + (if r.isOpen && r.trk then 2 else 0) + (if r.mir then 4 else 0) + r.ucode * 2 ^ 8

/-- COREID of a context (R415). -/
def coreidValue (self : Nat) : Nat :=
  (if Config.partStrap then 2 ^ 16 else 0) + (if isGusset self then gidOf self + 2 ^ 7 + gctxOf self * 2 ^ 8 else self % 128)

def loopReg (r : LoopRegs) (i : Nat) : Word :=
  match i with | 0 => r.count | 1 => r.start | _ => r.stop

/-- The value of a system register, none where the number is reserved. -/
def sysValue (s : State) (r : Nat) : Option Word :=
  let c := s.ctx
  let g := isGusset s.self
  match r with
  | 0x00 => some c.fpmode | 0x01 => some (if c.w16 then 1 else 0) | 0x02 => some (BitVec.ofNat 64 s.lanes)
  | 0x03 => some c.slacktab[0] | 0x04 => some c.slacktab[1] | 0x05 => some c.slacktab[2] | 0x06 => some c.late
  | 0x07 => some c.crcfg | 0x08 => some c.crcnt | 0x09 => some c.trapbase | 0x0A => some c.tframe | 0x0B => some c.timecmp
  | 0x0C => some (BitVec.ofNat 64 (tstatValue c)) | 0x0D => some (BitVec.ofNat 64 (crgnValue c.region)) | 0x0E => some c.region.fa
  | 0x0F => some (BitVec.ofNat 64 (coreidValue s.self)) | 0x10 => some (c.info.asid.zeroExtend 64)
  | 0x11 => some (if g then 0 else s.hk.prethr) | 0x12 => some (s.time.rate.zeroExtend 64) | 0x13 => some (ctcofsValue s.time)
  | 0x14 => some (if g then 0 else BitVec.ofNat 64 (s.coreState s.self).wink)
  | 0x15 => some (if g then (s.gussetState (gidOf s.self)).errstat else (s.coreState s.self).errstat)
  | _ =>
    if 0x18 ≤ r ∧ r ≤ 0x1D then some (loopReg (if r < 0x1B then c.loopA else c.loopB) ((r - 0x18) % 3))
    else if 0x20 ≤ r ∧ r ≤ 0x25 then some (loopReg (if r < 0x23 then c.vloopA else c.vloopB) ((r - 0x20) % 3))
    else none

/-- A register some field of which SYS.WR changes. -/
def sysWritable (r : Nat) : Bool :=
  r == 0 || r == 1 || (decide (3 ≤ r) && decide (r ≤ 0x0B)) || (decide (0x18 ≤ r) && decide (r ≤ 0x1D)) ||
  (decide (0x20 ≤ r) && decide (r ≤ 0x25))

/-- FPMODE, TSHAPE and the execute slice's loop registers, whose accesses are ordered with that slice (R38, R412). -/
def sysOrdered (r : Nat) : Bool := r == 0 || r == 1 || (decide (0x20 ≤ r) && decide (r ≤ 0x25))

def setLoopReg (i : Nat) (v : Word) (r : LoopRegs) : LoopRegs :=
  match i with | 0 => { r with count := v } | 1 => { r with start := v } | _ => { r with stop := v }

/-- A write of TSHAPE: a change of W16 clears the main file, the operand file and the predicates (R102). -/
def writeTshape (v : Word) (c : Context) : Context :=
  let w := bitOf v.toNat 0
  if w = c.w16 then c
  else { c with w16 := w, m := Vector.replicate 128 0, v := Vector.replicate 8 0, live := Vector.replicate 8 false
                k := Vector.replicate 8 0 }

/-- A write of a SLACKTAB register (R288). -/
def writeSlacktab (i : Fin 3) (v : Word) (c : Context) : Context :=
  let x := if i.val < 2 then v &&& 0x0FFF0FFF0FFF0FFF
    else
      let y := v &&& 0x7FFF
      if bitOf y.toNat 14 && decide (c.nflag ≤ bitsOf y.toNat 13 8) then y &&& 0x3FFF else y
  { c with slacktab := c.slacktab.set i x }

/-- A write of TIMECMP (R412). -/
def writeTimecmp (v : Word) (c : Context) : Context := { c with timecmp := v, ready := { c.ready with timer := false } }

/-- A write of a loop register leaves the active snapshot (R148, R186). -/
def writeLoopReg (r : Nat) (v : Word) (c : Context) : Context :=
  if r < 0x1B then { c with loopA := setLoopReg ((r - 0x18) % 3) v c.loopA }
  else if r < 0x20 then { c with loopB := setLoopReg ((r - 0x18) % 3) v c.loopB }
  else if r < 0x23 then { c with vloopA := setLoopReg ((r - 0x20) % 3) v c.vloopA }
  else { c with vloopB := setLoopReg ((r - 0x20) % 3) v c.vloopB }

/-- SYS.WR's effect on a register, through the access of each field (R412). -/
def writeSys (r : Nat) (v : Word) (c : Context) : Context :=
  match r with
  | 0x00 => { c with fpmode := writeFpmode c.fpmode v }
  | 0x01 => writeTshape v c
  | 0x03 => writeSlacktab 0 v c
  | 0x04 => writeSlacktab 1 v c
  | 0x05 => writeSlacktab 2 v c
  | 0x06 => { c with late := BitVec.ofNat 64 (v.toNat % 2 ^ 32 + 2 ^ 32 * (bitsOf c.late.toNat 39 32 &&& (255 - bitsOf v.toNat 39 32))) }
  | 0x07 => { c with crcfg := BitVec.ofNat 64 (v.toNat / 2 ^ 12 * 2 ^ 12 + (if 9 ≤ v.toNat % 16 then c.crcfg.toNat % 16 else v.toNat % 16)) }
  | 0x08 => { c with crcnt := if bitOf v.toNat 32 then BitVec.ofNat 64 (c.crcnt.toNat % 2 ^ 32) else c.crcnt }
  | 0x09 => { c with trapbase := BitVec.ofNat 64 (v.toNat / 4 * 4) }
  | 0x0A => { c with tframe := BitVec.ofNat 64 (v.toNat / 2 ^ 14 * 2 ^ 14) }
  | 0x0B => writeTimecmp v c
  | _ => if sysWritable r then writeLoopReg r v c else c

/-- The image of the context in focus as bytes of its save slot (R399). -/
def imageOf (s : State) : Memory :=
  let c := s.ctx
  let words (l : List Word) : List Byte := l.flatMap (fun w => leBytes 8 w.toNat)
  let fm := frameOf s 0 0 none 0 c.accesses
  layout [
    (0, readBytes fm 0 0x4000), (0x4000, words c.g.toList),
    (0x4100, words c.b.toList ++ leBytes 8 (bitsWhere (fun i => (c.c.toList.getD i false)) 4) ++ words c.k.toList),
    (0x4200, words ((List.range 64).map (fun r => (sysValue s r).getD 0))),
    (0x4400, c.f.toList.flatMap (fun w => leBytes 4 w.toNat)),
    (0x4500, ((c.ops.filter queuedCommand).take 8).flatMap commandBytes),
    (0x4700, leBytes 8 (bitsWhere (fun i => c.live.toList.getD i false) 8) ++ leBytes 8 (tstatValue c) ++ leBytes 8 c.region.handler.toNat ++
      leBytes 8 (c.region.base * 2 ^ 12) ++ leBytes 8 c.region.pages),
    (0x4800, c.v.toList.flatMap (fun r => leBytes 128 r.toNat)),
    (0x4C00, leBytes 512 (bitsWhere (fun i => c.region.marked.contains (c.region.base + i)) 4096)),
    (0x5000, c.m.toList.flatMap (fun r => leBytes 128 r.toNat))]

/-- Bytes of a save image (R399). -/
def imageSize (h : KernelHeader) : Nat := 3 * 2 ^ 14 + 2 ^ 14 * h.win

/-- Write the image of the context in focus into its save slot: dead v registers are not written, and poison in the window goes with
its bytes (R399, R400, R403). -/
def writeImage (s : State) : State :=
  match s.ctx.saveSlot with
  | some k =>
    let base := savePlace s s.ctx.info.asid k
    let im := imageOf s
    let live := (List.range 8).filter (fun i => s.ctx.live.toList.getD i false)
    let s' := ([(0, 0x4800), (0x4C00, 0x4400)] ++ live.map (fun i => (0x4800 + 128 * i, 128))).foldl
      (fun (t : State) (p : Nat × Nat) => storeBytes t (base + p.1) (readBytes im p.1 p.2)) s
    let n := 2 ^ 14 * s.ctx.info.header.win
    let s' := storeBytes s' (base + 0xC000) (readBytes (windowMem s s.self) 0 n)
    let carried := (s.poison.filter (fun w => decide (windowKey s.self 0 ≤ w * 8) && decide (w * 8 < windowKey s.self n))).map
      (fun w => (base + 0xC000 + (w * 8 - windowKey s.self 0)) / 8)
    { s' with poison := carried.foldl (fun l w => upsert id w l) s'.poison }
  | none => s

/-- An uncorrectable error lies in the bytes a restore reads (R400). -/
def imagePoison (s : State) (c : Context) : Bool :=
  match c.saveSlot with
  | some k => poisoned s (savePlace s c.info.asid k) (imageSize c.info.header)
  | none => false

/-- The stash's dirty sectors go home (R220, R400). -/
def cleanStash (s : State) (core : Nat) : State :=
  (s.coreState core).stash.foldl (fun s x => writeBackOwn s core x.line) s

/-- The unit that the context in focus runs is chosen to be pre-empted: it halts (R389, R400 steps 1 and 2). -/
def execPreemptHalt (s : State) : Result :=
  if !mayHalt s then .next s
  else match topCause s with
  | some (.preempt, _) => .next ((haltContext s).mod (fun c => { c with run := .saving, ready := { c.ready with preempt := false } }))
  | _ => .next s

/-- A suspended lease command stands in its queue again; its offer stays, and what the host answers is discarded (R195, R392, R436). -/
def requeue (s : State) : State :=
  let back (o : EngineOp) : Bool := o.kind.isLease && o.stage != .queued
  let gone (f : Offer) : Bool := f.ctx == s.self && f.engine && s.ctx.ops.any (fun o => back o && o.id == f.ident)
  let s : State := { s with jobs := s.jobs.map (fun j => { j with offers := j.offers.map (fun f => if gone f then { f with ctx := nobody } else f) }) }
  s.mod (fun c => { c with ops := c.ops.map (fun o => if back o then { o with stage := .queued, reads := [], got := [] } else o) })

/-- The context in focus leaves its core as a saved image, whose number is answered (R400 steps 4 and 5). -/
def saveUnit (s : State) : Nat × State :=
  let core := s.self
  let s := writeImage (cleanStash (requeue (releaseLease s)) core)
  let ident := s.queues.nextOrder
  let s := rehome s core (1024 + ident)
  let c := { s.ctx.dropWork with run := .saved, kept := s.ctx.accesses :: s.ctx.kept, region := { s.ctx.region with marked := [] } }
  (ident, { s with ctx := .idle, others := upsert Prod.fst (1024 + ident, c) s.others, queues := { s.queues with nextOrder := ident + 1 } })

/-- A save is complete: the unit becomes a resumed entry, and the core is free; a cancel that came meanwhile discards the image
(R88, R370, R400). -/
def execSaveComplete (s : State) : Result :=
  if s.ctx.run != .saving || s.ctx.ops.any startedLease then .next s
  else
    let u := s.ctx.info
    let (ident, s') := saveUnit s
    if s.ctx.ready.cancel then .next (retireLaunch (freeBarriers (cancelUnits (discardImage s' ident) u.slot 1) u.slot) u.slot)
    else
      let e : Entry := { info := u, resumed := true, image := some ident, home := 4, order := 0, expired := none }
      .next (freeBarriers (joinQueues { s' with queues := { s'.queues with joining := s'.queues.joining ++ [e] } }) u.slot)

/-- The system registers that a save slot holds: fields that no layout defines stay zero (R3, R399, R414). MIR and CRCNT tell what operations have
done meanwhile, and stay as they are. -/
def loadSys (sys : Nat → Word) (c : Context) : Context :=
  let c := [0x03, 0x04, 0x05, 0x07, 0x09, 0x0A, 0x0B].foldl (fun c r => writeSys r (sys r) c) c
  let crgn := (sys 0x0D).toNat
  { c with
    fpmode := sys 0x00 &&& 0xFF, w16 := bitOf (sys 0x01).toNat 0, late := sys 0x06 &&& 0xFFFFFFFFFF
    inh := bitOf (sys 0x0C).toNat 0, fse := bitOf (sys 0x0C).toNat 1, lcode := BitVec.ofNat 8 (bitsOf (sys 0x0C).toNat 15 8)
    region := { c.region with isOpen := bitOf crgn 0, trk := bitOf crgn 1, ucode := bitsOf crgn 15 8, fa := sys 0x0E } }

/-- The pages of the open region that are marked: those of the saved bitmap, and those that operations have marked since (R399, R405). -/
def loadMarks (m : Memory) (b : Nat) (r : Region) : List Nat :=
  ((List.range 4096).map (fun n => r.base + n)).filter (fun p => bitOf (readLE m (b + 0x4C00) 512) (p - r.base) || r.marked.contains p)

/-- A matrix command as its 64 bytes in a save slot give it. -/
def commandOf (m : Memory) (a : Nat) (o : EngineOp) : EngineOp :=
  let w (k : Nat) : Word := BitVec.ofNat 64 (readLE m (a + k) 8)
  let x (k : Nat) : Word32 := BitVec.ofNat 32 (readLE m (a + k) 4)
  { o with
    iaddr := w 0, a := w 8, b := w 16, c := w 24, shape := ⟨x 32, x 36, x 40, x 44⟩, progress := (w 48).toNat, flag := Fin.ofNat 64 (w 56).toNat }

/-- The matrix queue that a save slot holds. -/
def loadCommands (m : Memory) (b : Nat) (ops : List EngineOp) : List EngineOp :=
  ops.map (fun o =>
    let n := ((ops.filter queuedCommand).takeWhile (fun x => x.id != o.id)).length
    if queuedCommand o && decide (n < 8) then commandOf m (b + 0x4500 + 64 * n) o else o)

/-- The live bits, the mitten region's handler and its range, and the matrix queue that a save slot holds (R399). -/
def loadRest (m : Memory) (b : Nat) (c : Context) : Context :=
  let r := { c.region with
    handler := BitVec.ofNat 64 (readLE m (b + 0x4710) 8), base := readLE m (b + 0x4718) 8 / 2 ^ 12, pages := readLE m (b + 0x4720) 8 }
  { c with
    live := Vector.ofFn (fun (i : Fin 8) => bitOf (readLE m (b + 0x4700) 1) i.val), ops := loadCommands m b c.ops
    region := { r with marked := loadMarks m b r } }

/-- The registers that a save slot holds (R358, R399). -/
def loadRegs (m : Memory) (b : Nat) (c : Context) : Context :=
  let w (o : Nat) : Word := BitVec.ofNat 64 (readLE m (b + o) 8)
  let c := loadRest m b (loadSys (fun r => w (0x4200 + 8 * r)) c)
  { c with
    g := Vector.ofFn (fun (i : Fin 32) => if i.val = 0 then 0 else w (0x4000 + 8 * i.val))
    b := Vector.ofFn (fun (i : Fin 4) => w (0x4100 + 8 * i.val)), c := Vector.ofFn (fun (i : Fin 4) => bitOf (readLE m (b + 0x4120) 1) i.val)
    k := Vector.ofFn (fun (i : Fin 8) => w (0x4128 + 8 * i.val))
    f := Vector.ofFn (fun (i : Fin 64) => BitVec.ofNat 32 (readLE m (b + 0x4400 + 4 * i.val) 4))
    v := Vector.ofFn (fun (i : Fin 8) => if c.live[i] then BitVec.ofNat 1024 (readLE m (b + 0x4800 + 128 * i.val) 128) else c.v[i])
    m := Vector.ofFn (fun (i : Fin 128) => BitVec.ofNat 1024 (readLE m (b + 0x5000 + 128 * i.val) 128)) }

/-- The context in focus is reloaded from its save slot, and goes on as a return from a trap does from its step 4 on (R398, R400): what the slot's
layout gives is what its bytes say, and the rest stays as it was saved (assumption 101). -/
def loadImage (s : State) (b : Nat) : State :=
  let c := loadRegs s.mem b s.ctx
  let fm := writeBytes [] 0 (readBytes s.mem b 0x4000)
  let win := writeBytes [] 0 (readBytes s.mem (b + 0xC000) (2 ^ 14 * c.info.header.win))
  let s := readHomes { s with ctx := c } b (imageSize c.info.header)
  let s := (reloadFrame (replaceWindow s s.self win) fm).mod (fun x => { x with
    inh := c.inh, ops := c.ops, stretchC := c.stretchC, stretchX := c.stretchX, logC := c.logC, logX := c.logX })
  noteTimer (reissue s fm c.nextId)

/-- A core takes a resumed entry: the saved context is loaded, its accesses are reissued, and the request of its last LEASE is entered anew
(R195); an uncorrectable error in the image fails the unit with RESTORE_ECC, its record going through the image's CRCFG where that is sound
(R400). -/
def restoreUnit (s : State) (core ident : Nat) : State :=
  let c := s.ctxAt (1024 + ident)
  let s := rehome (s.focus core) (1024 + ident) core
  let s := { s with others := s.others.filter (fun p => p.1 != 1024 + ident), ctx := { c with run := .running, home := core } }
  let s := allocBarriers s (core / 4) c.info.slot c.info.header.nbar
  let base := (c.saveSlot.map (savePlace s c.info.asid)).getD 0
  if imagePoison s c then
    if poisoned s (base + 0x4238) 8 then failWithout s .restoreEcc
    else failUnit (s.mod (writeSys 0x07 (BitVec.ofNat 64 (readLE s.mem (base + 0x4238) 8)))) .restoreEcc c.pcc.toNat
  else
    let s := loadImage s base
    match s.ctx.leaseLevel with
    | some u => settleLease (enterRequest s u false)
    | none => settleLease s

/-! ## Dispatch (R84) -/

/-- Take an entry out of where it waits. -/
def removeWaiting (s : State) (w : Waiting) : State :=
  match w.place with
  | .queue n => { s with queues := setQueue s.queues n ((queueOf s.queues n).filter (fun e => e.order != w.entry.order)) }
  | .bank b => setBank s b ((bankOf s b).drop 1)

/-- A free core takes an entry, unless a free core of a lower number takes the same one (R84, R91). -/
def execDispatch (core : Fin 128) (s : State) : Result :=
  let s := joinQueues s
  match takes s core.val with
  | none => .next s
  | some w =>
    if (List.range core.val).any (fun k => takes s k == some w) then .next s
    else
      let here := s.self
      let s' := removeWaiting s w
      match w.entry.image with
      | some i => .next (freeBarriers ((restoreUnit s' core.val i).focus here) w.entry.info.slot)
      | none => .next (freeBarriers (startUnit s' core.val w.entry.info) w.entry.info.slot)

/-! ## Pre-emption by the scheduler (R87, R97) -/

/-- A unit waits in WAIT.PRED. -/
def inWaitPred (s : State) : Bool :=
  s.ctx.run == .running && predsLive s s.ctx.info.slot &&
  match codeWord s s.ctx.pcc.toNat with
  | some w => (match decode (bytesOfWord32 w) with
    | .ok (.waitPred, _) => true
    | _ => false)
  | none => false

/-- A core is an endpoint of a bound stream (R314). -/
def isEndpoint (s : State) (core : Nat) : Bool :=
  let at_ (e : Endpoint) := (e.kind == .resultQueue || e.kind == .operandQueue) && e.ident == core
  s.streams.any (fun st => at_ st.prod || at_ st.cons)

/-- The unit on a core may be pre-empted at all for an entry: the core is eligible and no endpoint of a stream (R87, R314). -/
def mayYield (s : State) (w : Waiting) (core : Nat) : Bool :=
  let c := s.ctxAt core
  c.run == .running && !c.ready.preempt && !isEndpoint s core && waitsFor s core w

/-- Its launch is pre-emptible, with a deadline more than the threshold behind the entry's (R87). -/
def yieldsTo (s : State) (w : Waiting) (core : Nat) : Bool :=
  (slotNumbered s (s.ctxAt core).info.slot).any (fun l =>
    l.pkt.pre && decide (deadlineOf s w.entry.info.slot + s.hk.prethr.toNat < l.pkt.deadline.toNat))

/-- It waits in WAIT.PRED for the entry's launch (R97). -/
def waitsOn (s : State) (w : Waiting) (core : Nat) : Bool :=
  (slotNumbered s (s.ctxAt core).info.slot).any (fun l =>
    (livePreds s l).any (fun p => p.slot == w.entry.info.slot) && inWaitPred (s.focus core))

/-- The victim for an entry: the latest deadline, a core of the entry's group first, then the lowest core (R87); only an entry of the earliest
deadline has victims by deadline, any entry those that wait for it (R97). -/
def victimFor (s : State) (w : Waiting) (first : Bool) : Option Nat :=
  let dl (c : Nat) := deadlineOf s (s.ctxAt c).info.slot
  let mine (c : Nat) : Bool := match w.place with | .queue _ => w.entry.info.group == some (c / 32) | .bank b => c / 32 == b / 32
  ((List.range 128).filter (fun c => mayYield s w c && ((first && yieldsTo s w c) || waitsOn s w c))).foldl (fun m c => match m with
    | none => some c
    | some d => if dl d < dl c ∨ (dl c = dl d ∧ mine c ∧ !mine d) then some c else some d) none

/-- Pre-emptions under way. -/
def preempting (s : State) : Nat := (allContexts s).countP (fun p => p.2.ready.preempt || p.2.run == .saving)

/-- The earliest entry that no free eligible core can take and that has a victim: first among the entries of the earliest deadline, then among
those that units in WAIT.PRED wait for. -/
def preemptFor (s : State) : Option (Waiting × Nat) :=
  let ws := allWaiting s
  let unserved (w : Waiting) : Bool := (List.range 128).all (fun c => !(coreFree s c && waitsFor s c w))
  let soonest (w : Waiting) : Bool := ws.all (fun x => decide (deadlineOf s w.entry.info.slot ≤ deadlineOf s x.entry.info.slot))
  let pick (first : Bool) (l : List Waiting) : Option (Waiting × Nat) :=
    (earliest s (l.filter (fun w => unserved w && (victimFor s w first).isSome))).bind (fun w => (victimFor s w first).map (fun c => (w, c)))
  match pick true (ws.filter soonest) with
  | some p => some p
  | none => pick false ws

/-- The scheduler requests a pre-emption, at most as many for a launch as it has waiting entries (R87, R97). -/
def execSchedulerPreempt (s : State) : Result :=
  let s := joinQueues s
  match preemptFor s with
  | none => .next s
  | some (w, c) =>
    if (allWaiting s).countP (fun x => x.entry.info.slot == w.entry.info.slot) ≤ preempting s then .next s
    else .next (s.withCtx c (fun s => s.mod (fun c => { c with ready := { c.ready with preempt := true } })))

/-! ## Spawning and banks (R66, R92, R93, R364) -/

/-- The oldest TSPAWN of the context in focus is enqueued once every store issued before it is performed and its bank's ring has
room; a record of a cancelled launch counts as cancelled (R93, R98, R364). -/
def execTspawnEnqueue (s : State) : Result :=
  match s.ctx.ops.find? (fun o => o.kind == .tspawn) with
  | none => .next s
  | some o =>
    if (s.ctx.accesses ++ keptBefore s.ctx o).any (fun a => decide (a.id < o.id) && (a.kind.isStore || a.kind.writes) && !a.performed) then .next s
    else
      let slot := s.ctx.info.slot
      let r := freshTask (taskInfo s.ctx.info.asid slot o.task)
      let home := clusterOf (homeOf s)
      if !(slotNumbered s slot).any LaunchSlot.stopped && bankFull s (bankFor s r home) then .next s
      else .next (offerTask (s.mod (dropOp o.id)) r home)

/-- The record at a place of a bank's overflow ring returns: a broken one fails, one of a cancelled launch is discarded, and one that has been
removed is passed over (R66, R98). -/
def returnRecord (b : Nat) (s : State) (k : Nat) : State :=
  let bs := readBytes s.mem (ovfPlace s b k) 64
  let slot := bitsOf (fieldOf bs 0x30 8) 53 48
  let parkedOn := (s.queues.overflowOn.find? (fun o => o.1 == b && o.2.1 == k)).map (fun o => o.2.2)
  let gone := s.queues.overflowGone.contains (b, k)
  let s := { s with queues := { s.queues with
    overflowOn := s.queues.overflowOn.filter (fun o => !(o.1 == b && o.2.1 == k))
    overflowGone := s.queues.overflowGone.filter (fun o => o != (b, k)) } }
  if gone then s
  else match slotNumbered s slot with
    | none => s
    | some l =>
      let s := readHomes s (ovfPlace s b k) 64
      let u := taskInfo l.asid slot bs
      if !taskClean bs then retireLaunch (freeBarriers (failBeforeStart s u 8) slot) slot
      else if l.dropped then retireLaunch (freeBarriers (cancelUnits s slot 1) slot) slot
      else setBank s b (bankOf s b ++ [{ freshTask u with parkedOn := parkedOn }])

/-- The oldest 32 records return from the overflow ring of a bank that has fallen to 64 (R93). -/
def refillBank (s : State) (b : Nat) : State :=
  let (h, t) := ovfOf s b
  if (bankOf s b).length ≤ 64 ∧ h < t then
    let n := min 32 (t - h)
    ((List.range n).map (fun k => h + k)).foldl (returnRecord b) (setOvf s b (h + n, t))
  else s

/-- The head of a bank becomes an entry: its header is read and checked (R66). -/
def checkHead (s : State) (b : Nat) : State :=
  match bankOf s b with
  | [] => s
  | r :: rest =>
    if r.checked.isSome then s
    else
      let fail (code : Nat) := retireLaunch (freeBarriers (failBeforeStart (setBank s b rest) r.info code) r.info.slot) r.info.slot
      let s := noteRead s r.info.asid r.info.kref.toNat 64
      let codes := (if r.info.kref.toNat % 64 != 0 then [8] else []) ++ kernelCodes s r.info.asid r.info.kref.toNat (headerCodes s r.info.asid)
      match lowest codes, readKernel s r.info.asid r.info.kref.toNat with
      | some c, _ => fail c
      | none, some k => setBank s b ({ r with checked := some k } :: rest)
      | none, none => s

/-- A bank's turn: it takes back what its ring holds, and its head is read. -/
def execBankRefill (cluster : Fin 32) (bank : Fin 4) (s : State) : Result :=
  let b := 4 * cluster.val + bank.val
  .next (checkHead (refillBank s b) b)

end Sys2Proof.Machine
end

