-- ==== Sys2Proof/Machine/Streams.lean ====
section
/-! DEFINITION. Streams (R304 to R317): endpoints, binding, landing flits, flow signals, SDEPTH, teardown, and starting
and stopping Gusset contexts. -/

namespace Sys2Proof.Machine

/-! ## Endpoint words (R306) -/

def EndKind.isProducer (k : EndKind) : Bool :=
  match k with
  | .gussetOut | .resultQueue | .camera | .ethernet => true
  | _ => false

def kindOfCode (n : Nat) : Option EndKind :=
  match n with
  | 1 => some .gussetOut | 2 => some .resultQueue | 3 => some .camera | 4 => some .ethernet
  | 8 => some .gussetIn | 9 => some .operandQueue | 10 => some .rowWriter
  | _ => none

/-- An endpoint word; none for a reserved field or kind. -/
def endpointWord (w : Nat) : Option Endpoint :=
  let ident := bitsOf w 15 8
  let ctx := bitsOf w 5 4
  let port := w % 8
  match kindOfCode (bitsOf w 63 60) with
  | none => none
  | some k =>
    if k = .rowWriter then (if bitsOf w 59 47 != 0 then none else some ⟨k, 0, 0, 0, w % 2 ^ 47⟩)
    else if bitsOf w 59 16 != 0 || bitsOf w 7 6 != 0 || bitOf w 3 then none
    else
      let gusset := k == .gussetOut || k == .gussetIn
      if (!gusset && ctx != 0) || (k == .operandQueue && decide (1 < port)) || (!gusset && k != .operandQueue && port != 0) then none
      else some ⟨k, ident, if gusset then 128 + 4 * ident + ctx else ident, port, 0⟩

/-- Station of an endpoint; a row writer's is that of its slice. -/
def endStation (e : Endpoint) (slice : Nat) : Nat :=
  match e.kind with
  | .gussetOut | .gussetIn => stationOf (endpointOf (128 + 4 * e.ident))
  | .resultQueue | .operandQueue => clusterStation (e.ident / 4)
  | .camera => if e.ident / 16 < 8 then 0 else 1
  | .ethernet => if e.ident < 4 then 0 else 1
  | .rowWriter => sliceStation (slice / 16)

/-- The channel number of a receiver endpoint: 16p + v, or 256 + p for Ethernet (R324). -/
def channelOf (e : Endpoint) : Nat := if e.kind = .ethernet then 256 + e.ident else e.ident

def chanAt (s : State) (n : Nat) : Option Channel := s.channels.find? (fun c => c.ch == n)

def Channel.asid (c : Channel) : BitVec 16 := BitVec.ofNat 16 (bitsOf c.ctl.toNat 47 32)

/-- Ports 4 to 7 of a Gusset, and operand queues, are rings (R310). -/
def isRing (e : Endpoint) : Bool :=
  ((e.kind == .gussetOut || e.kind == .gussetIn) && decide (4 ≤ e.port)) || e.kind == .operandQueue

/-- The window part that holds an endpoint's ring: that of its context. -/
def ringOwner (e : Endpoint) : Nat := e.ctx

/-- An endpoint is present for an address space (R312, R324). -/
def endPresent (s : State) (asid : BitVec 16) (e : Endpoint) : Bool :=
  match e.kind with
  | .gussetOut | .gussetIn =>
    decide (e.ident < 128) && (s.ctxAt e.ctx).run == .running && (s.ctxAt e.ctx).info.asid == asid && !(s.gussetState e.ident).withdrawn
  | .resultQueue | .operandQueue => decide (e.ident < 128) && (s.ctxAt e.ctx).resident && (s.ctxAt e.ctx).info.asid == asid
  | .camera | .ethernet => (chanAt s (channelOf e)).any (fun c => c.enabled && c.asid == asid)
  | .rowWriter => true

/-! ## Binding (R304 to R312, R325) -/

/-- The row writer's slice: none where the address is not plain DRAM or its page breaks R268, which asks for W = 1. -/
def writerPlace (s : State) (asid : BitVec 16) (va : Nat) (r : ShapeRec) : Option Nat :=
  match resolveOut s asid va with
  | .error _ => none
  | .ok a =>
    if a.dev || a.ec || !a.w || !fmtMatches a.fmt r.etype || writerLimits r.swz r.stride a then none
    else match placeOf s a va with
      | .dram pa => some (sliceOf pa)
      | _ => none

/-- SBIND's own limits on its record: AUX, STRIDE and SWZ by consumer, BLK and RES (R312). -/
def bindShape (r : ShapeRec) (p c : Endpoint) (f : Nat) : Bool :=
  let aux := r.aux
  let writer := c.kind == .rowWriter
  bitsOf aux 26 24 != 0 || aux % 2 ^ 4 != 0 || r.blk != 0 || (!writer && (r.stride != 0 || r.swz != 0 || bitsOf aux 30 27 != 0)) ||
  (!(isRing p || isRing c) && bitsOf aux 12 5 != 0) || (!bitOf aux 4 && f != 0) || bitsOf aux 23 13 == 0

/-- The record of a receiver's stream: rows and columns of 8,192 are written as 0 (R69, R325). -/
def bindRecordOk (r : ShapeRec) (receiver : Bool) : Bool :=
  if receiver then
    bitsOf r.w0.toNat 30 26 == 0 && decide (r.rows ≤ 8191) && decide (r.cols ≤ 8191) && typeWordOk r
  else recordOk r

def sizeOr8192 (n : Nat) : Nat := if n = 0 then 8192 else n

/-- The element type of a channel's rows (R321, R325). -/
def Channel.etype (c : Channel) : ElemType :=
  let dt := bitsOf c.ctl.toNat 23 18
  if c.ch < 256 ∧ 0x2B ≤ dt ∧ dt ≤ 0x2E then .z16 else .z8

/-- A lane of the chain from station a toward b, free on every hop (R307). -/
def laneFree (s : State) (a b l : Nat) : Bool :=
  s.streams.all (fun st => match st.lane with
    | some (m, x, y) => !(m == l && decide (x < y) == decide (a < b) && decide (Nat.max (Nat.min x y) (Nat.min a b) < Nat.min (Nat.max x y) (Nat.max a b)))
    | none => true)

/-- The lane, or local circuit, of a stream between two stations; none when every one is taken. -/
def chooseLane (s : State) (a b : Nat) : Option (Nat × Nat × Nat) :=
  if a = b then
    let used := s.streams.countP (fun st => match st.lane with
      | some (m, x, y) => m == 0 && x == a && y == a
      | none => false)
    if used < 8 then some (0, a, a) else none
  else ((List.range 4).find? (fun i => laneFree s a b (20 + i))).map (fun i => (20 + i, a, b))

/-- Entries a pool port may reserve: from the context's own minimum, then the remainder (R304). -/
def poolSplit (s : State) (e : Endpoint) (res : Nat) : Option Nat :=
  let g := s.gussetState e.ident
  let own := ((g.minres.find? (fun p => p.1 == gctxOf e.ctx)).map Prod.snd).getD 0
  let set := (List.range 4).foldl (fun n x =>
    let c := s.ctxAt (128 + 4 * e.ident + x)
    if c.run = .idle then n else n + c.info.minres) 0
  let free := 256 - set - g.remainderUsed
  let m := Nat.min own res
  if res - m ≤ free then some m else none

/-- A ring lies inside its owner's window part (R310). -/
def ringFits (s : State) (e : Endpoint) (rofs res : Nat) : Bool :=
  !isRing e || decide (rofs * 1024 + 64 * res ≤ 2 ^ 14 * (s.ctxAt (ringOwner e)).info.header.win)

/-- Most flits a consumer reserves (R312). -/
def resLimit (c : Endpoint) : Nat :=
  if c.kind = .rowWriter then 64 else if isRing c then 2047 else 256

/-- The statuses of R312 other than NOPOOL and NOLANE, in order; `slice` is the row writer's. -/
def bindStatus (s : State) (asid : BitVec 16) (p c : Endpoint) (r : ShapeRec) (slice : Option Nat) : Nat :=
  let res := bitsOf r.aux 23 13
  let receiver := p.kind == .camera || p.kind == .ethernet
  let rt := 2 * (Nat.max (endStation p 0) (endStation c (slice.getD 0)) - Nat.min (endStation p 0) (endStation c (slice.getD 0))) + 8
  let busy := s.streams.any (fun st => Stream.sameEnd st.prod p || Stream.sameEnd st.cons c) ||
    (c.kind == .rowWriter && decide (4 ≤ s.streams.countP (fun st => st.cons.kind == .rowWriter && some st.slice == slice)))
  let frameBad := receiver && (match chanAt s (channelOf p) with
    | some k => sizeOr8192 r.rows != k.hmax || sizeOr8192 r.cols != k.wmax || r.etype != k.etype
    | none => true)
  if c.kind == .rowWriter && slice.isNone then 1
  else if !endPresent s asid p || !endPresent s asid c ||
      (receiver && !(c.kind == .gussetIn && decide (c.ident < 64) && decide (c.port < 4))) then 2
  else if busy then 3
  else if decide (res < rt + 20) || decide (resLimit c < res) || frameBad then 4
  else if !ringFits s p (bitsOf r.aux 12 5) res || !ringFits s c (bitsOf r.aux 12 5) res then 5
  else 0

def genOf (s : State) (n : Nat) : Nat := ((s.streamGens.find? (fun p => p.1 == n)).map Prod.snd).getD 0

/-- Bind at the stream table: the state after, and gA (R312). -/
def bindStream (s : State) (p c : Endpoint) (f : Fin 64) (r : ShapeRec) : State × Nat :=
  let asid := s.ctx.info.asid
  let slice := if c.kind = .rowWriter then writerPlace s asid c.va r else none
  let s := if c.kind = .rowWriter then reach s [] asid c.va else s
  let st := bindStatus s asid p c r slice
  let res := bitsOf r.aux 23 13
  if st != 0 then (s, st * 2 ^ 24)
  else
    let pool := if c.kind = .gussetIn ∧ c.port < 4 then poolSplit s c res else some 0
    match pool with
    | none => (s, 6 * 2 ^ 24)
    | some fromMin =>
      let a := endStation p 0
      let b := endStation c (slice.getD 0)
      match chooseLane s a b, (List.range 256).find? (fun n => (streamAt s n).isNone) with
      | some lane, some n =>
        let gen := if genOf s n = 0xFFFF then 1 else genOf s n + 1
        let rt := 2 * (Nat.max a b - Nat.min a b) + 8
        let g := s.gussetState c.ident
        let s := if c.kind = .gussetIn ∧ c.port < 4 then
          s.setGusset { g with
            minres := g.minres.map (fun q => if q.1 = gctxOf c.ctx then (q.1, q.2 - fromMin) else q)
            remainderUsed := g.remainderUsed + (res - fromMin) } else s
        let x : Stream := {
          entry := n, gen := gen, asid := asid, owner := s.self, prod := p, cons := c, rows := sizeOr8192 r.rows, cols := sizeOr8192 r.cols
          etype := r.etype, stride := r.stride, cls := Fin.ofNat 16 (bitsOf r.aux 30 27), res := res, rofs := bitsOf r.aux 12 5
          fen := bitOf r.aux 4, flag := f, off := res - rt, on := res - rt - 16, lane := some lane, slice := slice.getD 0, consOn := true
          prodOn := true, signals := [], outgoing := [], reserved := [], landed := [], unsent := 0, sent := 0, taken := 0, frames := 0
          fromMinimum := fromMin, slots := [], swz := r.swz, planes := r.planes, fork := s.ctx.nextId
          writing := false }
        (setStream { s with streamGens := upsert Prod.fst (n, gen) s.streamGens } x, gen * 2 ^ 8 + n)
      | _, _ => (s, 7 * 2 ^ 24)

/-- SBIND: ILLEGAL, then ALIGN and SHAPE, then one step at the stream table (R312). -/
def execSbind (a b c : Fin 32) (f : Fin 64) (r : ShapeRec) (s : State) : Result :=
  let gs := b :: c :: recordRegs r
  orTrap s .control (decide (s.ctx.nflag ≤ f.val)) .illegal (
    let v := (s.ctx.getG c).toNat
    orTrapG s gs (!strideAligned (substAll s.ctx r) || (bitsOf v 63 60 == 10 && (v % 64 != 0 || (substAll s.ctx r).stride % 64 != 0))) .align (
      match substRecord s.ctx r, endpointWord (s.ctx.getG b).toNat, endpointWord v with
      | some x, some p, some q =>
        let receiver := p.kind == .camera || p.kind == .ethernet
        let size (k : Nat) : Nat := if receiver then sizeOr8192 k else k
        orTrapG s gs (!p.kind.isProducer || q.kind.isProducer || !bindRecordOk x receiver || bindShape x p q f.val ||
            (q.kind == .rowWriter && heldRowsBad s (writerLimits x.swz x.stride) q.va x.stride (size x.cols * x.etype.bytes) (size x.rows))) .shape (
          issueC s gs [] 20 (fun s => let r := bindStream s p q f x; r.1.mod (fun k => (k.setG a (BitVec.ofNat 64 r.2)).markEffect)))
      | _, _, _ => orTrapG s gs true .shape (.next s)))

/-! ## Handles, SUNBIND and SDEPTH (R313 to R315) -/

/-- The stream a handle names; none when it is stale. -/
def handleStream (s : State) (h : Nat) : Option Stream :=
  match streamAt s (h % 256) with
  | some st => if st.asid = s.ctx.info.asid ∧ h / 2 ^ 8 = st.gen then some st else none
  | none => none

def execSunbind (a : Fin 32) (s : State) : Result :=
  issueC s [a] [] 4 (fun s => match handleStream s (s.ctx.getG a).toNat with
    | some st => (tearDown s st).mod Context.markEffect
    | none => s.mod Context.markEffect)

/-- What SDEPTH writes. -/
def depthWord (st : Stream) (producer : Bool) : Word :=
  BitVec.ofNat 64 ((if st.consOn then 0 else 2 ^ 32) + (if producer then st.unsent else st.occupancy))

/-- Every load and lease command issued before has completed; every store has been performed. -/
def readsDone (s : State) : Bool := s.ctx.accesses.all (fun a => !a.kind.isLoad) && !s.ctx.ops.any (fun o => o.kind.isLease)

def storesDone (s : State) : Bool := s.ctx.accesses.all (fun a => !(a.kind.isStore || a.kind.writes) || a.performed)

/-- The owner of a consumer ring frees flits, and the owner of a producer ring publishes them (R315). -/
def freeRing (owns : Bool) (n : Nat) (st : Stream) : Stream :=
  if owns then Stream.flowCheck { st with taken := st.taken + Nat.min n st.occupancy } else st

def publish (owns : Bool) (n : Nat) (st : Stream) : Stream :=
  if owns then { st with unsent := st.unsent + Nat.min n (st.res - st.unsent) } else st

/-- SDEPTH: an issuer that owns both rings of a stream acts on both, and reads the producer ring's depth (R315). -/
def execSdepth (d a b : Fin 32) (s : State) : Result :=
  if stalledC s [a, b] [] then .next s
  else match handleStream s (s.ctx.getG a).toNat with
    | none => .next (retire (s.mod (Context.setG d (BitVec.ofNat 64 (2 ^ 63)))) .control 4 false)
    | some st =>
      let n := (s.ctx.getG b).toNat
      let reads := isRing st.cons && ringOwner st.cons == s.self
      let writes := isRing st.prod && ringOwner st.prod == s.self
      if !reads && !writes && b.val != 0 then .next (trapSync s .control .stream)
      else if (reads && !readsDone s) || (writes && !storesDone s) then .next s
      else
        let st' := publish writes n (freeRing reads n st)
        .next (retire ((setStream s st').mod (Context.setG d (depthWord st' writes))) .control 4 false)

/-! ## Flits (R309 to R311) -/

/-- The next flit a producer has, with the stream after giving it. -/
def nextFlit (s : State) (st : Stream) : Option (BitVec 512 × Stream) :=
  if isRing st.prod then
    if st.unsent = 0 then none
    else some (BitVec.ofNat 512 (readLE (windowMem s (ringOwner st.prod)) (st.rofs * 1024 + 64 * (st.sent % st.res)) 64), { st with unsent := st.unsent - 1 })
  else match st.outgoing with
    | f :: rest => some (f, { st with outgoing := rest })
    | [] => none

/-- A channel's frame is held until a frame numbered two above it has started (R341). -/
def frameHeld (c : Channel) (f : Frame) : Bool := c.held.all (fun x => decide (x.number < f.number + 2))

/-- A write of at most 64 bytes into the channel status area, in its job's address space, each page's part on its own (R328). -/
def statusWrite (s : State) (c : Channel) (off : Nat) (bs : List Byte) : State :=
  let va := c.stat.toNat + off
  let n := 64 - va % 64
  let s := (storeIn s c.asid (va % 2 ^ 64) (bs.take n)).getD s
  if bs.length ≤ n then s else (storeIn s c.asid ((va + n) % 2 ^ 64) (bs.drop n)).getD s

/-- A write into the half of a frame, while the half is still that frame's (R328). -/
def halfWrite (s : State) (c : Channel) (f : Frame) (off : Nat) (bs : List Byte) : State :=
  if frameHeld c f then statusWrite s c (64 + (64 + 8 * c.hmax) * (f.number % 2) + off) bs else s

/-- Change a frame that a channel holds, and act on the channel and the frame as they then stand. -/
def onFrame (s : State) (ch frame : Nat) (f : Frame → Frame) (act : Channel → Frame → State → State) : State :=
  match chanAt s ch with
  | none => s
  | some c => match c.held.find? (fun x => x.number == frame) with
    | none => s
    | some x =>
      let c' := { c with held := c.held.map (fun y => if y.number = frame then f y else y) }
      act c' (f x) { s with channels := upsert Channel.ch c' s.channels }

/-- The first flit of a receiver's row slot lands: DECIDED counts the slot before it can be popped (R328). -/
def slotBegins (s : State) (ch frame : Nat) : State :=
  onFrame s ch frame (fun f => { f with decided := f.decided + 1 }) (fun c f s => halfWrite s c f 0x10 (leBytes 2 f.decided))

/-- A receiver's row slot has landed (R332). -/
def slotLanded (s : State) (ch frame : Nat) : State :=
  onFrame s ch frame (fun f => { f with landed := f.landed + 1 }) (fun _ _ s => s)

/-- A flit lands at its consumer (R309 to R311); the reservation is never exceeded, which the thresholds guarantee. -/
def landTurn (s : State) (st : Stream) : State :=
  if !st.prodOn || decide (st.res ≤ st.occupancy) then s
  else match nextFlit s st with
    | none => s
    | some (f, st1) =>
      let mark := st.slots[st.landed.length]?
      let ch := channelOf st.prod
      let s := match mark with
        | some (n, _, true, _, _) => slotBegins s ch n
        | _ => s
      let s := if isRing st.cons then storeWindow s (ringOwner st.cons) (st.rofs * 1024 + 64 * (st.sent % st.res)) (leBytes 64 f.toNat) else s
      let st2 := Stream.flowCheck { st1 with sent := st.sent + 1, landed := if isRing st.cons then st1.landed else st1.landed ++ [f] }
      let s := match mark with
        | some (n, _, _, true, _) => slotLanded (setStream s st2) ch n
        | _ => setStream s st2
      flitDone s st2 (st.cons.kind != .rowWriter && (match mark with
        | some x => x.2.2.2.2
        | none => (st.sent + 1) % st.frameFlits == 0))

/-- A turn of a stream: a flit lands, or, with the second part set, its row writer writes one that has landed. -/
def execStreamFlitLand (turn : Fin 256 × Bool) (s : State) : Result :=
  match streamAt s turn.1.val with
  | none => .next s
  | some st => .next (if turn.2 then (if st.cons.kind = .rowWriter then rowTurn s st else s) else landTurn s st)

/-- An on or off signal reaches the producer (R309). -/
def execFlowSignalArrival (stream : Fin 256) (s : State) : Result :=
  match streamAt s stream.val with
  | none => .next s
  | some st =>
    let st := st.flowCheck
    match st.signals with
    | [] => .next s
    | v :: rest => .next (setStream s { st with prodOn := v, signals := rest })

/-! ## Gusset contexts (R301, R302, R317) -/

/-- Bytes of line buffer that the windows of a Gusset's running contexts may take (R302). -/
def lineBuffer (gid : Nat) : Nat := if gid < 64 then 224 * 1024 else 96 * 1024

def runningOf (s : State) (gid : Nat) : List Context :=
  ((List.range 4).map (fun x => s.ctxAt (128 + 4 * gid + x))).filter (fun c => c.run != .idle)

/-- Refusal codes that header and trailer earn on a Gusset (R55 as R302 amends it). -/
def gussetCodes (h : KernelHeader) (t : Trailer) : List Nat :=
  (if h.reserved || !h.kind || h.fut then [1] else []) ++ (if h.codelen = 0 ∨ 2 ^ 20 < h.codelen then [2] else []) ++
  (if decide (64 < h.nflag) || h.nbar != 0 then [3] else []) ++ (if t.reserved then [9] else [])

/-- The context a descriptor starts: its number, its unit and its MINRES. -/
def contextUnit (asid : BitVec 16) (bs : List Byte) (h : KernelHeader) (t : Trailer) : UnitInfo :=
  { UnitInfo.none with
    asid := asid, kref := word64 bs 0, arg := word64 bs 8, coords := (List.range 4).map (fun i => BitVec.ofNat 32 (fieldOf bs (0x10 + 4 * i) 4))
    header := h, trailer := t, done := word64 bs 0x28, minres := bitsOf (fieldOf bs 0x20 8) 24 16 }

/-- Start a context: its window is cleared, its minimum set aside, its registers loaded, and what its window takes of the line buffer leaves the
mapped part (R57, R302, R304). -/
def startGusset (s : State) (n : Nat) (u : UnitInfo) : State :=
  let s := replaceWindow s n []
  let g := s.gussetState (gidOf n)
  let s := s.setGusset { g with minres := upsert Prod.fst (gctxOf n, u.minres) g.minres }
  shrinkMapped (State.withCtx { s with starts := s.starts + 1 } n (fun s =>
    toFirstWords { s with ctx := { startContext u n with started := s.starts } })) n

/-- SCTX.START's outcome: the state and its status word (R317). -/
def startFrom (s : State) (va : Nat) : State × Nat :=
  let asid := s.ctx.info.asid
  let refused (code : Nat) : State × Nat := (s, 3 + code * 2 ^ 8)
  if va % 64 != 0 then refused 8
  else match readIn s asid va 64 with
    | none => (reach s [] asid va, 5)
    | some bs =>
      let s := noteRead s asid va 64
      let refused (code : Nat) : State × Nat := (s, 3 + code * 2 ^ 8)
      let ctl := fieldOf bs 0x20 8
      let gid := ctl % 128
      let n := 128 + 4 * gid + bitsOf ctl 9 8
      if bitOf ctl 7 || bitsOf ctl 15 10 != 0 || ctl / 2 ^ 25 != 0 || fieldOf bs 0x30 8 != 0 || fieldOf bs 0x38 8 != 0 ||
          fieldOf bs 0 8 % 64 != 0 || fieldOf bs 0x28 8 % 8 != 0 then refused 8
      else if (s.ctxAt n).run != .idle || (s.gussetState gid).withdrawn then (s, 1)
      else if (readHeader s asid (fieldOf bs 0 8)).isNone then (s, 5)
      else
        let done := fieldOf bs 0x28 8
        let codes := kernelCodes s asid (fieldOf bs 0 8) gussetCodes ++ if done != 0 && (readIn s asid done 8).isNone then [0x0A] else []
        let s := noteRead s asid (fieldOf bs 0 8) 64
        let refused (code : Nat) : State × Nat := (s, 3 + code * 2 ^ 8)
        match lowest codes, readKernel s asid (fieldOf bs 0 8) with
          | some code, _ => refused code
          | none, none => refused 0x0A
          | none, some (h, t) =>
            let u := contextUnit asid bs h t
            let used := (runningOf s gid).foldl (fun k c => k + 2 ^ 14 * c.info.header.win) 0
            let set := (runningOf s gid).foldl (fun k c => k + c.info.minres) 0
            if lineBuffer gid < used + 2 ^ 14 * h.win then (s, 4)
            else if 256 < set + (s.gussetState gid).remainderUsed + u.minres then (s, 2)
            else (startGusset s n u, 0)

def execSctxStart (d a : Fin 32) (s : State) : Result :=
  issueC s [a] [] 4 (fun s => let r := startFrom s (s.ctx.getG a).toNat; r.1.mod (fun k => (k.setG d (BitVec.ofNat 64 r.2)).markEffect))

/-- SCTX.STOP: the context ends as LVL.CANCEL ends a unit (R317). -/
def execSctxStop (d a : Fin 32) (s : State) : Result :=
  issueC s [a] [] 4 (fun s =>
    let v := (s.ctx.getG a).toNat
    let n := 128 + 4 * (v % 128) + bitsOf v 9 8
    let c := s.ctxAt n
    if (c.run = .running ∨ c.run = .debugHalted) ∧ c.info.asid = s.ctx.info.asid then
      (stopResident s (fun k => k.home == n && k.info.header.kind)).mod (fun k => (k.setG d 0).markEffect)
    else s.mod (fun k => (k.setG d 1).markEffect))

end Sys2Proof.Machine
end

