-- ==== Sys2Proof/Machine/Retire.lean ====
section
/-! DEFINITION. The end of a unit and of a Gusset context (R48, R63, R64, R90, R215, R302, R314, R399, R405): what must have
drained, what is counted, and what goes on after the core is free. -/

namespace Sys2Proof.Machine

/-- A stream that the context in focus produces still holds flits, or its row writer has yet to write some (R63, R314). -/
def pushesWait (s : State) : Bool :=
  s.streams.any (fun st => (st.prod.kind == .resultQueue || st.prod.kind == .gussetOut) && st.prod.ctx == s.self &&
    (st.outgoing != [] || st.unsent != 0 || st.reserved != [] || (st.cons.kind == .rowWriter && st.landed != [])))

/-- An operation that the unit's counter counts: one of a queue that its trailer names (R48, R63). -/
def unitDrains (t : Trailer) (o : EngineOp) : Bool :=
  match o.kind with
  | .mma | .mmaSp | .mkat | .mzero | .mout | .moutRq => t.mat
  | .commit => t.scom
  | .copy | .copys | .copyDec | .fill | .copyPeer | .wrq | .dtab | .mirror | .tspawn => t.copy
  | .frame => true
  | .lease | .unlease => false

/-- An operation that the next program on the core waits for, whatever the trailer names: not MOUT's writes once the tile has been read, nor
MKAT's compare once it has started (R215). -/
def coreDrains (o : EngineOp) : Bool :=
  match o.kind with
  | .mma | .mmaSp | .mzero | .moutRq => true
  | .mkat => o.stage == .queued
  | .mout => o.task == []
  | _ => false

/-- An access that the unit's end waits for: all but, without ATOM, an atomic whose every part is under way (R63, R158). -/
def holdsEnd (t : Trailer) (a : Access) : Bool :=
  a.stage != .dropped && match a.kind with
  | .amo .. | .cas .. | .radd _ => t.atom || a.stage != .planned || a.parts.any (fun p => p.stage == .waiting)
  | _ => true

/-- Both slices have ended, every result has landed, every access is done, the named queues have drained, and no cause is ready that would still
fail or unwind the unit (R48, R158, R401, R409). -/
def programDone (s : State) : Bool :=
  let c := s.ctx
  let t := c.info.trailer
  c.run == .running && c.endedC && c.endedX && c.latches == [] && !c.accesses.any (holdsEnd t) && !betterReady s && !withdrawn s &&
  !c.ops.any (unitDrains t) && !(t.spsh && pushesWait s)

/-- The context is to end: its program is done, or it has been stopped and its operations have failed or completed (R367, R370). -/
def mayEnd (s : State) : Bool := programDone s || (s.ctx.run == .draining && !s.ctx.counted && s.ctx.ops == [])

/-- A group's flag counts no more once the context that set it has ended (R346). -/
def endGroups (s : State) (n : Nat) : State :=
  { s with groups := s.groups.map (fun g => if g.owner = n then { g with owner := nobody } else g) }

/-- The core or Gusset context becomes idle, with no term and no request; what nothing waits for goes on in a context of its own, which keeps the
save slot with the flags' homes: operations on queues that the trailer does not name, atomics, and streams that the unit bound (R64, R206, R316,
R399). -/
def leaveCore (s : State) : State :=
  let s := dropLease s
  let n := s.self
  let c := s.ctx
  let s := endGroups s n
  let ident := s.queues.nextOrder
  let c' := { c.dropWork with
    run := .idle, counted := false, region := { Region.none with mir := c.region.mir }, ready := .none, accesses := c.accesses
    ops := c.ops.filter (fun o => o.kind != .lease && o.kind != .unlease) }
  let s := { s with ctx := .idle, others := upsert Prod.fst (1024 + ident, c') s.others, queues := { s.queues with nextOrder := ident + 1 } }
  (rehome s n (1024 + ident)).withCtx (1024 + ident) sweep

/-- How a launch counts a unit's end (R48, R54, R367). -/
def countEnd (f : Fate) (l : LaunchSlot) : LaunchSlot :=
  match f with
  | .ended => { l with count := l.count - 1 }
  | .failed _ => { l with count := l.count - 1, nbad := l.nbad + 1, failed := true }
  | .cancelled => { l with count := l.count - 1, nbad := l.nbad + 1, cancelled := true }
  | .squashed => l

/-- The unit has retired: its core is free, or its matrix commands hold it until they have completed or read their tiles (R215). -/
def freeCore (s : State) : State :=
  if s.ctx.ops.any coreDrains then
    s.mod (fun c => { c.dropWork with
      run := .draining, counted := true, region := { Region.none with mir := c.region.mir }, ready := .none, accesses := c.accesses })
  else leaveCore s

/-- A unit retires: its streams go, it is counted, its core is free once its matrix commands let it be, and its launch may retire (R48, R90, R215,
R314). -/
def execUnitRetire (s : State) : Result :=
  if !decide (s.self < 128) then .next s
  else if mayEnd s then
    let c := s.ctx
    let s := freeCore (tearDownAll s (hasEnd s.self))
    let s := modSlot s c.info.slot (countEnd c.fate)
    .next (retireLaunch (freeBarriers s c.info.slot) c.info.slot)
  else .next (if s.ctx.counted then freeCore s else s)

/-- A Gusset context ends: its streams go, its set-aside entries return, its window is cleared, and its word is written once its last access is
performed (R302, R304, R419). -/
def execContextEnd (s : State) : Result :=
  if !mayEnd s || !isGusset s.self || s.ctx.ops.any coreDrains then .next s
  else
    let n := s.self
    let s := tearDownAll s (hasEnd n)
    let s := leaveCore (s.mod (fun c => { c with owesWord := true }))
    let g := s.gussetState (gidOf n)
    let s := s.setGusset { g with minres := g.minres.filter (fun p => p.1 != gctxOf n) }
    .next s

end Sys2Proof.Machine
end

