-- ==== Sys2Proof/Machine/Engines.lean ====
section
/-! DEFINITION. How engine operations fail and offer their faults (R249, R392, R403, R406), wait for earlier accesses (R356), and use the lines
they have read (R244, R268). -/

namespace Sys2Proof.Machine

/-- An operation stops on a fault: poison it read starts the test of its storage, and inside the open region unwinds that region
(R403, R406). A mirror's record has the peer's fault code, of which a fault met here has none, and the first byte that the peer has not
acknowledged (R402; assumption 113). -/
def engineFail (s : State) (o : EngineOp) (c : Cause) (bytes va : Nat) : State :=
  let s := if c = .ecc then testStorage s va else s
  let s := if o.kind = .mirror then failOp s o 3 0 0 (4096 * o.pages.headD 0) else failOp s o 1 c.code bytes va
  if c = .ecc ∧ o.sinceOpen ∧ s.ctx.region.isOpen then
    s.mod (fun x => { x with ready := { x.ready with ecc := some (BitVec.ofNat 64 va, o.iaddr) } })
  else s

/-- A PAGE or PERM fault that an endpoint met is offered and the operation is held; any other fault, or one with no room, fails it (R249, R392).
An operation that was stopped in the middle of a row or pass fails as that stop says (R370). -/
def engineFault (s : State) (o : EngineOp) (c : Cause) (src : Nat) (write : Bool) (bytes va : Nat) : State :=
  match o.stage with
  | .failing st code => failUnnamed s o st code bytes
  | _ =>
    if c = .page ∨ c = .perm then
      match offerFault s c (if write then 5 else 4) (BitVec.ofNat 64 va) src true o.id with
      | some (tok, s') => s'.mod (putOp { o with stage := .offered c (BitVec.ofNat 64 va) tok, progress := bytes })
      | none => engineFail s o c bytes va
    else engineFail s o c bytes va

/-- The endpoint that a copy or commit reads and writes from. -/
def ownEndpoint (s : State) : Nat := endpointOf (homeOf s)

/-- The fork edge: every access of the operation's class issued before it is performed (R356). -/
def forked (s : State) (o : EngineOp) : Bool :=
  (s.ctx.accesses ++ keptBefore s.ctx o).all (fun a => decide (o.id ≤ a.id) || a.kind == .fetch || a.performed || !(a.cls == o.cls || a.tso || a.stage == .walking))

/-- n bytes of the element stream at an address, at k planes, as the operation has read them: none while their line has not come, or what stops
it there. A line whose page's check failed has not been asked for: `pend` says what that check found. -/
def readHere (o : EngineOp) (pipe : Option Bool) (pend : Option (Cause × Nat)) (k va n : Nat) : Except (Cause × Nat) (Option (PageAttr × List Byte)) :=
  match o.readAt pipe va with
  | none => match pend with
    | some f => .error f
    | none => .ok none
  | some r =>
    if r.stage != .returned then .ok none
    else match r.cause with
      | some c => .error (c, va)
      | none => if r.spoiled k va n then .error (.ecc, va) else .ok (some (r.attr, r.bytes o.got va n))

/-- Pieces of the element stream, in order, as the operation has read them: none while one of them has not come. -/
def readAll (o : EngineOp) (pipe : Option Bool) (pend : Option (Cause × Nat)) (k : Nat) : List (Nat × Nat) → Except (Cause × Nat) (Option (List (PageAttr × List Byte)))
  | [] => .ok (some [])
  | (va, n) :: rest => match readHere o pipe pend k va n with
    | .error f => .error f
    | .ok none => .ok none
    | .ok (some b) => match readAll o pipe pend k rest with
      | .ok (some l) => .ok (some (b :: l))
      | r => r

/-- An operation as it stands now. -/
def opNow (s : State) (o : EngineOp) : EngineOp := (s.ctx.ops.find? (fun x => x.id == o.id)).getD o

end Sys2Proof.Machine
end

