-- ==== Sys2Proof/Machine/Copies.lean ====
section
/-! DEFINITION. The copy family (R245 to R247, R267 to R278): COPY, COPYS, COPY.DEC, FILL, COPY.PEER, WRQ and DTAB; their start and
completion; mirrors (R413); and what the peer answers (R264, R276, R424). -/

namespace Sys2Proof.Machine

/-! ## Issue (R267, R268) -/

/-- An operation that fails at issue or its start because the link is down (R425). -/
def failNoLink (s : State) (o : EngineOp) : State := failUnnamed s o 3 Cause.bus.code 0

/-- The cluster whose buffer and decoder a context uses, its home's once it has left it (R269). -/
def engineCluster (self : Nat) (c : Context) : Nat := clusterOf (if self < 1024 then self else c.home)

/-- A COPY in its cluster's time-sorted buffer (R269). -/
def buffered (o : EngineOp) : Bool := o.kind == .copy && o.stage == .queued

/-- Entries of a cluster's buffer. -/
def bufferOf (s : State) (cluster : Nat) : List EngineOp :=
  (allContexts s).flatMap (fun p => if engineCluster p.1 p.2 = cluster then p.2.ops.filter buffered else [])

/-- The checks common to the family: ILLEGAL, ALIGN and SHAPE; then the operation is issued (R267, R268, R366). `align` and `shape`
are the SUB's own checks on the record; `op` fills in its operands. -/
def copyC (s : State) (gs : List (Fin 32)) (f : Fin 64) (r : ShapeRec) (align shape : ShapeRec → Bool)
    (wait : Bool) (op : State → EngineOp) : Result :=
  let gs := gs ++ recordRegs r
  orTrap s .control (decide (s.ctx.nflag ≤ f.val)) .illegal (
    match recordTrap s.ctx r (fun x => !strideAligned x || align x) (fun x => x.blk != 0 || shape x) with
    | .error c => orTrapG s gs true c (.next s)
    | .ok x =>
      if wait && !stalledC s gs [] then .next s
      else issueC s gs [] 20 (fun s =>
        let o := { op s with flag := f, shape := x, cls := Fin.ofNat 16 (bitsOf x.aux 30 27) }
        let s' := (s.mod Context.markEffect).mod (addOp o)
        if (o.kind == .copyPeer || o.kind == .wrq) && !s.link.up then failNoLink s' o else s'))

/-- TBL is zero but in COPY.DEC (R267). -/
def noTable (x : ShapeRec) : Bool := bitsOf x.aux 26 24 == 0

def offElem (x : ShapeRec) (v : Word) : Bool := v.toNat % x.etype.bytes != 0

/-- An operation of the family that starts at issue. -/
def copyOp (s : State) (kind : OpKind) (a b c : Word) : EngineOp :=
  { plainOp s kind a with b := b, c := c, issueTime := BitVec.ofNat 64 s.ctc, stage := .started }

/-- COPY waits in its cluster's buffer for its issue time (R269). -/
def execCopy (a b c : Fin 32) (f : Fin 64) (r : ShapeRec) (s : State) : Result :=
  let d := s.ctx.getG a
  let src := s.ctx.getG b
  let t := s.ctx.getG c
  let later := decide (s.ctc < t.toNat)
  copyC s [a, b, c] f r (fun x => offElem x d || offElem x src)
    (fun x => !noTable x || heldPageBad s src.toNat x.stride x || heldPageBad s d.toNat x.stride x)
    (later && decide (64 ≤ (bufferOf s (engineCluster s.self s.ctx)).length))
    (fun s => let o := copyOp s .copy d src t
      if later then { o with issueTime := t, stage := .queued } else o)

/-- COPYS (R267). -/
def execCopys (a b c : Fin 32) (f : Fin 64) (r : ShapeRec) (s : State) : Result :=
  let d := s.ctx.getG a
  let src := s.ctx.getG b
  let t := s.ctx.getG c
  copyC s [a, b, c] f r (fun x => offElem x d || offElem x src || offElem x t)
    (fun x => !noTable x || decide (2 ^ 31 ≤ t.toNat) || heldPageBad s src.toNat x.stride x ||
      heldRowsBad s (pageBreaks x t.toNat) d.toNat t.toNat (x.cols * x.etype.bytes) x.rows)
    false (fun s => copyOp s .copys d src t)

/-- COPY.DEC (R273). -/
def execCopyDec (a b : Fin 32) (f : Fin 64) (r : ShapeRec) (s : State) : Result :=
  let d := s.ctx.getG a
  let src := s.ctx.getG b
  copyC s [a, b] f r (fun x => offElem x d)
    (fun x => !(x.etype == .z8 || x.etype == .q) || heldPageBad s d.toNat x.stride x)
    false (fun s => copyOp s .copyDec d src 0)

/-- FILL (R271). -/
def execFill (a b : Fin 32) (f : Fin 64) (r : ShapeRec) (s : State) : Result :=
  let d := s.ctx.getG a
  let v := s.ctx.getG b
  copyC s [a, b] f r (fun x => offElem x d) (fun x => !noTable x || heldPageBad s d.toNat x.stride x)
    false (fun s => copyOp s .fill d v 0)

/-- COPY.PEER (R276). -/
def execCopyPeer (a b c : Fin 32) (f : Fin 64) (r : ShapeRec) (s : State) : Result :=
  let d := s.ctx.getG a
  let src := s.ctx.getG b
  let tag := s.ctx.getG c
  copyC s [a, b, c] f r (fun x => offElem x d || offElem x src)
    (fun x => !noTable x || decide (2 ^ 32 ≤ tag.toNat) || heldPageBad s src.toNat x.stride x)
    false (fun s => copyOp s .copyPeer d src tag)

/-- WRQ: at most 64 KiB of payload (R277). -/
def execWrq (a b c : Fin 32) (f : Fin 64) (r : ShapeRec) (s : State) : Result :=
  let d := s.ctx.getG a
  let src := s.ctx.getG b
  let task := s.ctx.getG c
  copyC s [a, b, c] f r (fun x => offElem x d || offElem x src || task.toNat % 64 != 0)
    (fun x => !noTable x || decide (2 ^ 16 < x.rows * x.cols * x.etype.bytes) || heldPageBad s src.toNat x.stride x)
    false (fun s => copyOp s .wrq d src task)

/-- DTAB: one row of 128 z8 elements (R274). -/
def execDtab (a : Fin 32) (f : Fin 64) (r : ShapeRec) (s : State) : Result :=
  let src := s.ctx.getG a
  copyC s [a] f r (fun _ => src.toNat % 64 != 0)
    (fun x => !noTable x || x.rows != 1 || x.cols != 128 || x.stride != 0 || x.etype != .z8 || bitsOf x.aux 23 3 != 0 ||
      heldPageBad s src.toNat 0 x)
    false (fun s => copyOp s .dtab src 0 0)

/-! ## Start (R269) -/

/-- Operations of the copy family that COPY_START and COPY_COMPLETE count. -/
def inCopyFamily (o : EngineOp) : Bool := o.kind.isCopy && o.kind != .tspawn

/-- The n-th operation of the context in focus leaves the buffer once the CTC has reached its issue time, the entries before it in
time and issue order having left. -/
def execCopyStart (n : Nat) (s : State) : Result :=
  match (s.ctx.ops.filter inCopyFamily)[n]? with
  | none => .next s
  | some o =>
    let earlier (x : EngineOp) : Bool := decide (x.issueTime.toNat < o.issueTime.toNat) || (x.issueTime == o.issueTime && decide (x.seq < o.seq))
    if !buffered o || decide (s.ctc < o.issueTime.toNat) || (bufferOf s (engineCluster s.self s.ctx)).any earlier then .next s
    else .next (s.mod (putOp { o with stage := .started }))

/-- The slack an operation's packets start at (R272). -/
def copySlack (s : State) (o : EngineOp) : Nat :=
  let dl := if o.kind = .dtab ∨ o.kind = .mirror then 0 else bitsOf o.shape.aux 23 0
  if dl = 0 then 4095 else Nat.min 4094 ((o.issueTime.toNat + 64 * dl - s.ctc) * 23 / 40)

/-! ## Elements (R268) -/

/-- Planes at which an operation reads q elements: its record's, and all for a mirror (R268, R413). -/
def opPlanes (o : EngineOp) : Nat := if o.kind = .mirror then 8 else o.shape.planes

/-- A q element moves as its code at the record's planes (R268). -/
def cutCode (r : ShapeRec) (a : PageAttr) (bs : List Byte) : List Byte := cutCodes r.etype a r.planes bs

/-- Destination stride; the row pitch of a tile (R339). -/
def destStride (o : EngineOp) : Nat :=
  if o.kind = .copys then o.c.toNat
  else if o.kind = .commit then (o.shape.cols * o.shape.etype.bytes + 127) / 128 * 128
  else o.shape.stride

/-- Row 0 of the destination: a tile's rows follow its header (R339). -/
def destBase (o : EngineOp) : Nat := if o.kind = .commit then o.a.toNat + 128 else o.a.toNat

def srcAddr (o : EngineOp) (k : Nat) : Nat :=
  (o.b.toNat + k / o.shape.cols * o.shape.stride + k % o.shape.cols * o.shape.etype.bytes) % 2 ^ 64

def dstAddr (o : EngineOp) (k : Nat) : Nat :=
  (destBase o + k / o.shape.cols * destStride o + k % o.shape.cols * o.shape.etype.bytes) % 2 ^ 64

def elemCount (o : EngineOp) : Nat := o.shape.rows * o.shape.cols

/-- The value FILL writes. -/
def fillBytes (o : EngineOp) : List Byte := leBytes o.shape.etype.bytes o.b.toNat

/-- What an operation reads, in ascending row-major order: addresses and sizes. COPY.DEC reads as it decodes. -/
def spanOf (o : EngineOp) : List (Nat × Nat) :=
  let elems := (List.range (elemCount o)).map (fun i => (srcAddr o i, o.shape.etype.bytes))
  match o.kind with
  | .fill | .copyDec => []
  | .dtab => [(o.a.toNat, 64), ((o.a.toNat + 64) % 2 ^ 64, 64)]
  | .mirror => o.pages.flatMap (fun p => (List.range 32).map (fun i => (4096 * p + 128 * i, 128)))
  | .wrq => elems ++ [(o.c.toNat, 64)]
  | _ => elems

/-- The check of a source page (R71, R197, R268, R274); a WRQ's record lies in a raw page. -/
def sourceCheck (o : EngineOp) (va : Nat) (a : PageAttr) : Option Cause :=
  let bad : Bool := match o.kind with
    | .mirror => false
    | .dtab => pageBreaks o.shape 0 a
    | .wrq => if va = o.c.toNat then a.fmt != .raw else pageBreaks o.shape o.shape.stride a
    | _ => pageBreaks o.shape o.shape.stride a
  if bad then some .shape else none

/-- Ask for the next line, in ascending row-major order, at most 64 of them outstanding (R378): what its page's check finds, or the state after. -/
def seekNext (s : State) (o : EngineOp) (slack : Nat) : Except (Cause × Nat) State :=
  match (linesOf (spanOf o))[o.nextRead]? with
  | none => .ok s
  | some (va, m) => if 64 ≤ o.outstanding then .ok s else seekLine s o none .read (sourceCheck o va) slack (opPlanes o) va m

/-- A turn first asks for a line; a check that fails is remembered, since what comes before it is done first (R268). -/
def seekTurn (s : State) (o : EngineOp) (slack : Nat) : State × Option (Cause × Nat) :=
  match seekNext s o slack with
  | .ok s' => (s', none)
  | .error f => (s, some f)

/-- Element k of the source: none while its line has not come, or what stops it. -/
def sourceElem (o : EngineOp) (pend : Option (Cause × Nat)) (k : Nat) : Except (Cause × Nat) (Option (List Byte)) :=
  if o.kind = .fill then .ok (some (fillBytes o))
  else match readHere o none pend (opPlanes o) (srcAddr o k) o.shape.etype.bytes with
    | .error f => .error f
    | .ok none => .ok none
    | .ok (some p) => .ok (some (cutCode o.shape p.1 p.2))

/-- Element k lies in the row and the destination line of element k₀. -/
def sameRun (o : EngineOp) (k₀ k : Nat) : Bool :=
  decide (k < elemCount o) && k / o.shape.cols == k₀ / o.shape.cols && dstAddr o k / 128 == dstAddr o k₀ / 128

/-- The bytes of the elements from k on, at most n, that go to the row and line of element k₀: none while one has not come; an element that stops
the operation ends the run before it. -/
def gatherRun (o : EngineOp) (pend : Option (Cause × Nat)) (k₀ : Nat) : Nat → Nat → Except (Cause × Nat) (Option (List Byte))
  | 0, _ => .ok (some [])
  | n + 1, k =>
    if !sameRun o k₀ k then .ok (some [])
    else match sourceElem o pend k with
      | .error f => if k = k₀ then .error f else .ok (some [])
      | .ok none => .ok none
      | .ok (some bs) => match gatherRun o pend k₀ n (k + 1) with
        | .ok (some l) => .ok (some (bs ++ l))
        | r => r

/-! ## Writing the destination (R268, R275, R370) -/

/-- The sensor that a commit names (R340). -/
def commitSensor (o : EngineOp) : Nat := bitsOf o.c.toNat 8 0

/-- Every earlier commit of the sensor, in any context, has completed or failed (R341). -/
def commitTurn (s : State) (o : EngineOp) : Bool :=
  !(allContexts s).any (fun p => p.2.ops.any (fun x => x.kind == .commit && commitSensor x == commitSensor o && decide (x.seq < o.seq)))

/-- A commit that is to fail: it stands until its turn (R341). -/
def standFailed (o : EngineOp) (c : Cause) (va : Nat) : EngineOp := { o with stage := .suspended c (BitVec.ofNat 64 va) }

/-- A commit meets a fault: PAGE and PERM are offered, and what is not resolved fails it in its turn (R249, R341). -/
def stopCommit (s : State) (o : EngineOp) (c : Cause) (write : Bool) (va : Nat) : State :=
  match o.stage with
  | .failing st code => failUnnamed s o st code o.progress
  | _ => match (if c = .page ∨ c = .perm then offerFault s c (if write then 5 else 4) (BitVec.ofNat 64 va) (ownEndpoint s) true o.id else none) with
    | some (tok, s') => s'.mod (putOp { o with stage := .offered c (BitVec.ofNat 64 va) tok })
    | none => s.mod (putOp (standFailed o c va))

/-- An operation stops on a fault: one that no symbol of its table matches is no fault of an address (R247). -/
def stopOn (s : State) (o : EngineOp) (c : Cause) (write : Bool) (va : Nat) : State :=
  if c = .decode then failUnnamed s o 1 c.code o.progress
  else if o.kind = .commit then stopCommit s o c write va else engineFault s o c (ownEndpoint s) write o.progress va

/-- The check of a destination page. -/
def destCheck (o : EngineOp) (a : PageAttr) : Option Cause :=
  if pageBreaks o.shape (destStride o) a || (o.kind == .commit && a.fmt != .raw) then some .shape else none

/-- Send the bytes of a run to where element k goes: a COPY.PEER's to the link, to be translated at the peer (R276). -/
def sendRun (s : State) (o : EngineOp) (slack k : Nat) (bs : List Byte) : State :=
  if o.kind = .copyPeer then
    (sendWrite s o { va := dstAddr o k, attr := apertureAttr 0, place := .peer (dstAddr o k), bytes := bs, stage := .sent, cause := none
                     slack := slack, late := false }).getD s
  else match putLine s o (destCheck o) slack (dstAddr o k) bs with
    | .error (c, va) => stopOn s o c true va
    | .ok s' => s'

/-- What follows a run that has been written: the end of the operation, the end of one stopped in this row, or its next run. -/
def ranTo (s : State) (o : EngineOp) (finish : State → EngineOp → State) : State :=
  if elemCount o * o.shape.etype.bytes ≤ o.progress then finish s o
  else match o.stage with
    | .failing st code => if o.progress % o.rowSize = 0 then failUnnamed s o st code o.progress else s.mod (putOp o)
    | _ => s.mod (putOp o)

/-- The write under way, if any, has come back or failed; without one, `next` goes on. -/
def writeTurn (s : State) (o : EngineOp) (finish : State → EngineOp → State) (next : State) : State :=
  match o.write with
  | none => next
  | some w =>
    if w.stage != .returned then s
    else match w.cause with
      | some c => stopOn s { o with write := none } c true w.va
      | none => ranTo s { o with write := none, progress := o.progress + w.bytes.length } finish

/-- A turn of COPY, COPYS, FILL, COPY.PEER or a commit's rows: one line is asked for, and the next run is written once its source has come. -/
def moveTurn (s : State) (o : EngineOp) (slack : Nat) (finish : State → EngineOp → State) : State :=
  let (s, pend) := seekTurn s o slack
  let o := opNow s o
  let k := o.progress / o.shape.etype.bytes
  writeTurn s o finish (match gatherRun o pend k o.shape.cols k with
    | .error (c, va) => stopOn s o c false va
    | .ok none => s
    | .ok (some bs) => sendRun s o slack k bs)

/-! ## The entropy decoder (R245 to R247) -/

/-- Code lengths of the 256 symbols of a table image. -/
def codeLengths (img : List Byte) : List Nat := img.flatMap (fun b => [b.toNat % 16, b.toNat / 16])

/-- A table is refused: no symbol, or a Kraft sum above 1 (R245). -/
def tableBad (lens : List Nat) : Bool :=
  lens.all (· == 0) || decide (2 ^ 15 < (lens.map (fun l => if l = 0 then 0 else 2 ^ (15 - l))).sum)

/-- The canonical code of symbol x, when it occurs (R246): the sum over the symbols before it in (length, symbol) order. -/
def codeFor (lens : List Nat) (x : Nat) : Nat :=
  let l := lens.getD x 0
  ((List.range lens.length).zip lens).foldl (fun n p =>
    if p.2 != 0 && (decide (p.2 < l) || (p.2 == l && decide (p.1 < x))) then n + 2 ^ (l - p.2) else n) 0

/-- The symbol with a code of a length. -/
def symbolOf (lens : List Nat) (l code : Nat) : Option Nat :=
  (List.range lens.length).find? (fun x => lens.getD x 0 == l && codeFor lens x == code)

/-- Why a decode goes no further for now: a fault, a line still to be asked for, or one that has not come. -/
inductive Halt where
  | fault (c : Cause) (va : Nat)
  | needs (va : Nat)
  | wait
  deriving DecidableEq, Repr

/-- The address of the byte that holds bit number `pos` of the source stream. -/
def bitAddr (o : EngineOp) (pos : Nat) : Nat := (o.b.toNat + pos / 8) % 2 ^ 64

/-- Bit number `pos` of the source stream. -/
def sourceBit (o : EngineOp) (pend : Option (Cause × Nat)) (pos : Nat) : Except Halt Nat :=
  match readHere o none pend 8 (bitAddr o pos) 1 with
  | .error f => .error (.fault f.1 f.2)
  | .ok none => .error (if (o.readAt none (bitAddr o pos)).isNone then .needs (bitAddr o pos) else .wait)
  | .ok (some p) => .ok (leNat p.2 / 2 ^ (pos % 8) % 2)

/-- Decode one symbol from a bit position: at most n more bits; DECODE when 15 bits start no code. -/
def decodeSymbol (o : EngineOp) (pend : Option (Cause × Nat)) : Nat → Nat → Nat → Nat → Except Halt (Nat × Nat)
  | 0, _, _, pos => .error (.fault .decode (bitAddr o pos))
  | n + 1, l, code, pos =>
    match sourceBit o pend pos with
    | .error h => .error h
    | .ok b =>
      match symbolOf o.pages (l + 1) (2 * code + b) with
      | some x => .ok (x, pos + 1)
      | none => decodeSymbol o pend n (l + 1) (2 * code + b) (pos + 1)

/-- The symbols from output k on, at most n, that go to the row and line of output k₀, and the bit after them. -/
def decodeRun (o : EngineOp) (pend : Option (Cause × Nat)) (k₀ : Nat) : Nat → Nat → Nat → Except Halt (List Byte × Nat)
  | 0, _, pos => .ok ([], pos)
  | n + 1, k, pos =>
    if !sameRun o k₀ k then .ok ([], pos)
    else match decodeSymbol o pend 15 0 0 pos with
      | .error (.fault c va) => if k = k₀ then .error (.fault c va) else .ok ([], pos)
      | .error h => .error h
      | .ok (x, next) => match decodeRun o pend k₀ n (k + 1) next with
        | .ok (l, last) => .ok (BitVec.ofNat 8 x :: l, last)
        | .error h => .error h

/-- A code table of a cluster's decoder; empty when it holds no symbol. -/
def tableOf (s : State) (cluster t : Nat) : List Nat := (((s.arrayAt cluster).tables.find? (fun p => p.1 == t)).map Prod.snd).getD []

def setTable (s : State) (cluster t : Nat) (lens : List Nat) : State :=
  let a := s.arrayAt cluster
  s.setArray { a with tables := if lens = [] then a.tables.filter (fun p => p.1 != t) else upsert Prod.fst (t, lens) a.tables }

/-- The decoder takes one context's operations in issue order, and those of different contexts in order of arrival; one held by a
fault does not keep the others (R270). -/
def decoderTurn (s : State) (o : EngineOp) : Bool :=
  let mine (p : Nat × Context) := engineCluster p.1 p.2 == engineCluster s.self s.ctx
  !(allContexts s).any (fun p => mine p && p.2.ops.any (fun x =>
    (x.kind == .copyDec || x.kind == .dtab) && (x.stage == .started || x.isFailing) && decide (x.seq < o.seq)))

/-! ## Turns (R275, R378) -/

/-- A run whose destination's fault is offered has taken no bit of the source: the next try decodes it again (R247, R249). -/
def bitsBack (o : EngineOp) (c : Context) : Context :=
  { c with ops := c.ops.map (fun x => match x.stage with
    | .offered .. => if x.id = o.id then { x with bitPos := o.bitPos } else x
    | _ => x) }

/-- A turn of COPY.DEC, with the table its decoder held when it started (R247, R270, R273): symbols are decoded up to the end of a destination
line, the lines they need asked for one by one, and then written. -/
def decodeTurn (s : State) (o : EngineOp) (slack : Nat) : State :=
  let lens := if o.pages = [] then tableOf s (engineCluster s.self s.ctx) (bitsOf o.shape.aux 26 24) else o.pages
  let o := { o with pages := lens }
  let run (pend : Option (Cause × Nat)) := decodeRun o pend o.progress o.shape.cols o.progress o.bitPos
  let act (s : State) (r : Except Halt (List Byte × Nat)) : State := match r with
    | .error (.fault c va) => stopOn s o c false va
    | .error _ => s
    | .ok (bs, pos) => (sendRun s { o with bitPos := pos } slack o.progress bs).mod (bitsBack o)
  if lens = [] then failUnnamed s o 1 Cause.decode.code 0
  else
    let s := s.mod (putOp o)
    writeTurn s o completeOp (match run none with
      | .error (.needs va) => match seekLine s o none .decSource (fun a => if a.ec then none else some .perm) slack 8 va 15 with
        | .ok s' => s'
        | .error f => act s (run (some f))
      | r => act s r)

/-- What an operation that reads before it acts has read, once all of it has come; a fault stops it. -/
def readTurn (s : State) (o : EngineOp) (slack : Nat) (act : State → EngineOp → List (PageAttr × List Byte) → State) : State :=
  let (s, pend) := seekTurn s o slack
  let o := opNow s o
  match readAll o none pend (opPlanes o) (spanOf o) with
  | .error (c, va) => stopOn s o c false va
  | .ok none => s
  | .ok (some l) => act s o l

/-- DTAB (R245, R274). -/
def loadTable (s : State) (o : EngineOp) (l : List (PageAttr × List Byte)) : State :=
  let cl := engineCluster s.self s.ctx
  let lens := codeLengths (l.flatMap Prod.snd)
  if tableBad lens then failUnnamed (setTable s cl (o.shape.aux % 8) []) o 1 Cause.decode.code 0
  else completeOp (setTable s cl (o.shape.aux % 8) lens) o

/-- WRQ sends its payload and its record as one (R277); the record's page is raw. -/
def sendWrq (s : State) (o : EngineOp) (l : List (PageAttr × List Byte)) : State :=
  let task := l.getLastD (apertureAttr 0, [])
  let row (i : Nat) : List Byte := ((l.drop (i * o.shape.cols)).take o.shape.cols).flatMap (fun p => cutCode o.shape p.1 p.2)
  let slack := copySlack s o
  if task.1.fmt != .raw then stopOn s o .shape false o.c.toNat
  else { s.mod (putOp { o with stage := .atPeer }) with
    out := s.out ++ [.wrq ⟨s.ctx.info.asid, o.a.toNat, o.shape, (List.range o.shape.rows).map row, task.2, o.c, slack, slack == 0⟩] }

/-- A mirror sends its pages (R413). -/
def sendMirror (s : State) (o : EngineOp) (l : List (PageAttr × List Byte)) : State :=
  let page (i : Nat) : Nat × List Byte := (4096 * o.pages.getD i 0, ((l.drop (32 * i)).take 32).flatMap Prod.snd)
  let slack := copySlack s o
  { s.mod (putOp { o with stage := .atPeer }) with
    out := s.out ++ [.mirror ⟨s.ctx.info.asid, (List.range o.pages.length).map page, slack, slack == 0, true⟩] }

/-- What sends over the link waits while it takes nothing (R423). -/
def onceTaken (act : State → EngineOp → List (PageAttr × List Byte) → State) (s : State) (o : EngineOp) (l : List (PageAttr × List Byte)) : State :=
  if linkTakes s then act s o l else s

/-- A turn of a mirror: with the link down it fails (R425). -/
def mirrorTurn (s : State) (o : EngineOp) : State :=
  let o := { o with a := BitVec.ofNat 64 (4096 * o.pages.headD 0) }
  if !s.link.up then (failOp s o 3 Cause.bus.code 0 o.a.toNat).mod clearMir
  else (readTurn (s.mod (putOp o)) o (copySlack s o) (onceTaken sendMirror)).mod clearMir

/-- Every mirror of an earlier CLOSE of the context has left (R426). -/
def mirrorTurnOf (s : State) (o : EngineOp) : Bool :=
  !s.ctx.ops.any (fun x => x.kind == .mirror && decide (x.seq < o.seq) && x.stage != .atPeer)

/-- An operation of the copy family may take a turn. -/
def copyReady (s : State) (o : EngineOp) : Bool :=
  (o.stage == .started || o.isFailing || (o.kind == .mirror && o.stage == .queued)) && (if o.kind = .mirror then mirrorTurnOf s o else forked s o) &&
  !((o.kind == .copyDec || o.kind == .dtab) && !decoderTurn s o)

/-- The n-th operation of the copy family of the context in focus takes a turn: it asks for a line, and writes, sends or loads what has come. -/
def execCopyComplete (n : Nat) (s : State) : Result :=
  match (s.ctx.ops.filter inCopyFamily)[n]? with
  | none => .next s
  | some o =>
    if !copyReady s o then .next s
    else match o.kind with
      | .copyDec => .next (sweep (decodeTurn s o (copySlack s o)))
      | .dtab => .next (sweep (readTurn s o (copySlack s o) loadTable))
      | .wrq => .next (sweep (readTurn s o (copySlack s o) (onceTaken sendWrq)))
      | .mirror => .next (sweep (mirrorTurn s o))
      | _ => .next (sweep (moveTurn s o (copySlack s o) completeOp))

/-! ## The peer's answers (R264, R276, R424, R426) -/

/-- The reply of the link interface to a request that crossed it: it goes on with the slack and the late bit that the peer's answer brings (R290,
R297). -/
def linkReply (s : State) (r : PeerReply) (dst acc part urg va cls bytes : Nat) : State :=
  injectAll s { id := 0, kind := .reply, lead := false, urg := urg, va := va, src := 450, dst := dst, mask := oneClass cls, slack := r.slack
                late := r.late, input := 0, ctx := s.self, acc := acc, part := part } (flitsFor bytes)

/-- What an element read at the peer gives its access. -/
def takeElem (a : Access) (e : Elem) (v : Nat) : Access :=
  match a.kind with
  | .load .. | .amo .. | .cas .. => { a with data := [v] }
  | .roi => { a with data := modifyNth (fun _ => v) e.row a.data }
  | .vload | .vloads | .gather => { a with data := addLane a.laneWidth e.row e.lane (atPlanes a e v) a.data }
  | _ => a

/-- The answer's data, element by element: the whole line for a q element. -/
def takeElems : Access → List Elem → List Byte → Access
  | a, [], _ => a
  | a, e :: es, bs =>
    if e.attr.fmt = .q then
      let code := readPlanes (writeBytes [] 0 (bs.take 128)) 0 (e.va % 2 ^ e.attr.sizeLog % 128) e.attr.spl
      takeElems (takeElem a e code) es (bs.drop 128)
    else takeElems (takeElem a e (leNat (bs.take e.n))) es (bs.drop e.n)

/-- The peer answers a part of an access: its data, or BUS (R264). -/
def answerPart (s : State) (a : Access) (p : Part) (r : PeerReply) : State :=
  if r.ok then
    settle (linkReply (s.mod (putAccess { takeElems a p.elems r.data with
      parts := a.parts.map (fun q => if q.line = p.line then { q with stage := .performed } else q) })) r (endpointOf s.self) a.id p.line a.level
        ((p.elems.map Elem.va).headD 0) a.cls.val (replyBytes s a p))
  else settle (s.mod (putAccess (a.faultAt .bus (BitVec.ofNat 64 ((p.elems.map Elem.va).headD 0)))))

/-- The peer answers a line that an operation reads. -/
def answerRead (s : State) (o : EngineOp) (l : LineRead) (r : PeerReply) : State :=
  let o' := if r.ok then { o.withRead { l with stage := .performed } with got := writeBytes o.got (placeBase l.place) (r.data.take 128) }
    else o.withRead { l with stage := .performed, cause := some .bus }
  linkReply (s.mod (putOp o')) r l.src o.id l.key o.lateLevel l.va o.cls.val (if r.ok then l.replySize else 0)

/-- The peer answers a write of an operation; the refusal of a COPY.PEER's ends it with what was written (R276). -/
def answerWrite (s : State) (o : EngineOp) (w : LineWrite) (r : PeerReply) : State :=
  if !r.ok && o.kind == .copyPeer then
    failOp (if r.late then countLate s 0 w.va else s) o 3 r.code.toNat (o.progress + r.bytes) r.addr.toNat
  else linkReply (s.mod (putOp { o with write := some { w with stage := .performed, cause := if r.ok then none else some .bus } })) r
    (endpointOf (homeOf s)) o.id (writePart w.va) o.lateLevel w.va o.cls.val 0

/-- The peer answers a WRQ (R277). -/
def answerWrq (s : State) (o : EngineOp) (r : PeerReply) : State :=
  let s := if r.late then countLate s 0 o.a.toNat else s
  if r.ok then completeOp s o else failOp s o 3 r.code.toNat 0 r.addr.toNat

/-- What waits for the peer's answer. -/
inductive PeerWait where
  | read (o : EngineOp) (l : LineRead)
  | write (o : EngineOp) (w : LineWrite)
  | wrq (o : EngineOp)
  | part (a : Access) (p : Part)
  deriving DecidableEq, Repr

/-- What of a context waits at the peer (a reply of the link needs room in its port's FIFO, R284): lines of its operations, then parts of its accesses. -/
def peerWaits (c : Context) : List PeerWait :=
  c.ops.flatMap (fun o =>
    (o.reads.filter (fun l => l.stage == .filling)).map (.read o) ++ ((o.write.filter (fun w => w.stage == .filling)).toList).map (.write o) ++
    (if o.kind = .wrq ∧ o.stage = .atPeer then [.wrq o] else [])) ++
  c.accesses.flatMap (fun a => (a.parts.filter (fun p => p.stage == .filling)).map (.part a))

/-- The reply's destination, class and data, where the answer goes on as a packet. -/
def PeerWait.packet (s : State) : PeerWait → Option (Nat × Nat × Nat)
  | .read o l => some (l.src, o.cls.val, l.replySize)
  | .write o _ => some (endpointOf (homeOf s), o.cls.val, 0)
  | .wrq _ => none
  | .part a p => some (endpointOf s.self, a.cls.val, replyBytes s a p)

/-- The port of the link interface has room for the answer to what waits. -/
def answerFits (s : State) (w : PeerWait) : Bool :=
  match w.packet s with
  | none => true
  | some (dst, cls, bytes) => portRoom s { id := 0, kind := .reply, lead := false, urg := 0, va := 0, src := 450, dst := dst, mask := oneClass cls
                                           slack := 0, late := false, input := 0, ctx := 0, acc := 0, part := 0 } (flitsFor bytes)

/-- The n-th of what the context in focus waits for at the peer is answered, once the reply has room at the link's port (R284). -/
def execPeerAck (n : Nat) (reply : PeerReply) (s : State) : Result :=
  if !linkBrings s || !((peerWaits s.ctx)[n]?).all (answerFits s) then .next s
  else
  let s := hearing s
  match (peerWaits s.ctx)[n]? with
  | some (.read o l) => .next (answerRead s o l reply)
  | some (.write o w) => .next (sweep (answerWrite s o w reply))
  | some (.wrq o) => .next (sweep (answerWrq s o reply))
  | some (.part a p) => .next (answerPart s a p reply)
  | none => .next s

/-- The peer answers the oldest mirror under way (R413, R426); a late answer counts (R293). -/
def execMirrorAck (reply : PeerReply) (s : State) : Result :=
  if !linkBrings s then .next s
  else
  let s := hearing s
  match s.ctx.ops.find? (fun o => o.kind == .mirror && o.stage == .atPeer) with
  | none => .next s
  | some o =>
    let s := if reply.late then countLate s 0 o.a.toNat else s
    if reply.ok then .next (sweep ((completeOp s o).mod clearMir))
    else .next (sweep ((failOp s o 3 reply.code.toNat reply.bytes reply.addr.toNat).mod clearMir))

/-! ## What arrives from the peer (R82, R83, R276, R277, R424, R426) -/

/-- What came from the peer is answered. What it waits in this part's arbiters takes from its slack (R289, R297): how much is left the timing
decides, so it is a free value no larger than what the message brought (assumption 97). -/
def acknowledge (s : State) (slack : Nat) (late : Bool) (r : PeerReply) : State :=
  let k := if late then 0 else Config.lateRequests s.draws % (slack + 1)
  { s.drawn with out := s.out ++ [.ack { r with slack := k, late := late || k == 0 }] }

/-- Done, with so many bytes. -/
def doneReply (n : Nat) : PeerReply := ⟨true, 0, n, 0, [], 0, false⟩

/-- Refused at an address with a fault's code, after a prefix of n bytes. -/
def faultReply (c : Cause) (n va : Nat) : PeerReply := ⟨false, BitVec.ofNat 8 c.code, n, BitVec.ofNat 64 va, [], 0, false⟩

/-- A range is split where a page of 4 KiB ends, so that each piece lies in one page. -/
def pageSplit : Nat → Nat → List Byte → List (Nat × List Byte)
  | 0, _, _ => []
  | k + 1, va, bs =>
    if bs.isEmpty then []
    else
      let n := Nat.min bs.length (4096 - va % 4096)
      (va, bs.take n) :: pageSplit k (va + n) (bs.drop n)

/-- A write of the peer in one of this part's spaces: the fault, or the state after. -/
def remoteWrite (s : State) (asid : BitVec 16) (chk : PageAttr → Option Cause) (va : Nat) (bs : List Byte) : Except Cause State :=
  match resolveOut s asid va with
  | .error c => .error c
  | .ok a =>
    if permFault a .write false then .error .perm
    else match chk a with
      | some c => .error c
      | none => if inAperture va then .error .window else match placeOf s a va with
        | .dram _ => .ok (storeStream (reach s [] asid va) a va bs)
        | _ => .error .bus

/-- What a piece that stops the range leaves behind is its walk (R217, R241). Write the pieces of a range; an error gives the state, the bytes written and the fault. -/
def remoteRun (asid : BitVec 16) (chk : PageAttr → Option Cause) : State → Nat → List (Nat × List Byte) → Except (State × Nat × Cause × Nat) State
  | s, _, [] => .ok s
  | s, n, (va, bs) :: rest => match remoteWrite s asid chk (va % 2 ^ 64) bs with
    | .ok s' => remoteRun asid chk s' (n + bs.length) rest
    | .error c => .error (reach s [] asid (va % 2 ^ 64), n, c, va)

/-- A store of the peer to this part's physical memory, or to a ring's notify page through the window (R424). -/
def physicalWrite (s : State) (w : PeerWrite) : State :=
  let n := w.bytes.length
  if registerBase + 0x100000 ≤ w.addr ∧ w.addr < registerBase + 0x200000 then
    acknowledge { s with agenda := .move (.event s.self
      (.housekeepingWrite (w.addr - registerBase - 0x100000) n (BitVec.ofNat 64 (leNat w.bytes)))) :: s.agenda } w.slack w.late (doneReply n)
  else if isDram s (w.addr - peerBase) ∧ isDram s (w.addr - peerBase + n - 1) then
    let pa := w.addr - peerBase
    let spl := w.shape.w1.toNat
    let s := if spl = 0 then storeBytes s pa w.bytes
      else touchHomes { s with mem := writePlanes s.mem pa (w.shape.w0.toNat % 128) (leNat (w.bytes.take 1)) (Nat.min 8 spl) } pa (16 * Nat.min 8 spl)
    acknowledge (countMatch s w.tag w.asid n) w.slack w.late (doneReply n)
  else acknowledge s w.slack w.late (faultReply .bus 0 0)

/-- Bytes of the peer arrive (R276, R424): a COPY.PEER's are written up to the first fault and counted in the match table. -/
def execPeerWriteArrival (pw : PeerWrite) (s : State) : Result :=
  if !linkBrings s then .next s
  else
  let s := hearing s
  if pw.physical then .next (physicalWrite s pw)
  else
    let chk (a : PageAttr) : Option Cause := if pageBreaks pw.shape pw.shape.stride a then some .shape else none
    match remoteRun pw.asid chk s 0 (pageSplit (pw.bytes.length + 1) pw.addr pw.bytes) with
    | .ok s' => .next (acknowledge (countMatch s' pw.tag pw.asid pw.bytes.length) pw.slack pw.late (doneReply pw.bytes.length))
    | .error (s', n, c, va) => .next (acknowledge (countMatch s' pw.tag pw.asid n) pw.slack pw.late (faultReply c n va))

/-- Pieces of a WRQ's payload, page by page. -/
def wrqPieces (m : WrqMsg) : List (Nat × List Byte) :=
  ((List.range m.rows.length).zip m.rows).flatMap (fun p => pageSplit (p.2.length + 1) (m.dst + p.1 * m.shape.stride) p.2)

/-- The first check of a WRQ that fails: its pages, then its record (R65, R83, R277). -/
def wrqCheck (s : State) (m : WrqMsg) : Option (Cause × Nat) :=
  let chk (a : PageAttr) : Option Cause := if pageBreaks m.shape m.shape.stride a then some .format else none
  match (wrqPieces m).findSome? (fun p => match remoteWrite s m.asid chk (p.1 % 2 ^ 64) p.2 with
    | .ok _ => none
    | .error c => some (c, p.1)) with
  | some f => some f
  | none =>
    if !taskOk m.task then some (.format, m.taskAddr.toNat)
    else if (launchOfTask s m.asid m.task).isNone then some (.noslot, m.taskAddr.toNat) else none

/-- What the checks of a WRQ leave behind: the walks of its pages up to the one that stops it (R217, R241). -/
def wrqWalks (s : State) (m : WrqMsg) : State :=
  ((wrqPieces m).foldl (fun (p : State × Bool) q =>
    if p.2 then p else (reach p.1 [] m.asid (q.1 % 2 ^ 64),
      match remoteWrite s m.asid (fun a => if pageBreaks m.shape m.shape.stride a then some .format else none) (q.1 % 2 ^ 64) q.2 with
      | .ok _ => false
      | .error _ => true)) (s, false)).1

/-- A WRQ arrives: all of it, or nothing (R277). -/
def execWrqArrival (msg : WrqMsg) (s : State) : Result :=
  if !linkBrings s then .next s
  else
  let s := hearing s
  match wrqCheck s msg with
  | some (c, va) => .next (acknowledge (wrqWalks s msg) msg.slack msg.late (faultReply c 0 va))
  | none =>
    let s' := match remoteRun msg.asid (fun _ => none) s 0 (wrqPieces msg) with
      | .ok s' => s'
      | .error (s', _) => s'
    match launchOfTask s msg.asid msg.task with
    | none => .next s
    | some l =>
      let s' := offerTask (raiseCount s' l.slot) (freshTask (taskInfo msg.asid l.slot msg.task)) (launchCluster s' l.slot)
      .next (acknowledge s' msg.slack msg.late (doneReply (msg.rows.map List.length).sum))

/-- A mirror arrives: its pages, then one count in the job's mirror word; of one cut off by a link failure a prefix of its pages is written,
nothing is counted and no answer goes back (R426). -/
def execMirrorArrival (msg : MirrorMsg) (s : State) : Result :=
  if !linkBrings s then .next s
  else
  let s := hearing s
  match remoteRun msg.asid (fun _ => none) s 0 msg.pages with
  | .error (s', n, c, va) => .next (if msg.whole then acknowledge s' msg.slack msg.late (faultReply c n va) else s')
  | .ok s' =>
    if !msg.whole then .next s' else
    let n := 4096 * msg.pages.length
    let wa := (jobAt s' msg.asid).mirwa.toNat
    if wa = 0 then .next (acknowledge s' msg.slack msg.late (doneReply n))
    else
      let s' := reach s' [] msg.asid wa
      let fail (c : Cause) : Result := .next (acknowledge s' msg.slack msg.late (faultReply c n wa))
      match resolveOut s' msg.asid wa with
      | .error c => fail c
      | .ok a =>
        if a.fmt != .raw || permFault a .atomic false then fail .perm
        else match placeOf s' a wa with
          | .dram pa =>
            let old := readLE s'.mem pa 8
            .next (acknowledge (storeBytes s' pa (leBytes 8 ((old + 1) % 2 ^ 32 + msg.pages.length * 2 ^ 32))) msg.slack
              msg.late (doneReply n))
          | _ => fail .bus

/-! ## The fault service's verdict (R392) -/

/-- The held access or operation of the context in focus goes on, or its fault is taken. -/
def verdict (s : State) (o : Offer) (retry : Bool) : State :=
  if o.engine then
    match s.ctx.ops.find? (fun x => x.id == o.ident) with
    | some x => match x.stage with
      | .offered c va _ =>
        if retry then settleLease (s.mod (putOp { x with stage := if x.kind.isMatrix || x.kind == .mirror then .queued else .started }))
        else if x.kind = .commit then s.mod (putOp (standFailed x c va.toNat))
        else afterLease (engineFail s x c x.progress va.toNat) false
      | _ => s
    | none => s
  else
    match s.ctx.accesses.find? (fun a => a.id == o.ident) with
    | some a => match a.stage with
      | .offered c va _ => settle (s.mod (putAccess { a with stage := if retry then .walking else .declined c va, parts := [], data := [] }))
      | _ => s
    | none => s

/-- A job answers an offer by its token; an unknown token is ignored (R392, R436). -/
def execFaultReply (asid : BitVec 16) (token : Word32) (retry : Bool) (s : State) : Result :=
  match s.jobOf asid with
  | none => .next s
  | some j => match j.offers.find? (fun o => o.token == token.toNat) with
    | none => .next s
    | some o =>
      let s := s.setJob { j with offers := j.offers.filter (fun x => x.token != o.token) }
      .next (s.withCtx o.ctx (fun s => sweep (verdict s o retry)))

end Sys2Proof.Machine
end

