-- ==== Sys2Proof/Machine/Sensors.lean ====
section
/-! DEFINITION. Sensor chains (R318 to R338): chip time, receiver channels and their status areas, frames and the decision of rows,
camera, Ethernet and lidar input, stage positions and row barriers, and regions of interest. -/

namespace Sys2Proof.Machine

/-! ## Receiver channels (R324) -/

def setChannel (s : State) (c : Channel) : State := { s with channels := upsert Channel.ch c s.channels }

/-- A record as it stands before anything was written to it. -/
def Channel.blank (n : Nat) : Channel :=
  { ch := n, ctl := 0, wmax := 0, hmax := 0, rowofs := 0, rowper := 0, udpport := 0, seqofs := 0, stat := 0, rsvd := 0, enabled := false
    frames := 0, refused := 0, extra := 0, other := 0, starting := none, refusing := false, held := [], nextLine := 0, lastSeq := none
    lastRow := [], nextCommit := 0, started := 0 }

namespace Channel

def lidar (c : Channel) : Bool := decide (256 ≤ c.ch)
def ehdr (c : Channel) : Bool := bitOf c.ctl.toNat 12
def lnum (c : Channel) : Bool := bitOf c.ctl.toNat 13
def lbase (c : Channel) : Nat := bitsOf c.ctl.toNat 14 14
def repl (c : Channel) : Nat := bitsOf c.ctl.toNat 16 15
def dt (c : Channel) : Nat := bitsOf c.ctl.toNat 23 18

/-- The ID of R306: 16p + v, or the Ethernet port. -/
def ident (c : Channel) : Nat := if c.lidar then c.ch - 256 else c.ch

/-- The latest accepted frame, and the open one. -/
def latest (c : Channel) : Option Frame := c.held.getLast?
def openFrame (c : Channel) : Option Frame := c.latest.filter (·.open_)

/-- The record's limits and reserved fields, and its place (R324, R435). -/
def recordOk (c : Channel) : Bool :=
  let v := c.ctl.toNat
  !bitOf v 3 && !bitOf v 17 && bitsOf v 31 24 == 0 && v / 2 ^ 48 == 0 && c.rsvd == 0 && decide (c.repl < 2) &&
  bitsOf v 2 1 == (if c.lidar then 1 else 0) && bitsOf v 11 4 == c.ident && (!c.lidar || c.dt == 0) && (c.lidar || c.udpport == 0) &&
  decide (1 ≤ c.wmax) && decide (c.wmax ≤ if c.lidar then 1472 else 8192) && decide (1 ≤ c.hmax) && decide (c.hmax ≤ 8192) &&
  c.stat.toNat % 64 == 0

/-- The deadline of row r, when rows have one (R329). -/
def deadline (c : Channel) (f : Frame) (r : Nat) : Nat := f.fs.toNat + c.rowofs.toNat + r * c.rowper

/-- The CTC has passed row r's deadline. -/
def overdue (c : Channel) (f : Frame) (now r : Nat) : Bool := c.rowofs != 0 && decide (c.deadline f r < now)

/-- A stage position: the latest accepted frame and its slots landed (R332). -/
def position (c : Channel) : Word :=
  match c.latest with
  | some f => BitVec.ofNat 64 (f.number % 2 ^ 32 * 2 ^ 32 + f.landed)
  | none => 0

end Channel

/-- The header of the status area (R328). -/
def writeHeader (s : State) (c : Channel) : State :=
  statusWrite s c 0 (leBytes 4 c.frames ++ leBytes 4 c.refused ++ leBytes 4 c.extra ++ leBytes 4 c.other)

/-- Store a channel and write its header. -/
def putCounts (s : State) (c : Channel) : State := writeHeader (setChannel s c) c

/-- A CTL written with EN = 1 installs the channel when its record passes; otherwise the channel is disabled, and CTL keeps EN = 0 (R324,
R435). -/
def execChannelInstall (ch : Fin 264) (ctl : Word) (s : State) : Result :=
  let old := (chanAt s ch.val).getD (Channel.blank ch.val)
  let c := { Channel.blank ch.val with
    ctl := ctl, wmax := old.wmax, hmax := old.hmax, rowofs := old.rowofs, rowper := old.rowper, udpport := old.udpport
    seqofs := old.seqofs, stat := old.stat, rsvd := old.rsvd }
  let on := bitOf ctl.toNat 0 && c.recordOk
  let c := { c with enabled := on, started := s.starts, ctl := if on then ctl else BitVec.ofNat 64 (ctl.toNat / 2 * 2) }
  let s := { s with starts := s.starts + 1 }
  .next (if c.enabled then statusWrite (setChannel s c) c 0 (leBytes 64 0) else setChannel s c)

/-! ## Ports (R320, R323) -/

def portIn (l : List PortState) (n : Nat) : PortState := (l.find? (fun p => p.port == n)).getD ⟨n, none, 0, 0, 0, 0⟩

/-- A packet of a port is known whole: the CTC at its first byte lies between the last packet's end and now, for packets of one link come one
after the other (R320, R323; assumption 86). -/
def heardFrom (s : State) (p : PortState) (first : Word) : Bool := decide (p.since ≤ first.toNat) && decide (first.toNat ≤ s.ctc)

/-- A camera port has heard a packet to its end. -/
def heardCamera (s : State) (port : Nat) : State :=
  { s with cameraPorts := upsert PortState.port { portIn s.cameraPorts port with since := s.ctc } s.cameraPorts }

/-- The camera port's link is up. -/
def cameraUp (s : State) (port : Nat) : Bool := (portIn s.cameraPorts port).gear.isSome

/-- A link trains at G1 to G5, or stays down (R320). -/
def execCameraLinkTraining (port : Fin 16) (gear : Nat) (s : State) : Result :=
  let p := portIn s.cameraPorts port.val
  .next { s with cameraPorts := upsert PortState.port { p with gear := if 1 ≤ gear ∧ gear ≤ 5 then some gear else none } s.cameraPorts }

/-- The return channel passes a control message to the host (R320). -/
def execControlMessagePassThrough (port : Fin 16) (message : List Byte) (s : State) : Result :=
  .next (if cameraUp s port.val then { s with out := s.out ++ [.control port.val message] } else s)

def enabledChannel (s : State) (n : Nat) : Option Channel := (chanAt s n).filter (·.enabled)

/-- A packet is discarded: the channel's OTHER, or the port's (R320). -/
def discardPacket (s : State) (port vc : Nat) : State :=
  match (if vc < 16 then enabledChannel s (16 * port + vc) else none) with
  | some c => putCounts s { c with other := c.other + 1 }
  | none =>
    let p := portIn s.cameraPorts port
    { s with cameraPorts := upsert PortState.port { p with other := p.other + 1 } s.cameraPorts }

def execOtherPacketDiscard (port : Fin 16) (vc : Fin 32) (s : State) : Result :=
  .next (if cameraUp s port.val then discardPacket (heardCamera s port.val) port.val vc.val else s)

/-! ## Rows (R321, R328 to R331) -/

/-- Bytes as flits, the last one filled with zeros (R321). -/
def flitsOf (bs : List Byte) : List (BitVec 512) :=
  (List.range ((bs.length + 63) / 64)).map (fun i => BitVec.ofNat 512 (leNat ((bs.drop (64 * i)).take 64)))

/-- The stream a channel produces. -/
def streamOf (s : State) (ch : Nat) : Option Stream :=
  s.streams.find? (fun st => (st.prod.kind == .camera || st.prod.kind == .ethernet) && channelOf st.prod == ch)

/-- A row slot goes out on the channel's stream; with no stream bound it is lost. -/
def sendSlot (s : State) (ch : Nat) (f : Frame) (r : Nat) (bs : List Byte) : State :=
  match streamOf s ch with
  | none => s
  | some st =>
    let fl := flitsOf bs
    setStream s { st with
      outgoing := st.outgoing ++ fl
      slots := st.slots ++ (List.range fl.length).map (fun i =>
        (f.number, r, i == 0, i + 1 == fl.length, i + 1 == fl.length && r + 1 == f.height)) }

def RowStatus.code : RowStatus → Nat
  | .good => 0 | .corrupt => 1 | .dropped => 2 | .late => 3

/-- Rows of a status among those decided. -/
def Frame.count (f : Frame) (st : RowStatus) : Nat := f.rows.countP (fun r => r.1 == st)

/-- Decide the next row of a channel's open frame: its entry, the frame's counts and its slot. A bad row carries zeros or the slot
before it (R328, R330). -/
def decideRow (s : State) (ch : Nat) (st : RowStatus) (stamp : Nat) (data : List Byte) : State :=
  match enabledChannel s ch with
  | none => s
  | some c => match c.openFrame with
    | none => s
    | some f =>
      let r := f.rows.length
      let f' := { f with rows := f.rows ++ [(st, BitVec.ofNat 64 stamp)] }
      let size := f.width * c.etype.bytes
      let bs := if st = .good then data else if c.repl = 1 ∧ r ≠ 0 then c.lastRow else List.replicate size 0
      let c' := { c with held := c.held.map (fun x => if x.number = f.number then f' else x), lastRow := bs }
      let s := halfWrite (setChannel s c') c' f' (64 + 8 * r) (leBytes 8 (st.code * 2 ^ 62 + stamp % 2 ^ 62))
      let s := if st = .good then s
        else halfWrite s c' f' 0x12 (leBytes 2 (f'.count .corrupt) ++ leBytes 2 (f'.count .dropped) ++ leBytes 2 (f'.count .late))
      sendSlot s ch f' r bs

/-- Decide the next row as late or dropped, as the CTC stands: a late row is decided in the clock in which the CTC exceeds its deadline, or as its
frame is accepted if that is later (R328, R330). -/
def decideMissing (s : State) (ch : Nat) : State :=
  match (chanAt s ch).bind Channel.openFrame, chanAt s ch with
  | some f, some c =>
    let r := f.rows.length
    if c.overdue f s.ctc r then decideRow s ch .late (Nat.max (c.deadline f r + 1) f.opened) [] else decideRow s ch .dropped s.ctc []
  | _, _ => s

/-- Decide n rows. -/
def decideMissings (ch : Nat) : Nat → State → State
  | 0, s => s
  | n + 1, s => decideMissings ch n (decideMissing s ch)

/-- Decide as late each row whose deadline has passed, at most n of them. -/
def decideOverdue (ch : Nat) : Nat → State → State
  | 0, s => s
  | n + 1, s => match (chanAt s ch).bind Channel.openFrame, chanAt s ch with
    | some f, some c =>
      if f.rows.length < f.height ∧ c.overdue f s.ctc f.rows.length then decideOverdue ch n (decideMissing s ch) else s
    | _, _ => s

/-! ## Frames (R326, R327) -/

/-- A frame ends: what is undecided is decided, and its record says so. -/
def endFrame (s : State) (ch : Nat) : State :=
  match (chanAt s ch).bind Channel.openFrame with
  | none => s
  | some f =>
    let s := decideMissings ch (f.height - f.rows.length) s
    match chanAt s ch with
    | none => s
    | some c =>
      let c' := { c with held := c.held.map (fun x => if x.number = f.number then { x with open_ := false } else x) }
      halfWrite (setChannel s c') c' f 0x18 [2]

/-- A frame is refused: REFUSED counts it and the host is told. -/
def refuseFrame (s : State) (c : Channel) (fs : Nat) : State :=
  hostEvent (putCounts s { c with refused := c.refused + 1, refusing := true, starting := none }) 0x05 0 c.asid c.ident fs

/-- Frames still held, or with slots not yet popped. -/
def stillNeeded (s : State) (c : Channel) (number : Nat) (f : Frame) : Bool :=
  decide (number < f.number + 2) || s.streams.any (fun st =>
    (st.prod.kind == .camera || st.prod.kind == .ethernet) && channelOf st.prod == c.ch && st.slots.any (fun x => x.1 == f.number))

/-- A frame is accepted, or refused for its size. Frames are numbered as they are accepted, from 0 (R328, R332; assumption 104). -/
def startFrame (s : State) (c : Channel) (series width height fs : Nat) : State :=
  if width = 0 ∨ height = 0 ∨ c.wmax < width ∨ 8192 < width ∨ c.hmax < height then refuseFrame s c fs
  else
    let number := c.frames
    let f : Frame := { number := number, series := series, height := height, width := width, fs := BitVec.ofNat 64 fs, rows := [], landed := 0, decided := 0, opened := s.ctc
                       open_ := true }
    let c' := { c with
      frames := c.frames + 1, held := c.held.filter (stillNeeded s c number) ++ [f], starting := none, refusing := false, nextLine := 0
      lastRow := [] }
    halfWrite (putCounts s c') c' f 0
      (leBytes 4 number ++ leBytes 2 height ++ leBytes 2 width ++ leBytes 8 fs ++ leBytes 8 0 ++ [1] ++ leBytes 39 0)

/-- The Frame Start packet: an open frame ends; the frame waits for its header, or is accepted at once. -/
def execCameraFrameStart (ch : Fin 256) (s : State) : Result :=
  if !cameraUp s (ch.val / 16) then .next s
  else
  let s := heardCamera s (ch.val / 16)
  match enabledChannel s ch.val with
    | none => .next (discardPacket s (ch.val / 16) (ch.val % 16))
    | some _ =>
      let s := endFrame s ch.val
      match chanAt s ch.val with
      | none => .next s
      | some c =>
        if c.ehdr then .next (setChannel s { c with starting := some (BitVec.ofNat 64 s.ctc), refusing := false })
        else .next (startFrame s c c.frames c.wmax c.hmax s.ctc)

/-- The frame's first embedded-data packet gives its size when EHDR = 1; a later one of the frame is passed over. -/
def execEmbeddedHeader (ch : Fin 256) (width height : BitVec 16) (s : State) : Result :=
  if !cameraUp s (ch.val / 16) then .next s
  else
  let s := heardCamera s (ch.val / 16)
  match enabledChannel s ch.val with
    | none => .next (discardPacket s (ch.val / 16) (ch.val % 16))
    | some c =>
      if !c.ehdr then .next (discardPacket s (ch.val / 16) (ch.val % 16))
      else match c.starting with
        | some fs => .next (startFrame s c c.frames width.toNat height.toNat fs.toNat)
        | none => .next s

/-- Frame End. -/
def execCameraFrameEnd (ch : Fin 256) (s : State) : Result :=
  if !cameraUp s (ch.val / 16) then .next s
  else
  let s := heardCamera s (ch.val / 16)
  match enabledChannel s ch.val with
    | none => .next (discardPacket s (ch.val / 16) (ch.val % 16))
    | some _ =>
      let s := endFrame s ch.val
      match chanAt s ch.val with
      | none => .next s
      | some c => .next (setChannel s { c with starting := none, refusing := false })

/-- A line is counted in EXTRA, unless its row was decided late (R327, R330). -/
def extraLine (s : State) (c : Channel) (f : Option Frame) (row : Option Nat) : State :=
  match f, row with
  | some f, some r => if (f.rows[r]?).any (fun x => x.1 == .late) then s else putCounts s { c with extra := c.extra + 1 }
  | _, _ => putCounts s { c with extra := c.extra + 1 }

/-- Image data types the port supports (R320). -/
def imageType (dt : Nat) : Bool := decide (0x2A ≤ dt) && decide (dt ≤ 0x2E) || dt == 0x1E

/-- Bits of a sample. -/
def sampleBits (dt : Nat) : Nat :=
  match dt with
  | 0x2B => 10 | 0x2C => 12 | 0x2D => 14 | 0x2E => 16 | _ => 8

/-- The bytes of a line's elements (R321). -/
def lineBytes (c : Channel) (elems : List (BitVec 16)) : List Byte :=
  elems.flatMap (fun e => leBytes c.etype.bytes (e.toNat % 2 ^ sampleBits c.dt))

/-- Flits of lines that arrived and wait in their port's buffer: what stands in a bad row's slot takes no room in it (R325, R330). -/
def lineFlits (s : State) (st : Stream) : Nat :=
  (st.slots.drop (st.slots.length - st.outgoing.length)).countP (fun x =>
    match (chanAt s (channelOf st.prod)).bind (fun c => c.held.find? (fun f => f.number == x.1)) with
    | some f => (f.rows[x.2.1]?).all (fun r => r.1 == .good)
    | none => true)

/-- Bytes a port holds for streams in the off state, and with a further line the buffer of 32 KiB would overflow (R325). -/
def portFull (s : State) (ch n : Nat) : Bool :=
  let same (x : Nat) : Bool := if ch < 256 then decide (x < 256) && x / 16 == ch / 16 else x == ch
  match streamOf s ch with
  | none => false
  | some st => !st.prodOn && decide (32768 < n + (s.streams.map (fun x =>
      if (x.prod.kind == .camera || x.prod.kind == .ethernet) && same (channelOf x.prod) then 64 * lineFlits s x else 0)).sum)

/-- The row the open frame expects has arrived whole: late, good or corrupt; a line the buffer has no room for is
discarded and its row dropped (R325, assumption 54). -/
def arriveRow (s : State) (ch : Nat) (ok : Bool) (first : Nat) (data : List Byte) : State :=
  match (chanAt s ch).bind Channel.openFrame, chanAt s ch with
  | some f, some c =>
    if c.overdue f s.ctc f.rows.length then decideMissing s ch
    else if portFull s ch data.length then decideRow s ch .dropped s.ctc []
    else if ok then decideRow s ch .good first data
    else decideRow s ch .corrupt s.ctc []
  | _, _ => s

/-- An image line has arrived whole; `first` is the CTC at its first byte, and no line answers to a stamp that it cannot have. -/
def execCameraLine (ch : Fin 256) (num dt : Nat) (crcOk : Bool) (first : Word) (elems : List (BitVec 16)) (s : State) : Result :=
  if !cameraUp s (ch.val / 16) || !heardFrom s (portIn s.cameraPorts (ch.val / 16)) first then .next s
  else
  let s := heardCamera s (ch.val / 16)
  match enabledChannel s ch.val with
    | none => .next (discardPacket s (ch.val / 16) (ch.val % 16))
    | some c =>
      if !imageType dt then .next (discardPacket s (ch.val / 16) (ch.val % 16))
      else if c.refusing then .next s
      else match c.starting with
        | some fs => .next (refuseFrame s c fs.toNat)
        | none => match c.openFrame with
          | none => .next (putCounts s { c with extra := c.extra + 1 })
          | some f =>
            let row := if c.lnum then (if c.lbase ≤ num then some (num - c.lbase) else none) else some c.nextLine
            let c := { c with nextLine := c.nextLine + 1 }
            let s := setChannel s c
            match row with
            | none => .next (putCounts s { c with extra := c.extra + 1 })
            | some r =>
              if f.height ≤ r ∨ r < f.rows.length then .next (extraLine s c (some f) row)
              else
                let s := decideMissings ch.val (r - f.rows.length) s
                .next (arriveRow s ch.val (crcOk && dt == c.dt && elems.length == f.width) first.toNat (lineBytes c elems))

/-- Rows whose deadline has passed are decided late (R329, R330). -/
def execRowDeadlineExpiry (ch : Fin 264) (s : State) : Result :=
  match (chanAt s ch.val).bind Channel.openFrame with
  | some f => .next (decideOverdue ch.val f.height s)
  | none => .next s

/-! ## Ethernet and lidar (R322, R323, R327) -/

/-- A 16-bit sequence number extended to the value nearest the previous one; the first stands for itself. -/
def extendSeq (last : Option Nat) (n : Nat) : Nat :=
  match last with
  | none => n
  | some p =>
    let d := (n + 2 ^ 16 - p % 2 ^ 16) % 2 ^ 16
    if d ≤ 2 ^ 15 then (p + d) % 2 ^ 32 else (p + 2 ^ 32 + d - 2 ^ 16) % 2 ^ 32

/-- The byte at an offset, zero past the end. -/
def byteAt (bs : List Byte) (i : Nat) : Nat := (bs.getD i 0).toNat

def be16 (bs : List Byte) (i : Nat) : Nat := 256 * byteAt bs i + byteAt bs (i + 1)

/-- A frame has arrived whole at an Ethernet port, stamped at its first bit (R323). -/
def heardEther (s : State) (port : Nat) (first : Word) (pdelay : Bool) : State :=
  let p := portIn s.etherPorts port
  { s with etherPorts := upsert PortState.port { p with
      stamp := first, since := s.ctc, pdelay := if pdelay then first else p.pdelay } s.etherPorts }

/-- The UDP payload of a lidar packet is one row, whose first bit was stamped at `first` (R323, R327). -/
def takeLidar (s : State) (ch : Nat) (c : Channel) (payload : List Byte) (udpOk : Bool) (first : Word) : State :=
  let q := extendSeq c.lastSeq (be16 payload c.seqofs)
  let number := q / c.hmax
  let r := q % c.hmax
  let c := { c with lastSeq := some q }
  let s := setChannel s c
  let size := match c.latest with
    | some f => f.width
    | none => c.wmax
  let data := payload ++ List.replicate (size - payload.length) 0
  let ok := udpOk && decide (payload.length ≤ size)
  let take (s : State) (f : Frame) : State :=
    if r < f.rows.length then extraLine s c (some f) (some r)
    else arriveRow (decideMissings ch (r - f.rows.length) s) ch ok first.toNat data
  let fresh (s : State) : State :=
    match chanAt (endFrame s ch) ch with
    | none => s
    | some c =>
      let s := startFrame (endFrame s ch) c number c.wmax c.hmax first.toNat
      match (chanAt s ch).bind Channel.openFrame with
      | some f => take s f
      | none => s
  match c.latest with
  | none => fresh s
  | some f =>
    if f.series < number then fresh s
    else if number < f.series then extraLine s c (c.held.find? (fun x => x.series == number)) (some r)
    else if f.open_ then take s f else extraLine s c (some f) (some r)

/-- A lidar packet arrives at a port whose channel takes it. -/
def execLidarPacket (port : Fin 8) (payload : List Byte) (udpOk : Bool) (first : Word) (s : State) : Result :=
  match enabledChannel s (256 + port.val) with
  | none => .next s
  | some c =>
    if !heardFrom s (portIn s.etherPorts port.val) first then .next s
    else .next (takeLidar (heardEther s port.val first false) (256 + port.val) c payload udpOk first)

/-- The frame ends once the deadline of its last row has passed. -/
def execLidarFrameTimeout (port : Fin 8) (s : State) : Result :=
  let ch := 256 + port.val
  match (chanAt s ch).bind Channel.openFrame, chanAt s ch with
  | some f, some c => if c.overdue f s.ctc (f.height - 1) then .next (endFrame s ch) else .next s
  | _, _ => .next s

/-- Ones' complement sum of 16-bit words, the last one padded. -/
def onesSum : List Byte → Nat
  | [] => 0
  | [a] => 256 * a.toNat
  | a :: b :: rest => 256 * a.toNat + b.toNat + onesSum rest

def foldCarries : Nat → Nat → Nat
  | 0, v => v
  | n + 1, v => foldCarries n (v % 2 ^ 16 + v / 2 ^ 16)

/-- The UDP datagram of an IP packet: its port, payload and checksum result; none when it is no whole UDP datagram. -/
def udpOf (v6 : Bool) (ip : List Byte) : Option (Nat × List Byte × Bool) :=
  let hlen := if v6 then 40 else 4 * (byteAt ip 0 % 16)
  let proto := if v6 then byteAt ip 6 else byteAt ip 9
  let whole := v6 || be16 ip 6 % 2 ^ 14 == 0
  let udp := ip.drop hlen
  let len := be16 udp 4
  if byteAt ip 0 / 16 != (if v6 then 6 else 4) || proto != 17 || !whole || decide (len < 8) || decide (udp.length < len) then none
  else
    let addrs := if v6 then (ip.drop 8).take 32 else (ip.drop 12).take 8
    let sum := foldCarries 4 (onesSum addrs + 17 + len + onesSum (udp.take len))
    let ok := if be16 udp 6 = 0 then !v6 else sum == 2 ^ 16 - 1
    some (be16 udp 2, (udp.take len).drop 8, ok)

/-- An 802.1Q tag stands at an offset (R322; assumption 58). -/
def tagAt (frame : List Byte) (o : Nat) : Bool := be16 frame o == 0x8100 || be16 frame o == 0x88A8

/-- Where a frame's EtherType stands, after at most one tag. -/
def typeAt (frame : List Byte) : Nat := if tagAt frame 12 then 16 else 12

/-- The lidar datagram of a frame: EtherType IPv4 or IPv6 after at most one 802.1Q tag. -/
def lidarOf (frame : List Byte) : Option (Nat × List Byte × Bool) :=
  let o := typeAt frame
  if be16 frame o = 0x0800 then udpOf false (frame.drop (o + 2))
  else if be16 frame o = 0x86DD then udpOf true (frame.drop (o + 2))
  else none

/-- How a PTP message travels. -/
inductive PtpPath where
  | layer2 | ipv4 | ipv6
  deriving DecidableEq, Repr

/-- The path of a frame's PTP event message and where the message stands. Layouts and the event port 319 are those of IEEE 1588-2019 (R323;
assumption 58). -/
def ptpOf (frame : List Byte) : Option (PtpPath × Nat) :=
  let o := typeAt frame
  let u := o + 2 + if be16 frame o = 0x86DD then 40 else 4 * (byteAt frame (o + 2) % 16)
  if be16 frame o = 0x88F7 then some (.layer2, o + 2)
  else if be16 frame o = 0x0800 ∧ byteAt frame (o + 11) = 17 ∧ be16 frame (u + 2) = 319 then some (.ipv4, u + 8)
  else if be16 frame o = 0x86DD ∧ byteAt frame (o + 8) = 17 ∧ be16 frame (u + 2) = 319 then some (.ipv6, u + 8)
  else none

/-- A PTP message's type: Sync 0, Delay_Req 1, Pdelay_Req 2, Pdelay_Resp 3. -/
def ptpType (message : List Byte) : Nat := byteAt message 0 % 16

/-- The frame carries a Pdelay_Req. -/
def carriesPdelay (frame : List Byte) : Bool := (ptpOf frame).any (fun p => ptpType (frame.drop p.2) == 2)

/-- A frame that the MAC accepts: its check sequence is right, and it has at most 1,522 bytes and one tag (R322). -/
def frameTaken (frame : List Byte) (fcsOk : Bool) : Bool :=
  fcsOk && decide (frame.length ≤ 1522) && !(tagAt frame 12 && tagAt frame 16)

/-- A frame is stamped as its first bit passes; lidar data goes to the port's channel, every other frame to the host with its stamp. -/
def execEthernetFrame (port : Fin 8) (frame : List Byte) (fcsOk : Bool) (first : Word) (s : State) : Result :=
  if !frameTaken frame fcsOk || !heardFrom s (portIn s.etherPorts port.val) first then .next s
  else
    let s := heardEther s port.val first (carriesPdelay frame)
    let host : Result := .next { s with out := s.out ++ [.hostFrame port.val first frame] }
    match enabledChannel s (256 + port.val), lidarOf frame with
    | some c, some (dst, payload, ok) =>
      if dst = c.udpport then .next (takeLidar s (256 + port.val) c payload ok first) else host
    | _, _ => host

/-- A byte string with some of its bytes replaced. -/
def overwrite (bs : List Byte) (o : Nat) (xs : List Byte) : List Byte := bs.take o ++ xs ++ bs.drop (o + xs.length)

/-- Bytes of a number, most significant first. -/
def beBytes (n v : Nat) : List Byte := (leBytes n v).reverse

/-- The PTP time of a CTC value (R323). -/
def ptpTime (s : State) (c : Nat) : Nat := (c + s.hk.ptpepoch.toNat) % 2 ^ 64

/-- One-step stamping in flight: Sync gets its originTimestamp, Pdelay_Resp has its correctionField raised by the time since the request came
(R323; assumption 58). -/
def stampMessage (s : State) (p : PortState) (message : List Byte) : List Byte :=
  if ptpType message = 0 then
    overwrite message 34 (beBytes 6 (ptpTime s s.ctc / 10 ^ 9) ++ beBytes 4 (ptpTime s s.ctc % 10 ^ 9))
  else if ptpType message = 3 then
    overwrite message 8 (beBytes 8 ((leNat ((message.drop 8).take 8).reverse + (s.ctc - p.pdelay.toNat) * 2 ^ 16) % 2 ^ 64))
  else message

/-- The headers of a one-step message: on IPv4 the UDP checksum, their last two bytes, becomes zero (R323). -/
def stampHeader (path : PtpPath) (header : List Byte) : List Byte :=
  if path = .ipv4 then overwrite header (header.length - 2) [0, 0] else header

/-- A PTP event message leaves behind its headers: its stamp goes to the host, and for one-step Sync and Pdelay_Resp into the message as well
(R323). -/
def execPtpEgress (port : Fin 8) (header message : List Byte) (oneStep : Bool) (s : State) : Result :=
  match ptpOf (header ++ message) with
  | none => .next s
  | some (path, at_) =>
    if at_ ≠ header.length ∨ 4 ≤ ptpType message then .next s
    else
      let p := portIn s.etherPorts port.val
      let stamp := BitVec.ofNat 64 s.ctc
      let sent := if oneStep ∧ path ≠ .ipv6 ∧ (ptpType message = 0 ∨ ptpType message = 3) then stampHeader path header ++ stampMessage s p message
        else header ++ message
      .next { s with
        etherPorts := upsert PortState.port { p with stamp := stamp } s.etherPorts
        out := s.out ++ [.etherFrame port.val sent, .egressStamp port.val (BitVec.ofNat 8 (ptpType message)) stamp] }

/-! ## Stage positions and row barriers (R332 to R336) -/

/-- A slot's first flit is the next to be popped: its frame and row. -/
def slotHead (s : State) (port : Nat) : Option (Option (Nat × Nat) × Nat) :=
  (s.streams.find? (fun st => st.cons.kind == .gussetIn && st.cons.ctx == s.self && st.cons.port == port &&
    (st.prod.kind == .camera || st.prod.kind == .ethernet))).map (fun st =>
      (if st.landed = [] then none else match st.slots with
        | (f, r, true, _, _) :: _ => some (f, r)
        | _ => none, channelOf st.prod))

/-- The position of the stage an endpoint word names, and which start of a stage it began with; none when it is not running or not held by the
issuer's space. -/
def stageOf (s : State) (w : Nat) : Option (Word × Nat) :=
  match endpointWord w with
  | none => none
  | some e =>
    if e.port != 0 then none
    else match e.kind with
      | .gussetOut =>
        let c := s.ctxAt e.ctx
        if e.ident < 128 ∧ (c.run = .running ∨ c.run = .debugHalted) ∧ c.info.asid = s.ctx.info.asid then some (c.position, c.started) else none
      | .camera | .ethernet => ((enabledChannel s (channelOf e)).filter (fun c => c.asid == s.ctx.info.asid)).map (fun c => (c.position, c.started))
      | _ => none

def stagePosition (s : State) (w : Nat) : Option Word := (stageOf s w).map Prod.fst

/-- The start of a stage that the ROW.WAIT at the boundary waits for already. -/
def waitedStart (c : Context) : Option Nat := (c.rowWait.filter (fun w => w.1 == c.pcc)).map Prod.snd

/-- ROW.WAIT: STREAM at issue when the stage does not run, and while it waits when the stage ends, were it started again since (R334). -/
def execRowWait (a b : Fin 32) (s : State) : Result :=
  if stalledC s [a, b] [] then .next s
  else match stageOf s (s.ctx.getG a).toNat with
    | none => .next (trapSync s .control .stream)
    | some (p, n) =>
      if (waitedStart s.ctx).any (· != n) then .next (trapSync s .control .stream)
      else if p.toNat < (s.ctx.getG b).toNat then .next (s.mod (fun c => { c with rowWait := some (c.pcc, n) }))
      else .next (retire (s.mod (fun c => { c with rowWait := none })) .control 4 false)

/-- Every store is performed at chip scope, and no result of an execute instruction that precedes this one is in flight (R335, R440). An instruction
that has not issued has no result to wait for (assumption 112). -/
def postReady (s : State) : Bool :=
  s.ctx.accesses.all (fun a => !(a.kind.isStore || a.kind.writes) || performedBut s true a) &&
  !s.ctx.latches.any (Latch.precedesControl s.ctx)

/-- ROW.POST in its modes: a release of the issuer's position (R335). -/
def postC (gs : List (Fin 32)) (f : Context → Word) (s : State) : Result :=
  orTrap s .control (!isGusset s.self) .illegal
    (if !postReady s then .next s
    else issueC s gs [] 4 (fun s => s.mod (fun c => ({ c with position := f c } : Context).markEffect)))

/-- A position with its FRAME and ROW. -/
def positionOf (frame row : Nat) : Word := BitVec.ofNat 64 (frame % 2 ^ 32 * 2 ^ 32 + row % 2 ^ 32)

def execRowPost (a : Fin 32) (s : State) : Result :=
  postC [a] (fun c => positionOf (c.position.toNat / 2 ^ 32) (c.position.toNat + (c.getG a).toNat)) s

def execRowPostFrame (s : State) : Result := postC [] (fun c => positionOf (c.position.toNat / 2 ^ 32 + 1) 0) s

def execRowPostSet (a : Fin 32) (s : State) : Result := postC [a] (fun c => c.getG a) s

/-- ROW.RD.POS (R336). -/
def execRowRdPos (d a : Fin 32) (s : State) : Result :=
  if stalledC s [a] [] then .next s
  else match stagePosition s (s.ctx.getG a).toNat with
    | none => .next (trapSync s .control .stream)
    | some p => .next (retire (s.mod (Context.setG d p)) .control 4 false)

/-- ROW.RD.REC and ROW.RD.STAMP: a value from the head slot's frame, row, status and stamp, or the value for no slot (R336). -/
def rowRecord (d a : Fin 32) (empty : Word) (f : Nat → Nat → RowStatus × Word → Word) (s : State) : Result :=
  let port := (s.ctx.getG a).toNat
  orTrap s .control (!isGusset s.self) .illegal (orTrapG s [a] (decide (4 ≤ port)) .shape (
    if stalledC s [a] [] then .next s
    else match slotHead s port with
      | none => .next (trapSync s .control .stream)
      | some (none, _) => .next (retire (s.mod (Context.setG d empty)) .control 4 false)
      | some (some (n, r), ch) =>
        let row := (((chanAt s ch).bind (fun c => c.held.find? (fun x => x.number == n))).bind (fun x => x.rows[r]?)).getD (.dropped, 0)
        .next (retire (s.mod (Context.setG d (f n r row))) .control 4 false)))

def execRowRdRec (d a : Fin 32) (s : State) : Result :=
  rowRecord d a (BitVec.ofNat 64 (2 ^ 63)) (fun n r x => BitVec.ofNat 64 (x.1.code * 2 ^ 32 + n % 2 ^ 16 * 2 ^ 16 + r % 2 ^ 16)) s

def execRowRdStamp (d a : Fin 32) (s : State) : Result := rowRecord d a 0 (fun _ _ x => BitVec.ofNat 64 (x.2.toNat % 2 ^ 62)) s

/-- ROI.RD is a load of class 0 at urgency 0 (R338). -/
def execRoiRd (d a b : Fin 32) (s : State) : Result :=
  let ea := s.ctx.getG a
  accessC s [a, b] 4 0 (ea.toNat % 128 != 0) (newAccess s .roi ea (s.ctx.getG b) 0 ⟨0, 0, 0, 0⟩ d 0 0)

end Sys2Proof.Machine
end

