-- ==== Sys2Proof/Machine/Hatband.lean ====
section
/-! DEFINITION. The Hatband (R342 to R347), sensor tiles and their commit (R339 to R341, R374), and chip time, whose advance passes
row deadlines and set timeouts (R318, R319). -/

namespace Sys2Proof.Machine

/-! ## Fusion groups (R342, R343) -/

def groupAt (s : State) (n : Nat) : Option Group := s.groups.find? (fun g => g.grp == n)

def setGroup (s : State) (g : Group) : State := { s with groups := upsert Group.grp g s.groups }

/-- A group that the issuer's address space holds. -/
def heldGroup (s : State) (n : Nat) : Option Group := (groupAt s n).filter (fun g => n < 16 && g.asid == s.ctx.info.asid)

namespace Group

def tref (g : Group) (n : Nat) : Nat := g.t0.toNat + n * g.period
def timeout (g : Group) (n : Nat) : Nat := g.tref n + g.win + g.grace

/-- A set's accepted tiles. -/
def setTiles (g : Group) (n : Nat) : List (Option TileRef) :=
  ((g.sets.find? (fun x => x.n == n)).map FusionSet.tiles).getD (List.replicate g.sensors.length none)

/-- The set whose window a time stamp lies in (R344). -/
def windowOf (g : Group) (ts : Nat) : Option Nat :=
  if ts < g.t0.toNat then none
  else
    let n := (ts - g.t0.toNat) / g.period
    if (ts - g.t0.toNat) % g.period ≤ g.win then some n else none

end Group

def distinct : List Nat → Bool
  | [] => true
  | x :: xs => !xs.contains x && distinct xs

/-- The group a record configures; none when it breaks R342. -/
def groupRecord (s : State) (n : Nat) (fen : Bool) (f : Fin 64) (bs : List Byte) : Option Group :=
  let nmem := fieldOf bs 0x14 1
  let sensors := (List.range 8).map (fun i => fieldOf bs (0x18 + 2 * i) 2)
  let period := fieldOf bs 8 4
  let win := fieldOf bs 0xC 4
  let grace := fieldOf bs 0x10 4
  let gbase := fieldOf bs 0x28 8
  let ring := fieldOf bs 0x30 8
  if fieldOf bs 0x15 3 != 0 || fieldOf bs 0x39 7 != 0 || nmem == 0 || decide (8 < nmem) || !distinct (sensors.take nmem) ||
      (sensors.take nmem).any (fun x => decide (319 < x)) || (sensors.drop nmem).any (· != 0) || win == 0 || decide (period ≤ win) ||
      decide (4 * period ≤ win + grace) || gbase % 128 != 0 || ring % 64 != 0 || decide (12 < fieldOf bs 0x38 1) then none
  else
    let first := fieldOf bs 0 8 + win + grace
    let n0 := if s.ctc < first then 0 else (s.ctc - first) / period + 1
    some { grp := n, asid := s.ctx.info.asid, owner := s.self, t0 := word64 bs 0, period := period, win := win, grace := grace
           sensors := sensors.take nmem, gbase := BitVec.ofNat 64 gbase, ring := BitVec.ofNat 64 ring, rsz := fieldOf bs 0x38 1, fen := fen
           flag := f, n0 := n0, rcount := n0, late := 0, miss := 0, sets := [], history := List.replicate nmem none }

/-- ALIGN.SET at the Hatband: the state and the status. -/
def setAlign (s : State) (va : Nat) (f : Fin 64) (aux : Nat) : State × Nat :=
  let n := aux % 16
  if (groupAt s n).any (fun g => g.asid != s.ctx.info.asid) then (s, 1)
  else if bitOf aux 4 then ({ s with groups := s.groups.filter (fun g => g.grp != n) }, 0)
  else
  let s := noteRead s s.ctx.info.asid va 64
  match readIn s s.ctx.info.asid va 64 with
    | none => (s, 2)
    | some bs => match groupRecord s n (bitOf aux 5) f bs with
      | none => (s, 3)
      | some g => (setGroup s g, 0)

/-- ALIGN.SET: ILLEGAL, ALIGN and SHAPE, then its status in gA (R343). -/
def execAlignSet (a b : Fin 32) (f : Fin 64) (r : ShapeRec) (s : State) : Result :=
  let gs := b :: recordRegs r
  let va := (s.ctx.getG b).toNat
  orTrapG s gs (bitOf (substAll s.ctx r).aux 5 && decide (s.ctx.nflag ≤ f.val)) .illegal (
    match recordTrap s.ctx r (fun x => va % 64 != 0 || !strideAligned x)
        (fun x => x.rows != 1 || x.cols != 64 || x.stride != 0 || x.w2 != 0 || x.aux / 2 ^ 6 != 0) with
    | .error c => orTrapG s gs true c (.next s)
    | .ok x => issueC s gs [] 20 (fun s =>
        let r := setAlign s va f x.aux
        r.1.mod (fun c => (c.setG a (BitVec.ofNat 64 r.2)).markEffect)))

/-! ## Presentation and release (R344 to R346) -/

/-- A member's entry in a descriptor: its tile index, its age, and whether it is current and valid, or history. -/
def entryOf (n : Nat) (tile hist : Option TileRef) : Nat × Nat × Bool × Bool :=
  match tile with
  | some t => (t.index, 0, t.valid, false)
  | none => match hist with
    | some h => (h.index, Nat.min (n - h.set) 0xFFFE, false, true)
    | none => (0xFFFFFFFF, 0xFFFF, false, false)

/-- The descriptor of set n (R346). -/
def descriptorOf (g : Group) (n : Nat) (timedOut : Bool) : List Byte :=
  let es := ((g.setTiles n).zip g.history).map (fun p => entryOf n p.1 p.2)
  let pad (d : Nat) (l : List Nat) : List Nat := l ++ List.replicate (8 - l.length) d
  leBytes 8 (g.tref n) ++ leBytes 4 n ++ leBytes 1 (bitsWhere (fun m => (es[m]?).any (fun e => e.2.2.1)) 8) ++
    leBytes 1 (bitsWhere (fun m => (es[m]?).any (fun e => e.2.2.2)) 8) ++ leBytes 1 (if timedOut then 1 else 0) ++
    leBytes 1 g.sensors.length ++ (pad 0xFFFFFFFF (es.map (fun e => e.1))).flatMap (leBytes 4) ++
    (pad 0xFFFF (es.map (fun e => e.2.1))).flatMap (leBytes 2)

/-- A valid tile becomes its member's history (R345). -/
def newHistory (tile hist : Option TileRef) : Option TileRef :=
  match tile with
  | some t => if t.valid then some t else hist
  | none => hist

/-- The next set of a group is released (R346). -/
def releaseSet (s : State) (g : Group) (timedOut : Bool) : State :=
  let n := g.rcount
  let s := (storeIn s g.asid ((g.ring.toNat + 64 * (n % 2 ^ g.rsz)) % 2 ^ 64) (descriptorOf g n timedOut)).getD s
  let s := setGroup s { g with
    rcount := n + 1, sets := g.sets.filter (fun x => x.n != n)
    history := ((g.setTiles n).zip g.history).map (fun p => newHistory p.1 p.2) }
  if g.fen then forOwner s g.owner (fun s => countFlag s g.flag 1) else s

/-- Release, in order, at most k sets that are complete or have reached their timeout (R345). -/
def releaseDue (n : Nat) : Nat → State → State
  | 0, s => s
  | k + 1, s => match groupAt s n with
    | none => s
    | some g =>
      let full := (g.setTiles g.rcount).all Option.isSome
      if full || decide (g.timeout g.rcount ≤ s.ctc) then releaseDue n k (releaseSet s g (!full)) else s

/-- Sets a group may release at once: those timed out, and those complete. -/
def dueBound (s : State) (g : Group) : Nat := (s.ctc - g.timeout g.rcount) / g.period + g.sets.length + 1

def settleGroup (s : State) (n : Nat) : State :=
  match groupAt s n with
  | some g => releaseDue n (dueBound s g) s
  | none => s

/-- A set reaches its timeout (R345). -/
def execSetTimeout (grp : Fin 16) (s : State) : Result := .next (settleGroup s grp.val)

/-- Accept a tile of a member into set n. -/
def acceptTile (g : Group) (n m : Nat) (t : TileRef) : Group :=
  { g with sets := upsert FusionSet.n ⟨n, modifyNth (fun _ => some t) m (g.setTiles n)⟩ g.sets }

def satCount (n : Nat) : Nat := Nat.min (2 ^ 32 - 1) (n + 1)

/-- What presenting a tile does to its group: acceptance, LATE or MISS (R344). -/
def presentTo (g : Group) (m sensor ts : Nat) (tile : Word) (valid : Bool) : Group :=
  match g.windowOf ts with
  | none => { g with miss := satCount g.miss }
  | some n =>
    if n < g.rcount then { g with late := satCount g.late }
    else if g.sensors[m]? != some sensor || decide (tile.toNat < g.gbase.toNat) || decide (2 ^ 39 - 256 < tile.toNat - g.gbase.toNat) ||
        ((g.setTiles n)[m]?).any Option.isSome then { g with miss := satCount g.miss }
    else acceptTile g n m ⟨(tile.toNat - g.gbase.toNat) / 128, valid, n⟩

/-- A tile is presented: sets that are due are released before it, and those it completes after it. -/
def presentTile (s : State) (n m sensor ts : Nat) (tile : Word) (valid : Bool) : State :=
  let s := settleGroup s n
  match heldGroup s n with
  | none => s
  | some g => settleGroup (setGroup s (presentTo g m sensor ts tile valid)) n

/-! ## ALIGN.WAIT (R347) -/

def execAlignWait (d a b : Fin 32) (s : State) : Result :=
  match heldGroup s (s.ctx.getG a).toNat with
  | none => issueC s [a, b] [] 4 (fun s => s.mod (Context.setG d (BitVec.ofNat 64 (2 ^ 63))))
  | some g =>
    if g.rcount ≤ (s.ctx.getG b).toNat then .next s
    else issueC s [a, b] [] 4 (fun s => s.mod (Context.setG d (BitVec.ofNat 64 g.rcount)))

def execAlignWaitCnt (d a : Fin 32) (s : State) : Result :=
  issueC s [a] [] 4 (fun s => s.mod (Context.setG d (match heldGroup s (s.ctx.getG a).toNat with
    | none => BitVec.ofNat 64 (2 ^ 63)
    | some g => BitVec.ofNat 64 (g.late * 2 ^ 32 + g.miss))))

/-! ## TILE.COMMIT (R339 to R341) -/

/-- Fields of the commit word. -/
def commitRow (o : EngineOp) : Nat := bitsOf o.c.toNat 28 16
def commitFrame (o : EngineOp) : Nat := o.c.toNat / 2 ^ 32

/-- TILE.COMMIT's own limits on its record and commit word (R340, R341). -/
def commitShape (s : State) (tile src c : Word) (x : ShapeRec) : Bool :=
  let v := c.toNat
  x.blk != 0 || decide (128 < x.rows) || bitsOf x.aux 26 17 != 0 || bitsOf x.aux 16 15 == 3 || (!bitOf x.aux 7 && x.aux % 2 ^ 7 != 0) ||
  bitsOf v 31 29 != 0 || bitsOf v 15 9 != 0 || decide (8192 < bitsOf v 28 16 + x.rows) || heldPageBad s src.toNat x.stride x ||
  heldRowsBad s (fun a => a.fmt != .raw || a.swz != x.swz) tile.toNat 0
    (128 + x.rows * ((x.cols * x.etype.bytes + 127) / 128 * 128)) 1

/-- The sensor's next number in its commit order, and the state once a commit has taken it (R341). -/
def nextSeq (s : State) (sensor : Nat) : Nat := ((chanAt s sensor).map Channel.nextCommit).getD 0

def takeSeq (s : State) (sensor : Nat) : State :=
  match chanAt s sensor with
  | some c => setChannel s { c with nextCommit := c.nextCommit + 1 }
  | none => s

def execTileCommit (a b c : Fin 32) (f : Fin 64) (r : ShapeRec) (s : State) : Result :=
  let gs := a :: b :: c :: recordRegs r
  let tile := s.ctx.getG a
  let src := s.ctx.getG b
  let w := s.ctx.getG c
  orTrap s .control (decide (s.ctx.nflag ≤ f.val)) .illegal (
    match recordTrap s.ctx r (fun x => tile.toNat % 128 != 0 || offElem x src || !strideAligned x) (fun x => commitShape s tile src w x) with
    | .error c => orTrapG s gs true c (.next s)
    | .ok x => issueC s gs [] 20 (fun s =>
        (s.mod Context.markEffect).mod (addOp { plainOp s .commit tile with
          b := src, c := w, flag := f, shape := x, cls := Fin.ofNat 16 (bitsOf x.aux 30 27) })))

/-- The first line of the tile's footprint that the issuer's space has not pinned. -/
def unpinned (s : State) (o : EngineOp) : Option Nat :=
  (List.range (1 + o.shape.rows * (destStride o / 128))).findSome? (fun i =>
    let va := (o.a.toNat + 128 * i) % 2 ^ 64
    match resolve s s.ctx.info.asid va with
    | .error _ => some va
    | .ok a => match placeOf s a va with
      | .dram pa => if pinOwner s (pa / 128) = some s.ctx.info.asid then none else some va
      | _ => some va)

/-- The channel and the frame a commit names, while the frame is held and the channel is the issuer's. -/
def commitSource (s : State) (o : EngineOp) : Option (Channel × Frame) :=
  match (enabledChannel s (commitSensor o)).filter (fun c => c.asid == s.ctx.info.asid) with
  | none => none
  | some c => (c.held.find? (fun f => f.number % 2 ^ 32 == commitFrame o && frameHeld c f)).map (fun f => (c, f))

/-- The tile's time stamp (R340). -/
def tileStamp (o : EngineOp) (first last : Nat) : Nat :=
  match bitsOf o.shape.aux 16 15 with
  | 0 => first
  | 1 => last
  | _ => (first + last) / 2

/-- Rows of a tile by status. -/
def rowsWith (rows : List (RowStatus × Word)) (st : RowStatus) : Nat := rows.countP (fun r => r.1 == st)

/-- Bad rows are within BADLIM. -/
def tileValid (o : EngineOp) (rows : List (RowStatus × Word)) : Bool :=
  decide (rowsWith rows .corrupt + rowsWith rows .dropped + rowsWith rows .late ≤ bitsOf o.shape.aux 14 8)

def firstStamp (rows : List (RowStatus × Word)) : Nat := ((rows.head?.map Prod.snd).getD 0).toNat % 2 ^ 62
def lastStamp (rows : List (RowStatus × Word)) : Nat := ((rows.getLast?.map Prod.snd).getD 0).toNat % 2 ^ 62

/-- The first 128 bytes of a tile (R339), their SEQ left zero. -/
def tileHeader (o : EngineOp) (rows : List (RowStatus × Word)) : List Byte :=
  leBytes 2 (commitSensor o) ++ leBytes 1 (if tileValid o rows then 1 else 0) ++ leBytes 1 (bitsOf o.shape.aux 14 8) ++
    leBytes 4 (commitFrame o) ++ leBytes 2 (commitRow o) ++ leBytes 2 o.shape.rows ++ leBytes 1 (rowsWith rows .corrupt) ++
    leBytes 1 (rowsWith rows .dropped) ++ leBytes 1 (rowsWith rows .late) ++ leBytes 1 0 ++ leBytes 8 (firstStamp rows) ++
    leBytes 8 (lastStamp rows) ++ leBytes 8 (tileStamp o (firstStamp rows) (lastStamp rows)) ++ leBytes 8 0 ++
    leBytes 16 (bitsWhere (fun i => (rows[i]?).any (fun r => r.1 == .good)) 128) ++ leBytes 64 0

/-- Slack of a commit's packets: its row deadline stands in `issueTime` from its checks on (R287). -/
def commitSlack (s : State) (o : EngineOp) : Nat := Nat.min 4094 ((o.issueTime.toNat - s.ctc) * 23 / 40)

/-- A tile's header with its SEQ. -/
def sequenced (header : List Byte) (seq : Nat) : List Byte := header.take 40 ++ leBytes 4 seq ++ header.drop 44

/-- The commit's checks at its start: it fails in its turn on a line not pinned or a frame not held, or waits for its rows (R341). -/
def checkCommit (s : State) (o : EngineOp) : State :=
  match unpinned s o, commitSource s o with
  | some va, _ => s.mod (putOp { o with stage := .suspended .nopin (BitVec.ofNat 64 va) })
  | none, none => s.mod (putOp { o with stage := .suspended .noframe 0 })
  | none, some (c, f) => s.mod (putOp { o with stage := .started, issueTime := BitVec.ofNat 64 (c.deadline f (commitRow o + o.shape.rows - 1)) })

/-- The rows have been copied: in its turn the commit takes its SEQ and writes the header. -/
def headCommit (s : State) (o : EngineOp) : State :=
  if !commitTurn s o then s
  else match putLine s o (fun a => if a.fmt != .raw || a.swz != o.shape.swz then some .shape else none) (commitSlack s o) o.a.toNat
      (sequenced o.task (nextSeq s (commitSensor o))) with
    | .error (c, va) => stopOn s o c true va
    | .ok s' => if (opNow s' o).write.isSome then takeSeq s' (commitSensor o) else s'

/-- The header is written: the tile is presented and the flag counts. -/
def endCommit (s : State) (o : EngineOp) : State :=
  let s := if bitOf o.shape.aux 7 then
      presentTile s (o.shape.aux % 16) (bitsOf o.shape.aux 6 4) (commitSensor o) (fieldOf o.task 0x20 8) o.a (bitOf (fieldOf o.task 2 1) 0)
    else s
  completeOp s o

/-- A turn of a commit that has passed its checks: its rows are decided, then copied as R268 moves them, then comes the header. -/
def commitStep (s : State) (o : EngineOp) : State :=
  if elemCount o * o.shape.etype.bytes ≤ o.progress then
    match o.write with
    | none => headCommit s o
    | some w => if w.stage != .returned then s else match w.cause with
      | some c => stopOn s { o with write := none } c true w.va
      | none => endCommit s o
  else if o.task != [] then moveTurn s o (commitSlack s o) (fun s o => s.mod (putOp o))
  else match commitSource s o with
    | none => s.mod (putOp { o with stage := .suspended .noframe 0 })
    | some (_, f) =>
      if f.decided < commitRow o + o.shape.rows ∨ !forked s o then s
      else
        let o := { o with task := tileHeader o ((f.rows.drop (commitRow o)).take o.shape.rows) }
        moveTurn (s.mod (putOp o)) o (commitSlack s o) (fun s o => s.mod (putOp o))

/-- The n-th commit of the context in focus takes a turn: its checks, its failure once every earlier commit of the sensor is over, or its work
(R341). -/
def execTileCommitComplete (n : Nat) (s : State) : Result :=
  match (s.ctx.ops.filter (fun o => o.kind == .commit))[n]? with
  | none => .next s
  | some o => match o.stage with
    | .queued => .next (checkCommit s o)
    | .suspended c va =>
      if !commitTurn s o then .next s
      else if c = .noframe then .next (sweep (failUnnamed s o 1 c.code o.progress)) else .next (sweep (engineFail s o c o.progress va.toNat))
    | .started | .failing .. => .next (sweep (commitStep s o))
    | _ => .next s

/-! ## Chip time (R318, R319) -/

/-- Rows whose deadline the CTC has passed are late, and a lidar frame whose last row's it has passed ends (R327, R330). -/
def rowsPassed (s : State) (ch : Nat) : State :=
  match (chanAt s ch).bind Channel.openFrame, chanAt s ch with
  | some f, some k =>
    let s := decideOverdue ch f.height s
    if k.lidar && k.overdue f s.ctc (f.height - 1) then endFrame s ch else s
  | _, _ => s

/-- COPYs leave their buffer as the CTC reaches their issue times, and timers fire (R269, R412). -/
def wakeContext (now : Nat) (c : Context) : Context :=
  { c with
    ops := c.ops.map (fun o => if buffered o && decide (o.issueTime.toNat ≤ now) then { o with stage := .started } else o)
    ready := { c.ready with timer := c.ready.timer || (c.timecmp != 0 && decide (c.timecmp.toNat ≤ now)) } }

/-- What the CTC has reached or passed takes effect: row deadlines, set timeouts, launch deadlines, issue times and timers. -/
def passDeadlines (s : State) : State :=
  let s := s.channels.foldl (fun s c => rowsPassed s c.ch) s
  let s := s.groups.foldl (fun s g => settleGroup s g.grp) s
  let s := s.slots.foldl (fun s l => passDeadline s l.slot) s
  { s with ctx := wakeContext s.ctc s.ctx, others := s.others.map (fun p => (p.1, wakeContext s.ctc p.2)) }

/-- The ticks at which a channel, a context or the part has something to pass. -/
def Channel.ticks (c : Channel) : List Nat :=
  match c.openFrame with
  | some f => if c.rowofs = 0 then [] else [c.deadline f (Nat.min f.rows.length (f.height - 1)) + 1] ++ if c.lidar then [c.deadline f (f.height - 1) + 1] else []
  | none => []

def Context.ticks (c : Context) : List Nat :=
  (c.ops.filter buffered).map (fun o => o.issueTime.toNat) ++ if c.timecmp != 0 && !c.ready.timer then [c.timecmp.toNat] else []

def ticksAhead (s : State) : List Nat :=
  s.channels.flatMap Channel.ticks ++ s.groups.map (fun g => g.timeout g.rcount) ++
  (s.slots.filter (fun l => !l.late)).map (fun l => l.pkt.deadline.toNat) ++ (allContexts s).flatMap (fun p => p.2.ticks)

/-- The earliest tick after now, and before a given one, at which something takes effect. -/
def nextTick (s : State) (before_ : Nat) : Option Nat :=
  ((ticksAhead s).filter (fun t => decide (s.ctc < t) && decide (t < before_))).foldl (fun m t => some (m.elim t (Nat.min t))) none

/-- The CTC comes to a new time: what it crosses takes effect in the order of its ticks, as if time had run through them (R52, R319). -/
def timeTo (t : ChipTime) : Nat → State → State
  | 0, s => passDeadlines { s with time := t }
  | n + 1, s => match nextTick s t.ticks with
    | none => passDeadlines { s with time := t }
    | some k => timeTo t n (passDeadlines { s with time := { s.time with ticks := k } })

/-- A reference cycle: 1 + RATE · 2^−40 ticks, or half of it while a slew absorbs the rest. -/
def tickTime (t : ChipTime) : ChipTime :=
  let inc := (2 ^ 40 + t.rate.toInt).toNat
  let cut := if t.slew = 0 then 0 else Nat.min (inc - inc / 2) (t.slew * 2 ^ 40 - t.absorbed)
  let sum := t.frac + (inc - cut)
  let t := { t with ticks := t.ticks + sum / 2 ^ 40, frac := sum % 2 ^ 40, absorbed := t.absorbed + cut }
  if t.slew * 2 ^ 40 ≤ t.absorbed then { t with slew := 0, absorbed := 0 } else t

/-- One reference cycle of the health monitor and the link (R425, R427). -/
def tickLink (l : Link) : Link :=
  { l with
    sinceSend := l.sinceSend + 1, sinceHeard := l.sinceHeard + 1, idleIn := if l.retraining then l.idleIn else l.idleIn + 1
    retrainFor := if l.retraining then l.retrainFor + 1 else 0 }

/-- Time comes to t; no tick is passed twice. -/
def comeTo (t : ChipTime) (s : State) : State := timeTo t (t.ticks - s.ctc) s

def execCtcTick (s : State) : Result := .next (comeTo (tickTime s.time) { s with link := tickLink s.link })

def execCtcrateWrite (v : Word) (s : State) : Result := .next { s with time := { s.time with rate := BitVec.ofNat 32 v.toNat } }

/-- A write of CTCOFS: a forward step, or ticks to absorb, together with what a slew under way has left. -/
def offsetTime (t : ChipTime) (x : Int) : ChipTime :=
  let left : Int := (t.slew * 2 ^ 40 - t.absorbed : Nat)
  let sum := x * 2 ^ 40 - left
  if sum < 0 then
    let owed := (-sum).toNat
    let slew := (owed + 2 ^ 40 - 1) / 2 ^ 40
    { t with slew := slew, absorbed := slew * 2 ^ 40 - owed }
  else
    let whole := t.frac + sum.toNat
    { t with ticks := t.ticks + whole / 2 ^ 40, frac := whole % 2 ^ 40, slew := 0, absorbed := 0 }

def execCtcofsWrite (v : Word) (s : State) : Result := .next (comeTo (offsetTime s.time v.toInt) s)

end Sys2Proof.Machine
end

