-- ==== Sys2Proof/Machine/Jobs.lean ====
section
/-! DEFINITION. LVL.CANCEL (R369), and a job's END, CANCEL, HOLD, ACTIVATE and retirement (R98, R370, R422). -/

namespace Sys2Proof.Machine

/-- A job's Gusset contexts stop and its fusion groups are released (R370). -/
def stopJobParts (s : State) (asid : BitVec 16) : State :=
  let s := stopResident s (fun c => c.info.asid == asid && c.info.header.kind)
  { s with groups := s.groups.filter (fun g => g.asid != asid) }

/-- Every launch of a job is cancelled, and its Gusset contexts and groups with them (R98, R370). -/
def cancelJob (s : State) (asid : BitVec 16) : State :=
  retireLaunches (stopJobParts (cancelLaunches s asid) asid)

/-- The job level of LVL.CANCEL: packets are consumed from then on, until the host ends the job (R98). -/
def cancelOwnJob (s : State) (asid : BitVec 16) : State :=
  cancelJob (s.setJob { jobAt s asid with cancelled := true }) asid

/-- LVL.CANCEL (R369). -/
def execLvlCancel (a : Fin 32) (l : CancelLevel) (s : State) : Result :=
  orTrap s .control (isGusset s.self || ((l == .launch || l == .job) && a.val != 0)) .illegal
    (issueC s [a] [] 4 (fun s =>
      let v := (s.ctx.getG a).toNat
      retireLaunches (cancelAt (s.mod Context.markEffect) l v cancelOwnJob)))

/-! ## Commands of the job control block (R422) -/

/-- A job's state changes where its state allows the command. -/
def jobCommand (s : State) (asid : BitVec 16) (allowed : Nat → Bool) (next : Nat) (k : State → State) : Result :=
  match s.jobOf asid with
  | none => .next s
  | some j => if allowed j.state then .next (k (s.setJob { j with state := next })) else .next s

/-- A running or standby job ends: its launches run on, and no further packet is admitted. -/
def execJobEnd (asid : BitVec 16) (s : State) : Result := jobCommand s asid (fun n => n == 1 || n == 2) 3 id

/-- A running or standby job is cancelled. -/
def execJobCancel (asid : BitVec 16) (s : State) : Result :=
  jobCommand s asid (fun n => n == 1 || n == 2) 4 (fun s => cancelJob s asid)

/-- The watchdogs of a job's rings count afresh (R81). -/
def restartWatchdogs (s : State) (asid : BitVec 16) : State :=
  { s with rings := s.rings.map (fun r => if r.asid = asid then { r with lastMove := s.ctc } else r) }

/-- Open stall episodes of a job's rings close (R81). -/
def closeEpisodes (s : State) (asid : BitVec 16) : State :=
  { s with rings := s.rings.map (fun r => if r.asid = asid then { r with stall := false } else r) }

/-- A standby job becomes running. -/
def activateJob (s : State) (asid : BitVec 16) : State := restartWatchdogs (s.setJob { jobAt s asid with state := 1 }) asid

def execJobActivate (asid : BitVec 16) (s : State) : Result := jobCommand s asid (fun n => n == 2) 1 (fun s => activateJob s asid)

/-- A running job becomes standby. -/
def execJobHold (asid : BitVec 16) (s : State) : Result := jobCommand s asid (fun n => n == 1) 2 (fun s => closeEpisodes s asid)

/-- A job has a context on a Gusset. -/
def hasGussets (s : State) (asid : BitVec 16) : Bool :=
  (allContexts s).any (fun p => isGusset p.1 && p.2.run != .idle && p.2.info.asid == asid)

/-- An ending or cancelled job with no launch left: its Gusset contexts, streams and groups stop, and once they have, it retires with
a JOB record (R422); the phases it leaves are not sealed and retire with no record (R48). -/
def execJobRetire (asid : BitVec 16) (s : State) : Result :=
  match s.jobOf asid with
  | none => .next s
  | some j =>
    if (j.state != 3 && j.state != 4) || s.slots.any (fun l => l.asid == asid) then .next s
    else if hasGussets s asid then .next (stopJobParts s asid)
    else
      let s := tearDownAll (stopJobParts s asid) (fun st => st.asid == asid)
      .next (hostEvent (s.setJob { jobAt s asid with state := 5, cancelled := false, graphs := [], phases := [], highPhase := 0 }) 0x04
        (if j.state = 4 then 2 else 0) asid 0 0)

end Sys2Proof.Machine
end

