-- ==== Sys2Proof/Machine/Link.lean ====
section
/-! DEFINITION. The Lanigidy link (R423, R425, R427, R428, R437), what going down does to work at the peer (R264, R278, R425), the
takeover (R429), and the part's fatal event (R404, R431). -/

namespace Sys2Proof.Machine

/-! ## Flits (R423) -/

/-- A flit, or its replay, failed its CRC: a replay is asked for. -/
def execLinkFlitReplay (s : State) : Result :=
  if !s.link.up || s.link.retraining then .next s
  else .next { s with link := { s.link with failedReplays := s.link.failedReplays + 1 }, out := s.out ++ [.replayRequest] }

/-- After 8 failed replays of one flit, which with its own are 9 failures, the link retrains. -/
def execLinkRetrain (s : State) : Result :=
  if s.link.up && !s.link.retraining && decide (9 ≤ s.link.failedReplays) then
    .next { s with link := { s.link with retraining := true, retrainFor := 0 } }
  else .next s

def execLinkRetrained (s : State) : Result :=
  if s.link.retraining then .next { s with link := { heard s.link with retraining := false, retrainFor := 0 } } else .next s

/-- The peer acknowledges flits. -/
def execLinkFlitAcknowledgment (upTo : Nat) (s : State) : Result :=
  if s.link.up then .next { s with link := { heard s.link with acked := Nat.max s.link.acked (Nat.min upTo (flitsSent s)) } } else .next s

def execIdleFlitSend (s : State) : Result :=
  if s.link.up && !s.link.retraining then .next { s with out := s.out ++ [.idleFlit] } else .next s

def execIdleFlitReceive (s : State) : Result :=
  if s.link.up && !s.link.retraining then .next { s with link := heard s.link } else .next s

/-! ## Heartbeats (R427) -/

/-- Every 500,000 reference cycles a heartbeat is due; it goes out unless it is held, the link is down or the part is in recovery, and waits while
the link retrains. -/
def execHeartbeatSend (s : State) : Result :=
  if s.link.sinceSend < 500000 || s.link.retraining then .next s
  else
    let s' := { s with link := { s.link with sinceSend := s.link.sinceSend - 500000 } }
    if s.link.up && !s.link.hbhold && s.boot.state != 2 then
      .next { s' with out := s'.out ++ [.heartbeat (BitVec.ofNat 64 s.ctc) Config.partStrap] }
    else .next s'

/-- A heartbeat arrives; its CTC and PART are the sender's. -/
def execHeartbeatReceive (_ctc : Word) (_part : Bool) (s : State) : Result :=
  if s.link.up && !s.link.retraining then .next { s with link := { heard s.link with sinceHeard := 0, heardOnce := true } } else .next s

/-! ## Coming up (R437) -/

/-- EN is written with 1: the link trains. -/
def execLinkEnable (s : State) : Result :=
  if s.link.en then .next s else .next { s with link := { s.link with en := true, training := !s.link.up } }

/-- The link trains: it is up, and the host is told. -/
def execLinkTrained (s : State) : Result :=
  if !s.link.training then .next s
  else
    let l := { heard s.link with up := true, training := false, retraining := false, acked := flitsSent s, sinceHeard := 0, heardOnce := false }
    .next (hostEvent { s with link := l } 0x07 1 0 0 0)

/-! ## Going down (R264, R278, R425) -/

/-- A part of an access that the peer has not acknowledged. -/
def partOwed (s : State) (p : Part) : Bool := atPeer s p && !(p.stage == .performed || p.stage == .returned)

/-- An access of the context in focus that waits for the peer ends: a store counts as performed with a record of KIND 24, an atomic
leaves its register and writes one of KIND 10 or 11, a load faults, or is marked while it is speculative (R153). -/
def endAccess (s : State) (a : Access) : State :=
  if !a.parts.any (partOwed s) || a.stage != .planned then s
  else match a.kind with
    | .store _ | .vstore | .vstores | .scatter | .radd _ =>
      (writeRecord s 2 24 0xFF Cause.bus.code 0 a.ea.toNat).mod (putAccess { a with
        parts := a.parts.map (fun p => if partOwed s p then { p with stage := .returned } else p) })
    | .amo .. => (writeRecord s 2 10 0xFF Cause.bus.code 0 a.iaddr.toNat).mod (dropAccess a.id)
    | .cas _ => (writeRecord s 2 11 0xFF Cause.bus.code 0 a.iaddr.toNat).mod (dropAccess a.id)
    | _ =>
      let va := (((a.parts.find? (partOwed s)).bind (fun p => p.elems.head?)).map Elem.va).getD 0
      s.mod (putAccess (a.faultAt .bus (BitVec.ofNat 64 va)))

/-- What of an operation waits for the peer's answer ends with BUS. -/
def loseLines (o : EngineOp) : EngineOp :=
  { o with reads := o.reads.map (fun r => if r.stage = .filling then { r with stage := .returned, cause := some .bus } else r)
           write := o.write.map (fun w => if w.stage = .filling then { w with stage := .returned, cause := some .bus } else w) }

/-- An operation of the context in focus when the link goes down: COPY.PEER, WRQ and mirrors end as UNKNOWN with what was acknowledged, a mirror
with code 0 (R402); for any other, what waits for the peer meets BUS. -/
def endOp (s : State) (o : EngineOp) : State :=
  match o.kind with
  | .copyPeer | .wrq => failUnnamed s o 2 Cause.bus.code o.progress
  | .mirror => (failOp s o 2 0 0 (4096 * o.pages.headD 0)).mod clearMir
  | _ => s.mod (putOp (loseLines o))

/-- Everything of the context in focus that waits for the peer. -/
def endAtPeer (s : State) : State :=
  let s := s.ctx.accesses.foldl endAccess s
  let s := s.ctx.ops.foldl endOp s
  sweep (settle s)

/-- The standby jobs with AUTO become running, in ascending ASID, each with a TAKEOVER record (R429). -/
def takeOver (s : State) : State :=
  (s.jobs.filter (fun j => j.state == 2 && j.auto)).foldl (fun s j =>
    let word := if j.mirwa = 0 then 0 else ((readIn s j.asid j.mirwa.toNat 8).map leNat).getD 0
    hostEvent (activateJob s j.asid) 0x08 0 j.asid (word % 2 ^ 32) word) s

/-- The link goes down for a reason: work at the peer ends, the host is told, and the survivor takes over (R425, R428, R429). -/
def linkDown (s : State) (reason : Nat) : State :=
  if !s.link.up then s
  else
    let s := { s with link := { s.link with en := false, up := false, training := false, retraining := false, reason := reason, failedReplays := 0 } }
    let s := (allContexts s).foldl (fun s p => s.withCtx p.1 endAtPeer) s
    takeOver (hostEvent s 0x07 2 0 reason 0)

/-- A retraining fails, or exceeds 400 µs. -/
def execRetrainTimeout (s : State) : Result := if s.link.retraining then .next (linkDown s 1) else .next s

/-- No flit has arrived for 100 µs, the link not retraining. -/
def execLinkIdleTimeout (s : State) : Result :=
  if !s.link.retraining && decide (100000 ≤ s.link.idleIn) then .next (linkDown s 2) else .next s

def execFatalNoticeReceive (s : State) : Result := .next (linkDown s 3)

/-- 1,499,000 reference cycles have passed since the last heartbeat. -/
def execPeerLostTimeout (s : State) : Result :=
  if s.link.heardOnce && decide (1499000 ≤ s.link.sinceHeard) then .next (linkDown s 4) else .next s

/-! ## The part's fatal event (R431) -/

/-- The part stops: a fatal notice while the link is up, and a FATAL record. -/
def fatalEvent (s : State) (c : Cause) (detail : Nat) : State :=
  let s := if s.link.up then { s with out := s.out ++ [.fatalNotice] } else s
  { hostEvent s 0x09 0 0 c.code detail with fatal := some c, agenda := [] }

/-- A chain flit is replayed; the 16th failure in a row of a lane is fatal (R404). -/
def execFlitCrcReplay (east : Bool) (lane : Fin 24) (station : Fin 15) (failed : Bool) (s : State) : Result :=
  let key := lane.val + (if east then 0 else 2 ^ 5) + station.val * 2 ^ 8
  if !failed then .next { s with laneFails := s.laneFails.filter (fun p => p.1 != key) }
  else
    let n := ((s.laneFails.find? (fun p => p.1 == key)).map Prod.snd).getD 0 + 1
    let s := { s with laneFails := upsert Prod.fst (key, n) s.laneFails }
    if n < 16 then .next s else .next (fatalEvent s .laneFail key)

end Sys2Proof.Machine
end

