-- ==== Sys2Proof/Machine/Housekeeping.lean ====
section
/-! DEFINITION. Writes of the part registers (R75, R82, R324, R422, R435 to R437), the stash split (R219), quotes (R434), heat
and the other fatal causes (R438). -/

namespace Sys2Proof.Machine

/-! ## The stash split (R219) -/

/-- STASHCFG is written only while no unit is resident, which one that is being saved no longer is (R383); a value above 12 is ignored. Dirty
sectors of the mapped part go home first; the window of a save under way is kept for it (assumption 103). -/
def execStashcfgWrite (core : Fin 128) (v : Word) (s : State) : Result :=
  let w := v.toNat % 16
  if (s.ctxAt core.val).resident || decide (12 < w) then .next s
  else
    let s := cleanStash s core.val
    let s := if (s.ctxAt core.val).run = .saving then s else replaceWindow s core.val []
    .next (s.setCore { s.coreState core.val with wink := w, stash := [] })

/-! ## Quotes (R434) -/

/-- QUOTECTL is written: the buffer, and with GO a quote is under way. -/
def execQuoteRequest (v : Word) (s : State) : Result :=
  if s.boot.quoting then .next s
  else
    let s := { s with hk := { s.hk with qaddr := bitsOf v.toNat 47 12 * 2 ^ 12 } }
    .next (if bitOf v.toNat 0 then { s with boot := { s.boot with quoting := true }, hk := { s.hk with qdone := false } } else s)

/-- The bytes both signatures cover. -/
def quoteBody (s : State) : List Byte :=
  let m := s.boot.measurement
  readBytes s.mem s.hk.qaddr 32 ++ leBytes 48 m.toNat ++ leBytes 8 s.boot.version ++ leBytes 8 s.ctc ++
    leBytes 8 ((if s.boot.debugSeen then 1 else 0) + (if Config.partStrap then 2 else 0)) ++ leBytes 8 Config.deviceId.toNat ++
    leBytes 32 (Config.ed25519Key m).toNat ++ leBytes 1952 (Config.mldsa65Key m).toNat

/-- The boot block writes the quote and sets DONE. -/
def execQuoteDone (s : State) : Result :=
  if !s.boot.quoting then .next s
  else
    let m := s.boot.measurement
    let body := quoteBody s
    let s' := storeBytes s s.hk.qaddr
      (body ++ leBytes 64 (Config.ed25519Sign m body).toNat ++ leBytes 3309 (Config.mldsa65Sign m body).toNat)
    .next { s' with boot := { s'.boot with quoting := false }, hk := { s'.hk with qdone := true } }

/-! ## Heat and the other fatal causes (R438) -/

/-- A temperature is measured: 100 °C throttles, and at 115 °C the part raises its fatal event. -/
def measureHeat (s : State) (temp : BitVec 8) : State :=
  let s := { s with hk := { s.hk with temp := temp, throttling := s.hk.throttling || decide (100 ≤ temp.toNat) } }
  if temp.toNat < 115 then s else fatalEvent s .overheat temp.toNat

/-- THR with a power estimate, in watts: it begins above PWRLIM or from 100 °C, and ends below 95 °C with the estimate below PWRLIM. -/
def throttled (s : State) (temp : BitVec 8) (power : BitVec 16) : Bool :=
  if decide (s.hk.pwrlim < power.toNat) || decide (100 ≤ temp.toNat) then true
  else s.hk.throttling && !(decide (temp.toNat < 95) && decide (power.toNat < s.hk.pwrlim))

/-- The temperature and the power estimate are measured where throttling may begin. -/
def execThrottleStart (temp : BitVec 8) (power : BitVec 16) (s : State) : Result :=
  .next (measureHeat { s with hk := { s.hk with throttling := s.hk.throttling || throttled s temp power } } temp)

/-- They are measured where throttling may end. -/
def execThrottleEnd (temp : BitVec 8) (power : BitVec 16) (s : State) : Result :=
  .next (measureHeat { s with hk := { s.hk with throttling := throttled s temp power } } temp)

/-- The temperature alone is measured. -/
def execOverheat (temp : BitVec 8) (s : State) : Result := .next (measureHeat s temp)

def execBootWatchdogStall (s : State) : Result := .next (fatalEvent s .watchdog 0)

/-- An uncorrectable error in a launch slot, or in dispatch queue n as 0x80 + n. -/
def execDispatchEcc (place : BitVec 8) (s : State) : Result :=
  if place.toNat < 64 ∨ (0x80 ≤ place.toNat ∧ place.toNat ≤ 0x84) then .next (fatalEvent s .dispatchEcc (452 + place.toNat * 2 ^ 16))
  else .next s

/-! ## Register writes (R435) -/

/-- A word with its bytes from `o` up replaced by n bytes of v. -/
def mergeWord (old o n : Nat) (v : Word) : Word :=
  BitVec.ofNat 64 (readLE (writeBytes (writeLE [] 0 8 old) o ((leBytes n v.toNat).take (8 - o))) 0 8)

/-- What a write gives where its own bytes alone count. -/
def writtenWord (o n : Nat) (v : Word) : Word := mergeWord 0 o n v

/-- A notify page: TAIL, and STATUS.RANGE (R75, R76, R79). -/
def writeNotify (s : State) (n o : Nat) (old written : Word) : Result :=
  if o = 0 then execTailWrite (Fin.ofNat 256 n) (BitVec.ofNat 32 old.toNat) s
  else if o = 0x10 ∧ bitOf written.toNat 2 ∧ s.rings.any (fun r => r.ring == n) then .next (setRing s { ringAt s n with range := false })
  else .next s

/-- A ring descriptor: fields while the ring is disabled, and CFG last (R435). -/
def writeDescriptor (s : State) (n o : Nat) (v : Word) : Result :=
  let r := ringAt s n
  if o = 0x20 ∧ v = 0 then execRingRemove (Fin.ofNat 256 n) s
  else if r.enabled then .next s
  else match o with
    | 0x00 => .next (setRing s { r with base := v })
    | 0x08 => .next (setRing s { r with ready := v })
    | 0x10 => .next (setRing s { r with headm := v })
    | 0x18 => .next (setRing s { r with evt := v })
    | 0x20 => execRingInstall (Fin.ofNat 256 n) v s
    | 0x28 => .next (setRing s { r with stallt := v })
    | 0x30 => .next (setRing s { r with rsvd := r.rsvd / 2 ^ 64 * 2 ^ 64 + v.toNat })
    | _ => .next (setRing s { r with rsvd := r.rsvd % 2 ^ 64 + v.toNat * 2 ^ 64 })

/-- A job control block: AUTO, a command, MIRWA (R422). -/
def writeJob (s : State) (n o : Nat) (v written : Word) : Result :=
  let asid := BitVec.ofNat 16 n
  let j := jobAt s asid
  if o = 0 then
    let s := s.setJob { j with auto := bitOf v.toNat 3 }
    match written.toNat % 8 with
    | 1 => execJobEnd asid s
    | 2 => execJobCancel asid s
    | 3 => execJobActivate asid s
    | 4 => execJobHold asid s
    | _ => .next s
  else .next (s.setJob { j with mirwa := if v.toNat % 8 = 0 then v else 0 })

/-- The save pool may be configured while the job has no launch admitted (R436). -/
def poolFree (s : State) (asid : BitVec 16) : Bool := !s.slots.any (fun l => l.asid == asid)

/-- A job service block: the fault queue, a verdict, the save pool (R436). -/
def writeService (s : State) (n o : Nat) (v written : Word) : Result :=
  let asid := BitVec.ofNat 16 n
  let j := jobAt s asid
  let x := v.toNat
  match o with
  | 0x00 => .next (s.setJob { j with
      fqbase := bitsOf x 47 12 * 2 ^ 12, fqlog := if 4 ≤ x % 16 ∧ x % 16 ≤ 12 then x % 16 else 0 })
  | 0x08 => execFaultReply asid (BitVec.ofNat 32 written.toNat) (bitOf written.toNat 32) s
  | 0x10 =>
    if !poolFree s asid then .next s
    else .next (s.setJob { j with
      spbase := bitsOf x 47 14 * 2 ^ 14, slotsz := if 3 ≤ bitsOf x 13 8 ∧ bitsOf x 13 8 ≤ 19 then bitsOf x 13 8 else 0 })
  | _ => if !poolFree s asid then .next s else .next (s.setJob { j with spnum := x % 2 ^ 16 })

/-- An entry of the match table (R82). -/
def writeMatch (s : State) (n o : Nat) (v written : Word) : Result :=
  let m := matchAt s n
  match o with
  | 0x00 => .next (setMatch s { m with tag := BitVec.ofNat 32 v.toNat, len := BitVec.ofNat 32 (v.toNat / 2 ^ 32) })
  | 0x08 =>
    let s := setMatch s { m with asid := BitVec.ofNat 16 (v.toNat / 2 ^ 32) }
    if bitOf written.toNat 48 then execMatchEntryArm (Fin.ofNat 64 n) s else .next s
  | 0x10 => .next (setMatch s { m with recAddr := v })
  | _ => .next s

/-- A channel record: CTL at any time, the other fields while the channel is disabled (R324, R435). -/
def writeChannel (s : State) (n o : Nat) (v : Word) : Result :=
  let c := (chanAt s n).getD (Channel.blank n)
  let x := v.toNat
  if o = 0 then execChannelInstall (Fin.ofNat 264 n) v s
  else if bitOf c.ctl.toNat 0 then .next s
  else match o with
    | 0x08 => .next (setChannel s { c with wmax := x % 2 ^ 32, hmax := x / 2 ^ 32 })
    | 0x10 => .next (setChannel s { c with rowofs := v })
    | 0x18 => .next (setChannel s { c with rowper := x % 2 ^ 32, udpport := bitsOf x 47 32, seqofs := x / 2 ^ 48 })
    | 0x20 => .next (setChannel s { c with stat := v })
    | _ =>
      let k := 8 * (o - 0x28)
      .next (setChannel s { c with rsvd := c.rsvd - c.rsvd / 2 ^ k % 2 ^ 64 * 2 ^ k + x * 2 ^ k })

/-- The housekeeping registers (R437). -/
def writeHousekeeping (s : State) (o : Nat) (v written : Word) : Result :=
  let h := s.hk
  let x := v.toNat
  match o with
  | 0x010 => .next { s with hk := { h with asdbase := bitsOf x 47 12 * 2 ^ 12 } }
  | 0x028 => execCtcrateWrite v s
  | 0x030 => execCtcofsWrite written s
  | 0x038 => .next { s with hk := { h with ptpepoch := v } }
  | 0x040 => .next { s with hk := { h with prethr := v } }
  | 0x048 => .next { s with hk := { h with heqbase := bitsOf x 47 12 * 2 ^ 12, heqlog := x % 32 } }
  | 0x058 => .next { s with hk := { h with heqack := BitVec.ofNat 32 x } }
  | 0x060 => .next { s with hk := { h with heqLost := h.heqLost && !bitOf written.toNat 0 } }
  | 0x068 => .next { s with hk := { h with ovfbase := bitsOf x 47 25 * 2 ^ 25 } }
  | 0x070 => .next { s with hk := { h with parkbase := bitsOf x 47 12 * 2 ^ 12, parklog := x % 16 } }
  | 0x078 =>
    let s := { s with link := { s.link with hbhold := bitOf x 2 } }
    if bitOf x 0 then execLinkEnable s else .next { s with link := { s.link with en := false, training := false } }
  | 0x088 => .next { s with hk := { h with pwrlim := Nat.min 420 (x % 2 ^ 10) } }
  | 0x090 => execQuoteRequest v s
  | 0x098 => .next { s with hk := { h with dbgen := bitOf x 0 }, boot := { s.boot with debugSeen := s.boot.debugSeen || bitOf x 0 } }
  | _ => if 0x100 ≤ o ∧ o < 0x500 then execStashcfgWrite (Fin.ofNat 128 ((o - 0x100) / 8)) v s else .next s

/-- A write of n bytes at an offset of the part-register range. -/
def execHousekeepingWrite (off n : Nat) (v : Word) (s : State) : Result :=
  let o8 := off / 8 * 8
  let m := mergeWord (registerHeld s o8) (off % 8) n v
  let w := writtenWord (off % 8) n v
  if off < 0x100000 then (if off % 4096 / 4 = 1 then .next s else writeNotify s (off / 4096) (o8 % 4096) m w)
  else if off < 0x200000 then
    if s.link.up then
      .next { s with out := s.out ++ [.peerWrite ⟨s.ctx.info.asid, 0, true, registerBase + off, ⟨0, 0, 0, 0⟩, leBytes n v.toNat, 4095, false⟩] }
    else .next s
  else if off < 0x300000 then writeJob s ((off - 0x200000) / 16) (o8 % 16) m w
  else if off < 0x300800 then writeMatch s ((off - 0x300000) / 32) (o8 % 32) m w
  else if 0x301000 ≤ off ∧ off < 0x305000 then writeDescriptor s ((off - 0x301000) / 64) (o8 % 64) m
  else if 0x308000 ≤ off ∧ off < 0x30C000 then writeChannel s ((off - 0x308000) / 64) (o8 % 64) m
  else if 0x30C000 ≤ off ∧ off < 0x30C200 then writeChannel s (256 + (off - 0x30C000) / 64) (o8 % 64) m
  else if 0x310000 ≤ off ∧ off < 0x311000 then writeHousekeeping s (o8 - 0x310000) m w
  else if 0x400000 ≤ off ∧ off < 0x600000 then writeService s ((off - 0x400000) / 32) (o8 % 32) m w
  else .next s

end Sys2Proof.Machine
end

