-- ==== Sys2Proof/Machine/Boot.lean ====
section
/-! DEFINITION. Reset and boot (R432, R433, R443), and the debug port (R439). -/

namespace Sys2Proof.Machine

/-! ## Boot images (R433, R443) -/

/-- A number in an image, bytes past its end being zero. -/
def imageField (img : List Byte) (o n : Nat) : Nat := leNat ((img.drop o).take n)

def imageVersion (img : List Byte) : Nat := imageField img 0 4
def imageLength (img : List Byte) : Nat := imageField img 4 4
def imageLoad (img : List Byte) : Nat := imageField img 8 8
def imageEntry (img : List Byte) : Nat := imageField img 0x10 8

/-- The bytes that both signatures and the measurement cover. -/
def signedBytes (img : List Byte) : List Byte := img.take (0x40 + imageLength img)

/-- EDSIG verifies: 64 bytes after the payload, over the signed bytes (R433, R443). -/
def edsigOk (img : List Byte) : Bool := Config.ed25519Ok (signedBytes img) ((img.drop (0x40 + imageLength img)).take 64)

/-- MLSIG verifies: 3,309 bytes behind EDSIG, over the same bytes (R433, R443). -/
def mlsigOk (img : List Byte) : Bool := Config.mldsa65Ok (signedBytes img) ((img.drop (0x80 + imageLength img)).take 3309)

/-- Installed DRAM in GiB. -/
def installedGib : Nat := Config.installedDram.val + 1

/-- A slot is accepted: both signatures verify, its version is high enough, and its layout is sound. -/
def slotAccepted (img : List Byte) : Bool :=
  edsigOk img && mlsigOk img && decide (Config.fusedMinVersion ≤ imageVersion img) &&
  ((img.drop 0x18).take 40).all (· == 0) && imageLength img != 0 && decide (imageLoad img + imageLength img ≤ installedGib * 2 ^ 30)

/-- Steps 3 to 5 of R432 with the image of a slot. -/
def bootSlot (s : State) (n : Nat) (img : List Byte) : State :=
  let s := { s with
    hk := { s.hk with dramcap := installedGib }
    boot := { s.boot with
      state := 1, slot := n, edf := false, mlf := false, version := imageVersion img, measurement := Config.sha384 (signedBytes img)
      entry := imageEntry img } }
  { s with mem := writeBytes s.mem (imageLoad img) ((img.drop 0x40).take (imageLength img))
           dram := writeBytes s.dram (imageLoad img) ((img.drop 0x40).take (imageLength img)) }

/-- Steps 2 to 5 of R432: slot 0, then slot 1, then recovery. -/
def bootUp (s : State) : State :=
  if slotAccepted s.boot.flash0 then bootSlot s 0 s.boot.flash0
  else if slotAccepted s.boot.flash1 then bootSlot s 1 s.boot.flash1
  else { s with boot := { s.boot with
    state := 2, edf := !edsigOk s.boot.flash1, mlf := !mlsigOk s.boot.flash1 } }

/-- Power-good: the part is as after reset, but for the boot flash and the model's own counters, and boots. -/
def execPowerGood (s : State) : Result :=
  let r := State.reset
  .next (bootUp { r with
    agenda := s.agenda, moves := s.moves, draws := s.draws, boot := { r.boot with flash0 := s.boot.flash0, flash1 := s.boot.flash1 } })

/-- In recovery an image is written through the debug port, and the part restarts at step 2. -/
def execRecoveryImageWrite (slot : Fin 2) (image : List Byte) (s : State) : Result :=
  if s.boot.state != 2 then .next s
  else .next (bootUp { s with boot :=
    (if slot.val = 0 then { s.boot with flash0 := image } else { s.boot with flash1 := image } : Boot) })

/-! ## The debug port (R439) -/

/-- The port serves. -/
def debugServes (s : State) : Bool := s.boot.state == 2 || (s.hk.dbgen && Config.permitsDebug s.boot.measurement)

/-- HALT is raised on the context in focus; it is taken at its boundary, after any better cause (R387). The context is halted as at trap entry: it
keeps its frame and stays resident, and INH and LCODE say so (R393). -/
def execDebugHalt (s : State) : Result :=
  if !debugServes s || s.ctx.run != .running then .next s
  else
    let s := s.mod (fun c => { c with ready := { c.ready with halt := true } })
    if !mayHalt s then .next s
    else match topCause s with
    | some (.halt, _) => .next ((haltContext s).mod (fun c => { c with
        run := .debugHalted, ready := { c.ready with halt := false }, haltedInh := c.inh, inh := true, lcode := BitVec.ofNat 8 Cause.halt.code }))
    | _ => .next s

/-- A resume returns the context as ERET does: what it holds is reissued, and INH is as it was, set where a handler runs (assumption 110). -/
def execDebugResume (s : State) : Result :=
  if !debugServes s || s.ctx.run != .debugHalted then .next s
  else .next (noteTimer (settle (s.mod (fun c => { c with
    run := .running, inh := c.haltedInh, accesses := c.accesses.map (fun a => { a with stage := .walking, parts := [], data := [] }) }))))

end Sys2Proof.Machine
end

