-- ==== Sys2Proof/Machine/ControlAlu.lean ====
section
/-! DEFINITION. Scalar arithmetic, immediates, bit fields, constants, conditions and branch-target registers of the control
slice (R134 to R140). -/

namespace Sys2Proof.Machine

/-- Write gd with a function of the context's registers; the registers read must hold their final values (R131, R132). -/
def aluOp (s : State) (d : Fin 32) (srcs : List (Fin 32)) (f : Context → Word) : Result :=
  issueC s srcs [] 4 (fun s => s.mod (fun c => c.setG d (f c)))

/-- gd := f ga gb. -/
def aluBinary (s : State) (d a b : Fin 32) (f : Word → Word → Word) : Result :=
  aluOp s d [a, b] (fun c => f (c.getG a) (c.getG b))

/-- gd := f ga. -/
def aluUnary (s : State) (d a : Fin 32) (f : Word → Word) : Result := aluOp s d [a] (fun c => f (c.getG a))

/-- The shift count in bits 5:0 of a register (R134). -/
def shiftCount (y : Word) : Nat := y.toNat % 64

/-- Leading zero bits of an n-bit number; n when it is zero (R134, R172). -/
def leadingZeros (n x : Nat) : Nat := if x = 0 then n else n - 1 - Nat.log2 x

/-- One bits among the low n bits (R134, R172). -/
def popCount : Nat → Nat → Nat
  | 0, _ => 0
  | n + 1, x => x % 2 + popCount n (x / 2)

def boolWord (p : Bool) : Word := if p then 1 else 0

/-- Signed and unsigned quotients and remainders with the corners of R135. -/
def divSigned (x y : Word) : Word := if y = 0 then BitVec.allOnes 64 else BitVec.ofInt 64 (x.toInt.tdiv y.toInt)
def remSigned (x y : Word) : Word := if y = 0 then x else BitVec.ofInt 64 (x.toInt.tmod y.toInt)
def divUnsigned (x y : Word) : Word := if y = 0 then BitVec.allOnes 64 else BitVec.ofNat 64 (x.toNat / y.toNat)
def remUnsigned (x y : Word) : Word := if y = 0 then x else BitVec.ofNat 64 (x.toNat % y.toNat)

/-- Bits pos+len−1 to pos of a word (R137). -/
def wordField (x : Word) (pos len : Nat) : Nat := x.toNat / 2 ^ pos % 2 ^ len

/-- The conditions of CMP on two words (R139). -/
def condHolds (x : CmpCond) (a b : Word) : Bool :=
  match x with
  | .eq => a == b
  | .ne => a != b
  | .lt => a.slt b
  | .ge => !a.slt b
  | .ltu => a.ult b
  | .geu => !a.ult b

/-! ## Register group (R134, R135) -/

def execAdd (d a b : Fin 32) (s : State) : Result := aluBinary s d a b (· + ·)
def execSub (d a b : Fin 32) (s : State) : Result := aluBinary s d a b (· - ·)
def execAnd (d a b : Fin 32) (s : State) : Result := aluBinary s d a b (· &&& ·)
def execOr (d a b : Fin 32) (s : State) : Result := aluBinary s d a b (· ||| ·)
def execXor (d a b : Fin 32) (s : State) : Result := aluBinary s d a b (· ^^^ ·)
def execAndn (d a b : Fin 32) (s : State) : Result := aluBinary s d a b (fun x y => x &&& ~~~y)
def execShl (d a b : Fin 32) (s : State) : Result := aluBinary s d a b (fun x y => x <<< shiftCount y)
def execShr (d a b : Fin 32) (s : State) : Result := aluBinary s d a b (fun x y => x >>> shiftCount y)
def execSra (d a b : Fin 32) (s : State) : Result := aluBinary s d a b (fun x y => x.sshiftRight (shiftCount y))
def execSlt (d a b : Fin 32) (s : State) : Result := aluBinary s d a b (fun x y => boolWord (x.slt y))
def execSltu (d a b : Fin 32) (s : State) : Result := aluBinary s d a b (fun x y => boolWord (x.ult y))
def execMin (d a b : Fin 32) (s : State) : Result := aluBinary s d a b (fun x y => if x.slt y then x else y)
def execMinu (d a b : Fin 32) (s : State) : Result := aluBinary s d a b (fun x y => if x.ult y then x else y)
def execMax (d a b : Fin 32) (s : State) : Result := aluBinary s d a b (fun x y => if x.slt y then y else x)
def execMaxu (d a b : Fin 32) (s : State) : Result := aluBinary s d a b (fun x y => if x.ult y then y else x)
def execMul (d a b : Fin 32) (s : State) : Result := aluBinary s d a b (· * ·)
def execMulh (d a b : Fin 32) (s : State) : Result :=
  aluBinary s d a b (fun x y => BitVec.ofInt 64 (x.toInt * y.toInt / 2 ^ 64))
def execMulhu (d a b : Fin 32) (s : State) : Result :=
  aluBinary s d a b (fun x y => BitVec.ofNat 64 (x.toNat * y.toNat / 2 ^ 64))
def execDiv (d a b : Fin 32) (s : State) : Result := aluBinary s d a b divSigned
def execDivu (d a b : Fin 32) (s : State) : Result := aluBinary s d a b divUnsigned
def execRem (d a b : Fin 32) (s : State) : Result := aluBinary s d a b remSigned
def execRemu (d a b : Fin 32) (s : State) : Result := aluBinary s d a b remUnsigned
def execClz (d a : Fin 32) (s : State) : Result := aluUnary s d a (fun x => BitVec.ofNat 64 (leadingZeros 64 x.toNat))
def execPopc (d a : Fin 32) (s : State) : Result := aluUnary s d a (fun x => BitVec.ofNat 64 (popCount 64 x.toNat))
def execAddsh (d a b : Fin 32) (n : Fin 8) (s : State) : Result := aluBinary s d a b (fun x y => x + y <<< n.val)

/-- SEL reads a c bit, for which it waits while a vote owes it (R134, R151). -/
def execSel (d a b : Fin 32) (c : Fin 4) (s : State) : Result :=
  issueC s [a, b] [c] 4 (fun s => s.mod (fun x => x.setG d (if x.getC c then x.getG a else x.getG b)))

/-! ## Immediate forms (R136 to R138) -/

def execAddi (d a : Fin 32) (i : BitVec 15) (s : State) : Result := aluUnary s d a (· + i.signExtend 64)
def execAndi (d a : Fin 32) (i : BitVec 15) (s : State) : Result := aluUnary s d a (· &&& i.signExtend 64)
def execOri (d a : Fin 32) (i : BitVec 15) (s : State) : Result := aluUnary s d a (· ||| i.signExtend 64)
def execXori (d a : Fin 32) (i : BitVec 15) (s : State) : Result := aluUnary s d a (· ^^^ i.signExtend 64)
def execShli (d a : Fin 32) (n : Fin 64) (s : State) : Result := aluUnary s d a (· <<< n.val)
def execShri (d a : Fin 32) (n : Fin 64) (s : State) : Result := aluUnary s d a (· >>> n.val)
def execSrai (d a : Fin 32) (n : Fin 64) (s : State) : Result := aluUnary s d a (·.sshiftRight n.val)

/-- BFX: a field that passes bit 63 is ILLEGAL (R137). `l` is the length less one. -/
def execBfx (d a : Fin 32) (l p : Fin 64) (s : State) : Result :=
  orTrap s .control (decide (64 < p.val + l.val + 1)) .illegal
    (aluUnary s d a (fun x => BitVec.ofNat 64 (wordField x p.val (l.val + 1))))

/-- BFX.sx (R137). -/
def execBfxSx (d a : Fin 32) (l p : Fin 64) (s : State) : Result :=
  orTrap s .control (decide (64 < p.val + l.val + 1)) .illegal
    (aluUnary s d a (fun x => BitVec.ofInt 64 (Num.wrap (wordField x p.val (l.val + 1)) (l.val + 1))))

/-- BFI keeps the bits of gd outside the field (R137). -/
def execBfi (d a : Fin 32) (l p : Fin 64) (s : State) : Result :=
  orTrap s .control (decide (64 < p.val + l.val + 1)) .illegal
    (aluOp s d [d, a] (fun c => c.getG d - BitVec.ofNat 64 (wordField (c.getG d) p.val (l.val + 1) * 2 ^ p.val)
      + BitVec.ofNat 64 (wordField (c.getG a) 0 (l.val + 1) * 2 ^ p.val)))

def execLi (d : Fin 32) (i : BitVec 20) (s : State) : Result := aluOp s d [] (fun _ => i.signExtend 64)

/-- LIH keeps bits 19:0 of gd (R138). -/
def execLih (d : Fin 32) (i : BitVec 20) (s : State) : Result :=
  aluOp s d [d] (fun c => (i.signExtend 64) <<< 20 + BitVec.ofNat 64 ((c.getG d).toNat % 2 ^ 20))

/-! ## Conditions and branch targets (R139, R140) -/

/-- CMP waits for a vote that owes its c bit, then writes the bit (R139). -/
def execCmp (c : Fin 4) (a b : Fin 32) (x : CmpCond) (s : State) : Result :=
  issueC s [a, b] [c] 4 (fun s => s.mod (fun k => k.setC c (condHolds x (k.getG a) (k.getG b))))

def execCmpImm (x : CmpCond) (c : Fin 4) (a : Fin 32) (i : BitVec 15) (s : State) : Result :=
  issueC s [a] [c] 4 (fun s => s.mod (fun k => k.setC c (condHolds x (k.getG a) (i.signExtend 64))))

def execPbr (b : Fin 4) (o : BitVec 23) (s : State) : Result :=
  issueC s [] [] 4 (fun s => s.mod (fun c => c.setB b (c.pcc + (o.signExtend 64) <<< 2)))

def execPbrg (b : Fin 4) (a : Fin 32) (s : State) : Result :=
  issueC s [a] [] 4 (fun s => s.mod (fun c => c.setB b (c.getG a)))

end Sys2Proof.Machine
end

