-- ==== Sys2Proof/Machine/Operands.lean ====
section
/-! DEFINITION. Operands of the execute slice: source codes (R117), destination codes (R118, R161), accepted types (R160),
predicates (R119), last-use bits (R114), tile locks (R189), and the one operation that issues an execute instruction and puts
its result into a latch (R108, R111, R112, R159). -/

namespace Sys2Proof.Machine

/-! ## Types (R160) -/

def floatOk (lw : Nat) (t : ElemType) : Bool :=
  match t with
  | .bf16 | .f16 => true
  | .f32 => lw == 32
  | _ => false

def intOk (lw : Nat) (t : ElemType) : Bool :=
  match t with
  | .z8 | .s8 | .z16 | .s16 => true
  | .z32 | .s32 => lw == 32
  | _ => false

def anyOk (lw : Nat) (t : ElemType) : Bool := floatOk lw t || intOk lw t

/-- Index and element types of PERM and SHUF. -/
def plainOk (lw : Nat) (t : ElemType) : Bool :=
  match t with
  | .z8 | .z16 => true
  | .z32 => lw == 32
  | _ => false

/-! ## Sources (R117) -/

/-- A source code and its last-use bit. -/
structure Src where
  code : Fin 16
  last : Bool
  deriving DecidableEq, Repr

/-- A reserved code, a stream port in a control core, or a last-use bit on anything but v0 to v7 (R114, R117). -/
def Src.bad (gusset : Bool) (x : Src) : Bool :=
  x.code.val == 15 || (decide (11 ≤ x.code.val) && !gusset) || (x.last && decide (8 ≤ x.code.val))

/-- The stream whose input port 0 to 3 of the context in focus is n (R305). -/
def inputStream (s : State) (n : Nat) : Option Stream :=
  s.streams.find? (fun st => st.cons.kind == .gussetIn && st.cons.ctx == s.self && st.cons.port == n)

/-- A source's row as it stands. -/
def readSrc (s : State) (x : Src) : Nat :=
  let n := x.code.val
  if h : n < 8 then (s.ctx.getV ⟨n, h⟩).toNat
  else if n = 8 then (match s.ctx.lq with | e :: _ => e.data.toNat | [] => 0)
  else if n = 9 then
    let d := match s.ctx.dq with | w :: _ => w.toNat | [] => 0
    packLanes s.laneBits (List.replicate s.lanes d)
  else if n = 10 then 0
  else match inputStream s (n - 11) with
    | some st => (st.landed.headD 0).toNat
    | none => 0

/-- What a queue or port source finds. -/
inductive SrcState where
  | ready | wait | queue | stream
  deriving DecidableEq, Repr

/-- A source is ready, is waited for, or traps with QUEUE or STREAM (R108, R109, R153, R305). -/
def srcState (s : State) (x : Src) : SrcState :=
  let n := x.code.val
  if n = 8 then
    match s.ctx.lq with
    | [] => if s.ctx.endedC then .queue else .wait
    | e :: _ => if e.filled && !e.tagged then .ready else .wait
  else if n = 9 then
    match s.ctx.dq with
    | [] => if s.ctx.endedC then .queue else .wait
    | _ => .ready
  else if 11 ≤ n ∧ n ≤ 14 then
    match inputStream s (n - 11) with
    | none => .stream
    | some st => if st.landed = [] then .wait else .ready
  else .ready

/-- Pop each queue and port named, once; a port's consumer compares its occupancy at the end of the clock (R108, R309). -/
def popSources (s : State) (xs : List Src) : State :=
  let has (n : Nat) := xs.any (fun x => x.code.val == n)
  let s := s.mod (fun c => { c with
    lq := if has 8 then c.lq.drop 1 else c.lq
    dq := if has 9 then c.dq.drop 1 else c.dq })
  { s with streams := s.streams.map (fun st =>
      if st.cons.kind = .gussetIn ∧ st.cons.ctx = s.self ∧ st.cons.port < 4 ∧ has (11 + st.cons.port) then
        Stream.flowCheck { st with landed := st.landed.drop 1, taken := st.taken + 1, slots := st.slots.drop 1 }
      else st) }

/-- Registers marked as a last use become dead (R114). -/
def killSources (xs : List Src) (c : Context) : Context :=
  xs.foldl (fun c x => if h : x.code.val < 8 then (if x.last then c.kill ⟨x.code.val, h⟩ else c) else c) c

/-! ## Destinations (R118, R161) -/

inductive DestClass where
  | value | predicate | vqOnly | packed
  deriving DecidableEq, Repr

/-- Destination codes a class accepts; `packed` is QPACK's and QUNPACK's, which exclude vq (R174). -/
def destOk (gusset : Bool) (cls : DestClass) (d : Nat) : Bool :=
  let port := decide (0x12 ≤ d) && decide (d ≤ 0x15) && gusset
  let main := decide (0x80 ≤ d) && (!gusset || decide (d < 0xC0))
  match cls with
  | .value => decide (d < 8) || d == 0x10 || d == 0x11 || port || main
  | .packed => decide (d < 8) || d == 0x10 || port || main
  | .predicate => decide (9 ≤ d) && decide (d ≤ 0xF)
  | .vqOnly => d == 0x11

/-- Entries of sq in use: those in the queue, and those paired with a vector store that is not performed yet (R107, R108). -/
def sqInUse (c : Context) : Nat := c.sq.length + (c.accesses.map (fun a => if a.performed then 0 else a.rows.length)).sum

/-- The queue or port that takes the result has a free entry, vq has those that come besides, or the port is not bound (R108, R175,
R305). -/
def destState (s : State) (d : Nat) (vqExtra : Nat) : SrcState :=
  let pushed := vqExtra + (if d = 0x11 then 1 else 0)
  let room := pushed == 0 || decide (s.ctx.vq.length + pushed ≤ rowCap)
  if 0x12 ≤ d ∧ d ≤ 0x15 then
    match outputStream s (d - 0x12) with
    | none => .stream
    | some st => if room && decide (st.reserved.length + st.outgoing.length < 4) then .ready else .wait
  else if room && (d != 0x10 || decide (sqInUse s.ctx < rowCap)) then .ready else .wait

/-! ## Tile locks (R189) -/

/-- A main-file register is locked by an earlier command. -/
def lockedMain (s : State) (m : Nat) : Bool :=
  s.ctx.ops.any (fun o => o.kind.isMatrix && o.tile == some (m / tileRegs s) && precedesHere s.ctx o)

/-! ## Issue -/

/-- The result of an execute instruction: its lanes, its flags, and the words it pushes to vq besides (R175). -/
structure XResult where
  data : Nat
  flags : Num.Flags
  pushes : List Nat
  deriving DecidableEq, Repr

/-- What an execute instruction asks of the issue (R111, R114, R117 to R119). -/
structure XOp where
  illegal : Bool
  cls : DestClass
  dest : Nat
  srcs : List Src
  /-- Main-file registers read. -/
  mains : List Nat
  pred : Fin 8
  latency : Nat
  /-- Every lane of the destination is written, whatever the predicate (R179, R180). -/
  whole : Bool
  /-- Entries popped from cq, popped from dq as scales, and pushed to vq besides the destination. -/
  cqPops : Nat
  dqPops : Nat
  vqExtra : Nat
  deriving DecidableEq, Repr

/-- The word is ILLEGAL: its own checks, its sources, its destination (R121). -/
def XOp.isIllegal (s : State) (o : XOp) : Bool :=
  o.illegal || o.srcs.any (Src.bad (isGusset s.self)) || !destOk (isGusset s.self) o.cls o.dest ||
  o.mains.any (fun m => isGusset s.self && decide (64 ≤ m))

/-- Main-file registers the instruction reads or writes. -/
def XOp.touches (o : XOp) : List Nat := o.mains ++ (if 0x80 ≤ o.dest then [o.dest - 0x80] else [])

/-- The instruction must wait for an earlier matrix instruction or a tile's lock (R189). -/
def XOp.held (s : State) (o : XOp) : Bool :=
  (!o.touches.isEmpty && waitsForControl s isMatrixWord) || o.touches.any (lockedMain s)

/-- Traps and waits of the sources and the destination, the first trap found. -/
def XOp.operandState (s : State) (o : XOp) : SrcState :=
  let cq := if o.cqPops = 0 then SrcState.ready
    else if s.ctx.cq = [] then (if s.ctx.endedC then .queue else .wait) else .ready
  let dq := if o.dqPops ≤ s.ctx.dq.length then SrcState.ready else if s.ctx.endedC then .queue else .wait
  let all := o.srcs.map (srcState s) ++ [cq, dq, destState s o.dest o.vqExtra]
  if all.contains .stream then .stream else if all.contains .queue then .queue
  else if all.contains .wait then .wait else .ready

/-- The handles of the streams bound to the ports that an execute instruction names (R305, R313). -/
def XOp.portHandles (s : State) (o : XOp) : List Nat :=
  let ins := o.srcs.filterMap (fun x => if 11 ≤ x.code.val ∧ x.code.val ≤ 14 then inputStream s (x.code.val - 11) else none)
  let outs := if 0x12 ≤ o.dest ∧ o.dest ≤ 0x15 then (outputStream s (o.dest - 0x12)).toList else []
  (ins ++ outs).map (fun st => 2 ^ 8 * st.gen + st.entry)

/-- The instruction at the execute boundary has stalled on a port whose stream is gone, were the port bound again since (R305). -/
def XOp.portLost (s : State) (o : XOp) : Bool :=
  match s.ctx.portWait with
  | some (n, k, hs) => n == s.ctx.stretchX && k == s.ctx.logX.length && hs != o.portHandles s
  | none => false

/-- An instruction that stalls with ports among its operands keeps their streams in mind. -/
def XOp.stalled (s : State) (o : XOp) : State :=
  if o.portHandles s = [] then s
  else s.mod (fun c => { c with portWait := some (c.stretchX, c.logX.length, o.portHandles s) })

/-- Zero the lanes a mask leaves out. -/
def maskRow (lw n mask x : Nat) : Nat :=
  packLanes lw ((List.range n).map (fun l => if bitOf mask l then laneOf x lw l else 0))

/-- A latch for the destination: registers keep their inactive lanes, queues and ports take zeros, vq takes lane 0, predicates
are written inactive (R118, R119). -/
def destLatch (s : State) (o : XOp) (mask : Nat) (r : XResult) (ident : Nat) : Latch :=
  let n := s.lanes
  let full := 2 ^ n - 1
  let lw := s.laneBits
  let reg := decide (o.dest < 8) || decide (0x80 ≤ o.dest)
  let data :=
    if o.cls = .predicate then r.data % 2 ^ n &&& mask
    else if o.whole || reg then r.data
    else maskRow lw n mask r.data
  let data := if o.dest = 0x11 then laneOf data lw 0 else data
  { dest := o.dest, rem := o.latency - 1, flags := BitVec.ofNat 5 r.flags.code, qi := ident
    mask := BitVec.ofNat 64 (if o.whole || !reg then full else mask), data := BitVec.ofNat 1024 data
    stretch := s.ctx.stretchX, nth := s.ctx.logX.length
    extra := (List.range r.pushes.length).zipWith (fun i w => (ident + 1 + i, BitVec.ofNat 64 w)) r.pushes }

/-- Reserve the destination's entry (R108). -/
def reserveDest (s : State) (d : Nat) : State :=
  if d = 0x10 then s.mod (fun c => { c with sq := c.sq ++ [⟨c.nextId, 0, false, false⟩] })
  else if d = 0x11 then s.mod (fun c => { c with vq := c.vq ++ [⟨c.nextId, 0, false⟩] })
  else if 0x12 ≤ d ∧ d ≤ 0x15 then
    { s with streams := s.streams.map (fun st =>
        if st.prod.kind = .gussetOut ∧ st.prod.ctx = s.self ∧ st.prod.port = d - 0x12 then { st with reserved := st.reserved ++ [(s.ctx.nextId, none)] } else st) }
  else s

/-- Entries of vq for the words that a result pushes besides its destination, under the identifiers from nextId up (R108, R175, R176). -/
def reserveExtra (n : Nat) (c : Context) : Context :=
  { c with vq := c.vq ++ (List.range n).map (fun i => ⟨c.nextId + i, 0, false⟩), nextId := c.nextId + n }

/-- The state right after an execute instruction issues, its operands read from `s`, in which every due result has landed: one
issue clock passes, queues pop, last uses die, entries are reserved and the result stands in its latch (R108 to R114, R159). -/
def issuedX (s : State) (o : XOp) (f : State → List Nat → Nat → XResult) : State :=
  let mask := s.ctx.getK s.lanes o.pred
  let r := f s (o.srcs.map (readSrc s)) mask
  let ident := s.ctx.nextId
  let s := s.mod Context.tick
  let s := popSources s o.srcs
  let s := s.mod (fun c => { killSources o.srcs c with cq := c.cq.drop o.cqPops, dq := c.dq.drop o.dqPops })
  let latch := destLatch s o mask r ident
  let s := reserveDest s o.dest
  let s := s.mod (fun c => { c with latches := c.latches ++ [latch], nextId := c.nextId + 1 })
  s.mod (reserveExtra r.pushes.length)

/-- Issue an execute instruction: after an earlier access of FPMODE, TSHAPE or a loop register has acted, ILLEGAL first, then its waits, then
STREAM and QUEUE; otherwise it issues and the slice moves on (R38, R102, R121, R131, R388, R412). `f` computes the result from the state, the source rows and the predicate's lanes. -/
def issueX (s : State) (o : XOp) (f : State → List Nat → Nat → XResult) : Result :=
  if !canIssue s .execute || waitsForControl s isOrderedSysWord then .next s
  else if o.isIllegal s then .next (trapSync s .execute .illegal)
  else if o.held s then .next s
  else
    let s' := landDue s
    if o.portLost s then .next (trapSync s .execute .stream)
    else match o.operandState s' with
    | .stream => .next (trapSync s .execute .stream)
    | .queue => .next (trapSync s .execute .queue)
    | .wait => .next (o.stalled s)
    | .ready => .next (settle (retire (issuedX s' o f) .execute 4 false))

/-! ## Forms of execute instructions -/

/-- A value instruction of latency L on sources with last-use bits. -/
def valueOp (d : Fin 256) (srcs : List (Fin 16 × Bool)) (k : Fin 8) (latency : Nat) (illegal : Bool) : XOp :=
  { illegal := illegal, cls := .value, dest := d.val, srcs := srcs.map (fun p => ⟨p.1, p.2⟩), mains := [], pred := k, latency := latency
    whole := false, cqPops := 0, dqPops := 0, vqExtra := 0 }

/-- Rows of sources as a function of the lane. -/
def srcLane (s : State) (rows : List Nat) (i l : Nat) : Nat := laneOf (rows.getD i 0) s.laneBits l

/-- A result without flags, lane by lane. -/
def plainLanes (s : State) (f : Nat → Nat) : XResult :=
  { data := packLanes s.laneBits ((List.range s.lanes).map f), flags := Num.Flags.none, pushes := [] }

/-- A result with flags, lane by lane. -/
def flagLanes (s : State) (mask : Nat) (f : Nat → Nat × Num.Flags) : XResult :=
  let r := collectLanes s.laneBits mask ((List.range s.lanes).map f)
  { data := r.1, flags := r.2, pushes := [] }

/-- A predicate result, lane by lane. -/
def predLanes (s : State) (mask : Nat) (f : Nat → Bool × Num.Flags) : XResult :=
  let rs := (List.range s.lanes).map f
  { data := packLanes 1 (rs.map (fun p => if p.1 then 1 else 0))
    flags := (collectLanes 1 mask (rs.map (fun p => (0, p.2)))).2, pushes := [] }

end Sys2Proof.Machine
end

