-- ==== Sys2Proof/Machine/ExecuteFloat.lean ====
section
/-! DEFINITION. Moves, lane placement and floating point of the execute slice (R162 to R168, R45 to R47). -/

namespace Sys2Proof.Machine

/-! ## Moves and placement (R162, R163) -/

def execMov (d : Fin 256) (a : Fin 16) (k : Fin 8) (u : Bool) (s : State) : Result :=
  issueX s (valueOp d [(a, u)] k 1 false) (fun s rows _ => plainLanes s (srcLane s rows 0))

def execMovMain (d : Fin 256) (n : Fin 128) (k : Fin 8) (s : State) : Result :=
  issueX s { valueOp d [] k 1 false with mains := [n.val] }
    (fun s _ _ => plainLanes s (laneOf (s.ctx.m[n]).toNat s.laneBits))

def execBcast (d : Fin 256) (a : Fin 16) (i : Fin 256) (k : Fin 8) (u : Bool) (s : State) : Result :=
  issueX s (valueOp d [(a, u)] k 1 (decide (s.lanes ≤ i.val))) (fun s rows _ => plainLanes s (fun _ => srcLane s rows 0 i.val))

/-- IOTA: the lane index as T (R163). -/
def execIota (d : Fin 256) (t : ElemType) (k : Fin 8) (s : State) : Result :=
  issueX s (valueOp d [] k 1 (!anyOk s.laneBits t)) (fun s _ _ => plainLanes s (fun l =>
    match t.fmt? with
    | some f => (Num.convIF f .rne false l).1
    | none => t.narrow l))

def execZero (d : Fin 256) (k : Fin 8) (s : State) : Result :=
  issueX s (valueOp d [] k 1 false) (fun s _ _ => plainLanes s (fun _ => 0))

/-- EXTR pushes one lane to vq (R163). -/
def execExtr (a : Fin 16) (i : Fin 256) (u : Bool) (s : State) : Result :=
  issueX s { valueOp 0x11 [(a, u)] 0 1 (decide (s.lanes ≤ i.val)) with cls := .vqOnly }
    (fun s rows _ => plainLanes s (fun _ => srcLane s rows 0 i.val))

/-! ## Two-source and fused arithmetic (R164) -/

/-- The operations of Num on two lanes, with the mode and flushing of the state. -/
abbrev Float2 := Num.Fmt → RoundMode → Bool → Nat → Nat → Nat × Num.Flags

def floatBinary (f : Float2) (latency : Nat) (d : Fin 256) (a b : Fin 16) (t : ElemType) (k : Fin 8) (u v : Bool) (s : State) : Result :=
  issueX s (valueOp d [(a, u), (b, v)] k latency (!floatOk s.laneBits t)) (fun s rows mask =>
    flagLanes s mask (fun l => f (t.fmt?.getD Num.f32) s.ctx.rm s.ctx.ftz (srcLane s rows 0 l) (srcLane s rows 1 l)))

def execFadd := floatBinary Num.fadd 4
def execFsub := floatBinary Num.fsub 4
def execFmul := floatBinary Num.fmul 4
def execFmin := floatBinary (fun f _ ftz x y => Num.fminmax f ftz false x y) 1
def execFmax := floatBinary (fun f _ ftz x y => Num.fminmax f ftz true x y) 1

/-- FMA, FMS and FNMA: which of the product and the addend is negated (R164). -/
def floatFused (t : ElemType) (negP negC : Bool) (d : Fin 256) (a b c : Fin 16) (k : Fin 8) (u v : Bool) (s : State) : Result :=
  issueX s (valueOp d [(a, u), (b, v), (c, false)] k 4 (!floatOk s.laneBits t)) (fun s rows mask =>
    flagLanes s mask (fun l => Num.fused (t.fmt?.getD Num.f32) s.ctx.rm s.ctx.ftz negP negC
      (srcLane s rows 0 l) (srcLane s rows 1 l) (srcLane s rows 2 l)))

def execFmaF32 := floatFused .f32 false false
def execFmaBf16 := floatFused .bf16 false false
def execFmaF16 := floatFused .f16 false false
def execFmsF32 := floatFused .f32 false true
def execFmsBf16 := floatFused .bf16 false true
def execFmsF16 := floatFused .f16 false true
def execFnmaF32 := floatFused .f32 true false
def execFnmaBf16 := floatFused .bf16 true false
def execFnmaF16 := floatFused .f16 true false

/-- FCMP writes a predicate other than k0 (R166). -/
def execFcmp (x : FCond) (p : Fin 8) (a b : Fin 16) (t : ElemType) (k : Fin 8) (u v : Bool) (s : State) : Result :=
  issueX s { valueOp (Fin.ofNat 256 (8 + p.val)) [(a, u), (b, v)] k 1 (!floatOk s.laneBits t) with cls := .predicate }
    (fun s rows mask => predLanes s mask (fun l =>
      Num.fcmp (t.fmt?.getD Num.f32) s.ctx.ftz x (srcLane s rows 0 l) (srcLane s rows 1 l)))

/-! ## Unary group (R167, R168, R45 to R47) -/

def floatUnary (f : Num.Fmt → Bool → Nat → Nat × Num.Flags) (latency : Nat) (d : Fin 256) (a : Fin 16) (t : ElemType) (k : Fin 8)
    (u : Bool) (s : State) : Result :=
  issueX s (valueOp d [(a, u)] k latency (!floatOk s.laneBits t)) (fun s rows mask =>
    flagLanes s mask (fun l => f (t.fmt?.getD Num.f32) s.ctx.ftz (srcLane s rows 0 l)))

def execFabs := floatUnary (fun f _ x => (x % f.signBit, .none)) 1
def execFneg := floatUnary (fun f _ x => ((x + f.signBit) % 2 ^ f.width, .none)) 1
def execFclass := floatUnary (fun f ftz x => (Num.fclass f ftz x, .none)) 1
def execFrcp := floatUnary Num.frcp 8
def execFrsqrt := floatUnary Num.frsqrt 8
def execFsqrt := floatUnary Num.fsqrt 8
def execFexp2 := floatUnary Num.fexp2 8
def execFlog2 := floatUnary Num.flog2 8
def execFtanh := floatUnary Num.ftanh 8
def execFsig := floatUnary Num.fsig 8

end Sys2Proof.Machine
end

