-- ==== Sys2Proof/Machine/ExecuteInt.lean ====
section
/-! DEFINITION. Integer arithmetic, conversions, NBI packing, predicates, reductions, permutes and loops of the execute slice
(R169 to R186). -/

namespace Sys2Proof.Machine

/-! ## Integer arithmetic (R169 to R172) -/

/-- A binary form on the integers of the two lanes; the result is the bits written (R161, R169). -/
def intBinary (f : ElemType → Int → Int → Nat) (d : Fin 256) (a b : Fin 16) (t : ElemType) (k : Fin 8) (u v : Bool) (s : State) : Result :=
  issueX s (valueOp d [(a, u), (b, v)] k 1 (!intOk s.laneBits t)) (fun s rows _ =>
    plainLanes s (fun l => f t (t.toInt (srcLane s rows 0 l)) (t.toInt (srcLane s rows 1 l))))

/-- The low bits of an integer as a number, for bitwise forms. -/
def lowBits (t : ElemType) (x : Int) : Nat := Num.wrapz x t.width

def execVadd := intBinary (fun t x y => t.narrow (x + y))
def execVsub := intBinary (fun t x y => t.narrow (x - y))
def execVadds := intBinary (fun t x y => t.saturate (x + y))
def execVsubs := intBinary (fun t x y => t.saturate (x - y))
def execVmul := intBinary (fun t x y => t.narrow (x * y))
def execVmulh := intBinary (fun t x y => t.narrow (x * y / 2 ^ t.width))
def execVmin := intBinary (fun t x y => t.narrow (min x y))
def execVmax := intBinary (fun t x y => t.narrow (max x y))
def execVand := intBinary (fun t x y => lowBits t x &&& lowBits t y)
def execVor := intBinary (fun t x y => lowBits t x ||| lowBits t y)
def execVxor := intBinary (fun t x y => lowBits t x ^^^ lowBits t y)

/-- Shifts count by the low n bits of b, unsigned; a count of n or more shifts everything out (R170). -/
def execVshl := intBinary (fun t x y => t.narrow (x * 2 ^ lowBits t y))
def execVshr := intBinary (fun t x y => t.narrow (Int.fdiv x (2 ^ lowBits t y)))
def execVshls := intBinary (fun t x y => t.saturate (x * 2 ^ lowBits t y))

/-- VCMP's conditions, signed or unsigned by the type (R171). -/
def icondHolds (x : ICond) (a b : Int) : Bool :=
  match x with
  | .eq => a == b
  | .ne => a != b
  | .lt => decide (a < b)
  | .le => decide (a ≤ b)

def execVcmp (x : ICond) (p : Fin 8) (a b : Fin 16) (t : ElemType) (k : Fin 8) (u v : Bool) (s : State) : Result :=
  issueX s { valueOp (Fin.ofNat 256 (8 + p.val)) [(a, u), (b, v)] k 1 (!intOk s.laneBits t) with cls := .predicate }
    (fun s rows mask => predLanes s mask (fun l =>
      (icondHolds x (t.toInt (srcLane s rows 0 l)) (t.toInt (srcLane s rows 1 l)), .none)))

def intUnary (f : ElemType → Int → Nat) (d : Fin 256) (a : Fin 16) (t : ElemType) (k : Fin 8) (u : Bool) (s : State) : Result :=
  issueX s (valueOp d [(a, u)] k 1 (!intOk s.laneBits t)) (fun s rows _ => plainLanes s (fun l => f t (t.toInt (srcLane s rows 0 l))))

def execVabs := intUnary (fun t x => t.narrow x.natAbs)
def execVabss := intUnary (fun t x => t.saturate x.natAbs)
def execVneg := intUnary (fun t x => t.narrow (-x))
def execVnegs := intUnary (fun t x => t.saturate (-x))
def execVnot := intUnary (fun t x => 2 ^ t.width - 1 - lowBits t x)
def execVclz := intUnary (fun t x => leadingZeros t.width (lowBits t x))
def execVpopc := intUnary (fun t x => popCount t.width (lowBits t x))

/-! ## Conversions (R39, R173) -/

/-- One lane of CVT (R39). -/
def convertLane (src dst : ElemType) (mode : RoundMode) (sat ftz : Bool) (x : Nat) : Nat × Num.Flags :=
  match src.fmt?, dst.fmt? with
  | some f, some g => Num.convFF f g mode ftz x
  | some f, none =>
    let r := Num.convFI f mode ftz dst.minValue dst.maxValue x
    (dst.narrow r.1, r.2)
  | none, some g => Num.convIF g mode ftz (src.toInt x)
  | none, none => (if sat && decide (dst.width ≤ src.width) then dst.saturate (src.toInt x) else dst.narrow (src.toInt x), .none)

/-- CVT and CVTS: `src` and `dst` are the source and result types; a saturating form with a float result is ILLEGAL (R173). -/
def convert (mode : RoundMode) (sat : Bool) (d : Fin 256) (a : Fin 16) (src dst : ElemType) (k : Fin 8) (u : Bool) (s : State) : Result :=
  issueX s (valueOp d [(a, u)] k 3 (!anyOk s.laneBits src || !anyOk s.laneBits dst || (sat && dst.fmt?.isSome)))
    (fun s rows mask => flagLanes s mask (fun l => convertLane src dst mode sat s.ctx.ftz (srcLane s rows 0 l)))

def execCvtRne := convert .rne false
def execCvtRtz := convert .rtz false
def execCvtRup := convert .rup false
def execCvtRdn := convert .rdn false
def execCvtsRne := convert .rne true
def execCvtsRtz := convert .rtz true
def execCvtsRup := convert .rup true
def execCvtsRdn := convert .rdn true

/-! ## NBI packing (R174 to R177) -/

/-- FT's float format: f32 in wide32, bf16 or f16 in wide16 (R174). -/
def packFmt (lw : Nat) (ft : Bool) : Num.Fmt := if lw = 32 then Num.f32 else if ft then Num.f16 else Num.bf16

/-- Lanes of a block; every lane with no blocks (R175). -/
def blockLanes (w blk : Nat) : Nat := if blk = 0 then w else 8 * 2 ^ blk

/-- The entries that carry a register's scales (R175). -/
def scaleEntries (w blk : Nat) : Nat := if blk = 0 then 0 else (w / blockLanes w blk + 1) / 2

/-- The fields' checks (R174). -/
def packIllegal (s : State) (p : Fin 8) (b : Fin 4) (ft : Bool) : Bool :=
  p.val == 0 || (b.val != 0 && decide (s.lanes < blockLanes s.lanes b.val)) || (ft && s.laneBits == 32)

/-- The larger magnitude of two values that are not NaNs. -/
def largerMag (x y : Num.Val) : Num.Val :=
  let mag (v : Num.Val) : Num.Val := match v with
    | .num _ m e => .num false m e
    | .inf _ => .inf false
    | v => v
  if (mag x).lt (mag y) then mag y else mag x

/-- The scale of a block whose largest magnitude is amax, as 24 bits (R31, R176). -/
def blockScale (amax : Num.Val) : Nat :=
  match amax with
  | .num _ m e => if m = 0 then 0 else Num.scaleOf (.num false (m * 2 ^ 96 / 127) (e - 96)) (m * 2 ^ 96 % 127 != 0)
  | v => Num.scaleOf v false

/-- The code of one lane at p planes under a scale (R28, R176). -/
def packCode (x : Num.Val) (scale : Num.Val) (p : Nat) : Int × Num.Flags :=
  match x with
  | .nan _ => (0, .invalid)
  | .inf n => if scale.isZero then (0, .none) else (Num.extremeCode n p, .invalid)
  | .num n m e =>
    match scale with
    | .num _ sm se =>
      if sm = 0 then (0, .none)
      else
        let num : Int := if n then -(m : Int) else m
        (if se ≤ e then Num.quantise (num * 2 ^ (e - se).toNat) sm p else Num.quantise num (sm * 2 ^ (se - e).toNat) p, .none)
    | _ => (0, .none)

/-- QPACK's result: the codes, and the words of scales it pushes (R175, R176). -/
def packLanesOf (s : State) (rows : List Nat) (mask p blk : Nat) (ft : Bool) : XResult :=
  let f := packFmt s.laneBits ft
  let len := blockLanes s.lanes blk
  let val (l : Nat) := Num.load s.ctx.ftz f (srcLane s rows 0 l)
  let scale (j : Nat) : Nat :=
    if blk = 0 then 0x3F8000
    else blockScale (((List.range len).map (fun i => j * len + i)).foldl
      (fun m l => if bitOf mask l && !(val l).isNaN then largerMag m (val l) else m) (.num false 0 0))
  let scales := (List.range (s.lanes / len)).map scale
  let r := flagLanes s mask (fun l =>
    let c := packCode (val l) (Num.scaleValue (scales.getD (l / len) 0)) p
    (Num.wrapz c.1 8, c.2))
  { r with pushes := (List.range (scaleEntries s.lanes blk)).map (fun e => scales.getD (2 * e) 0 + scales.getD (2 * e + 1) 0 * 2 ^ 32) }

def execQpack (d : Fin 256) (a : Fin 16) (p : Fin 8) (b : Fin 4) (f : Bool) (k : Fin 8) (u : Bool) (s : State) : Result :=
  issueX s { valueOp d [(a, u)] k 3 (packIllegal s p b f) with cls := .packed, vqExtra := scaleEntries s.lanes b.val }
    (fun s rows mask => packLanesOf s rows mask (p.val + 1) b.val f)

/-- The scale of lane l from the dq entries popped (R175, R177). -/
def unpackScale (s : State) (blk l : Nat) : Num.Val :=
  if blk = 0 then .num false 1 0
  else
    let j := l / blockLanes s.lanes blk
    Num.scaleValue (bitsOf (s.ctx.dq.getD (j / 2) 0).toNat (32 * (j % 2) + 23) (32 * (j % 2)))

/-- QUNPACK (R39). DESIGN CHOICE (unsafe; assumption 105): a zero product's sign is the exclusive or of the code's and the scale's. -/
def execQunpack (d : Fin 256) (a : Fin 16) (p : Fin 8) (b : Fin 4) (m : RoundMode) (f : Bool) (k : Fin 8) (u : Bool) (s : State) : Result :=
  issueX s { valueOp d [(a, u)] k 3 (packIllegal s p b f || (a.val == 9 && b.val != 0)) with
      cls := .packed, dqPops := scaleEntries s.lanes b.val }
    (fun s rows mask => flagLanes s mask (fun l =>
      let q := Num.nbiValue (Num.codeOf (srcLane s rows 0 l % 256)) (p.val + 1)
      Num.store (packFmt s.laneBits f) m s.ctx.ftz [] ((Num.Val.num (q < 0) q.natAbs 0).mul (unpackScale s b.val l))))

/-! ## Predicates and selection (R178, R179) -/

def predOp (d : Fin 256) (k : Fin 8) (illegal : Bool) : XOp := { valueOp d [] k 1 illegal with cls := .predicate }

/-- A predicate instruction: the lanes of its result as a number. -/
def predicate (d : Fin 256) (k : Fin 8) (s : State) (f : Nat → Context → Nat) : Result :=
  issueX s (predOp d k false) (fun s _ _ => { data := f s.lanes s.ctx, flags := .none, pushes := [] })

def execKand (d : Fin 256) (a b k : Fin 8) (s : State) : Result := predicate d k s (fun w c => c.getK w a &&& c.getK w b)
def execKor (d : Fin 256) (a b k : Fin 8) (s : State) : Result := predicate d k s (fun w c => c.getK w a ||| c.getK w b)
def execKxor (d : Fin 256) (a b k : Fin 8) (s : State) : Result := predicate d k s (fun w c => c.getK w a ^^^ c.getK w b)
def execKandn (d : Fin 256) (a b k : Fin 8) (s : State) : Result :=
  predicate d k s (fun w c => c.getK w a &&& (2 ^ w - 1 - c.getK w b))
def execKnot (d : Fin 256) (a k : Fin 8) (s : State) : Result := predicate d k s (fun w c => 2 ^ w - 1 - c.getK w a)
def execKmov (d : Fin 256) (a k : Fin 8) (s : State) : Result := predicate d k s (fun w c => c.getK w a)

/-- KPOP pops one cq entry and takes its low W bits (R178). -/
def execKpop (d : Fin 256) (k : Fin 8) (s : State) : Result :=
  issueX s { predOp d k false with cqPops := 1 }
    (fun s _ _ => { data := (s.ctx.cq.headD 0).toNat % 2 ^ s.lanes, flags := .none, pushes := [] })

/-- SEL writes every lane; k is the selector (R179). -/
def execSelExecute (d : Fin 256) (a b : Fin 16) (k : Fin 8) (u v : Bool) (s : State) : Result :=
  issueX s { valueOp d [(a, u), (b, v)] k 1 false with whole := true }
    (fun s rows mask => plainLanes s (fun l => if bitOf mask l then srcLane s rows 0 l else srcLane s rows 1 l))

/-! ## Reductions (R44, R180) -/

/-- One level of the tree: lane l with lane l + n/2 (R44). -/
def treeLevel (f : Nat → Nat → Nat × Num.Flags) (xs ys : List (Option Nat)) : List (Option Nat × Num.Flags) :=
  (xs.zip ys).map (fun p => match p with
    | (some x, some y) => let r := f x y; (some r.1, r.2)
    | (some x, none) => (some x, .none)
    | (none, y) => (y, .none))

/-- The tree over a list of lanes whose length is 2^n. -/
def treeReduce (f : Nat → Nat → Nat × Num.Flags) : Nat → List (Option Nat) → Num.Flags → Option Nat × Num.Flags
  | 0, xs, fl => (xs.headD none, fl)
  | n + 1, xs, fl =>
    let h := xs.length / 2
    let r := treeLevel f (xs.take h) (xs.drop h)
    treeReduce f n (r.map Prod.fst) (r.foldl (fun m p => m.union p.2) fl)

/-- A reduction: lane 0 takes the result and every other lane zero; an empty tree gives zero (R44, R180). -/
def reduce (f : State → Nat → Nat → Nat × Num.Flags) (ok : Nat → ElemType → Bool) (d : Fin 256) (a : Fin 16) (t : ElemType)
    (k : Fin 8) (u : Bool) (s : State) : Result :=
  issueX s { valueOp d [(a, u)] k 6 (!ok s.laneBits t) with whole := true } (fun s rows mask =>
    let xs := (List.range s.lanes).map (fun l => if bitOf mask l then some (srcLane s rows 0 l % 2 ^ t.width) else none)
    let r := treeReduce (f s) (Nat.log2 s.lanes) xs .none
    { data := r.1.getD 0 % 2 ^ t.width, flags := r.2, pushes := [] })

def execRsum (d : Fin 256) (a : Fin 16) (t : ElemType) (k : Fin 8) (u : Bool) (s : State) : Result :=
  reduce (fun s x y => Num.fadd (t.fmt?.getD Num.f32) s.ctx.rm s.ctx.ftz x y) floatOk d a t k u s

/-- The larger or smaller of two entries (R165, R180). -/
def extreme (isMax : Bool) (t : ElemType) (s : State) (x y : Nat) : Nat × Num.Flags :=
  match t.fmt? with
  | some f => Num.fminmax f s.ctx.ftz isMax x y
  | none => (if decide (t.toInt x < t.toInt y) == isMax then y else x, .none)

def execRmax (d : Fin 256) (a : Fin 16) (t : ElemType) (k : Fin 8) (u : Bool) (s : State) : Result :=
  reduce (extreme true t) anyOk d a t k u s
def execRmin (d : Fin 256) (a : Fin 16) (t : ElemType) (k : Fin 8) (u : Bool) (s : State) : Result :=
  reduce (extreme false t) anyOk d a t k u s
def execRisum (d : Fin 256) (a : Fin 16) (t : ElemType) (k : Fin 8) (u : Bool) (s : State) : Result :=
  reduce (fun _ x y => (t.narrow (t.toInt x + t.toInt y), .none)) intOk d a t k u s
def execRisums (d : Fin 256) (a : Fin 16) (t : ElemType) (k : Fin 8) (u : Bool) (s : State) : Result :=
  reduce (fun _ x y => (t.saturate (t.toInt x + t.toInt y), .none)) intOk d a t k u s

/-! ## Permutes (R181 to R184) -/

/-- A permute of the lanes of its sources, latency 2. -/
def permute (d : Fin 256) (srcs : List (Fin 16 × Bool)) (k : Fin 8) (illegal : Bool) (s : State)
    (f : State → List Nat → Nat → Nat) : Result :=
  issueX s (valueOp d srcs k 2 illegal) (fun s rows _ => plainLanes s (f s rows))

def execPerm (d : Fin 256) (a b : Fin 16) (t : ElemType) (k : Fin 8) (u v : Bool) (s : State) : Result :=
  permute d [(a, u), (b, v)] k (!plainOk s.laneBits t) s (fun s rows l =>
    let i := srcLane s rows 1 l % 2 ^ t.width
    if i < s.lanes then srcLane s rows 0 i else 0)

def execRot (d : Fin 256) (a : Fin 16) (n : Fin 256) (k : Fin 8) (u : Bool) (s : State) : Result :=
  permute d [(a, u)] k (decide (s.lanes ≤ n.val)) s (fun s rows l => srcLane s rows 0 ((l + n.val) % s.lanes))

/-- The source element of result element i among n (R183). -/
def shufIndex (p : ShufPattern) (n i : Nat) : Nat :=
  match p with
  | .deint => if i < n / 2 then 2 * i else 2 * (i - n / 2) + 1
  | .inter => i / 2 + i % 2 * (n / 2)
  | .rev => n - 1 - i
  | .swap1 => i ^^^ 1
  | .half => i ^^^ (n / 2)
  | .tr4 => 16 * (i / 16) + 4 * (i % 4) + i / 4 % 4

def execShuf (d : Fin 256) (a : Fin 16) (p : ShufPattern) (t : ElemType) (k : Fin 8) (u : Bool) (s : State) : Result :=
  issueX s (valueOp d [(a, u)] k 2 (!plainOk s.laneBits t)) (fun s rows _ =>
    let n := s.rowBits / t.width
    { data := packLanes t.width ((List.range n).map (fun i => laneOf (rows.headD 0) t.width (shufIndex p n i)))
      flags := .none, pushes := [] })

def execSlide (d : Fin 256) (a b n : Fin 16) (k : Fin 8) (u v : Bool) (s : State) : Result :=
  permute d [(a, u), (b, v)] k false s (fun s rows l =>
    if l + n.val < s.lanes then srcLane s rows 0 (l + n.val) else srcLane s rows 1 (l + n.val - s.lanes))

/-! ## Loops (R185) -/

/-- VLOOP's count is one cq entry (R185). -/
def execVloop (v : LoopLevel) (n : Fin 4096) (s : State) : Result :=
  orTrap s .execute (n.val == 0 || inSlot s.ctx .execute) .illegal (
    if !canIssue s .execute || waitsForControl s isOrderedSysWord then .next s
    else match s.ctx.cq with
      | [] => if s.ctx.endedC then .next (trapSync s .execute .queue) else .next s
      | count :: rest =>
        let s := (landDue s).mod Context.tick
        .next (settle (startLoop (s.mod (fun c => { c with cq := rest })) .execute v count n.val)))

end Sys2Proof.Machine
end

