-- ==== Sys2Proof/Machine/MatrixMath.lean ====
section
/-! DEFINITION. The arrays' arithmetic (R26, R29, R40 to R43, R211): one output element over one pass, the known-answer operands
and the CRC-32C of a result. -/

namespace Sys2Proof.Machine

open Sys2Proof.Num (Val Fmt)

/-- An integer as an exact value. -/
def valOfInt (x : Int) : Val := .num (decide (x < 0)) x.natAbs 0

/-- acc := round_acc(acc + x), rne, subnormals kept. -/
def accumulate (f : Fmt) (acc : Nat) (x : Val) : Nat := (Num.round f .rne false (Val.add .rne (Num.unpack f acc) x)).1

/-- The products at one dense position: one for each stored element of A there, +0 where sparsity removed them all (R43, R201). -/
def productsAt (as : List Val) (b : Val) : List Val := if as = [] then [.num false 0 0] else as.map (fun a => Val.mul a b)

/-- Cut a list into runs of n; the last may be shorter. -/
def chunks {α : Type} (n : Nat) : Nat → List α → List (List α)
  | 0, _ => []
  | k + 1, l => if l.isEmpty then [] else l.take n :: chunks n k (l.drop n)

/-- The exact dot product of NBI values over a run of positions. -/
def dotOf (run : List (List Int × Int)) : Int := run.foldl (fun d p => d + (p.1.map (fun a => a * p.2)).sum) 0

/-- R40 over one pass: `l` is the block length, `scale` the product of the scales of block n of the pass. DESIGN CHOICE (unsafe; assumption 105):
a zero term's sign is the exclusive or of the dot product's and the scale's. -/
def nbiPass (f : Fmt) (l : Nat) (scale : Nat → Val) (run : List (List Int × Int)) (acc : Nat) : Nat :=
  let blocks := chunks l (run.length + 1) run
  ((List.range blocks.length).zip blocks).foldl (fun acc p =>
    let term := (Num.round Num.f32 .rne false (Val.mul (valOfInt (dotOf p.2)) (scale p.1))).1
    accumulate f acc (Num.unpack Num.f32 term)) acc

/-- R41 over one pass. -/
def nbiPassInt (run : List (List Int × Int)) (acc : Nat) : Nat := Num.wrapz ((acc : Int) + dotOf run) 32

/-- The sum of exact products, one rounding to f32 (R42). -/
def groupSum (ps : List Val) : Val :=
  match ps with
  | [] => .num false 0 0
  | p :: rest => Num.unpack Num.f32 (Num.round Num.f32 .rne false (rest.foldl (Val.add .rne) p)).1

/-- R42 over one pass. -/
def floatPass (f : Fmt) (run : List (List Val × Val)) (acc : Nat) : Nat :=
  (chunks 4 (run.length + 1) run).foldl (fun acc g => accumulate f acc (groupSum (g.flatMap (fun p => productsAt p.1 p.2)))) acc

/-! ## MKAT (R211) -/

/-- One advance of the generator. -/
def mkatNext (s : Nat) : Nat :=
  let s := (s ^^^ (s * 2 ^ 13)) % 2 ^ 32
  let s := s ^^^ (s / 2 ^ 17)
  (s ^^^ (s * 2 ^ 5)) % 2 ^ 32

/-- n elements from a state, with the state after them. -/
def mkatStates : Nat → Nat → List Nat × Nat
  | 0, s => ([], s)
  | n + 1, s => let t := mkatNext s; let r := mkatStates n t; (t :: r.1, r.2)

/-- The element that a state gives: an NBI value, or the bits of a bf16 or f16. -/
def mkatCode (planes s : Nat) : Int := Num.nbiValue (Num.codeOf (s % 256)) planes

def mkatFloat (t : ElemType) (s : Nat) : Nat :=
  let sign := bitsOf s 15 15 * 2 ^ 15
  if t = .bf16 then sign + (125 + bitsOf s 8 7) * 2 ^ 7 + bitsOf s 6 0 else sign + (13 + bitsOf s 11 10) * 2 ^ 10 + bitsOf s 9 0

/-- One byte of a CRC-32C, reflected. -/
def crcBits : Nat → Nat → Nat
  | 0, c => c
  | n + 1, c => crcBits n (if c % 2 = 1 then c / 2 ^^^ 0x82F63B78 else c / 2)

def crc32c (bs : List Byte) : Nat := (bs.foldl (fun c b => crcBits 8 (c ^^^ b.toNat)) (2 ^ 32 - 1)) ^^^ (2 ^ 32 - 1)

/-- The signature of a known-answer command: its type, planes, rows and K, from a seed. -/
def mkatSignature (t : ElemType) (planes rows k seed : Nat) : Nat :=
  let s0 := if seed % 2 ^ 32 = 0 then 1 else seed % 2 ^ 32
  let a := mkatStates (rows * k) s0
  let b := (mkatStates (rows * k) a.2).1
  let as := chunks k (rows + 1) a.1
  let bs := chunks k (rows + 1) b
  let cell (x y : List Nat) : Nat :=
    match t.fmt? with
    | some f => floatPass Num.f32 ((x.zip y).map (fun p => ([Num.unpack f (mkatFloat t p.1)], Num.unpack f (mkatFloat t p.2)))) 0
    | none => nbiPassInt ((x.zip y).map (fun p => ([mkatCode planes p.1], mkatCode planes p.2))) 0
  crc32c (as.flatMap (fun x => bs.flatMap (fun y => leBytes 4 (cell x y))))

end Sys2Proof.Machine
end

