-- ==== Sys2Proof/Machine/Matrix.lean ====
section
/-! DEFINITION. The matrix arrays (R187 to R215): the lease and tile instructions, MMA, MMA.SP and MKAT, the gauntlet's events, and the
passes and completions of commands. -/

namespace Sys2Proof.Machine

open Sys2Proof.Num (Val Fmt)

/-- The array a context uses: its cluster's, or its Gusset's at 32 + gid. -/
def arrayIndex (self : Nat) : Nat := if isGusset self then 32 + gidOf self else clusterOf self

/-- The core within its cluster, or the context within its Gusset. -/
def arraySlot (self : Nat) : Nat := self % 4

/-- Commands issued and not completed; the queue holds 8 (R188). -/
def queueDepth (c : Context) : Nat := c.ops.countP (fun o => o.kind.isMatrix)

/-- Issue a matrix instruction: ILLEGAL where NM = 1, and a wait while the queue is full (R60, R188). -/
def matrixC (s : State) (gs : List (Fin 32)) (len : Nat) (act : State → State) : Result :=
  if canIssue s .control && decide (8 ≤ queueDepth s.ctx) then .next s else issueC s gs [] len act

/-- NM = 1, or a flag at or above NFLAG (R60, R203, R208). -/
def noMatrix (s : State) : Bool := s.ctx.info.header.nm

def badFlag (s : State) (f : Fin 64) : Bool := decide (s.ctx.nflag ≤ f.val)

/-! ## Lease and tile instructions (R205 to R209) -/

/-- LEASE: it acts at issue, or directly behind an UNLEASE that still waits; in a Gusset it has no effect (R205). -/
def execLease (u : Fin 8) (s : State) : Result :=
  orTrap s .control (noMatrix s) .illegal (issueC s [] [] 4 (fun s =>
    if 128 ≤ s.self then s
    else if s.ctx.ops.any (fun o => o.kind == .unlease) then 
      s.mod (fun c => { c with ops := behindUnlease (plainOp s .lease (BitVec.ofNat 64 u.val)) c.ops, nextId := c.nextId + 1 })
    else leaseAct s u))

/-- UNLEASE: it acts behind every lease command issued before it (R206). -/
def execUnlease (s : State) : Result :=
  orTrap s .control (noMatrix s) .illegal (issueC s [] [] 4 (fun s =>
    if 128 ≤ s.self then s else settleLease (s.mod (addOp (plainOp s .unlease 0)))))

/-- MZERO (R207). -/
def execMzero (t : Fin 4) (s : State) : Result :=
  orTrap s .control (noMatrix s) .illegal (matrixC s [] 4 (fun s =>
    s.mod (addOp { plainOp s .mzero 0 with pages := [t.val] })))

/-- Bytes of a row that MOUT moves (R208). -/
def moutBytes (s : State) : Nat := s.rowBytes

/-- MOUT's memory form (R208). -/
def execMout (t : Fin 4) (a b : Fin 32) (f : Fin 64) (s : State) : Result :=
  let base := s.ctx.getG a
  let ctl := s.ctx.getG b
  let stride := ctl.toNat % 2 ^ 32
  orTrap s .control (noMatrix s || badFlag s f) .illegal (
    orTrapG s [a, b] (base.toNat % moutBytes s != 0 || stride % moutBytes s != 0) .align (
      orTrapG s [a, b] (bitsOf ctl.toNat 63 39 != 0 || heldRowsBad s (fun p => p.fmt != .raw) base.toNat stride (moutBytes s) (tileRegs s)) .shape (
        matrixC s [a, b] 4 (fun s => (s.mod Context.markEffect).mod (addOp { plainOp s .mout base with
          b := ctl, flag := f, pages := [t.val], cls := Fin.ofNat 16 (bitsOf ctl.toNat 35 32) })))))

/-- The stream bound to the result queue of the core in focus. -/
def resultStream (s : State) : Option Stream :=
  s.streams.find? (fun st => st.prod.kind == .resultQueue && st.prod.ctx == s.self)

/-- MOUT's result-queue form (R208). -/
def execMoutRq (t : Fin 4) (f : Fin 64) (s : State) : Result :=
  orTrap s .control (noMatrix s || badFlag s f || isGusset s.self) .illegal (
    orTrap s .control (resultStream s).isNone .stream (
      matrixC s [] 4 (fun s => (s.mod Context.markEffect).mod (addOp { plainOp s .moutRq 0 with flag := f, pages := [t.val] }))))

/-- The oldest lease command not completed. -/
def oldestLease (c : Context) : Option EngineOp := c.ops.find? (fun o => o.kind.isLease)

/-- A command held by a page fault (R198). -/
def EngineOp.held? (o : EngineOp) : Bool :=
  match o.stage with
  | .suspended .. | .offered .. => true
  | _ => false

/-- MSTAT's word (R209); TCLK is a value the model does not fix (assumption 3). -/
def mstatWord (s : State) : Nat :=
  let a := s.arrayAt (arrayIndex s.self)
  let core := decide (s.self < 128)
  let term := if core then ownTerm s else none
  let prog := ((oldestLease s.ctx).map EngineOp.progress).getD 0
  let tcmd := match term with
    | some t => (if t.implicit then 1 else 16) - t.started
    | none => 0
  let lst := match term with
    | some t => if t.implicit then 3 else 2
    | none => if core && (ownRequest s).isSome then 1 else 0
  prog % 256 * 2 ^ 48 + (if term.isSome then Config.termClocks s.draws % 8193 * 2 ^ 34 else 0) + tcmd * 2 ^ 29 +
    queueDepth s.ctx * 2 ^ 20 +
    (match a.term with
      | some t => t.core * 2 ^ 18 + 2 ^ 15
      | none => 0) +
    lst * 2 ^ 6 + (if (oldestLease s.ctx).any EngineOp.held? then 2 ^ 5 else 0) + (if a.failed then 2 ^ 4 else 0) +
    (if a.kmis.contains (arraySlot s.self) then 2 ^ 3 else 0)

def execMstat (d : Fin 32) (s : State) : Result :=
  orTrap s .control (noMatrix s) .illegal (issueC s [] [] 4 (fun s => s.drawn.mod (Context.setG d (BitVec.ofNat 64 (mstatWord s)))))

/-! ## MMA, MMA.SP and MKAT at issue (R202, R203, R210) -/

/-- Elements of a block under a BLK code; 0 is none. -/
def blkLen (code : Nat) : Nat := if code = 0 then 0 else 8 * 2 ^ code

/-- The fields of AUX (R202). -/
structure MmaAux where
  tile : Nat
  acc : Bool
  afmt : Bool
  cls : Nat
  bstr : Nat
  spm : Nat
  quarter : Bool
  bblk : Nat
  bpl : Nat
  btype : Nat
  deriving DecidableEq, Repr

def auxOf (x : Nat) : MmaAux where
  tile := bitsOf x 30 29
  acc := bitOf x 28
  afmt := bitOf x 27
  cls := bitsOf x 26 23
  bstr := bitsOf x 22 15
  spm := bitsOf x 14 13
  quarter := bitOf x 12
  bblk := bitsOf x 10 9
  bpl := bitsOf x 8 5
  btype := bitsOf x 4 0

/-- Dense elements for each stored one: 1, or 2 or 4 under sparsity (R201). -/
def densityOf (sparse : Bool) (x : MmaAux) : Nat := if sparse then (if x.quarter then 4 else 2) else 1

/-- Group length (R202). -/
def groupLen (x : MmaAux) : Nat := 4 * 2 ^ x.spm

/-- MSTR: bytes of a metadata row (R201). -/
def metaStride (k : Nat) (x : MmaAux) : Nat := (k / densityOf true x * (2 + x.spm) + 127) / 128 * 16

/-- The accumulator is s32 (R190). -/
def intAcc (wide16 : Bool) (x : MmaAux) : Bool := !wide16 && x.afmt

/-- The SHAPE checks of R203 that need no page. -/
def mmaShape (s : State) (sparse : Bool) (r : ShapeRec) : Bool :=
  let x := auxOf r.aux
  let q := r.etype == .q
  let k := r.cols
  let la := blkLen r.blk * densityOf sparse x
  decide (tileRegs s < r.rows) || !(q || r.etype == .bf16 || r.etype == .f16) || x.btype != r.typeCode ||
  (if q then decide (x.bpl < 2) || decide (8 < x.bpl) else x.bpl != 0 || x.bblk != 0) ||
  (intAcc s.ctx.w16 x && (!q || r.blk != 0 || x.bblk != 0)) ||
  (r.blk != 0 && k % la != 0) || (x.bblk != 0 && k % blkLen x.bblk != 0) ||
  (if sparse then x.spm == 3 || k % groupLen x != 0 else x.spm != 0 || x.quarter) || bitOf r.aux 11

/-- The page checks of R197 for A, B and the metadata. -/
def operandBreaks (t : ElemType) (blk swz : Nat) (stride : Nat) (a : PageAttr) : Bool :=
  !fmtMatches a.fmt t || (t == .q && (a.fmt != .q || a.blk != blk)) || a.swz != swz || (a.fmt != .raw && stride % 128 != 0)

def metaBreaks (swz : Nat) (a : PageAttr) : Bool := a.fmt != .raw || a.swz != swz

/-- A held page of A, B or the metadata breaks R197. -/
def mmaPages (s : State) (sparse : Bool) (va vb vc : Nat) (r : ShapeRec) : Bool :=
  let x := auxOf r.aux
  let e := r.etype.bytes
  let d := densityOf sparse x
  heldRowsBad s (operandBreaks r.etype r.blk r.swz r.stride) va r.stride (r.cols / d * e) r.rows ||
  heldRowsBad s (operandBreaks r.etype x.bblk r.swz 0) vb (128 * x.bstr) (r.cols * e) s.lanes ||
  (sparse && heldRowsBad s (metaBreaks r.swz) vc (metaStride r.cols x) (metaStride r.cols x) r.rows)

/-- Issue MMA or MMA.SP (R203). -/
def issueMma (s : State) (kind : OpKind) (a b : Fin 32) (c : Option (Fin 32)) (f : Fin 64) (r : ShapeRec) : Result :=
  let gs := a :: b :: (c.toList ++ recordRegs r)
  let sparse := c.isSome
  let va := s.ctx.getG a
  let vb := s.ctx.getG b
  let vc := (c.map s.ctx.getG).getD 0
  orTrap s .control (noMatrix s || badFlag s f) .illegal (
    match recordTrap s.ctx r (fun x => va.toNat % 128 != 0 || vb.toNat % 128 != 0 || vc.toNat % 16 != 0 || !strideAligned x)
        (fun x => mmaShape s sparse x || mmaPages s sparse va.toNat vb.toNat vc.toNat x) with
    | .error e => orTrapG s gs true e (.next s)
    | .ok x => matrixC s gs 20 (fun s => settleLease (s.mod (addOp { plainOp s kind va with
        b := vb, c := vc, flag := f, shape := x, cls := Fin.ofNat 16 (auxOf x.aux).cls }))))

def execMma (a b : Fin 32) (f : Fin 64) (r : ShapeRec) (s : State) : Result := issueMma s .mma a b none f r

def execMmaSp (a b c : Fin 32) (f : Fin 64) (r : ShapeRec) (s : State) : Result := issueMma s .mmaSp a b (some c) f r

/-- MKAT's record (R210). -/
def mkatShape (s : State) (r : ShapeRec) : Bool :=
  r.rows != tileRegs s || decide (1024 < r.cols) || r.w1 != 0 || r.swz != 0 || r.blk != 0 ||
  !(r.etype == .q || r.etype == .bf16 || r.etype == .f16)

def execMkat (a : Fin 32) (f : Fin 64) (r : ShapeRec) (s : State) : Result :=
  let gs := a :: recordRegs r
  orTrap s .control (noMatrix s || badFlag s f) .illegal (
    match recordTrap s.ctx r (fun x => !strideAligned x) (mkatShape s) with
    | .error e => orTrapG s gs true e (.next s)
    | .ok x => matrixC s gs 20 (fun s => settleLease (s.mod (addOp { plainOp s .mkat (s.ctx.getG a) with flag := f, shape := x }))))

/-! ## The gauntlet's events (R191 to R193, R199) -/

/-- The request with the least slack, ties to the first core after the last holder (R192). -/
def leastRequest (a : ArrayState) : Option LeaseReq :=
  let key (r : LeaseReq) : Nat := r.slack * 4 + (r.core + 3 - a.lastHolder) % 4
  a.reqs.foldl (fun b r => match b with
    | none => some r
    | some q => if key r < key q then some r else some q) none

def execGauntletGrant (cluster : Fin 32) (s : State) : Result :=
  let a := s.arrayAt cluster.val
  if a.term.isSome || a.testing || (allContexts s).any (fun p => decide (640 ≤ p.1) && decide (p.2.home / 4 = cluster.val) && p.2.ops.any startedLease) then .next s
  else match leastRequest a with
    | none => .next s
    | some r => .next (s.setArray { a with
        reqs := a.reqs.filter (fun x => x.core != r.core), term := some ⟨r.core, r.implicit, 0, r.level⟩ })

/-- A request has waited four clocks; one of no urgency has waited 1,024 (R191). -/
def execLeaseSlackDecrement (core : Fin 128) (s : State) : Result :=
  let a := s.arrayAt (core.val / 4)
  match a.reqs.find? (fun r => r.core == core.val % 4) with
  | none => .next s
  | some r =>
    let k := r.slack - 1
    let late := k == 0 && !r.lateCounted
    let s' := s.setArray { a with reqs := a.reqs.map (fun x => if x.core = r.core then { x with slack := k, lateCounted := x.lateCounted || k == 0 } else x) }
    if late then .next (s'.withCtx core.val (fun s => countLate s r.level.val 0)) else .next s'

/-- The term's 8,192nd clock ends (R193, R199). -/
def execTermClockExpiry (cluster : Fin 32) (s : State) : Result :=
  let a := s.arrayAt cluster.val
  match a.term with
  | some t => if a.testing then .next s else .next (s.withCtx (4 * cluster.val + t.core) endTerm)
  | none => .next s

/-- The holder has had no lease command for 256 clocks while another request waits (R193). -/
def execTermIdleExpiry (cluster : Fin 32) (s : State) : Result :=
  let a := s.arrayAt cluster.val
  match a.term with
  | some t =>
    let n := 4 * cluster.val + t.core
    if a.testing || (s.ctxAt n).ops.any (fun o => o.kind.isLease) || !a.reqs.any (fun r => r.core != t.core) then .next s
    else .next (s.withCtx n endTerm)
  | none => .next s

/-! ## When a command starts (R188, R189, R193, R213) -/

/-- The execute slice has issued everything that precedes a command (R189, R440). -/
def executePassed (s : State) (o : EngineOp) : Bool :=
  let c := s.ctx
  !o.held && (c.endedX || precedesHere c o ||
    (c.stretchX == o.order.stretch && (codeWord s c.pcx.toNat).any (fun w => isBothMajor (w / 2 ^ 25))))

/-- The tile is ready for the command. -/
def tileReady (s : State) (o : EngineOp) : Bool :=
  match o.tile with
  | some _ => executePassed s o && !latchInTile (tileRegs s) s.ctx o
  | none => true

/-- Every earlier command has started, and every earlier one on the same tile has completed (R188). -/
def startOrder (s : State) (o : EngineOp) : Bool :=
  (s.ctx.ops.takeWhile (fun x => x.id != o.id)).all (fun x => !x.kind.isMatrix ||
    ((x.stage != .queued || x.progress != 0) && !(o.tile.isSome && x.tile == o.tile)))

/-- The fork edge of a command that reads or writes memory (R204, R356). -/
def edgeDone (s : State) (o : EngineOp) : Bool := o.kind == .mkat || o.kind == .mzero || o.kind == .moutRq || forked s o

/-- The lease command at the head of the order in focus may start, its turn at the array apart. -/
def leaseReady (s : State) : Option EngineOp :=
  match leaseHead s.ctx with
  | some o => if o.kind.isLease && o.stage == .queued && queueServed s && startOrder s o && tileReady s o && edgeDone s o then some o else none
  | none => none

/-- A Gusset's array takes the oldest waiting head of its four contexts, and one command at a time (R213). -/
def gussetTurn (s : State) (o : EngineOp) : Bool :=
  (List.range 4).all (fun x =>
    let n := 128 + 4 * gidOf s.self + x
    n == s.self || (!(s.ctxAt n).ops.any startedLease &&
      match leaseReady (s.focus n) with
      | some q => decide (o.seq ≤ q.seq)
      | none => true))

/-- The level under which a command that starts now reads: its term's (R194, R205, R287). -/
def readLevel (s : State) : Nat := if s.self < 128 then ((ownTerm s).map (fun t => t.level.val)).getD 0 else 0

/-- A lease command that outlived its unit still runs at an array, apart from the context in focus: the array performs one at a time (R187, R215). -/
def arrayBusy (s : State) (array : Nat) : Bool :=
  (allContexts s).any (fun p => decide (640 ≤ p.1) && p.1 != s.self && arrayIndex p.2.home == array && p.2.ops.any startedLease)

/-- The lease command that runs or can start, started (R188, R193, R214). A command that goes on after its unit has left runs at its home (R215). -/
def startLease (s : State) : Option (State × EngineOp) :=
  let a := s.arrayAt (arrayIndex (homeOf s))
  if a.testing then none
  else match s.ctx.ops.find? startedLease with
    | some o => some (s, o)
    | none => match leaseReady s with
      | none => none
      | some o =>
        let o' := { o with stage := .started, level := readLevel s }
        if decide (640 ≤ s.self) || arrayBusy s (arrayIndex s.self) then none
        else if isGusset s.self then (if gussetTurn s o then some (s.mod (putOp o'), o') else none)
        else match ownTerm s with
          | some t =>
            if t.started < (if t.implicit then 1 else 16) then
              some ((s.setArray { a with term := some { t with started := t.started + 1 } }).mod (putOp o'), o')
            else none
          | none => none

/-! ## A pass (R196 to R204) -/

def opLaneBits (o : EngineOp) : Nat := if o.wide16 then 16 else 32

/-- Columns of a tile. -/
def opCols (s : State) (o : EngineOp) : Nat := s.rowBits / opLaneBits o

/-- The accumulator's format; none is s32. -/
def accFmt (o : EngineOp) : Option Fmt :=
  let x := auxOf o.shape.aux
  if o.wide16 then some (if x.afmt then Num.f16 else Num.bf16) else if x.afmt then none else some Num.f32

def passFrom (o : EngineOp) : Nat := 1024 * o.progress
def passTo (o : EngineOp) : Nat := min o.shape.cols (1024 * o.progress + 1024)
def passes (o : EngineOp) : Nat := (o.shape.cols + 1023) / 1024

/-- What a pass reads: for each operand row, its first address, element size and count. -/
structure PassRow where
  va : Nat
  size : Nat
  count : Nat
  deriving DecidableEq, Repr

def aRow (o : EngineOp) (i : Nat) : PassRow :=
  let d := densityOf (o.kind == .mmaSp) (auxOf o.shape.aux)
  let e := o.shape.etype.bytes
  ⟨o.a.toNat + i * o.shape.stride + passFrom o / d * e, e, passTo o / d - passFrom o / d⟩

def bRow (o : EngineOp) (j : Nat) : PassRow :=
  let e := o.shape.etype.bytes
  ⟨o.b.toNat + j * 128 * (auxOf o.shape.aux).bstr + passFrom o * e, e, passTo o - passFrom o⟩

/-- Bits of a metadata field, and the first stored element of a pass. -/
def fieldBits (o : EngineOp) : Nat := 2 + (auxOf o.shape.aux).spm

def metaRow (o : EngineOp) (i : Nat) : PassRow :=
  let x := auxOf o.shape.aux
  let lo := passFrom o / densityOf true x * fieldBits o / 8
  let hi := (passTo o / densityOf true x * fieldBits o + 7) / 8
  ⟨o.c.toNat + i * metaStride o.shape.cols x + lo, 1, hi - lo⟩

def PassRow.addresses (r : PassRow) : List Nat := (List.range r.count).map (fun k => (r.va + k * r.size) % 2 ^ 64)

/-- Rows of A with their metadata, then rows of B, in the order they are read. -/
def passRows (s : State) (o : EngineOp) : List PassRow :=
  (List.range o.shape.rows).flatMap (fun i => if o.kind = .mmaSp then [aRow o i, metaRow o i] else [aRow o i]) ++
  (List.range (opCols s o)).map (bRow o)

def shapeIf (p : PageAttr → Bool) (a : PageAttr) : Option Cause := if p a then some .shape else none

/-- The rows that one load pipe reads through one page check, at so many planes (R187, R197). -/
structure PassSpan where
  pipe : Bool
  chk : PageAttr → Option Cause
  planes : Nat
  rows : List PassRow

/-- What a pass reads: A, its metadata, and B. -/
def passSpans (s : State) (o : EngineOp) : List PassSpan :=
  let x := auxOf o.shape.aux
  let r := o.shape
  [⟨false, shapeIf (operandBreaks r.etype r.blk r.swz r.stride), r.planes, (List.range r.rows).map (aRow o)⟩,
   ⟨false, shapeIf (metaBreaks r.swz), 8, if o.kind = .mmaSp then (List.range r.rows).map (metaRow o) else []⟩,
   ⟨true, shapeIf (operandBreaks r.etype x.bblk r.swz 0), x.bpl, (List.range (opCols s o)).map (bRow o)⟩]

def PassRow.pieces (r : PassRow) : List (Nat × Nat) := r.addresses.map (fun va => (va, r.size))

/-- The slack of a load pipe's requests (R287). -/
def pipeSlack (o : EngineOp) : Nat := bitsOf o.slackTab (16 * o.level + 11) (16 * o.level)

/-- Ask for the lines of a span that have not been asked for: a page's fault, or the state with what the ports had room for. -/
def seekLines (o : EngineOp) (p : PassSpan) : List (Nat × BitVec 4) → State → Except (Cause × Nat) State
  | [], s => .ok s
  | (va, m) :: rest, s =>
    if ((opNow s o).readAt (some p.pipe) va).isSome then seekLines o p rest s
    else match seekLine s (opNow s o) (some p.pipe) .read p.chk (pipeSlack o) p.planes va m with
      | .error f => .error f
      | .ok s' => seekLines o p rest s'

/-- Rows of elements as their pipe has read them, each with its page. -/
def readRows (o : EngineOp) (p : PassSpan) : List PassRow → Except (Cause × Nat) (Option (List (List (PageAttr × Nat))))
  | [] => .ok (some [])
  | r :: rs => match readAll o (some p.pipe) none p.planes r.pieces with
    | .error f => .error f
    | .ok none => .ok none
    | .ok (some l) => match readRows o p rs with
      | .ok (some ls) => .ok (some (l.map (fun x => (x.1, leNat x.2)) :: ls))
      | r => r

/-- The NBI values of a row, read at k planes or at those the page stores where it has fewer (R26, R27). -/
def nbiRow (k : Nat) (row : List (PageAttr × Nat)) : List Int := row.map (fun p => Num.nbiValue (Num.codeOf p.2) (min k p.1.spl))

/-- The stored elements of a row at each dense position of the pass (R201). -/
def spread {α : Type} (o : EngineOp) (stored : List α) (fields : List Nat) : List (List α) :=
  if o.kind != .mmaSp then stored.map (fun x => [x])
  else
    let x := auxOf o.shape.aux
    let mg := groupLen x
    let n := mg / densityOf true x
    let bits := fieldBits o
    let shift := passFrom o / densityOf true x * bits % 8
    let m := leNat (fields.map (BitVec.ofNat 8))
    let idx (e : Nat) : Nat := bitsOf m (shift + e * bits + bits - 1) (shift + e * bits)
    let groups := chunks n (stored.length + 1) ((List.range stored.length).zip stored)
    groups.flatMap (fun g => (List.range mg).map (fun i => (g.filter (fun p => idx p.1 == i)).map Prod.snd))

/-- The address of the element whose scale covers block n of the pass for a row (R40, R201, R238). -/
def scaleAddress (r : PassRow) (code dens l n : Nat) : Nat :=
  let len := blkLen code
  (r.va + n * l / (len * dens) * len * r.size) % 2 ^ 64

/-- The physical address of the slot that holds the scale of an element (R238). -/
def slotAddress (a : PageAttr) (va : Nat) : Nat := a.scale + 4 * (va % 2 ^ a.sizeLog / (8 * 2 ^ a.blk))

/-- Physical memory as a page, in which the lines of scales are read. -/
def physicalPage : PageAttr := { apertureAttr 0 with vbase := 0, sizeLog := 48 }

/-- Where a scale slot lies; BUS where there is no memory (R218). -/
def slotPlace (s : State) (pa : Nat) : Except Cause Place :=
  match regionOf s pa with
  | .dram => .ok (.dram pa)
  | .peer => if s.link.up then .ok (.peer pa) else .error .bus
  | _ => .error .bus

/-- A block's scale that a pass reads: the pipe, the block length code and the address of the element. -/
structure ScaleRead where
  pipe : Bool
  code : Nat
  va : Nat
  deriving DecidableEq, Repr

/-- The slot of a scale, once its element's line has been asked for. -/
def ScaleRead.slot (o : EngineOp) (x : ScaleRead) : Option Nat := (o.readAt (some x.pipe) x.va).map (fun r => slotAddress r.attr x.va)

/-- The line of a slot, as it has been asked for. -/
def slotRead (o : EngineOp) (pipe : Bool) (pa : Nat) : Option LineRead := o.reads.find? (fun r => r.key == keyBase (some pipe) true + pa / 128)

/-- Ask for the lines of scales that have not been asked for (R238). -/
def seekScales (o : EngineOp) : List ScaleRead → State → Except (Cause × Nat) State
  | [], s => .ok s
  | x :: rest, s => match x.slot (opNow s o) with
    | none => seekScales o rest s
    | some pa =>
      if x.code = 0 ∨ (slotRead (opNow s o) x.pipe pa).isSome then seekScales o rest s
      else match slotPlace s pa with
        | .error c => .error (c, x.va)
        | .ok p => seekScales o rest ((askLine s (opNow s o) {
            key := keyBase (some x.pipe) true + pa / 128, va := x.va, attr := physicalPage, place := p, mask := sectorsIn (pa % 128) 4 0
            src := readerEndpoint s (some x.pipe), stage := .sent, cause := none, poison := [], slack := pipeSlack o, late := false }).getD s)

/-- A scale as its pipe has read it: 1.0 with no blocks (R29, R238). -/
def readScale (o : EngineOp) (x : ScaleRead) : Except (Cause × Nat) (Option Val) :=
  if x.code = 0 then .ok (some (.num false 1 0))
  else match x.slot o with
    | none => .ok none
    | some pa => match slotRead o x.pipe pa with
      | none => .ok none
      | some r =>
        if r.stage != .returned then .ok none
        else if r.cause.isSome then .error (.bus, x.va)
        else if wordsReach r.poison pa 4 then .error (.ecc, x.va)
        else .ok (some (Num.scaleValue (readLE o.got pa 4 % 2 ^ 24)))

def readScales (o : EngineOp) : List ScaleRead → Except (Cause × Nat) (Option (List Val))
  | [] => .ok (some [])
  | x :: xs => match readScale o x with
    | .error f => .error f
    | .ok none => .ok none
    | .ok (some v) => match readScales o xs with
      | .ok (some l) => .ok (some (v :: l))
      | r => r

/-- The dense block length of a pass's arithmetic: 1,024 for none (R40, R203). -/
def denseBlock (o : EngineOp) : Nat :=
  let x := auxOf o.shape.aux
  let len (code d : Nat) : Nat := if code = 0 then 1024 else blkLen code * d
  min (len o.shape.blk (densityOf (o.kind == .mmaSp) x)) (len x.bblk 1)

/-- Blocks of a pass's arithmetic. -/
def passBlocks (o : EngineOp) : Nat := (passTo o - passFrom o + denseBlock o - 1) / denseBlock o

/-- The scales of the blocks of a row of A or B. -/
def aScales (o : EngineOp) (i : Nat) : List ScaleRead :=
  (List.range (passBlocks o)).map (fun n =>
    ⟨false, o.shape.blk, scaleAddress (aRow o i) o.shape.blk (densityOf (o.kind == .mmaSp) (auxOf o.shape.aux)) (denseBlock o) n⟩)

def bScales (o : EngineOp) (j : Nat) : List ScaleRead :=
  (List.range (passBlocks o)).map (fun n => ⟨true, (auxOf o.shape.aux).bblk, scaleAddress (bRow o j) (auxOf o.shape.aux).bblk 1 (denseBlock o) n⟩)

/-- Scales are applied: NBI operands and a float accumulator (R40, R41). -/
def scaled (o : EngineOp) : Bool := o.shape.etype == .q && (accFmt o).isSome

/-- The scales that a pass reads, row by row. -/
def scaleReads (s : State) (o : EngineOp) : List (List ScaleRead) :=
  if scaled o then (List.range o.shape.rows).map (aScales o) ++ (List.range (opCols s o)).map (bScales o) else []

/-- What a pass has read: the rows of A, of the metadata and of B, and the scales of each row of A and of B. -/
structure PassData where
  as : List (List (PageAttr × Nat))
  ms : List (List (PageAttr × Nat))
  bs : List (List (PageAttr × Nat))
  scales : List (List Val)

def readScaleRows (o : EngineOp) : List (List ScaleRead) → Except (Cause × Nat) (Option (List (List Val)))
  | [] => .ok (some [])
  | x :: xs => match readScales o x with
    | .error f => .error f
    | .ok none => .ok none
    | .ok (some v) => match readScaleRows o xs with
      | .ok (some l) => .ok (some (v :: l))
      | r => r

def readSpans (o : EngineOp) : List PassSpan → Except (Cause × Nat) (Option (List (List (List (PageAttr × Nat)))))
  | [] => .ok (some [])
  | p :: ps => match readRows o p p.rows with
    | .error f => .error f
    | .ok none => .ok none
    | .ok (some l) => match readSpans o ps with
      | .ok (some ls) => .ok (some (l :: ls))
      | r => r

/-- Everything a pass reads, its first fault, or none while something has not come. -/
def readPass (s : State) (o : EngineOp) : Except (Cause × Nat) (Option PassData) :=
  match readSpans o (passSpans s o) with
  | .error f => .error f
  | .ok none => .ok none
  | .ok (some l) => match readScaleRows o (scaleReads s o) with
    | .error f => .error f
    | .ok none => .ok none
    | .ok (some v) => .ok (some ⟨l.getD 0 [], l.getD 1 [], l.getD 2 [], v⟩)

/-- Ask for everything a pass reads: the first fault of a page, with the pipe that met it, or the state with what the ports had room for. -/
def seekSpans (o : EngineOp) : List PassSpan → State → Except (Cause × Nat × Bool) State
  | [], s => .ok s
  | p :: ps, s => match seekLines o p (linesOf (p.rows.flatMap PassRow.pieces)) s with
    | .error (c, va) => .error (c, va, p.pipe)
    | .ok s' => seekSpans o ps s'

def seekPass (s : State) (o : EngineOp) : Except (Cause × Nat × Bool) State :=
  match seekSpans o (passSpans s o) s with
  | .error f => .error f
  | .ok s' => match seekScales o (scaleReads s o).flatten s' with
    | .error (c, va) => .error (c, va, false)
    | .ok s' => .ok s'

/-- The output rows of a float command over a pass, each entering with its accumulators. -/
def floatCells (o : EngineOp) (f : Fmt) (as ms bs enter : List (List Nat)) : List (List Nat) :=
  let rows := (as.zip ms).map (fun p => spread o (p.1.map (Num.unpack f)) p.2)
  let cols := bs.map (fun b => b.map (Num.unpack f))
  (rows.zip enter).map (fun p => (cols.zip p.2).map (fun q => floatPass ((accFmt o).getD Num.f32) (p.1.zip q.1) q.2))

/-- The output rows of an NBI command over a pass. -/
def nbiCells (o : EngineOp) (d : PassData) (enter : List (List Nat)) : List (List Nat) :=
  let one : List Val := (List.range (passBlocks o)).map (fun _ => .num false 1 0)
  let scalesOf (i : Nat) : List Val := d.scales.getD i one
  let ms := if o.kind = .mmaSp then d.ms else d.as.map (fun _ => [])
  let rows := ((List.range d.as.length).zip (d.as.zip ms)).map (fun p =>
    (spread o (nbiRow o.shape.planes p.2.1) (p.2.2.map Prod.snd), scalesOf p.1))
  let cols := ((List.range d.bs.length).zip d.bs).map (fun p => (nbiRow (auxOf o.shape.aux).bpl p.2, scalesOf (d.as.length + p.1)))
  (rows.zip enter).map (fun p => (cols.zip p.2).map (fun q =>
    let run := p.1.1.zip q.1.1
    match accFmt o with
    | none => nbiPassInt run q.2
    | some f => nbiPass f (denseBlock o) (fun n => Val.mul (p.1.2.getD n (.num false 1 0)) (q.1.2.getD n (.num false 1 0))) run q.2))

/-- A row of a tile as its lanes. -/
def tileRow (s : State) (o : EngineOp) (t i : Nat) : List Nat :=
  let r := (s.ctx.m.toList.getD (t * tileRegs s + i) 0).toNat
  (List.range (opCols s o)).map (laneOf r (opLaneBits o))

/-- Replace a register of the main file. -/
def putMain (n : Nat) (v : Row) (c : Context) : Context := { c with m := c.m.setIfInBounds n v }

/-- The rows of a tile after a pass, with what its operands read as (R204). -/
def passResult (s : State) (o : EngineOp) (d : PassData) : List (List Nat) :=
  let x := auxOf o.shape.aux
  let enter := (List.range o.shape.rows).map (fun i =>
    (tileRow s o x.tile i).map (fun v => if x.acc || o.progress != 0 then v else 0))
  let codes (l : List (List (PageAttr × Nat))) : List (List Nat) := l.map (fun r => r.map Prod.snd)
  match o.shape.etype.fmt? with
  | some f => floatCells o f (codes d.as) (if o.kind = .mmaSp then codes d.ms else d.as.map (fun _ => [])) (codes d.bs) enter
  | none => nbiCells o d enter

/-- Write the rows of a tile. -/
def writeTile (o : EngineOp) (s : State) (rows : List (List Nat)) : State :=
  let t := (auxOf o.shape.aux).tile
  ((List.range rows.length).zip rows).foldl (fun s p =>
    s.mod (putMain (t * tileRegs s + p.1) (BitVec.ofNat 1024 (packLanes (opLaneBits o) p.2)))) s

/-- A pass meets a fault: what it read is given up, and the command is suspended or fails (R198). -/
def passFault (s : State) (o : EngineOp) (c : Cause) (va : Nat) (pipe : Bool) : State :=
  let s' := engineFault s o.forget c (readerEndpoint s (some pipe)) false o.progress va
  afterLease s' (s'.ctx.ops.any (fun x => x.id == o.id))

/-- A pass has ended: a command that was stopped during it fails now (R370). -/
def passDone (s : State) (o : EngineOp) : State :=
  match o.stage with
  | .failing st code => afterLease (failUnnamed s o st code o.progress) false
  | _ => s.mod (putOp o)

/-- A turn of the running or next lease command of the context in focus: its load pipes ask for what its pass still needs, and once all of it has
come the pass ends and its tile rows are written; a fault suspends or fails the command (R197, R198, R204). -/
def execMatrixPassEnd (s : State) : Result :=
  match startLease s with
  | none => .next s
  | some (s, o) =>
    if o.kind = .mkat ∨ passes o ≤ o.progress ∨ (s.arrayAt (arrayIndex (homeOf s))).failed then .next s
    else match seekPass s o with
      | .error (c, va, pipe) => .next (passFault s o c va pipe)
      | .ok s =>
        let o := opNow s o
        match readPass s o with
        | .error (c, va) => .next (passFault s o c va false)
        | .ok none => .next s
        | .ok (some d) => .next (passDone (writeTile o s (passResult s o d)) { o.forget with progress := o.progress + 1 })

/-! ## Completion (R204, R212, R214) -/

/-- MKAT's compare (R212). -/
def finishMkat (s : State) (o : EngineOp) : State :=
  let r := o.shape
  let sig := mkatSignature r.etype r.planes r.rows r.cols o.a.toNat
  let a := s.arrayAt (arrayIndex (homeOf s))
  let n := arraySlot (homeOf s)
  if sig % 2 ^ 31 = r.w3.toNat % 2 ^ 31 then
    completeOp (s.setArray { a with kmis := a.kmis.filter (· != n) }) o
  else
    let s := s.setArray { a with kmis := upsert id n a.kmis }
    let s := completeOp (writeRecord s 1 21 o.flag.val Cause.silent.code sig o.iaddr.toNat) o
    let s := if s.ctx.region.isOpen then s.mod (fun c => { c with ready := { c.ready with silent := some o.iaddr } }) else s
    startTest s (arrayResource (homeOf s))

/-- The lease command of the context in focus completes; on a failed array it fails (R204, R212, R214). -/
def execMatrixCommandComplete (s : State) : Result :=
  if (s.arrayAt (arrayIndex (homeOf s))).failed then
    match leaseHead s.ctx with
    | some o => if o.kind.isLease then .next (sweep (afterLease (failUnnamed s o 1 Cause.arrayFailed.code o.progress) false)) else .next s
    | none => .next s
  else match startLease s with
    | none => .next s
    | some (s, o) =>
      if o.kind = .mkat then .next (sweep (match o.stage with
        | .failing st code => afterLease (failUnnamed s o st code o.progress) false
        | _ => afterLease (finishMkat s o) false))
      else if passes o ≤ o.progress then .next (afterLease (completeOp s o) false)
      else .next s

/-- The oldest MZERO, or MOUT, that may act (R188, R189). -/
def sideReady (s : State) (p : OpKind → Bool) : Option EngineOp :=
  s.ctx.ops.find? (fun o => p o.kind && (o.stage == .queued || o.stage == .started) && queueServed s && startOrder s o && tileReady s o && edgeDone s o)

/-- MZERO completes (R207). -/
def execMzeroComplete (s : State) : Result :=
  match sideReady s (· == .mzero) with
  | none => .next s
  | some o =>
    let t := o.pages.headD 0
    .next (settleLease (completeOp ((List.range (tileRegs s)).foldl (fun s i => s.mod (putMain (t * tileRegs s + i) 0)) s) o))

/-- Rows of a tile as bytes. -/
def moutRows (s : State) (t : Nat) : List Byte :=
  (List.range (tileRegs s)).flatMap (fun i => leBytes (moutBytes s) (s.ctx.m.toList.getD (t * tileRegs s + i) 0).toNat)

/-- Bytes of a row at the home of an operation. -/
def moutRow (s : State) : Nat := if isGusset (homeOf s) then 64 else 128

/-- A turn of the memory form: the tile is read whole at its first, and row by row goes to memory; a write that faults fails the command (R208). -/
def moutMemory (s : State) (o : EngineOp) : State :=
  let o : EngineOp := { o with stage := if o.stage = .queued then .started else o.stage, task := if o.task = [] then moutRows s (o.pages.headD 0) else o.task }
  let n := moutRow s
  let stop (c : Cause) (va : Nat) : State := match o.stage with
    | .failing st code => failUnnamed s o st code o.progress
    | _ => engineFail s { o with write := none } c o.progress va
  match o.write with
  | none =>
    let s := s.mod (putOp o)
    let va := (o.a.toNat + o.progress / n * (o.b.toNat % 2 ^ 32)) % 2 ^ 64
    (match putLine s o (shapeIf (fun a => a.fmt != .raw)) (bitsOf o.slackTab (16 * o.lateLevel + 11) (16 * o.lateLevel)) va
        ((o.task.drop o.progress).take n) with
      | .error (c, va) => stop c va
      | .ok s' => s')
  | some w =>
    if w.stage != .returned then s
    else match w.cause with
      | some c => stop c w.va
      | none =>
        let o := { o with write := none, progress := o.progress + n }
        if o.task.length ≤ o.progress then completeOp s o else match o.stage with
          | .failing st code => failUnnamed s o st code o.progress
          | _ => s.mod (putOp o)

/-- The two flits of each row (R208). -/
def moutFlits (s : State) (t : Nat) : List (BitVec 512) :=
  (List.range 32).flatMap (fun i =>
    let r := (s.ctx.m.toList.getD (t * 32 + i) 0).toNat
    [BitVec.ofNat 512 r, BitVec.ofNat 512 (r / 2 ^ 512)])

/-- The stream of a MOUT's result queue; once it has begun, only the one it began on, whose handle it keeps (R208, R314). -/
def moutStream (s : State) (o : EngineOp) : Option Stream :=
  (resultStream s).filter (fun st => o.stage != .started || o.c.toNat == st.gen * 2 ^ 8 + st.entry)

/-- The result-queue form moves flits while the queue has room; a queue whose stream was torn down fails it (R208, R314). -/
def moutQueue (s : State) (o : EngineOp) : State :=
  match moutStream s o with
  | none => failUnnamed s o 1 Cause.stream.code o.progress
  | some st =>
    let room := 4 - (st.reserved.length + st.outgoing.length)
    let go := ((moutFlits s (o.pages.headD 0)).drop (o.progress / 64)).take room
    let s := { s with streams := s.streams.map (fun x => if x.entry = st.entry then { x with outgoing := x.outgoing ++ go } else x) }
    if 64 ≤ o.progress / 64 + go.length then completeOp s o
    else s.mod (putOp { o with stage := .started, c := BitVec.ofNat 64 (st.gen * 2 ^ 8 + st.entry), progress := o.progress + 64 * go.length })

/-- A MOUT that has read its tile goes on, otherwise the oldest that may start (R188, R208). -/
def moutReady (s : State) : Option EngineOp :=
  match s.ctx.ops.find? (fun o => o.kind == .mout && o.task != [] && (o.stage == .started || o.isFailing)) with
  | some o => some o
  | none => sideReady s (fun k => k == .mout || k == .moutRq)

/-- MOUT's next row is written or accepted (R208). -/
def execMoutComplete (s : State) : Result :=
  match moutReady s with
  | none => .next s
  | some o => .next (sweep (settleLease (if o.kind = .mout then moutMemory s o else moutQueue s o)))

end Sys2Proof.Machine
end

