-- ==== Sys2Proof/Machine/Resources.lean ====
section
/-! DEFINITION. How a targeted self-test ends (R214, R228, R407 to R409). -/

namespace Sys2Proof.Machine

/-- ERRSTAT after one more test passed (R415). -/
def countTransient (e : Word) : Word :=
  let t := bitsOf e.toNat 31 16
  BitVec.ofNat 64 (e.toNat - t * 2 ^ 16 + Nat.min 65535 (t + 1) * 2 ^ 16)

/-- A test passed: it counts for the core or Gusset of a context (R408). -/
def notePassed (s : State) (n : Nat) : State :=
  if n < 128 then s.setCore { s.coreState n with errstat := countTransient (s.coreState n).errstat }
  else if isGusset n then s.setGusset { s.gussetState (gidOf n) with errstat := countTransient (s.gussetState (gidOf n)).errstat }
  else s

/-- Every lease command of the context in focus fails on a failed array (R214). -/
def failLeases (s : State) : State :=
  afterLease ((s.ctx.ops.filter (fun o => o.kind.isLease)).foldl (fun s o => failUnnamed s o 1 Cause.arrayFailed.code o.progress) s) false

/-- A line in a way that is mapped out leaves it: a pinned one moves to the least recently used unpinned way of its set, whose line is
written back first, any other is written back (R228). -/
def leaveWay (n : Nat) (s : State) (x : SliceLine) : State :=
  if x.pin.isNone then evictLine s n x
  else match wayFor s n x.line with
    | some (s, w) =>
      let k := s.sliceState n
      s.setSlice { k with lines := k.lines.map (fun y => if y.line = x.line then { y with way := w } else y) }
    | none => s

/-- A lasting fault takes the resource out of service (R214, R228, R407). -/
def takeOut (s : State) (r : Resource) : State :=
  match r with
  | .array c =>
    let s := s.setArray { s.arrayAt c.val with failed := true }
    (List.range 4).foldl (fun s i => s.withCtx (4 * c.val + i) failLeases) s
  | .stashBank c _ =>
    let k := s.coreState c.val
    if k.spareUsed then s.setCore { k with withdrawn := true }
    else s.setCore { k with spareUsed := true, errstat := k.errstat ||| BitVec.ofNat 64 (2 ^ 32) }
  | .coreStore c => s.setCore { s.coreState c.val with withdrawn := true }
  | .sliceWay n w =>
    let k := s.sliceState n.val
    let s := s.setSlice { k with waysOut := upsert id w.val k.waysOut }
    (k.lines.filter (fun x => x.way == w.val)).foldl (leaveWay n.val) s
  | .gusset g => s.setGusset { s.gussetState g.val with withdrawn := true }

/-- A SELFTEST.ARRAY that waits for this test has its result (R413). -/
def tellSelftest (r : Resource) (lasting : Bool) (n : Nat) (c : Context) : Context :=
  if c.selftest = some none ∧ n < 640 ∧ arrayResource n = r then { c with selftest := some (some lasting) } else c

/-- Two resources of one core, each of which keeps it from issuing while it is under test (R407). -/
def sameCore (r q : Resource) : Bool :=
  match r, q with
  | .stashBank c _, .stashBank d _ | .stashBank c _, .coreStore d | .coreStore c, .stashBank d _ | .coreStore c, .coreStore d => c == d
  | _, _ => false

/-- A targeted self-test ends: the resource returns to service, or is taken out of it (R407, R408). A core that another test keeps quarantined
stays so. -/
def execSelftestComplete (res : Resource) (lasting : Bool) (s : State) : Result :=
  match s.testing.find? (fun p => p.1 == res) with
  | none => .next s
  | some p =>
    let rest := s.testing.filter (fun q => q.1 != res)
    let s := { (if rest.any (fun q => sameCore res q.1) then s else setQuarantine s res false) with testing := rest }
    let s := if lasting then takeOut s res else notePassed s p.2
    .next { s with ctx := tellSelftest res lasting s.self s.ctx, others := s.others.map (fun q => (q.1, tellSelftest res lasting q.1 q.2)) }

end Sys2Proof.Machine
end

