-- ==== Sys2Proof/Machine/System.lean ====
section
/-! DEFINITION. The system group (R410 to R415): TRAP, ERET, the system registers, TIME, TLBINV, mitten regions and
SELFTEST.ARRAY, and the events that are a SYS.WR's own write (R38, R102, R148, R288, R412). -/

namespace Sys2Proof.Machine

/-! ## SYS.RD and SYS.WR (R38, R412) -/

/-- The matrix commands that write a tile, which a write of TSHAPE waits for (R102). -/
def writesTile (k : OpKind) : Bool :=
  match k with
  | .mma | .mmaSp | .mzero => true
  | _ => false

/-- An ordered access has its place: the execute slice stands at its execute point. -/
def sysPlace (s : State) (r : Nat) : Bool := !sysOrdered r || atExecutePoint s

/-- Nothing is in flight that an ordered access waits for. -/
def sysQuiet (s : State) (r : Nat) (write : Bool) : Bool :=
  !sysOrdered r || (s.ctx.latches == [] && !(write && r == 1 && s.ctx.ops.any (fun o => writesTile o.kind)))

/-- Issue an access of a system register. While results are in flight the execute slice is held and they land (assumption 6). -/
def sysC (s : State) (gs : List (Fin 32)) (r : Nat) (write : Bool) (act : State → State) : Result :=
  if stalledC s gs [] || !sysPlace s r then .next s
  else if !sysQuiet s r write then .next (s.mod (fun c => { c with xdrain := true }))
  else issueC s gs [] 4 (fun s => (act s).mod (fun c => { c with xdrain := false }))

def execSysRd (d : Fin 32) (r : Fin 64) (s : State) : Result :=
  orTrap s .control (sysValue s r.val).isNone .illegal
    (sysC s [] r.val false (fun s => s.mod (Context.setG d ((sysValue s r.val).getD 0))))

def execSysWr (a : Fin 32) (r : Fin 64) (s : State) : Result :=
  orTrap s .control (!sysWritable r.val) .illegal
    (sysC s [a] r.val true (fun s => s.mod (fun c => writeSys r.val (c.getG a) c)))

/-- The write of a register as the step of the SYS.WR that stands at the control slice's boundary with this value. -/
def writeStep (r : Nat) (v : Word) (s : State) : Result :=
  match codeWord s s.ctx.pcc.toNat with
  | some w => match decode (bytesOfWord32 w) with
    | .ok (.sysWr a q, _) => if q.val = r ∧ s.ctx.getG a = v then execSysWr a q s else .next s
    | _ => .next s
  | none => .next s

def execTshapeWrite (v : Word) (s : State) : Result := writeStep 0x01 v s
def execFpmodeWrite (v : Word) (s : State) : Result := writeStep 0x00 v s
def execTimecmpWrite (v : Word) (s : State) : Result := writeStep 0x0B v s
def execLoopRegisterWrite (r : Fin 64) (v : Word) (s : State) : Result := if 0x18 ≤ r.val then writeStep r.val v s else .next s
def execSlacktabWrite (i : Fin 3) (v : Word) (s : State) : Result := writeStep (3 + i.val) v s

/-! ## TRAP and ERET (R398, R411) -/

def execTrap (n : Fin 64) (s : State) : Result :=
  if stalledC s [] [] || betterReady s || !mayHalt s then .next s
  else .next (enterTrap (retire s .control 4 false) .trap 0 n.val 0 none s.ctx.pcc.toNat)

/-- A turn of ERET with a frame at the peer: it asks for the frame's lines, and returns once all of them have come (R218, R398). -/
def frameTurn (s : State) : State :=
  match s.ctx.ops.find? (fun o => o.kind == .frame) with
  | none => s.mod (addOp { plainOp s .frame s.ctx.tframe with stage := .started })
  | some o =>
    let fault (c : Cause) (va : Nat) : State := frameFault (s.mod (dropOp o.id)) c va
    if o.nextRead < 128 then
      match seekLine s o none .read (fun _ => none) (slackEntry s.ctx 0) 8 (o.a.toNat + 128 * o.nextRead) 15 with
      | .ok s' => s'
      | .error (c, va) => fault c va
    else match readAll o none none 8 ((List.range 128).map (fun k => (o.a.toNat + 128 * k, 128))) with
      | .error (c, va) => fault c va
      | .ok none => s
      | .ok (some l) => returnWith (s.mod (dropOp o.id)) (l.flatMap Prod.snd)

/-- ERET is ILLEGAL outside a handler; it waits for the handler's execute results and accesses. -/
def execEret (s : State) : Result :=
  orTrap s .control (!s.ctx.inh) .illegal (
    if stalledC s [] [] || !atExecutePoint s then .next s
    else if s.ctx.latches != [] then .next (s.mod (fun c => { c with xdrain := true }))
    else if s.ctx.accesses != [] then .next s
    else if peerFrame s then .next (frameTurn s)
    else .next (returnFromTrap s))

/-! ## TIME and TLBINV (R413) -/

def execTime (d : Fin 32) (s : State) : Result := issueC s [] [] 4 (fun s => s.mod (Context.setG d (BitVec.ofNat 64 s.ctc)))

/-- Every store, atomic and vector store issued before is performed at chip scope. -/
def writesPerformed (s : State) : Bool := s.ctx.accesses.all (fun a => !a.kind.writes || performedBut s true a)

def execTlbinvPage (a : Fin 32) (s : State) : Result :=
  if !writesPerformed s then .next s
  else issueC s [a] [] 4 (fun s =>
    let va := (s.ctx.getG a).toNat
    { s with tlb := s.tlb.filter (fun t => !(t.asid == s.ctx.info.asid && t.attr.covers va))
             walks := s.walks.filter (fun w => !(w.asid == s.ctx.info.asid && w.key == walkKey va w.level)) })

def execTlbinvAsid (s : State) : Result :=
  if !writesPerformed s then .next s
  else issueC s [] [] 4 (fun s =>
    { s with tlb := s.tlb.filter (fun t => t.asid != s.ctx.info.asid), walks := s.walks.filter (fun w => w.asid != s.ctx.info.asid)
             spaces := s.spaces.filter (fun d => d.asid != s.ctx.info.asid) })

/-! ## Mitten regions (R405, R413) -/

/-- The region that CRGN.OPEN opens. -/
def openRegion (handler range : Word) (c : Context) : Context :=
  { c with
    region := { c.region with isOpen := true, handler := handler, trk := range != 0, base := bitsOf range.toNat 46 12
                              pages := bitsOf range.toNat 11 0 + 1, marked := [] }
    ops := c.ops.map (fun o => { o with sinceOpen := false }) }

def execCrgnOpen (a b : Fin 32) (s : State) : Result :=
  orTrap s .control s.ctx.region.isOpen .illegal
    (orTrapG s [a, b] ((s.ctx.getG a).toNat % 4 != 0) .align
      (orTrapG s [a, b] (decide (2 ^ 47 ≤ (s.ctx.getG b).toNat)) .shape
        (issueC s [a, b] [] 4 (fun s => s.mod (fun c => openRegion (c.getG a) (c.getG b) c)))))

/-- Every access is performed, and every engine operation issued since the OPEN has completed. -/
def regionJoined (s : State) : Bool := allPerformed s true && !s.ctx.ops.any EngineOp.sinceOpen

def closeRegion (c : Context) : Context := { c with region := { c.region with isOpen := false, trk := false, marked := [] } }

def execCrgnClose (s : State) : Result :=
  orTrap s .control (!s.ctx.region.isOpen) .illegal
    (if !regionJoined s then .next s else issueC s [] [] 4 (fun s => s.mod closeRegion))

/-- With the link down the mirror fails at issue (R425). -/
def mirrorLink (s : State) : State :=
  if s.link.up then s
  else match s.ctx.ops.getLast? with
    | some o => (failOp s o 3 Cause.bus.code 0 (4096 * o.pages.headD 0)).mod (fun c =>
        { c with region := { c.region with mir := c.ops.any (fun o => o.kind == .mirror) } })
    | none => s

/-- The mirror of the marked pages is an operation of the copy class. -/
def execCrgnCloseMirror (f : Fin 64) (s : State) : Result :=
  orTrap s .control (!s.ctx.region.isOpen || decide (s.ctx.nflag ≤ f.val)) .illegal
    (if !regionJoined s then .next s else issueC s [] [] 4 (fun s =>
      s.mod (fun c =>
        let o := { plainOp s .mirror 0 with flag := f, pages := c.region.marked, sinceOpen := false }
        let c := addOp o (closeRegion c)
        { c with region := { c.region with mir := true } }) |> mirrorLink))

/-! ## SELFTEST.ARRAY (R213, R413) -/

/-- The array of the context's cluster or Gusset has been marked failed. -/
def arrayFailed (s : State) : Bool := (s.arrayAt (if isGusset s.self then 32 + gidOf s.self else clusterOf s.self)).failed

/-- SELFTEST.ARRAY starts a test of the issuer's array and waits for its end. -/
def execSelftestArray (d : Fin 32) (s : State) : Result :=
  let res := arrayResource s.self
  if stalledC s [] [] then .next s
  else match s.ctx.selftest with
    | none =>
      if arrayFailed s then issueC s [] [] 4 (fun s => s.mod (Context.setG d 3))
      else if underTest s res then issueC s [] [] 4 (fun s => s.mod (Context.setG d 2))
      else .next ((startTest s res).mod (fun c => { c with selftest := some none }))
    | some none => .next s
    | some (some lasting) =>
      issueC s [] [] 4 (fun s => s.mod (fun c => { c.setG d (if lasting then 1 else 0) with selftest := none }))

end Sys2Proof.Machine
end

