-- ==== Sys2Proof/Machine/Transfer.lean ====
section
/-! DEFINITION. Loops, control transfers, votes, the pushes that feed the execute slice, and END (R141 to R158). -/

namespace Sys2Proof.Machine

/-! ## Loops and transfers -/

def execLoop (v : LoopLevel) (a : Fin 32) (i : BitVec 15) (s : State) : Result :=
  loopC s v [a] (fun c => c.getG a) i.toNat

def execLoopi (v : LoopLevel) (c n : Fin 1024) (s : State) : Result :=
  loopC s v [] (fun _ => BitVec.ofNat 64 c.val) n.val

def execBr (b c : Fin 4) (t : Bool) (s : State) : Result := bothSlices s (branchC s b c t none) (transferX s)
def execBrPn (b c : Fin 4) (t : Bool) (s : State) : Result := bothSlices s (branchC s b c t (some false)) (transferX s)
def execBrPt (b c : Fin 4) (t : Bool) (s : State) : Result := bothSlices s (branchC s b c t (some true)) (transferX s)

def execJmp (b : Fin 4) (s : State) : Result :=
  bothSlices s (transferC s [] [] (fun _ => true) (fun s => s.ctx.getB b) none) (transferX s)

/-- CALL writes its link at issue (R141). -/
def execCall (b : Fin 4) (a : Fin 32) (s : State) : Result :=
  bothSlices s (transferC s [a] [] (fun _ => true) (fun s => s.ctx.getB b) (some a)) (transferX s)

def execRet (a : Fin 32) (s : State) : Result :=
  bothSlices s (transferC s [a] [] (fun _ => true) (fun s => s.ctx.getG a) none) (transferX s)

/-! ## Votes -/

def execVany (c : Fin 4) (k : Fin 8) (s : State) : Result :=
  bothSlices s (claimVote s c) (pushVote s (fun w x => if x.getK w k = 0 then 0 else 1))

def execVall (c : Fin 4) (k : Fin 8) (s : State) : Result :=
  bothSlices s (claimVote s c) (pushVote s (fun w x => if x.getK w k = 2 ^ w - 1 then 1 else 0))

def execVcnt (d : Fin 32) (k : Fin 8) (s : State) : Result :=
  bothSlices s (popVq s d true) (pushVote s (fun w x => (List.range w).countP (fun l => bitOf (x.getK w k) l)))

def execPopv (d : Fin 32) (s : State) : Result := popVq s d false

/-! ## Pushes (R156, R157) -/

/-- Push a value to cq, waiting while it is full. -/
def pushCq (s : State) (a : Fin 32) (v : State → Word) : Result :=
  if cqCap ≤ s.ctx.cq.length then .next s
  else issueC s [a] [] 4 (fun s => s.mod (fun c => { c with cq := c.cq ++ [v s] }))

def execPushc (a : Fin 32) (s : State) : Result := pushCq s a (fun s => s.ctx.getG a)

def execPushd (a : Fin 32) (s : State) : Result :=
  if dqCap ≤ s.ctx.dq.length then .next s
  else issueC s [a] [] 4 (fun s => s.mod (fun c => { c with dq := c.dq ++ [c.getG a] }))

/-- MKTAIL's mask has its low min(ga, W) bits set (R157). -/
def execMktail (a : Fin 32) (s : State) : Result :=
  pushCq s a (fun s => BitVec.ofNat 64 (2 ^ min (s.ctx.getG a).toNat s.lanes - 1))

/-! ## END (R158, R206) -/

/-- A region still open when both slices have ended closes; nothing waits, and nothing is sent (R405). -/
def Context.endRegion (c : Context) : Context :=
  if c.endedC && c.endedX then { c with region := { c.region with isOpen := false, trk := false, marked := [] } } else c

/-- The control slice's END: loops end, pending votes are abandoned, and the core's lease is given up behind its commands. -/
def endControl (s : State) : State :=
  let lease := decide (s.self < 128) && !s.ctx.info.header.nm
  settleLease (s.mod (fun c => ({ c with
    endedC := true, votes := []
    loopA := { c.loopA with active := false }, loopB := { c.loopB with active := false }
    ops := if lease then c.ops ++ [plainOp s .unlease 0]
      else c.ops
    nextId := c.nextId + 1 } : Context).endRegion.commonPoint .control c.pcc))

/-- The execute slice's END. -/
def endExecute (s : State) : State :=
  (landDue s).mod (fun c => ({ c.tick with
    endedX := true, vloopA := { c.vloopA with active := false }, vloopB := { c.vloopB with active := false } } : Context).endRegion.commonPoint .execute c.pcx)

def execEndUnit (s : State) : Result :=
  bothSlices s
    (orTrap s .control (inSlot s.ctx .control) .illegal
      (if stalledC s [] [] then .next s else .next (endControl s)))
    (if !canIssue s .execute || inSlot s.ctx .execute || waitsForControl s isOrderedSysWord then .next s else .next (endExecute s))

end Sys2Proof.Machine
end

