-- ==== Sys2Proof/Machine/Dispatch.lean ====
section
/-! DEFINITION. One arm per constructor of `Instr`: each a direct call of that instruction's or event's meaning. -/

namespace Sys2Proof.Machine

def exec (i : Instr) (s : State) : Host.Outcome State Fault Refusal :=
  match i with
  | .add d a b => Sys2Proof.Machine.execAdd d a b s
  | .sub d a b => Sys2Proof.Machine.execSub d a b s
  | .and d a b => Sys2Proof.Machine.execAnd d a b s
  | .or d a b => Sys2Proof.Machine.execOr d a b s
  | .xor d a b => Sys2Proof.Machine.execXor d a b s
  | .andn d a b => Sys2Proof.Machine.execAndn d a b s
  | .shl d a b => Sys2Proof.Machine.execShl d a b s
  | .shr d a b => Sys2Proof.Machine.execShr d a b s
  | .sra d a b => Sys2Proof.Machine.execSra d a b s
  | .slt d a b => Sys2Proof.Machine.execSlt d a b s
  | .sltu d a b => Sys2Proof.Machine.execSltu d a b s
  | .min d a b => Sys2Proof.Machine.execMin d a b s
  | .minu d a b => Sys2Proof.Machine.execMinu d a b s
  | .max d a b => Sys2Proof.Machine.execMax d a b s
  | .maxu d a b => Sys2Proof.Machine.execMaxu d a b s
  | .mul d a b => Sys2Proof.Machine.execMul d a b s
  | .mulh d a b => Sys2Proof.Machine.execMulh d a b s
  | .mulhu d a b => Sys2Proof.Machine.execMulhu d a b s
  | .div d a b => Sys2Proof.Machine.execDiv d a b s
  | .divu d a b => Sys2Proof.Machine.execDivu d a b s
  | .rem d a b => Sys2Proof.Machine.execRem d a b s
  | .remu d a b => Sys2Proof.Machine.execRemu d a b s
  | .clz d a => Sys2Proof.Machine.execClz d a s
  | .popc d a => Sys2Proof.Machine.execPopc d a s
  | .addsh d a b sc => Sys2Proof.Machine.execAddsh d a b sc s
  | .sel d a b c => Sys2Proof.Machine.execSel d a b c s
  | .addi d a imm => Sys2Proof.Machine.execAddi d a imm s
  | .andi d a imm => Sys2Proof.Machine.execAndi d a imm s
  | .ori d a imm => Sys2Proof.Machine.execOri d a imm s
  | .xori d a imm => Sys2Proof.Machine.execXori d a imm s
  | .shli d a n => Sys2Proof.Machine.execShli d a n s
  | .shri d a n => Sys2Proof.Machine.execShri d a n s
  | .srai d a n => Sys2Proof.Machine.execSrai d a n s
  | .bfx d a l p => Sys2Proof.Machine.execBfx d a l p s
  | .bfxSx d a l p => Sys2Proof.Machine.execBfxSx d a l p s
  | .bfi d a l p => Sys2Proof.Machine.execBfi d a l p s
  | .li d imm => Sys2Proof.Machine.execLi d imm s
  | .lih d imm => Sys2Proof.Machine.execLih d imm s
  | .cmp c a b x => Sys2Proof.Machine.execCmp c a b x s
  | .cmpImm x c a imm => Sys2Proof.Machine.execCmpImm x c a imm s
  | .pbr b o => Sys2Proof.Machine.execPbr b o s
  | .pbrg b a => Sys2Proof.Machine.execPbrg b a s
  | .ldZ8 d b c u o => Sys2Proof.Machine.execLdZ8 d b c u o s
  | .ldZ16 d b c u o => Sys2Proof.Machine.execLdZ16 d b c u o s
  | .ldZ32 d b c u o => Sys2Proof.Machine.execLdZ32 d b c u o s
  | .ldZ64 d b c u o => Sys2Proof.Machine.execLdZ64 d b c u o s
  | .ldS8 d b c u o => Sys2Proof.Machine.execLdS8 d b c u o s
  | .ldS16 d b c u o => Sys2Proof.Machine.execLdS16 d b c u o s
  | .ldS32 d b c u o => Sys2Proof.Machine.execLdS32 d b c u o s
  | .stZ8 d b c u o => Sys2Proof.Machine.execStZ8 d b c u o s
  | .stZ16 d b c u o => Sys2Proof.Machine.execStZ16 d b c u o s
  | .stZ32 d b c u o => Sys2Proof.Machine.execStZ32 d b c u o s
  | .stZ64 d b c u o => Sys2Proof.Machine.execStZ64 d b c u o s
  | .vld m b c u o => Sys2Proof.Machine.execVld m b c u o s
  | .vst m b c u o => Sys2Proof.Machine.execVst m b c u o s
  | .vgather m b c u => Sys2Proof.Machine.execVgather m b c u s
  | .vscatter m b c u => Sys2Proof.Machine.execVscatter m b c u s
  | .vradd m b c u t => Sys2Proof.Machine.execVradd m b c u t s
  | .amoZ32 d a b c sc o => Sys2Proof.Machine.execAmoZ32 d a b c sc o s
  | .amoZ64 d a b c sc o => Sys2Proof.Machine.execAmoZ64 d a b c sc o s
  | .casZ32 d a b c sc => Sys2Proof.Machine.execCasZ32 d a b c sc s
  | .casZ64 d a b c sc => Sys2Proof.Machine.execCasZ64 d a b c sc s
  | .pin d a b => Sys2Proof.Machine.execPin d a b s
  | .unpin a b => Sys2Proof.Machine.execUnpin a b s
  | .cflush a b c => Sys2Proof.Machine.execCflush a b c s
  | .cinv a b c => Sys2Proof.Machine.execCinv a b c s
  | .stouch a b e => Sys2Proof.Machine.execStouch a b e s
  | .swb a b c => Sys2Proof.Machine.execSwb a b c s
  | .flagAdd a n => Sys2Proof.Machine.execFlagAdd a n s
  | .flagWait d a n => Sys2Proof.Machine.execFlagWait d a n s
  | .flagWaitSub d a n => Sys2Proof.Machine.execFlagWaitSub d a n s
  | .flagRd d n => Sys2Proof.Machine.execFlagRd d n s
  | .wait t c sc l => Sys2Proof.Machine.execWait t c sc l s
  | .fence sc m => Sys2Proof.Machine.execFence sc m s
  | .barArrive sc => Sys2Proof.Machine.execBarArrive sc s
  | .barWait a sc => Sys2Proof.Machine.execBarWait a sc s
  | .startNext => Sys2Proof.Machine.execStartNext s
  | .waitPred => Sys2Proof.Machine.execWaitPred s
  | .tspawn a => Sys2Proof.Machine.execTspawn a s
  | .futRd d a => Sys2Proof.Machine.execFutRd d a s
  | .futFill d a b => Sys2Proof.Machine.execFutFill d a b s
  | .lvlCancel a l => Sys2Proof.Machine.execLvlCancel a l s
  | .lease u => Sys2Proof.Machine.execLease u s
  | .unlease => Sys2Proof.Machine.execUnlease s
  | .mzero t => Sys2Proof.Machine.execMzero t s
  | .mout t a b f => Sys2Proof.Machine.execMout t a b f s
  | .moutRq t f => Sys2Proof.Machine.execMoutRq t f s
  | .mstat d => Sys2Proof.Machine.execMstat d s
  | .sunbind a => Sys2Proof.Machine.execSunbind a s
  | .sctxStart d a => Sys2Proof.Machine.execSctxStart d a s
  | .sctxStop d a => Sys2Proof.Machine.execSctxStop d a s
  | .sdepth d a b => Sys2Proof.Machine.execSdepth d a b s
  | .rowWait a b => Sys2Proof.Machine.execRowWait a b s
  | .rowPost a => Sys2Proof.Machine.execRowPost a s
  | .rowPostFrame => Sys2Proof.Machine.execRowPostFrame s
  | .rowPostSet a => Sys2Proof.Machine.execRowPostSet a s
  | .rowRdPos d a => Sys2Proof.Machine.execRowRdPos d a s
  | .rowRdRec d a => Sys2Proof.Machine.execRowRdRec d a s
  | .rowRdStamp d a => Sys2Proof.Machine.execRowRdStamp d a s
  | .roiRd d a b => Sys2Proof.Machine.execRoiRd d a b s
  | .alignWait d a b => Sys2Proof.Machine.execAlignWait d a b s
  | .alignWaitCnt d a => Sys2Proof.Machine.execAlignWaitCnt d a s
  | .trap n => Sys2Proof.Machine.execTrap n s
  | .eret => Sys2Proof.Machine.execEret s
  | .sysRd d r => Sys2Proof.Machine.execSysRd d r s
  | .sysWr a r => Sys2Proof.Machine.execSysWr a r s
  | .time d => Sys2Proof.Machine.execTime d s
  | .tlbinvPage a => Sys2Proof.Machine.execTlbinvPage a s
  | .tlbinvAsid => Sys2Proof.Machine.execTlbinvAsid s
  | .crgnOpen a b => Sys2Proof.Machine.execCrgnOpen a b s
  | .crgnClose => Sys2Proof.Machine.execCrgnClose s
  | .crgnCloseMirror f => Sys2Proof.Machine.execCrgnCloseMirror f s
  | .selftestArray d => Sys2Proof.Machine.execSelftestArray d s
  | .loop v a imm => Sys2Proof.Machine.execLoop v a imm s
  | .loopi v c n => Sys2Proof.Machine.execLoopi v c n s
  | .br b c sc => Sys2Proof.Machine.execBr b c sc s
  | .brPn b c sc => Sys2Proof.Machine.execBrPn b c sc s
  | .brPt b c sc => Sys2Proof.Machine.execBrPt b c sc s
  | .jmp b => Sys2Proof.Machine.execJmp b s
  | .call b a => Sys2Proof.Machine.execCall b a s
  | .ret a => Sys2Proof.Machine.execRet a s
  | .vany c k => Sys2Proof.Machine.execVany c k s
  | .vall c k => Sys2Proof.Machine.execVall c k s
  | .vcnt d k => Sys2Proof.Machine.execVcnt d k s
  | .popv d => Sys2Proof.Machine.execPopv d s
  | .pushc a => Sys2Proof.Machine.execPushc a s
  | .pushd a => Sys2Proof.Machine.execPushd a s
  | .mktail a => Sys2Proof.Machine.execMktail a s
  | .endUnit => Sys2Proof.Machine.execEndUnit s
  | .mov d a k u => Sys2Proof.Machine.execMov d a k u s
  | .movMain d n k => Sys2Proof.Machine.execMovMain d n k s
  | .bcast d a imm k u => Sys2Proof.Machine.execBcast d a imm k u s
  | .iota d t k => Sys2Proof.Machine.execIota d t k s
  | .zero d k => Sys2Proof.Machine.execZero d k s
  | .extr a imm u => Sys2Proof.Machine.execExtr a imm u s
  | .fadd d a b t k u v => Sys2Proof.Machine.execFadd d a b t k u v s
  | .fsub d a b t k u v => Sys2Proof.Machine.execFsub d a b t k u v s
  | .fmul d a b t k u v => Sys2Proof.Machine.execFmul d a b t k u v s
  | .fmin d a b t k u v => Sys2Proof.Machine.execFmin d a b t k u v s
  | .fmax d a b t k u v => Sys2Proof.Machine.execFmax d a b t k u v s
  | .fcmp x p a b t k u v => Sys2Proof.Machine.execFcmp x p a b t k u v s
  | .fabs d a t k u => Sys2Proof.Machine.execFabs d a t k u s
  | .fneg d a t k u => Sys2Proof.Machine.execFneg d a t k u s
  | .fclass d a t k u => Sys2Proof.Machine.execFclass d a t k u s
  | .frcp d a t k u => Sys2Proof.Machine.execFrcp d a t k u s
  | .frsqrt d a t k u => Sys2Proof.Machine.execFrsqrt d a t k u s
  | .fsqrt d a t k u => Sys2Proof.Machine.execFsqrt d a t k u s
  | .fexp2 d a t k u => Sys2Proof.Machine.execFexp2 d a t k u s
  | .flog2 d a t k u => Sys2Proof.Machine.execFlog2 d a t k u s
  | .ftanh d a t k u => Sys2Proof.Machine.execFtanh d a t k u s
  | .fsig d a t k u => Sys2Proof.Machine.execFsig d a t k u s
  | .fmaF32 d a b c k u v => Sys2Proof.Machine.execFmaF32 d a b c k u v s
  | .fmaBf16 d a b c k u v => Sys2Proof.Machine.execFmaBf16 d a b c k u v s
  | .fmaF16 d a b c k u v => Sys2Proof.Machine.execFmaF16 d a b c k u v s
  | .fmsF32 d a b c k u v => Sys2Proof.Machine.execFmsF32 d a b c k u v s
  | .fmsBf16 d a b c k u v => Sys2Proof.Machine.execFmsBf16 d a b c k u v s
  | .fmsF16 d a b c k u v => Sys2Proof.Machine.execFmsF16 d a b c k u v s
  | .fnmaF32 d a b c k u v => Sys2Proof.Machine.execFnmaF32 d a b c k u v s
  | .fnmaBf16 d a b c k u v => Sys2Proof.Machine.execFnmaBf16 d a b c k u v s
  | .fnmaF16 d a b c k u v => Sys2Proof.Machine.execFnmaF16 d a b c k u v s
  | .vadd d a b t k u v => Sys2Proof.Machine.execVadd d a b t k u v s
  | .vsub d a b t k u v => Sys2Proof.Machine.execVsub d a b t k u v s
  | .vadds d a b t k u v => Sys2Proof.Machine.execVadds d a b t k u v s
  | .vsubs d a b t k u v => Sys2Proof.Machine.execVsubs d a b t k u v s
  | .vmul d a b t k u v => Sys2Proof.Machine.execVmul d a b t k u v s
  | .vmulh d a b t k u v => Sys2Proof.Machine.execVmulh d a b t k u v s
  | .vmin d a b t k u v => Sys2Proof.Machine.execVmin d a b t k u v s
  | .vmax d a b t k u v => Sys2Proof.Machine.execVmax d a b t k u v s
  | .vand d a b t k u v => Sys2Proof.Machine.execVand d a b t k u v s
  | .vor d a b t k u v => Sys2Proof.Machine.execVor d a b t k u v s
  | .vxor d a b t k u v => Sys2Proof.Machine.execVxor d a b t k u v s
  | .vshl d a b t k u v => Sys2Proof.Machine.execVshl d a b t k u v s
  | .vshr d a b t k u v => Sys2Proof.Machine.execVshr d a b t k u v s
  | .vshls d a b t k u v => Sys2Proof.Machine.execVshls d a b t k u v s
  | .vcmp x p a b t k u v => Sys2Proof.Machine.execVcmp x p a b t k u v s
  | .vabs d a t k u => Sys2Proof.Machine.execVabs d a t k u s
  | .vabss d a t k u => Sys2Proof.Machine.execVabss d a t k u s
  | .vneg d a t k u => Sys2Proof.Machine.execVneg d a t k u s
  | .vnegs d a t k u => Sys2Proof.Machine.execVnegs d a t k u s
  | .vnot d a t k u => Sys2Proof.Machine.execVnot d a t k u s
  | .vclz d a t k u => Sys2Proof.Machine.execVclz d a t k u s
  | .vpopc d a t k u => Sys2Proof.Machine.execVpopc d a t k u s
  | .cvtRne d a sc t k u => Sys2Proof.Machine.execCvtRne d a sc t k u s
  | .cvtsRne d a sc t k u => Sys2Proof.Machine.execCvtsRne d a sc t k u s
  | .cvtRtz d a sc t k u => Sys2Proof.Machine.execCvtRtz d a sc t k u s
  | .cvtsRtz d a sc t k u => Sys2Proof.Machine.execCvtsRtz d a sc t k u s
  | .cvtRup d a sc t k u => Sys2Proof.Machine.execCvtRup d a sc t k u s
  | .cvtsRup d a sc t k u => Sys2Proof.Machine.execCvtsRup d a sc t k u s
  | .cvtRdn d a sc t k u => Sys2Proof.Machine.execCvtRdn d a sc t k u s
  | .cvtsRdn d a sc t k u => Sys2Proof.Machine.execCvtsRdn d a sc t k u s
  | .qpack d a p b f k u => Sys2Proof.Machine.execQpack d a p b f k u s
  | .qunpack d a p b m f k u => Sys2Proof.Machine.execQunpack d a p b m f k u s
  | .kand d a b k => Sys2Proof.Machine.execKand d a b k s
  | .kor d a b k => Sys2Proof.Machine.execKor d a b k s
  | .kxor d a b k => Sys2Proof.Machine.execKxor d a b k s
  | .kandn d a b k => Sys2Proof.Machine.execKandn d a b k s
  | .knot d a k => Sys2Proof.Machine.execKnot d a k s
  | .kmov d a k => Sys2Proof.Machine.execKmov d a k s
  | .kpop d k => Sys2Proof.Machine.execKpop d k s
  | .selExecute d a b k u v => Sys2Proof.Machine.execSelExecute d a b k u v s
  | .rsum d a t k u => Sys2Proof.Machine.execRsum d a t k u s
  | .rmax d a t k u => Sys2Proof.Machine.execRmax d a t k u s
  | .rmin d a t k u => Sys2Proof.Machine.execRmin d a t k u s
  | .risum d a t k u => Sys2Proof.Machine.execRisum d a t k u s
  | .risums d a t k u => Sys2Proof.Machine.execRisums d a t k u s
  | .perm d a b t k u v => Sys2Proof.Machine.execPerm d a b t k u v s
  | .rot d a n k u => Sys2Proof.Machine.execRot d a n k u s
  | .shuf d a p t k u => Sys2Proof.Machine.execShuf d a p t k u s
  | .slide d a b n k u v => Sys2Proof.Machine.execSlide d a b n k u v s
  | .vloop v n => Sys2Proof.Machine.execVloop v n s
  | .mma a b f r => Sys2Proof.Machine.execMma a b f r s
  | .mmaSp a b c f r => Sys2Proof.Machine.execMmaSp a b c f r s
  | .mkat a f r => Sys2Proof.Machine.execMkat a f r s
  | .copy a b c f r => Sys2Proof.Machine.execCopy a b c f r s
  | .copys a b c f r => Sys2Proof.Machine.execCopys a b c f r s
  | .copyDec a b f r => Sys2Proof.Machine.execCopyDec a b f r s
  | .fill a b f r => Sys2Proof.Machine.execFill a b f r s
  | .copyPeer a b c f r => Sys2Proof.Machine.execCopyPeer a b c f r s
  | .wrq a b c f r => Sys2Proof.Machine.execWrq a b c f r s
  | .dtab a f r => Sys2Proof.Machine.execDtab a f r s
  | .vlds a r => Sys2Proof.Machine.execVlds a r s
  | .vsts a r => Sys2Proof.Machine.execVsts a r s
  | .sbind a b c f r => Sys2Proof.Machine.execSbind a b c f r s
  | .tileCommit a b c f r => Sys2Proof.Machine.execTileCommit a b c f r s
  | .alignSet a b f r => Sys2Proof.Machine.execAlignSet a b f r s
  | .tshapeWrite v => Sys2Proof.Machine.execTshapeWrite v s
  | .fpmodeWrite v => Sys2Proof.Machine.execFpmodeWrite v s
  | .timecmpWrite v => Sys2Proof.Machine.execTimecmpWrite v s
  | .loopRegisterWrite r v => Sys2Proof.Machine.execLoopRegisterWrite r v s
  | .slacktabWrite imm v => Sys2Proof.Machine.execSlacktabWrite imm v s
  | .powerGood => Sys2Proof.Machine.execPowerGood s
  | .recoveryImageWrite slot image => Sys2Proof.Machine.execRecoveryImageWrite slot image s
  | .quoteRequest v => Sys2Proof.Machine.execQuoteRequest v s
  | .quoteDone => Sys2Proof.Machine.execQuoteDone s
  | .housekeepingWrite off n v => Sys2Proof.Machine.execHousekeepingWrite off n v s
  | .stashcfgWrite core v => Sys2Proof.Machine.execStashcfgWrite core v s
  | .ctcTick => Sys2Proof.Machine.execCtcTick s
  | .ctcrateWrite v => Sys2Proof.Machine.execCtcrateWrite v s
  | .ctcofsWrite v => Sys2Proof.Machine.execCtcofsWrite v s
  | .ringInstall ring cfg => Sys2Proof.Machine.execRingInstall ring cfg s
  | .ringRemove ring => Sys2Proof.Machine.execRingRemove ring s
  | .tailWrite ring v => Sys2Proof.Machine.execTailWrite ring v s
  | .admissionTurn => Sys2Proof.Machine.execAdmissionTurn s
  | .ringStallEpisode ring => Sys2Proof.Machine.execRingStallEpisode ring s
  | .matchEntryArm e => Sys2Proof.Machine.execMatchEntryArm e s
  | .matchWriteArrival tag asid n => Sys2Proof.Machine.execMatchWriteArrival tag asid n s
  | .deadlinePass slot => Sys2Proof.Machine.execDeadlinePass slot s
  | .walkerStep => Sys2Proof.Machine.execWalkerStep s
  | .affinityExpiry grp n => Sys2Proof.Machine.execAffinityExpiry grp n s
  | .commonQueueMove => Sys2Proof.Machine.execCommonQueueMove s
  | .dispatch core => Sys2Proof.Machine.execDispatch core s
  | .schedulerPreempt => Sys2Proof.Machine.execSchedulerPreempt s
  | .preemptHalt => Sys2Proof.Machine.execPreemptHalt s
  | .saveComplete => Sys2Proof.Machine.execSaveComplete s
  | .tspawnEnqueue => Sys2Proof.Machine.execTspawnEnqueue s
  | .bankRefill cluster bank => Sys2Proof.Machine.execBankRefill cluster bank s
  | .unitRetire => Sys2Proof.Machine.execUnitRetire s
  | .jobEnd asid => Sys2Proof.Machine.execJobEnd asid s
  | .jobCancel asid => Sys2Proof.Machine.execJobCancel asid s
  | .jobActivate asid => Sys2Proof.Machine.execJobActivate asid s
  | .jobHold asid => Sys2Proof.Machine.execJobHold asid s
  | .jobRetire asid => Sys2Proof.Machine.execJobRetire asid s
  | .channelInstall ch ctl => Sys2Proof.Machine.execChannelInstall ch ctl s
  | .faultReply asid token retry => Sys2Proof.Machine.execFaultReply asid token retry s
  | .pageWalkComplete n => Sys2Proof.Machine.execPageWalkComplete n s
  | .loadReply n => Sys2Proof.Machine.execLoadReply n s
  | .resultLand => Sys2Proof.Machine.execResultLand s
  | .votePop => Sys2Proof.Machine.execVotePop s
  | .arbiterGrant arb => Sys2Proof.Machine.execArbiterGrant arb s
  | .slackDecrement n => Sys2Proof.Machine.execSlackDecrement n s
  | .noUrgencyPromotion n => Sys2Proof.Machine.execNoUrgencyPromotion n s
  | .sliceRequestGrant slice => Sys2Proof.Machine.execSliceRequestGrant slice s
  | .sliceFillComplete slice => Sys2Proof.Machine.execSliceFillComplete slice s
  | .windowAccessServe core => Sys2Proof.Machine.execWindowAccessServe core s
  | .fenceMarkerRetire slice => Sys2Proof.Machine.execFenceMarkerRetire slice s
  | .flitCrcReplay east lane station failed => Sys2Proof.Machine.execFlitCrcReplay east lane station failed s
  | .gauntletGrant cluster => Sys2Proof.Machine.execGauntletGrant cluster s
  | .leaseSlackDecrement core => Sys2Proof.Machine.execLeaseSlackDecrement core s
  | .termClockExpiry cluster => Sys2Proof.Machine.execTermClockExpiry cluster s
  | .termIdleExpiry cluster => Sys2Proof.Machine.execTermIdleExpiry cluster s
  | .matrixPassEnd => Sys2Proof.Machine.execMatrixPassEnd s
  | .matrixCommandComplete => Sys2Proof.Machine.execMatrixCommandComplete s
  | .mzeroComplete => Sys2Proof.Machine.execMzeroComplete s
  | .moutComplete => Sys2Proof.Machine.execMoutComplete s
  | .selftestComplete res lasting => Sys2Proof.Machine.execSelftestComplete res lasting s
  | .copyStart n => Sys2Proof.Machine.execCopyStart n s
  | .copyComplete n => Sys2Proof.Machine.execCopyComplete n s
  | .peerWriteArrival pw => Sys2Proof.Machine.execPeerWriteArrival pw s
  | .wrqArrival msg => Sys2Proof.Machine.execWrqArrival msg s
  | .peerAck n reply => Sys2Proof.Machine.execPeerAck n reply s
  | .mirrorArrival msg => Sys2Proof.Machine.execMirrorArrival msg s
  | .mirrorAck reply => Sys2Proof.Machine.execMirrorAck reply s
  | .streamFlitLand turn => Sys2Proof.Machine.execStreamFlitLand turn s
  | .flowSignalArrival stream => Sys2Proof.Machine.execFlowSignalArrival stream s
  | .contextEnd => Sys2Proof.Machine.execContextEnd s
  | .cameraFrameStart ch => Sys2Proof.Machine.execCameraFrameStart ch s
  | .embeddedHeader ch width height => Sys2Proof.Machine.execEmbeddedHeader ch width height s
  | .cameraLine ch num dt crcOk first elems => Sys2Proof.Machine.execCameraLine ch num dt crcOk first elems s
  | .cameraFrameEnd ch => Sys2Proof.Machine.execCameraFrameEnd ch s
  | .lidarPacket port payload udpOk first => Sys2Proof.Machine.execLidarPacket port payload udpOk first s
  | .ethernetFrame port frame fcsOk first => Sys2Proof.Machine.execEthernetFrame port frame fcsOk first s
  | .ptpEgress port header message oneStep => Sys2Proof.Machine.execPtpEgress port header message oneStep s
  | .otherPacketDiscard port vc => Sys2Proof.Machine.execOtherPacketDiscard port vc s
  | .rowDeadlineExpiry ch => Sys2Proof.Machine.execRowDeadlineExpiry ch s
  | .lidarFrameTimeout port => Sys2Proof.Machine.execLidarFrameTimeout port s
  | .tileCommitComplete n => Sys2Proof.Machine.execTileCommitComplete n s
  | .setTimeout grp => Sys2Proof.Machine.execSetTimeout grp s
  | .timerExpiry => Sys2Proof.Machine.execTimerExpiry s
  | .trapEntry => Sys2Proof.Machine.execTrapEntry s
  | .unwind => Sys2Proof.Machine.execUnwind s
  | .unitFail => Sys2Proof.Machine.execUnitFail s
  | .cancelStop => Sys2Proof.Machine.execCancelStop s
  | .heartbeatSend => Sys2Proof.Machine.execHeartbeatSend s
  | .heartbeatReceive ctc part => Sys2Proof.Machine.execHeartbeatReceive ctc part s
  | .peerLostTimeout => Sys2Proof.Machine.execPeerLostTimeout s
  | .linkEnable => Sys2Proof.Machine.execLinkEnable s
  | .linkTrained => Sys2Proof.Machine.execLinkTrained s
  | .linkFlitReplay => Sys2Proof.Machine.execLinkFlitReplay s
  | .linkRetrain => Sys2Proof.Machine.execLinkRetrain s
  | .retrainTimeout => Sys2Proof.Machine.execRetrainTimeout s
  | .linkIdleTimeout => Sys2Proof.Machine.execLinkIdleTimeout s
  | .fatalNoticeReceive => Sys2Proof.Machine.execFatalNoticeReceive s
  | .throttleStart temp power => Sys2Proof.Machine.execThrottleStart temp power s
  | .throttleEnd temp power => Sys2Proof.Machine.execThrottleEnd temp power s
  | .overheat temp => Sys2Proof.Machine.execOverheat temp s
  | .bootWatchdogStall => Sys2Proof.Machine.execBootWatchdogStall s
  | .dispatchEcc place => Sys2Proof.Machine.execDispatchEcc place s
  | .debugHalt => Sys2Proof.Machine.execDebugHalt s
  | .debugResume => Sys2Proof.Machine.execDebugResume s
  | .linkRetrained => Sys2Proof.Machine.execLinkRetrained s
  | .idleFlitSend => Sys2Proof.Machine.execIdleFlitSend s
  | .idleFlitReceive => Sys2Proof.Machine.execIdleFlitReceive s
  | .linkFlitAcknowledgment upTo => Sys2Proof.Machine.execLinkFlitAcknowledgment upTo s
  | .writeAcknowledgment n => Sys2Proof.Machine.execWriteAcknowledgment n s
  | .cameraLinkTraining port gear => Sys2Proof.Machine.execCameraLinkTraining port gear s
  | .controlMessagePassThrough port message => Sys2Proof.Machine.execControlMessagePassThrough port message s

end Sys2Proof.Machine
end

