-- ==== Sys2Proof/Machine/Fetch.lean ====
section
/-! DEFINITION. What happens before an instruction or event acts: which move comes next, and how a slice fetches and decodes
the instruction at its pc (R62, R104, R120, R391). -/

namespace Sys2Proof.Machine

/-- What a step does: run an instruction or event in a state, end in a state, or stop. -/
inductive Prepared where
  | run (i : Instr) (s : State)
  | done (s : State)
  | stop (f : Fault)

/-- The slice runs ahead of an open prediction (R153). -/
def speculates (s : State) (side : Slice) : Bool := side == .control && s.ctx.prediction.isSome && s.ctx.redirC.isNone

/-- A fetch whose translation is not held waits as an access of its own (R391); one of the run-ahead never faults (R153). -/
def startFetch (s : State) (side : Slice) (va : Nat) : State :=
  if s.ctx.accesses.any (fun a => a.kind == .fetch && a.ea == BitVec.ofNat 64 va && a.tagged == speculates s side) then s
  else issueAccess s {
    id := 0, iaddr := BitVec.ofNat 64 va, kind := .fetch, ea := BitVec.ofNat 64 va, v1 := 0, v2 := 0, shape := ⟨0, 0, 0, 0⟩, dest := 0
    qi := s.ctx.nextId, cls := 0, urg := 0, slack := slackEntry s.ctx 0, stage := .walking, parts := [], rows := [], rowIds := []
    data := [], tagged := speculates s side, allLanes := false, tso := false, laneWidth := s.laneBits, fmt := none }

/-- The words of an instruction from an address up, or the address of the first that cannot be fetched. -/
def fetchWords (s : State) : Nat → Nat → Except Nat (List Nat)
  | 0, _ => .ok []
  | n + 1, va =>
    match (held s s.ctx.info.asid va).isSome || (copiedWord s va).isSome, codeWord s va with
    | true, some w => match fetchWords s n (va + 4) with
      | .ok ws => .ok (w :: ws)
      | .error e => .error e
    | _, _ => .error va

/-- The first of an instruction's words that is poisoned (R403). -/
def poisonedWord (s : State) (n va : Nat) : Option Nat :=
  ((List.range n).map (fun i => va + 4 * i)).find? (fun a => match resolve s s.ctx.info.asid a with
    | .ok p => poisoned s (physOf p a) 4
    | .error _ => false)

/-- An instruction of a run-ahead that must wait for the prediction to resolve; when its vote can no longer come, the first that waits traps
with QUEUE (R109, R151, R153). -/
def waitSpeculation (s : State) : State :=
  if s.ctx.prediction.any (fun b => voteLost s.ctx b.c) then trapSync s .control .queue else s

/-- The loads that a run-ahead issues (R153). -/
def isSpeculable (i : Instr) : Bool :=
  match i with
  | .vld .. | .vlds .. => true
  | _ => false

/-- A word that the slice cannot execute: ILLEGAL, but a run-ahead waits there (R62, R104, R153). -/
def illegalHere (s : State) (side : Slice) : Prepared :=
  .done (if speculates s side then waitSpeculation s else trapSync s side .illegal)

/-- The instruction at a slice's pc. The trailer and everything beyond the code is ILLEGAL (R62), and so is a word that decodes
to nothing; of a both-slice word only the control slice takes it, and a word of the other slice's stream is passed over (R104). The execute
slice of a handler does not pass its ERET (R398). In a run-ahead only loads go on; everything else waits (R153). -/
def fetchSlice (s : State) (side : Slice) : Prepared :=
  let pc := (s.ctx.pc side).toNat
  if !canIssue s side then .done s
  else if side = .execute ∧ s.ctx.inh ∧ waitsForControl s (· == 0x5A000001) then .done s
  else if side = .control ∧ runAhead s.ctx ∧ s.ctx.prediction.isNone then .done ((resolveUnresolved s).getD s)
  else if outsideCode s.ctx pc then illegalHere s side
  else match fetchWords s 1 pc with
    | .error va => .done (startFetch s side va)
    | .ok ws =>
      let w := ws.headD 0
      let n := lengthOfMajor (w / 2 ^ 25) / 4
      if !ownsMajor side (w / 2 ^ 25) then .done (advance s side (4 * n))
      else if s.ctx.codeEnd < pc + 4 * n then illegalHere s side
      else match fetchWords s n pc with
        | .error va => .done (startFetch s side va)
        | .ok ws =>
          match poisonedWord s n pc with
          | some va => .done (if speculates s side then waitSpeculation s else consumePoison s va (BitVec.ofNat 64 pc))
          | none => match decode (ws.flatMap bytesOfWord32) with
            | .ok (i, _) => if speculates s side && !isSpeculable i then .done (waitSpeculation s) else .run i s
            | .error _ =>
              if side = .execute ∧ isBothMajor (w / 2 ^ 25) then .done s else illegalHere s side

/-- The next input: the head of the agenda, or what the free schedule moves (assumption 2). -/
def nextInput (s : State) : Input × State :=
  let s' := { s with moves := s.moves + 1 }
  match s.agenda with
  | [] => (Config.schedule s.moves, s')
  | i :: rest => (i, { s' with agenda := rest })

/-- After the part's fatal event only a reset runs (R431). -/
def mayMoveNow (s : State) (m : Move) : Bool :=
  s.fatal.isNone || match m with
    | .event _ .powerGood => true
    | _ => false

/-- The execute slice reads an uncorrectable word of its registers, queues or latches: its instruction does not complete, and the
storage is tested (R403, R407; assumption 13). -/
def registerError (s : State) : State :=
  if !canIssue s .execute then s
  else (startTest s (storeResource s.self)).mod (fun c => { c with ready := { c.ready with ecc := some (c.pcx, c.pcx) } })

/-- The command that the array would run next reads an uncorrectable word of its tile and fails (R403; assumption 13). -/
def tileError (s : State) : State :=
  match startLease s with
  | none => s
  | some (s, o) =>
    if o.kind = .mkat then s
    else afterLease (engineFail (startTest s (storeResource s.self)).drawn o .ecc o.progress (Config.freeWord s.draws).toNat) false

/-- An input that is no move acts. -/
def prepareInput (i : Input) (s : State) : Prepared :=
  match i with
  | .move _ => .done s
  | .hostStore pa bs => .done (if isDram s pa && isDram s (pa + bs.length - 1) then storeBytes s pa bs else s)
  | .upset pa => .done { s with poison := upsert id (pa / 8) s.poison }
  | .storageError r => .done (startTest s r)
  | .corrected r => .done (noteCorrected s r)
  | .windowUpset n off => .done { s with poison := upsert id (windowKey n off / 8) s.poison }
  | .registerError n => .done (registerError (s.focus n))
  | .tileError n => .done (tileError (s.focus n))
  | .evict n => .done { s with tlb := s.tlb.eraseIdx n }
  | .evictWalk n => .done { s with walks := s.walks.eraseIdx n }
  | .fill level asid va => .done (match walkAt s level asid va with
    | .ok _ => walkFill s [level] asid va
    | .error _ => s)
  | .idle => .done s

/-- The translation a unit placed from outside finds held: addresses below 2 MiB map to themselves. -/
def identityPage : PageAttr :=
  { vbase := 0, sizeLog := 21, pbase := 0, w := true, x := true, tso := false, dev := false, ec := false, fmt := .raw, spl := 0
    blk := 0, swz := 0, scale := 0 }

/-- A unit of one instruction stands on the context in focus, its kernel header at 0x1000 and its words from 0x1040 up, and the
slice whose stream holds the instruction moves next (assumption 4). -/
def placeUnit (s : State) (bs : List Byte) : State :=
  let major := leNat (bs.take 4) / 2 ^ 25
  let side : Slice := if ownsMajor .control major then .control else .execute
  let c := s.ctx
  { s with
    agenda := [.move (.slice side s.self)]
    mem := writeBytes s.mem 0x1040 bs
    tlb := (outPlace :: tlbPlaces s).map (fun p => ⟨p, c.info.asid, identityPage⟩) ++ s.tlb
    hk := { s.hk with dramcap := Nat.max 1 s.hk.dramcap }
    fatal := none
    ctx := { c with
      run := .running, pcc := 0x1040, pcx := 0x1040, endedC := false, endedX := false
      info := { c.info with kref := 0x1000, header := { c.info.header with codelen := bs.length / 4 } } } }

end Sys2Proof.Machine
end

