-- ==== Sys2Proof/Machine/Turns.lean ====
section
/-! DEFINITION. Which cause or instruction a boundary takes when several are ready (R387 to R389), which context of a Gusset a slice issues
from (R300), and the step's preparation. -/

namespace Sys2Proof.Machine

/-! ## Causes at a boundary (R387 to R389) -/

/-- A cause that goes before every instruction's own is ready: ECC, SILENT, an access's fault, or the withdrawal of the core (R387, R409). -/
def urgentCause (s : State) : Bool :=
  s.ctx.run == .running && (betterReady s || withdrawn s)

/-- A cause is ready at the boundaries of the context in focus: no instruction of it issues before that is taken (R389). -/
def causeReady (s : State) : Bool := urgentCause s || (topCause s).isSome

/-- The outcome of a preparation, where it is a state. -/
def Prepared.outcome (p : Prepared) : Option State :=
  match p with
  | .run i s => match exec i s with
    | .next t => some t
    | _ => none
  | .done s => some s
  | .stop _ => none

/-- Between two states a context has taken a synchronous cause: its handler is entered, or the unit fails (R389, R393, R401). -/
def trapTaken (a b : Context) : Bool :=
  (!a.inh && b.inh) || (a.run == .running && b.run == .draining && b.fate != .squashed)

/-- The slice's boundary of the context in focus, where its instruction raises a synchronous cause (R388). -/
def trapAt (s : State) (side : Slice) : Option Prepared :=
  let t := { s with side := side }
  let p := fetchSlice t side
  if p.outcome.any (fun u => trapTaken t.ctx (u.ctxAt t.self)) then some p else none

/-- The synchronous cause that the boundaries of the context in focus take: the control slice's first (R387, R388). -/
def syncTrap (s : State) : Option Prepared :=
  if urgentCause s then none
  else match trapAt s .control with
    | some p => some p
    | none => trapAt s .execute

/-- A slice's turn at its boundary: no instruction issues while a cause is ready, but a synchronous cause goes before an asynchronous one, and the
control slice's before the execute slice's (R387 to R389). -/
def boundaryTurn (s : State) (side : Slice) : Prepared :=
  if causeReady s then (syncTrap s).getD (.done s)
  else match side with
    | .control => fetchSlice s .control
    | .execute => match trapAt s .execute with
      | some p => (trapAt s .control).getD p
      | none => fetchSlice s .execute

/-- An event at a context's boundary: one that would take an asynchronous cause yields to a synchronous cause that is ready there, and its own
cause stays ready (R387). -/
def eventTurn (s : State) (e : Instr) : Prepared :=
  if s.ctx.run != .running then .run e s
  else match e with
    | .trapEntry | .cancelStop | .preemptHalt => if (topCause s).isSome then (syncTrap s).getD (.run e s) else .run e s
    | .debugHalt => if debugServes s then (syncTrap (s.mod (fun c => { c with ready := { c.ready with halt := true } }))).getD (.run e s) else .run e s
    | _ => .run e s

/-! ## Turns of a Gusset's slices (R300) -/

/-- A slice has issued between two states of its context: its boundary or its loops have moved, an instruction has been logged, or the context
has ended or left its program. -/
def issuedBy (side : Slice) (a b : Context) : Bool :=
  b.pc side != a.pc side || b.ended side != a.ended side || b.stretchC != a.stretchC || b.stretchX != a.stretchX || b.inh != a.inh || b.run != a.run ||
    b.levelA side != a.levelA side || b.levelB side != a.levelB side || b.logC.length != a.logC.length || b.logX.length != a.logX.length

/-- The next instruction of a context in a slice can issue now (R300). -/
def canGo (s : State) (side : Slice) (n : Nat) : Bool :=
  let t := { s.focus n with side := side }
  let p := boundaryTurn t side
  match p with
  | .stop _ => true
  | _ => p.outcome.any (fun u => issuedBy side t.ctx (u.ctxAt n))

/-- The context of a Gusset that last issued in a slice. -/
def GussetState.last (g : GussetState) (side : Slice) : Nat :=
  match side with
  | .control => g.lastControl
  | .execute => g.lastExecute

/-- The contexts of a Gusset in the order in which a slice considers them: ascending after the one that last issued, wrapping (R300). -/
def turnOrder (s : State) (side : Slice) (gid : Nat) : List Nat :=
  (List.range 4).map (fun k => 128 + 4 * gid + ((s.gussetState gid).last side + 1 + k) % 4)

/-- A context that a slice passes over stands at its instruction all the same: what that instruction keeps in mind while it waits is kept
(R305, R334). -/
def noteWait (side : Slice) (s : State) (n : Nat) : State :=
  match (boundaryTurn { s.focus n with side := side } side).outcome with
  | some u => s.withCtx n (fun t => t.mod (fun c => { c with rowWait := (u.ctxAt n).rowWait, portWait := (u.ctxAt n).portWait }))
  | none => s

/-- A clock of a Gusset's slice: it goes to the first context that can issue; where none can, the slice waits on the one named (R300). -/
def sliceTurn (s : State) (side : Slice) (n : Nat) : State × Nat :=
  let order := turnOrder s side (gidOf n)
  let noted := (order.takeWhile (fun m => !canGo s side m)).foldl (noteWait side) s
  let g := s.gussetState (gidOf n)
  match order.find? (canGo s side) with
  | none => (noted, n)
  | some m => (noted.setGusset (match side with
    | .control => { g with lastControl := gctxOf m }
    | .execute => { g with lastExecute := gctxOf m }), m)

/-- A move of a Gusset's slice is that of the context whose turn it is; every other input stands. -/
def turnOf (i : Input) (s : State) : Input × State :=
  match i with
  | .move (.slice side n) =>
    if isGusset n && mayMoveNow s (.slice side n) then
      let r := sliceTurn s side n
      (.move (.slice side r.2), r.1)
    else (i, s)
  | _ => (i, s)

/-- Events by which the host's software reaches the part. In recovery only the debug port serves (R433). -/
def fromHost (e : Instr) : Bool :=
  match e with
  | .ringInstall .. | .ringRemove .. | .tailWrite .. | .matchEntryArm .. | .jobActivate .. | .jobHold .. | .jobEnd .. | .jobCancel .. |
    .faultReply .. | .channelInstall .. | .stashcfgWrite .. | .quoteRequest .. | .ctcrateWrite .. | .ctcofsWrite .. | .linkEnable |
    .housekeepingWrite .. => true
  | _ => false

/-- The part is in recovery (R433). -/
def inRecovery (s : State) : Bool := s.boot.state == 2

/-- An input carried to the point where an instruction or event acts, or where a cause that is ready goes before it. -/
def prepareTurn (i : Input) (s : State) : Prepared :=
  match i with
  | .move m =>
    if !mayMoveNow s m then .stop .partStopped
    else match m with
      | .slice side n => boundaryTurn { s.focus n with side := side } side
      | .event n e => if inRecovery s && fromHost e then .done s else eventTurn (s.focus n) e
  | .hostStore .. => if inRecovery s then .done s else prepareInput i s
  | _ => prepareInput i s

/-- The next input, carried to the point where an instruction or event acts. -/
def prepare (s : State) : Prepared :=
  let x := nextInput s
  let y := turnOf x.1 x.2
  prepareTurn y.1 y.2

end Sys2Proof.Machine
end

