-- ==== Sys2Proof/Machine/Step.lean ====
section
/-! DEFINITION. One step of the part: the next move is prepared and its instruction or event runs. -/

namespace Sys2Proof.Machine

/-- One step. -/
def step (s : State) : Host.Outcome State Fault Refusal :=
  match prepare s with
  | .run i s' => exec i s'
  | .done s' => .next s'
  | .stop f => .fault f

/-- The state with one instruction placed where the next step fetches it (assumption 4). -/
def State.withFetchWord (s : State) (nbits w : Nat) : State := placeUnit s (tableBytes nbits w)

end Sys2Proof.Machine
end

