-- ==== Sys2Proof/WellFormed.lean ====
section
/-! DEFINITION. Which instruction terms some context may execute: the checks of R121 that need nothing but the word itself
(R114, R117, R118, R137, R144, R160, R161, R174). What also depends on the context (TSHAPE, NFLAG, a Gusset, NM) is checked
where the instruction issues. -/

namespace Sys2Proof.WellFormed

/-- A source code that names a source; 15 is reserved (R117). -/
def source (a : Fin 16) : Bool := a.val ≠ 15

/-- A last-use bit may mark codes 0 to 7 only (R114). -/
def lastUse (a : Fin 16) (u : Bool) : Bool := !u || a.val < 8

/-- A source with its last-use bit (R114, R117). -/
def marked (a : Fin 16) (u : Bool) : Bool := source a && lastUse a u

/-- Destinations of value instructions: v, sq, vq, the Gusset ports and m (R118, R161). -/
def valueDest (d : Fin 256) : Bool := d.val < 8 || (16 ≤ d.val && d.val ≤ 21) || 128 ≤ d.val

/-- Destinations of predicate instructions: k1 to k7 (R118, R161). -/
def predDest (d : Fin 256) : Bool := 9 ≤ d.val && d.val ≤ 15

/-- A floating-point type (R160). -/
def floatType : ElemType → Bool
  | .bf16 | .f16 | .f32 => true
  | _ => false

/-- An integer type a lane can hold (R160). -/
def intType : ElemType → Bool
  | .z8 | .z16 | .z32 | .s8 | .s16 | .s32 => true
  | _ => false

/-- A type of either kind (R160). -/
def laneType (t : ElemType) : Bool := floatType t || intType t

/-- An index or element type of PERM and SHUF (R160). -/
def indexType : ElemType → Bool
  | .z8 | .z16 | .z32 => true
  | _ => false

/-- Two sources and a type (R164, R169). -/
def binary (ty : ElemType → Bool) (d : Fin 256) (a b : Fin 16) (t : ElemType) (u v : Bool) : Bool :=
  valueDest d && marked a u && marked b v && ty t

/-- One source and a type (R167, R172, R180). -/
def unary (ty : ElemType → Bool) (d : Fin 256) (a : Fin 16) (t : ElemType) (u : Bool) : Bool :=
  valueDest d && marked a u && ty t

/-- Three sources (R164). -/
def fused (d : Fin 256) (a b c : Fin 16) (u v : Bool) : Bool :=
  valueDest d && marked a u && marked b v && source c

/-- A compare: a predicate other than k0, two sources and a type (R166, R171). -/
def compare (ty : ElemType → Bool) (p : Fin 8) (a b : Fin 16) (t : ElemType) (u v : Bool) : Bool :=
  p.val ≠ 0 && marked a u && marked b v && ty t

/-- CVT: both types are lane types, and the saturating form has an integer result (R173). -/
def convert (sat : Bool) (d : Fin 256) (a : Fin 16) (s t : ElemType) (u : Bool) : Bool :=
  valueDest d && marked a u && laneType s && laneType t && !(sat && floatType t)

/-- QPACK and QUNPACK: two planes at least, and neither vq nor a predicate as destination (R174). -/
def nbi (d : Fin 256) (a : Fin 16) (p : Fin 8) (u : Bool) : Bool :=
  valueDest d && d.val ≠ 17 && marked a u && p.val ≠ 0

/-- A bit field that ends within 64 bits (R137). -/
def bitField (l p : Fin 64) : Bool := p.val + l.val + 1 ≤ 64

end Sys2Proof.WellFormed

namespace Sys2Proof

open WellFormed in
/-- The word is legal in some context (R121). Events carry no word and are always well formed. -/
def Instr.wf : Instr → Bool
  | .bfx _ _ l p | .bfxSx _ _ l p | .bfi _ _ l p => bitField l p
  | .vradd _ _ _ _ t => t == .s32 || t == .f32 || t == .s16 || t == .bf16 || t == .f16
  | .amoZ64 _ _ _ _ _ o => o ≠ .fadd
  | .mout _ a _ _ => a.val ≠ 0
  | .loop _ _ i => i ≠ 0
  | .loopi _ _ n => n.val ≠ 0
  | .mov d a _ u => valueDest d && marked a u
  | .movMain d _ _ => valueDest d
  | .bcast d a i _ u => valueDest d && marked a u && i.val < 64
  | .iota d t _ => valueDest d && laneType t
  | .zero d _ => valueDest d
  | .extr a i u => marked a u && i.val < 64
  | .fadd d a b t _ u v | .fsub d a b t _ u v | .fmul d a b t _ u v | .fmin d a b t _ u v
  | .fmax d a b t _ u v => binary floatType d a b t u v
  | .fcmp _ p a b t _ u v => compare floatType p a b t u v
  | .fabs d a t _ u | .fneg d a t _ u | .fclass d a t _ u | .frcp d a t _ u | .frsqrt d a t _ u
  | .fsqrt d a t _ u | .fexp2 d a t _ u | .flog2 d a t _ u | .ftanh d a t _ u | .fsig d a t _ u =>
    unary floatType d a t u
  | .fmaF32 d a b c _ u v | .fmaBf16 d a b c _ u v | .fmaF16 d a b c _ u v | .fmsF32 d a b c _ u v
  | .fmsBf16 d a b c _ u v | .fmsF16 d a b c _ u v | .fnmaF32 d a b c _ u v | .fnmaBf16 d a b c _ u v
  | .fnmaF16 d a b c _ u v => fused d a b c u v
  | .vadd d a b t _ u v | .vsub d a b t _ u v | .vadds d a b t _ u v | .vsubs d a b t _ u v | .vmul d a b t _ u v
  | .vmulh d a b t _ u v | .vmin d a b t _ u v | .vmax d a b t _ u v | .vand d a b t _ u v | .vor d a b t _ u v
  | .vxor d a b t _ u v | .vshl d a b t _ u v | .vshr d a b t _ u v | .vshls d a b t _ u v =>
    binary intType d a b t u v
  | .vcmp _ p a b t _ u v => compare intType p a b t u v
  | .vabs d a t _ u | .vabss d a t _ u | .vneg d a t _ u | .vnegs d a t _ u | .vnot d a t _ u | .vclz d a t _ u
  | .vpopc d a t _ u => unary intType d a t u
  | .cvtRne d a s t _ u | .cvtRtz d a s t _ u | .cvtRup d a s t _ u | .cvtRdn d a s t _ u => convert false d a s t u
  | .cvtsRne d a s t _ u | .cvtsRtz d a s t _ u | .cvtsRup d a s t _ u | .cvtsRdn d a s t _ u => convert true d a s t u
  | .qpack d a p _ _ _ u => nbi d a p u
  | .qunpack d a p b _ _ _ u => nbi d a p u && !(b.val ≠ 0 && a.val == 9)
  | .kand d _ _ _ | .kor d _ _ _ | .kxor d _ _ _ | .kandn d _ _ _ => predDest d
  | .knot d _ _ | .kmov d _ _ => predDest d
  | .kpop d _ => predDest d
  | .selExecute d a b _ u v => valueDest d && marked a u && marked b v
  | .rsum d a t _ u => unary floatType d a t u
  | .rmax d a t _ u | .rmin d a t _ u => unary laneType d a t u
  | .risum d a t _ u | .risums d a t _ u => unary intType d a t u
  | .perm d a b t _ u v => binary indexType d a b t u v
  | .rot d a n _ u => valueDest d && marked a u && n.val < 64
  | .shuf d a _ t _ u => unary indexType d a t u
  | .slide d a b _ _ u v => valueDest d && marked a u && marked b v
  | .vloop _ n => n.val ≠ 0
  | _ => true

end Sys2Proof
end

