-- ==== Sys2Proof/Safety.lean ====
section
/-! DEFINITION. The terms in which the statements speak: when an instruction can issue, what its passing may change besides its
own effect, what an execute instruction leaves in its latch, and the invariants of the state. -/

namespace Sys2Proof

/-- The events, which have no word. -/
def Instr.isEvent : Instr → Bool
  | .tshapeWrite _ | .fpmodeWrite _ | .timecmpWrite _ | .loopRegisterWrite _ _ | .slacktabWrite _ _ | .powerGood
  | .recoveryImageWrite _ _ | .quoteRequest _ | .quoteDone | .housekeepingWrite _ _ _ | .stashcfgWrite _ _ | .ctcTick
  | .ctcrateWrite _ | .ctcofsWrite _ | .ringInstall _ _ | .ringRemove _ | .tailWrite _ _ | .admissionTurn | .ringStallEpisode _
  | .matchEntryArm _ | .matchWriteArrival _ _ _ | .deadlinePass _ | .walkerStep | .affinityExpiry _ _ | .commonQueueMove
  | .dispatch _ | .schedulerPreempt | .preemptHalt | .saveComplete | .tspawnEnqueue | .bankRefill _ _ | .unitRetire | .jobEnd _
  | .jobCancel _ | .jobActivate _ | .jobHold _ | .jobRetire _ | .channelInstall _ _ | .faultReply _ _ _ | .pageWalkComplete _
  | .loadReply _ | .resultLand | .votePop | .arbiterGrant _ | .slackDecrement _ | .noUrgencyPromotion _ | .sliceRequestGrant _
  | .sliceFillComplete _ | .windowAccessServe _ | .fenceMarkerRetire _ | .flitCrcReplay _ _ _ _ | .gauntletGrant _
  | .leaseSlackDecrement _ | .termClockExpiry _ | .termIdleExpiry _ | .matrixPassEnd | .matrixCommandComplete | .mzeroComplete
  | .moutComplete | .selftestComplete _ _ | .copyStart _ | .copyComplete _ | .peerWriteArrival _ | .wrqArrival _ | .peerAck _ _
  | .mirrorArrival _ | .mirrorAck _ | .streamFlitLand _ | .flowSignalArrival _ | .contextEnd | .cameraFrameStart _
  | .embeddedHeader _ _ _ | .cameraLine _ _ _ _ _ _ | .cameraFrameEnd _ | .lidarPacket _ _ _ _ | .ethernetFrame _ _ _ _
  | .ptpEgress _ _ _ _ | .otherPacketDiscard _ _ | .rowDeadlineExpiry _ | .lidarFrameTimeout _ | .tileCommitComplete _
  | .setTimeout _ | .timerExpiry | .trapEntry | .unwind | .unitFail | .cancelStop | .heartbeatSend | .heartbeatReceive _ _
  | .peerLostTimeout | .linkEnable | .linkTrained | .linkFlitReplay | .linkRetrain | .retrainTimeout | .linkIdleTimeout
  | .fatalNoticeReceive | .throttleStart _ _ | .throttleEnd _ _ | .overheat _ | .bootWatchdogStall | .dispatchEcc _
  | .debugHalt | .debugResume | .linkRetrained | .idleFlitSend | .idleFlitReceive | .linkFlitAcknowledgment _
  | .writeAcknowledgment _ | .cameraLinkTraining _ _ | .controlMessagePassThrough _ _ => true
  | _ => false

/-- The instruction has words: it is no event. -/
def Instr.hasWord (i : Instr) : Bool := !i.isEvent

/-! ## Rounding (R34), said without the model's own rounding -/

/-- The exponent of a format's last place at its smallest magnitudes: every finite value is a whole number of units of 2 to it. -/
def Num.Fmt.least (f : Num.Fmt) : Int := 1 - f.bias - f.mbits

/-- A finite code's value in units of 2^q, for a q no greater than `least`; none for an infinity or a NaN (R32). -/
def Num.finiteAt (f : Num.Fmt) (q : Int) (c : Nat) : Option Int :=
  match Num.unpack f c with
  | .num n m e => some (if n then -((m * 2 ^ (e - q).toNat : Nat) : Int) else (m * 2 ^ (e - q).toNat : Nat))
  | _ => none

/-- Code c is the value v · 2^q, not zero, rounded to format f (R34): the greatest value not above it in rdn, the least not below it in rup, the
one of greatest magnitude not beyond it in rtz, the nearest one in rne, of two as near the even one; infinite where that is beyond the largest
finite value as the mode says. A zero keeps the sign of v. -/
def Num.Rounded (f : Num.Fmt) (mode : RoundMode) (q v : Int) (c : Nat) : Prop :=
  let top : Int := (Num.finiteAt f q (f.infCode - 1)).getD 0
  let next : Int := (Num.finiteAt f q (f.infCode - 2)).getD 0
  let beyond := 3 * top - next ≤ 2 * v.natAbs
  c < 2 ^ f.width ∧ (c / f.signBit = 1 ↔ v < 0) ∧
  match Num.finiteAt f q c with
  | some w =>
    let all (p : Int → Prop) : Prop := ∀ k u, Num.finiteAt f q k = some u → p u
    match mode with
    | .rdn => w ≤ v ∧ all (fun u => u ≤ v → u ≤ w)
    | .rup => v ≤ w ∧ all (fun u => v ≤ u → w ≤ u)
    | .rtz => w.natAbs ≤ v.natAbs ∧ all (fun u => u.natAbs ≤ v.natAbs → u.natAbs ≤ w.natAbs)
    | .rne => ¬ beyond ∧ all (fun u => (w - v).natAbs ≤ (u - v).natAbs ∧ (u ≠ w → (w - v).natAbs = (u - v).natAbs → c % 2 = 0))
  | none => Num.unpack f c = .inf (decide (v < 0)) ∧
    match mode with
    | .rdn => v < -top
    | .rup => top < v
    | .rtz => False
    | .rne => beyond

/-- A code with a subnormal made a zero of its sign (R36). -/
def Num.flushed (f : Num.Fmt) (c : Nat) : Nat := if c / 2 ^ f.mbits % 2 ^ f.ebits = 0 then c / f.signBit % 2 * f.signBit else c % 2 ^ f.width

/-- The sign of a code. -/
def Num.signOf (f : Num.Fmt) (c : Nat) : Bool := c / f.signBit % 2 == 1

namespace Machine

/-! ## When an instruction can issue -/

/-- The control slice can issue an instruction that reads or writes these g registers and c bits (R131, R151, R153, R155, R407). -/
def ControlReady (s : State) (gs : List (Fin 32)) (cs : List (Fin 4)) : Prop :=
  s.ctx.run = .running ∧ s.ctx.endedC = false ∧ quarantined s = false ∧ runAhead s.ctx = false ∧
  (∀ r ∈ gs, s.ctx.pendingG r = false) ∧ (∀ r ∈ cs, s.ctx.pendingC r = false)

/-- The execute slice can issue an instruction: it runs, the word is legal here, nothing earlier holds it, and its sources and
its destination are ready once the results that are due have landed; no port has lost the stream it stalled on (R108, R121, R131, R189, R305). -/
def ExecuteReady (s : State) (o : XOp) : Prop :=
  s.ctx.run = .running ∧ s.ctx.endedX = false ∧ quarantined s = false ∧ waitsForControl s isOrderedSysWord = false ∧
  o.isIllegal s = false ∧ o.held s = false ∧ o.portLost s = false ∧
  o.operandState (landDue s) = .ready

/-- No loop of the execute slice has a body that the transfer at the control boundary would leave from its slots; where one may end there, both slices
stand at the word (R104, R106). -/
def SlotsStay (s : State) : Prop := meetsExecute s = true → slicesMeet s.ctx = true ∧ slotsLeaveBody s .execute = false

/-! ## What passing an instruction may change -/

/-- A loop level but for what its end check changes (R146). -/
def LoopRegs.bounds (r : LoopRegs) : LoopRegs := { r with count := 0, active := false }

/-- A context but for what moving one slice past an instruction may change: its pc, its loop counts, its pending redirection and
its record of program order, and for the control slice the loop levels it keeps as a run-ahead begins (R104, R106, R146, R154, R440). -/
def Context.still (side : Slice) (c : Context) : Context :=
  match side with
  | .control => { c with
      pcc := 0, loopA := c.loopA.bounds, loopB := c.loopB.bounds, redirC := none, stretchC := 0, logC := [], spec := [] }
  | .execute => { c with
      pcx := 0, vloopA := c.vloopA.bounds, vloopB := c.vloopB.bounds, redirX := none, stretchX := 0, logX := [] }

/-- t is u after a slice has moved past an instruction: nothing else has changed. -/
def Passed (side : Slice) (u t : State) : Prop := t = { u with ctx := t.ctx } ∧ t.ctx.still side = u.ctx.still side

/-- Instruction i completes: exec answers the state u, but for the slice's passing. -/
def Completes (i : Instr) (side : Slice) (s u : State) : Prop := ∃ t, exec i s = .next t ∧ Passed side u t

/-- A transfer completes in the control slice (R106, R141): its state is u but for the slice's passing, the redirection is pending while a
delay slot is still to come, and a taken transfer with none to come continues at its target. -/
def Transfers (i : Instr) (s u : State) (taken : Bool) (target : Word) : Prop :=
  let after := afterSlots s s.ctx.pcc.toNat
  let j := nextOf s .control (s.ctx.pcc.toNat + 4)
  ∃ t, exec i s = .next t ∧ Passed .control u t ∧
    (j < after → t.ctx.redirC = some ⟨BitVec.ofNat 64 after, target, taken⟩) ∧
    (taken = true → after ≤ j → t.ctx.redirC = none ∧ t.ctx.pcc = BitVec.ofNat 64 (nextOf s .control target.toNat))

/-- What an access is, apart from how far it has come and what its page fixes: its element size and whether it is in the order of TSO (R254, R353). -/
def Access.asIssued (a : Access) : Access := { a with stage := .walking, parts := [], rows := [], data := [], tso := false, fmt := none }

/-- A context but for the progress of its accesses and the sq entries they have taken. -/
def Context.unsent (c : Context) : Context := { c with accesses := c.accesses.map Access.asIssued, sq := [] }

/-- t is u after a slice has moved past an instruction and its accesses have been sent on their way (R283): memory, every register and
everything else is as in u. -/
def Sent (side : Slice) (u t : State) : Prop :=
  t = { u with ctx := t.ctx, arbiters := t.arbiters, nextPacket := t.nextPacket } ∧
  (t.ctx.still side).unsent = (u.ctx.still side).unsent

/-- Instruction i issues access a: exec answers s with the access, under the next identifier, behind all earlier ones (R131, R250). -/
def Issues (i : Instr) (s u : State) (a : Access) : Prop :=
  ∃ t, exec i s = .next t ∧
    Sent .control (u.mod (fun c => { c with accesses := c.accesses ++ [{ a with id := c.nextId }], nextId := c.nextId + 1 })) t

/-- The control slice can issue this access: its registers are ready, no held page breaks it, fewer than 32 accesses are outstanding
lq has room for its rows, and no access that stands on a fault goes before it in its class (R108, R131, R249, R390, R391). -/
def AccessReady (s : State) (gs : List (Fin 32)) (lqs : Nat) (a : Access) : Prop :=
  ControlReady s gs [] ∧ shapeAtIssue s a = false ∧ outstanding s.ctx < 32 ∧ s.ctx.lq.length + lqs ≤ 16 ∧ followsHeld s a = false

/-- A context with n further entries of lq, reserved under the identifiers from nextId up and not filled (R108). -/
def Context.withRows (n : Nat) (c : Context) : Context :=
  { c with lq := c.lq ++ (List.range n).map (fun i => ⟨c.nextId + i, 0, false, false⟩), nextId := c.nextId + n }

/-- The bits of a mask register that an access takes: those below W (R254). Under g0 the access names every lane besides. -/
def laneMask (s : State) (m : Fin 32) : Word := BitVec.ofNat 64 ((s.ctx.getG m).toNat % 2 ^ s.lanes)

/-- Instruction i puts engine operation o on its queue, behind all earlier ones: exec answers u with o, but for the slice's passing. -/
def Enqueues (i : Instr) (s u : State) (o : EngineOp) : Prop :=
  Completes i .control s (u.mod (fun c => { c with ops := c.ops ++ [o], nextId := c.nextId + 1 }))

/-! ## What an execute instruction leaves -/

/-- The lanes an execute instruction's predicate names (R119). -/
def XOp.mask (s : State) (o : XOp) : Nat := (landDue s).ctx.getK s.lanes o.pred

/-- Lane l of source j as the instruction reads it (R117). -/
def XOp.lane (s : State) (o : XOp) (j l : Nat) : Nat := laneOf ((o.srcs.map (readSrc (landDue s))).getD j 0) s.laneBits l

/-- The destination is a register, whose inactive lanes stay (R119). -/
def XOp.toRegister (o : XOp) : Bool := decide (o.dest < 8) || decide (0x80 ≤ o.dest)

/-- The lanes of the destination that are written with the result: the predicate's, or every lane (R119, R179, R180). -/
def XOp.active (s : State) (o : XOp) (l : Nat) : Bool := o.whole || bitOf (o.mask s) l

/-- The union of the flags that lanes of the predicate raise (R37, R119). -/
def XOp.flagsOf (s : State) (o : XOp) (f : Nat → Num.Flags) : Num.Flags :=
  (List.range s.lanes).foldl (fun r l => if bitOf (o.mask s) l then r.union (f l) else r) Num.Flags.none

/-- What a latch says besides its lanes: destination, clocks left and flags (R111, R112, R37). -/
def XOp.heads (o : XOp) (flags : Num.Flags) (x : Latch) : Prop :=
  x.dest = o.dest ∧ x.rem = o.latency - 1 ∧ x.flags = BitVec.ofNat 5 flags.code

/-- A latch holds a result lane by lane: a register's active lanes with their mask, every lane of a queue's or port's entry with
zero in the inactive ones, lane 0 for vq (R112, R118, R119). -/
def XOp.holdsLanes (s : State) (o : XOp) (value : Nat → Nat) (x : Latch) : Prop :=
  if o.toRegister then
    (∀ l, l < s.lanes → bitOf x.mask.toNat l = o.active s l) ∧
    (∀ l, l < s.lanes → o.active s l = true → laneOf x.data.toNat s.laneBits l = value l % 2 ^ s.laneBits)
  else ∀ l, l < (if o.dest = 0x11 then 1 else s.lanes) →
    laneOf x.data.toNat s.laneBits l = if o.active s l then value l % 2 ^ s.laneBits else 0

/-- A latch holds a predicate: a lane is set when it is active and its value holds (R118, R119). -/
def XOp.holdsBits (s : State) (o : XOp) (value : Nat → Bool) (x : Latch) : Prop :=
  x.data.toNat < 2 ^ s.lanes ∧ ∀ l, l < s.lanes → bitOf x.data.toNat l = (bitOf (o.mask s) l && value l)

/-- A context but for what issuing an execute instruction changes: its passing, its queues, latches and accesses' progress, and the
registers that landing results write (R108 to R114). -/
def Context.unissued (c : Context) : Context :=
  { (c.still .execute).unsent with
    cq := [], dq := [], lq := [], vq := [], latches := [], nextId := 0, fpmode := 0
    k := Vector.replicate 8 0, m := Vector.replicate 128 0, v := Vector.replicate 8 0, live := Vector.replicate 8 false }

/-- The instruction names a queue among its sources. -/
def XOp.pops (o : XOp) (code : Nat) : Bool := o.srcs.any (fun x => x.code.val == code)

/-- What issuing an execute instruction leaves alone: memory, other contexts, g, b, c, f and every special register; FPMODE and the
register files hold only the results that were due besides, less the last uses, and each queue named has lost its head
(R108, R111, R112, R114). -/
def XOp.leaves (s : State) (o : XOp) (t : State) : Prop :=
  t = { s with ctx := t.ctx, streams := t.streams, arbiters := t.arbiters, nextPacket := t.nextPacket } ∧
  t.ctx.unissued = s.ctx.unissued ∧
  t.ctx.k = (landDue s).ctx.k ∧ t.ctx.m = (landDue s).ctx.m ∧ t.ctx.fpmode = (landDue s).ctx.fpmode ∧
  t.ctx.v = (killSources o.srcs (landDue s).ctx).v ∧ t.ctx.live = (killSources o.srcs (landDue s).ctx).live ∧
  t.ctx.cq = s.ctx.cq.drop o.cqPops ∧
  t.ctx.dq = (if o.pops 9 then s.ctx.dq.drop 1 else s.ctx.dq).drop o.dqPops ∧
  t.ctx.lq = if o.pops 8 then s.ctx.lq.drop 1 else s.ctx.lq

/-- Execute instruction i issues: its result and flags stand in a latch, and everything else is as `XOp.leaves` says. -/
def XIssues (i : Instr) (s : State) (o : XOp) (value : Nat → Nat) (flags : Num.Flags) : Prop :=
  ∃ t, exec i s = .next t ∧ (∃ x ∈ t.ctx.latches, o.heads flags x ∧ o.holdsLanes s value x) ∧ o.leaves s t

/-- Execute instruction i issues a predicate result. -/
def PIssues (i : Instr) (s : State) (o : XOp) (value : Nat → Bool) (flags : Num.Flags) : Prop :=
  ∃ t, exec i s = .next t ∧ (∃ x ∈ t.ctx.latches, o.heads flags x ∧ o.holdsBits s value x) ∧ o.leaves s t

/-! ## Reductions (R44) -/

/-- Two entries of the tree combined: two active ones by f, else the active one, unchanged. -/
def combine (f : Nat → Nat → Nat × Num.Flags) (a b : Option Nat) : Option Nat × Num.Flags :=
  match a, b with
  | some x, some y => (some (f x y).1, (f x y).2)
  | some x, none => (some x, Num.Flags.none)
  | none, y => (y, Num.Flags.none)

/-- The pairwise tree over 2^k lanes: lane l with lane l + n/2 at a level of n lanes; what lane 0 holds at the end, and the flags
every combination raised. -/
def tree (f : Nat → Nat → Nat × Num.Flags) : Nat → (Nat → Option Nat) → Option Nat × Num.Flags
  | 0, g => (g 0, Num.Flags.none)
  | k + 1, g =>
    let level (l : Nat) := combine f (g l) (g (l + 2 ^ k))
    let r := tree f k (fun l => (level l).1)
    (r.1, ((List.range (2 ^ k)).foldl (fun (m : Num.Flags) l => m.union (level l).2) Num.Flags.none).union r.2)

/-! ## Traps -/

/-- TFRAME lies in pages held as plain writable DRAM, at physical address pa. -/
def FrameAt (s : State) (pa : Nat) : Prop :=
  ∀ i, i < 4 → ∃ a : PageAttr, held s s.ctx.info.asid (s.ctx.tframe.toNat + 4096 * i) = some a ∧ a.fmt = .raw ∧
    permFault a .write false = false ∧ placeOf s a (s.ctx.tframe.toNat + 4096 * i) = .dram (pa + 4096 * i)

/-- The register files, the flags and the queues of engine operations are as before: what entering and leaving a handler keeps (R393, R398). -/
def KeepsFiles (c d : Context) : Prop :=
  d.g = c.g ∧ d.b = c.b ∧ d.c = c.c ∧ d.k = c.k ∧ d.v = c.v ∧ d.live = c.live ∧ d.m = c.m ∧ d.f = c.f ∧ d.fpmode = c.fpmode ∧
  d.w16 = c.w16 ∧ d.slacktab = c.slacktab ∧ d.trapbase = c.trapbase ∧ d.tframe = c.tframe ∧ d.ops.map EngineOp.id = c.ops.map EngineOp.id

/-- t is in its handler for this cause: both slices stand at TRAPBASE, INH is set, the queues are empty, and the frame at pa holds the cause, the
interrupted pcs and the time (R393, R394). -/
def Entered (s t : State) (pa cause : Nat) (pcc pcx : Word) : Prop :=
  t.ctx.inh = true ∧ t.ctx.pcc = s.ctx.trapbase ∧ t.ctx.pcx = s.ctx.trapbase ∧ t.ctx.lcode = BitVec.ofNat 8 cause ∧
  t.ctx.bq = [] ∧ t.ctx.cq = [] ∧ t.ctx.dq = [] ∧ t.ctx.lq = [] ∧ t.ctx.sq = [] ∧ t.ctx.vq = [] ∧ t.ctx.latches = [] ∧ t.ctx.votes = [] ∧
  KeepsFiles s.ctx t.ctx ∧
  readLE t.mem pa 8 = cause ∧ readLE t.mem (pa + 8) 8 = pcc.toNat ∧ readLE t.mem (pa + 0x10) 8 = pcx.toNat ∧
  readLE t.mem (pa + 0x20) 8 = s.ctc % 2 ^ 64

/-! ## The invariant of every state -/

/-- Memory keeps its canonical form. -/
def State.Inv (s : State) : Prop := s.mem.wf = true

end Machine

end Sys2Proof
end

