-- ==== Sys2Proof/Certificates/Slice0/Obligations.lean ====
section
/-! DEFINITION. The statements for the provers. Each docstring names the rules of the manual that the statement formalises. -/

section

open Sys2Proof Sys2Proof.Machine

/-! ## Words -/

/-- Words written out from the encodings of R115 to R126 decode to the instructions they stand for, one for most formats; among
them are the manual's own examples 0x9A02_4689, 0x60D0_0003, 0x5A00_0001 and 0xF284_A850, the last with a record of 1, 2, 3 and 4. -/
def Obligations.WordsDecode : Prop :=
  decodeTableWord 32 0x0031080A = some (.sltu 3 2 2) ∧
  decodeTableWord 32 0x02311234 = some (.addi 3 2 0x1234) ∧
  decodeTableWord 32 0x26A28B7F = some (.ldZ64 10 5 1 3 0x7F) ∧
  decodeTableWord 32 0x5C108004 = some (.loop .B 1 4) ∧
  decodeTableWord 32 0x60D00003 = some (.brPt 1 2 true) ∧
  decodeTableWord 32 0x5A000001 = some .eret ∧
  decodeTableWord 32 0x9A024689 = some (.fmaF32 1 2 3 4 2 false true) ∧
  decodeTableWord 160 0x00000004000000030000000200000001F284A850 = some (.copy 8 9 10 5 ⟨1, 2, 3, 4⟩) ∧
  decodeTableWord 32 0x1E000000 = none

/-- A well-formed instruction reads back from its bytes, with every operand, whatever bytes follow (R67, R115 to R126). -/
def Obligations.EncodingRoundTrip : Prop :=
  ∀ i : Instr, i.wf = true → i.hasWord = true → ∀ rest : List Byte, decode (encode i ++ rest) = .ok (i, rest)

/-- A word of a reserved major is no instruction, whatever its other bits and whatever follows (R104, R121). -/
def Obligations.ReservedMajors : Prop :=
  ∀ w m : Nat, w < 2 ^ 32 → m ∈ [0x0E, 0x0F, 0x3C, 0x3D, 0x3E, 0x3F, 0x74, 0x75, 0x76, 0x77, 0x7D, 0x7E, 0x7F] → w / 2 ^ 25 = m →
    ∀ bs : List Byte, ∃ e, decode (bytesOfWord32 w ++ bs) = .error e

/-! ## Scalar arithmetic -/

/-- R134 but for its products: the register group's sums, bitwise forms, shifts and comparisons, on the registers read as signed or
unsigned numbers. Nothing else changes but the slice's passing, and a write to g0 is discarded (R132). -/
def Obligations.ScalarBinary : Prop :=
  ∀ (s : State) (d a b : Fin 32), ControlReady s [a, b] [] →
    let x := (s.ctx.getG a).toInt
    let y := (s.ctx.getG b).toInt
    let ux := (s.ctx.getG a).toNat
    let uy := (s.ctx.getG b).toNat
    let n := uy % 64
    let gives (i : Instr) (v : Int) : Prop := Completes i .control s (s.mod (Context.setG d (BitVec.ofInt 64 v)))
    gives (.add d a b) (x + y) ∧ gives (.sub d a b) (x - y) ∧
    gives (.and d a b) (ux &&& uy : Nat) ∧ gives (.or d a b) (ux ||| uy : Nat) ∧ gives (.xor d a b) (ux ^^^ uy : Nat) ∧
    gives (.andn d a b) (ux &&& (2 ^ 64 - 1 - uy) : Nat) ∧
    gives (.shl d a b) (ux * 2 ^ n : Nat) ∧ gives (.shr d a b) (ux / 2 ^ n : Nat) ∧ gives (.sra d a b) (x / 2 ^ n) ∧
    gives (.slt d a b) (if x < y then 1 else 0) ∧ gives (.sltu d a b) (if ux < uy then 1 else 0) ∧
    gives (.min d a b) (min x y) ∧ gives (.minu d a b) (min ux uy : Nat) ∧ gives (.max d a b) (max x y) ∧ gives (.maxu d a b) (max ux uy : Nat) ∧
    (∀ k : Fin 8, gives (.addsh d a b k) (x + y * 2 ^ k.val))

/-- R134's products, and R135: truncated signed and floored unsigned quotients and remainders, with the corners of its table. -/
def Obligations.ScalarProductsAndQuotients : Prop :=
  ∀ (s : State) (d a b : Fin 32), ControlReady s [a, b] [] →
    let x := (s.ctx.getG a).toInt
    let y := (s.ctx.getG b).toInt
    let ux := (s.ctx.getG a).toNat
    let uy := (s.ctx.getG b).toNat
    let gives (i : Instr) (v : Int) : Prop := Completes i .control s (s.mod (Context.setG d (BitVec.ofInt 64 v)))
    gives (.mul d a b) (x * y) ∧ gives (.mulh d a b) (x * y / 2 ^ 64) ∧ gives (.mulhu d a b) (ux * uy / 2 ^ 64 : Nat) ∧
    gives (.div d a b) (if y = 0 then -1 else x.tdiv y) ∧ gives (.rem d a b) (if y = 0 then x else x - x.tdiv y * y) ∧
    gives (.divu d a b) (if uy = 0 then 2 ^ 64 - 1 else (ux / uy : Nat)) ∧
    gives (.remu d a b) (if uy = 0 then ux else (ux - ux / uy * uy : Nat)) ∧
    (x = -2 ^ 63 → y = -1 → gives (.div d a b) (-2 ^ 63) ∧ gives (.rem d a b) 0)

/-- CLZ, POPC and SEL of R134. CLZ is given by the bounds of its operand, so its count of 64 for zero is included. -/
def Obligations.ScalarCountsAndSelect : Prop :=
  (∀ (s : State) (d a : Fin 32) (n : Nat), ControlReady s [a] [] → n ≤ 64 → (s.ctx.getG a).toNat < 2 ^ (64 - n) →
    (n < 64 → 2 ^ (63 - n) ≤ (s.ctx.getG a).toNat) →
    Completes (.clz d a) .control s (s.mod (Context.setG d (BitVec.ofNat 64 n)))) ∧
  (∀ (s : State) (d a : Fin 32), ControlReady s [a] [] →
    Completes (.popc d a) .control s
      (s.mod (Context.setG d (BitVec.ofNat 64 ((List.range 64).countP (fun i => (s.ctx.getG a).getLsbD i)))))) ∧
  (∀ (s : State) (d a b : Fin 32) (c : Fin 4), ControlReady s [a, b] [c] →
    Completes (.sel d a b c) .control s
      (s.mod (Context.setG d (if s.ctx.getC c then s.ctx.getG a else s.ctx.getG b))))

/-- R136: the immediate forms, on the immediate read as a signed number. -/
def Obligations.ScalarImmediates : Prop :=
  ∀ (s : State) (d a : Fin 32), ControlReady s [a] [] →
    let x := (s.ctx.getG a).toInt
    let ux := (s.ctx.getG a).toNat
    let gives (i : Instr) (v : Int) : Prop := Completes i .control s (s.mod (Context.setG d (BitVec.ofInt 64 v)))
    (∀ i : BitVec 15,
      let ui := (i.toInt % 2 ^ 64).toNat
      gives (.addi d a i) (x + i.toInt) ∧ gives (.andi d a i) (ux &&& ui : Nat) ∧ gives (.ori d a i) (ux ||| ui : Nat) ∧
      gives (.xori d a i) (ux ^^^ ui : Nat)) ∧
    (∀ n : Fin 64, gives (.shli d a n) (ux * 2 ^ n.val : Nat) ∧ gives (.shri d a n) (ux / 2 ^ n.val : Nat) ∧ gives (.srai d a n) (x / 2 ^ n.val))

/-- R137, R138: bit-field extraction and insertion, a field that passes bit 63 trapping with ILLEGAL (which `trapSync` takes); constants,
of which LIH keeps bits 19 to 0 of the register it writes. -/
def Obligations.BitFieldsAndConstants : Prop :=
  (∀ (s : State) (d a : Fin 32) (l p : Fin 64), ControlReady s [a] [] →
    let len := l.val + 1
    let field := (s.ctx.getG a).toNat / 2 ^ p.val % 2 ^ len
    if p.val + len ≤ 64 then
      Completes (.bfx d a l p) .control s (s.mod (Context.setG d (BitVec.ofNat 64 field))) ∧
      Completes (.bfxSx d a l p) .control s
        (s.mod (Context.setG d (BitVec.ofInt 64 (if field < 2 ^ (len - 1) then field else field - 2 ^ len)))) ∧
      (s.ctx.pendingG d = false → ∃ v : Word, Completes (.bfi d a l p) .control s (s.mod (Context.setG d v)) ∧
        ∀ i, i < 64 → v.getLsbD i = if p.val ≤ i ∧ i < p.val + len then (s.ctx.getG a).getLsbD (i - p.val) else (s.ctx.getG d).getLsbD i)
    else
      ∀ i ∈ [Instr.bfx d a l p, .bfxSx d a l p, .bfi d a l p], exec i s = .next (trapSync s .control .illegal)) ∧
  (∀ (s : State) (d : Fin 32) (i : BitVec 20), ControlReady s [] [] →
    Completes (.li d i) .control s (s.mod (Context.setG d (BitVec.ofInt 64 i.toInt)))) ∧
  (∀ (s : State) (d : Fin 32) (i : BitVec 20), ControlReady s [d] [] →
    ∃ v : Word, Completes (.lih d i) .control s (s.mod (Context.setG d v)) ∧
      v.toNat % 2 ^ 20 = (s.ctx.getG d).toNat % 2 ^ 20 ∧ v.toInt / 2 ^ 20 = i.toInt)


/-- R139, R140: a comparison writes its condition bit and nothing else; PBR writes the address of a label, PBRG a register's value, unchecked. -/
def Obligations.ComparisonsAndTargets : Prop :=
  (∀ (s : State) (c : Fin 4) (a b : Fin 32) (imm : BitVec 15), ControlReady s [a, b] [c] →
    let x := (s.ctx.getG a).toInt
    let ux := (s.ctx.getG a).toNat
    let sets (i : Instr) (v : Bool) : Prop := Completes i .control s (s.mod (Context.setC c v))
    let holds (k : CmpCond) (y : Int) (uy : Nat) : Bool := match k with
      | .eq => decide (ux = uy) | .ne => decide (ux ≠ uy)
      | .lt => decide (x < y) | .ge => decide (y ≤ x)
      | .ltu => decide (ux < uy) | .geu => decide (uy ≤ ux)
    ∀ k : CmpCond,
      sets (.cmp c a b k) (holds k (s.ctx.getG b).toInt (s.ctx.getG b).toNat) ∧
      sets (.cmpImm k c a imm) (holds k imm.toInt (imm.toInt % 2 ^ 64).toNat)) ∧
  (∀ (s : State) (b : Fin 4) (a : Fin 32) (o : BitVec 23), ControlReady s [a] [] →
    Completes (.pbr b o) .control s (s.mod (Context.setB b (BitVec.ofInt 64 (s.ctx.pcc.toNat + 4 * o.toInt)))) ∧
    Completes (.pbrg b a) .control s (s.mod (Context.setB b (s.ctx.getG a))))


/-- R132: g0 reads as zero, a write to it changes nothing, and any other register reads back as written. -/
def Obligations.RegisterZero : Prop :=
  ∀ (c : Context) (r x : Fin 32) (v : Word), c.getG 0 = 0 ∧ Context.setG 0 v c = c ∧
    (r ≠ 0 → (Context.setG r v c).getG r = v) ∧ (x ≠ r → (Context.setG r v c).getG x = c.getG x)

/-- R131: an instruction that reads a register which an outstanding load or atomic still owes waits: nothing changes. One that writes it alone does
not wait, and the register then holds what it writes. -/
def Obligations.ScalarWaits : Prop :=
  (∀ (s : State) (d a b r : Fin 32) (o : BitVec 15), canIssue s .control = true → runAhead s.ctx = false → s.ctx.pendingG r = true →
    (r ∈ [a, b] → ∀ i ∈ [Instr.add d a b, .sub d a b, .mul d a b, .div d a b, .shl d a b, .sltu d a b], exec i s = .next s) ∧
    (r = a → exec (.addi d a o) s = .next s ∧ exec (.clz d a) s = .next s ∧ exec (.pushc a) s = .next s)) ∧
  (∀ (s : State) (d a b : Fin 32), ControlReady s [a, b] [] → d ≠ 0 → s.ctx.pendingG d = true →
    ∃ t, exec (.add d a b) s = .next t ∧ t.ctx.pendingG d = false ∧ t.ctx.getG d = s.ctx.getG a + s.ctx.getG b)

/-! ## Transfers, loops and votes -/

/-- R141 for JMP, CALL, RET, and BR with its condition settled, hint or not. A taken transfer pushes its entry to bq, with its own address and its
target; CALL writes the address after the second delay slot to its link register; the redirection waits for the delay slots (R106). A BR whose
condition bit differs from its sense is not taken: it checks no target, and its entry holds none. -/
def Obligations.TransfersInControl : Prop :=
  (∀ (s : State) (b c : Fin 4) (a : Fin 32), s.side = .control → ControlReady s [a] [c] → s.ctx.prediction = none →
    s.ctx.unresolved = none → badTransfer s .control = false → SlotsStay s → s.ctx.bq.length < 128 → afterSlots s s.ctx.pcc.toNat < 2 ^ 64 →
    let after : Word := BitVec.ofNat 64 (afterSlots s s.ctx.pcc.toNat)
    let fair (t : Word) : Prop := outsideCode s.ctx t.toNat = false ∧ t.toNat % 4 = 0
    let pushed (t : Word) : State := s.mod (fun k => { k with bq := k.bq ++ [⟨k.pcc, true, t, false⟩] })
    (fair (s.ctx.getB b) →
      Transfers (.jmp b) s (pushed (s.ctx.getB b)) true (s.ctx.getB b) ∧
      Transfers (.call b a) s ((pushed (s.ctx.getB b)).mod (Context.setG a after)) true (s.ctx.getB b) ∧
      ∀ i ∈ [Instr.br b c (s.ctx.getC c), .brPn b c (s.ctx.getC c), .brPt b c (s.ctx.getC c)],
        Transfers i s (pushed (s.ctx.getB b)) true (s.ctx.getB b)) ∧
    (fair (s.ctx.getG a) → Transfers (.ret a) s (pushed (s.ctx.getG a)) true (s.ctx.getG a))) ∧
  (∀ (s : State) (b c : Fin 4), s.side = .control → ControlReady s [] [c] → s.ctx.prediction = none →
    s.ctx.unresolved = none → badTransfer s .control = false → SlotsStay s → s.ctx.bq.length < 128 → afterSlots s s.ctx.pcc.toNat < 2 ^ 64 →
    ∀ i ∈ [Instr.br b c (!s.ctx.getC c), .brPn b c (!s.ctx.getC c), .brPt b c (!s.ctx.getC c)],
      Transfers i s (s.mod (fun k => { k with bq := k.bq ++ [⟨k.pcc, false, 0, false⟩] })) false (s.ctx.getB b))


/-- R141: "A taken transfer with a misaligned target traps with ALIGN", and one whose target lies outside its kernel's code with ILLEGAL,
which is reported when both hold (R62, R388). A hinted BR with such a target opens no prediction, and traps once its bit is settled and it is taken. A
transfer whose slots leave a body of either slice's loops, or which stands in a slot, is ILLEGAL (R106). -/
def Obligations.TransferTargets : Prop :=
  (∀ (s : State) (b c : Fin 4) (a : Fin 32), s.side = .control → ControlReady s [a] [c] → badTransfer s .control = false → SlotsStay s →
    let stops (i : Instr) (t : Word) : Prop :=
      (outsideCode s.ctx t.toNat = true → exec i s = .next (trapSync s .control .illegal)) ∧
      (outsideCode s.ctx t.toNat = false → t.toNat % 4 ≠ 0 → exec i s = .next (trapSync s .control .align))
    stops (.jmp b) (s.ctx.getB b) ∧ stops (.call b a) (s.ctx.getB b) ∧ stops (.ret a) (s.ctx.getG a) ∧
    ∀ i ∈ [Instr.br b c (s.ctx.getC c), .brPn b c (s.ctx.getC c), .brPt b c (s.ctx.getC c)], stops i (s.ctx.getB b)) ∧
  (∀ (s : State) (b c : Fin 4) (a : Fin 32) (f : Bool), s.side = .control →
    (badTransfer s .control = true ∨
      (ControlReady s [] [] ∧ meetsExecute s = true ∧ slicesMeet s.ctx = true ∧ slotsLeaveBody s .execute = true)) →
    ∀ i ∈ [Instr.br b c f, .brPn b c f, .brPt b c f, .jmp b, .call b a, .ret a], exec i s = .next (trapSync s .control .illegal))

/-- R152: a hinted BR whose bit is pending opens the prediction; its entry of bq is tagged and its redirection goes the predicted way once its delay
slots are done. -/
def Obligations.BranchPredicts : Prop :=
  ∀ (s : State) (b c : Fin 4) (sense hint : Bool), s.side = .control → ControlReady s [] [] → s.ctx.pendingC c = true →
    s.ctx.prediction = none → s.ctx.unresolved = none → badTransfer s .control = false → SlotsStay s → s.ctx.bq.length < 128 →
    afterSlots s s.ctx.pcc.toNat < 2 ^ 64 → (s.ctx.getB b).toNat % 4 = 0 → outsideCode s.ctx (s.ctx.getB b).toNat = false →
    let after := afterSlots s s.ctx.pcc.toNat
    let j := nextOf s .control (s.ctx.pcc.toNat + 4)
    ∃ t, exec (if hint then .brPt b c sense else .brPn b c sense) s = .next t ∧
      t.ctx.prediction = some ⟨s.ctx.pcc, s.ctx.getB b, c, sense, hint, BitVec.ofNat 64 (afterSlots s s.ctx.pcc.toNat)⟩ ∧
      t.ctx.bq = s.ctx.bq ++ [⟨s.ctx.pcc, hint, s.ctx.getB b, true⟩] ∧
      Passed .control { s with ctx := { s.ctx with bq := t.ctx.bq, prediction := t.ctx.prediction } } t ∧
      (j < after → t.ctx.redirC = some ⟨BitVec.ofNat 64 after, s.ctx.getB b, hint⟩) ∧
      (after ≤ j → t.ctx.redirC = none ∧
        (hint = true → t.ctx.pcc = BitVec.ofNat 64 (nextOf s .control (s.ctx.getB b).toNat)))

/-- R142: at its copy of a transfer the execute slice pops the oldest entry of bq and takes its outcome and target; an entry with another
address traps with QUEUE. Besides its passing only the results that were due land. A transfer whose slots leave a body of the execute slice's loops is
ILLEGAL (R106); that it traps here as the control slice's is the model's choice (assumption 94). -/
def Obligations.TransfersInExecute : Prop :=
  ∀ (s : State) (b c : Fin 4) (a : Fin 32) (f : Bool) (e : BqEntry) (rest : List BqEntry), s.side = .execute →
    canIssue s .execute = true → inSlot s.ctx .execute = false → s.ctx.bq = e :: rest → e.tagged = false →
    ∀ i ∈ [Instr.br b c f, .brPn b c f, .brPt b c f, .jmp b, .call b a, .ret a],
      (e.addr ≠ s.ctx.pcx → exec i s = .next (trapSync s .execute .queue)) ∧
      (e.addr = s.ctx.pcx → slotsLeaveBody s .execute = true → exec i s = .next (trapSync s .control .illegal)) ∧
      (e.addr = s.ctx.pcx → slotsLeaveBody s .execute = false → afterSlots s s.ctx.pcx.toNat < 2 ^ 64 → ∃ t, exec i s = .next t ∧
        t = { s with ctx := t.ctx, streams := t.streams, arbiters := t.arbiters, nextPacket := t.nextPacket } ∧
        t.ctx.bq = rest ∧ ({ t.ctx with bq := s.ctx.bq } : Context).unissued = s.ctx.unissued ∧
        t.ctx.v = (landDue s).ctx.v ∧ t.ctx.k = (landDue s).ctx.k ∧ t.ctx.m = (landDue s).ctx.m ∧ t.ctx.fpmode = (landDue s).ctx.fpmode ∧
        (nextOf s .execute (s.ctx.pcx.toNat + 4) < afterSlots s s.ctx.pcx.toNat →
          t.ctx.redirX = some ⟨BitVec.ofNat 64 (afterSlots s s.ctx.pcx.toNat), e.target, e.taken⟩) ∧
        (e.taken = true → afterSlots s s.ctx.pcx.toNat ≤ nextOf s .execute (s.ctx.pcx.toNat + 4) →
          t.ctx.redirX = none ∧ t.ctx.pcx = BitVec.ofNat 64 (nextOf s .execute e.target.toNat)))

/-- R144, R185: LOOP, LOOPI and VLOOP set their level's count, bounds and snapshot, and the level is active when the count is not zero; a
length of zero is ILLEGAL in the control slice. VLOOP takes its count from cq; an empty queue is waited for while the control slice may still push to
it. The body is taken to hold a word of its slice's stream. -/
def Obligations.LoopsStart : Prop :=
  (∀ (s : State) (v : LoopLevel) (a : Fin 32), ControlReady s [a] [] → inSlot s.ctx .control = false →
    let starts (i : Instr) (count : Word) (len : Nat) : Prop :=
      s.ctx.pcc.toNat + 4 * len < 2 ^ 64 → nextOf s .control (s.ctx.pcc.toNat + 4) ≤ s.ctx.pcc.toNat + 4 * len →
      let first := s.ctx.pcc + 4
      let last := s.ctx.pcc + BitVec.ofNat 64 (4 * len)
      let r : LoopRegs := ⟨count, first, last, first, last, decide (count ≠ 0)⟩
      ∃ t, exec i s = .next t ∧ Passed .control (s.mod (Context.setLevel .control v r)) t ∧ t.ctx.level .control v = r
    (∀ i : BitVec 15, i ≠ 0 → starts (.loop v a i) (s.ctx.getG a) i.toNat) ∧
    (∀ c n : Fin 1024, n ≠ 0 → starts (.loopi v c n) (BitVec.ofNat 64 c.val) n.val) ∧
    exec (.loop v a 0) s = .next (trapSync s .control .illegal) ∧
    ∀ c, exec (.loopi v c 0) s = .next (trapSync s .control .illegal)) ∧
  (∀ (s : State) (v : LoopLevel) (n : Fin 4096), canIssue s .execute = true → inSlot s.ctx .execute = false → n ≠ 0 →
    waitsForControl s isOrderedSysWord = false → s.ctx.pcx.toNat + 4 * n.val < 2 ^ 64 →
    nextOf s .execute (s.ctx.pcx.toNat + 4) ≤ s.ctx.pcx.toNat + 4 * n.val →
    (s.ctx.cq = [] → exec (.vloop v n) s = .next (if s.ctx.endedC then trapSync s .execute .queue else s)) ∧
    ∀ count rest, s.ctx.cq = count :: rest →
      let first := s.ctx.pcx + 4
      let last := s.ctx.pcx + BitVec.ofNat 64 (4 * n.val)
      let r : LoopRegs := ⟨count, first, last, first, last, decide (count ≠ 0)⟩
      ∃ t, exec (.vloop v n) s = .next t ∧ t.ctx.cq = rest ∧ t.ctx.level .execute v = r ∧
        t = { s with ctx := t.ctx, streams := t.streams, arbiters := t.arbiters, nextPacket := t.nextPacket } ∧
        t.ctx.unissued = (s.ctx.setLevel .execute v r).unissued)


/-- R149, R150: in the control slice VANY and VALL make their bit pending on the next claim, and VCNT and POPV wait for their entry and every
earlier claim, then pop it into gd, or take QUEUE when it can no longer come (R109); the execute halves read their predicate and reserve one entry of vq, filled by a result of latency 1, whose mask of
lanes is all ones (the model's reading, assumption 82). -/
def Obligations.Votes : Prop :=
  (∀ (s : State) (c : Fin 4) (k : Fin 8) (d : Fin 32), s.side = .control →
    (ControlReady s [] [c] →
      (∀ i ∈ [Instr.vany c k, .vall c k], Completes i .control s (s.mod (fun x => { x with votes := x.votes ++ [c] })))) ∧
    (ControlReady s [] [] → ∀ e rest, s.ctx.vq = e :: rest →
      ∀ i ∈ [Instr.vcnt d k, .popv d],
        (s.ctx.votes ≠ [] ∨ e.filled = false → ¬(s.ctx.endedX = true ∧ s.ctx.vq.length ≤ s.ctx.votes.length) → exec i s = .next s) ∧
        (s.ctx.votes = [] → e.filled = true → Completes i .control s (s.mod (fun x => { x.setG d e.data with vq := rest })))) ∧
    (ControlReady s [] [] → s.ctx.endedX = true → s.ctx.vq.length ≤ s.ctx.votes.length →
      ∀ i ∈ [Instr.vcnt d k, .popv d], exec i s = .next (trapSync s .control .queue))) ∧
  (∀ (s : State) (c : Fin 4) (k : Fin 8) (d : Fin 32), s.side = .execute → canIssue s .execute = true →
    waitsForControl s isOrderedSysWord = false → s.ctx.vq.length < 16 →
    let lanes := (List.range s.lanes).filter (fun l => bitOf ((landDue s).ctx.getK s.lanes k) l)
    let pushes (i : Instr) (v : Nat) : Prop := ∃ t, exec i s = .next t ∧
      t.ctx.vq.map VqEntry.id = s.ctx.vq.map VqEntry.id ++ [s.ctx.nextId] ∧
      (⟨0x11, 0, 0, s.ctx.nextId, BitVec.allOnes 64, BitVec.ofNat 1024 v, s.ctx.stretchX, s.ctx.logX.length, []⟩ : Latch) ∈ t.ctx.latches ∧
      t = { s with ctx := t.ctx, streams := t.streams } ∧ t.ctx.unissued = s.ctx.unissued ∧ t.ctx.k = (landDue s).ctx.k
    pushes (.vany c k) (if lanes = [] then 0 else 1) ∧ pushes (.vall c k) (if lanes.length = s.lanes then 1 else 0) ∧
    pushes (.vcnt d k) lanes.length)


/-- R156, R157: PUSHC and PUSHD append their register to cq and dq, MKTAIL a mask of the first lanes to cq; each waits while its queue
is full. -/
def Obligations.Pushes : Prop :=
  ∀ (s : State) (a : Fin 32), ControlReady s [a] [] →
    let x := s.ctx.getG a
    let mask : Word := BitVec.ofNat 64 (2 ^ min x.toNat s.lanes - 1)
    (s.ctx.cq.length < 32 →
      Completes (.pushc a) .control s (s.mod (fun c => { c with cq := c.cq ++ [x] })) ∧
      Completes (.mktail a) .control s (s.mod (fun c => { c with cq := c.cq ++ [mask] })) ∧
      ∀ l, l < 64 → mask.getLsbD l = decide (l < x.toNat ∧ l < s.lanes)) ∧
    (s.ctx.dq.length < 64 → Completes (.pushd a) .control s (s.mod (fun c => { c with dq := c.dq ++ [x] }))) ∧
    (s.ctx.cq.length = 32 → exec (.pushc a) s = .next s ∧ exec (.mktail a) s = .next s) ∧
    (s.ctx.dq.length = 64 → exec (.pushd a) s = .next s)

/-- R158: END stops each slice at its own copy, deactivates that slice's loops, and in the control slice abandons the pending votes and gives
the core's lease up behind its commands (R206). An open region closes with the second slice's END (R405). In a kernel without matrix commands, or on a Gusset, the control slice's END changes nothing
else. -/
def Obligations.EndStops : Prop :=
  ∀ s : State,
    (s.side = .control → ControlReady s [] [] → inSlot s.ctx .control = false → exec .endUnit s = .next (endControl s)) ∧
    (s.side = .execute → canIssue s .execute = true → inSlot s.ctx .execute = false → waitsForControl s isOrderedSysWord = false →
      exec .endUnit s = .next (endExecute s)) ∧
    (s.side = .control → ControlReady s [] [] → inSlot s.ctx .control = false →
      ∃ t, exec .endUnit s = .next t ∧ t.ctx.endedC = true ∧ t.ctx.votes = [] ∧ t.ctx.loopA.active = false ∧ t.ctx.loopB.active = false ∧
        t.ctx.endedX = s.ctx.endedX ∧ t.ctx.g = s.ctx.g ∧ t.ctx.vq = s.ctx.vq ∧
        (s.ctx.endedX = true → t.ctx.region.isOpen = false) ∧ (s.ctx.endedX = false → t.ctx.region = s.ctx.region) ∧
        ((s.ctx.info.header.nm = true ∧ leaseHead s.ctx = none) ∨ 128 ≤ s.self → t.mem = s.mem ∧ t.ctx.accesses = s.ctx.accesses ∧ t.ctx.ops = s.ctx.ops)) ∧
    (s.side = .execute → canIssue s .execute = true → inSlot s.ctx .execute = false → waitsForControl s isOrderedSysWord = false →
      ∃ t, exec .endUnit s = .next t ∧ t.ctx.endedX = true ∧ t.ctx.vloopA.active = false ∧ t.ctx.vloopB.active = false ∧
        t.ctx.endedC = s.ctx.endedC ∧ t = { s with ctx := t.ctx, streams := t.streams } ∧
        (s.ctx.endedC = true → t.ctx.region.isOpen = false) ∧ (s.ctx.endedC = false → t.ctx.region = s.ctx.region) ∧
        t.ctx.v = (landDue s).ctx.v ∧ t.ctx.k = (landDue s).ctx.k ∧ t.ctx.fpmode = (landDue s).ctx.fpmode)

/-! ## The execute slice -/

/-- R162, R163: MOV, MOV from the main file, BCAST, IOTA, ZERO and EXTR put the lanes their tables give into a latch of latency 1. No
flag is raised. -/
def Obligations.MovesAndPlacement : Prop :=
  ∀ (s : State) (d : Fin 256) (a : Fin 16) (k : Fin 8) (u : Bool),
    let one := valueOp d [(a, u)] k 1 false
    let no := valueOp d [] k 1 false
    (ExecuteReady s one →
      XIssues (.mov d a k u) s one (one.lane s 0) .none ∧
      ∀ i : Fin 256, i.val < s.lanes → XIssues (.bcast d a i k u) s one (fun _ => one.lane s 0 i.val) .none) ∧
    (ExecuteReady s no →
      XIssues (.zero d k) s no (fun _ => 0) .none ∧
      ∀ t : ElemType, anyOk s.laneBits t = true →
        XIssues (.iota d t k) s no (fun l => match t.fmt? with | some f => (Num.convIF f .rne false l).1 | none => l % 2 ^ t.width) .none) ∧
    (∀ n : Fin 128, ExecuteReady s { no with mains := [n.val] } →
      XIssues (.movMain d n k) s { no with mains := [n.val] } (laneOf ((landDue s).ctx.m[n]).toNat s.laneBits) .none) ∧
    (∀ i : Fin 256, i.val < s.lanes →
      let o := { valueOp 0x11 [(a, u)] 0 1 false with cls := .vqOnly }
      ExecuteReady s o → XIssues (.extr a i u) s o (fun _ => o.lane s 0 i.val) .none)

/-- R164, R165: two-source arithmetic. Each active lane's operands are read as T, and the flags of the active lanes stand in the latch
until it lands (R37, R38). The exact sum, difference or product of finite operands is rounded once (R34), and NX says whether that changed it; an exact
zero sum of opposite signs is negative in rdn only, a zero product has the exclusive or of the signs; under FTZ operands and result are flushed (R36). -/
def Obligations.FloatArithmetic : Prop :=
  (∀ (f : Num.Fmt) (m : RoundMode) (x y : Nat), f ∈ [Num.f32, Num.bf16, Num.f16] →
    (∀ op ∈ [Num.fadd, Num.fsub, Num.fmul], (op f m true x y).1 = Num.flushed f (op f m false (Num.flushed f x) (Num.flushed f y)).1) ∧
    ∀ a b, Num.finiteAt f f.least x = some a → Num.finiteAt f f.least y = some b →
      let is (r : Nat × Num.Flags) (q v : Int) (zero : Bool) : Prop :=
        if v = 0 then r = ((if zero then f.signBit else 0), .none)
        else Num.Rounded f m q v r.1 ∧ (r.2.nx = false ↔ Num.finiteAt f q r.1 = some v) ∧ r.2.nv = false ∧ r.2.dz = false
      let sx := Num.signOf f x
      let sy := Num.signOf f y
      is (Num.fadd f m false x y) f.least (a + b) (if sx = sy then sx else m == .rdn) ∧
      is (Num.fsub f m false x y) f.least (a - b) (if sx = !sy then sx else m == .rdn) ∧
      is (Num.fmul f m false x y) (2 * f.least) (a * b) (sx != sy)) ∧
  ∀ (s : State) (d : Fin 256) (a b : Fin 16) (t : ElemType) (k : Fin 8) (u v : Bool) (f : Num.Fmt),
    floatOk s.laneBits t = true → t.fmt? = some f →
    let rm := (landDue s).ctx.rm
    let ftz := (landDue s).ctx.ftz
    let gives (i : Instr) (latency : Nat) (op : Nat → Nat → Nat × Num.Flags) : Prop :=
      let o := valueOp d [(a, u), (b, v)] k latency false
      ExecuteReady s o →
        XIssues i s o (fun l => (op (o.lane s 0 l) (o.lane s 1 l)).1) (o.flagsOf s (fun l => (op (o.lane s 0 l) (o.lane s 1 l)).2))
    gives (.fadd d a b t k u v) 4 (Num.fadd f rm ftz) ∧ gives (.fsub d a b t k u v) 4 (Num.fsub f rm ftz) ∧
    gives (.fmul d a b t k u v) 4 (Num.fmul f rm ftz) ∧ gives (.fmin d a b t k u v) 1 (Num.fminmax f ftz false) ∧
    gives (.fmax d a b t k u v) 1 (Num.fminmax f ftz true)

/-- R164: the fused forms, which round once (R34); FMS negates the addend and FNMA the product. The .f32 majors run in wide32 only (R160). -/
def Obligations.FloatFused : Prop :=
  (∀ (f : Num.Fmt) (m : RoundMode) (p n : Bool) (x y z : Nat), f ∈ [Num.f32, Num.bf16, Num.f16] →
    ∀ a b c, Num.finiteAt f f.least x = some a → Num.finiteAt f f.least y = some b → Num.finiteAt f (2 * f.least) z = some c →
      let v := (if p then -(a * b) else a * b) + (if n then -c else c)
      v ≠ 0 → Num.Rounded f m (2 * f.least) v (Num.fused f m false p n x y z).1) ∧
  ∀ (s : State) (d : Fin 256) (a b c : Fin 16) (k : Fin 8) (u v : Bool),
    let o := valueOp d [(a, u), (b, v), (c, false)] k 4 false
    let gives (i : Instr) (f : Num.Fmt) (negP negC : Bool) : Prop :=
      let op (l : Nat) := Num.fused f (landDue s).ctx.rm (landDue s).ctx.ftz negP negC (o.lane s 0 l) (o.lane s 1 l) (o.lane s 2 l)
      XIssues i s o (fun l => (op l).1) (o.flagsOf s (fun l => (op l).2))
    ExecuteReady s o →
      (gives (.fmaBf16 d a b c k u v) Num.bf16 false false ∧ gives (.fmaF16 d a b c k u v) Num.f16 false false ∧
        gives (.fmsBf16 d a b c k u v) Num.bf16 false true ∧ gives (.fmsF16 d a b c k u v) Num.f16 false true ∧
        gives (.fnmaBf16 d a b c k u v) Num.bf16 true false ∧ gives (.fnmaF16 d a b c k u v) Num.f16 true false) ∧
      (if s.laneBits = 32 then
        gives (.fmaF32 d a b c k u v) Num.f32 false false ∧ gives (.fmsF32 d a b c k u v) Num.f32 false true ∧
          gives (.fnmaF32 d a b c k u v) Num.f32 true false
      else ∀ i ∈ [Instr.fmaF32 d a b c k u v, .fmsF32 d a b c k u v, .fnmaF32 d a b c k u v],
        exec i s = .next (trapSync s .execute .illegal))

/-- R167: the unary group. FABS and FNEG act on the sign bit of the low bits alone; FCLASS and the special functions read their operand
under FTZ. -/
def Obligations.FloatUnary : Prop :=
  ∀ (s : State) (d : Fin 256) (a : Fin 16) (t : ElemType) (k : Fin 8) (u : Bool) (f : Num.Fmt),
    floatOk s.laneBits t = true → t.fmt? = some f →
    let ftz := (landDue s).ctx.ftz
    let gives (i : Instr) (latency : Nat) (op : Nat → Nat × Num.Flags) : Prop :=
      let o := valueOp d [(a, u)] k latency false
      ExecuteReady s o → XIssues i s o (fun l => (op (o.lane s 0 l)).1) (o.flagsOf s (fun l => (op (o.lane s 0 l)).2))
    gives (.fabs d a t k u) 1 (fun x => (x % 2 ^ (f.width - 1), .none)) ∧
    gives (.fneg d a t k u) 1 (fun x => (x % 2 ^ (f.width - 1) + (1 - x / 2 ^ (f.width - 1) % 2) * 2 ^ (f.width - 1), .none)) ∧
    gives (.fclass d a t k u) 1 (fun x => (Num.fclass f ftz x, .none)) ∧
    gives (.frcp d a t k u) 8 (Num.frcp f ftz) ∧ gives (.frsqrt d a t k u) 8 (Num.frsqrt f ftz) ∧
    gives (.fsqrt d a t k u) 8 (Num.fsqrt f ftz) ∧ gives (.fexp2 d a t k u) 8 (Num.fexp2 f ftz) ∧
    gives (.flog2 d a t k u) 8 (Num.flog2 f ftz) ∧ gives (.ftanh d a t k u) 8 (Num.ftanh f ftz) ∧ gives (.fsig d a t k u) 8 (Num.fsig f ftz)

/-- R33: in FADD, FSUB, FMUL and the fused forms an operand that is a NaN makes the default NaN of the format, with sign 0, and NV is raised
when an operand is a signalling NaN. FMIN and FMAX give the other operand where one is a NaN, the default NaN where both are, and else the lesser or
the greater, −0 below +0 (R165). -/
def Obligations.NaNResults : Prop :=
  ∀ (f : Num.Fmt) (m : RoundMode) (ftz p c : Bool) (x y z : Nat), f ∈ [Num.f32, Num.bf16, Num.f16] →
    (∀ op ∈ [Num.fadd f m ftz x y, Num.fsub f m ftz x y, Num.fmul f m ftz x y],
      (Num.unpack f x).isNaN = true ∨ (Num.unpack f y).isNaN = true →
        op.1 = f.defaultNaN ∧ op.1 < f.signBit ∧ op.2.nv = ((Num.unpack f x).isSignalling || (Num.unpack f y).isSignalling)) ∧
    ((Num.unpack f x).isNaN = true ∨ (Num.unpack f y).isNaN = true ∨ (Num.unpack f z).isNaN = true →
      (Num.fused f m ftz p c x y z).1 = f.defaultNaN ∧
      ((Num.unpack f x).isSignalling = true ∨ (Num.unpack f y).isSignalling = true ∨ (Num.unpack f z).isSignalling = true →
        (Num.fused f m ftz p c x y z).2.nv = true)) ∧
    (let r := Num.fminmax f ftz p x y
     let nx := (Num.unpack f x).isNaN
     let ny := (Num.unpack f y).isNaN
     let read (w : Nat) := if ftz then Num.flushed f w else w % 2 ^ f.width
     (r.2.nv = ((Num.unpack f x).isSignalling || (Num.unpack f y).isSignalling)) ∧
     (nx = true → r.1 = if ny then f.defaultNaN else read y) ∧ (nx = false → ny = true → r.1 = read x) ∧
     (nx = false → ny = false → r.1 = read x ∨ r.1 = read y) ∧
     ∀ u v, Num.finiteAt f f.least (read x) = some u → Num.finiteAt f f.least (read y) = some v →
       Num.finiteAt f f.least r.1 = some (if p then max u v else min u v) ∧
       (u = v → Num.signOf f r.1 = if p then Num.signOf f x && Num.signOf f y else Num.signOf f x || Num.signOf f y))

/-- R166, R171: comparisons write a predicate other than k0; a lane is set when it is active and the condition holds. -/
def Obligations.VectorComparisons : Prop :=
  ∀ (s : State) (p : Fin 8) (a b : Fin 16) (t : ElemType) (k : Fin 8) (u v : Bool), p ≠ 0 →
    let o := { valueOp (Fin.ofNat 256 (8 + p.val)) [(a, u), (b, v)] k 1 false with cls := .predicate }
    ExecuteReady s o →
      (∀ (x : FCond) (f : Num.Fmt), floatOk s.laneBits t = true → t.fmt? = some f →
        let r (l : Nat) := Num.fcmp f (landDue s).ctx.ftz x (o.lane s 0 l) (o.lane s 1 l)
        PIssues (.fcmp x p a b t k u v) s o (fun l => (r l).1) (o.flagsOf s (fun l => (r l).2))) ∧
      (intOk s.laneBits t = true →
        let x (l : Nat) := t.toInt (o.lane s 0 l)
        let y (l : Nat) := t.toInt (o.lane s 1 l)
        PIssues (.vcmp .eq p a b t k u v) s o (fun l => decide (x l = y l)) .none ∧
        PIssues (.vcmp .ne p a b t k u v) s o (fun l => decide (x l ≠ y l)) .none ∧
        PIssues (.vcmp .lt p a b t k u v) s o (fun l => decide (x l < y l)) .none ∧
        PIssues (.vcmp .le p a b t k u v) s o (fun l => decide (x l ≤ y l)) .none)

/-- R169, R170: two-source integer forms on lanes read as T, wrapped or saturated to T's width, higher bits zero; shifts count by the
low n bits of b, and no count is invalid. -/
def Obligations.IntegerArithmetic : Prop :=
  ∀ (s : State) (d : Fin 256) (a b : Fin 16) (t : ElemType) (k : Fin 8) (u v : Bool), intOk s.laneBits t = true →
    let o := valueOp d [(a, u), (b, v)] k 1 false
    let n := t.width
    let wrap (x : Int) : Nat := (x % 2 ^ n).toNat
    let sat (x : Int) : Nat := wrap (max t.minValue (min t.maxValue x))
    let gives (i : Instr) (op : Int → Int → Nat) : Prop := XIssues i s o (fun l => op (t.toInt (o.lane s 0 l)) (t.toInt (o.lane s 1 l))) .none
    ExecuteReady s o →
      gives (.vadd d a b t k u v) (fun x y => wrap (x + y)) ∧ gives (.vsub d a b t k u v) (fun x y => wrap (x - y)) ∧
      gives (.vadds d a b t k u v) (fun x y => sat (x + y)) ∧ gives (.vsubs d a b t k u v) (fun x y => sat (x - y)) ∧
      gives (.vmul d a b t k u v) (fun x y => wrap (x * y)) ∧ gives (.vmulh d a b t k u v) (fun x y => wrap (x * y / 2 ^ n)) ∧
      gives (.vmin d a b t k u v) (fun x y => wrap (min x y)) ∧ gives (.vmax d a b t k u v) (fun x y => wrap (max x y)) ∧
      gives (.vand d a b t k u v) (fun x y => wrap x &&& wrap y) ∧ gives (.vor d a b t k u v) (fun x y => wrap x ||| wrap y) ∧
      gives (.vxor d a b t k u v) (fun x y => wrap x ^^^ wrap y) ∧
      gives (.vshl d a b t k u v) (fun x y => if n ≤ wrap y then 0 else wrap (x * 2 ^ wrap y)) ∧
      gives (.vshr d a b t k u v) (fun x y => wrap (x / 2 ^ wrap y)) ∧
      gives (.vshls d a b t k u v) (fun x y => sat (x * 2 ^ wrap y))

/-- R172: the integer unary group. VCLZ is given by its bounds. -/
def Obligations.IntegerUnary : Prop :=
  ∀ (s : State) (d : Fin 256) (a : Fin 16) (t : ElemType) (k : Fin 8) (u : Bool), intOk s.laneBits t = true →
    let o := valueOp d [(a, u)] k 1 false
    let n := t.width
    let x (l : Nat) : Int := t.toInt (o.lane s 0 l)
    let bits (l : Nat) : Nat := (x l % 2 ^ n).toNat
    let wrap (x : Int) : Nat := (x % 2 ^ n).toNat
    let sat (x : Int) : Nat := wrap (max t.minValue (min t.maxValue x))
    let gives (i : Instr) (val : Nat → Nat) : Prop := XIssues i s o val .none
    ExecuteReady s o →
      gives (.vabs d a t k u) (fun l => wrap (x l).natAbs) ∧ gives (.vabss d a t k u) (fun l => sat (x l).natAbs) ∧
      gives (.vneg d a t k u) (fun l => wrap (-x l)) ∧ gives (.vnegs d a t k u) (fun l => sat (-x l)) ∧
      gives (.vnot d a t k u) (fun l => 2 ^ n - 1 - bits l) ∧
      gives (.vpopc d a t k u) (fun l => (List.range n).countP (fun i => (bits l).testBit i)) ∧
      ∃ z : Nat → Nat, gives (.vclz d a t k u) z ∧ ∀ l, z l ≤ n ∧ bits l < 2 ^ (n - z l) ∧ (z l < n → 2 ^ (n - 1 - z l) ≤ bits l)

/-- R173 with R39: CVT and CVTS convert each active lane in the mode the major names; SAT clamps an integer narrowing, leaves a widening as it
is, and forbids a float result. A finite value is rounded once to its result format (R34), or to an integer that is then clamped to its type's range, with NV
where that changes it; a NaN gives 0 and an infinity the nearer end, with NV. -/
def Obligations.Conversions : Prop :=
  (∀ (f g : Num.Fmt) (m : RoundMode) (x : Nat) (n lo hi : Int), f ∈ [Num.f32, Num.bf16, Num.f16] → g ∈ [Num.f32, Num.bf16, Num.f16] → lo ≤ 0 → 0 ≤ hi →
    (n ≠ 0 → Num.Rounded g m g.least (n * 2 ^ (-g.least).toNat) (Num.convIF g m false n).1) ∧
    (∀ v, Num.finiteAt f (min f.least g.least) x = some v → v ≠ 0 → Num.Rounded g m (min f.least g.least) v (Num.convFF f g m false x).1) ∧
    (let r := Num.convFI f m false lo hi x
     ((Num.unpack f x).isNaN = true → r.1 = 0 ∧ r.2.nv = true) ∧
     (∀ neg, Num.unpack f x = .inf neg → r.1 = (if neg then lo else hi) ∧ r.2.nv = true) ∧
     ∀ v, Num.finiteAt f f.least x = some v → ∃ w : Int,
       let one : Int := 2 ^ (-f.least).toNat
       (match m with
        | .rdn => w * one ≤ v ∧ v < (w + 1) * one
        | .rup => (w - 1) * one < v ∧ v ≤ w * one
        | .rtz => (w * one).natAbs ≤ v.natAbs ∧ v.natAbs < (w * one).natAbs + one ∧ 0 ≤ w * v
        | .rne => 2 * (v - w * one).natAbs ≤ one ∧ (2 * (v - w * one).natAbs = one → w % 2 = 0)) ∧
       r.1 = max lo (min hi w) ∧ (r.2.nv = true ↔ w < lo ∨ hi < w))) ∧
  ∀ (s : State) (d : Fin 256) (a : Fin 16) (src dst : ElemType) (k : Fin 8) (u : Bool),
    anyOk s.laneBits src = true → anyOk s.laneBits dst = true →
    let o := valueOp d [(a, u)] k 3 false
    let ftz := (landDue s).ctx.ftz
    let one (m : RoundMode) (sat : Bool) (x : Nat) : Nat × Num.Flags :=
      match src.fmt?, dst.fmt? with
      | some f, some g => Num.convFF f g m ftz x
      | some f, none => ((((Num.convFI f m ftz dst.minValue dst.maxValue x).1) % 2 ^ dst.width).toNat,
          (Num.convFI f m ftz dst.minValue dst.maxValue x).2)
      | none, some g => Num.convIF g m ftz (src.toInt x)
      | none, none => if sat ∧ dst.width ≤ src.width then (((max dst.minValue (min dst.maxValue (src.toInt x))) % 2 ^ dst.width).toNat, .none)
          else ((src.toInt x % 2 ^ dst.width).toNat, .none)
    let gives (i : Instr) (m : RoundMode) (sat : Bool) : Prop :=
      XIssues i s o (fun l => (one m sat (o.lane s 0 l)).1) (o.flagsOf s (fun l => (one m sat (o.lane s 0 l)).2))
    ExecuteReady s o →
      gives (.cvtRne d a src dst k u) .rne false ∧ gives (.cvtRtz d a src dst k u) .rtz false ∧
      gives (.cvtRup d a src dst k u) .rup false ∧ gives (.cvtRdn d a src dst k u) .rdn false ∧
      (dst.fmt? = none →
        gives (.cvtsRne d a src dst k u) .rne true ∧ gives (.cvtsRtz d a src dst k u) .rtz true ∧
        gives (.cvtsRup d a src dst k u) .rup true ∧ gives (.cvtsRdn d a src dst k u) .rdn true) ∧
      (dst.fmt? ≠ none → ∀ i ∈ [Instr.cvtsRne d a src dst k u, .cvtsRtz d a src dst k u, .cvtsRup d a src dst k u, .cvtsRdn d a src dst k u],
        exec i s = .next (trapSync s .execute .illegal))


/-- R175 to R177: QPACK writes each active lane's code and pushes its blocks' scales to vq, two to an entry; QUNPACK pops its scales
from dq and gives each active lane the product of its code's value and its block's scale, rounded once; a zero product has the exclusive or of the
signs (the model's choice, assumption 105). -/
def Obligations.Packing : Prop :=
  ∀ (s : State) (d : Fin 256) (a : Fin 16) (p : Fin 8) (b : Fin 4) (f : Bool) (k : Fin 8) (u : Bool), packIllegal s p b f = false →
    let fmt := packFmt s.laneBits f
    let ftz := (landDue s).ctx.ftz
    let len := blockLanes s.lanes b.val
    let entries := scaleEntries s.lanes b.val
    (let o := { valueOp d [(a, u)] k 3 false with cls := .packed, vqExtra := entries }
     let x (l : Nat) := Num.load ftz fmt (o.lane s 0 l)
     let amax (j : Nat) := ((List.range len).map (j * len + ·)).foldl
       (fun m l => if bitOf (o.mask s) l && !(x l).isNaN then largerMag m (x l) else m) (Num.Val.num false 0 0)
     let slot (j : Nat) := if j * len < s.lanes then blockScale (amax j) else 0
     let code (l : Nat) := packCode (x l) (Num.scaleValue (if b.val = 0 then 0x3F8000 else slot (l / len))) (p.val + 1)
     ExecuteReady s o →
       ∃ t, exec (.qpack d a p b f k u) s = .next t ∧ o.leaves s t ∧
         (∃ y ∈ t.ctx.latches, o.heads (o.flagsOf s (fun l => (code l).2)) y ∧ o.holdsLanes s (fun l => ((code l).1 % 256).toNat) y) ∧
         ∀ e, e < entries → ∃ y ∈ t.ctx.latches, y.dest = 0x11 ∧ y.rem = 2 ∧ y.flags = 0 ∧
           y.data = BitVec.ofNat 1024 (slot (2 * e) + slot (2 * e + 1) * 2 ^ 32)) ∧
    (let o := { valueOp d [(a, u)] k 3 false with cls := .packed, dqPops := entries }
     let scale (l : Nat) : Num.Val := if b.val = 0 then .num false 1 0
       else Num.scaleValue ((s.ctx.dq.getD (l / len / 2) 0).toNat / 2 ^ (32 * (l / len % 2)) % 2 ^ 24)
     let r (m : RoundMode) (l : Nat) :=
       let q := Num.nbiValue (Num.codeOf (o.lane s 0 l % 256)) (p.val + 1)
       Num.store fmt m ftz [] ((Num.Val.num (q < 0) q.natAbs 0).mul (scale l))
     (a.val = 9 → b.val = 0) → ExecuteReady s o →
       ∀ m : RoundMode, XIssues (.qunpack d a p b m f k u) s o (fun l => (r m l).1) (o.flagsOf s (fun l => (r m l).2)))

/-- R178, R179: the predicate group combines predicates lane by lane; KPOP takes the low bits of the oldest cq entry; SEL writes every
lane from one source or the other. -/
def Obligations.PredicatesAndSelection : Prop :=
  (∀ (s : State) (d : Fin 256) (a b k : Fin 8),
    let o := { valueOp d [] k 1 false with cls := .predicate }
    let bit (r : Fin 8) (l : Nat) : Bool := bitOf ((landDue s).ctx.getK s.lanes r) l
    (ExecuteReady s o →
      PIssues (.kand d a b k) s o (fun l => bit a l && bit b l) .none ∧ PIssues (.kor d a b k) s o (fun l => bit a l || bit b l) .none ∧
      PIssues (.kxor d a b k) s o (fun l => bit a l != bit b l) .none ∧ PIssues (.kandn d a b k) s o (fun l => bit a l && !bit b l) .none ∧
      PIssues (.knot d a k) s o (fun l => !bit a l) .none ∧ PIssues (.kmov d a k) s o (bit a) .none) ∧
    (ExecuteReady s { o with cqPops := 1 } →
      PIssues (.kpop d k) s { o with cqPops := 1 } (fun l => bitOf (s.ctx.cq.headD 0).toNat l) .none)) ∧
  (∀ (s : State) (d : Fin 256) (a b : Fin 16) (k : Fin 8) (u v : Bool),
    let o := { valueOp d [(a, u), (b, v)] k 1 false with whole := true }
    ExecuteReady s o →
      XIssues (.selExecute d a b k u v) s o (fun l => if bitOf (o.mask s) l then o.lane s 0 l else o.lane s 1 l) .none)

/-- R44, R180: a reduction leaves in lane 0 what the pairwise tree over the predicate's lanes gives, zero for an empty tree, and zero in
every other lane; a type of the wrong sort is ILLEGAL. -/
def Obligations.Reductions : Prop :=
  ∀ (s : State) (d : Fin 256) (a : Fin 16) (t : ElemType) (k : Fin 8) (u : Bool),
    let o := { valueOp d [(a, u)] k 6 false with whole := true }
    let entry (l : Nat) := if bitOf (o.mask s) l then some (o.lane s 0 l % 2 ^ t.width) else none
    let wrap (x : Int) : Nat := (x % 2 ^ t.width).toNat
    let gives (i : Instr) (op : Nat → Nat → Nat × Num.Flags) : Prop :=
      let r := tree op (Nat.log2 s.lanes) entry
      XIssues i s o (fun l => if l = 0 then r.1.getD 0 % 2 ^ t.width else 0) r.2
    let illegal (i : Instr) : Prop := exec i s = .next (trapSync s .execute .illegal)
    ExecuteReady s o →
      (∀ f : Num.Fmt, floatOk s.laneBits t = true → t.fmt? = some f →
        gives (.rsum d a t k u) (Num.fadd f (landDue s).ctx.rm (landDue s).ctx.ftz) ∧
        gives (.rmax d a t k u) (Num.fminmax f (landDue s).ctx.ftz true) ∧ gives (.rmin d a t k u) (Num.fminmax f (landDue s).ctx.ftz false) ∧
        illegal (.risum d a t k u) ∧ illegal (.risums d a t k u)) ∧
      (intOk s.laneBits t = true →
        gives (.rmax d a t k u) (fun x y => (if t.toInt x < t.toInt y then y else x, .none)) ∧
        gives (.rmin d a t k u) (fun x y => (if t.toInt x < t.toInt y then x else y, .none)) ∧
        gives (.risum d a t k u) (fun x y => (wrap (t.toInt x + t.toInt y), .none)) ∧
        gives (.risums d a t k u) (fun x y => (wrap (max t.minValue (min t.maxValue (t.toInt x + t.toInt y))), .none)) ∧
        illegal (.rsum d a t k u))

/-- R181 to R184: PERM, ROT and SLIDE take the lanes their tables name, SHUF the elements of its pattern. -/
def Obligations.Permutes : Prop :=
  ∀ (s : State) (d : Fin 256) (a b : Fin 16) (k : Fin 8) (u v : Bool),
    let one := valueOp d [(a, u)] k 2 false
    let two := valueOp d [(a, u), (b, v)] k 2 false
    (ExecuteReady s two →
      (∀ t : ElemType, plainOk s.laneBits t = true → XIssues (.perm d a b t k u v) s two (fun l =>
        let i := two.lane s 1 l % 2 ^ t.width
        if i < s.lanes then two.lane s 0 i else 0) .none) ∧
      ∀ n : Fin 16, XIssues (.slide d a b n k u v) s two
        (fun l => if l + n.val < s.lanes then two.lane s 0 (l + n.val) else two.lane s 1 (l + n.val - s.lanes)) .none) ∧
    (ExecuteReady s one →
      (∀ n : Fin 256, n.val < s.lanes → XIssues (.rot d a n k u) s one (fun l => one.lane s 0 ((l + n.val) % s.lanes)) .none) ∧
      ∀ (p : ShufPattern) (t : ElemType), plainOk s.laneBits t = true →
        let n := s.rowBits / t.width
        ∃ row, (∀ i, i < n → laneOf row t.width i = laneOf (readSrc (landDue s) ⟨a, u⟩) t.width (shufIndex p n i)) ∧
          XIssues (.shuf d a p t k u) s one (laneOf row s.laneBits) .none)


/-! ## Memory -/

/-- R252, R249: an aligned scalar load or store issues its access at gb plus the scaled offset, with the register's value for a store;
a misaligned one traps with ALIGN and touches nothing. A load waits for the register of its address alone: what earlier accesses still owe its
destination is superseded (R131). -/
def Obligations.ScalarAccesses : Prop :=
  ∀ (s : State) (d b : Fin 32) (c : Fin 16) (u : Fin 8) (o : BitVec 8),
    let ea (n : Nat) : Word := BitVec.ofInt 64 ((s.ctx.getG b).toInt + o.toInt * n)
    let misaligned (i : Instr) (gs : List (Fin 32)) (n : Nat) : Prop :=
      ControlReady s gs [] → (ea n).toNat % n ≠ 0 → exec i s = .next (trapSync s .control .align)
    let loads (i : Instr) (n : Nat) (sg : Bool) : Prop :=
      let a := newAccess s (.load n sg) (ea n) 0 0 ⟨0, 0, 0, 0⟩ d c u
      (AccessReady s [b] 0 a → (ea n).toNat % n = 0 → Issues i s (s.mod (Context.supersedeBy a)) a) ∧ misaligned i [b] n
    let stores (i : Instr) (n : Nat) : Prop :=
      let a := newAccess s (.store n) (ea n) (s.ctx.getG d) 0 ⟨0, 0, 0, 0⟩ 0 c u
      (AccessReady s [d, b] 0 a → (ea n).toNat % n = 0 → Issues i s (s.mod Context.markEffect) a) ∧ misaligned i [d, b] n
    loads (.ldZ8 d b c u o) 1 false ∧ loads (.ldZ16 d b c u o) 2 false ∧ loads (.ldZ32 d b c u o) 4 false ∧
    loads (.ldZ64 d b c u o) 8 false ∧ loads (.ldS8 d b c u o) 1 true ∧ loads (.ldS16 d b c u o) 2 true ∧
    loads (.ldS32 d b c u o) 4 true ∧ stores (.stZ8 d b c u o) 1 ∧ stores (.stZ16 d b c u o) 2 ∧ stores (.stZ32 d b c u o) 4 ∧
    stores (.stZ64 d b c u o) 8

/-- R254 to R259, R71: rows, gathers, scatters, reduction-adds and strided rows issue with their lanes, and what fills lq reserves its entries
first. An address that is misaligned traps with ALIGN, a page held at issue that breaks the access with SHAPE, as an f32 page does in wide16; a
record beyond its limits with SHAPE, behind ALIGN; a type that VRADD does not take with ILLEGAL. -/
def Obligations.VectorAccesses : Prop :=
  ∀ (s : State) (m b : Fin 32) (c : Fin 16) (u : Fin 8),
    let base := s.ctx.getG b
    let traps (i : Instr) (gs : List (Fin 32)) (x : Cause) : Prop := ControlReady s gs [] → exec i s = .next (trapSync s .control x)
    let loads := s.mod (Context.withRows 1)
    let stores := s.mod Context.markEffect
    let access (k : AccKind) (ea : Word) : Access :=
      { newAccess s k ea (laneMask s m) 0 ⟨0, 0, 0, 0⟩ 0 c u with allLanes := m.val == 0 }
    let goes (i : Instr) (v : State) (n align : Nat) (a : Access) : Prop :=
      if a.ea.toNat % align = 0 then (AccessReady s [m, b] n a → Issues i s v a) ∧ (shapeAtIssue s a = true → traps i [m, b] .shape)
      else traps i [m, b] .align
    (∀ o : BitVec 8,
      let ea : Word := BitVec.ofInt 64 (base.toInt + o.toInt * s.rowBytes)
      goes (.vld m b c u o) loads 1 16 (access .vload ea) ∧ goes (.vst m b c u o) stores 0 16 (access .vstore ea) ∧
      ∀ p, held s s.ctx.info.asid ea.toNat = some p → p.fmt = .f32 → s.laneBits = 16 → m = 0 → ea.toNat % 16 = 0 →
        traps (.vld m b c u o) [m, b] .shape ∧ traps (.vst m b c u o) [m, b] .shape) ∧
    goes (.vgather m b c u) loads 1 4 (access .gather base) ∧ goes (.vscatter m b c u) stores 0 4 (access .scatter base) ∧
    (∀ t : ElemType,
      if (if s.laneBits = 32 then t ∈ [ElemType.s32, .f32] else t ∈ [ElemType.s16, .bf16, .f16]) then
        goes (.vradd m b c u t) stores 0 4 (access (.radd t) base)
      else traps (.vradd m b c u t) [] .illegal) ∧
    (∀ (r x : ShapeRec), substRecord s.ctx r = some x →
      let gs := b :: recordRegs r
      let n := x.rows * ((x.cols + s.lanes - 1) / s.lanes)
      let a (k : AccKind) := newAccess s k base 0 0 x 0 (Fin.ofNat 16 x.aux) (Fin.ofNat 8 (x.aux / 16))
      let each (y : Cause) : Prop := traps (.vlds b r) gs y ∧ traps (.vsts b r) gs y
      if base.toNat % x.etype.bytes = 0 ∧ x.stride % x.etype.bytes = 0 then
        if recordOk x = true ∧ x.blk = 0 ∧ x.aux < 2 ^ 7 ∧ x.etype.width ≤ s.laneBits ∧ n ≤ 16 then
          (AccessReady s gs n (a .vloads) → Issues (.vlds b r) s (s.mod (Context.withRows n)) (a .vloads)) ∧
          (AccessReady s gs 0 (a .vstores) → Issues (.vsts b r) s stores (a .vstores)) ∧
          (shapeAtIssue s (a .vloads) = true → traps (.vlds b r) gs .shape) ∧ (shapeAtIssue s (a .vstores) = true → traps (.vsts b r) gs .shape)
        else each .shape
      else each .align)

/-- R260, R261, R265, R338: atomics, cache operations and ROI.RD issue their accesses at level 0; a 64-bit FADD is ILLEGAL, a misaligned
address ALIGN. -/
def Obligations.AtomicAndCacheAccesses : Prop :=
  ∀ (s : State) (d a b : Fin 32) (c : Fin 16) (sc : Scope),
    let ea := s.ctx.getG a
    let x (k : AccKind) (v1 v2 : Word) := newAccess s k ea v1 v2 ⟨0, 0, 0, 0⟩ d c 0
    let issues (i : Instr) (gs : List (Fin 32)) (n : Nat) (y : Access) : Prop :=
      (AccessReady s gs 0 y → ea.toNat % n = 0 → Issues i s (s.mod (fun k => k.markEffect.supersedeBy y)) y) ∧
      (ControlReady s gs [] → ea.toNat % n ≠ 0 → exec i s = .next (trapSync s .control .align))
    (∀ o : AmoOp, issues (.amoZ32 d a b c sc o) [a, b] 4 (x (.amo 4 o) (s.ctx.getG b) 0) ∧
      (o ≠ .fadd → issues (.amoZ64 d a b c sc o) [a, b] 8 (x (.amo 8 o) (s.ctx.getG b) 0))) ∧
    (ControlReady s [] [] → exec (.amoZ64 d a b c sc .fadd) s = .next (trapSync s .control .illegal)) ∧
    issues (.casZ32 d a b c sc) [d, a, b] 4 (x (.cas 4) (s.ctx.getG b) (s.ctx.getG d)) ∧
    issues (.casZ64 d a b c sc) [d, a, b] 8 (x (.cas 8) (s.ctx.getG b) (s.ctx.getG d)) ∧
    (let y (n : Nat) := newAccess s (.cacheOp n) ea (s.ctx.getG b) 0 ⟨0, 0, 0, 0⟩ 0 c 0
     ∀ p ∈ [(Instr.cflush a b c, 2), (.cinv a b c, 3), (.swb a b c, 5)],
       AccessReady s [a, b] 0 (y p.2) → Issues p.1 s (s.mod Context.markEffect) (y p.2)) ∧
    (let y := newAccess s .roi ea (s.ctx.getG b) 0 ⟨0, 0, 0, 0⟩ d 0 0
     (AccessReady s [a, b] 0 y → ea.toNat % 128 = 0 → Issues (.roiRd d a b) s (s.mod (Context.supersedeBy y)) y) ∧
     (ControlReady s [a, b] [] → ea.toNat % 128 ≠ 0 → exec (.roiRd d a b) s = .next (trapSync s .control .align)))

/-- R4: memory reads back what was written, byte by byte and as little-endian numbers, and every other byte is as before; memory keeps
its canonical form. -/
def Obligations.MemoryReadsBack : Prop :=
  ∀ (m : Memory) (a n v x : Nat), m.wf = true →
    (writeLE m a n v).wf = true ∧ readLE (writeLE m a n v) a n = v % 2 ^ (8 * n) ∧
    (x < a ∨ a + n ≤ x → readByte (writeLE m a n v) x = readByte m x) ∧
    ∀ i, i < n → (readByte (writeLE m a n v) (a + i)).toNat = v / 2 ^ (8 * i) % 256

/-- R237, R252, R254, R256 to R261: performing one element of an access of a raw page in DRAM. A load keeps the state and takes the bytes; a store
writes its bytes, those of a row its lane; an atomic takes the old value and writes the operation's result, a lane of VRADD the sum in its type; a
compare-and-swap writes only on a match. Every byte of memory outside the element's own is unchanged, and besides memory only the record of written
pages of a checkpoint range moves (R405), and poison that is written over (R403). -/
def Obligations.ElementsPerform : Prop :=
  ∀ (s : State) (a : Access) (e : Elem) (pa : Nat), s.mem.wf = true → e.attr.fmt = .raw → placeOf s e.attr e.va = .dram pa →
    e.va % 2 ^ e.attr.sizeLog + e.n ≤ 2 ^ e.attr.sizeLog →
    let old := readLE s.mem pa e.n
    let t := (performElem (s, a) e).1
    let b := (performElem (s, a) e).2
    let now := readLE t.mem pa e.n
    let stores (v : Nat) : Prop := now = v % 2 ^ (8 * e.n)
    let lane (j : Nat) := laneOf ((a.rows.drop j).headD 0) a.laneWidth e.lane
    t.mem.wf = true ∧ t = { s with ctx := t.ctx, mem := t.mem, poison := t.poison } ∧
    t.ctx = { s.ctx with region := { s.ctx.region with marked := t.ctx.region.marked } } ∧ (∀ w ∈ t.poison, w ∈ s.poison) ∧
    (∀ x, x < pa ∨ pa + e.n ≤ x → readByte t.mem x = readByte s.mem x) ∧
    (∀ n sg, a.kind = .load n sg → t = s ∧ b.data = [old]) ∧
    (a.kind = .vload ∨ a.kind = .gather ∨ a.kind = .vloads → t = s ∧ b.data.length = a.data.length ∧
      ∀ i, b.data[i]? = (a.data[i]?).map (fun v => if i = e.row then v + old * 2 ^ (a.laneWidth * e.lane) else v)) ∧
    (∀ n, a.kind = .store n → stores a.v1.toNat) ∧
    (a.kind = .vstore → stores (lane 0)) ∧ (a.kind = .scatter → stores (lane 1)) ∧ (a.kind = .vstores → stores (lane e.row)) ∧
    (∀ y : ElemType, a.kind = .radd y → y.width = 8 * e.n → match y.fmt? with
      | some f => stores (Num.fadd f .rne false old (lane 1 % 2 ^ (8 * e.n))).1
      | none => stores (old + lane 1)) ∧
    (∀ n, a.kind = .cas n → e.n = n → b.data = [old] ∧ now = if old = a.v2.toNat % 2 ^ (8 * n) then a.v1.toNat % 2 ^ (8 * n) else old) ∧
    (∀ n, e.n = n →
      let w := 2 ^ (8 * n)
      let x := a.v1.toNat % w
      let signed (y : Nat) : Int := if y < w / 2 then y else (y : Int) - w
      let gives (o : AmoOp) (v : Nat) : Prop := 0 < n → a.kind = .amo n o → b.data = [old] ∧ now = v
      gives .swap x ∧ gives .add ((old + x) % w) ∧ gives .and (old &&& x) ∧ gives .or (old ||| x) ∧ gives .xor (old ^^^ x) ∧
      gives .min (if signed old ≤ signed x then old else x) ∧ gives .max (if signed x ≤ signed old then old else x) ∧
      gives .minu (Nat.min old x) ∧ gives .maxu (Nat.max old x) ∧
      (n = 4 → gives .fadd ((Num.fadd Num.f32 .rne false old x).1 % w)))

/-- LOAD_REPLY and WRITE_ACKNOWLEDGMENT (R131, R252, R253): an access whose every part has returned leaves; a load's data reaches its register, zero- or
sign-extended, an atomic's old value reaches its own, and the rows of a vector load reach their entries of lq. -/
def Obligations.AccessesComplete : Prop :=
  ∀ (s : State) (n : Nat) (a : Access), a ∈ s.ctx.accesses → (∀ b ∈ s.ctx.accesses, b.id = a.id → b = a) → a.stage = .planned →
    a.kind.isCache = false → (∀ q ∈ a.parts, q.stage = .returned) → outlived s = false →
    let left (v : Context → Context) (i : Instr) : Prop := ∃ t, exec i s = .next t ∧
      t = { s with ctx := t.ctx, arbiters := t.arbiters, nextPacket := t.nextPacket } ∧
      t.ctx.unsent = (v { s.ctx with accesses := s.ctx.accesses.filter (fun b => b.id != a.id) }).unsent
    ((s.ctx.accesses.filter (fun b => b.kind.isLoad))[n]? = some a →
      (∀ k sg, 0 < k → a.kind = .load k sg →
        let v := a.data.headD 0
        left (Context.setG a.dest (if sg ∧ 2 ^ (8 * k - 1) ≤ v % 2 ^ (8 * k) then BitVec.ofInt 64 (v % 2 ^ (8 * k) - 2 ^ (8 * k) : Int)
          else if sg then BitVec.ofNat 64 (v % 2 ^ (8 * k)) else BitVec.ofNat 64 v)) (.loadReply n)) ∧
      (∀ k o, a.kind = .amo k o ∨ a.kind = .cas k → left (Context.setG a.dest (BitVec.ofNat 64 (a.data.headD 0))) (.loadReply n)) ∧
      (a.kind = .vload ∨ a.kind = .gather ∨ a.kind = .vloads →
        left (fun c => { c with lq := fillLq a.qi a.data c.lq }) (.loadReply n))) ∧
    ((s.ctx.accesses.filter (fun b => b.kind.isStore))[n]? = some a → left id (.writeAcknowledgment n))

/-- R227, R265, R266: PIN takes its lines in order up to the first it cannot hold, and answers in gd how many it holds and why it stopped; UNPIN
lets go the lines its space pinned; STOUCH fills lines into the core's own stash, and in a Gusset nothing. Each runs whenever its registers are
ready. PIN and UNPIN ask the home slice of each line with entry 0 of SLACKTAB: at 0 each request counts in LATE, at 4,095 none does (R287, R293).
Where level 0 raises no exhausted-slack event, no register but gd and LATE changes, and memory only in the four bytes of the space's PINCNT (R217); the
general registers stay in any case. Where every line's translation is held, the
lines that a space has pinned are given one by one: those counted are pinned by the space, each other line is as it was, and the line after them
is another space's (3), meets the quota (2) or finds its set full (1), a set without a way that takes lines included (the model's choice, assumption
92). A single touched line stands in the stash, owned under EXCL, or is dropped, which a free value decides. -/
def Obligations.PinsComplete : Prop :=
  (∀ (s : State) (d a b : Fin 32) (e : Bool), ControlReady s [a, b] [] → s.mem.wf = true →
    let lines := min (s.ctx.getG b).toNat (2 ^ 20)
    let count := s.hk.asdbase + 32 * s.ctx.info.asid.toNat + 12
    let frame (u : State) : Prop := u.ctx.g = s.ctx.g ∧ u.ctx.b = s.ctx.b ∧ u.ctx.c = s.ctx.c ∧ u.ctx.k = s.ctx.k ∧ u.ctx.v = s.ctx.v ∧ u.ctx.m = s.ctx.m ∧
      (countsHere s = true → slackEntry s.ctx 0 = 4095 ∨ bitOf (s.ctx.slacktab[2]).toNat 0 = false →
        u.ctx = { s.ctx with late := u.ctx.late } ∧ (slackEntry s.ctx 0 = 4095 → u.ctx.late = s.ctx.late) ∧
        u.others = s.others ∧ u.hk = s.hk ∧ u.streams = s.streams ∧ u.slots = s.slots ∧
        ∀ x, x < count ∨ count + 4 ≤ x → readByte u.mem x = readByte s.mem x)
    (∃ (u : State) (held status : Nat), Completes (.pin d a b) .control s
        (u.mod (fun c => (c.setG d (BitVec.ofNat 64 (held * 2 ^ 32 + status))).markEffect)) ∧
      frame u ∧ held ≤ lines ∧ status ≤ 3 ∧ (status = 0 ↔ held = lines)) ∧
    (∃ u : State, Completes (.unpin a b) .control s (u.mod Context.markEffect) ∧ frame u) ∧
    (∃ u : State, Completes (.stouch a b e) .control s u ∧ u.ctx = s.ctx ∧ u.others = s.others ∧ u.hk = s.hk ∧ u.streams = s.streams ∧
      u.slots = s.slots ∧ u.mem = s.mem ∧ (128 ≤ s.self → u = s))) ∧
  ∀ (s : State) (d a b : Fin 32) (e : Bool) (l : Nat → Nat), ControlReady s [a, b] [] →
    let asid := s.ctx.info.asid
    let lines := min (s.ctx.getG b).toNat (2 ^ 20)
    let va (i : Nat) := ((s.ctx.getG a).toNat / 128 * 128 + 128 * i) % 2 ^ 64
    (∀ k ∈ s.slices, (k.lines.map SliceLine.line).Nodup) →
    (∀ i, i < lines → (held s asid (va i)).isSome = true ∧ plainLine s (va i) = some (l i)) →
    let late (k : Nat) (c : Context) : Prop := c = { s.ctx with late := c.late } ∧ (slackEntry s.ctx 0 = 4095 → c.late = s.ctx.late) ∧
      (slackEntry s.ctx 0 = 0 → 0 < k → c.late.toNat = min (2 ^ 32 - 1) (s.ctx.late.toNat % 2 ^ 32 + k) + 2 ^ 32 * (bitsOf s.ctx.late.toNat 39 32 ||| 1))
    (countsHere s = true → slackEntry s.ctx 0 = 4095 ∨ bitOf (s.ctx.slacktab[2]).toNat 0 = false →
     ∃ (u : State) (n status : Nat), u.mem = s.mem ∧ late (min (n + 1) lines) u.ctx ∧
      Completes (.pin d a b) .control s
        ((writePincnt u asid).mod (fun c => (c.setG d (BitVec.ofNat 64 (n * 2 ^ 32 + status))).markEffect)) ∧
      (∀ i, i < n → pinOwner u (l i) = some asid) ∧ (∀ x, (∀ i, i < n → x ≠ l i) → pinOwner u x = pinOwner s x) ∧
      ((n = lines ∧ status = 0) ∨ (n < lines ∧
        ((status = 3 ∧ pinOwner u (l n) ≠ none ∧ pinOwner u (l n) ≠ some asid) ∨
         (pinOwner u (l n) = none ∧
          if (descOf s asid).pinq ≤ pinCount u asid then status = 2
          else status = 1 ∧ (pinLimit u (l n) ≤ pinnedWays u (l n) ∨ wayOpen u (l n) = false)))))) ∧
    (countsHere s = true → slackEntry s.ctx 0 = 4095 ∨ bitOf (s.ctx.slacktab[2]).toNat 0 = false →
     ∃ u : State, u.mem = s.mem ∧ late lines u.ctx ∧ Completes (.unpin a b) .control s ((writePincnt u asid).mod Context.markEffect) ∧
      (∀ i, i < lines → pinOwner u (l i) ≠ some asid) ∧
      ∀ x, (∀ i, i < lines → x ≠ l i) ∨ pinOwner s x ≠ some asid → pinOwner u x = pinOwner s x) ∧
    (lines = 1 → s.self < 128 → wayOpen s (l 0) = true → stashDirty s (l 0) = 0 → (s.coreState s.self).stash.length < 8 →
      ∃ u : State, Completes (.stouch a b e) .control s u ∧
        if Config.coin s.draws = true then
          ∃ x ∈ (u.coreState s.self).stash, x.line = l 0 ∧ x.valid = 15 ∧ (e = true → x.owned = true)
        else u = s.drawn)


/-! ## Synchronisation -/

/-- R101, R359, R360: FLAG.ADD saturates; FLAG.WAIT and FLAG.WAIT.SUB go on once the flag has reached the threshold, and wait until then;
an index at or above NFLAG is ILLEGAL; WAIT goes on once each class has no more than its count outstanding. -/
def Obligations.FlagsAndWaits : Prop :=
  ∀ (s : State) (d a c l : Fin 32) (n : Fin 64), ControlReady s [a] [] →
    let f := (s.ctx.f[n]).toNat
    let least := min (s.ctx.getG a).toNat (2 ^ 32 - 1)
    let seen (x : Context) : Context := x.setG d (BitVec.ofNat 64 f)
    (n.val < s.ctx.info.header.nflag →
      Completes (.flagAdd a n) .control s
        (s.mod (fun x => { x with f := x.f.set n (BitVec.ofNat 32 (min (2 ^ 32 - 1) (f + (s.ctx.getG a).toNat))) })) ∧
      Completes (.flagRd d n) .control s (s.mod seen) ∧
      (least ≤ f → Completes (.flagWait d a n) .control s (s.mod seen) ∧
        Completes (.flagWaitSub d a n) .control s (s.mod (fun x => { seen x with f := x.f.set n (BitVec.ofNat 32 (f - least)) }))) ∧
      (f < least → exec (.flagWait d a n) s = .next s ∧ exec (.flagWaitSub d a n) s = .next s)) ∧
    (s.ctx.info.header.nflag ≤ n.val →
      ∀ i ∈ [Instr.flagAdd a n, .flagRd d n, .flagWait d a n, .flagWaitSub d a n], exec i s = .next (trapSync s .control .illegal)) ∧
    (let loads := s.ctx.accesses.countP (fun x => x.kind.isLoad)
     let stores := s.ctx.accesses.countP (fun x => x.kind.isStore && !x.performed)
     let copies := s.ctx.ops.countP (fun o => o.kind.isCopy)
     let tiles := s.ctx.ops.countP (fun o => o.kind.isMatrix || o.kind == .commit)
     if loads ≤ l.val ∧ stores ≤ c.val ∧ copies ≤ a.val ∧ tiles ≤ d.val then Completes (.wait d a c l) .control s s
     else exec (.wait d a c l) s = .next s)

/-- R297, R361 to R363: FENCE, the barriers, START.NEXT and WAIT.PRED. A FENCE of chip or pair scope first sends its markers, once every FIFO that
they enter has room; that one with an empty mask sends none is the model's choice (assumption 32). Each wait goes on when its condition holds, and
until then changes nothing. -/
def Obligations.FencesAndBarriers : Prop :=
  ∀ (s : State) (a : Fin 32) (n : Fin 8) (sc : Scope) (m : BitVec 16), ControlReady s [a] [] →
    (let marks := (sc = .chip ∨ sc = .pair) ∧ m ≠ 0
     (s.ctx.fence = none → ¬ marks →
       if fenceDone s m sc then Completes (.fence sc m) .control s s else exec (.fence sc m) s = .next s) ∧
     (s.ctx.fence = none → marks → markersFit s m = false → exec (.fence sc m) s = .next s) ∧
     (s.ctx.fence = none → marks → markersFit s m = true → ∃ t, exec (.fence sc m) s = .next t ∧
       t = { s with ctx := t.ctx, arbiters := t.arbiters, nextPacket := t.nextPacket } ∧
       t.ctx = { s.ctx with fence := some ⟨m, sc, s.ctx.nextId, List.range 64, []⟩, nextId := s.ctx.nextId + 1 }) ∧
     (∀ w, s.ctx.fence = some w →
       if (∀ k ∈ w.slices, k ∈ w.acked) ∧ fenceDone s m sc = true then
         Completes (.fence sc m) .control s (s.mod (fun c => { c with fence := none }))
       else exec (.fence sc m) s = .next s)) ∧
    (isGusset s.self = false → n.val < s.ctx.info.header.nbar →
      (if allPerformed s false then
         Completes (.barArrive n) .control s ((setBarrier s n.val (barrierCount s n.val + 1)).mod Context.markEffect)
       else exec (.barArrive n) s = .next s) ∧
      (if (s.ctx.getG a).toNat % 2 ^ 32 ≤ (barrierCount s n.val).toNat then Completes (.barWait a n) .control s s
       else exec (.barWait a n) s = .next s)) ∧
    (isGusset s.self = true ∨ s.ctx.info.header.nbar ≤ n.val →
      exec (.barArrive n) s = .next (trapSync s .control .illegal) ∧ exec (.barWait a n) s = .next (trapSync s .control .illegal)) ∧
    (isGusset s.self = false →
      Completes .startNext .control s { s.mod Context.markEffect with
        slots := s.slots.map (fun l => if l.slot = s.ctx.info.slot then { l with early := true } else l) } ∧
      (∀ l, s.slots.find? (fun l => l.slot == s.ctx.info.slot) = some l →
        if l.pending = 0 then Completes .waitPred .control s s else exec .waitPred s = .next s)) ∧
    (isGusset s.self = true →
      exec .startNext s = .next (trapSync s .control .illegal) ∧ exec .waitPred s = .next (trapSync s .control .illegal))

/-- R364 to R369: TSPAWN raises its launch's count and leaves its record as an operation; FUT.RD takes a full future's value, traps with FUTURE
on an empty one after a side effect and is squashed before one, its record going into the park table, or into the list in memory while that is
full; FUT.FILL fills an empty future and answers whether it was full. The model's choices: a FUT.RD waits while the table and the list are both full
(assumption 100), the list has a layout of its own (25), these instructions reach memory with their issue (30), and a squashed unit's record is parked
at once (107). -/
def Obligations.SpawnsAndFutures : Prop :=
  ∀ (s : State) (d a b : Fin 32), ControlReady s [a] [] →
    let ea := s.ctx.getG a
    (∀ bs, isGusset s.self = false → ea.toNat % 64 = 0 → zeroClassHeld s ea.toNat = false → recordAtPeer s ea.toNat = false →
      partRead s ea.toNat 64 = .ok (bs, none) → taskOk bs = true →
      Enqueues (.tspawn a) s
        { (partReads s ea.toNat 64).mod Context.markEffect with slots := s.slots.map (fun l => if l.slot = s.ctx.info.slot then { l with count := l.count + 1 } else l) }
        { plainOp s .tspawn ea with task := bs }) ∧
    (isGusset s.self = false → ea.toNat % 64 ≠ 0 → exec (.tspawn a) s = .next (trapSync s .control .align)) ∧
    (∀ pa, s.ctx.info.header.fut = true → s.ctx.ready.cancel = false → ea.toNat % 8 = 0 → zeroClassHeld s ea.toNat = false → futurePage s ea.toNat .read = .ok pa →
      poisoned s pa 8 = false →
      let w := readLE s.mem pa 8
      (w.testBit 63 = true →
        Completes (.futRd d a) .control s
          ((walkFill s (tlbPlaces s) s.ctx.info.asid ea.toNat).mod (Context.setG d (BitVec.ofNat 64 (w % 2 ^ 63))))) ∧
      (w.testBit 63 = false → s.ctx.fse = true → exec (.futRd d a) s = .next (trapSync s .control .future)) ∧
      (w.testBit 63 = false → s.ctx.fse = false → parkFull s = true → exec (.futRd d a) s = .next s) ∧
      (w.testBit 63 = false → s.ctx.fse = false → parkFull s = false →
        ∃ t, exec (.futRd d a) s = .next t ∧ t.ctx.fate = .squashed ∧ t.ctx.run = .draining ∧ t.ctx.accesses = [] ∧
          (s.queues.park.length < parkTable →
            ∃ r ∈ t.queues.park, r.info = s.ctx.info ∧ r.dep = 1 ∧ r.future = ea ∧ r.parkedOn = some s.self) ∧
          (parkTable ≤ s.queues.park.length → ∃ k, (k, s.self) ∈ t.queues.parkList))) ∧
    (s.ctx.info.header.fut = false → exec (.futRd d a) s = .next (trapSync s .control .illegal)) ∧
    (∀ pa, ControlReady s [b] [] → ea.toNat % 8 = 0 → allPerformed s true = true → futurePage s ea.toNat .write = .ok pa → poisoned s pa 8 = false →
      s.mem.wf = true →
      let full := (readLE s.mem pa 8).testBit 63
      ∃ t, exec (.futFill d a b) s = .next t ∧ t.ctx.getG d = (if d = 0 then 0 else if full then 1 else 0) ∧
        (∀ x, x ≠ d → t.ctx.getG x = s.ctx.getG x) ∧
        ((s.queues.parkList = [] ∧ ∀ r ∈ s.queues.park, r.future ≠ ea) → readLE t.mem pa 8 = (if full then readLE s.mem pa 8 else 2 ^ 63 + (s.ctx.getG b).toNat % 2 ^ 63) ∧
          ∀ x, x < pa ∨ pa + 8 ≤ x → readByte t.mem x = readByte s.mem x))

/-- R98, R369, R370: LVL.CANCEL on a core; that a word of the levels launch and job with an operand is refused is the model's reading (assumption 64).
The issuer's own registers stay. Every resident unit of the target is to be stopped, the issuer too when it is one, and no other; none of the target's
units waits in a queue any more; and the launches of a target above a unit are cancelled. -/
def Obligations.LevelCancels : Prop :=
  ∀ (s : State) (a : Fin 32) (l : CancelLevel), s.self < 128 → ControlReady s [a] [] →
    ((l = .launch ∨ l = .job) → a ≠ 0 → exec (.lvlCancel a l) s = .next (trapSync s .control .illegal)) ∧
    (((l = .launch ∨ l = .job) → a = 0) →
      ∃ u : State, Completes (.lvlCancel a l) .control s u ∧ u.self = s.self ∧
        u.ctx = { s.ctx.markEffect with ready := { s.ctx.ready with cancel := u.ctx.ready.cancel } } ∧
        (l = .launch → s.ctx.info.header.kind = false → u.ctx.ready.cancel = true) ∧
        let v := (s.ctx.getG a).toNat
        let launch (x : LaunchSlot) : Prop := match l with
          | .unit => False
          | .launch => x.slot = s.ctx.info.slot
          | .graph => x.asid = s.ctx.info.asid ∧ v % 2 ^ 32 ≠ 0 ∧ x.pkt.graph = v % 2 ^ 32
          | .phase => x.asid = s.ctx.info.asid ∧ x.pkt.phase = v % 2 ^ 32
          | .job => x.asid = s.ctx.info.asid
        let target (i : UnitInfo) : Prop := ∃ x ∈ s.slots, x.slot = i.slot ∧
          (launch x ∨ (l = .unit ∧ i.slot = s.ctx.info.slot ∧ i.seq.toNat = v))
        (∀ n, n < 640 →
          let c := s.ctxAt n
          let stops := (target c.info ∧ c.info.header.kind = false) ∨ (l = .job ∧ c.info.asid = s.ctx.info.asid ∧ c.info.header.kind = true)
          (stops → c.run ≠ .idle → c.run ≠ .draining → (u.ctxAt n).ready.cancel = true) ∧
          (¬ stops → (l = .launch → c.info.slot ≠ s.ctx.info.slot) → (u.ctxAt n).ready = c.ready)) ∧
        (∀ e ∈ entryLists u.queues, ¬ target e.info) ∧
        (∀ x ∈ s.slots, launch x → ∀ y ∈ u.slots, y.slot = x.slot → y.cancelled = true))


/-! ## Matrix, copies, streams and sensors: what their instructions do at issue -/

/-- R60, R188, R203, R205 to R210: a kernel with NM = 1 traps on every matrix instruction; otherwise a command that its checks pass and that
finds room on the queue is put there with its operands as captured, LEASE and UNLEASE act, and MSTAT answers a word. -/
def Obligations.MatrixIssue : Prop :=
  ∀ (s : State) (a b c d : Fin 32) (f : Fin 64) (t : Fin 4) (u : Fin 8) (r : ShapeRec),
    (s.ctx.info.header.nm = true → ControlReady s [] [] →
      ∀ i ∈ [Instr.mma a b f r, .mmaSp a b c f r, .mkat a f r, .mzero t, .mout t a b f, .moutRq t f, .lease u, .unlease, .mstat d],
        exec i s = .next (trapSync s .control .illegal)) ∧
    (s.ctx.info.header.nm = false →
      (queueDepth s.ctx < 8 → f.val < s.ctx.info.header.nflag →
        (∀ x, substRecord s.ctx r = some x → recordOk x = true → ControlReady s (a :: b :: c :: recordRegs r) [] →
          let va := s.ctx.getG a
          let vb := s.ctx.getG b
          let op (k : OpKind) (vc : Word) : EngineOp :=
            { plainOp s k va with b := vb, c := vc, flag := f, shape := x, cls := Fin.ofNat 16 (x.w3.toNat / 2 ^ 23) }
          let queued (i : Instr) (o : EngineOp) : Prop :=
            Completes i .control s (settleLease (s.mod (fun k => { k with ops := k.ops ++ [o], nextId := k.nextId + 1 })))
          (va.toNat % 128 = 0 → vb.toNat % 128 = 0 → x.stride % x.etype.bytes = 0 →
            (mmaShape s false x = false → mmaPages s false va.toNat vb.toNat 0 x = false → queued (.mma a b f r) (op .mma 0)) ∧
            ((s.ctx.getG c).toNat % 16 = 0 → mmaShape s true x = false → mmaPages s true va.toNat vb.toNat (s.ctx.getG c).toNat x = false →
              queued (.mmaSp a b c f r) (op .mmaSp (s.ctx.getG c)))) ∧
          (x.stride % x.etype.bytes = 0 → mkatShape s x = false → queued (.mkat a f r) { plainOp s .mkat va with flag := f, shape := x })) ∧
        (ControlReady s [a, b] [] → (s.ctx.getG a).toNat % s.rowBytes = 0 → (s.ctx.getG b).toNat % 2 ^ 32 % s.rowBytes = 0 →
          (s.ctx.getG b).toNat < 2 ^ 39 →
          heldRowsBad s (fun p => p.fmt != .raw) (s.ctx.getG a).toNat ((s.ctx.getG b).toNat % 2 ^ 32) s.rowBytes (tileRegs s) = false →
          Enqueues (.mout t a b f) s (s.mod Context.markEffect)
            { plainOp s .mout (s.ctx.getG a) with
              b := s.ctx.getG b, flag := f, pages := [t.val], cls := Fin.ofNat 16 ((s.ctx.getG b).toNat / 2 ^ 32) }) ∧
        (ControlReady s [] [] → isGusset s.self = false → (resultStream s).isSome = true →
          Enqueues (.moutRq t f) s (s.mod Context.markEffect) { plainOp s .moutRq 0 with flag := f, pages := [t.val] }) ∧
        (ControlReady s [] [] → Enqueues (.mzero t) s s { plainOp s .mzero 0 with pages := [t.val] })) ∧
      (ControlReady s [] [] →
        Completes (.lease u) .control s (if 128 ≤ s.self then s
          else if s.ctx.ops.any (fun o => o.kind == .unlease) then
            s.mod (fun k => { k with ops := behindUnlease (plainOp s .lease (BitVec.ofNat 64 u.val)) k.ops, nextId := k.nextId + 1 })
          else leaseAct s u) ∧
        Completes .unlease .control s (if 128 ≤ s.self then s else settleLease (s.mod (addOp (plainOp s .unlease 0))))) ∧
      (ControlReady s [] [] → ∃ w : Word, Completes (.mstat d) .control s (s.drawn.mod (Context.setG d w)) ∧
        w.getLsbD 4 = (s.arrayAt (arrayIndex s.self)).failed ∧
        w.getLsbD 3 = (s.arrayAt (arrayIndex s.self)).kmis.contains (s.self % 4) ∧
        w.getLsbD 5 = (oldestLease s.ctx).any EngineOp.held?)) ∧
    (s.ctx.info.header.nflag ≤ f.val → ControlReady s [] [] →
      ∀ i ∈ [Instr.mma a b f r, .mmaSp a b c f r, .mkat a f r, .mout t a b f, .moutRq t f], exec i s = .next (trapSync s .control .illegal))

/-- R267 to R277: an operation of the copy family whose record and addresses pass its checks is put on its queue as captured, its issue time
the CTC's value, or a later time that COPY names; a flag at or above NFLAG is ILLEGAL. -/
def Obligations.CopiesIssue : Prop :=
  ∀ (s : State) (a b c : Fin 32) (f : Fin 64) (r x : ShapeRec), ControlReady s (a :: b :: c :: recordRegs r) [] →
    let va := s.ctx.getG a
    let vb := s.ctx.getG b
    let vc := s.ctx.getG c
    let all : List Instr := [.copy a b c f r, .copys a b c f r, .copyDec a b f r, .fill a b f r, .copyPeer a b c f r, .wrq a b c f r, .dtab a f r]
    (s.ctx.info.header.nflag ≤ f.val → ∀ i ∈ all, exec i s = .next (trapSync s .control .illegal)) ∧
    (f.val < s.ctx.info.header.nflag → substRecord s.ctx r = some x → recordOk x = true → x.blk = 0 → x.stride % x.etype.bytes = 0 →
      let aligned (v : Word) : Prop := v.toNat % x.etype.bytes = 0
      let noTbl : Prop := x.aux / 2 ^ 24 % 8 = 0
      let pages (v : Word) : Prop := heldPageBad s v.toNat x.stride x = false
      let op (k : OpKind) (p q w : Word) : EngineOp :=
        { plainOp s k p with b := q, c := w, flag := f, shape := x, cls := Fin.ofNat 16 (x.aux / 2 ^ 27), issueTime := BitVec.ofNat 64 s.ctc, stage := .started }
      let queued (i : Instr) (o : EngineOp) : Prop := Enqueues i s (s.mod Context.markEffect) o
      (aligned va → aligned vb → noTbl → pages va → pages vb → vc.toNat ≤ s.ctc → queued (.copy a b c f r) (op .copy va vb vc)) ∧
      (aligned va → aligned vb → noTbl → pages va → pages vb → s.ctc < vc.toNat → (bufferOf s (engineCluster s.self s.ctx)).length < 64 →
        queued (.copy a b c f r) { op .copy va vb vc with issueTime := vc, stage := .queued }) ∧
      (aligned va → aligned vb → aligned vc → noTbl → vc.toNat < 2 ^ 31 → pages vb →
        heldRowsBad s (pageBreaks x vc.toNat) va.toNat vc.toNat (x.cols * x.etype.bytes) x.rows = false →
        queued (.copys a b c f r) (op .copys va vb vc)) ∧
      (aligned va → x.etype = .z8 ∨ x.etype = .q → pages va → queued (.copyDec a b f r) (op .copyDec va vb 0)) ∧
      (aligned va → noTbl → pages va → queued (.fill a b f r) (op .fill va vb 0)) ∧
      (aligned va → aligned vb → noTbl → vc.toNat < 2 ^ 32 → pages vb → s.link.up = true → queued (.copyPeer a b c f r) (op .copyPeer va vb vc)) ∧
      (aligned va → aligned vb → vc.toNat % 64 = 0 → noTbl → x.rows * x.cols * x.etype.bytes ≤ 2 ^ 16 → pages vb → s.link.up = true →
        queued (.wrq a b c f r) (op .wrq va vb vc)) ∧
      (va.toNat % 64 = 0 → noTbl → x.rows = 1 → x.cols = 128 → x.stride = 0 → x.etype = .z8 → x.aux / 2 ^ 3 % 2 ^ 21 = 0 →
        heldPageBad s va.toNat 0 x = false → queued (.dtab a f r) (op .dtab va 0 0)))

/-- R312 to R315, R317: SBIND binds and answers its handle or status; SUNBIND tears its stream down; SDEPTH answers a bound stream's depth and
the value 2^63 for a stale handle; SCTX.START and SCTX.STOP answer their status, and a start sets the context running. What SBIND binds is an unused
entry of the table, of a new generation, between two endpoints that no stream had, with the record's sizes, the thresholds that the distance between
their stations gives, and nothing yet sent; every other stream stays, and a refusal changes none. A STRIDE that is no multiple of the element size
traps with ALIGN. -/
def Obligations.StreamsIssue : Prop :=
  ∀ (s : State) (d a b : Fin 32) (f : Fin 64), ControlReady s [a, b] [] →
    (∀ (r x : ShapeRec) (p q : Endpoint), ControlReady s (a :: b :: recordRegs r) [] → f.val < s.ctx.info.header.nflag →
      substRecord s.ctx r = some x →
      (x.stride % x.etype.bytes ≠ 0 → exec (.sbind d a b f r) s = .next (trapSync s .control .align)) ∧
      (endpointWord (s.ctx.getG a).toNat = some p → endpointWord (s.ctx.getG b).toNat = some q →
      p.kind.isProducer = true → q.kind.isProducer = false → x.stride % x.etype.bytes = 0 →
      let receiver := p.kind == .camera || p.kind == .ethernet
      let size (n : Nat) : Nat := if receiver ∧ n = 0 then 8192 else n
      (q.kind = .rowWriter → q.va % 64 = 0 ∧ x.stride % 64 = 0 ∧
        heldRowsBad s (writerLimits x.swz x.stride) q.va x.stride (size x.cols * x.etype.bytes) (size x.rows) = false) →
      bindRecordOk x receiver = true → bindShape x p q f.val = false →
      Completes (.sbind d a b f r) .control s
        ((bindStream s p q f x).1.mod (fun k => (k.setG d (BitVec.ofNat 64 (bindStream s p q f x).2)).markEffect)) ∧
      ∃ (u : State) (v : Nat), Completes (.sbind d a b f r) .control s (u.mod (fun k => (k.setG d (BitVec.ofNat 64 v)).markEffect)) ∧
        u.ctx = s.ctx ∧ u.mem = s.mem ∧ u.others = s.others ∧ u.channels = s.channels ∧ u.slots = s.slots ∧
        ((∃ st, 1 ≤ st ∧ st ≤ 7 ∧ v = st * 2 ^ 24 ∧ u.streams = s.streams) ∨
         (∃ n y, n < 256 ∧ v = y.gen * 2 ^ 8 + n ∧ streamAt s n = none ∧ streamAt u n = some y ∧ (∀ k, k ≠ n → streamAt u k = streamAt s k) ∧
          (∀ z ∈ s.streams, Stream.sameEnd z.prod p = false ∧ Stream.sameEnd z.cons q = false) ∧
          let res := x.aux / 2 ^ 13 % 2 ^ 11
          let trip := 2 * (max (endStation p 0) (endStation q y.slice) - min (endStation p 0) (endStation q y.slice)) + 8
          y.gen = (if genOf s n = 2 ^ 16 - 1 then 1 else genOf s n + 1) ∧ y.asid = s.ctx.info.asid ∧ y.owner = s.self ∧ y.prod = p ∧ y.cons = q ∧
          y.rows = sizeOr8192 x.rows ∧ y.cols = sizeOr8192 x.cols ∧ y.etype = x.etype ∧ y.stride = x.stride ∧ y.swz = x.swz ∧
          y.res = res ∧ trip + 20 ≤ res ∧ y.off = res - trip ∧ y.on = res - trip - 16 ∧ y.flag = f ∧ y.fen = x.aux.testBit 4 ∧
          y.prodOn = true ∧ y.consOn = true ∧ y.sent = 0 ∧ y.taken = 0 ∧ y.frames = 0 ∧ y.outgoing = [] ∧ y.landed = [])))) ∧
    Completes (.sunbind a) .control s (match handleStream s (s.ctx.getG a).toNat with
      | some st => (tearDown s st).mod Context.markEffect
      | none => s.mod Context.markEffect) ∧
    (handleStream s (s.ctx.getG a).toNat = none →
      Completes (.sdepth d a b) .control s (s.mod (Context.setG d (BitVec.ofNat 64 (2 ^ 63))))) ∧
    (∀ st, handleStream s (s.ctx.getG a).toNat = some st →
      let reads := isRing st.cons && ringOwner st.cons == s.self
      let writes := isRing st.prod && ringOwner st.prod == s.self
      (reads = false → writes = false → b ≠ 0 → exec (.sdepth d a b) s = .next (trapSync s .control .stream)) ∧
      ((reads = true ∨ writes = true ∨ b = 0) →
        if (reads = true → readsDone s = true) ∧ (writes = true → storesDone s = true) then
          let st' := publish writes (s.ctx.getG b).toNat (freeRing reads (s.ctx.getG b).toNat st)
          Completes (.sdepth d a b) .control s ((setStream s st').mod (Context.setG d (depthWord st' writes)))
        else exec (.sdepth d a b) s = .next s)) ∧
    (let r := startFrom s (s.ctx.getG a).toNat
     exec (.sctxStart d a) s = .next (retire (r.1.mod (fun k => (k.setG d (BitVec.ofNat 64 r.2)).markEffect)) .control 4 false)) ∧
    (∃ (u : State) (status : Nat), Completes (.sctxStart d a) .control s (u.mod (fun k => (k.setG d (BitVec.ofNat 64 status)).markEffect)) ∧
      status % 256 ≤ 5 ∧ u.mem = s.mem ∧ u.streams = s.streams ∧ u.slots = s.slots ∧ (status ≠ 0 → u.ctx = s.ctx ∧ u.others = s.others) ∧
      (status = 0 → s.self < 128 → ∃ n, 128 ≤ n ∧ n < 640 ∧ (s.ctxAt n).run = .idle ∧ (u.ctxAt n).run = .running ∧ u.ctx = s.ctx)) ∧
    (let v := (s.ctx.getG a).toNat
     let n := 128 + 4 * (v % 128) + v / 2 ^ 8 % 4
     if ((s.ctxAt n).run = .running ∨ (s.ctxAt n).run = .debugHalted) ∧ (s.ctxAt n).info.asid = s.ctx.info.asid then
       let u := stopResident s (fun k => k.home == n && k.info.header.kind)
       Completes (.sctxStop d a) .control s (u.mod (fun k => (k.setG d 0).markEffect)) ∧
         (s.self < 128 → (s.ctxAt n).home = n → (s.ctxAt n).info.header.kind = true → (u.ctxAt n).ready.cancel = true)
     else Completes (.sctxStop d a) .control s (s.mod (fun k => (k.setG d 1).markEffect)))

/-- R334 to R336, R340, R341, R343, R347: row barriers, the records of row slots, TILE.COMMIT, ALIGN.SET and the fusion waits at issue. That a
ROW.WAIT remembers the stage it waits on by its start is the model's reading (assumption 107). -/
def Obligations.RowsAndTilesIssue : Prop :=
  ∀ (s : State) (d a b : Fin 32) (f : Fin 64), ControlReady s [a, b] [] →
    (∀ p n, stageOf s (s.ctx.getG a).toNat = some (p, n) →
      Completes (.rowRdPos d a) .control s (s.mod (Context.setG d p)) ∧
      (if (waitedStart s.ctx).any (· != n) then exec (.rowWait a b) s = .next (trapSync s .control .stream)
       else if (s.ctx.getG b).toNat ≤ p.toNat then Completes (.rowWait a b) .control s (s.mod (fun c => { c with rowWait := none }))
       else exec (.rowWait a b) s = .next (s.mod (fun c => { c with rowWait := some (c.pcc, n) })))) ∧
    (stagePosition s (s.ctx.getG a).toNat = none →
      ∀ i ∈ [Instr.rowRdPos d a, .rowWait a b], exec i s = .next (trapSync s .control .stream)) ∧
    (isGusset s.self = true → postReady s = true →
      let x := s.ctx.position.toNat
      let posts (i : Instr) (v : Nat) : Prop := Completes i .control s (s.mod (fun c => ({ c with position := BitVec.ofNat 64 v } : Context).markEffect))
      posts (.rowPost a) (x / 2 ^ 32 * 2 ^ 32 + (x % 2 ^ 32 + (s.ctx.getG a).toNat) % 2 ^ 32) ∧
      posts .rowPostFrame ((x / 2 ^ 32 + 1) * 2 ^ 32) ∧ posts (.rowPostSet a) (s.ctx.getG a).toNat) ∧
    (isGusset s.self = false →
      ∀ i ∈ [Instr.rowPost a, .rowPostFrame, .rowPostSet a, .rowRdRec d a, .rowRdStamp d a], exec i s = .next (trapSync s .control .illegal)) ∧
    (isGusset s.self = true → (s.ctx.getG a).toNat < 4 →
      (∀ ch, slotHead s (s.ctx.getG a).toNat = some (none, ch) →
        Completes (.rowRdRec d a) .control s (s.mod (Context.setG d (BitVec.ofNat 64 (2 ^ 63)))) ∧
        Completes (.rowRdStamp d a) .control s (s.mod (Context.setG d 0))) ∧
      (∀ n r ch c fr row, slotHead s (s.ctx.getG a).toNat = some (some (n, r), ch) → chanAt s ch = some c →
        c.held.find? (fun x => x.number == n) = some fr → fr.rows[r]? = some row →
        Completes (.rowRdRec d a) .control s
          (s.mod (Context.setG d (BitVec.ofNat 64 (row.1.code * 2 ^ 32 + n % 2 ^ 16 * 2 ^ 16 + r % 2 ^ 16)))) ∧
        Completes (.rowRdStamp d a) .control s (s.mod (Context.setG d (BitVec.ofNat 64 (row.2.toNat % 2 ^ 62)))))) ∧
    (∀ g, heldGroup s (s.ctx.getG a).toNat = some g →
      (if (s.ctx.getG b).toNat < g.rcount then Completes (.alignWait d a b) .control s (s.mod (Context.setG d (BitVec.ofNat 64 g.rcount)))
       else exec (.alignWait d a b) s = .next s) ∧
      Completes (.alignWaitCnt d a) .control s (s.mod (Context.setG d (BitVec.ofNat 64 (g.late * 2 ^ 32 + g.miss))))) ∧
    (heldGroup s (s.ctx.getG a).toNat = none →
      Completes (.alignWait d a b) .control s (s.mod (Context.setG d (BitVec.ofNat 64 (2 ^ 63)))) ∧
      Completes (.alignWaitCnt d a) .control s (s.mod (Context.setG d (BitVec.ofNat 64 (2 ^ 63))))) ∧
    (∀ (r x : ShapeRec), ControlReady s (a :: b :: recordRegs r) [] → f.val < s.ctx.info.header.nflag → substRecord s.ctx r = some x →
      recordOk x = true →
      ((s.ctx.getG a).toNat % 64 = 0 → x.rows = 1 → x.cols = 64 → x.stride = 0 → x.w2 = 0 → x.aux < 2 ^ 6 →
        (let w := setAlign s (s.ctx.getG a).toNat f x.aux
         exec (.alignSet d a f r) s = .next (retire (w.1.mod (fun k => (k.setG d (BitVec.ofNat 64 w.2)).markEffect)) .control 20 false)) ∧
        ∃ (u : State) (status : Nat), Completes (.alignSet d a f r) .control s (u.mod (fun k => (k.setG d (BitVec.ofNat 64 status)).markEffect)) ∧
          status ≤ 3 ∧ u.ctx = s.ctx ∧ u.others = s.others ∧ u.mem = s.mem ∧ (status ≠ 0 → u.groups = s.groups) ∧
          ∀ g ∈ u.groups, g.grp ≠ x.aux % 16 → g ∈ s.groups) ∧
      (ControlReady s [d] [] → (s.ctx.getG d).toNat % 128 = 0 → (s.ctx.getG a).toNat % x.etype.bytes = 0 → x.stride % x.etype.bytes = 0 →
        commitShape s (s.ctx.getG d) (s.ctx.getG a) (s.ctx.getG b) x = false →
        Enqueues (.tileCommit d a b f r) s (s.mod Context.markEffect)
          { plainOp s .commit (s.ctx.getG d) with
            b := s.ctx.getG a, c := s.ctx.getG b, flag := f, shape := x, cls := Fin.ofNat 16 (x.aux / 2 ^ 27) }))


/-! ## Traps and the system group -/

/-- R393, R411, R412: TRAP, with nothing of the unit in flight, enters the handler: the frame holds its cause with its number, the address after
it and the execute slice's pc. Where the handler cannot be entered the unit fails. TRAP_ENTRY takes TIMER likewise, and discards it where the
handler cannot be entered. -/
def Obligations.TrapsEnter : Prop :=
  ∀ (s : State) (n : Fin 64) (pa : Nat), s.ctx.run = .running → s.ctx.endedC = false → quarantined s = false → betterReady s = false →
    s.ctx.accesses = [] → s.ctx.latches = [] → s.ctx.prediction = none → s.ctx.unresolved = none → (∀ o ∈ s.ctx.ops, o.kind ≠ .frame) → s.mem.wf = true → FrameAt s pa →
    (s.ctx.trapbase ≠ 0 → s.ctx.tframe ≠ 0 → s.ctx.inh = false →
      (∃ t, exec (.trap n) s = .next t ∧ Entered s t pa (0x07 + n.val * 2 ^ 10) (retire s .control 4 false).ctx.pcc s.ctx.pcx) ∧
      (topCause s = some (.timer, none) →
        ∃ t, exec .trapEntry s = .next t ∧ Entered s t pa (0x2A + 2 * 2 ^ 8) s.ctx.pcc s.ctx.pcx ∧ t.ctx.timecmp = 0)) ∧
    ((s.ctx.trapbase = 0 ∨ s.ctx.tframe = 0 ∨ s.ctx.inh = true) →
      (∃ t, exec (.trap n) s = .next t ∧ t.ctx.fate = .failed .trap ∧ t.ctx.run = .draining ∧ t.ctx.endedC = true ∧ t.ctx.endedX = true) ∧
      (topCause s = some (.timer, none) →
        exec .trapEntry s = .next (s.mod (fun c => { c with timecmp := 0, ready := { c.ready with timer := false } }))))

/-- R397, R398: ERET completes, whatever its frame holds: at its place, once the handler's results and accesses are done and a frame that passes its
checks has been read, it clears INH, goes on at the interrupted pcs and reloads the queues, the loop levels, the latches, the votes, the unresolved
branch and the redirections from the frame; each descriptor, with the slot's access at its place among them, is an access of the context again with
its captured values, and memory is as before. A slot load under SKIP gives zero. A frame that fails its checks fails the unit with FRAME, one that
cannot be read with the fault of the read, and outside a handler ERET is ILLEGAL. -/
def Obligations.TrapsReturn : Prop :=
  ∀ (s : State), ControlReady s [] [] →
    (s.ctx.inh = false → exec .eret s = .next (trapSync s .control .illegal)) ∧
    (s.ctx.inh = true → atExecutePoint s = true → s.ctx.latches = [] → s.ctx.accesses = [] → peerFrame s = false →
      (∀ c va, readFrame s 4 = .error (c, va) → c ≠ .ecc → ∃ t, exec .eret s = .next t ∧ t.ctx.fate = .failed c ∧ t.ctx.run = .draining) ∧
      ∀ bs, readFrame s 4 = .ok bs →
        let fm := writeBytes [] 0 bs
        let w (o : Nat) : Word := BitVec.ofNat 64 (readLE fm o 8)
        let counts := readLE fm 0x28 8
        let cause := readLE fm 0 8
        let filled (i : Nat) : Bool := readLE fm 0x30 8 / 2 ^ i % 2 == 0
        let slot := cause / 2 ^ 16 % 2 = 1
        let skip := cause / 2 ^ 17 % 2 = 1
        let place := cause / 2 ^ 19 % 2 ^ 6
        let descs := counts / 2 ^ 40 % 2 ^ 6
        let offset (i : Nat) : Nat := if slot ∧ i = place then 0x60 else 0x2400 + 64 * (if slot ∧ place < i then i - 1 else i)
        let level (r : LoopRegs) (o k : Nat) : Prop :=
          r = ⟨w o, w (o + 8), w (o + 0x10), w (o + 0x18), w (o + 0x20), readLE fm 0x140 8 / 2 ^ k % 2 == 1⟩
        let redirection (r : Option Redirect) (o : Nat) : Prop :=
          r = if readLE fm o 8 % 2 = 1 then some ⟨BitVec.ofNat 64 (readLE fm o 8 - 1), w (o + 8), true⟩ else none
        (frameOk fm = true → descsOk s fm = true → ∃ t, exec .eret s = .next t ∧
          t.mem = s.mem ∧ t.ctx.inh = false ∧ t.ctx.run = .running ∧ t.ctx.pcc = w 8 ∧ t.ctx.pcx = w 0x10 ∧
          t.ctx.bq.map (fun e => (e.addr, e.taken, e.target)) = (List.range (counts % 2 ^ 8)).map (fun i =>
            (BitVec.ofNat 64 (readLE fm (0xC00 + 16 * i) 8 / 2 * 2), readLE fm (0xC00 + 16 * i) 8 % 2 == 1, w (0xC08 + 16 * i))) ∧
          t.ctx.cq = (List.range (counts / 2 ^ 8 % 2 ^ 6)).map (fun i => w (0x200 + 8 * i)) ∧
          t.ctx.dq = (List.range (counts / 2 ^ 14 % 2 ^ 7)).map (fun i => w (0x300 + 8 * i)) ∧
          (¬ (slot ∧ skip) → KeepsFiles s.ctx t.ctx ∧
            t.ctx.lq.map (fun e => (e.data, e.filled)) =
              (List.range (counts / 2 ^ 21 % 2 ^ 5)).map (fun i => (BitVec.ofNat 1024 (readLE fm (0x1400 + 128 * i) 128), filled i))) ∧
          (descs = 0 → ¬ slot → t.ctx.sq.map (fun e => (e.data, e.filled)) =
              (List.range (counts / 2 ^ 26 % 2 ^ 5)).map (fun i => (BitVec.ofNat 1024 (readLE fm (0x1C00 + 128 * i) 128), filled (16 + i)))) ∧
          t.ctx.vq.map (fun e => (e.data, e.filled)) = (List.range (counts / 2 ^ 31 % 2 ^ 5)).map (fun i => (w (0x500 + 8 * i), filled (32 + i))) ∧
          t.ctx.latches.map (fun l => (l.dest, l.rem, l.flags.toNat, l.mask, l.data)) = (List.range (counts / 2 ^ 36 % 2 ^ 4)).map (fun i =>
            let o := 0x600 + 144 * i
            (readLE fm o 8 % 2 ^ 8, readLE fm o 8 / 2 ^ 8 % 2 ^ 3, readLE fm o 8 / 2 ^ 11 % 2 ^ 5, w (o + 8), BitVec.ofNat 1024 (readLE fm (o + 16) 128))) ∧
          t.ctx.votes.map Fin.val = (List.range (counts / 2 ^ 46 % 2 ^ 3)).map (fun i => readLE fm 0x38 8 / 2 ^ (2 * i) % 2 ^ 2) ∧
          t.ctx.unresolved.map (fun b => (b.addr, b.target, b.c.val, b.sense)) =
            (if cause / 2 ^ 18 % 2 = 1 then some (w 0x40, w 0x48, readLE fm 0x50 8 % 4, readLE fm 0x50 8 / 4 % 2 == 1) else none) ∧
          level t.ctx.loopA 0xA0 0 ∧ level t.ctx.loopB 0xC8 1 ∧ level t.ctx.vloopA 0xF0 2 ∧ level t.ctx.vloopB 0x118 3 ∧
          redirection t.ctx.redirC 0x150 ∧ redirection t.ctx.redirX 0x160 ∧
          t.ctx.accesses.map (fun a => (a.iaddr, a.ea, a.v1, a.v2, a.dest.val, a.cls.val, a.urg.val, a.slack)) =
            (List.range (descs + (if slot then 1 else 0))).map (fun i =>
              let o := offset i
              let ctl := readLE fm (o + 0x30) 8
              (w o, w (o + 8), w (o + 0x10), w (o + 0x18), ctl / 2 ^ 12 % 2 ^ 5, ctl / 2 ^ 22 % 2 ^ 4, ctl / 2 ^ 26 % 2 ^ 3, ctl / 2 ^ 29 % 2 ^ 12)) ∧
          (slot → skip → let ctl := readLE fm (0x60 + 0x30) 8
            (0x10 ≤ ctl % 2 ^ 8 ∧ ctl % 2 ^ 8 ≤ 0x16 → t.ctx.g = (s.ctx.setG (Fin.ofNat 32 (ctl / 2 ^ 12 % 2 ^ 5)) 0).g) ∧
            (0x17 ≤ ctl % 2 ^ 8 ∧ ctl % 2 ^ 8 ≤ 0x1C → t.ctx.g = s.ctx.g))) ∧
        (frameOk fm = false ∨ descsOk s fm = false →
          ∃ t, exec .eret s = .next t ∧ t.ctx.fate = .failed .frame ∧ t.ctx.run = .draining))

/-- R37, R102, R279, R288, R294, R412, R414: SYS.RD reads and SYS.WR writes a system register, each field as its table says: a W1C field keeps the
bits where 0 is written, a reserved one reads zero. A number that names no register, or in SYS.WR one with no writable field, is ILLEGAL. An access
of FPMODE, TSHAPE or an execute loop register waits for the execute slice. -/
def Obligations.SystemRegisters : Prop :=
  ∀ (s : State) (d a : Fin 32) (r : Fin 64),
    let ordered := r.val = 0 ∨ r.val = 1 ∨ (0x20 ≤ r.val ∧ r.val ≤ 0x25)
    let reserved := r.val = 0x16 ∨ r.val = 0x17 ∨ r.val = 0x1E ∨ r.val = 0x1F ∨ 0x26 ≤ r.val
    let fixed := r.val = 2 ∨ (0x0C ≤ r.val ∧ r.val ≤ 0x15)
    let v := s.ctx.getG a
    let bit (x : Word) (i : Nat) : Bool := x.toNat / 2 ^ i % 2 == 1
    let done (c : Context) : Context := { c with xdrain := false }
    let reads (x : Word) : Prop := Completes (.sysRd d r) .control s (s.mod (fun c => done (c.setG d x)))
    let writes (f : Context → Context) : Prop := Completes (.sysWr a r) .control s (s.mod (fun c => done (f c)))
    (ControlReady s [] [] →
      (reserved → exec (.sysRd d r) s = .next (trapSync s .control .illegal)) ∧
      (reserved ∨ fixed → exec (.sysWr a r) s = .next (trapSync s .control .illegal)) ∧
      (¬ reserved → (ordered → atExecutePoint s = true ∧ s.ctx.latches = []) →
        (∃ x, sysValue s r.val = some x ∧ reads x) ∧
        (r = 0x00 → reads s.ctx.fpmode) ∧ (r = 0x01 → reads (if s.ctx.w16 then 1 else 0)) ∧ (r = 0x02 → reads (BitVec.ofNat 64 s.lanes)) ∧
        (r = 0x03 → reads s.ctx.slacktab[0]) ∧ (r = 0x04 → reads s.ctx.slacktab[1]) ∧ (r = 0x05 → reads s.ctx.slacktab[2]) ∧
        (r = 0x06 → reads s.ctx.late) ∧ (r = 0x07 → reads s.ctx.crcfg) ∧ (r = 0x08 → reads s.ctx.crcnt) ∧ (r = 0x09 → reads s.ctx.trapbase) ∧
        (r = 0x0A → reads s.ctx.tframe) ∧ (r = 0x0B → reads s.ctx.timecmp) ∧ (r = 0x0E → reads s.ctx.region.fa) ∧
        (r = 0x0C → reads (BitVec.ofNat 64 (s.ctx.lcode.toNat * 2 ^ 8 + (if s.ctx.fse then 2 else 0) + (if s.ctx.inh then 1 else 0)))) ∧
        (r = 0x10 → reads (BitVec.ofNat 64 s.ctx.info.asid.toNat)) ∧ (r = 0x18 → reads s.ctx.loopA.count) ∧ (r = 0x19 → reads s.ctx.loopA.start) ∧
        (r = 0x1D → reads s.ctx.loopB.stop) ∧ (r = 0x20 → reads s.ctx.vloopA.count) ∧ (r = 0x25 → reads s.ctx.vloopB.stop)) ∧
      (ordered → atExecutePoint s = false → exec (.sysRd d r) s = .next s ∧ exec (.sysWr a r) s = .next s)) ∧
    (ControlReady s [a] [] → ¬ reserved → ¬ fixed → (ordered → atExecutePoint s = true ∧ s.ctx.latches = []) → (r = 0x01 → s.ctx.ops = []) →
      writes (writeSys r.val v) ∧
      (r = 0x00 → ∃ x, writes (fun c => { c with fpmode := x }) ∧ x.toNat < 2 ^ 8 ∧ x.toNat % 2 ^ 3 = v.toNat % 2 ^ 3 ∧
        ∀ i, 3 ≤ i → i < 8 → bit x i = (bit s.ctx.fpmode i && !bit v i)) ∧
      (r = 0x01 → v.getLsbD 0 = s.ctx.w16 → writes id) ∧
      (r = 0x01 → v.getLsbD 0 ≠ s.ctx.w16 → writes (fun c => { c with
        w16 := v.getLsbD 0, m := Vector.replicate 128 0, v := Vector.replicate 8 0, live := Vector.replicate 8 false, k := Vector.replicate 8 0 })) ∧
      (∀ k : Fin 2, r.val = 3 + k.val → ∃ x, writes (fun c => { c with slacktab := c.slacktab.set k.val x }) ∧
        ∀ i, i < 64 → bit x i = (decide (i % 16 < 12) && bit v i)) ∧
      (r = 0x05 → ∃ x, writes (fun c => { c with slacktab := c.slacktab.set 2 x }) ∧ x.toNat < 2 ^ 15 ∧ x.toNat % 2 ^ 14 = v.toNat % 2 ^ 14 ∧
        bit x 14 = (bit v 14 && decide (v.toNat / 2 ^ 8 % 2 ^ 6 < s.ctx.info.header.nflag))) ∧
      (r = 0x06 → ∃ x, writes (fun c => { c with late := x }) ∧ x.toNat < 2 ^ 40 ∧ x.toNat % 2 ^ 32 = v.toNat % 2 ^ 32 ∧
        ∀ i, 32 ≤ i → i < 40 → bit x i = (bit s.ctx.late i && !bit v i)) ∧
      (r = 0x07 → ∃ x, writes (fun c => { c with crcfg := x }) ∧ x.toNat / 2 ^ 12 = v.toNat / 2 ^ 12 ∧
        x.toNat % 2 ^ 12 = if v.toNat % 2 ^ 4 ≤ 8 then v.toNat % 2 ^ 4 else s.ctx.crcfg.toNat % 2 ^ 4) ∧
      (r = 0x08 → ∃ x, writes (fun c => { c with crcnt := x }) ∧ x.toNat % 2 ^ 32 = s.ctx.crcnt.toNat % 2 ^ 32 ∧
        bit x 32 = (bit s.ctx.crcnt 32 && !bit v 32)) ∧
      (r = 0x09 → writes (fun c => { c with trapbase := BitVec.ofNat 64 (v.toNat - v.toNat % 4) })) ∧
      (r = 0x0A → writes (fun c => { c with tframe := BitVec.ofNat 64 (v.toNat - v.toNat % 2 ^ 14) })) ∧
      (r = 0x0B → writes (fun c => { c with timecmp := v, ready := { c.ready with timer := false } })) ∧
      (s.ctx.loopA.active = false → s.ctx.loopB.active = false →
        (r = 0x18 → ∃ t, exec (.sysWr a r) s = .next t ∧ t.ctx.loopA.count = v ∧ t.ctx.loopB = s.ctx.loopB) ∧
        (r = 0x1B → ∃ t, exec (.sysWr a r) s = .next t ∧ t.ctx.loopB.count = v ∧ t.ctx.loopA = s.ctx.loopA)) ∧
      (r = 0x19 → writes (fun c => { c with loopA := { c.loopA with start := v } })) ∧
      (r = 0x1A → writes (fun c => { c with loopA := { c.loopA with stop := v } })) ∧
      (r = 0x1C → writes (fun c => { c with loopB := { c.loopB with start := v } })) ∧
      (r = 0x1D → writes (fun c => { c with loopB := { c.loopB with stop := v } })) ∧
      (r = 0x20 → writes (fun c => { c with vloopA := { c.vloopA with count := v } })) ∧
      (r = 0x24 → writes (fun c => { c with vloopB := { c.vloopB with start := v } })) ∧
      (r = 0x25 → writes (fun c => { c with vloopB := { c.vloopB with stop := v } })))

/-- R240, R405, R413: TIME, the TLBINVs, mitten regions and SELFTEST.ARRAY; a region opens on an aligned handler, and only one at a time. A TLBINV
waits for the writes before it, and a CLOSE for every access and for the operations issued since the OPEN. -/
def Obligations.SystemOperations : Prop :=
  ∀ (s : State) (d a : Fin 32) (f : Fin 64), ControlReady s [] [] →
    let asid := s.ctx.info.asid
    let va := (s.ctx.getG d).toNat
    let range := (s.ctx.getG a).toNat
    let illegal (i : Instr) : Prop := exec i s = .next (trapSync s .control .illegal)
    Completes (.time d) .control s (s.mod (Context.setG d (BitVec.ofNat 64 s.ctc))) ∧
    (writesPerformed s = false → exec (.tlbinvPage d) s = .next s ∧ exec .tlbinvAsid s = .next s) ∧
    (writesPerformed s = true →
      (s.ctx.pendingG d = false → Completes (.tlbinvPage d) .control s { s with
        tlb := s.tlb.filter (fun t => !(t.asid == asid && t.attr.covers va)), walks := s.walks.filter (fun w => !(w.asid == asid && w.key == walkKey va w.level)) }) ∧
      Completes .tlbinvAsid .control s
        { s with tlb := s.tlb.filter (fun t => t.asid != asid), walks := s.walks.filter (fun w => w.asid != asid), spaces := s.spaces.filter (fun x => x.asid != asid) }) ∧
    (s.ctx.region.isOpen = true → illegal (.crgnOpen d a) ∧
      (s.ctx.info.header.nflag ≤ f.val → illegal (.crgnCloseMirror f)) ∧
      (regionJoined s = false → exec .crgnClose s = .next s ∧ (f.val < s.ctx.info.header.nflag → exec (.crgnCloseMirror f) s = .next s)) ∧
      (regionJoined s = true →
        Completes .crgnClose .control s
          (s.mod (fun c => { c with region := { c.region with isOpen := false, trk := false, marked := [] } })) ∧
        (s.link.up = true → f.val < s.ctx.info.header.nflag →
          Completes (.crgnCloseMirror f) .control s (s.mod (fun c => { c with
            region := { c.region with isOpen := false, trk := false, marked := [], mir := true }, nextId := c.nextId + 1
            ops := c.ops ++ [{ plainOp s .mirror 0 with flag := f, pages := c.region.marked, sinceOpen := false }] }))))) ∧
    (s.ctx.region.isOpen = false → illegal .crgnClose ∧ illegal (.crgnCloseMirror f)) ∧
    (s.ctx.region.isOpen = false → s.ctx.pendingG d = false → s.ctx.pendingG a = false →
      (va % 4 ≠ 0 → exec (.crgnOpen d a) s = .next (trapSync s .control .align)) ∧
      (va % 4 = 0 → 2 ^ 47 ≤ range → exec (.crgnOpen d a) s = .next (trapSync s .control .shape)) ∧
      (va % 4 = 0 → range < 2 ^ 47 →
        Completes (.crgnOpen d a) .control s (s.mod (fun c => { c with
          region := { c.region with
            isOpen := true, handler := BitVec.ofNat 64 va, trk := range != 0, base := range / 2 ^ 12, pages := range % 2 ^ 12 + 1, marked := [] }
          ops := c.ops.map (fun o => { o with sinceOpen := false }) })))) ∧
    (let res := arrayResource s.self
     (s.ctx.selftest = none → arrayFailed s = true → Completes (.selftestArray d) .control s (s.mod (Context.setG d 3))) ∧
     (s.ctx.selftest = none → arrayFailed s = false →
       if underTest s res then Completes (.selftestArray d) .control s (s.mod (Context.setG d 2))
       else exec (.selftestArray d) s = .next ((startTest s res).mod (fun c => { c with selftest := some none }))) ∧
     (s.ctx.selftest = some none → exec (.selftestArray d) s = .next s) ∧
     ∀ lasting, s.ctx.selftest = some (some lasting) →
       Completes (.selftestArray d) .control s (s.mod (fun c => { c.setG d (if lasting then 1 else 0) with selftest := none })))

/-! ## The machine -/

/-- R432 to R437: what the part is right after power-good: no core runs a unit, no ring or job is installed, the link is down with
its heartbeats held, chip time is 0, and PRETHR is all ones. Memory reads as zero and DRAMCAP is 0 (the model's choices, assumptions 5 and 7), and the invariant
holds. -/
def Obligations.ResetState : Prop :=
  let r := State.reset
  (∀ n, (r.ctxAt n).run = .idle) ∧ r.rings = [] ∧ r.jobs = [] ∧ r.slots = [] ∧ r.streams = [] ∧ r.channels = [] ∧ r.tlb = [] ∧ r.walks = [] ∧ r.fatal = none ∧
  r.link.en = false ∧ r.link.up = false ∧ r.link.hbhold = true ∧ r.ctc = 0 ∧ r.hk.prethr = BitVec.allOnes 64 ∧ r.hk.dramcap = 0 ∧
  (∀ x n, readLE r.mem x n = 0) ∧ r.Inv

/-- R62, R104, R300, R387 to R389, R433: when a slice moves, no cause is ready at its context's boundary, and the words at its pc, in its kernel's code
and held, decode to an instruction of its stream, a step is that instruction's meaning in the state with that slice in focus; an execute slice yields
where the control slice's own instruction traps and its own does too. While a cause is ready no instruction issues, unless one traps in a slice of that
context. A Gusset's slice goes to the first of its contexts that can issue, in ascending order after the one that issued last (the test of what can
issue is the model's choice, assumption 108). A step of an event is that event's meaning in the state with its context in focus, but for an event of a
cause where an instruction traps there, which goes first, and for one of the host's in recovery. Once a fatal event has stopped the part, no slice or
event moves it but POWER_GOOD (R431; that step then answers a fault is the model's choice, assumption 90). -/
def Obligations.StepRunsDecoded : Prop :=
  (∀ (s : State) (side : Slice) (n : Nat) (rest : List Input), s.agenda = .move (.slice side n) :: rest → s.fatal = none →
    let v : State := { s with moves := s.moves + 1, agenda := rest }
    let r := if isGusset n then sliceTurn v side n else (v, n)
    let u := { r.1.focus r.2 with side := side }
    let pc := (u.ctx.pc side).toNat
    (urgentCause u = true → step s = .next u) ∧
    (causeReady u = true → trapAt u .control = none → trapAt u .execute = none → step s = .next u) ∧
    ∀ (ws : List Nat) (i : Instr) (bs : List Byte), causeReady u = false → (side = .execute → trapAt u .control = none ∨ trapAt u .execute = none) →
      canIssue u side = true →
      (side = .control → runAhead u.ctx = true → u.ctx.prediction ≠ none ∧ isSpeculable i = true) →
      (side = .execute → u.ctx.inh = true → waitsForControl u (· == 0x5A000001) = false) → outsideCode u.ctx pc = false →
      fetchWords u (lengthAt u pc / 4) pc = .ok ws → ownsMajor side (ws.headD 0 / 2 ^ 25) = true → pc + lengthAt u pc ≤ u.ctx.codeEnd →
      poisonedWord u (lengthAt u pc / 4) pc = none → decode (ws.flatMap bytesOfWord32) = .ok (i, bs) →
      step s = exec i u) ∧
  (∀ (s : State) (side : Slice) (n k : Nat), isGusset n = true → k < 4 →
    let last := (s.gussetState (gidOf n)).last side
    let nth (j : Nat) : Nat := 128 + 4 * gidOf n + (last + 1 + j) % 4
    canGo s side (nth k) = true → (∀ j, j < k → canGo s side (nth j) = false) →
    (sliceTurn s side n).2 = nth k ∧ ((sliceTurn s side n).1.gussetState (gidOf n)).last side = (last + 1 + k) % 4) ∧
  (∀ (s : State) (n : Nat) (e : Instr) (rest : List Input), s.agenda = .move (.event n e) :: rest → s.fatal = none →
    let v : State := { s with moves := s.moves + 1, agenda := rest }
    let u := v.focus n
    let takesCause := e = .trapEntry ∨ e = .cancelStop ∨ e = .preemptHalt
    (s.boot.state = 2 → fromHost e = true → step s = .next v) ∧
    ((s.boot.state = 2 → fromHost e = false) →
      ((u.ctx.run = .running → (takesCause → topCause u ≠ none → syncTrap u = none) ∧ e ≠ .debugHalt) → step s = exec e u) ∧
      (u.ctx.run = .running → takesCause → topCause u ≠ none → ∀ i t, syncTrap u = some (.run i t) → step s = exec i t))) ∧
  (∀ (s : State) (m : Move) (rest : List Input), s.agenda = .move m :: rest → s.fatal ≠ none → (∀ n, m ≠ .event n .powerGood) →
    step s = .fault .partStopped)

/-- Every step keeps the invariant: from any state whose memory is in canonical form, run or not, a step leaves it so. -/
def Obligations.StepKeepsInvariant : Prop := ∀ s t : State, s.Inv → step s = .next t → t.Inv

/-! ## Events (chapter 9's moves that are no instruction) -/

/-- R112, R150, R223, R234, R289, R291, R297, R379, R404, R407: a walk leaves its translation held (each level replaces the entry it has held longest,
the model's choice, assumption 92); due results land (latches advance while an ordered instruction waits, the model's reading, assumption 6); a filled
head answers the oldest vote; an arbiter's grant carries a packet on, or into its slice's FIFO; waiting costs slack; a slice misses or serves, its
replies in the order of its grants, and grants nothing while 64 replies wait, a row that is only begun standing first among the requests it holds (the
model's pieces, assumption 115); a window serves what its port has room to answer; markers at their heads
are counted and acknowledged; a lane's 16th failure in a row is fatal; a test's end returns its core or withdraws it. -/
def Obligations.EventsOfMemory : Prop :=
  ∀ s : State,
    let kept (slice : Nat) (p : Packet) (r : Result) (t : State) : Prop := r = .next (if begun t p then
      t.setSlice { t.sliceState slice with fills := p :: (t.sliceState slice).fills } else t)
    (∀ n a va p, (walkers s)[n]? = some (a, va) →
      let place := (tlbPlaces s).headD outPlace
      let u := walkLates s place (walkSlack s a va) a.level va
      heldAt u (tlbPlaces s) s.ctx.info.asid va = none → walkAt u place s.ctx.info.asid va = .ok p →
      ∃ t, exec (.pageWalkComplete n) s = .next t ∧ ∀ x ∈ tlbPlaces s, (⟨x, s.ctx.info.asid, p⟩ : TlbEntry) ∈ t.tlb) ∧
    (let u := landDue (if s.ctx.run = .running ∧ (s.ctx.endedX = true ∨ s.ctx.xdrain = true) then s.mod Context.tick else s)
     ∃ t, exec .resultLand s = .next t ∧ t.mem = s.mem ∧ t.ctx.g = s.ctx.g ∧ t.ctx.v = u.ctx.v ∧ t.ctx.k = u.ctx.k ∧ t.ctx.m = u.ctx.m ∧
      t.ctx.fpmode = u.ctx.fpmode ∧ t.ctx.vq = u.ctx.vq ∧ t.ctx.latches = u.ctx.latches) ∧
    (∀ r claims e rest, s.ctx.votes = r :: claims → s.ctx.vq = e :: rest → e.filled = true → (∀ b, s.ctx.prediction = some b → b.c ≠ r) →
      exec .votePop s = .next (s.mod (fun c => { c with c := c.c.set r (e.data != 0), votes := claims, vq := rest }))) ∧
    (∀ arb p b, choosePacket (s.arbiterOf arb).packets (s.arbiterOf arb).lastZero (fifoCount arb) (hasRoom s arb) = some p →
      p.kind ≠ .marker → nextArbiter arb p = some b →
      ∃ t, exec (.arbiterGrant arb) s = .next t ∧ t.mem = s.mem ∧ t.ctx = s.ctx ∧ { p with input := 0 } ∈ (t.arbiterOf b).packets) ∧
    (∀ arb p, choosePacket (s.arbiterOf arb).packets (s.arbiterOf arb).lastZero (fifoCount arb) (hasRoom s arb) = some p →
      p.kind = .request → nextArbiter arb p = none → 384 ≤ p.dst → p.dst < 448 →
      ∃ t, exec (.arbiterGrant arb) s = .next t ∧ t.mem = s.mem ∧ t.ctx = s.ctx ∧ (t.sliceState (p.dst - 384)).requests =
        (s.sliceState (p.dst - 384)).requests ++ [{ p with input := arrivalSide arb }]) ∧
    (∀ n, exec (.slackDecrement n) s = .next (s.modPacket n (fun p =>
        if p.slack = 4095 ∨ p.slack = 0 then p else { p with slack := p.slack - 1, late := p.late || p.slack == 1 })) ∧
      exec (.noUrgencyPromotion n) s = .next (s.modPacket n (fun p => if p.slack = 4095 then { p with slack := 4094 } else p))) ∧
    (∀ (slice : Fin 64) p, repliesWaiting s slice.val < 64 → choosePacket (s.sliceState slice.val).requests (s.sliceState slice.val).lastZero 48 (fun p => p.kind != .marker) = some p →
      let rest := (s.sliceState slice.val).requests.filter (fun q => q.id != p.id)
      (servedAtOnce s (s.sliceState slice.val) p = false →
        ∃ t, exec (.sliceRequestGrant slice) s = .next t ∧ t.mem = s.mem ∧ t.ctx = s.ctx ∧
          (t.sliceState slice.val).fills = (s.sliceState slice.val).fills ++ [p] ∧ (t.sliceState slice.val).requests = rest) ∧
      (servedAtOnce s (s.sliceState slice.val) p = true → p.lead = false → (s.sliceState slice.val).fills ≠ [] →
        ∃ z, let u := act (s.setSlice { s.sliceState slice.val with requests := rest, lastZero := z }) p
          exec (.sliceRequestGrant slice) s =
            .next (u.setSlice { u.sliceState slice.val with fills := (u.sliceState slice.val).fills ++ [p] })) ∧
      (servedAtOnce s (s.sliceState slice.val) p = true → p.lead = true ∨ (s.sliceState slice.val).fills = [] →
        ∃ z, kept slice.val p (exec (.sliceRequestGrant slice) s) (serve (s.setSlice { s.sliceState slice.val with requests := rest, lastZero := z }) p))) ∧
    (∀ slice : Fin 64, 64 ≤ repliesWaiting s slice.val → exec (.sliceRequestGrant slice) s = .next s ∧ exec (.sliceFillComplete slice) s = .next s) ∧
    (∀ (slice : Fin 64) p rest, repliesWaiting s slice.val < 64 → (s.sliceState slice.val).fills = p :: rest →
      kept slice.val p (exec (.sliceFillComplete slice) s) (serve (s.setSlice { s.sliceState slice.val with fills := rest }) p)) ∧
    (∀ (core : Fin 128) p, (s.coreState core.val).windowReqs = [p] → replyRoom s p = true → ∃ z,
      let t := serve (s.setCore { s.coreState core.val with windowReqs := [], lastZero := z }) p
      exec (.windowAccessServe core) s = .next (if begun t p then
        t.setCore { t.coreState core.val with windowReqs := p :: (t.coreState core.val).windowReqs } else t)) ∧
    (∀ (slice : Fin 64) p, repliesWaiting s slice.val < 64 → (s.sliceState slice.val).requests = [p] → p.kind = .marker → (s.sliceState slice.val).fills = [] →
      (s.sliceState slice.val).markers = [] →
      ∃ t, exec (.fenceMarkerRetire slice) s = .next t ∧ t.mem = s.mem ∧ t.ctx = s.ctx ∧ (t.sliceState slice.val).requests = [] ∧
        if stationOf p.src = stationOf (384 + slice.val) then
          (t.sliceState slice.val).markers = [] ∧
          ∃ a ∈ t.arbiters, ∃ q ∈ a.packets, q.kind = .markerAck ∧ q.dst = p.src ∧ q.ctx = p.ctx ∧ q.acc = p.acc ∧ q.part = slice.val
        else (t.sliceState slice.val).markers = [(p.ctx, p.acc, 1)]) ∧
    (∀ (east : Bool) (lane : Fin 24) (station : Fin 15),
      let key := lane.val + (if east then 0 else 2 ^ 5) + station.val * 2 ^ 8
      let fails := ((s.laneFails.find? (fun p => p.1 == key)).map Prod.snd).getD 0
      exec (.flitCrcReplay east lane station false) s = .next { s with laneFails := s.laneFails.filter (fun p => p.1 != key) } ∧
      (fails < 15 → ∃ t, exec (.flitCrcReplay east lane station true) s = .next t ∧ t.fatal = s.fatal ∧ (key, fails + 1) ∈ t.laneFails) ∧
      (15 ≤ fails → ∃ t, exec (.flitCrcReplay east lane station true) s = .next t ∧ t.fatal = some .laneFail)) ∧
    (∀ (c : Fin 128) (lasting : Bool) (n : Nat), s.testing.find? (fun p => p.1 == .coreStore c) = some (.coreStore c, n) →
      ∃ t, exec (.selftestComplete (.coreStore c) lasting) s = .next t ∧
        (t.coreState c.val).quarantined = (s.testing.any (fun q => q.1 != .coreStore c && sameCore (.coreStore c) q.1) && (s.coreState c.val).quarantined) ∧
        underTest t (.coreStore c) = false ∧ t.mem = s.mem ∧ (lasting = true → (t.coreState c.val).withdrawn = true))

/-- R72 to R93, R399, R400: rings are installed, removed and moved; a packet takes a launch slot; watchdog, match table, deadlines, walker, the
common queue, dispatch, pre-emption, spawning and banks; and units and Gusset contexts end. Where a clause fixes a choice, it does so by naming
the one candidate. HEAD and TAIL at 0 after an installation, the lowest free launch slot, COUNT and ERR as an arming leaves them, and LEN = 0 are the
model's choices (assumption 98). -/
def Obligations.EventsOfScheduling : Prop :=
  ∀ s : State,
    (∀ (n : Fin 256) (cfg : Word), (ringAt s n.val).enabled = false → ringOk { ringAt s n.val with cfg := cfg } = true →
      ∃ t, exec (.ringInstall n cfg) s = .next t ∧ t.mem = s.mem ∧ t.slots = s.slots ∧
        let q := ringAt t n.val
        q.enabled = true ∧ q.cfg = cfg ∧ q.base = (ringAt s n.val).base ∧ q.ready = (ringAt s n.val).ready ∧ q.headm = (ringAt s n.val).headm ∧
        q.evt = (ringAt s n.val).evt ∧ q.stallt = (ringAt s n.val).stallt ∧ q.head = 0 ∧ q.tail = 0 ∧ q.evcnt = 0 ∧ q.range = false ∧ q.stall = false) ∧
    (∀ n : Fin 256, ∃ t, exec (.ringRemove n) s = .next t ∧ t.mem = s.mem ∧ t.slots = s.slots ∧ (ringAt t n.val).enabled = false ∧ (ringAt t n.val).cfg = 0) ∧
    (∀ (n : Fin 256) (v : Word32), (ringAt s n.val).enabled = true → v ≠ (ringAt s n.val).tail → (v - (ringAt s n.val).tail).toNat < 2 ^ 31 →
      ∃ t, exec (.tailWrite n v) s = .next t ∧
        if (v - (ringAt s n.val).head).toNat ≤ (ringAt s n.val).size then
          t.mem = s.mem ∧ (ringAt t n.val).tail = v ∧ v ∈ (ringAt t n.val).bounds ∧ (ringAt t n.val).head = (ringAt s n.val).head
        else (ringAt t n.val).range = true ∧ (ringAt t n.val).tail = (ringAt s n.val).tail) ∧
    (∀ r x rest k h tr, s.rings = [r] → r.enabled = true → r.head ≠ r.tail → jobState s r.asid = 1 →
      readBatch s r (r.bounds.headD r.tail - r.head).toNat 0 = .ok (x :: rest) → (∀ y ∈ x :: rest, y.ready ≠ 0) →
      r.batchEnd = r.bounds.headD r.tail → r.refusals = [] → ownCodes s r.asid (r.batch.flatMap (fun p => p.2.2)) (x :: rest) x = [] → x.null = false → packetCancelled s r.asid x.pkt = false → freeSlot s = some k →
      readKernel s r.asid x.pkt.kref.toNat = some (h, tr) → (s.slots.filter (fun l => l.ring == r.ring)).length < r.maxl → x.pkt.lateAction = false →
      ∃ t l, exec .admissionTurn s = .next t ∧ slotNumbered t k = some l ∧ l.pkt = x.pkt ∧ l.header = h ∧ l.ring = r.ring ∧ l.asid = r.asid ∧
        l.walked = 0 ∧ l.total = x.pkt.units ∧ l.count = x.pkt.units) ∧
    (∀ (n : Fin 256), let r := ringAt s n.val
      r.enabled = true → r.stall = false → r.stallt ≠ 0 → r.tail ≠ r.head → jobState s r.asid = 1 → r.lastMove + r.stallt.toNat ≤ s.ctc →
      (readIn s r.asid (r.readyVa r.head) 1).isSome = true →
      (∀ bs, (storeIn s r.asid (r.evt.toNat + 32 * (r.evcnt.toNat % 64)) bs).isSome = true) →
      ∃ t, exec (.ringStallEpisode n) s = .next t ∧ (ringAt t n.val).stall = true ∧ (ringAt t n.val).evcnt = r.evcnt + 1 ∧ (ringAt t n.val).head = r.head) ∧
    (∀ (e : Fin 64), let m := matchAt s e.val
      m.armed = false →
      (m.recAddr.toNat % 64 ≠ 0 → exec (.matchEntryArm e) s = .next (setMatch s { m with err := true, armed := false })) ∧
      (∀ bs l, m.recAddr.toNat % 64 = 0 → readIn s m.asid m.recAddr.toNat 64 = some bs → launchOfTask s m.asid bs = some l → taskClean bs = true →
        ∃ t, exec (.matchEntryArm e) s = .next t ∧ t.mem = s.mem ∧ (matchAt t e.val).armed = true ∧ (matchAt t e.val).count = 0 ∧
          (matchAt t e.val).done = false ∧ (matchAt t e.val).err = false)) ∧
    (∀ (tag : Word32) (asid : BitVec 16) (n : Nat) (m : MatchEntry),
      s.matches_.find? (fun m => m.armed && m.tag == tag && m.asid == asid) = some m →
      (m.count.toNat + n < m.len.toNat → exec (.matchWriteArrival tag asid n) s = .next (setMatch s { m with count := BitVec.ofNat 32 (m.count.toNat + n) })) ∧
      (m.len.toNat ≤ m.count.toNat + n → ∃ t, exec (.matchWriteArrival tag asid n) s = .next t ∧ (matchAt t m.idx).done = true ∧ (matchAt t m.idx).armed = false)) ∧
    (∀ (slot : Fin 64) l, slotNumbered s slot.val = some l → (l.late = true ∨ s.ctc < l.pkt.deadline.toNat) →
      exec (.deadlinePass slot) s = .next s) ∧
    (∀ (slot : Fin 64) l, slotNumbered s slot.val = some l → l.late = false → l.pkt.deadline.toNat ≤ s.ctc →
      (l.pkt.lateAction = false → exec (.deadlinePass slot) s = .next (modSlot s slot.val (fun l => { l with late := true }))) ∧
      (l.pkt.lateAction = true → ∃ t, exec (.deadlinePass slot) s = .next t ∧ ∀ e ∈ entryLists t.queues, e.info.slot ≠ slot.val)) ∧
    (∀ l, s.queues.joining = [] → walkerChoice s = some l → slotNumbered s l.slot = some l → l.skips.contains l.walked = false → s.queues.common.length < 64 →
      ∃ t n grp, exec .walkerStep s = .next t ∧ t.mem = s.mem ∧ (slotNumbered t l.slot).map LaunchSlot.walked = some (l.walked + 1) ∧
        (queueOf t.queues n).map Entry.info = (queueOf s.queues n).map Entry.info ++ [{ walkedUnit l l.walked with group := grp }]) ∧
    (∀ (g : Fin 4) n e, (queueOf s.queues g.val)[n]? = some e →
      ∃ t, exec (.affinityExpiry g n) s = .next t ∧ t.mem = s.mem ∧
        (queueOf t.queues g.val)[n]? = some { e with expired := some (e.expired.getD s.queues.nextOrder) }) ∧
    (∀ g e k, s.queues.joining = [] → g < 4 → e ∈ queueOf s.queues g → e.expired = some k → s.queues.common.length < 64 →
      (∀ g' e' k', g' < 4 → e' ∈ queueOf s.queues g' → e'.expired = some k' → (g' = g ∧ e' = e) ∨ k < k') →
      ∃ t, exec .commonQueueMove s = .next t ∧ t.mem = s.mem ∧ t.queues.common = s.queues.common ++ [{ e with expired := none }] ∧
        queueOf t.queues g = (queueOf s.queues g).filter (fun x => x.order != e.order)) ∧
    (∀ (core : Fin 128) w, s.queues.joining = [] → takes s core.val = some w → (∀ k, k < core.val → takes s k ≠ some w) → w.entry.image = none →
      ∃ t, exec (.dispatch core) s = .next t ∧ t.mem = s.mem ∧ (t.coreState core.val).window = [] ∧
        let c := t.ctxAt core.val
        c.run = .running ∧ c.info.slot = w.entry.info.slot ∧ c.info.seq = w.entry.info.seq ∧ c.getG 5 = w.entry.info.arg ∧ c.getG 6 = w.entry.info.seq ∧
        (∀ i : Fin 4, c.getG ⟨i.val + 1, by omega⟩ = BitVec.ofNat 64 (w.entry.info.coords.getD i.val 0).toNat) ∧ c.getG 7 = 0 ∧ c.accesses = [] ∧ c.inh = false) ∧
    (∀ w core, s.queues.joining = [] → allWaiting s = [w] → (∀ c, c < 128 → coreFree s c = false) → victimFor s w true = some core → preempting s = 0 →
      ∃ t, exec .schedulerPreempt s = .next t ∧ t.mem = s.mem ∧ (t.ctxAt core).ready.preempt = true) ∧
    (topCause s = some (.preempt, none) → s.ctx.accesses = [] → s.ctx.latches = [] → s.ctx.prediction = none →
      ∃ t, exec .preemptHalt s = .next t ∧ t.mem = s.mem ∧ t.ctx.run = .saving ∧ t.ctx.ready.preempt = false ∧ t.ctx.g = s.ctx.g ∧
        t.ctx.pcc = s.ctx.pcc ∧ t.ctx.pcx = s.ctx.pcx) ∧
    (s.ctx.run = .saving → s.ctx.ready.cancel = false → s.ctx.ops = [] → s.self < 128 →
      ∃ t, exec .saveComplete s = .next t ∧ t.ctx.run = .idle ∧
        ∃ p ∈ t.others, p.2.run = .saved ∧ p.2.g = s.ctx.g ∧ p.2.info = s.ctx.info ∧ p.2.pcc = s.ctx.pcc) ∧
    (∀ o, s.ctx.ops = [o] → o.kind = .tspawn → s.ctx.accesses = [] → keptBefore s.ctx o = [] → (slotNumbered s s.ctx.info.slot).all (fun l => !l.stopped) = true →
      let r := freshTask (taskInfo s.ctx.info.asid s.ctx.info.slot o.task)
      let b := bankFor s r (clusterOf (homeOf s))
      (bankOf s b).length < 128 → ovfOf s b = (0, 0) →
      ∃ t, exec .tspawnEnqueue s = .next t ∧ t.mem = s.mem ∧ t.ctx.ops = [] ∧ bankOf t b = bankOf s b ++ [r]) ∧
    (∀ (cl : Fin 32) (bank : Fin 4) r rest h tr, let b := 4 * cl.val + bank.val
      let u := noteRead s r.info.asid r.info.kref.toNat 64
      bankOf s b = r :: rest → r.checked = none → ovfOf s b = (0, 0) → readKernel u r.info.asid r.info.kref.toNat = some (h, tr) →
      r.info.kref.toNat % 64 = 0 → kernelCodes u r.info.asid r.info.kref.toNat (headerCodes u r.info.asid) = [] →
      exec (.bankRefill cl bank) s = .next (setBank u b ({ r with checked := some (h, tr) } :: rest))) ∧
    (programDone s = true → s.ctx.fate = .ended → s.self < 128 → s.ctx.ops = [] →
      ∃ t, exec .unitRetire s = .next t ∧ t.ctx.run = .idle ∧
        ∀ l, slotNumbered s s.ctx.info.slot = some l → 1 < l.count → (slotNumbered t s.ctx.info.slot).map LaunchSlot.count = some (l.count - 1)) ∧
    (programDone s = true → s.ctx.fate = .ended → s.self < 128 → s.ctx.ops.any coreDrains = true →
      ∃ t, exec .unitRetire s = .next t ∧ t.ctx.run = .draining ∧ t.ctx.counted = true ∧
        ∀ l, slotNumbered s s.ctx.info.slot = some l → 1 < l.count → (slotNumbered t s.ctx.info.slot).map LaunchSlot.count = some (l.count - 1)) ∧
    (programDone s = true → isGusset s.self = true → s.ctx.ops = [] →
      ∃ t, exec .contextEnd s = .next t ∧ t.ctx.run = .idle ∧ ∀ st ∈ t.streams, hasEnd s.self st = false)

/-- R81, R387, R392, R401, R406, R409, R412, R422, R439: a job's commands change its state where it allows them, and an ending job with nothing
left retires; a verdict answers its offer; TIMECMP reached makes TIMER ready; an open region unwinds; a unit fails, is stopped, is halted for
debug and resumes, INH coming back as it was (the model's reading, assumption 110); and a register-write event is the SYS.WR that stands at the
control slice's boundary. -/
def Obligations.EventsOfJobsAndTraps : Prop :=
  ∀ s : State,
    (∀ asid j, s.jobOf asid = some j →
      ((j.state = 1 ∨ j.state = 2) → exec (.jobEnd asid) s = .next (s.setJob { j with state := 3 }) ∧
        ∃ t, exec (.jobCancel asid) s = .next t ∧ jobState t asid = 4 ∧ ∀ g ∈ t.groups, g.asid ≠ asid) ∧
      (j.state = 2 → ∃ t, exec (.jobActivate asid) s = .next t ∧ t.mem = s.mem ∧ jobState t asid = 1 ∧
        ∀ r ∈ t.rings, r.asid = asid → r.lastMove = s.ctc) ∧
      (j.state = 1 → ∃ t, exec (.jobHold asid) s = .next t ∧ t.mem = s.mem ∧ jobState t asid = 2 ∧ ∀ r ∈ t.rings, r.asid = asid → r.stall = false) ∧
      ((j.state = 3 ∨ j.state = 4) → (∀ l ∈ s.slots, l.asid ≠ asid) → hasGussets s asid = false →
        ∃ t, exec (.jobRetire asid) s = .next t ∧ jobState t asid = 5 ∧ (∀ st ∈ t.streams, st.asid ≠ asid) ∧ ∀ g ∈ t.groups, g.asid ≠ asid) ∧
      (∀ (o : Offer) (a : Access) c va tok (token : Word32) (retry : Bool), j.offers = [o] → o.token = token.toNat → o.ctx = s.self → o.engine = false →
        s.ctx.run = .running → s.ctx.accesses = [a] → a.id = o.ident → a.stage = .offered c va tok →
        ∃ t, exec (.faultReply asid token retry) s = .next t ∧ t.mem = s.mem ∧ (t.jobOf asid).map Job.offers = some [] ∧
          (retry = false → ∃ b, t.ctx.accesses = [b] ∧ b.id = a.id ∧ b.stage = .declined c va))) ∧
    (s.ctx.timecmp ≠ 0 → s.ctx.timecmp.toNat ≤ s.ctc →
      exec .timerExpiry s = .next (s.mod (fun c => { c with ready := { c.ready with timer := true } }))) ∧
    (∀ va ia, s.ctx.run = .running → s.ctx.region.isOpen = true → s.ctx.ready.ecc = some (va, ia) →
      ∃ t, exec .unwind s = .next t ∧ t.ctx.pcc = s.ctx.region.handler ∧ t.ctx.pcx = s.ctx.region.handler ∧ t.ctx.region.isOpen = false ∧
        t.ctx.region.ucode = 0x20 ∧ t.ctx.region.fa = va ∧ t.ctx.inh = false ∧ t.ctx.accesses = [] ∧ t.ctx.latches = [] ∧ t.ctx.g = s.ctx.g ∧
        t.ctx.ready.ecc = none) ∧
    ((s.ctx.run = .running ∧ (withdrawn s = true ∨ (s.ctx.region.isOpen = false ∧ s.ctx.ready.ecc ≠ none))) ∨
        (s.ctx.run = .debugHalted ∧ withdrawn s = true) →
      ∃ t, exec .unitFail s = .next t ∧ t.ctx.fate = .failed .ecc ∧ t.ctx.run = .draining ∧ t.ctx.endedC = true ∧ t.ctx.endedX = true ∧
        t.ctx.accesses = []) ∧
    (mayHalt s = true → (topCause s = some (.cancel, none) ∨ (s.ctx.run = .debugHalted ∧ s.ctx.ready.cancel = true)) →
      ∃ t, exec .cancelStop s = .next t ∧ t.ctx.fate = .cancelled ∧ t.ctx.run = .draining ∧ t.ctx.endedC = true ∧ t.ctx.endedX = true ∧
        (s.ctx.accesses = [] → t.ctx.accesses = []) ∧ (∀ a ∈ t.ctx.accesses, a.stage = .planned) ∧ t.ctx.latches = []) ∧
    (debugServes s = true →
      (s.ctx.run = .running → mayHalt (s.mod (fun c => { c with ready := { c.ready with halt := true } })) = true →
        topCause (s.mod (fun c => { c with ready := { c.ready with halt := true } })) = some (.halt, none) →
        ∃ t, exec .debugHalt s = .next t ∧ t.ctx.run = .debugHalted ∧ t.ctx.ready.halt = false ∧ t.ctx.inh = true ∧ t.ctx.lcode = 0x2B ∧
          t.ctx.haltedInh = s.ctx.inh ∧ t.ctx.latches.map Latch.rem = (landDue s).ctx.latches.map Latch.rem) ∧
      (s.ctx.run = .debugHalted →
        ∃ t, exec .debugResume s = .next t ∧ t.mem = s.mem ∧ t.ctx.run = .running ∧ t.ctx.g = s.ctx.g ∧ t.ctx.pcc = s.ctx.pcc ∧ t.ctx.pcx = s.ctx.pcx ∧
          t.ctx.inh = s.ctx.haltedInh ∧ t.ctx.accesses.length = s.ctx.accesses.length)) ∧
    (∀ w a q bs, codeWord s s.ctx.pcc.toNat = some w → decode (bytesOfWord32 w) = .ok (.sysWr a q, bs) → sysWritable q.val = true →
      ControlReady s [a] [] → atExecutePoint s = true → s.ctx.latches = [] → s.ctx.ops = [] →
      let v := s.ctx.getG a
      let is (e : Instr) : Prop := Completes e .control s (s.mod (fun c => { writeSys q.val v c with xdrain := false }))
      (q.val = 0 → is (.fpmodeWrite v)) ∧ (q.val = 1 → is (.tshapeWrite v)) ∧ (q.val = 0x0B → is (.timecmpWrite v)) ∧
      (0x18 ≤ q.val → is (.loopRegisterWrite q v)) ∧ (∀ i : Fin 3, q.val = 3 + i.val → is (.slacktabWrite i v)))

/-- R188, R191 to R193, R197, R204, R207, R208, R212, R214, R268, R269, R275, R276, R277, R341, R378, R413, R424, R426: a free array goes to the
request with the least slack, ties to the first core after the last holder; a term ends; a pass asks for its lines and ends once all have come;
commands, MZERO and MOUT end; copies start in time order, ask for the lines they read and write run by run as those come; commits are checked, wait
for their rows and their turn, and end; and what the peer sends is performed and answered while the link brings it. Three things are the model's: the
list of what has gone out (assumption 91), the slack left to an answer (97), and that a copy's next write leaves when the one before it is back (84). -/
def Obligations.EventsOfEngines : Prop :=
  ∀ s : State,
    let gone (t : State) (o : EngineOp) : Prop := ∀ x ∈ t.ctx.ops, x.id ≠ o.id
    let family := s.ctx.ops.filter inCopyFamily
    let answers (t : State) (slack : Nat) (late : Bool) (r : PeerReply) : Prop :=
      ∃ k l, k ≤ slack ∧ (late = true ∨ k = 0 → l = true) ∧ t.out = s.out ++ [.ack { r with slack := k, late := l }]
    (∀ (cl : Fin 32) r, let a := s.arrayAt cl.val
      a.term = none → a.testing = false → r ∈ a.reqs →
      (∀ p ∈ allContexts s, 640 ≤ p.1 → p.2.home / 4 = cl.val → p.2.ops.any startedLease = false) →
      (∀ x ∈ a.reqs, x = r ∨ r.slack < x.slack ∨
        (r.slack = x.slack ∧ (r.core + 3 - a.lastHolder) % 4 < (x.core + 3 - a.lastHolder) % 4)) →
      ∃ t, exec (.gauntletGrant cl) s = .next t ∧ t.mem = s.mem ∧ t.ctx = s.ctx ∧ (t.arrayAt cl.val).term = some ⟨r.core, r.implicit, 0, r.level⟩ ∧
        ∀ x ∈ (t.arrayAt cl.val).reqs, x.core ≠ r.core) ∧
    (∀ (core : Fin 128) r, let mine (x : LeaseReq) := x.core == core.val % 4
      (s.arrayAt (core.val / 4)).reqs.find? mine = some r → 1 ≤ r.slack →
      ∃ t, exec (.leaseSlackDecrement core) s = .next t ∧
        (t.arrayAt (core.val / 4)).reqs.find? mine = some { r with slack := r.slack - 1, lateCounted := r.lateCounted || r.slack == 1 }) ∧
    (∀ (cl : Fin 32) x, (s.arrayAt cl.val).term = some x → x.core < 4 → (s.arrayAt cl.val).testing = false →
      let ended (t : State) : Prop := (t.arrayAt cl.val).term = none ∧ (t.arrayAt cl.val).lastHolder = x.core ∧
        ∀ o ∈ (t.ctxAt (4 * cl.val + x.core)).ops, o.kind.isLease = true → o.stage ≠ .started
      (∃ t, exec (.termClockExpiry cl) s = .next t ∧ ended t) ∧
      ((∀ o ∈ (s.ctxAt (4 * cl.val + x.core)).ops, o.kind.isLease = false) → (∃ q ∈ (s.arrayAt cl.val).reqs, q.core ≠ x.core) →
        ∃ t, exec (.termIdleExpiry cl) s = .next t ∧ ended t)) ∧
    (∀ u o v, startLease s = some (u, o) → o.kind ≠ .mkat → o.progress < passes o → (u.arrayAt (arrayIndex (homeOf u))).failed = false →
      seekPass u o = .ok v →
      let q := opNow v o
      (readPass v q = .ok none → exec .matrixPassEnd s = .next v) ∧
      (∀ d, readPass v q = .ok (some d) → q.isFailing = false →
        exec .matrixPassEnd s = .next ((writeTile q v (passResult v q d)).mod (putOp { q.forget with progress := q.progress + 1 })))) ∧
    ((s.arrayAt (arrayIndex (homeOf s))).failed = false → ∀ u o, startLease s = some (u, o) →
      (o.kind ≠ .mkat → passes o ≤ o.progress → ∃ t, exec .matrixCommandComplete s = .next t ∧ gone t o ∧ t.ctx.m = s.ctx.m) ∧
      (o.kind = .mkat → o.isFailing = false → s.self < 640 → ∃ t, exec .matrixCommandComplete s = .next t ∧ gone t o ∧ t.ctx.m = s.ctx.m ∧
        ((t.arrayAt (arrayIndex s.self)).kmis.contains (arraySlot s.self) = true ↔
          mkatSignature o.shape.etype o.shape.planes o.shape.rows o.shape.cols o.a.toNat % 2 ^ 31 ≠ o.shape.w3.toNat % 2 ^ 31))) ∧
    ((s.arrayAt (arrayIndex (homeOf s))).failed = true → ∀ o, leaseHead s.ctx = some o → o.kind.isLease = true →
      ∃ t, exec .matrixCommandComplete s = .next t ∧ gone t o) ∧
    (∀ o, sideReady s (· == .mzero) = some o → o.kind = .mzero → o.pages.headD 0 < 4 →
      ∃ t, exec .mzeroComplete s = .next t ∧ gone t o ∧ ((128 ≤ s.self ∨ leaseHead s.ctx = none) → t.mem = s.mem ∧ t.ctx.f = s.ctx.f) ∧
        ∀ n : Fin 128, t.ctx.m[n] = if n.val / tileRegs s = o.pages.headD 0 then 0 else s.ctx.m[n]) ∧
    (∀ o, moutReady s = some o →
      (o.kind = .mout →
        let q := { o with stage := if o.stage = .queued then .started else o.stage, task := if o.task = [] then moutRows s (o.pages.headD 0) else o.task }
        let n := moutRow s
        (∀ u, o.write = none → putLine (s.mod (putOp q)) q (shapeIf (fun a => a.fmt != .raw)) (bitsOf q.slackTab (16 * q.lateLevel + 11) (16 * q.lateLevel))
            ((q.a.toNat + q.progress / n * (q.b.toNat % 2 ^ 32)) % 2 ^ 64) ((q.task.drop q.progress).take n) = .ok u →
          exec .moutComplete s = .next (sweep (settleLease u))) ∧
        (∀ w, o.write = some w → w.stage ≠ .returned → exec .moutComplete s = .next (sweep (settleLease s))) ∧
        (∀ w, o.write = some w → w.stage = .returned → w.cause = none → q.isFailing = false →
          if q.task.length ≤ q.progress + n then ∃ t, exec .moutComplete s = .next t ∧ gone t o
          else exec .moutComplete s = .next (sweep (settleLease (s.mod (putOp { q with write := none, progress := q.progress + n })))))) ∧
      (∀ st, o.kind = .moutRq → moutStream s o = some st →
        let go := ((moutFlits s (o.pages.headD 0)).drop (o.progress / 64)).take (4 - (st.reserved.length + st.outgoing.length))
        ∃ t, exec .moutComplete s = .next t ∧ (∃ x ∈ t.streams, x.entry = st.entry ∧ x.outgoing = st.outgoing ++ go) ∧
          (if 64 ≤ o.progress / 64 + go.length then gone t o else (128 ≤ s.self ∨ leaseHead s.ctx = none) → t.mem = s.mem))) ∧
    (∀ (n : Nat) o, family[n]? = some o →
      (buffered o = true → o.issueTime.toNat ≤ s.ctc →
        (∀ x ∈ bufferOf s (engineCluster s.self s.ctx), o.issueTime.toNat < x.issueTime.toNat ∨ (o.issueTime = x.issueTime ∧ o.seq ≤ x.seq)) →
        exec (.copyStart n) s = .next (s.mod (putOp { o with stage := .started }))) ∧
      (copyReady s o = true → (o.kind = .copy ∨ o.kind = .copys ∨ o.kind = .fill ∨ o.kind = .copyPeer) →
        let r := seekTurn s o (copySlack s o)
        let q := opNow r.1 o
        let k := q.progress / q.shape.etype.bytes
        (q.write = none → gatherRun q r.2 k q.shape.cols k = .ok none → exec (.copyComplete n) s = .next (sweep r.1)) ∧
        (∀ bs, q.write = none → gatherRun q r.2 k q.shape.cols k = .ok (some bs) →
          exec (.copyComplete n) s = .next (sweep (sendRun r.1 q (copySlack s o) k bs))) ∧
        (∀ w, q.write = some w → w.stage ≠ .returned → exec (.copyComplete n) s = .next (sweep r.1)) ∧
        (∀ w, q.write = some w → w.stage = .returned → w.cause = none → q.isFailing = false →
          if elemCount q * q.shape.etype.bytes ≤ q.progress + w.bytes.length then ∃ t, exec (.copyComplete n) s = .next t ∧ gone t q
          else exec (.copyComplete n) s = .next (sweep (r.1.mod (putOp { q with write := none, progress := q.progress + w.bytes.length })))))) ∧
    (∀ w : PeerWrite, linkBrings s = true → s.matches_ = [] → w.physical = true → w.addr < registerBase → isDram s (w.addr - peerBase) = true →
      isDram s (w.addr - peerBase + w.bytes.length - 1) = true → w.shape.w1 = 0 →
      ∃ t, exec (.peerWriteArrival w) s = .next t ∧ t.mem = writeBytes s.mem (w.addr - peerBase) w.bytes ∧ t.ctx = s.ctx ∧
        answers t w.slack w.late (doneReply w.bytes.length)) ∧
    (∀ (m : WrqMsg) l u, linkBrings s = true → wrqCheck (hearing s) m = none → launchOfTask s m.asid m.task = some l → slotNumbered s l.slot = some l →
      l.stopped = false → remoteRun m.asid (fun _ => none) (hearing s) 0 (wrqPieces m) = .ok u →
      ∃ t, exec (.wrqArrival m) s = .next t ∧ answers t m.slack m.late (doneReply (m.rows.map List.length).sum) ∧
        (slotNumbered t l.slot).map LaunchSlot.count = some (l.count + 1)) ∧
    (∀ (m : WrqMsg) c va, linkBrings s = true → wrqCheck (hearing s) m = some (c, va) →
      ∃ t, exec (.wrqArrival m) s = .next t ∧ t.mem = s.mem ∧ t.ctx = s.ctx ∧ answers t m.slack m.late (faultReply c 0 va)) ∧
    (∀ (n : Nat) (r : PeerReply), linkBrings s = true → (∀ x, (peerWaits s.ctx)[n]? = some x → answerFits s x = true) →
      (∀ o, (peerWaits s.ctx)[n]? = some (.wrq o) → ∃ t, exec (.peerAck n r) s = .next t ∧ gone t o) ∧
      (∀ o w, (peerWaits s.ctx)[n]? = some (.write o w) → o.kind = .copyPeer → r.ok = false → ∃ t, exec (.peerAck n r) s = .next t ∧ gone t o) ∧
      (∀ o l, (peerWaits s.ctx)[n]? = some (.read o l) → ∃ t, exec (.peerAck n r) s = .next t ∧ t.mem = s.mem ∧
        ∃ x ∈ t.ctx.ops, x.id = o.id ∧ ∃ y ∈ x.reads, y.key = l.key ∧ y.stage = .performed) ∧
      (∀ a q, (peerWaits s.ctx)[n]? = some (.part a q) → exec (.peerAck n r) s = .next (answerPart (hearing s) a q r))) ∧
    (∀ (m : MirrorMsg) u, linkBrings s = true → remoteRun m.asid (fun _ => none) (hearing s) 0 m.pages = .ok u →
      (m.whole = false → ∃ t, exec (.mirrorArrival m) s = .next t ∧ t.mem = u.mem ∧ t.out = s.out) ∧
      (m.whole = true → (jobAt u m.asid).mirwa = 0 →
        ∃ t, exec (.mirrorArrival m) s = .next t ∧ t.mem = u.mem ∧ answers t m.slack m.late (doneReply (4096 * m.pages.length)))) ∧
    (linkBrings s = false → ∀ (w : PeerWrite) (m : WrqMsg) (q : MirrorMsg) (n : Nat) (r : PeerReply),
      exec (.peerWriteArrival w) s = .next s ∧ exec (.wrqArrival m) s = .next s ∧ exec (.mirrorArrival q) s = .next s ∧
      exec (.peerAck n r) s = .next s ∧ exec (.mirrorAck r) s = .next s) ∧
    (∀ o (r : PeerReply), linkBrings s = true → s.ctx.ops.find? (fun o => o.kind == .mirror && o.stage == .atPeer) = some o →
      ∃ t, exec (.mirrorAck r) s = .next t ∧ gone t o) ∧
    (∀ (n : Nat) o, (s.ctx.ops.filter (fun o => o.kind == .commit))[n]? = some o →
      let becomes (q : EngineOp) : Prop := exec (.tileCommitComplete n) s = .next (s.mod (putOp q))
      (o.stage = .queued →
        (∀ va, unpinned s o = some va → becomes { o with stage := .suspended .nopin (BitVec.ofNat 64 va) }) ∧
        (unpinned s o = none → commitSource s o = none → becomes { o with stage := .suspended .noframe 0 }) ∧
        (∀ c f, unpinned s o = none → commitSource s o = some (c, f) →
          becomes { o with stage := .started, issueTime := BitVec.ofNat 64 (c.deadline f (commitRow o + o.shape.rows - 1)) })) ∧
      (∀ c va, o.stage = .suspended c va →
        if commitTurn s o then ∃ t, exec (.tileCommitComplete n) s = .next t ∧ gone t o else exec (.tileCommitComplete n) s = .next s) ∧
      (∀ c f, o.stage = .started → o.progress < elemCount o * o.shape.etype.bytes → o.task = [] → commitSource s o = some (c, f) →
        f.decided < commitRow o + o.shape.rows → exec (.tileCommitComplete n) s = .next (sweep s)) ∧
      (o.stage = .started → elemCount o * o.shape.etype.bytes ≤ o.progress →
        (o.write = none → commitTurn s o = false → exec (.tileCommitComplete n) s = .next (sweep s)) ∧
        (∀ w, o.write = some w → w.stage = .returned → w.cause = none → ∃ t, exec (.tileCommitComplete n) s = .next t ∧ gone t o)))

/-- R309 to R311, R316, R318 to R332, R345: flits land, a row writer writes them, and signals arrive; channels are installed; camera frames start, take their size, receive
lines and end; lidar rows, other Ethernet frames and PTP stamps; rows and frames overtaken by their deadline; sets that time out; and chip time. The
layouts of Ethernet and PTP are presumed (assumption 58); the nearest number at a distance of 2^15 (57), the stamps a packet may have (86), and the
list of what has gone out (91) are the model's. -/
def Obligations.EventsOfSensors : Prop :=
  ∀ s : State,
    let rowsIn (t : State) (ch : Nat) (rows : List (RowStatus × Word)) : Prop := ∃ c f, chanAt t ch = some c ∧ c.openFrame = some f ∧ f.rows = rows
    (∀ (n : Fin 256) st f rest, streamAt s n.val = some st → st.prodOn = true → st.occupancy < st.res → isRing st.prod = false →
      isRing st.cons = false → st.cons.kind ≠ .rowWriter → st.outgoing = f :: rest → st.slots = [] →
      ∃ t x, exec (.streamFlitLand (n, false)) s = .next t ∧ (st.fen = false → t.mem = s.mem) ∧ streamAt t n.val = some x ∧ x.landed = st.landed ++ [f] ∧ x.outgoing = rest ∧
        x.sent = st.sent + 1 ∧ x.frames = if (st.sent + 1) % st.frameFlits = 0 then st.frames + 1 else st.frames) ∧
    (∀ (n : Fin 256) st f rest, streamAt s n.val = some st → st.cons.kind = .rowWriter → st.landed = f :: rest →
      (st.writing = true ∨ writerForked s st = false → exec (.streamFlitLand (n, true)) s = .next s) ∧
      (st.writing = false → writerForked s st = true →
        (∀ c va, writerAim s st = .error (c, va) → exec (.streamFlitLand (n, true)) s = .next (writerFault s st c va)) ∧
        ∀ a va pa, writerAim s st = .ok (a, va, pa) →
          (∀ u, sliceOf pa = st.slice → writerFlit s st f = .ok u → (st.taken + 1) % st.frameFlits ≠ 0 →
            exec (.streamFlitLand (n, true)) s = .next (setStream u (Stream.flowCheck { st with landed := rest, taken := st.taken + 1 }))) ∧
          (sliceOf pa ≠ st.slice → portRoom s (rowPacket st pa va) 1 = true →
            ∃ t, exec (.streamFlitLand (n, true)) s = .next t ∧ t.mem = s.mem ∧ streamAt t n.val = some { st with writing := true } ∧
              ∃ x ∈ t.arbiters, ∃ q ∈ x.packets, q.kind = .rowWrite ∧ q.slack = 4095 ∧ q.src = sliceEndpoint st.slice ∧
                q.dst = sliceEndpoint (sliceOf pa)))) ∧
    (∀ (n : Fin 256) st v rest, streamAt s n.val = some st → st.flowCheck.signals = v :: rest →
      exec (.flowSignalArrival n) s = .next (setStream s { st.flowCheck with prodOn := v, signals := rest })) ∧
    (∀ (ch : Fin 264) (ctl : Word), ∃ t c, exec (.channelInstall ch ctl) s = .next t ∧ chanAt t ch.val = some c ∧ c.frames = 0 ∧ c.held = [] ∧
      c.ctl.toNat = (if c.enabled then ctl.toNat else ctl.toNat / 2 * 2) ∧
      c.enabled = (bitOf ctl.toNat 0 && ({ (chanAt s ch.val).getD (Channel.blank ch.val) with ctl := ctl } : Channel).recordOk)) ∧
    (∀ (ch : Fin 256) c, cameraUp s (ch.val / 16) = true → enabledChannel s ch.val = some c →
      (c.openFrame = none → c.ehdr = true → ∃ t, exec (.cameraFrameStart ch) s = .next t ∧ t.mem = s.mem ∧
        chanAt t ch.val = some { c with starting := some (BitVec.ofNat 64 s.ctc), refusing := false }) ∧
      (c.openFrame = none → c.ehdr = false → 1 ≤ c.wmax → c.wmax ≤ 8192 → 1 ≤ c.hmax →
        ∃ t c' f, exec (.cameraFrameStart ch) s = .next t ∧ chanAt t ch.val = some c' ∧ c'.frames = c.frames + 1 ∧ c'.openFrame = some f ∧
          f.number = c.frames ∧ f.width = c.wmax ∧ f.height = c.hmax ∧ f.fs = BitVec.ofNat 64 s.ctc ∧ f.rows = [] ∧ f.landed = 0) ∧
      (∀ fs (w h : BitVec 16), c.ehdr = true → c.starting = some fs → ∃ t c', exec (.embeddedHeader ch w h) s = .next t ∧ chanAt t ch.val = some c' ∧
        if 1 ≤ w.toNat ∧ w.toNat ≤ c.wmax ∧ w.toNat ≤ 8192 ∧ 1 ≤ h.toNat ∧ h.toNat ≤ c.hmax then
          ∃ f, c'.openFrame = some f ∧ f.number = c.frames ∧ f.width = w.toNat ∧ f.height = h.toNat ∧ f.fs = fs
        else c'.refused = c.refused + 1 ∧ c'.refusing = true ∧ c'.frames = c.frames) ∧
      (∀ f (num dt : Nat) (ok : Bool) (first : Word) (es : List (BitVec 16)), c.openFrame = some f → imageType dt = true → c.refusing = false →
        c.starting = none → c.lnum = false → c.nextLine = f.rows.length → f.rows.length < f.height → c.overdue f s.ctc f.rows.length = false →
        portFull s ch.val (lineBytes c es).length = false → heardFrom s (portIn s.cameraPorts (ch.val / 16)) first = true →
        ∃ t, exec (.cameraLine ch num dt ok first es) s = .next t ∧ rowsIn t ch.val (f.rows ++
          [if ok = true ∧ dt = c.dt ∧ es.length = f.width then (.good, first) else (.corrupt, BitVec.ofNat 64 s.ctc)])) ∧
      (∃ t c', exec (.cameraFrameEnd ch) s = .next t ∧ chanAt t ch.val = some c' ∧ c'.openFrame = none ∧ c'.starting = none)) ∧
    (∀ (ch : Fin 264) c f, enabledChannel s ch.val = some c → c.openFrame = some f → f.rows.length < f.height →
      c.overdue f s.ctc f.rows.length = true → c.overdue f s.ctc (f.rows.length + 1) = false →
      ∃ t, exec (.rowDeadlineExpiry ch) s = .next t ∧
        rowsIn t ch.val (f.rows ++ [(.late, BitVec.ofNat 64 (max (c.deadline f f.rows.length + 1) f.opened))])) ∧
    (∀ (p : Fin 8) c f (payload : List Byte) (ok : Bool) (first : Word), enabledChannel s (256 + p.val) = some c → c.openFrame = some f →
      heardFrom s (portIn s.etherPorts p.val) first = true → extendSeq c.lastSeq (be16 payload c.seqofs) / c.hmax = f.series → extendSeq c.lastSeq (be16 payload c.seqofs) % c.hmax = f.rows.length →
      payload.length ≤ f.width → c.overdue f s.ctc f.rows.length = false → portFull s (256 + p.val) f.width = false →
      ∃ t, exec (.lidarPacket p payload ok first) s = .next t ∧ rowsIn t (256 + p.val) (f.rows ++
        [if ok = true then (.good, first) else (.corrupt, BitVec.ofNat 64 s.ctc)])) ∧
    (∀ (p : Fin 8) (fr : List Byte) (fcs : Bool) (first : Word), frameTaken fr fcs = false → exec (.ethernetFrame p fr fcs first) s = .next s) ∧
    (∀ (p : Fin 8) (fr : List Byte) (first : Word), frameTaken fr true = true → heardFrom s (portIn s.etherPorts p.val) first = true →
      let stamped := heardEther s p.val first (carriesPdelay fr)
      (portIn stamped.etherPorts p.val).stamp = first ∧
      (enabledChannel s (256 + p.val) = none →
        exec (.ethernetFrame p fr true first) s = .next { stamped with out := s.out ++ [.hostFrame p.val first fr] }) ∧
      (∀ c payload ok, enabledChannel s (256 + p.val) = some c → lidarOf fr = some (c.udpport, payload, ok) →
        exec (.ethernetFrame p fr true first) s = .next (takeLidar stamped (256 + p.val) c payload ok first))) ∧
    (∀ (p : Fin 8) (header message : List Byte) (one : Bool) path, ptpOf (header ++ message) = some (path, header.length) → ptpType message < 4 →
      ∃ t sent, exec (.ptpEgress p header message one) s = .next t ∧ (portIn t.etherPorts p.val).stamp = BitVec.ofNat 64 s.ctc ∧
        t.out = s.out ++ [.etherFrame p.val sent, .egressStamp p.val (BitVec.ofNat 8 (ptpType message)) (BitVec.ofNat 64 s.ctc)] ∧
        (if one = true ∧ path ≠ .ipv6 ∧ (ptpType message = 0 ∨ ptpType message = 3) then
            sent = stampHeader path header ++ stampMessage s (portIn s.etherPorts p.val) message
          else sent = header ++ message)) ∧
    (∀ (p : Fin 16), cameraUp s p.val = true →
      (∀ (vc : Fin 32) c, vc.val < 16 → enabledChannel s (16 * p.val + vc.val) = some c →
        ∃ t c', exec (.otherPacketDiscard p vc) s = .next t ∧ chanAt t (16 * p.val + vc.val) = some c' ∧ c'.other = c.other + 1) ∧
      (∀ vc : Fin 32, 16 ≤ vc.val → ∃ t, exec (.otherPacketDiscard p vc) s = .next t ∧ t.channels = s.channels ∧
        (portIn t.cameraPorts p.val).other = (portIn s.cameraPorts p.val).other + 1) ∧
      (∀ bs, exec (.controlMessagePassThrough p bs) s = .next { s with out := s.out ++ [.control p.val bs] })) ∧
    (∀ (p : Fin 16) (gear : Nat), ∃ t, exec (.cameraLinkTraining p gear) s = .next t ∧ t.channels = s.channels ∧
      (portIn t.cameraPorts p.val).gear = if 1 ≤ gear ∧ gear ≤ 5 then some gear else none) ∧
    (∀ (p : Fin 8) c f, chanAt s (256 + p.val) = some c → c.openFrame = some f → c.overdue f s.ctc (f.height - 1) = true →
      ∃ t, exec (.lidarFrameTimeout p) s = .next t ∧ (chanAt t (256 + p.val)).bind Channel.openFrame = none) ∧
    (∀ (n : Fin 16) g, groupAt s n.val = some g → g.sets = [] → g.timeout g.rcount ≤ s.ctc → s.ctc < g.timeout g.rcount + g.period →
      ∃ t g', exec (.setTimeout n) s = .next t ∧ groupAt t n.val = some g' ∧ g'.rcount = g.rcount + 1 ∧ g'.late = g.late ∧ g'.miss = g.miss) ∧
    (∃ t, exec .ctcTick s = .next t ∧ t.link.sinceSend = s.link.sinceSend + 1 ∧ t.link.sinceHeard = s.link.sinceHeard + 1 ∧
      (s.time.rate = 0 → s.time.slew = 0 → s.time.frac < 2 ^ 40 → t.ctc = s.ctc + 1 ∧ t.time.frac = s.time.frac)) ∧
    (∀ v : Word, exec (.ctcrateWrite v) s = .next { s with time := { s.time with rate := v.truncate 32 } }) ∧
    (∀ v : Word, s.time.slew = 0 → s.time.absorbed = 0 → s.time.frac < 2 ^ 40 → ∃ t, exec (.ctcofsWrite v) s = .next t ∧
      (0 ≤ v.toInt → (t.ctc : Int) = s.ctc + v.toInt ∧ t.time.slew = 0) ∧ (v.toInt < 0 → t.ctc = s.ctc ∧ (t.time.slew : Int) = -v.toInt))

/-- R219, R423, R425, R427, R428, R431 to R435, R437, R438, R443: the part boots; quotes; the registers of the host; the link comes up, retrains and
goes down with its reason; heat; and fatal events. What a reset keeps (assumption 76), that a new stash split starts empty (75), that the heartbeats are
timed from the first one (70), and the reason of a failed retraining (72) are the model's readings. -/
def Obligations.EventsOfThePart : Prop :=
  ∀ s : State,
    let boots (t : State) (n : Nat) (img : List Byte) : Prop :=
      t.boot.state = 1 ∧ t.boot.slot = n ∧ t.boot.measurement = Config.sha384 (signedBytes img) ∧ t.boot.version = imageVersion img ∧
      t.boot.entry = imageEntry img ∧ t.hk.dramcap = installedGib
    let edOk (img : List Byte) : Bool := Config.ed25519Ok (img.take (0x40 + imageLength img)) ((img.drop (0x40 + imageLength img)).take 64)
    let mlOk (img : List Byte) : Bool := Config.mldsa65Ok (img.take (0x40 + imageLength img)) ((img.drop (0x80 + imageLength img)).take 3309)
    let accepted (img : List Byte) : Prop :=
      edOk img = true ∧ mlOk img = true ∧ Config.fusedMinVersion ≤ imageVersion img ∧ (∀ b ∈ (img.drop 0x18).take 40, b = 0) ∧
      0 < imageLength img ∧ imageLoad img + imageLength img ≤ installedGib * 2 ^ 30
    let fatal (e : Instr) (c : Cause) : Prop := ∃ t, exec e s = .next t ∧ t.fatal = some c ∧ t.agenda = [] ∧ (s.link.up = true → .fatalNotice ∈ t.out)
    let down (e : Instr) (reason : Nat) : Prop := ∃ t, exec e s = .next t ∧ t.link.up = false ∧ t.link.en = false ∧ t.link.reason = reason
    (∃ t, exec .powerGood s = .next t ∧ t.fatal = none ∧ t.rings = [] ∧ t.jobs = [] ∧ t.link.up = false ∧ t.agenda = s.agenda ∧
      (accepted s.boot.flash0 → boots t 0 s.boot.flash0 ∧
        t.mem = writeBytes [] (imageLoad s.boot.flash0) ((s.boot.flash0.drop 0x40).take (imageLength s.boot.flash0))) ∧
      (¬ accepted s.boot.flash0 → accepted s.boot.flash1 → boots t 1 s.boot.flash1) ∧
      (¬ accepted s.boot.flash0 → ¬ accepted s.boot.flash1 → t.boot.state = 2 ∧ t.mem = [] ∧
        t.boot.edf = !edOk s.boot.flash1 ∧ t.boot.mlf = !mlOk s.boot.flash1)) ∧
    (s.boot.state = 2 → ∀ img, accepted img → ∃ t, exec (.recoveryImageWrite 0 img) s = .next t ∧ t.boot.flash0 = img ∧ boots t 0 img) ∧
    (s.boot.quoting = false → ∀ v : Word, bitOf v.toNat 0 = true → ∃ t, exec (.quoteRequest v) s = .next t ∧ t.mem = s.mem ∧ t.boot.quoting = true ∧
      t.hk.qdone = false ∧ t.hk.qaddr = bitsOf v.toNat 47 12 * 2 ^ 12) ∧
    (s.boot.quoting = true → ∃ t, exec .quoteDone s = .next t ∧ t.boot.quoting = false ∧ t.hk.qdone = true ∧
      t.mem = writeBytes s.mem s.hk.qaddr (quoteBody s ++ leBytes 64 (Config.ed25519Sign s.boot.measurement (quoteBody s)).toNat ++
        leBytes 3309 (Config.mldsa65Sign s.boot.measurement (quoteBody s)).toNat)) ∧
    (∀ v : Word, exec (.housekeepingWrite 0x310038 8 v) s = .next { s with hk := { s.hk with ptpepoch := v } } ∧
      exec (.housekeepingWrite 0x310040 8 v) s = .next { s with hk := { s.hk with prethr := v } } ∧
      exec (.housekeepingWrite 0x310058 8 v) s = .next { s with hk := { s.hk with heqack := v.truncate 32 } } ∧
      (∀ n : Fin 256, exec (.housekeepingWrite (4096 * n.val) 4 v) s = exec (.tailWrite n (v.truncate 32)) s) ∧
      (∀ n : Fin 256, exec (.housekeepingWrite (0x301020 + 64 * n.val) 8 0) s = exec (.ringRemove n) s)) ∧
    (∀ (c : Fin 128) (v : Word), (s.ctxAt c.val).run = .idle → v.toNat % 16 ≤ 12 → ∃ t, exec (.stashcfgWrite c v) s = .next t ∧
      (t.coreState c.val).wink = v.toNat % 16 ∧ (t.coreState c.val).stash = [] ∧ (t.coreState c.val).window = []) ∧
    (500000 ≤ s.link.sinceSend → s.link.up = true → s.link.retraining = false → s.link.hbhold = false → s.boot.state ≠ 2 →
      exec .heartbeatSend s = .next { s with
        link := { s.link with sinceSend := s.link.sinceSend - 500000 }, out := s.out ++ [.heartbeat (BitVec.ofNat 64 s.ctc) Config.partStrap] }) ∧
    (s.link.up = true → s.link.retraining = false →
      (∀ c p, ∃ t, exec (.heartbeatReceive c p) s = .next t ∧ t.link.sinceHeard = 0 ∧ t.link.idleIn = 0 ∧ t.link.heardOnce = true) ∧
      exec .idleFlitSend s = .next { s with out := s.out ++ [.idleFlit] } ∧
      exec .idleFlitReceive s = .next { s with link := { s.link with idleIn := 0, failedReplays := 0 } } ∧
      exec .linkFlitReplay s = .next { s with
        link := { s.link with failedReplays := s.link.failedReplays + 1 }, out := s.out ++ [.replayRequest] } ∧
      (9 ≤ s.link.failedReplays → exec .linkRetrain s = .next { s with link := { s.link with retraining := true, retrainFor := 0 } }) ∧
      (100000 ≤ s.link.idleIn → down .linkIdleTimeout 2)) ∧
    (s.link.up = true →
      (∀ n, ∃ t, exec (.linkFlitAcknowledgment n) s = .next t ∧ t.link.acked = max s.link.acked (min n (flitsSent s)) ∧ t.link.up = true) ∧
      (s.link.retraining = true → down .retrainTimeout 1) ∧ down .fatalNoticeReceive 3 ∧
      (s.link.heardOnce = true → 1499000 ≤ s.link.sinceHeard → down .peerLostTimeout 4)) ∧
    (s.link.retraining = true → ∃ t, exec .linkRetrained s = .next t ∧ t.link.retraining = false ∧ t.link.up = s.link.up ∧ t.link.idleIn = 0) ∧
    (s.link.en = false → exec .linkEnable s = .next { s with link := { s.link with en := true, training := !s.link.up } }) ∧
    (s.link.training = true → ∃ t, exec .linkTrained s = .next t ∧ t.link.up = true ∧ t.link.training = false ∧ t.link.heardOnce = false) ∧
    (∀ (d : BitVec 8) (w : BitVec 16),
      let measured (b : Bool) : State := { s with hk := { s.hk with temp := d, throttling := b } }
      let begins := decide (s.hk.pwrlim < w.toNat) || decide (100 ≤ d.toNat)
      let ends := decide (d.toNat < 95) && decide (w.toNat < s.hk.pwrlim)
      (d.toNat < 115 →
        exec (.throttleStart d w) s = .next (measured (s.hk.throttling || begins)) ∧
        exec (.throttleEnd d w) s = .next (measured (begins || (s.hk.throttling && !ends))) ∧
        exec (.overheat d) s = .next (measured (s.hk.throttling || decide (100 ≤ d.toNat)))) ∧
      (115 ≤ d.toNat → fatal (.throttleStart d w) .overheat ∧ fatal (.throttleEnd d w) .overheat ∧ fatal (.overheat d) .overheat)) ∧
    fatal .bootWatchdogStall .watchdog ∧
    (∀ place : BitVec 8, (place.toNat < 64 ∨ (0x80 ≤ place.toNat ∧ place.toNat ≤ 0x84)) → fatal (.dispatchEcc place) .dispatchEcc)

end
end

