-- ==== Sys2Proof/Laws/State.lean ====
section
/-! SUPPORT. What each plain update of the state leaves alone: one lemma per field per update. -/

namespace Sys2Proof.Machine.State

@[simp] theorem mod_self (s : State) (f : Context → Context) : (s.mod f).self = s.self := rfl
@[simp] theorem mod_others (s : State) (f : Context → Context) : (s.mod f).others = s.others := rfl
@[simp] theorem mod_side (s : State) (f : Context → Context) : (s.mod f).side = s.side := rfl
@[simp] theorem mod_agenda (s : State) (f : Context → Context) : (s.mod f).agenda = s.agenda := rfl
@[simp] theorem mod_moves (s : State) (f : Context → Context) : (s.mod f).moves = s.moves := rfl
@[simp] theorem mod_draws (s : State) (f : Context → Context) : (s.mod f).draws = s.draws := rfl
@[simp] theorem mod_mem (s : State) (f : Context → Context) : (s.mod f).mem = s.mem := rfl
@[simp] theorem mod_dram (s : State) (f : Context → Context) : (s.mod f).dram = s.dram := rfl
@[simp] theorem mod_poison (s : State) (f : Context → Context) : (s.mod f).poison = s.poison := rfl
@[simp] theorem mod_tlb (s : State) (f : Context → Context) : (s.mod f).tlb = s.tlb := rfl
@[simp] theorem mod_walks (s : State) (f : Context → Context) : (s.mod f).walks = s.walks := rfl
@[simp] theorem mod_spaces (s : State) (f : Context → Context) : (s.mod f).spaces = s.spaces := rfl
@[simp] theorem mod_slices (s : State) (f : Context → Context) : (s.mod f).slices = s.slices := rfl
@[simp] theorem mod_cores (s : State) (f : Context → Context) : (s.mod f).cores = s.cores := rfl
@[simp] theorem mod_gussets (s : State) (f : Context → Context) : (s.mod f).gussets = s.gussets := rfl
@[simp] theorem mod_arbiters (s : State) (f : Context → Context) : (s.mod f).arbiters = s.arbiters := rfl
@[simp] theorem mod_nextPacket (s : State) (f : Context → Context) : (s.mod f).nextPacket = s.nextPacket := rfl
@[simp] theorem mod_arrays (s : State) (f : Context → Context) : (s.mod f).arrays = s.arrays := rfl
@[simp] theorem mod_streams (s : State) (f : Context → Context) : (s.mod f).streams = s.streams := rfl
@[simp] theorem mod_streamGens (s : State) (f : Context → Context) : (s.mod f).streamGens = s.streamGens := rfl
@[simp] theorem mod_starts (s : State) (f : Context → Context) : (s.mod f).starts = s.starts := rfl
@[simp] theorem mod_rings (s : State) (f : Context → Context) : (s.mod f).rings = s.rings := rfl
@[simp] theorem mod_lastRing (s : State) (f : Context → Context) : (s.mod f).lastRing = s.lastRing := rfl
@[simp] theorem mod_matches_ (s : State) (f : Context → Context) : (s.mod f).matches_ = s.matches_ := rfl
@[simp] theorem mod_slots (s : State) (f : Context → Context) : (s.mod f).slots = s.slots := rfl
@[simp] theorem mod_admissions (s : State) (f : Context → Context) : (s.mod f).admissions = s.admissions := rfl
@[simp] theorem mod_queues (s : State) (f : Context → Context) : (s.mod f).queues = s.queues := rfl
@[simp] theorem mod_jobs (s : State) (f : Context → Context) : (s.mod f).jobs = s.jobs := rfl
@[simp] theorem mod_channels (s : State) (f : Context → Context) : (s.mod f).channels = s.channels := rfl
@[simp] theorem mod_cameraPorts (s : State) (f : Context → Context) : (s.mod f).cameraPorts = s.cameraPorts := rfl
@[simp] theorem mod_etherPorts (s : State) (f : Context → Context) : (s.mod f).etherPorts = s.etherPorts := rfl
@[simp] theorem mod_groups (s : State) (f : Context → Context) : (s.mod f).groups = s.groups := rfl
@[simp] theorem mod_time (s : State) (f : Context → Context) : (s.mod f).time = s.time := rfl
@[simp] theorem mod_link (s : State) (f : Context → Context) : (s.mod f).link = s.link := rfl
@[simp] theorem mod_boot (s : State) (f : Context → Context) : (s.mod f).boot = s.boot := rfl
@[simp] theorem mod_hk (s : State) (f : Context → Context) : (s.mod f).hk = s.hk := rfl
@[simp] theorem mod_out (s : State) (f : Context → Context) : (s.mod f).out = s.out := rfl
@[simp] theorem mod_laneFails (s : State) (f : Context → Context) : (s.mod f).laneFails = s.laneFails := rfl
@[simp] theorem mod_testing (s : State) (f : Context → Context) : (s.mod f).testing = s.testing := rfl
@[simp] theorem mod_fatal (s : State) (f : Context → Context) : (s.mod f).fatal = s.fatal := rfl

@[simp] theorem drawn_ctx (s : State) : (s.drawn).ctx = s.ctx := rfl
@[simp] theorem drawn_self (s : State) : (s.drawn).self = s.self := rfl
@[simp] theorem drawn_others (s : State) : (s.drawn).others = s.others := rfl
@[simp] theorem drawn_side (s : State) : (s.drawn).side = s.side := rfl
@[simp] theorem drawn_agenda (s : State) : (s.drawn).agenda = s.agenda := rfl
@[simp] theorem drawn_moves (s : State) : (s.drawn).moves = s.moves := rfl
@[simp] theorem drawn_mem (s : State) : (s.drawn).mem = s.mem := rfl
@[simp] theorem drawn_dram (s : State) : (s.drawn).dram = s.dram := rfl
@[simp] theorem drawn_poison (s : State) : (s.drawn).poison = s.poison := rfl
@[simp] theorem drawn_tlb (s : State) : (s.drawn).tlb = s.tlb := rfl
@[simp] theorem drawn_walks (s : State) : (s.drawn).walks = s.walks := rfl
@[simp] theorem drawn_spaces (s : State) : (s.drawn).spaces = s.spaces := rfl
@[simp] theorem drawn_slices (s : State) : (s.drawn).slices = s.slices := rfl
@[simp] theorem drawn_cores (s : State) : (s.drawn).cores = s.cores := rfl
@[simp] theorem drawn_gussets (s : State) : (s.drawn).gussets = s.gussets := rfl
@[simp] theorem drawn_arbiters (s : State) : (s.drawn).arbiters = s.arbiters := rfl
@[simp] theorem drawn_nextPacket (s : State) : (s.drawn).nextPacket = s.nextPacket := rfl
@[simp] theorem drawn_arrays (s : State) : (s.drawn).arrays = s.arrays := rfl
@[simp] theorem drawn_streams (s : State) : (s.drawn).streams = s.streams := rfl
@[simp] theorem drawn_streamGens (s : State) : (s.drawn).streamGens = s.streamGens := rfl
@[simp] theorem drawn_starts (s : State) : (s.drawn).starts = s.starts := rfl
@[simp] theorem drawn_rings (s : State) : (s.drawn).rings = s.rings := rfl
@[simp] theorem drawn_lastRing (s : State) : (s.drawn).lastRing = s.lastRing := rfl
@[simp] theorem drawn_matches_ (s : State) : (s.drawn).matches_ = s.matches_ := rfl
@[simp] theorem drawn_slots (s : State) : (s.drawn).slots = s.slots := rfl
@[simp] theorem drawn_admissions (s : State) : (s.drawn).admissions = s.admissions := rfl
@[simp] theorem drawn_queues (s : State) : (s.drawn).queues = s.queues := rfl
@[simp] theorem drawn_jobs (s : State) : (s.drawn).jobs = s.jobs := rfl
@[simp] theorem drawn_channels (s : State) : (s.drawn).channels = s.channels := rfl
@[simp] theorem drawn_cameraPorts (s : State) : (s.drawn).cameraPorts = s.cameraPorts := rfl
@[simp] theorem drawn_etherPorts (s : State) : (s.drawn).etherPorts = s.etherPorts := rfl
@[simp] theorem drawn_groups (s : State) : (s.drawn).groups = s.groups := rfl
@[simp] theorem drawn_time (s : State) : (s.drawn).time = s.time := rfl
@[simp] theorem drawn_link (s : State) : (s.drawn).link = s.link := rfl
@[simp] theorem drawn_boot (s : State) : (s.drawn).boot = s.boot := rfl
@[simp] theorem drawn_hk (s : State) : (s.drawn).hk = s.hk := rfl
@[simp] theorem drawn_out (s : State) : (s.drawn).out = s.out := rfl
@[simp] theorem drawn_laneFails (s : State) : (s.drawn).laneFails = s.laneFails := rfl
@[simp] theorem drawn_testing (s : State) : (s.drawn).testing = s.testing := rfl
@[simp] theorem drawn_fatal (s : State) : (s.drawn).fatal = s.fatal := rfl

@[simp] theorem setCore_ctx (s : State) (k : CoreState) : (s.setCore k).ctx = s.ctx := rfl
@[simp] theorem setCore_self (s : State) (k : CoreState) : (s.setCore k).self = s.self := rfl
@[simp] theorem setCore_others (s : State) (k : CoreState) : (s.setCore k).others = s.others := rfl
@[simp] theorem setCore_side (s : State) (k : CoreState) : (s.setCore k).side = s.side := rfl
@[simp] theorem setCore_agenda (s : State) (k : CoreState) : (s.setCore k).agenda = s.agenda := rfl
@[simp] theorem setCore_moves (s : State) (k : CoreState) : (s.setCore k).moves = s.moves := rfl
@[simp] theorem setCore_draws (s : State) (k : CoreState) : (s.setCore k).draws = s.draws := rfl
@[simp] theorem setCore_mem (s : State) (k : CoreState) : (s.setCore k).mem = s.mem := rfl
@[simp] theorem setCore_dram (s : State) (k : CoreState) : (s.setCore k).dram = s.dram := rfl
@[simp] theorem setCore_poison (s : State) (k : CoreState) : (s.setCore k).poison = s.poison := rfl
@[simp] theorem setCore_tlb (s : State) (k : CoreState) : (s.setCore k).tlb = s.tlb := rfl
@[simp] theorem setCore_walks (s : State) (k : CoreState) : (s.setCore k).walks = s.walks := rfl
@[simp] theorem setCore_spaces (s : State) (k : CoreState) : (s.setCore k).spaces = s.spaces := rfl
@[simp] theorem setCore_slices (s : State) (k : CoreState) : (s.setCore k).slices = s.slices := rfl
@[simp] theorem setCore_gussets (s : State) (k : CoreState) : (s.setCore k).gussets = s.gussets := rfl
@[simp] theorem setCore_arbiters (s : State) (k : CoreState) : (s.setCore k).arbiters = s.arbiters := rfl
@[simp] theorem setCore_nextPacket (s : State) (k : CoreState) : (s.setCore k).nextPacket = s.nextPacket := rfl
@[simp] theorem setCore_arrays (s : State) (k : CoreState) : (s.setCore k).arrays = s.arrays := rfl
@[simp] theorem setCore_streams (s : State) (k : CoreState) : (s.setCore k).streams = s.streams := rfl
@[simp] theorem setCore_streamGens (s : State) (k : CoreState) : (s.setCore k).streamGens = s.streamGens := rfl
@[simp] theorem setCore_starts (s : State) (k : CoreState) : (s.setCore k).starts = s.starts := rfl
@[simp] theorem setCore_rings (s : State) (k : CoreState) : (s.setCore k).rings = s.rings := rfl
@[simp] theorem setCore_lastRing (s : State) (k : CoreState) : (s.setCore k).lastRing = s.lastRing := rfl
@[simp] theorem setCore_matches_ (s : State) (k : CoreState) : (s.setCore k).matches_ = s.matches_ := rfl
@[simp] theorem setCore_slots (s : State) (k : CoreState) : (s.setCore k).slots = s.slots := rfl
@[simp] theorem setCore_admissions (s : State) (k : CoreState) : (s.setCore k).admissions = s.admissions := rfl
@[simp] theorem setCore_queues (s : State) (k : CoreState) : (s.setCore k).queues = s.queues := rfl
@[simp] theorem setCore_jobs (s : State) (k : CoreState) : (s.setCore k).jobs = s.jobs := rfl
@[simp] theorem setCore_channels (s : State) (k : CoreState) : (s.setCore k).channels = s.channels := rfl
@[simp] theorem setCore_cameraPorts (s : State) (k : CoreState) : (s.setCore k).cameraPorts = s.cameraPorts := rfl
@[simp] theorem setCore_etherPorts (s : State) (k : CoreState) : (s.setCore k).etherPorts = s.etherPorts := rfl
@[simp] theorem setCore_groups (s : State) (k : CoreState) : (s.setCore k).groups = s.groups := rfl
@[simp] theorem setCore_time (s : State) (k : CoreState) : (s.setCore k).time = s.time := rfl
@[simp] theorem setCore_link (s : State) (k : CoreState) : (s.setCore k).link = s.link := rfl
@[simp] theorem setCore_boot (s : State) (k : CoreState) : (s.setCore k).boot = s.boot := rfl
@[simp] theorem setCore_hk (s : State) (k : CoreState) : (s.setCore k).hk = s.hk := rfl
@[simp] theorem setCore_out (s : State) (k : CoreState) : (s.setCore k).out = s.out := rfl
@[simp] theorem setCore_laneFails (s : State) (k : CoreState) : (s.setCore k).laneFails = s.laneFails := rfl
@[simp] theorem setCore_testing (s : State) (k : CoreState) : (s.setCore k).testing = s.testing := rfl
@[simp] theorem setCore_fatal (s : State) (k : CoreState) : (s.setCore k).fatal = s.fatal := rfl

@[simp] theorem setGusset_ctx (s : State) (k : GussetState) : (s.setGusset k).ctx = s.ctx := rfl
@[simp] theorem setGusset_self (s : State) (k : GussetState) : (s.setGusset k).self = s.self := rfl
@[simp] theorem setGusset_others (s : State) (k : GussetState) : (s.setGusset k).others = s.others := rfl
@[simp] theorem setGusset_side (s : State) (k : GussetState) : (s.setGusset k).side = s.side := rfl
@[simp] theorem setGusset_agenda (s : State) (k : GussetState) : (s.setGusset k).agenda = s.agenda := rfl
@[simp] theorem setGusset_moves (s : State) (k : GussetState) : (s.setGusset k).moves = s.moves := rfl
@[simp] theorem setGusset_draws (s : State) (k : GussetState) : (s.setGusset k).draws = s.draws := rfl
@[simp] theorem setGusset_mem (s : State) (k : GussetState) : (s.setGusset k).mem = s.mem := rfl
@[simp] theorem setGusset_dram (s : State) (k : GussetState) : (s.setGusset k).dram = s.dram := rfl
@[simp] theorem setGusset_poison (s : State) (k : GussetState) : (s.setGusset k).poison = s.poison := rfl
@[simp] theorem setGusset_tlb (s : State) (k : GussetState) : (s.setGusset k).tlb = s.tlb := rfl
@[simp] theorem setGusset_walks (s : State) (k : GussetState) : (s.setGusset k).walks = s.walks := rfl
@[simp] theorem setGusset_spaces (s : State) (k : GussetState) : (s.setGusset k).spaces = s.spaces := rfl
@[simp] theorem setGusset_slices (s : State) (k : GussetState) : (s.setGusset k).slices = s.slices := rfl
@[simp] theorem setGusset_cores (s : State) (k : GussetState) : (s.setGusset k).cores = s.cores := rfl
@[simp] theorem setGusset_arbiters (s : State) (k : GussetState) : (s.setGusset k).arbiters = s.arbiters := rfl
@[simp] theorem setGusset_nextPacket (s : State) (k : GussetState) : (s.setGusset k).nextPacket = s.nextPacket := rfl
@[simp] theorem setGusset_arrays (s : State) (k : GussetState) : (s.setGusset k).arrays = s.arrays := rfl
@[simp] theorem setGusset_streams (s : State) (k : GussetState) : (s.setGusset k).streams = s.streams := rfl
@[simp] theorem setGusset_streamGens (s : State) (k : GussetState) : (s.setGusset k).streamGens = s.streamGens := rfl
@[simp] theorem setGusset_starts (s : State) (k : GussetState) : (s.setGusset k).starts = s.starts := rfl
@[simp] theorem setGusset_rings (s : State) (k : GussetState) : (s.setGusset k).rings = s.rings := rfl
@[simp] theorem setGusset_lastRing (s : State) (k : GussetState) : (s.setGusset k).lastRing = s.lastRing := rfl
@[simp] theorem setGusset_matches_ (s : State) (k : GussetState) : (s.setGusset k).matches_ = s.matches_ := rfl
@[simp] theorem setGusset_slots (s : State) (k : GussetState) : (s.setGusset k).slots = s.slots := rfl
@[simp] theorem setGusset_admissions (s : State) (k : GussetState) : (s.setGusset k).admissions = s.admissions := rfl
@[simp] theorem setGusset_queues (s : State) (k : GussetState) : (s.setGusset k).queues = s.queues := rfl
@[simp] theorem setGusset_jobs (s : State) (k : GussetState) : (s.setGusset k).jobs = s.jobs := rfl
@[simp] theorem setGusset_channels (s : State) (k : GussetState) : (s.setGusset k).channels = s.channels := rfl
@[simp] theorem setGusset_cameraPorts (s : State) (k : GussetState) : (s.setGusset k).cameraPorts = s.cameraPorts := rfl
@[simp] theorem setGusset_etherPorts (s : State) (k : GussetState) : (s.setGusset k).etherPorts = s.etherPorts := rfl
@[simp] theorem setGusset_groups (s : State) (k : GussetState) : (s.setGusset k).groups = s.groups := rfl
@[simp] theorem setGusset_time (s : State) (k : GussetState) : (s.setGusset k).time = s.time := rfl
@[simp] theorem setGusset_link (s : State) (k : GussetState) : (s.setGusset k).link = s.link := rfl
@[simp] theorem setGusset_boot (s : State) (k : GussetState) : (s.setGusset k).boot = s.boot := rfl
@[simp] theorem setGusset_hk (s : State) (k : GussetState) : (s.setGusset k).hk = s.hk := rfl
@[simp] theorem setGusset_out (s : State) (k : GussetState) : (s.setGusset k).out = s.out := rfl
@[simp] theorem setGusset_laneFails (s : State) (k : GussetState) : (s.setGusset k).laneFails = s.laneFails := rfl
@[simp] theorem setGusset_testing (s : State) (k : GussetState) : (s.setGusset k).testing = s.testing := rfl
@[simp] theorem setGusset_fatal (s : State) (k : GussetState) : (s.setGusset k).fatal = s.fatal := rfl

@[simp] theorem setSlice_ctx (s : State) (k : SliceState) : (s.setSlice k).ctx = s.ctx := rfl
@[simp] theorem setSlice_self (s : State) (k : SliceState) : (s.setSlice k).self = s.self := rfl
@[simp] theorem setSlice_others (s : State) (k : SliceState) : (s.setSlice k).others = s.others := rfl
@[simp] theorem setSlice_side (s : State) (k : SliceState) : (s.setSlice k).side = s.side := rfl
@[simp] theorem setSlice_agenda (s : State) (k : SliceState) : (s.setSlice k).agenda = s.agenda := rfl
@[simp] theorem setSlice_moves (s : State) (k : SliceState) : (s.setSlice k).moves = s.moves := rfl
@[simp] theorem setSlice_draws (s : State) (k : SliceState) : (s.setSlice k).draws = s.draws := rfl
@[simp] theorem setSlice_mem (s : State) (k : SliceState) : (s.setSlice k).mem = s.mem := rfl
@[simp] theorem setSlice_dram (s : State) (k : SliceState) : (s.setSlice k).dram = s.dram := rfl
@[simp] theorem setSlice_poison (s : State) (k : SliceState) : (s.setSlice k).poison = s.poison := rfl
@[simp] theorem setSlice_tlb (s : State) (k : SliceState) : (s.setSlice k).tlb = s.tlb := rfl
@[simp] theorem setSlice_walks (s : State) (k : SliceState) : (s.setSlice k).walks = s.walks := rfl
@[simp] theorem setSlice_spaces (s : State) (k : SliceState) : (s.setSlice k).spaces = s.spaces := rfl
@[simp] theorem setSlice_cores (s : State) (k : SliceState) : (s.setSlice k).cores = s.cores := rfl
@[simp] theorem setSlice_gussets (s : State) (k : SliceState) : (s.setSlice k).gussets = s.gussets := rfl
@[simp] theorem setSlice_arbiters (s : State) (k : SliceState) : (s.setSlice k).arbiters = s.arbiters := rfl
@[simp] theorem setSlice_nextPacket (s : State) (k : SliceState) : (s.setSlice k).nextPacket = s.nextPacket := rfl
@[simp] theorem setSlice_arrays (s : State) (k : SliceState) : (s.setSlice k).arrays = s.arrays := rfl
@[simp] theorem setSlice_streams (s : State) (k : SliceState) : (s.setSlice k).streams = s.streams := rfl
@[simp] theorem setSlice_streamGens (s : State) (k : SliceState) : (s.setSlice k).streamGens = s.streamGens := rfl
@[simp] theorem setSlice_starts (s : State) (k : SliceState) : (s.setSlice k).starts = s.starts := rfl
@[simp] theorem setSlice_rings (s : State) (k : SliceState) : (s.setSlice k).rings = s.rings := rfl
@[simp] theorem setSlice_lastRing (s : State) (k : SliceState) : (s.setSlice k).lastRing = s.lastRing := rfl
@[simp] theorem setSlice_matches_ (s : State) (k : SliceState) : (s.setSlice k).matches_ = s.matches_ := rfl
@[simp] theorem setSlice_slots (s : State) (k : SliceState) : (s.setSlice k).slots = s.slots := rfl
@[simp] theorem setSlice_admissions (s : State) (k : SliceState) : (s.setSlice k).admissions = s.admissions := rfl
@[simp] theorem setSlice_queues (s : State) (k : SliceState) : (s.setSlice k).queues = s.queues := rfl
@[simp] theorem setSlice_jobs (s : State) (k : SliceState) : (s.setSlice k).jobs = s.jobs := rfl
@[simp] theorem setSlice_channels (s : State) (k : SliceState) : (s.setSlice k).channels = s.channels := rfl
@[simp] theorem setSlice_cameraPorts (s : State) (k : SliceState) : (s.setSlice k).cameraPorts = s.cameraPorts := rfl
@[simp] theorem setSlice_etherPorts (s : State) (k : SliceState) : (s.setSlice k).etherPorts = s.etherPorts := rfl
@[simp] theorem setSlice_groups (s : State) (k : SliceState) : (s.setSlice k).groups = s.groups := rfl
@[simp] theorem setSlice_time (s : State) (k : SliceState) : (s.setSlice k).time = s.time := rfl
@[simp] theorem setSlice_link (s : State) (k : SliceState) : (s.setSlice k).link = s.link := rfl
@[simp] theorem setSlice_boot (s : State) (k : SliceState) : (s.setSlice k).boot = s.boot := rfl
@[simp] theorem setSlice_hk (s : State) (k : SliceState) : (s.setSlice k).hk = s.hk := rfl
@[simp] theorem setSlice_out (s : State) (k : SliceState) : (s.setSlice k).out = s.out := rfl
@[simp] theorem setSlice_laneFails (s : State) (k : SliceState) : (s.setSlice k).laneFails = s.laneFails := rfl
@[simp] theorem setSlice_testing (s : State) (k : SliceState) : (s.setSlice k).testing = s.testing := rfl
@[simp] theorem setSlice_fatal (s : State) (k : SliceState) : (s.setSlice k).fatal = s.fatal := rfl

@[simp] theorem setArray_ctx (s : State) (a : ArrayState) : (s.setArray a).ctx = s.ctx := rfl
@[simp] theorem setArray_self (s : State) (a : ArrayState) : (s.setArray a).self = s.self := rfl
@[simp] theorem setArray_others (s : State) (a : ArrayState) : (s.setArray a).others = s.others := rfl
@[simp] theorem setArray_side (s : State) (a : ArrayState) : (s.setArray a).side = s.side := rfl
@[simp] theorem setArray_agenda (s : State) (a : ArrayState) : (s.setArray a).agenda = s.agenda := rfl
@[simp] theorem setArray_moves (s : State) (a : ArrayState) : (s.setArray a).moves = s.moves := rfl
@[simp] theorem setArray_draws (s : State) (a : ArrayState) : (s.setArray a).draws = s.draws := rfl
@[simp] theorem setArray_mem (s : State) (a : ArrayState) : (s.setArray a).mem = s.mem := rfl
@[simp] theorem setArray_dram (s : State) (a : ArrayState) : (s.setArray a).dram = s.dram := rfl
@[simp] theorem setArray_poison (s : State) (a : ArrayState) : (s.setArray a).poison = s.poison := rfl
@[simp] theorem setArray_tlb (s : State) (a : ArrayState) : (s.setArray a).tlb = s.tlb := rfl
@[simp] theorem setArray_walks (s : State) (a : ArrayState) : (s.setArray a).walks = s.walks := rfl
@[simp] theorem setArray_spaces (s : State) (a : ArrayState) : (s.setArray a).spaces = s.spaces := rfl
@[simp] theorem setArray_slices (s : State) (a : ArrayState) : (s.setArray a).slices = s.slices := rfl
@[simp] theorem setArray_cores (s : State) (a : ArrayState) : (s.setArray a).cores = s.cores := rfl
@[simp] theorem setArray_gussets (s : State) (a : ArrayState) : (s.setArray a).gussets = s.gussets := rfl
@[simp] theorem setArray_arbiters (s : State) (a : ArrayState) : (s.setArray a).arbiters = s.arbiters := rfl
@[simp] theorem setArray_nextPacket (s : State) (a : ArrayState) : (s.setArray a).nextPacket = s.nextPacket := rfl
@[simp] theorem setArray_streams (s : State) (a : ArrayState) : (s.setArray a).streams = s.streams := rfl
@[simp] theorem setArray_streamGens (s : State) (a : ArrayState) : (s.setArray a).streamGens = s.streamGens := rfl
@[simp] theorem setArray_starts (s : State) (a : ArrayState) : (s.setArray a).starts = s.starts := rfl
@[simp] theorem setArray_rings (s : State) (a : ArrayState) : (s.setArray a).rings = s.rings := rfl
@[simp] theorem setArray_lastRing (s : State) (a : ArrayState) : (s.setArray a).lastRing = s.lastRing := rfl
@[simp] theorem setArray_matches_ (s : State) (a : ArrayState) : (s.setArray a).matches_ = s.matches_ := rfl
@[simp] theorem setArray_slots (s : State) (a : ArrayState) : (s.setArray a).slots = s.slots := rfl
@[simp] theorem setArray_admissions (s : State) (a : ArrayState) : (s.setArray a).admissions = s.admissions := rfl
@[simp] theorem setArray_queues (s : State) (a : ArrayState) : (s.setArray a).queues = s.queues := rfl
@[simp] theorem setArray_jobs (s : State) (a : ArrayState) : (s.setArray a).jobs = s.jobs := rfl
@[simp] theorem setArray_channels (s : State) (a : ArrayState) : (s.setArray a).channels = s.channels := rfl
@[simp] theorem setArray_cameraPorts (s : State) (a : ArrayState) : (s.setArray a).cameraPorts = s.cameraPorts := rfl
@[simp] theorem setArray_etherPorts (s : State) (a : ArrayState) : (s.setArray a).etherPorts = s.etherPorts := rfl
@[simp] theorem setArray_groups (s : State) (a : ArrayState) : (s.setArray a).groups = s.groups := rfl
@[simp] theorem setArray_time (s : State) (a : ArrayState) : (s.setArray a).time = s.time := rfl
@[simp] theorem setArray_link (s : State) (a : ArrayState) : (s.setArray a).link = s.link := rfl
@[simp] theorem setArray_boot (s : State) (a : ArrayState) : (s.setArray a).boot = s.boot := rfl
@[simp] theorem setArray_hk (s : State) (a : ArrayState) : (s.setArray a).hk = s.hk := rfl
@[simp] theorem setArray_out (s : State) (a : ArrayState) : (s.setArray a).out = s.out := rfl
@[simp] theorem setArray_laneFails (s : State) (a : ArrayState) : (s.setArray a).laneFails = s.laneFails := rfl
@[simp] theorem setArray_testing (s : State) (a : ArrayState) : (s.setArray a).testing = s.testing := rfl
@[simp] theorem setArray_fatal (s : State) (a : ArrayState) : (s.setArray a).fatal = s.fatal := rfl

@[simp] theorem setJob_ctx (s : State) (j : Job) : (s.setJob j).ctx = s.ctx := rfl
@[simp] theorem setJob_self (s : State) (j : Job) : (s.setJob j).self = s.self := rfl
@[simp] theorem setJob_others (s : State) (j : Job) : (s.setJob j).others = s.others := rfl
@[simp] theorem setJob_side (s : State) (j : Job) : (s.setJob j).side = s.side := rfl
@[simp] theorem setJob_agenda (s : State) (j : Job) : (s.setJob j).agenda = s.agenda := rfl
@[simp] theorem setJob_moves (s : State) (j : Job) : (s.setJob j).moves = s.moves := rfl
@[simp] theorem setJob_draws (s : State) (j : Job) : (s.setJob j).draws = s.draws := rfl
@[simp] theorem setJob_mem (s : State) (j : Job) : (s.setJob j).mem = s.mem := rfl
@[simp] theorem setJob_dram (s : State) (j : Job) : (s.setJob j).dram = s.dram := rfl
@[simp] theorem setJob_poison (s : State) (j : Job) : (s.setJob j).poison = s.poison := rfl
@[simp] theorem setJob_tlb (s : State) (j : Job) : (s.setJob j).tlb = s.tlb := rfl
@[simp] theorem setJob_walks (s : State) (j : Job) : (s.setJob j).walks = s.walks := rfl
@[simp] theorem setJob_spaces (s : State) (j : Job) : (s.setJob j).spaces = s.spaces := rfl
@[simp] theorem setJob_slices (s : State) (j : Job) : (s.setJob j).slices = s.slices := rfl
@[simp] theorem setJob_cores (s : State) (j : Job) : (s.setJob j).cores = s.cores := rfl
@[simp] theorem setJob_gussets (s : State) (j : Job) : (s.setJob j).gussets = s.gussets := rfl
@[simp] theorem setJob_arbiters (s : State) (j : Job) : (s.setJob j).arbiters = s.arbiters := rfl
@[simp] theorem setJob_nextPacket (s : State) (j : Job) : (s.setJob j).nextPacket = s.nextPacket := rfl
@[simp] theorem setJob_arrays (s : State) (j : Job) : (s.setJob j).arrays = s.arrays := rfl
@[simp] theorem setJob_streams (s : State) (j : Job) : (s.setJob j).streams = s.streams := rfl
@[simp] theorem setJob_streamGens (s : State) (j : Job) : (s.setJob j).streamGens = s.streamGens := rfl
@[simp] theorem setJob_starts (s : State) (j : Job) : (s.setJob j).starts = s.starts := rfl
@[simp] theorem setJob_rings (s : State) (j : Job) : (s.setJob j).rings = s.rings := rfl
@[simp] theorem setJob_lastRing (s : State) (j : Job) : (s.setJob j).lastRing = s.lastRing := rfl
@[simp] theorem setJob_matches_ (s : State) (j : Job) : (s.setJob j).matches_ = s.matches_ := rfl
@[simp] theorem setJob_slots (s : State) (j : Job) : (s.setJob j).slots = s.slots := rfl
@[simp] theorem setJob_admissions (s : State) (j : Job) : (s.setJob j).admissions = s.admissions := rfl
@[simp] theorem setJob_queues (s : State) (j : Job) : (s.setJob j).queues = s.queues := rfl
@[simp] theorem setJob_channels (s : State) (j : Job) : (s.setJob j).channels = s.channels := rfl
@[simp] theorem setJob_cameraPorts (s : State) (j : Job) : (s.setJob j).cameraPorts = s.cameraPorts := rfl
@[simp] theorem setJob_etherPorts (s : State) (j : Job) : (s.setJob j).etherPorts = s.etherPorts := rfl
@[simp] theorem setJob_groups (s : State) (j : Job) : (s.setJob j).groups = s.groups := rfl
@[simp] theorem setJob_time (s : State) (j : Job) : (s.setJob j).time = s.time := rfl
@[simp] theorem setJob_link (s : State) (j : Job) : (s.setJob j).link = s.link := rfl
@[simp] theorem setJob_boot (s : State) (j : Job) : (s.setJob j).boot = s.boot := rfl
@[simp] theorem setJob_hk (s : State) (j : Job) : (s.setJob j).hk = s.hk := rfl
@[simp] theorem setJob_out (s : State) (j : Job) : (s.setJob j).out = s.out := rfl
@[simp] theorem setJob_laneFails (s : State) (j : Job) : (s.setJob j).laneFails = s.laneFails := rfl
@[simp] theorem setJob_testing (s : State) (j : Job) : (s.setJob j).testing = s.testing := rfl
@[simp] theorem setJob_fatal (s : State) (j : Job) : (s.setJob j).fatal = s.fatal := rfl

@[simp] theorem mod_ctx (s : State) (f : Context → Context) : (s.mod f).ctx = f s.ctx := rfl
@[simp] theorem drawn_draws (s : State) : s.drawn.draws = s.draws + 1 := rfl
@[simp] theorem mod_rowBits (s : State) (f : Context → Context) : (s.mod f).rowBits = s.rowBits := rfl
@[simp] theorem mod_rowBytes (s : State) (f : Context → Context) : (s.mod f).rowBytes = s.rowBytes := rfl

end Sys2Proof.Machine.State

namespace Sys2Proof.Machine

/-- A write to g changes the register file, and only when the register is not g0; what was owed to the register is owed no more (R131, R132). -/
theorem Context.setG_eq (r : Fin 32) (v : Word) (c : Context) (h : r.val ≠ 0) :
    c.setG r v = { c with g := c.g.set r v, accesses := c.accesses.map (Access.supersede r) } := if_neg h

/-- An access that owes another register, or none, is left alone. -/
theorem Access.supersede_other (r : Fin 32) (a : Access) (h : ¬ (a.kind.writesG = true ∧ a.dest = r)) : a.supersede r = a := if_neg h

/-- A write to a register that nothing owes changes the register file alone. -/
theorem Context.setG_settled (r : Fin 32) (v : Word) (c : Context) (h : c.pendingG r = false) :
    c.setG r v = { c with g := if r.val = 0 then c.g else c.g.set r v } := by
  by_cases h0 : r.val = 0
  · simp [Context.setG, h0]
  · have ha : c.accesses.map (Access.supersede r) = c.accesses := by
      rw [List.map_congr_left (g := id)]
      · simp
      · intro a hm
        refine Access.supersede_other r a fun k => ?_
        simp only [Context.pendingG, Bool.and_eq_false_iff, List.any_eq_false] at h
        rcases h with h | h
        · simp [h0] at h
        · exact h a hm (by simp [k.1, k.2])
    rw [Context.setG_eq r v c h0, ha, if_neg h0]

theorem Context.setB_eq (r : Fin 4) (v : Word) (c : Context) : c.setB r v = { c with b := c.b.set r v } := rfl

theorem Context.setC_eq (r : Fin 4) (v : Bool) (c : Context) : c.setC r v = { c with c := c.c.set r v } := rfl

@[simp] theorem Context.getG_zero (c : Context) : c.getG 0 = 0 := rfl

/-- Reading g after a write (R132). -/
theorem Context.getG_setG (r x : Fin 32) (v : Word) (c : Context) :
    (c.setG r v).getG x = if x = r ∧ r.val ≠ 0 then v else c.getG x := by
  simp only [Context.getG, Context.setG]
  by_cases h : r.val = 0
  · simp [h]
  · by_cases hx : x.val = 0
    · have : x ≠ r := fun e => h (e ▸ hx)
      simp [h, hx, this]
    · by_cases hr : x = r
      · subst hr; simp [h]
      · have : r.val ≠ x.val := fun e => hr (Fin.ext e.symm)
        simp [h, hx, hr, this]

end Sys2Proof.Machine
end

