-- ==== Sys2Proof/Laws/Slices.lean ====
section
/-! SUPPORT. What moving a slice past an instruction may change (R104, R106, R146, R440): `retire` gives a state that is `Passed`. -/

namespace Sys2Proof.Machine

namespace Context

@[simp] theorem still_setPc (side : Slice) (v : Word) (c : Context) : (c.setPc side v).still side = c.still side := by
  cases side <;> rfl

@[simp] theorem still_setRedir (side : Slice) (r : Option Redirect) (c : Context) :
    (c.setRedir side r).still side = c.still side := by
  cases side <;> rfl

@[simp] theorem still_commonPoint (side : Slice) (a : Word) (c : Context) : (c.commonPoint side a).still side = c.still side := by
  cases side <;> rfl

@[simp] theorem still_logIssue (side : Slice) (a : Word) (c : Context) : (c.logIssue side a).still side = c.still side := by
  cases side <;> rfl

/-- Writing a loop level back with its bounds unchanged. -/
theorem still_setLevel (side : Slice) (l : LoopLevel) (r : LoopRegs) (c : Context) (h : r.bounds = (c.level side l).bounds) :
    (c.setLevel side l r).still side = c.still side := by
  cases side <;> cases l <;> simp_all [setLevel, still, level, levelA, levelB]

end Context

@[simp] theorem leaveLevel_bounds (t : Nat) (r : LoopRegs) : (leaveLevel t r).bounds = r.bounds := by
  unfold leaveLevel; split <;> rfl

@[simp] theorem endCheck_bounds (r : LoopRegs) (i j : Nat) : (endCheck r i j).1.bounds = r.bounds := by
  unfold endCheck; split
  · split <;> rfl
  · rfl

@[simp] theorem emptyBody_bounds (s : State) (side : Slice) (r : LoopRegs × Option Nat) : (emptyBody s side r).1.bounds = r.1.bounds := by
  unfold emptyBody; split
  · split <;> rfl
  · rfl

namespace Passed

theorem refl (side : Slice) (s : State) : Passed side s s := ⟨rfl, rfl⟩

theorem trans {side : Slice} {s t u : State} (h : Passed side s t) (k : Passed side t u) : Passed side s u := by
  refine ⟨?_, k.2.trans h.2⟩
  have h1 := h.1; have k1 := k.1
  rw [k1, h1]

theorem mod {side : Slice} {s t : State} (f : Context → Context) (h : Passed side s t) (k : ∀ c, (f c).still side = c.still side) :
    Passed side s (t.mod f) :=
  h.trans ⟨rfl, k _⟩

theorem mod_at {side : Slice} {s t : State} (f : Context → Context) (h : Passed side s t) (k : (f t.ctx).still side = t.ctx.still side) :
    Passed side s (t.mod f) :=
  h.trans ⟨rfl, k⟩

end Passed

theorem stepSequence_passed (s : State) (side : Slice) (i j : Nat) : Passed side s (stepSequence s side i j) := by
  unfold stepSequence
  have hB : ∀ r, r.bounds = (s.ctx.levelB side).bounds → (s.ctx.setLevel side .B r).still side = s.ctx.still side :=
    fun r h => Context.still_setLevel side .B r s.ctx h
  have hlevel : ∀ r, (s.ctx.setLevel side .B r).levelA side = s.ctx.levelA side := by
    intro r; cases side <;> rfl
  have hA : ∀ r q, r.bounds = (s.ctx.levelB side).bounds → q.bounds = (s.ctx.levelA side).bounds →
      ((s.ctx.setLevel side .B r).setLevel side .A q).still side = s.ctx.still side := by
    intro r q h k
    rw [Context.still_setLevel side .A q _ (by simp [Context.level, hlevel, k]), hB r h]
  have bounds (r : LoopRegs) : (emptyBody s side (endCheck r i j)).1.bounds = r.bounds := by simp
  rcases hb : emptyBody s side (endCheck (s.ctx.levelB side) i j) with ⟨rb, ob⟩
  have b : rb.bounds = (s.ctx.levelB side).bounds := by have := bounds (s.ctx.levelB side); rwa [hb] at this
  rcases ha : emptyBody s side (endCheck (s.ctx.levelA side) i j) with ⟨ra, oa⟩
  have a : ra.bounds = (s.ctx.levelA side).bounds := by have := bounds (s.ctx.levelA side); rwa [ha] at this
  cases ob with
  | some t => exact (Passed.refl side s).mod_at _ (by simp [hB rb b])
  | none => exact (Passed.refl side s).mod_at _ (by simp [hA rb ra b a])

theorem goTo_passed (s : State) (side : Slice) (t : Word) : Passed side s (goTo s side t) := by
  unfold goTo
  refine (Passed.refl side s).mod_at _ ?_
  have hlevel : ∀ r, (s.ctx.setLevel side .A r).levelB side = s.ctx.levelB side := by intro r; cases side <;> rfl
  simp only [Context.still_setPc, Context.still_setRedir]
  rw [Context.still_setLevel side .B _ _ (by simp [Context.level, hlevel]), Context.still_setLevel side .A _ _ (by simp [Context.level])]

theorem jumpTo_passed (s : State) (side : Slice) (t : Word) : Passed side s (jumpTo s side t) :=
  (goTo_passed s side t).mod _ (Context.still_commonPoint side _)

/-- The start of a run-ahead keeps the loop levels aside. -/
theorem Context.still_beginSpec (c : Context) : (beginSpec c).still .control = c.still .control := rfl

/-- Moving on changes only the slice's pc, loop counts, pending redirection and record of program order. -/
theorem advance_passed (s : State) (side : Slice) (len : Nat) : Passed side s (advance s side len) := by
  unfold advance
  extract_lets i j hold u
  have hr : ∀ v r, Passed side s (s.mod (fun c => (c.setRedir side r).setPc side v)) := fun v r =>
    (Passed.refl side s).mod _ (fun c => by simp)
  by_cases hh : hold = true
  · simp only [hh, if_true]
    exact (Passed.refl side s).mod _ (fun c => by simp)
  · rw [if_neg hh]
    cases s.ctx.redir side with
    | none => exact stepSequence_passed s side _ _
    | some r =>
      dsimp only
      by_cases h1 : r.after.toNat ≤ j
      · rw [if_pos h1]
        by_cases h2 : side = .control ∧ s.ctx.prediction.isSome = true
        · rw [if_pos h2]
          obtain ⟨rfl, -⟩ := h2
          have hb : Passed .control s u :=
            (Passed.refl .control s).mod _ (fun c =>
              (Context.still_beginSpec (c.setRedir .control none)).trans (Context.still_setRedir .control none c))
          split
          · exact hb.trans (goTo_passed u .control _)
          · exact hb.trans (stepSequence_passed u .control i j)
        · rw [if_neg h2]
          split
          · exact jumpTo_passed s side _
          · exact ((Passed.refl side s).mod _ (fun c => by simp)).trans (stepSequence_passed _ side _ _)
      · rw [if_neg h1]
        exact stepSequence_passed s side _ _

theorem retire_passed (s : State) (side : Slice) (len : Nat) (both : Bool) : Passed side s (retire s side len both) := by
  unfold retire
  exact ((Passed.refl side s).mod _ (fun c => by split <;> simp)).trans (advance_passed _ side len)

namespace Passed

variable {side : Slice} {s t : State}

theorem mem (h : Passed side s t) : t.mem = s.mem := by rw [h.1]

theorem others (h : Passed side s t) : t.others = s.others := by rw [h.1]

theorem self (h : Passed side s t) : t.self = s.self := by rw [h.1]

theorem g (h : Passed side s t) : t.ctx.g = s.ctx.g := by
  have := congrArg Context.g h.2; cases side <;> exact this

theorem c (h : Passed side s t) : t.ctx.c = s.ctx.c := by
  have := congrArg Context.c h.2; cases side <;> exact this

theorem b (h : Passed side s t) : t.ctx.b = s.ctx.b := by
  have := congrArg Context.b h.2; cases side <;> exact this

theorem v (h : Passed side s t) : t.ctx.v = s.ctx.v := by
  have := congrArg Context.v h.2; cases side <;> exact this

theorem k (h : Passed side s t) : t.ctx.k = s.ctx.k := by
  have := congrArg Context.k h.2; cases side <;> exact this

theorem m (h : Passed side s t) : t.ctx.m = s.ctx.m := by
  have := congrArg Context.m h.2; cases side <;> exact this

theorem f (h : Passed side s t) : t.ctx.f = s.ctx.f := by
  have := congrArg Context.f h.2; cases side <;> exact this

theorem fpmode (h : Passed side s t) : t.ctx.fpmode = s.ctx.fpmode := by
  have := congrArg Context.fpmode h.2; cases side <;> exact this

theorem w16 (h : Passed side s t) : t.ctx.w16 = s.ctx.w16 := by
  have := congrArg Context.w16 h.2; cases side <;> exact this

theorem latches (h : Passed side s t) : t.ctx.latches = s.ctx.latches := by
  have := congrArg Context.latches h.2; cases side <;> exact this

theorem accesses (h : Passed side s t) : t.ctx.accesses = s.ctx.accesses := by
  have := congrArg Context.accesses h.2; cases side <;> exact this

theorem ops (h : Passed side s t) : t.ctx.ops = s.ctx.ops := by
  have := congrArg Context.ops h.2; cases side <;> exact this

theorem pcc (h : Passed .execute s t) : t.ctx.pcc = s.ctx.pcc := by
  have := congrArg Context.pcc h.2; exact this

theorem pcx (h : Passed .control s t) : t.ctx.pcx = s.ctx.pcx := by
  have := congrArg Context.pcx h.2; exact this

end Passed

end Sys2Proof.Machine
end

