-- ==== Sys2Proof/Laws/Access.lean ====
section
/-! SUPPORT. What sending the accesses of a context on their way may change (R250, R283): `settle` gives a state that is `Settled`,
and `issueAccess` with `retire` one that is `Sent`. What late requests change (R293). -/

namespace Sys2Proof.Machine

/-- t is s after its accesses have been sent on their way. -/
def Settled (s t : State) : Prop :=
  t = { s with ctx := t.ctx, arbiters := t.arbiters, nextPacket := t.nextPacket } ∧ t.ctx.unsent = s.ctx.unsent

namespace Settled

theorem refl (s : State) : Settled s s := ⟨rfl, rfl⟩

theorem trans {s t u : State} (h : Settled s t) (k : Settled t u) : Settled s u := by
  refine ⟨?_, k.2.trans h.2⟩
  have h1 := h.1; have k1 := k.1
  rw [k1, h1]

theorem mod_at {s t : State} (f : Context → Context) (h : Settled s t) (k : (f t.ctx).unsent = t.ctx.unsent) : Settled s (t.mod f) :=
  h.trans ⟨rfl, k⟩

end Settled

/-- Taking rows and progress from a context's accesses. -/
theorem unsent_accesses (c : Context) (l : List Access) (q : List RowEntry) (h : l.map Access.asIssued = c.accesses.map Access.asIssued) :
    ({ c with accesses := l, sq := q } : Context).unsent = c.unsent := by
  simp [Context.unsent, h]

theorem takeRows_asIssued (claimed : List Nat) (n : Nat) : ∀ (a : Access) (q : List RowEntry),
    (takeRows claimed n a q).1.asIssued = a.asIssued := by
  induction n with
  | zero => intro a q; rfl
  | succ n ih =>
    intro a q
    simp only [takeRows]
    split
    · split
      · rw [ih]; rfl
      · rfl
    · rfl

theorem feedRows_asIssued (bits : Nat) (claimed : List Nat) (l : List Access) : ∀ (stop : Bool) (q : List RowEntry),
    (feedRows bits claimed stop l q).1.map Access.asIssued = l.map Access.asIssued := by
  induction l with
  | nil => intro stop q; rfl
  | cons a as ih =>
    intro stop q
    simp only [feedRows, List.map_cons, ih]
    congr 1
    split
    · rfl
    · exact takeRows_asIssued _ _ _ _

theorem fixFormat_asIssued (s : State) (a : Access) : (fixFormat s a).asIssued = a.asIssued := by
  unfold fixFormat
  split <;> rfl

theorem faultAt_asIssued (c : Cause) (va : Word) (a : Access) : (a.faultAt c va).asIssued = a.asIssued := rfl

theorem planned_asIssued (s : State) (a : Access) : (planned s a).asIssued = a.asIssued := by
  unfold planned
  split
  · rfl
  · rw [← fixFormat_asIssued s a]
    dsimp only
    split
    · rfl
    · rfl
    · exact faultAt_asIssued _ _ _
    · split
      · exact faultAt_asIssued _ _ _
      · rfl

theorem planAll_settled (s : State) : Settled s (planAll s) := by
  unfold planAll
  refine (((Settled.refl s).mod_at _ ?_).mod_at _ ?_)
  · exact unsent_accesses _ _ _ (feedRows_asIssued _ _ _ _ _)
  · simp only [State.mod_ctx]
    refine unsent_accesses (c := { s.ctx with
      accesses := (feedRows s.rowBits (s.ctx.accesses.flatMap Access.rowIds) false s.ctx.accesses s.ctx.sq).1
      sq := (feedRows s.rowBits (s.ctx.accesses.flatMap Access.rowIds) false s.ctx.accesses s.ctx.sq).2 }) _ _ ?_
    rw [List.map_map]
    exact List.map_congr_left (fun a _ => planned_asIssued _ a)

theorem markSent_unsent (i l : Nat) (c : Context) : (markSent i l c).unsent = c.unsent := by
  unfold markSent
  refine unsent_accesses c _ c.sq ?_
  rw [List.map_map]
  refine List.map_congr_left (fun a _ => ?_)
  simp only [Function.comp]
  split <;> rfl

theorem inject_settled (s : State) (p : Packet) : Settled s (inject s p) := ⟨rfl, rfl⟩

theorem injectAll_settled (s : State) (p : Packet) (n : Nat) : Settled s (injectAll s p n) := by
  unfold injectAll
  split
  · exact (inject_settled _ _).trans (inject_settled _ _)
  · exact inject_settled _ _

theorem sendParts_settled (s : State) (before : List Access) (a : Access) : Settled s (sendParts s before a) := by
  unfold sendParts
  generalize a.parts = ps
  suffices h : ∀ (ps : List Part) (t : State), Settled s t → Settled s (ps.foldl (fun s p =>
    let k := partPacket s a p
    let n := flitsFor (requestBytes a p)
    if mayPerform s before a p && !performsHere s a p && portRoom s k n then injectAll (s.mod (markSent a.id p.line)) k n
    else s) t) from h ps s (Settled.refl s)
  intro ps
  induction ps with
  | nil => intro t h; exact h
  | cons p ps ih =>
    intro t h
    refine ih _ ?_
    dsimp only
    split
    · exact (h.mod_at _ (markSent_unsent _ _ _)).trans (injectAll_settled _ _ _)
    · exact h

theorem pumpFrom_settled (l : List Access) : ∀ (b : List Access) (s : State), Settled s (pumpFrom b l s) := by
  induction l with
  | nil => intro b s; exact Settled.refl s
  | cons a l ih => intro b s; exact (sendParts_settled s b a).trans (ih _ _)

/-- Pairing, planning and sending change only how far accesses have come, sq, and the packets on the chains. -/
theorem settle_settled (s : State) : Settled s (settle s) :=
  (planAll_settled s).trans (pumpFrom_settled _ _ _)

/-- An issued access stands last, under the next identifier, and the slice has moved past its instruction. -/
theorem issueAccess_sent (side : Slice) (s : State) (a : Access) (len : Nat) (both : Bool) :
    Sent side (s.mod (fun c => { c with accesses := c.accesses ++ [{ a with id := c.nextId }], nextId := c.nextId + 1 }))
      (retire (issueAccess s a) side len both) := by
  have hs := settle_settled (s.mod (fun c => { c with accesses := c.accesses ++ [{ a with id := c.nextId }], nextId := c.nextId + 1 }))
  have hp := retire_passed (issueAccess s a) side len both
  refine ⟨?_, ?_⟩
  · have h1 := hp.1; have h2 := hs.1
    unfold issueAccess at h1 ⊢
    rw [h1, h2]
  · rw [hp.2]
    have h2 := hs.2
    revert h2
    unfold issueAccess
    generalize settle _ = t
    generalize s.mod _ = u
    intro h2
    have acc := congrArg Context.accesses h2
    cases side <;> (simp only [Context.unsent, Context.still, Context.mk.injEq] at h2 ⊢; simp_all)

/-! ## Late requests (R293) -/

/-- Where a context counts in its own register and no exhausted-slack event is enabled at a level, a late request of it changes LATE alone. -/
theorem countLate_register (s : State) (u va : Nat) (h : countsHere s = true) (t : bitOf (s.ctx.slacktab[2]).toNat u = false) :
    countLate s u va = s.mod (fun c => { c with late := (countLate s u va).ctx.late }) := by
  simp [countLate, lateOf, setLate, h, t, State.mod]

/-- Requests of no urgency count nowhere. -/
@[simp] theorem requestLates_unhurried (s : State) (u n va : Nat) : requestLates s 4095 u n va = s := if_pos rfl

/-- No request counts nothing. -/
@[simp] theorem countLates_none (s : State) (u va : Nat) : countLates s u 0 va = s := if_pos rfl

/-- In the same case any number of late requests changes LATE alone. -/
theorem countLates_register (s : State) (u k va : Nat) (h : countsHere s = true) (t : bitOf (s.ctx.slacktab[2]).toNat u = false) :
    countLates s u k va = s.mod (fun c => { c with late := (countLates s u k va).ctx.late }) := by
  have e := countLate_register s u va h t
  have hs : countsHere (countLate s u va) = true := by rw [e]; exact h
  unfold countLates
  split
  · rfl
  · simp only [lateOf, setLate, hs, if_true]
    rw [e]
    rfl

end Sys2Proof.Machine
end

