-- ==== Sys2Proof/Laws/Exec.lean ====
section
/-! SUPPORT. What `exec` runs for each instruction and event: one equation per constructor. -/

namespace Sys2Proof.Machine

theorem exec_add (d a b : Fin 32) (s : State) : exec (.add d a b) s = execAdd d a b s := rfl
theorem exec_sub (d a b : Fin 32) (s : State) : exec (.sub d a b) s = execSub d a b s := rfl
theorem exec_and (d a b : Fin 32) (s : State) : exec (.and d a b) s = execAnd d a b s := rfl
theorem exec_or (d a b : Fin 32) (s : State) : exec (.or d a b) s = execOr d a b s := rfl
theorem exec_xor (d a b : Fin 32) (s : State) : exec (.xor d a b) s = execXor d a b s := rfl
theorem exec_andn (d a b : Fin 32) (s : State) : exec (.andn d a b) s = execAndn d a b s := rfl
theorem exec_shl (d a b : Fin 32) (s : State) : exec (.shl d a b) s = execShl d a b s := rfl
theorem exec_shr (d a b : Fin 32) (s : State) : exec (.shr d a b) s = execShr d a b s := rfl
theorem exec_sra (d a b : Fin 32) (s : State) : exec (.sra d a b) s = execSra d a b s := rfl
theorem exec_slt (d a b : Fin 32) (s : State) : exec (.slt d a b) s = execSlt d a b s := rfl
theorem exec_sltu (d a b : Fin 32) (s : State) : exec (.sltu d a b) s = execSltu d a b s := rfl
theorem exec_min (d a b : Fin 32) (s : State) : exec (.min d a b) s = execMin d a b s := rfl
theorem exec_minu (d a b : Fin 32) (s : State) : exec (.minu d a b) s = execMinu d a b s := rfl
theorem exec_max (d a b : Fin 32) (s : State) : exec (.max d a b) s = execMax d a b s := rfl
theorem exec_maxu (d a b : Fin 32) (s : State) : exec (.maxu d a b) s = execMaxu d a b s := rfl
theorem exec_mul (d a b : Fin 32) (s : State) : exec (.mul d a b) s = execMul d a b s := rfl
theorem exec_mulh (d a b : Fin 32) (s : State) : exec (.mulh d a b) s = execMulh d a b s := rfl
theorem exec_mulhu (d a b : Fin 32) (s : State) : exec (.mulhu d a b) s = execMulhu d a b s := rfl
theorem exec_div (d a b : Fin 32) (s : State) : exec (.div d a b) s = execDiv d a b s := rfl
theorem exec_divu (d a b : Fin 32) (s : State) : exec (.divu d a b) s = execDivu d a b s := rfl
theorem exec_rem (d a b : Fin 32) (s : State) : exec (.rem d a b) s = execRem d a b s := rfl
theorem exec_remu (d a b : Fin 32) (s : State) : exec (.remu d a b) s = execRemu d a b s := rfl
theorem exec_clz (d a : Fin 32) (s : State) : exec (.clz d a) s = execClz d a s := rfl
theorem exec_popc (d a : Fin 32) (s : State) : exec (.popc d a) s = execPopc d a s := rfl
theorem exec_addsh (d a b : Fin 32) (s' : Fin 8) (s : State) : exec (.addsh d a b s') s = execAddsh d a b s' s := rfl
theorem exec_sel (d a b : Fin 32) (c : Fin 4) (s : State) : exec (.sel d a b c) s = execSel d a b c s := rfl
theorem exec_addi (d a : Fin 32) (i : BitVec 15) (s : State) : exec (.addi d a i) s = execAddi d a i s := rfl
theorem exec_andi (d a : Fin 32) (i : BitVec 15) (s : State) : exec (.andi d a i) s = execAndi d a i s := rfl
theorem exec_ori (d a : Fin 32) (i : BitVec 15) (s : State) : exec (.ori d a i) s = execOri d a i s := rfl
theorem exec_xori (d a : Fin 32) (i : BitVec 15) (s : State) : exec (.xori d a i) s = execXori d a i s := rfl
theorem exec_shli (d a : Fin 32) (n : Fin 64) (s : State) : exec (.shli d a n) s = execShli d a n s := rfl
theorem exec_shri (d a : Fin 32) (n : Fin 64) (s : State) : exec (.shri d a n) s = execShri d a n s := rfl
theorem exec_srai (d a : Fin 32) (n : Fin 64) (s : State) : exec (.srai d a n) s = execSrai d a n s := rfl
theorem exec_bfx (d a : Fin 32) (l p : Fin 64) (s : State) : exec (.bfx d a l p) s = execBfx d a l p s := rfl
theorem exec_bfxSx (d a : Fin 32) (l p : Fin 64) (s : State) : exec (.bfxSx d a l p) s = execBfxSx d a l p s := rfl
theorem exec_bfi (d a : Fin 32) (l p : Fin 64) (s : State) : exec (.bfi d a l p) s = execBfi d a l p s := rfl
theorem exec_li (d : Fin 32) (i : BitVec 20) (s : State) : exec (.li d i) s = execLi d i s := rfl
theorem exec_lih (d : Fin 32) (i : BitVec 20) (s : State) : exec (.lih d i) s = execLih d i s := rfl
theorem exec_cmp (c : Fin 4) (a b : Fin 32) (x : CmpCond) (s : State) : exec (.cmp c a b x) s = execCmp c a b x s := rfl
theorem exec_cmpImm (x : CmpCond) (c : Fin 4) (a : Fin 32) (i : BitVec 15) (s : State) : exec (.cmpImm x c a i) s = execCmpImm x c a i s := rfl
theorem exec_pbr (b : Fin 4) (o : BitVec 23) (s : State) : exec (.pbr b o) s = execPbr b o s := rfl
theorem exec_pbrg (b : Fin 4) (a : Fin 32) (s : State) : exec (.pbrg b a) s = execPbrg b a s := rfl
theorem exec_ldZ8 (d b : Fin 32) (c : Fin 16) (u : Fin 8) (o : BitVec 8) (s : State) : exec (.ldZ8 d b c u o) s = execLdZ8 d b c u o s := rfl
theorem exec_ldZ16 (d b : Fin 32) (c : Fin 16) (u : Fin 8) (o : BitVec 8) (s : State) : exec (.ldZ16 d b c u o) s = execLdZ16 d b c u o s := rfl
theorem exec_ldZ32 (d b : Fin 32) (c : Fin 16) (u : Fin 8) (o : BitVec 8) (s : State) : exec (.ldZ32 d b c u o) s = execLdZ32 d b c u o s := rfl
theorem exec_ldZ64 (d b : Fin 32) (c : Fin 16) (u : Fin 8) (o : BitVec 8) (s : State) : exec (.ldZ64 d b c u o) s = execLdZ64 d b c u o s := rfl
theorem exec_ldS8 (d b : Fin 32) (c : Fin 16) (u : Fin 8) (o : BitVec 8) (s : State) : exec (.ldS8 d b c u o) s = execLdS8 d b c u o s := rfl
theorem exec_ldS16 (d b : Fin 32) (c : Fin 16) (u : Fin 8) (o : BitVec 8) (s : State) : exec (.ldS16 d b c u o) s = execLdS16 d b c u o s := rfl
theorem exec_ldS32 (d b : Fin 32) (c : Fin 16) (u : Fin 8) (o : BitVec 8) (s : State) : exec (.ldS32 d b c u o) s = execLdS32 d b c u o s := rfl
theorem exec_stZ8 (d b : Fin 32) (c : Fin 16) (u : Fin 8) (o : BitVec 8) (s : State) : exec (.stZ8 d b c u o) s = execStZ8 d b c u o s := rfl
theorem exec_stZ16 (d b : Fin 32) (c : Fin 16) (u : Fin 8) (o : BitVec 8) (s : State) : exec (.stZ16 d b c u o) s = execStZ16 d b c u o s := rfl
theorem exec_stZ32 (d b : Fin 32) (c : Fin 16) (u : Fin 8) (o : BitVec 8) (s : State) : exec (.stZ32 d b c u o) s = execStZ32 d b c u o s := rfl
theorem exec_stZ64 (d b : Fin 32) (c : Fin 16) (u : Fin 8) (o : BitVec 8) (s : State) : exec (.stZ64 d b c u o) s = execStZ64 d b c u o s := rfl
theorem exec_vld (m b : Fin 32) (c : Fin 16) (u : Fin 8) (o : BitVec 8) (s : State) : exec (.vld m b c u o) s = execVld m b c u o s := rfl
theorem exec_vst (m b : Fin 32) (c : Fin 16) (u : Fin 8) (o : BitVec 8) (s : State) : exec (.vst m b c u o) s = execVst m b c u o s := rfl
theorem exec_vgather (m b : Fin 32) (c : Fin 16) (u : Fin 8) (s : State) : exec (.vgather m b c u) s = execVgather m b c u s := rfl
theorem exec_vscatter (m b : Fin 32) (c : Fin 16) (u : Fin 8) (s : State) : exec (.vscatter m b c u) s = execVscatter m b c u s := rfl
theorem exec_vradd (m b : Fin 32) (c : Fin 16) (u : Fin 8) (t : ElemType) (s : State) : exec (.vradd m b c u t) s = execVradd m b c u t s := rfl
theorem exec_amoZ32 (d a b : Fin 32) (c : Fin 16) (s' : Scope) (o : AmoOp) (s : State) : exec (.amoZ32 d a b c s' o) s = execAmoZ32 d a b c s' o s := rfl
theorem exec_amoZ64 (d a b : Fin 32) (c : Fin 16) (s' : Scope) (o : AmoOp) (s : State) : exec (.amoZ64 d a b c s' o) s = execAmoZ64 d a b c s' o s := rfl
theorem exec_casZ32 (d a b : Fin 32) (c : Fin 16) (s' : Scope) (s : State) : exec (.casZ32 d a b c s') s = execCasZ32 d a b c s' s := rfl
theorem exec_casZ64 (d a b : Fin 32) (c : Fin 16) (s' : Scope) (s : State) : exec (.casZ64 d a b c s') s = execCasZ64 d a b c s' s := rfl
theorem exec_pin (d a b : Fin 32) (s : State) : exec (.pin d a b) s = execPin d a b s := rfl
theorem exec_unpin (a b : Fin 32) (s : State) : exec (.unpin a b) s = execUnpin a b s := rfl
theorem exec_cflush (a b : Fin 32) (c : Fin 16) (s : State) : exec (.cflush a b c) s = execCflush a b c s := rfl
theorem exec_cinv (a b : Fin 32) (c : Fin 16) (s : State) : exec (.cinv a b c) s = execCinv a b c s := rfl
theorem exec_stouch (a b : Fin 32) (e : Bool) (s : State) : exec (.stouch a b e) s = execStouch a b e s := rfl
theorem exec_swb (a b : Fin 32) (c : Fin 16) (s : State) : exec (.swb a b c) s = execSwb a b c s := rfl
theorem exec_flagAdd (a : Fin 32) (n : Fin 64) (s : State) : exec (.flagAdd a n) s = execFlagAdd a n s := rfl
theorem exec_flagWait (d a : Fin 32) (n : Fin 64) (s : State) : exec (.flagWait d a n) s = execFlagWait d a n s := rfl
theorem exec_flagWaitSub (d a : Fin 32) (n : Fin 64) (s : State) : exec (.flagWaitSub d a n) s = execFlagWaitSub d a n s := rfl
theorem exec_flagRd (d : Fin 32) (n : Fin 64) (s : State) : exec (.flagRd d n) s = execFlagRd d n s := rfl
theorem exec_wait (t c s' l : Fin 32) (s : State) : exec (.wait t c s' l) s = execWait t c s' l s := rfl
theorem exec_fence (s' : Scope) (m : BitVec 16) (s : State) : exec (.fence s' m) s = execFence s' m s := rfl
theorem exec_barArrive (s' : Fin 8) (s : State) : exec (.barArrive s') s = execBarArrive s' s := rfl
theorem exec_barWait (a : Fin 32) (s' : Fin 8) (s : State) : exec (.barWait a s') s = execBarWait a s' s := rfl
theorem exec_startNext (s : State) : exec (.startNext) s = execStartNext s := rfl
theorem exec_waitPred (s : State) : exec (.waitPred) s = execWaitPred s := rfl
theorem exec_tspawn (a : Fin 32) (s : State) : exec (.tspawn a) s = execTspawn a s := rfl
theorem exec_futRd (d a : Fin 32) (s : State) : exec (.futRd d a) s = execFutRd d a s := rfl
theorem exec_futFill (d a b : Fin 32) (s : State) : exec (.futFill d a b) s = execFutFill d a b s := rfl
theorem exec_lvlCancel (a : Fin 32) (l : CancelLevel) (s : State) : exec (.lvlCancel a l) s = execLvlCancel a l s := rfl
theorem exec_lease (u : Fin 8) (s : State) : exec (.lease u) s = execLease u s := rfl
theorem exec_unlease (s : State) : exec (.unlease) s = execUnlease s := rfl
theorem exec_mzero (t : Fin 4) (s : State) : exec (.mzero t) s = execMzero t s := rfl
theorem exec_mout (t : Fin 4) (a b : Fin 32) (f : Fin 64) (s : State) : exec (.mout t a b f) s = execMout t a b f s := rfl
theorem exec_moutRq (t : Fin 4) (f : Fin 64) (s : State) : exec (.moutRq t f) s = execMoutRq t f s := rfl
theorem exec_mstat (d : Fin 32) (s : State) : exec (.mstat d) s = execMstat d s := rfl
theorem exec_sunbind (a : Fin 32) (s : State) : exec (.sunbind a) s = execSunbind a s := rfl
theorem exec_sctxStart (d a : Fin 32) (s : State) : exec (.sctxStart d a) s = execSctxStart d a s := rfl
theorem exec_sctxStop (d a : Fin 32) (s : State) : exec (.sctxStop d a) s = execSctxStop d a s := rfl
theorem exec_sdepth (d a b : Fin 32) (s : State) : exec (.sdepth d a b) s = execSdepth d a b s := rfl
theorem exec_rowWait (a b : Fin 32) (s : State) : exec (.rowWait a b) s = execRowWait a b s := rfl
theorem exec_rowPost (a : Fin 32) (s : State) : exec (.rowPost a) s = execRowPost a s := rfl
theorem exec_rowPostFrame (s : State) : exec (.rowPostFrame) s = execRowPostFrame s := rfl
theorem exec_rowPostSet (a : Fin 32) (s : State) : exec (.rowPostSet a) s = execRowPostSet a s := rfl
theorem exec_rowRdPos (d a : Fin 32) (s : State) : exec (.rowRdPos d a) s = execRowRdPos d a s := rfl
theorem exec_rowRdRec (d a : Fin 32) (s : State) : exec (.rowRdRec d a) s = execRowRdRec d a s := rfl
theorem exec_rowRdStamp (d a : Fin 32) (s : State) : exec (.rowRdStamp d a) s = execRowRdStamp d a s := rfl
theorem exec_roiRd (d a b : Fin 32) (s : State) : exec (.roiRd d a b) s = execRoiRd d a b s := rfl
theorem exec_alignWait (d a b : Fin 32) (s : State) : exec (.alignWait d a b) s = execAlignWait d a b s := rfl
theorem exec_alignWaitCnt (d a : Fin 32) (s : State) : exec (.alignWaitCnt d a) s = execAlignWaitCnt d a s := rfl
theorem exec_trap (n : Fin 64) (s : State) : exec (.trap n) s = execTrap n s := rfl
theorem exec_eret (s : State) : exec (.eret) s = execEret s := rfl
theorem exec_sysRd (d : Fin 32) (r : Fin 64) (s : State) : exec (.sysRd d r) s = execSysRd d r s := rfl
theorem exec_sysWr (a : Fin 32) (r : Fin 64) (s : State) : exec (.sysWr a r) s = execSysWr a r s := rfl
theorem exec_time (d : Fin 32) (s : State) : exec (.time d) s = execTime d s := rfl
theorem exec_tlbinvPage (a : Fin 32) (s : State) : exec (.tlbinvPage a) s = execTlbinvPage a s := rfl
theorem exec_tlbinvAsid (s : State) : exec (.tlbinvAsid) s = execTlbinvAsid s := rfl
theorem exec_crgnOpen (a b : Fin 32) (s : State) : exec (.crgnOpen a b) s = execCrgnOpen a b s := rfl
theorem exec_crgnClose (s : State) : exec (.crgnClose) s = execCrgnClose s := rfl
theorem exec_crgnCloseMirror (f : Fin 64) (s : State) : exec (.crgnCloseMirror f) s = execCrgnCloseMirror f s := rfl
theorem exec_selftestArray (d : Fin 32) (s : State) : exec (.selftestArray d) s = execSelftestArray d s := rfl
theorem exec_loop (v : LoopLevel) (a : Fin 32) (i : BitVec 15) (s : State) : exec (.loop v a i) s = execLoop v a i s := rfl
theorem exec_loopi (v : LoopLevel) (c n : Fin 1024) (s : State) : exec (.loopi v c n) s = execLoopi v c n s := rfl
theorem exec_br (b c : Fin 4) (s' : Bool) (s : State) : exec (.br b c s') s = execBr b c s' s := rfl
theorem exec_brPn (b c : Fin 4) (s' : Bool) (s : State) : exec (.brPn b c s') s = execBrPn b c s' s := rfl
theorem exec_brPt (b c : Fin 4) (s' : Bool) (s : State) : exec (.brPt b c s') s = execBrPt b c s' s := rfl
theorem exec_jmp (b : Fin 4) (s : State) : exec (.jmp b) s = execJmp b s := rfl
theorem exec_call (b : Fin 4) (a : Fin 32) (s : State) : exec (.call b a) s = execCall b a s := rfl
theorem exec_ret (a : Fin 32) (s : State) : exec (.ret a) s = execRet a s := rfl
theorem exec_vany (c : Fin 4) (k : Fin 8) (s : State) : exec (.vany c k) s = execVany c k s := rfl
theorem exec_vall (c : Fin 4) (k : Fin 8) (s : State) : exec (.vall c k) s = execVall c k s := rfl
theorem exec_vcnt (d : Fin 32) (k : Fin 8) (s : State) : exec (.vcnt d k) s = execVcnt d k s := rfl
theorem exec_popv (d : Fin 32) (s : State) : exec (.popv d) s = execPopv d s := rfl
theorem exec_pushc (a : Fin 32) (s : State) : exec (.pushc a) s = execPushc a s := rfl
theorem exec_pushd (a : Fin 32) (s : State) : exec (.pushd a) s = execPushd a s := rfl
theorem exec_mktail (a : Fin 32) (s : State) : exec (.mktail a) s = execMktail a s := rfl
theorem exec_endUnit (s : State) : exec (.endUnit) s = execEndUnit s := rfl
theorem exec_mov (d : Fin 256) (a : Fin 16) (k : Fin 8) (u : Bool) (s : State) : exec (.mov d a k u) s = execMov d a k u s := rfl
theorem exec_movMain (d : Fin 256) (n : Fin 128) (k : Fin 8) (s : State) : exec (.movMain d n k) s = execMovMain d n k s := rfl
theorem exec_bcast (d : Fin 256) (a : Fin 16) (i : Fin 256) (k : Fin 8) (u : Bool) (s : State) : exec (.bcast d a i k u) s = execBcast d a i k u s := rfl
theorem exec_iota (d : Fin 256) (t : ElemType) (k : Fin 8) (s : State) : exec (.iota d t k) s = execIota d t k s := rfl
theorem exec_zero (d : Fin 256) (k : Fin 8) (s : State) : exec (.zero d k) s = execZero d k s := rfl
theorem exec_extr (a : Fin 16) (i : Fin 256) (u : Bool) (s : State) : exec (.extr a i u) s = execExtr a i u s := rfl
theorem exec_fadd (d : Fin 256) (a b : Fin 16) (t : ElemType) (k : Fin 8) (u v : Bool) (s : State) : exec (.fadd d a b t k u v) s = execFadd d a b t k u v s := rfl
theorem exec_fsub (d : Fin 256) (a b : Fin 16) (t : ElemType) (k : Fin 8) (u v : Bool) (s : State) : exec (.fsub d a b t k u v) s = execFsub d a b t k u v s := rfl
theorem exec_fmul (d : Fin 256) (a b : Fin 16) (t : ElemType) (k : Fin 8) (u v : Bool) (s : State) : exec (.fmul d a b t k u v) s = execFmul d a b t k u v s := rfl
theorem exec_fmin (d : Fin 256) (a b : Fin 16) (t : ElemType) (k : Fin 8) (u v : Bool) (s : State) : exec (.fmin d a b t k u v) s = execFmin d a b t k u v s := rfl
theorem exec_fmax (d : Fin 256) (a b : Fin 16) (t : ElemType) (k : Fin 8) (u v : Bool) (s : State) : exec (.fmax d a b t k u v) s = execFmax d a b t k u v s := rfl
theorem exec_fcmp (x : FCond) (p : Fin 8) (a b : Fin 16) (t : ElemType) (k : Fin 8) (u v : Bool) (s : State) : exec (.fcmp x p a b t k u v) s = execFcmp x p a b t k u v s := rfl
theorem exec_fabs (d : Fin 256) (a : Fin 16) (t : ElemType) (k : Fin 8) (u : Bool) (s : State) : exec (.fabs d a t k u) s = execFabs d a t k u s := rfl
theorem exec_fneg (d : Fin 256) (a : Fin 16) (t : ElemType) (k : Fin 8) (u : Bool) (s : State) : exec (.fneg d a t k u) s = execFneg d a t k u s := rfl
theorem exec_fclass (d : Fin 256) (a : Fin 16) (t : ElemType) (k : Fin 8) (u : Bool) (s : State) : exec (.fclass d a t k u) s = execFclass d a t k u s := rfl
theorem exec_frcp (d : Fin 256) (a : Fin 16) (t : ElemType) (k : Fin 8) (u : Bool) (s : State) : exec (.frcp d a t k u) s = execFrcp d a t k u s := rfl
theorem exec_frsqrt (d : Fin 256) (a : Fin 16) (t : ElemType) (k : Fin 8) (u : Bool) (s : State) : exec (.frsqrt d a t k u) s = execFrsqrt d a t k u s := rfl
theorem exec_fsqrt (d : Fin 256) (a : Fin 16) (t : ElemType) (k : Fin 8) (u : Bool) (s : State) : exec (.fsqrt d a t k u) s = execFsqrt d a t k u s := rfl
theorem exec_fexp2 (d : Fin 256) (a : Fin 16) (t : ElemType) (k : Fin 8) (u : Bool) (s : State) : exec (.fexp2 d a t k u) s = execFexp2 d a t k u s := rfl
theorem exec_flog2 (d : Fin 256) (a : Fin 16) (t : ElemType) (k : Fin 8) (u : Bool) (s : State) : exec (.flog2 d a t k u) s = execFlog2 d a t k u s := rfl
theorem exec_ftanh (d : Fin 256) (a : Fin 16) (t : ElemType) (k : Fin 8) (u : Bool) (s : State) : exec (.ftanh d a t k u) s = execFtanh d a t k u s := rfl
theorem exec_fsig (d : Fin 256) (a : Fin 16) (t : ElemType) (k : Fin 8) (u : Bool) (s : State) : exec (.fsig d a t k u) s = execFsig d a t k u s := rfl
theorem exec_fmaF32 (d : Fin 256) (a b c : Fin 16) (k : Fin 8) (u v : Bool) (s : State) : exec (.fmaF32 d a b c k u v) s = execFmaF32 d a b c k u v s := rfl
theorem exec_fmaBf16 (d : Fin 256) (a b c : Fin 16) (k : Fin 8) (u v : Bool) (s : State) : exec (.fmaBf16 d a b c k u v) s = execFmaBf16 d a b c k u v s := rfl
theorem exec_fmaF16 (d : Fin 256) (a b c : Fin 16) (k : Fin 8) (u v : Bool) (s : State) : exec (.fmaF16 d a b c k u v) s = execFmaF16 d a b c k u v s := rfl
theorem exec_fmsF32 (d : Fin 256) (a b c : Fin 16) (k : Fin 8) (u v : Bool) (s : State) : exec (.fmsF32 d a b c k u v) s = execFmsF32 d a b c k u v s := rfl
theorem exec_fmsBf16 (d : Fin 256) (a b c : Fin 16) (k : Fin 8) (u v : Bool) (s : State) : exec (.fmsBf16 d a b c k u v) s = execFmsBf16 d a b c k u v s := rfl
theorem exec_fmsF16 (d : Fin 256) (a b c : Fin 16) (k : Fin 8) (u v : Bool) (s : State) : exec (.fmsF16 d a b c k u v) s = execFmsF16 d a b c k u v s := rfl
theorem exec_fnmaF32 (d : Fin 256) (a b c : Fin 16) (k : Fin 8) (u v : Bool) (s : State) : exec (.fnmaF32 d a b c k u v) s = execFnmaF32 d a b c k u v s := rfl
theorem exec_fnmaBf16 (d : Fin 256) (a b c : Fin 16) (k : Fin 8) (u v : Bool) (s : State) : exec (.fnmaBf16 d a b c k u v) s = execFnmaBf16 d a b c k u v s := rfl
theorem exec_fnmaF16 (d : Fin 256) (a b c : Fin 16) (k : Fin 8) (u v : Bool) (s : State) : exec (.fnmaF16 d a b c k u v) s = execFnmaF16 d a b c k u v s := rfl
theorem exec_vadd (d : Fin 256) (a b : Fin 16) (t : ElemType) (k : Fin 8) (u v : Bool) (s : State) : exec (.vadd d a b t k u v) s = execVadd d a b t k u v s := rfl
theorem exec_vsub (d : Fin 256) (a b : Fin 16) (t : ElemType) (k : Fin 8) (u v : Bool) (s : State) : exec (.vsub d a b t k u v) s = execVsub d a b t k u v s := rfl
theorem exec_vadds (d : Fin 256) (a b : Fin 16) (t : ElemType) (k : Fin 8) (u v : Bool) (s : State) : exec (.vadds d a b t k u v) s = execVadds d a b t k u v s := rfl
theorem exec_vsubs (d : Fin 256) (a b : Fin 16) (t : ElemType) (k : Fin 8) (u v : Bool) (s : State) : exec (.vsubs d a b t k u v) s = execVsubs d a b t k u v s := rfl
theorem exec_vmul (d : Fin 256) (a b : Fin 16) (t : ElemType) (k : Fin 8) (u v : Bool) (s : State) : exec (.vmul d a b t k u v) s = execVmul d a b t k u v s := rfl
theorem exec_vmulh (d : Fin 256) (a b : Fin 16) (t : ElemType) (k : Fin 8) (u v : Bool) (s : State) : exec (.vmulh d a b t k u v) s = execVmulh d a b t k u v s := rfl
theorem exec_vmin (d : Fin 256) (a b : Fin 16) (t : ElemType) (k : Fin 8) (u v : Bool) (s : State) : exec (.vmin d a b t k u v) s = execVmin d a b t k u v s := rfl
theorem exec_vmax (d : Fin 256) (a b : Fin 16) (t : ElemType) (k : Fin 8) (u v : Bool) (s : State) : exec (.vmax d a b t k u v) s = execVmax d a b t k u v s := rfl
theorem exec_vand (d : Fin 256) (a b : Fin 16) (t : ElemType) (k : Fin 8) (u v : Bool) (s : State) : exec (.vand d a b t k u v) s = execVand d a b t k u v s := rfl
theorem exec_vor (d : Fin 256) (a b : Fin 16) (t : ElemType) (k : Fin 8) (u v : Bool) (s : State) : exec (.vor d a b t k u v) s = execVor d a b t k u v s := rfl
theorem exec_vxor (d : Fin 256) (a b : Fin 16) (t : ElemType) (k : Fin 8) (u v : Bool) (s : State) : exec (.vxor d a b t k u v) s = execVxor d a b t k u v s := rfl
theorem exec_vshl (d : Fin 256) (a b : Fin 16) (t : ElemType) (k : Fin 8) (u v : Bool) (s : State) : exec (.vshl d a b t k u v) s = execVshl d a b t k u v s := rfl
theorem exec_vshr (d : Fin 256) (a b : Fin 16) (t : ElemType) (k : Fin 8) (u v : Bool) (s : State) : exec (.vshr d a b t k u v) s = execVshr d a b t k u v s := rfl
theorem exec_vshls (d : Fin 256) (a b : Fin 16) (t : ElemType) (k : Fin 8) (u v : Bool) (s : State) : exec (.vshls d a b t k u v) s = execVshls d a b t k u v s := rfl
theorem exec_vcmp (x : ICond) (p : Fin 8) (a b : Fin 16) (t : ElemType) (k : Fin 8) (u v : Bool) (s : State) : exec (.vcmp x p a b t k u v) s = execVcmp x p a b t k u v s := rfl
theorem exec_vabs (d : Fin 256) (a : Fin 16) (t : ElemType) (k : Fin 8) (u : Bool) (s : State) : exec (.vabs d a t k u) s = execVabs d a t k u s := rfl
theorem exec_vabss (d : Fin 256) (a : Fin 16) (t : ElemType) (k : Fin 8) (u : Bool) (s : State) : exec (.vabss d a t k u) s = execVabss d a t k u s := rfl
theorem exec_vneg (d : Fin 256) (a : Fin 16) (t : ElemType) (k : Fin 8) (u : Bool) (s : State) : exec (.vneg d a t k u) s = execVneg d a t k u s := rfl
theorem exec_vnegs (d : Fin 256) (a : Fin 16) (t : ElemType) (k : Fin 8) (u : Bool) (s : State) : exec (.vnegs d a t k u) s = execVnegs d a t k u s := rfl
theorem exec_vnot (d : Fin 256) (a : Fin 16) (t : ElemType) (k : Fin 8) (u : Bool) (s : State) : exec (.vnot d a t k u) s = execVnot d a t k u s := rfl
theorem exec_vclz (d : Fin 256) (a : Fin 16) (t : ElemType) (k : Fin 8) (u : Bool) (s : State) : exec (.vclz d a t k u) s = execVclz d a t k u s := rfl
theorem exec_vpopc (d : Fin 256) (a : Fin 16) (t : ElemType) (k : Fin 8) (u : Bool) (s : State) : exec (.vpopc d a t k u) s = execVpopc d a t k u s := rfl
theorem exec_cvtRne (d : Fin 256) (a : Fin 16) (s' t : ElemType) (k : Fin 8) (u : Bool) (s : State) : exec (.cvtRne d a s' t k u) s = execCvtRne d a s' t k u s := rfl
theorem exec_cvtsRne (d : Fin 256) (a : Fin 16) (s' t : ElemType) (k : Fin 8) (u : Bool) (s : State) : exec (.cvtsRne d a s' t k u) s = execCvtsRne d a s' t k u s := rfl
theorem exec_cvtRtz (d : Fin 256) (a : Fin 16) (s' t : ElemType) (k : Fin 8) (u : Bool) (s : State) : exec (.cvtRtz d a s' t k u) s = execCvtRtz d a s' t k u s := rfl
theorem exec_cvtsRtz (d : Fin 256) (a : Fin 16) (s' t : ElemType) (k : Fin 8) (u : Bool) (s : State) : exec (.cvtsRtz d a s' t k u) s = execCvtsRtz d a s' t k u s := rfl
theorem exec_cvtRup (d : Fin 256) (a : Fin 16) (s' t : ElemType) (k : Fin 8) (u : Bool) (s : State) : exec (.cvtRup d a s' t k u) s = execCvtRup d a s' t k u s := rfl
theorem exec_cvtsRup (d : Fin 256) (a : Fin 16) (s' t : ElemType) (k : Fin 8) (u : Bool) (s : State) : exec (.cvtsRup d a s' t k u) s = execCvtsRup d a s' t k u s := rfl
theorem exec_cvtRdn (d : Fin 256) (a : Fin 16) (s' t : ElemType) (k : Fin 8) (u : Bool) (s : State) : exec (.cvtRdn d a s' t k u) s = execCvtRdn d a s' t k u s := rfl
theorem exec_cvtsRdn (d : Fin 256) (a : Fin 16) (s' t : ElemType) (k : Fin 8) (u : Bool) (s : State) : exec (.cvtsRdn d a s' t k u) s = execCvtsRdn d a s' t k u s := rfl
theorem exec_qpack (d : Fin 256) (a : Fin 16) (p : Fin 8) (b : Fin 4) (f : Bool) (k : Fin 8) (u : Bool) (s : State) : exec (.qpack d a p b f k u) s = execQpack d a p b f k u s := rfl
theorem exec_qunpack (d : Fin 256) (a : Fin 16) (p : Fin 8) (b : Fin 4) (m : RoundMode) (f : Bool) (k : Fin 8) (u : Bool) (s : State) : exec (.qunpack d a p b m f k u) s = execQunpack d a p b m f k u s := rfl
theorem exec_kand (d : Fin 256) (a b k : Fin 8) (s : State) : exec (.kand d a b k) s = execKand d a b k s := rfl
theorem exec_kor (d : Fin 256) (a b k : Fin 8) (s : State) : exec (.kor d a b k) s = execKor d a b k s := rfl
theorem exec_kxor (d : Fin 256) (a b k : Fin 8) (s : State) : exec (.kxor d a b k) s = execKxor d a b k s := rfl
theorem exec_kandn (d : Fin 256) (a b k : Fin 8) (s : State) : exec (.kandn d a b k) s = execKandn d a b k s := rfl
theorem exec_knot (d : Fin 256) (a k : Fin 8) (s : State) : exec (.knot d a k) s = execKnot d a k s := rfl
theorem exec_kmov (d : Fin 256) (a k : Fin 8) (s : State) : exec (.kmov d a k) s = execKmov d a k s := rfl
theorem exec_kpop (d : Fin 256) (k : Fin 8) (s : State) : exec (.kpop d k) s = execKpop d k s := rfl
theorem exec_selExecute (d : Fin 256) (a b : Fin 16) (k : Fin 8) (u v : Bool) (s : State) : exec (.selExecute d a b k u v) s = execSelExecute d a b k u v s := rfl
theorem exec_rsum (d : Fin 256) (a : Fin 16) (t : ElemType) (k : Fin 8) (u : Bool) (s : State) : exec (.rsum d a t k u) s = execRsum d a t k u s := rfl
theorem exec_rmax (d : Fin 256) (a : Fin 16) (t : ElemType) (k : Fin 8) (u : Bool) (s : State) : exec (.rmax d a t k u) s = execRmax d a t k u s := rfl
theorem exec_rmin (d : Fin 256) (a : Fin 16) (t : ElemType) (k : Fin 8) (u : Bool) (s : State) : exec (.rmin d a t k u) s = execRmin d a t k u s := rfl
theorem exec_risum (d : Fin 256) (a : Fin 16) (t : ElemType) (k : Fin 8) (u : Bool) (s : State) : exec (.risum d a t k u) s = execRisum d a t k u s := rfl
theorem exec_risums (d : Fin 256) (a : Fin 16) (t : ElemType) (k : Fin 8) (u : Bool) (s : State) : exec (.risums d a t k u) s = execRisums d a t k u s := rfl
theorem exec_perm (d : Fin 256) (a b : Fin 16) (t : ElemType) (k : Fin 8) (u v : Bool) (s : State) : exec (.perm d a b t k u v) s = execPerm d a b t k u v s := rfl
theorem exec_rot (d : Fin 256) (a : Fin 16) (n : Fin 256) (k : Fin 8) (u : Bool) (s : State) : exec (.rot d a n k u) s = execRot d a n k u s := rfl
theorem exec_shuf (d : Fin 256) (a : Fin 16) (p : ShufPattern) (t : ElemType) (k : Fin 8) (u : Bool) (s : State) : exec (.shuf d a p t k u) s = execShuf d a p t k u s := rfl
theorem exec_slide (d : Fin 256) (a b n : Fin 16) (k : Fin 8) (u v : Bool) (s : State) : exec (.slide d a b n k u v) s = execSlide d a b n k u v s := rfl
theorem exec_vloop (v : LoopLevel) (n : Fin 4096) (s : State) : exec (.vloop v n) s = execVloop v n s := rfl
theorem exec_mma (a b : Fin 32) (f : Fin 64) (rec : ShapeRec) (s : State) : exec (.mma a b f rec) s = execMma a b f rec s := rfl
theorem exec_mmaSp (a b c : Fin 32) (f : Fin 64) (rec : ShapeRec) (s : State) : exec (.mmaSp a b c f rec) s = execMmaSp a b c f rec s := rfl
theorem exec_mkat (a : Fin 32) (f : Fin 64) (rec : ShapeRec) (s : State) : exec (.mkat a f rec) s = execMkat a f rec s := rfl
theorem exec_copy (a b c : Fin 32) (f : Fin 64) (rec : ShapeRec) (s : State) : exec (.copy a b c f rec) s = execCopy a b c f rec s := rfl
theorem exec_copys (a b c : Fin 32) (f : Fin 64) (rec : ShapeRec) (s : State) : exec (.copys a b c f rec) s = execCopys a b c f rec s := rfl
theorem exec_copyDec (a b : Fin 32) (f : Fin 64) (rec : ShapeRec) (s : State) : exec (.copyDec a b f rec) s = execCopyDec a b f rec s := rfl
theorem exec_fill (a b : Fin 32) (f : Fin 64) (rec : ShapeRec) (s : State) : exec (.fill a b f rec) s = execFill a b f rec s := rfl
theorem exec_copyPeer (a b c : Fin 32) (f : Fin 64) (rec : ShapeRec) (s : State) : exec (.copyPeer a b c f rec) s = execCopyPeer a b c f rec s := rfl
theorem exec_wrq (a b c : Fin 32) (f : Fin 64) (rec : ShapeRec) (s : State) : exec (.wrq a b c f rec) s = execWrq a b c f rec s := rfl
theorem exec_dtab (a : Fin 32) (f : Fin 64) (rec : ShapeRec) (s : State) : exec (.dtab a f rec) s = execDtab a f rec s := rfl
theorem exec_vlds (a : Fin 32) (rec : ShapeRec) (s : State) : exec (.vlds a rec) s = execVlds a rec s := rfl
theorem exec_vsts (a : Fin 32) (rec : ShapeRec) (s : State) : exec (.vsts a rec) s = execVsts a rec s := rfl
theorem exec_sbind (a b c : Fin 32) (f : Fin 64) (rec : ShapeRec) (s : State) : exec (.sbind a b c f rec) s = execSbind a b c f rec s := rfl
theorem exec_tileCommit (a b c : Fin 32) (f : Fin 64) (rec : ShapeRec) (s : State) : exec (.tileCommit a b c f rec) s = execTileCommit a b c f rec s := rfl
theorem exec_alignSet (a b : Fin 32) (f : Fin 64) (rec : ShapeRec) (s : State) : exec (.alignSet a b f rec) s = execAlignSet a b f rec s := rfl
theorem exec_tshapeWrite (v : Word) (s : State) : exec (.tshapeWrite v) s = execTshapeWrite v s := rfl
theorem exec_fpmodeWrite (v : Word) (s : State) : exec (.fpmodeWrite v) s = execFpmodeWrite v s := rfl
theorem exec_timecmpWrite (v : Word) (s : State) : exec (.timecmpWrite v) s = execTimecmpWrite v s := rfl
theorem exec_loopRegisterWrite (r : Fin 64) (v : Word) (s : State) : exec (.loopRegisterWrite r v) s = execLoopRegisterWrite r v s := rfl
theorem exec_slacktabWrite (i : Fin 3) (v : Word) (s : State) : exec (.slacktabWrite i v) s = execSlacktabWrite i v s := rfl
theorem exec_powerGood (s : State) : exec (.powerGood) s = execPowerGood s := rfl
theorem exec_recoveryImageWrite (slot : Fin 2) (image : List Byte) (s : State) : exec (.recoveryImageWrite slot image) s = execRecoveryImageWrite slot image s := rfl
theorem exec_quoteRequest (v : Word) (s : State) : exec (.quoteRequest v) s = execQuoteRequest v s := rfl
theorem exec_quoteDone (s : State) : exec (.quoteDone) s = execQuoteDone s := rfl
theorem exec_housekeepingWrite (off n : Nat) (v : Word) (s : State) : exec (.housekeepingWrite off n v) s = execHousekeepingWrite off n v s := rfl
theorem exec_stashcfgWrite (core : Fin 128) (v : Word) (s : State) : exec (.stashcfgWrite core v) s = execStashcfgWrite core v s := rfl
theorem exec_ctcTick (s : State) : exec (.ctcTick) s = execCtcTick s := rfl
theorem exec_ctcrateWrite (v : Word) (s : State) : exec (.ctcrateWrite v) s = execCtcrateWrite v s := rfl
theorem exec_ctcofsWrite (v : Word) (s : State) : exec (.ctcofsWrite v) s = execCtcofsWrite v s := rfl
theorem exec_ringInstall (ring : Fin 256) (cfg : Word) (s : State) : exec (.ringInstall ring cfg) s = execRingInstall ring cfg s := rfl
theorem exec_ringRemove (ring : Fin 256) (s : State) : exec (.ringRemove ring) s = execRingRemove ring s := rfl
theorem exec_tailWrite (ring : Fin 256) (v : Word32) (s : State) : exec (.tailWrite ring v) s = execTailWrite ring v s := rfl
theorem exec_admissionTurn (s : State) : exec (.admissionTurn) s = execAdmissionTurn s := rfl
theorem exec_ringStallEpisode (ring : Fin 256) (s : State) : exec (.ringStallEpisode ring) s = execRingStallEpisode ring s := rfl
theorem exec_matchEntryArm (e : Fin 64) (s : State) : exec (.matchEntryArm e) s = execMatchEntryArm e s := rfl
theorem exec_matchWriteArrival (tag : Word32) (asid : BitVec 16) (n : Nat) (s : State) : exec (.matchWriteArrival tag asid n) s = execMatchWriteArrival tag asid n s := rfl
theorem exec_deadlinePass (slot : Fin 64) (s : State) : exec (.deadlinePass slot) s = execDeadlinePass slot s := rfl
theorem exec_walkerStep (s : State) : exec (.walkerStep) s = execWalkerStep s := rfl
theorem exec_affinityExpiry (grp : Fin 4) (n : Nat) (s : State) : exec (.affinityExpiry grp n) s = execAffinityExpiry grp n s := rfl
theorem exec_commonQueueMove (s : State) : exec (.commonQueueMove) s = execCommonQueueMove s := rfl
theorem exec_dispatch (core : Fin 128) (s : State) : exec (.dispatch core) s = execDispatch core s := rfl
theorem exec_schedulerPreempt (s : State) : exec (.schedulerPreempt) s = execSchedulerPreempt s := rfl
theorem exec_preemptHalt (s : State) : exec (.preemptHalt) s = execPreemptHalt s := rfl
theorem exec_saveComplete (s : State) : exec (.saveComplete) s = execSaveComplete s := rfl
theorem exec_tspawnEnqueue (s : State) : exec (.tspawnEnqueue) s = execTspawnEnqueue s := rfl
theorem exec_bankRefill (cluster : Fin 32) (bank : Fin 4) (s : State) : exec (.bankRefill cluster bank) s = execBankRefill cluster bank s := rfl
theorem exec_unitRetire (s : State) : exec (.unitRetire) s = execUnitRetire s := rfl
theorem exec_jobEnd (asid : BitVec 16) (s : State) : exec (.jobEnd asid) s = execJobEnd asid s := rfl
theorem exec_jobCancel (asid : BitVec 16) (s : State) : exec (.jobCancel asid) s = execJobCancel asid s := rfl
theorem exec_jobActivate (asid : BitVec 16) (s : State) : exec (.jobActivate asid) s = execJobActivate asid s := rfl
theorem exec_jobHold (asid : BitVec 16) (s : State) : exec (.jobHold asid) s = execJobHold asid s := rfl
theorem exec_jobRetire (asid : BitVec 16) (s : State) : exec (.jobRetire asid) s = execJobRetire asid s := rfl
theorem exec_channelInstall (ch : Fin 264) (ctl : Word) (s : State) : exec (.channelInstall ch ctl) s = execChannelInstall ch ctl s := rfl
theorem exec_faultReply (asid : BitVec 16) (token : Word32) (retry : Bool) (s : State) : exec (.faultReply asid token retry) s = execFaultReply asid token retry s := rfl
theorem exec_pageWalkComplete (n : Nat) (s : State) : exec (.pageWalkComplete n) s = execPageWalkComplete n s := rfl
theorem exec_loadReply (n : Nat) (s : State) : exec (.loadReply n) s = execLoadReply n s := rfl
theorem exec_resultLand (s : State) : exec (.resultLand) s = execResultLand s := rfl
theorem exec_votePop (s : State) : exec (.votePop) s = execVotePop s := rfl
theorem exec_arbiterGrant (arb : ArbId) (s : State) : exec (.arbiterGrant arb) s = execArbiterGrant arb s := rfl
theorem exec_slackDecrement (n : Nat) (s : State) : exec (.slackDecrement n) s = execSlackDecrement n s := rfl
theorem exec_noUrgencyPromotion (n : Nat) (s : State) : exec (.noUrgencyPromotion n) s = execNoUrgencyPromotion n s := rfl
theorem exec_sliceRequestGrant (slice : Fin 64) (s : State) : exec (.sliceRequestGrant slice) s = execSliceRequestGrant slice s := rfl
theorem exec_sliceFillComplete (slice : Fin 64) (s : State) : exec (.sliceFillComplete slice) s = execSliceFillComplete slice s := rfl
theorem exec_windowAccessServe (core : Fin 128) (s : State) : exec (.windowAccessServe core) s = execWindowAccessServe core s := rfl
theorem exec_fenceMarkerRetire (slice : Fin 64) (s : State) : exec (.fenceMarkerRetire slice) s = execFenceMarkerRetire slice s := rfl
theorem exec_flitCrcReplay (east : Bool) (lane : Fin 24) (station : Fin 15) (failed : Bool) (s : State) : exec (.flitCrcReplay east lane station failed) s = execFlitCrcReplay east lane station failed s := rfl
theorem exec_gauntletGrant (cluster : Fin 32) (s : State) : exec (.gauntletGrant cluster) s = execGauntletGrant cluster s := rfl
theorem exec_leaseSlackDecrement (core : Fin 128) (s : State) : exec (.leaseSlackDecrement core) s = execLeaseSlackDecrement core s := rfl
theorem exec_termClockExpiry (cluster : Fin 32) (s : State) : exec (.termClockExpiry cluster) s = execTermClockExpiry cluster s := rfl
theorem exec_termIdleExpiry (cluster : Fin 32) (s : State) : exec (.termIdleExpiry cluster) s = execTermIdleExpiry cluster s := rfl
theorem exec_matrixPassEnd (s : State) : exec (.matrixPassEnd) s = execMatrixPassEnd s := rfl
theorem exec_matrixCommandComplete (s : State) : exec (.matrixCommandComplete) s = execMatrixCommandComplete s := rfl
theorem exec_mzeroComplete (s : State) : exec (.mzeroComplete) s = execMzeroComplete s := rfl
theorem exec_moutComplete (s : State) : exec (.moutComplete) s = execMoutComplete s := rfl
theorem exec_selftestComplete (res : Resource) (lasting : Bool) (s : State) : exec (.selftestComplete res lasting) s = execSelftestComplete res lasting s := rfl
theorem exec_copyStart (n : Nat) (s : State) : exec (.copyStart n) s = execCopyStart n s := rfl
theorem exec_copyComplete (n : Nat) (s : State) : exec (.copyComplete n) s = execCopyComplete n s := rfl
theorem exec_peerWriteArrival (pw : PeerWrite) (s : State) : exec (.peerWriteArrival pw) s = execPeerWriteArrival pw s := rfl
theorem exec_wrqArrival (msg : WrqMsg) (s : State) : exec (.wrqArrival msg) s = execWrqArrival msg s := rfl
theorem exec_peerAck (n : Nat) (reply : PeerReply) (s : State) : exec (.peerAck n reply) s = execPeerAck n reply s := rfl
theorem exec_mirrorArrival (msg : MirrorMsg) (s : State) : exec (.mirrorArrival msg) s = execMirrorArrival msg s := rfl
theorem exec_mirrorAck (reply : PeerReply) (s : State) : exec (.mirrorAck reply) s = execMirrorAck reply s := rfl
theorem exec_streamFlitLand (turn : Fin 256 × Bool) (s : State) : exec (.streamFlitLand turn) s = execStreamFlitLand turn s := rfl
theorem exec_flowSignalArrival (stream : Fin 256) (s : State) : exec (.flowSignalArrival stream) s = execFlowSignalArrival stream s := rfl
theorem exec_contextEnd (s : State) : exec (.contextEnd) s = execContextEnd s := rfl
theorem exec_cameraFrameStart (ch : Fin 256) (s : State) : exec (.cameraFrameStart ch) s = execCameraFrameStart ch s := rfl
theorem exec_embeddedHeader (ch : Fin 256) (width height : BitVec 16) (s : State) : exec (.embeddedHeader ch width height) s = execEmbeddedHeader ch width height s := rfl
theorem exec_cameraLine (ch : Fin 256) (num dt : Nat) (crcOk : Bool) (first : Word) (elems : List (BitVec 16)) (s : State) : exec (.cameraLine ch num dt crcOk first elems) s = execCameraLine ch num dt crcOk first elems s := rfl
theorem exec_cameraFrameEnd (ch : Fin 256) (s : State) : exec (.cameraFrameEnd ch) s = execCameraFrameEnd ch s := rfl
theorem exec_lidarPacket (port : Fin 8) (payload : List Byte) (udpOk : Bool) (first : Word) (s : State) : exec (.lidarPacket port payload udpOk first) s = execLidarPacket port payload udpOk first s := rfl
theorem exec_ethernetFrame (port : Fin 8) (frame : List Byte) (fcsOk : Bool) (first : Word) (s : State) : exec (.ethernetFrame port frame fcsOk first) s = execEthernetFrame port frame fcsOk first s := rfl
theorem exec_ptpEgress (port : Fin 8) (header message : List Byte) (oneStep : Bool) (s : State) :
    exec (.ptpEgress port header message oneStep) s = execPtpEgress port header message oneStep s := rfl
theorem exec_otherPacketDiscard (port : Fin 16) (vc : Fin 32) (s : State) : exec (.otherPacketDiscard port vc) s = execOtherPacketDiscard port vc s := rfl
theorem exec_rowDeadlineExpiry (ch : Fin 264) (s : State) : exec (.rowDeadlineExpiry ch) s = execRowDeadlineExpiry ch s := rfl
theorem exec_lidarFrameTimeout (port : Fin 8) (s : State) : exec (.lidarFrameTimeout port) s = execLidarFrameTimeout port s := rfl
theorem exec_tileCommitComplete (n : Nat) (s : State) : exec (.tileCommitComplete n) s = execTileCommitComplete n s := rfl
theorem exec_setTimeout (grp : Fin 16) (s : State) : exec (.setTimeout grp) s = execSetTimeout grp s := rfl
theorem exec_timerExpiry (s : State) : exec (.timerExpiry) s = execTimerExpiry s := rfl
theorem exec_trapEntry (s : State) : exec (.trapEntry) s = execTrapEntry s := rfl
theorem exec_unwind (s : State) : exec (.unwind) s = execUnwind s := rfl
theorem exec_unitFail (s : State) : exec (.unitFail) s = execUnitFail s := rfl
theorem exec_cancelStop (s : State) : exec (.cancelStop) s = execCancelStop s := rfl
theorem exec_heartbeatSend (s : State) : exec (.heartbeatSend) s = execHeartbeatSend s := rfl
theorem exec_heartbeatReceive (ctc : Word) (part : Bool) (s : State) : exec (.heartbeatReceive ctc part) s = execHeartbeatReceive ctc part s := rfl
theorem exec_peerLostTimeout (s : State) : exec (.peerLostTimeout) s = execPeerLostTimeout s := rfl
theorem exec_linkEnable (s : State) : exec (.linkEnable) s = execLinkEnable s := rfl
theorem exec_linkTrained (s : State) : exec (.linkTrained) s = execLinkTrained s := rfl
theorem exec_linkFlitReplay (s : State) : exec (.linkFlitReplay) s = execLinkFlitReplay s := rfl
theorem exec_linkRetrain (s : State) : exec (.linkRetrain) s = execLinkRetrain s := rfl
theorem exec_retrainTimeout (s : State) : exec (.retrainTimeout) s = execRetrainTimeout s := rfl
theorem exec_linkIdleTimeout (s : State) : exec (.linkIdleTimeout) s = execLinkIdleTimeout s := rfl
theorem exec_fatalNoticeReceive (s : State) : exec (.fatalNoticeReceive) s = execFatalNoticeReceive s := rfl
theorem exec_throttleStart (temp : BitVec 8) (power : BitVec 16) (s : State) : exec (.throttleStart temp power) s = execThrottleStart temp power s := rfl
theorem exec_throttleEnd (temp : BitVec 8) (power : BitVec 16) (s : State) : exec (.throttleEnd temp power) s = execThrottleEnd temp power s := rfl
theorem exec_overheat (temp : BitVec 8) (s : State) : exec (.overheat temp) s = execOverheat temp s := rfl
theorem exec_bootWatchdogStall (s : State) : exec (.bootWatchdogStall) s = execBootWatchdogStall s := rfl
theorem exec_dispatchEcc (place : BitVec 8) (s : State) : exec (.dispatchEcc place) s = execDispatchEcc place s := rfl
theorem exec_debugHalt (s : State) : exec (.debugHalt) s = execDebugHalt s := rfl
theorem exec_debugResume (s : State) : exec (.debugResume) s = execDebugResume s := rfl
theorem exec_linkRetrained (s : State) : exec (.linkRetrained) s = execLinkRetrained s := rfl
theorem exec_idleFlitSend (s : State) : exec (.idleFlitSend) s = execIdleFlitSend s := rfl
theorem exec_idleFlitReceive (s : State) : exec (.idleFlitReceive) s = execIdleFlitReceive s := rfl
theorem exec_linkFlitAcknowledgment (upTo : Nat) (s : State) : exec (.linkFlitAcknowledgment upTo) s = execLinkFlitAcknowledgment upTo s := rfl
theorem exec_writeAcknowledgment (n : Nat) (s : State) : exec (.writeAcknowledgment n) s = execWriteAcknowledgment n s := rfl
theorem exec_cameraLinkTraining (port : Fin 16) (gear : Nat) (s : State) : exec (.cameraLinkTraining port gear) s = execCameraLinkTraining port gear s := rfl
theorem exec_controlMessagePassThrough (port : Fin 16) (message : List Byte) (s : State) : exec (.controlMessagePassThrough port message) s = execControlMessagePassThrough port message s := rfl

end Sys2Proof.Machine
end

