-- ==== Sys2Proof/Laws/Issue.lean ====
section
/-! SUPPORT. What issuing an instruction gives: a control instruction that is ready acts and passes, and an execute instruction that is
ready leaves its result in a latch and everything else as `XOp.leaves` says (R108 to R114, R131). -/

namespace Sys2Proof.Machine

/-! ## Control instructions -/

theorem ControlReady.stalled {s : State} {gs : List (Fin 32)} {cs : List (Fin 4)} (h : ControlReady s gs cs) :
    stalledC s gs cs = false := by
  obtain ⟨h1, h2, h3, h4, h5, h6⟩ := h
  simp [stalledC, canIssue, Context.ended, h1, h2, h3, h4]
  exact ⟨h5, h6⟩

theorem ControlReady.canIssue {s : State} {gs : List (Fin 32)} {cs : List (Fin 4)} (h : ControlReady s gs cs) :
    Machine.canIssue s .control = true := by
  obtain ⟨h1, h2, h3, -⟩ := h
  simp [Machine.canIssue, Context.ended, h1, h2, h3]

theorem ControlReady.noVoteLost {s : State} {gs : List (Fin 32)} {cs : List (Fin 4)} (h : ControlReady s gs cs) :
    cs.any (voteLost s.ctx) = false := by
  obtain ⟨-, -, -, -, -, h6⟩ := h
  simp only [List.any_eq_false]
  intro r hr
  simp [voteLost, h6 r hr]

theorem ControlReady.mono {s : State} {gs gs' : List (Fin 32)} {cs cs' : List (Fin 4)} (h : ControlReady s gs cs)
    (hg : ∀ r ∈ gs', r ∈ gs) (hc : ∀ r ∈ cs', r ∈ cs) : ControlReady s gs' cs' :=
  ⟨h.1, h.2.1, h.2.2.1, h.2.2.2.1, fun r hr => h.2.2.2.2.1 r (hg r hr), fun r hr => h.2.2.2.2.2 r (hc r hr)⟩

/-- A control instruction that is ready acts, and its slice moves on. -/
theorem issueC_ready {s : State} {gs : List (Fin 32)} {cs : List (Fin 4)} (h : ControlReady s gs cs) (len : Nat) (act : State → State) :
    issueC s gs cs len act = .next (retire (act s) .control len false) := by
  simp [issueC, h.noVoteLost, h.stalled]

theorem issueC_completes {i : Instr} {s : State} {gs : List (Fin 32)} {cs : List (Fin 4)} {len : Nat} {act : State → State}
    (he : exec i s = issueC s gs cs len act) (h : ControlReady s gs cs) : Completes i .control s (act s) :=
  ⟨_, he.trans (issueC_ready h len act), retire_passed _ _ _ _⟩

/-- An instruction whose condition for a trap does not hold goes on. -/
theorem orTrap_false (s : State) (side : Slice) (c : Cause) (k : Result) {bad : Bool} (h : bad = false) : orTrap s side bad c k = k := by
  simp [orTrap, h]

/-! ## Accesses -/

/-- An access that is ready, aligned, in pages of the right format and with room stands behind all earlier ones, and the slice moves
on (R131, R250). -/
theorem accessC_ready {s : State} {gs : List (Fin 32)} (h : ControlReady s gs []) (len lqs : Nat) (mis : Bool) (a : Access)
    (hm : mis = false) (hs : shapeAtIssue s a = false) (ho : outstanding s.ctx < 32) (hl : s.ctx.lq.length + lqs ≤ rowCap)
    (hf : followsHeld s a = false) :
    accessC s gs len lqs mis a = .next (retire (issueAccess
      ((s.mod (fun c => (if a.kind.writes || a.kind.isCache then c.markEffect else c).supersedeBy a)).mod (reserveLq false lqs)) a)
      .control len false) := by
  have h1 : ¬ (32 ≤ outstanding s.ctx) := by omega
  have h2 : ¬ (rowCap < s.ctx.lq.length + lqs) := by omega
  simp [accessC, h.stalled, hm, hs, h1, h2, hf]

/-- A misaligned access traps with ALIGN (R252, R388). -/
theorem accessC_align {s : State} {gs : List (Fin 32)} (h : ControlReady s gs []) (len lqs : Nat) (a : Access) :
    accessC s gs len lqs true a = .next (trapSync s .control .align) := by
  simp [accessC, h.stalled]

/-! ## Lanes -/

theorem laneOf_packLanes (w : Nat) (xs : List Nat) : ∀ l, laneOf (packLanes w xs) w l = xs.getD l 0 % 2 ^ w := by
  induction xs with
  | nil => intro l; simp [packLanes, laneOf]
  | cons x xs ih =>
    intro l
    cases l with
    | zero => simp [packLanes, laneOf]
    | succ l =>
      have h := ih l
      simp only [laneOf, packLanes, List.getD_cons_succ] at h ⊢
      rw [← h, Nat.mul_succ, Nat.add_comm (w * l) w, Nat.pow_add, ← Nat.div_div_eq_div_mul, Nat.add_mul_div_left _ _ (Nat.two_pow_pos w),
        Nat.div_eq_of_lt (Nat.mod_lt _ (Nat.two_pow_pos w)), Nat.zero_add]

theorem laneOf_pack_range (w n : Nat) (f : Nat → Nat) {l : Nat} (h : l < n) :
    laneOf (packLanes w ((List.range n).map f)) w l = f l % 2 ^ w := by
  rw [laneOf_packLanes]; simp [List.getD, h]

theorem packLanes_lt (w : Nat) (xs : List Nat) : packLanes w xs < 2 ^ (w * xs.length) := by
  induction xs with
  | nil => simp [packLanes]
  | cons x xs ih =>
    simp only [packLanes, List.length_cons, Nat.mul_succ, Nat.pow_add]
    have h1 := Nat.mod_lt x (Nat.two_pow_pos w)
    have h2 : 2 ^ w * (packLanes w xs + 1) ≤ 2 ^ w * 2 ^ (w * xs.length) := Nat.mul_le_mul_left _ ih
    rw [Nat.mul_comm (2 ^ (w * xs.length))]
    rw [Nat.mul_add] at h2
    omega

theorem bitOf_pack_range (n : Nat) (f : Nat → Bool) {l : Nat} (h : l < n) :
    bitOf (packLanes 1 ((List.range n).map (fun l => if f l then 1 else 0))) l = f l := by
  have := laneOf_pack_range 1 n (fun l => if f l then 1 else 0) h
  simp only [laneOf, Nat.one_mul, Nat.pow_one] at this
  simp only [bitOf, this]
  cases f l <;> rfl

end Sys2Proof.Machine
end

