-- ==== Sys2Proof/Laws/Execute.lean ====
section
/-! SUPPORT. What issuing an execute instruction gives: its latch, and `XOp.leaves` (R108 to R114). -/

namespace Sys2Proof.Machine

/-! ## Landing -/

/-- t differs from s at most as the landing of results may make it differ. -/
def Landed (s t : State) : Prop :=
  t = { s with ctx := t.ctx, streams := t.streams } ∧ t.ctx.unissued = s.ctx.unissued ∧ t.ctx.cq = s.ctx.cq ∧ t.ctx.dq = s.ctx.dq ∧
  t.ctx.nextId = s.ctx.nextId ∧ t.ctx.lq = s.ctx.lq

theorem Landed.refl (s : State) : Landed s s := ⟨rfl, rfl, rfl, rfl, rfl, rfl⟩

theorem Landed.trans {s t u : State} (h : Landed s t) (k : Landed t u) : Landed s u := by
  obtain ⟨h1, h2, h3, h4, h5, h6⟩ := h
  obtain ⟨k1, k2, k3, k4, k5, k6⟩ := k
  exact ⟨by rw [k1, h1], k2.trans h2, k3.trans h3, k4.trans h4, k5.trans h5, k6.trans h6⟩

theorem landOne_landed (s : State) (l : Latch) : Landed s (landOne s l) := by
  have h0 : Landed s (s.mod (fun c => { c with
      fpmode := c.fpmode ||| BitVec.ofNat 64 (l.flags.toNat * 8), vq := l.extra.foldl (fun q e => fillVq e.1 e.2 q) c.vq })) :=
    ⟨rfl, rfl, rfl, rfl, rfl, rfl⟩
  unfold landOne
  extract_lets lw n t
  change Landed s t at h0
  refine h0.trans ?_
  split
  · exact ⟨rfl, rfl, rfl, rfl, rfl, rfl⟩
  · split
    · exact ⟨rfl, rfl, rfl, rfl, rfl, rfl⟩
    · split
      · exact ⟨rfl, rfl, rfl, rfl, rfl, rfl⟩
      · split
        · exact ⟨rfl, rfl, rfl, rfl, rfl, rfl⟩
        · split
          · exact ⟨rfl, rfl, rfl, rfl, rfl, rfl⟩
          · split
            · exact ⟨rfl, rfl, rfl, rfl, rfl, rfl⟩
            · exact Landed.refl _

theorem foldl_landed (ls : List Latch) : ∀ s, Landed s (ls.foldl landOne s) := by
  induction ls with
  | nil => exact Landed.refl
  | cons l ls ih => intro s; exact (landOne_landed s l).trans (ih _)

/-- Landing changes registers, queue entries, ports and flags alone. -/
theorem landDue_landed (s : State) : Landed s (landDue s) :=
  Landed.trans (t := s.mod (fun c => { c with latches := c.latches.filter (fun l => l.rem != 0) }))
    ⟨rfl, rfl, rfl, rfl, rfl, rfl⟩ (foldl_landed _ _)

namespace Landed

variable {s t : State}

theorem self (h : Landed s t) : t.self = s.self := by rw [h.1]

theorem w16 (h : Landed s t) : t.ctx.w16 = s.ctx.w16 := by
  have := congrArg Context.w16 h.2.1; exact this

theorem endedC (h : Landed s t) : t.ctx.endedC = s.ctx.endedC := by
  have := congrArg Context.endedC h.2.1; exact this

theorem laneBits (h : Landed s t) : t.laneBits = s.laneBits := by simp [State.laneBits, h.w16]

theorem lanes (h : Landed s t) : t.lanes = s.lanes := by simp [State.lanes, State.rowBits, h.self, h.laneBits]

end Landed

/-! ## Steps of an issue -/

theorem killSources_eq (xs : List Src) : ∀ c : Context,
    killSources xs c = { c with v := (killSources xs c).v, live := (killSources xs c).live } := by
  induction xs with
  | nil => intro c; rfl
  | cons x xs ih =>
    intro c
    have h : killSources (x :: xs) c =
        killSources xs (if h : x.code.val < 8 then (if x.last then c.kill ⟨x.code.val, h⟩ else c) else c) := rfl
    rw [h, ih]
    split
    · split
      · rfl
      · rfl
    · rfl

/-- Two contexts with the same operand file lose the same last uses. -/
theorem killSources_congr (xs : List Src) : ∀ c d : Context, c.v = d.v → c.live = d.live →
    (killSources xs c).v = (killSources xs d).v ∧ (killSources xs c).live = (killSources xs d).live := by
  induction xs with
  | nil => intro c d h k; exact ⟨h, k⟩
  | cons x xs ih =>
    intro c d h k
    refine ih _ _ ?_ ?_
    all_goals dsimp only
    · split
      · split
        · simp [Context.kill, h]
        · exact h
      · exact h
    · split
      · split
        · simp [Context.kill, k]
        · exact k
      · exact k

/-- What reserving, latching and pushing leave alone. -/
def Queued (s t : State) : Prop :=
  t = { s with ctx := t.ctx, streams := t.streams } ∧ t.ctx.unissued = s.ctx.unissued ∧ t.ctx.k = s.ctx.k ∧ t.ctx.m = s.ctx.m ∧
  t.ctx.fpmode = s.ctx.fpmode ∧ t.ctx.v = s.ctx.v ∧ t.ctx.live = s.ctx.live ∧ t.ctx.cq = s.ctx.cq ∧ t.ctx.dq = s.ctx.dq ∧
  t.ctx.lq = s.ctx.lq

theorem Queued.refl (s : State) : Queued s s := ⟨rfl, rfl, rfl, rfl, rfl, rfl, rfl, rfl, rfl, rfl⟩

theorem Queued.trans {s t u : State} (h : Queued s t) (k : Queued t u) : Queued s u := by
  obtain ⟨h1, h2, h3, h4, h5, h6, h7, h8, h9, h10⟩ := h
  obtain ⟨k1, k2, k3, k4, k5, k6, k7, k8, k9, k10⟩ := k
  exact ⟨by rw [k1, h1], k2.trans h2, k3.trans h3, k4.trans h4, k5.trans h5, k6.trans h6, k7.trans h7, k8.trans h8, k9.trans h9,
    k10.trans h10⟩

theorem reserveDest_queued (s : State) (d : Nat) : Queued s (reserveDest s d) := by
  unfold reserveDest
  split
  · exact ⟨rfl, rfl, rfl, rfl, rfl, rfl, rfl, rfl, rfl, rfl⟩
  · split
    · exact ⟨rfl, rfl, rfl, rfl, rfl, rfl, rfl, rfl, rfl, rfl⟩
    · split
      · exact ⟨rfl, rfl, rfl, rfl, rfl, rfl, rfl, rfl, rfl, rfl⟩
      · exact Queued.refl s

theorem reserveDest_latches (s : State) (d : Nat) : (reserveDest s d).ctx.latches = s.ctx.latches := by
  unfold reserveDest; repeat' split
  all_goals rfl

theorem reserveExtra_queued (n : Nat) (s : State) : Queued s (s.mod (reserveExtra n)) := ⟨rfl, rfl, rfl, rfl, rfl, rfl, rfl, rfl, rfl, rfl⟩

theorem tick_facts (s : State) : Queued s (s.mod Context.tick) := ⟨rfl, rfl, rfl, rfl, rfl, rfl, rfl, rfl, rfl, rfl⟩

/-- One issue clock, pops and last uses (R108, R114). -/
def popStep (s : State) (o : XOp) : State :=
  (popSources (s.mod Context.tick) o.srcs).mod
    (fun c => { killSources o.srcs c with cq := c.cq.drop o.cqPops, dq := c.dq.drop o.dqPops })

/-- What an issue changes besides queue reservations and latches. -/
def Popped (o : XOp) (s t : State) : Prop :=
  t = { s with ctx := t.ctx, streams := t.streams } ∧ t.ctx.unissued = s.ctx.unissued ∧ t.ctx.k = s.ctx.k ∧ t.ctx.m = s.ctx.m ∧
  t.ctx.fpmode = s.ctx.fpmode ∧ t.ctx.v = (killSources o.srcs s.ctx).v ∧ t.ctx.live = (killSources o.srcs s.ctx).live ∧
  t.ctx.cq = s.ctx.cq.drop o.cqPops ∧ t.ctx.dq = (if o.pops 9 then s.ctx.dq.drop 1 else s.ctx.dq).drop o.dqPops ∧
  t.ctx.lq = if o.pops 8 then s.ctx.lq.drop 1 else s.ctx.lq

theorem popSources_unissued (s : State) (xs : List Src) : (popSources s xs).ctx.unissued = s.ctx.unissued := rfl

theorem popStep_popped (s : State) (o : XOp) : Popped o s (popStep s o) := by
  have hk := killSources_eq o.srcs (popSources (s.mod Context.tick) o.srcs).ctx
  have hc := killSources_congr o.srcs (popSources (s.mod Context.tick) o.srcs).ctx s.ctx rfl rfl
  unfold popStep
  generalize hd : killSources o.srcs (popSources (s.mod Context.tick) o.srcs).ctx = d at hk hc
  refine ⟨?_, ?_, ?_, ?_, ?_, ?_, ?_, ?_, ?_, ?_⟩
  · rfl
  · have h : d.unissued = s.ctx.unissued := by
      rw [hk]
      simp only [Context.unissued, Context.unsent, Context.still]
      rfl
    exact Eq.trans (by simp only [State.mod_ctx, hd]; simp only [Context.unissued, Context.unsent, Context.still]) h
  · simp only [State.mod_ctx, hd]; rw [hk]; rfl
  · simp only [State.mod_ctx, hd]; rw [hk]; rfl
  · simp only [State.mod_ctx, hd]; rw [hk]; rfl
  · simp only [State.mod_ctx, hd]; exact hc.1
  · simp only [State.mod_ctx, hd]; exact hc.2
  · rfl
  · rfl
  · simp only [State.mod_ctx, hd]; rw [hk]; rfl

/-- Popping leaves the slice's place in program order. -/
theorem popStep_order (s : State) (o : XOp) : (popStep s o).ctx.stretchX = s.ctx.stretchX ∧ (popStep s o).ctx.logX = s.ctx.logX := by
  have hk := killSources_eq o.srcs (popSources (s.mod Context.tick) o.srcs).ctx
  unfold popStep
  simp only [State.mod_ctx]
  rw [hk]
  exact ⟨rfl, rfl⟩

theorem Popped.queued {o : XOp} {s t u : State} (h : Popped o s t) (k : Queued t u) : Popped o s u := by
  obtain ⟨h1, h2, h3, h4, h5, h6, h7, h8, h9, h10⟩ := h
  obtain ⟨k1, k2, k3, k4, k5, k6, k7, k8, k9, k10⟩ := k
  exact ⟨by rw [k1, h1], k2.trans h2, k3.trans h3, k4.trans h4, k5.trans h5, k6.trans h6, k7.trans h7, k8.trans h8, k9.trans h9,
    k10.trans h10⟩

theorem Popped.lanes {o : XOp} {s t : State} (h : Popped o s t) : t.laneBits = s.laneBits ∧ t.lanes = s.lanes := by
  have w : t.ctx.w16 = s.ctx.w16 := by have := congrArg Context.w16 h.2.1; exact this
  have f : t.self = s.self := by rw [h.1]
  have b : t.laneBits = s.laneBits := by simp [State.laneBits, w]
  exact ⟨b, by simp [State.lanes, State.rowBits, f, b]⟩

/-- The latch, placed. -/
def latchStep (s : State) (o : XOp) (l : Latch) : State :=
  (reserveDest s o.dest).mod (fun c => { c with latches := c.latches ++ [l], nextId := c.nextId + 1 })

theorem latchStep_queued (s : State) (o : XOp) (l : Latch) : Queued s (latchStep s o l) :=
  (reserveDest_queued s o.dest).trans ⟨rfl, rfl, rfl, rfl, rfl, rfl, rfl, rfl, rfl, rfl⟩

/-- The state right after issue, before the slice moves on. -/
theorem issuedX_popped (s : State) (o : XOp) (f : State → List Nat → Nat → XResult) :
    Popped o s (issuedX s o f) ∧
    destLatch s o (s.ctx.getK s.lanes o.pred) (f s (o.srcs.map (readSrc s)) (s.ctx.getK s.lanes o.pred)) s.ctx.nextId
      ∈ (issuedX s o f).ctx.latches := by
  generalize hr : f s (o.srcs.map (readSrc s)) (s.ctx.getK s.lanes o.pred) = r
  have h3 := popStep_popped s o
  have ht : issuedX s o f = (latchStep (popStep s o) o
      (destLatch (popStep s o) o (s.ctx.getK s.lanes o.pred) r s.ctx.nextId)).mod (reserveExtra r.pushes.length) := by subst hr; rfl
  have hl : destLatch (popStep s o) o (s.ctx.getK s.lanes o.pred) r s.ctx.nextId = destLatch s o (s.ctx.getK s.lanes o.pred) r s.ctx.nextId := by
    simp only [destLatch, h3.lanes.1, h3.lanes.2, (popStep_order s o).1, (popStep_order s o).2]
  rw [ht, hl]
  generalize popStep s o = s3 at h3
  generalize destLatch s o _ r _ = l
  exact ⟨(h3.queued (latchStep_queued s3 o l)).queued (reserveExtra_queued _ _), by simp [latchStep, reserveExtra]⟩

theorem unissued_of_unsent {c d : Context} (h : c.unsent = d.unsent) : c.unissued = d.unissued := by
  have := congrArg (fun x : Context => ({ x.still .execute with
    cq := [], dq := [], lq := [], vq := [], latches := [], nextId := 0, fpmode := 0
    k := Vector.replicate 8 0, m := Vector.replicate 128 0, v := Vector.replicate 8 0, live := Vector.replicate 8 false } : Context)) h
  exact this

theorem unissued_of_still {c d : Context} (h : c.still .execute = d.still .execute) : c.unissued = d.unissued := by
  simp only [Context.unissued, h]

/-- Moving on and settling after an issue. -/
theorem settle_retire_latches (t : State) : (settle (retire t .execute 4 false)).ctx.latches = t.ctx.latches := by
  have h := congrArg Context.latches (settle_settled (retire t .execute 4 false)).2
  have k := (retire_passed t .execute 4 false).latches
  exact Eq.trans h k

/-- A ready execute instruction issues: everything but its own effect is as `XOp.leaves` says, and its latch stands. -/
theorem issueX_ready {s : State} {o : XOp} (h : ExecuteReady s o) (f : State → List Nat → Nat → XResult) :
    ∃ t, issueX s o f = .next t ∧ o.leaves s t ∧
      destLatch (landDue s) o (o.mask s) (f (landDue s) (o.srcs.map (readSrc (landDue s))) (o.mask s)) s.ctx.nextId ∈ t.ctx.latches := by
  obtain ⟨h1, h2, h3, h0, h4, h5, h7, h6⟩ := h
  have hL := landDue_landed s
  have hm : o.mask s = (landDue s).ctx.getK (landDue s).lanes o.pred := by rw [hL.lanes]; rfl
  obtain ⟨⟨i1, i2, i3, i4, i5, i6, i7, i8, i9, i10⟩, i11⟩ := issuedX_popped (landDue s) o f
  have he : issueX s o f = .next (settle (retire (issuedX (landDue s) o f) .execute 4 false)) := by
    simp [issueX, canIssue, Context.ended, h0, h1, h2, h3, h4, h5, h6, h7]
  have hlat := settle_retire_latches (issuedX (landDue s) o f)
  rw [hm, ← hL.2.2.2.2.1]
  refine ⟨_, he, ?_, by rw [hlat]; exact i11⟩
  generalize issuedX (landDue s) o f = x at *
  generalize hw : landDue s = w at *
  have hp := retire_passed x .execute 4 false
  generalize retire x .execute 4 false = y at *
  have hs := settle_settled y
  generalize settle y = z at *
  have sc : ∀ {α : Type} (F : Context → α), (∀ c, F (Context.unsent c) = F c) → F z.ctx = F y.ctx := fun F hF => by
    rw [← hF z.ctx, hs.2, hF]
  have pc : ∀ {α : Type} (F : Context → α), (∀ c, F (Context.still .execute c) = F c) → F y.ctx = F x.ctx := fun F hF => by
    rw [← hF y.ctx, hp.2, hF]
  refine ⟨?_, ?_, ?_, ?_, ?_, ?_, ?_, ?_, ?_, ?_⟩
  · have a := hs.1; have b := hp.1; have d := hL.1
    rw [a, b, i1, d]
  · rw [unissued_of_unsent hs.2, unissued_of_still hp.2, i2, hL.2.1]
  · rw [sc Context.k (fun _ => rfl), pc Context.k (fun _ => rfl), i3, hw]
  · rw [sc Context.m (fun _ => rfl), pc Context.m (fun _ => rfl), i4, hw]
  · rw [sc Context.fpmode (fun _ => rfl), pc Context.fpmode (fun _ => rfl), i5, hw]
  · rw [sc Context.v (fun _ => rfl), pc Context.v (fun _ => rfl), i6, hw]
  · rw [sc Context.live (fun _ => rfl), pc Context.live (fun _ => rfl), i7, hw]
  · rw [sc Context.cq (fun _ => rfl), pc Context.cq (fun _ => rfl), i8, hL.2.2.1]
  · rw [sc Context.dq (fun _ => rfl), pc Context.dq (fun _ => rfl), i9, hL.2.2.2.1]
  · rw [sc Context.lq (fun _ => rfl), pc Context.lq (fun _ => rfl), i10, hL.2.2.2.2.2]

end Sys2Proof.Machine
end

