-- ==== Sys2Proof/Laws/Lanes.lean ====
section
/-! SUPPORT. What an execute instruction's latch holds, lane by lane (R37, R112, R118, R119). -/

namespace Sys2Proof.Machine

/-! ## Sizes -/

theorem laneBits_cases (s : State) : s.laneBits = 16 ∨ s.laneBits = 32 := by
  unfold State.laneBits; split <;> simp

theorem rowBits_cases (s : State) : s.rowBits = 512 ∨ s.rowBits = 1024 := by
  unfold State.rowBits; split <;> simp

theorem lanes_le (s : State) : 16 ≤ s.lanes ∧ s.lanes ≤ 64 := by
  rcases laneBits_cases s with h | h <;> rcases rowBits_cases s with k | k <;> simp [State.lanes, h, k]

theorem laneBits_mul_lanes (s : State) : s.laneBits * s.lanes = s.rowBits := by
  rcases laneBits_cases s with h | h <;> rcases rowBits_cases s with k | k <;> simp [State.lanes, h, k]

theorem rowBits_le (s : State) : s.rowBits ≤ 1024 := by rcases rowBits_cases s with k | k <;> omega

theorem getK_lt (c : Context) (w : Nat) (r : Fin 8) : c.getK w r < 2 ^ w := by
  have := Nat.two_pow_pos w
  unfold Context.getK; split
  · omega
  · exact Nat.mod_lt _ this

theorem mask_lt (s : State) (o : XOp) : o.mask s < 2 ^ s.lanes := getK_lt _ _ _

theorem pow_lanes_le (s : State) : 2 ^ s.lanes ≤ 2 ^ 64 := Nat.pow_le_pow_right (by decide) (lanes_le s).2

theorem toNat_ofNat_mask (s : State) (n : Nat) (h : n < 2 ^ s.lanes) : (BitVec.ofNat 64 n).toNat = n := by
  have := pow_lanes_le s
  rw [BitVec.toNat_ofNat, Nat.mod_eq_of_lt (by omega)]

theorem pack_lt_row (s : State) (f : Nat → Nat) : packLanes s.laneBits ((List.range s.lanes).map f) < 2 ^ 1024 := by
  have h := packLanes_lt s.laneBits ((List.range s.lanes).map f)
  rw [List.length_map, List.length_range, laneBits_mul_lanes] at h
  exact Nat.lt_of_lt_of_le h (Nat.pow_le_pow_right (by decide) (rowBits_le s))

theorem bitOf_full {n l : Nat} (h : l < n) : bitOf (2 ^ n - 1) l = true := by
  have hd : (2 ^ n - 1) / 2 ^ l = 2 ^ (n - l) - 1 := by
    have e : 2 ^ n = 2 ^ (n - l) * 2 ^ l := by rw [← Nat.pow_add]; congr 1; omega
    have hp := Nat.two_pow_pos l
    have hq := Nat.two_pow_pos (n - l)
    rw [e]
    refine Nat.div_eq_of_lt_le ?_ ?_
    · rw [Nat.sub_mul]; omega
    · rw [Nat.sub_add_cancel hq]
      have : 0 < 2 ^ (n - l) * 2 ^ l := Nat.mul_pos hq hp
      omega
  have e : 2 ^ (n - l) = 2 * 2 ^ (n - l - 1) := by
    rw [← Nat.pow_succ']; congr 1; omega
  have hq := Nat.two_pow_pos (n - l - 1)
  simp only [bitOf, hd, e, beq_iff_eq]
  omega

/-! ## Latches -/

theorem laneOf_maskRow (lw n mask x : Nat) {l : Nat} (h : l < n) :
    laneOf (maskRow lw n mask x) lw l = if bitOf mask l then laneOf x lw l else 0 := by
  rw [maskRow, laneOf_pack_range lw n _ h]
  split
  · simp [laneOf]
  · simp

theorem maskRow_lt (s : State) (mask x : Nat) : maskRow s.laneBits s.lanes mask x < 2 ^ 1024 := pack_lt_row s _

/-- The latch of a value result holds the result's lanes. -/
theorem destLatch_lanes (s : State) (o : XOp) (r : XResult) (ident : Nat) (value : Nat → Nat) (hc : o.cls ≠ .predicate)
    (hv : ∀ l, l < s.lanes → laneOf r.data s.laneBits l = value l % 2 ^ s.laneBits) (hs : r.data < 2 ^ 1024) :
    o.heads r.flags (destLatch (landDue s) o (o.mask s) r ident) ∧ o.holdsLanes s value (destLatch (landDue s) o (o.mask s) r ident) := by
  have hL := landDue_landed s
  refine ⟨⟨rfl, rfl, rfl⟩, ?_⟩
  simp only [XOp.holdsLanes, destLatch, hL.laneBits, hL.lanes, hc, if_false]
  have l0 : 0 < s.lanes := by have := (lanes_le s).1; omega
  cases hr : o.toRegister with
  | true =>
    have hr' : (decide (o.dest < 8) || decide (0x80 ≤ o.dest)) = true := hr
    have h11 : o.dest ≠ 0x11 := by intro e; simp [e] at hr'
    simp only [if_true, hr', Bool.or_true, h11, if_false, Bool.not_true, Bool.or_false]
    refine ⟨fun l hl => ?_, fun l hl ha => ?_⟩
    · cases hw : o.whole with
      | true =>
        simp only [XOp.active, hw, Bool.true_or, if_true]
        rw [toNat_ofNat_mask s _ (by have := Nat.two_pow_pos s.lanes; omega)]
        exact bitOf_full hl
      | false =>
        simp only [XOp.active, hw, Bool.false_or]
        simp [toNat_ofNat_mask s _ (mask_lt s o)]
    · rw [BitVec.toNat_ofNat, Nat.mod_eq_of_lt hs, hv l hl]
  | false =>
    have hr' : (decide (o.dest < 8) || decide (0x80 ≤ o.dest)) = false := hr
    simp only [hr', Bool.or_false, XOp.active, Bool.false_eq_true, if_false]
    intro l hl
    have hl' : l < s.lanes := by
      split at hl
      · omega
      · exact hl
    by_cases h11 : o.dest = 0x11
    · have : l = 0 := by simpa [h11] using hl
      subst this
      simp only [h11, if_true]
      have big : ∀ x, laneOf x s.laneBits 0 < 2 ^ 1024 := fun x =>
        Nat.lt_of_lt_of_le (Nat.mod_lt _ (Nat.two_pow_pos _)) (Nat.pow_le_pow_right (by decide) (by
          rcases laneBits_cases s with h | h <;> omega))
      have idem : ∀ x, laneOf (laneOf x s.laneBits 0) s.laneBits 0 = laneOf x s.laneBits 0 := fun x => by simp [laneOf]
      rw [BitVec.toNat_ofNat, Nat.mod_eq_of_lt (big _), idem]
      by_cases hw : o.whole = true
      · simpa [hw] using hv 0 l0
      · simp only [hw, Bool.false_eq_true, if_false, Bool.false_or]
        rw [laneOf_maskRow _ _ _ _ l0, hv 0 l0]
    · simp only [h11, if_false]
      by_cases hw : o.whole = true
      · simp only [hw, if_true, Bool.true_or]
        rw [BitVec.toNat_ofNat, Nat.mod_eq_of_lt hs, hv l hl']
      · simp only [hw, Bool.false_eq_true, if_false, Bool.false_or]
        rw [BitVec.toNat_ofNat, Nat.mod_eq_of_lt (maskRow_lt s _ _), laneOf_maskRow _ _ _ _ hl', hv l hl']

/-! ## Issues of the common forms -/

/-- A ready instruction with a lane-by-lane result. -/
theorem xissues {i : Instr} {s : State} {o : XOp} {f : State → List Nat → Nat → XResult} {value : Nat → Nat} {flags : Num.Flags}
    (he : exec i s = issueX s o f) (h : ExecuteReady s o) (hc : o.cls ≠ .predicate)
    (hv : ∀ l, l < s.lanes →
      laneOf (f (landDue s) (o.srcs.map (readSrc (landDue s))) (o.mask s)).data s.laneBits l = value l % 2 ^ s.laneBits)
    (hs : (f (landDue s) (o.srcs.map (readSrc (landDue s))) (o.mask s)).data < 2 ^ 1024)
    (hf : (f (landDue s) (o.srcs.map (readSrc (landDue s))) (o.mask s)).flags = flags) : XIssues i s o value flags := by
  obtain ⟨t, h1, h2, h3⟩ := issueX_ready h f
  refine ⟨t, he.trans h1, ⟨_, h3, ?_⟩, h2⟩
  rw [← hf]
  exact destLatch_lanes s o _ _ value hc hv hs

theorem plainLanes_data (s t : State) (h : Landed s t) (f : Nat → Nat) :
    (∀ l, l < s.lanes → laneOf (plainLanes t f).data s.laneBits l = f l % 2 ^ s.laneBits) ∧ (plainLanes t f).data < 2 ^ 1024 := by
  simp only [plainLanes, h.laneBits, h.lanes]
  exact ⟨fun l hl => laneOf_pack_range _ _ _ hl, pack_lt_row s f⟩

/-- A ready instruction whose result has no flags. -/
theorem xissues_plain {i : Instr} {s : State} {o : XOp} {f : State → List Nat → Nat → Nat → Nat}
    (he : exec i s = issueX s o (fun s rows mask => plainLanes s (f s rows mask))) (h : ExecuteReady s o) (hc : o.cls ≠ .predicate) :
    XIssues i s o (f (landDue s) (o.srcs.map (readSrc (landDue s))) (o.mask s)) Num.Flags.none :=
  xissues he h hc (plainLanes_data s _ (landDue_landed s) _).1 (plainLanes_data s _ (landDue_landed s) _).2 rfl

theorem foldl_zip_range (mask : Nat) (n : Nat) (f : Nat → Num.Flags) :
    ((List.range n).zip ((List.range n).map f)).foldl (fun r p => if bitOf mask p.1 then r.union p.2 else r) Num.Flags.none =
      (List.range n).foldl (fun r l => if bitOf mask l then r.union (f l) else r) Num.Flags.none := by
  rw [List.zip_map_right, List.zip_eq_zipWith, List.zipWith_self, List.map_map, List.foldl_map]
  rfl

theorem collectLanes_range (lw mask n : Nat) (f : Nat → Nat × Num.Flags) :
    collectLanes lw mask ((List.range n).map f) = (packLanes lw ((List.range n).map (fun l => (f l).1)),
      (List.range n).foldl (fun r l => if bitOf mask l then r.union (f l).2 else r) Num.Flags.none) := by
  have h := foldl_zip_range mask n (fun l => (f l).2)
  simp only [collectLanes, List.length_map, List.length_range, List.map_map, Function.comp_def]
  refine Prod.ext rfl ?_
  rw [← h]
  simp only [List.zip_map_right, List.foldl_map]
  rfl

/-- A ready instruction whose lanes raise flags. -/
theorem xissues_flag {i : Instr} {s : State} {o : XOp} {f : State → List Nat → Nat → Nat → Nat × Num.Flags}
    (he : exec i s = issueX s o (fun s rows mask => flagLanes s mask (f s rows mask))) (h : ExecuteReady s o) (hc : o.cls ≠ .predicate) :
    XIssues i s o (fun l => (f (landDue s) (o.srcs.map (readSrc (landDue s))) (o.mask s) l).1)
      (o.flagsOf s (fun l => (f (landDue s) (o.srcs.map (readSrc (landDue s))) (o.mask s) l).2)) := by
  have hL := landDue_landed s
  refine xissues he h hc ?_ ?_ ?_
  · intro l hl
    simp only [flagLanes, collectLanes_range, hL.laneBits, hL.lanes]
    exact laneOf_pack_range _ _ _ hl
  · simp only [flagLanes, collectLanes_range, hL.laneBits, hL.lanes]
    exact pack_lt_row s _
  · simp only [flagLanes, collectLanes_range, hL.lanes, XOp.flagsOf]

theorem pack1_lt (n : Nat) (f : Nat → Bool) : packLanes 1 ((List.range n).map (fun l => if f l then 1 else 0)) < 2 ^ n := by
  have := packLanes_lt 1 ((List.range n).map (fun l => if f l then 1 else 0))
  simpa using this

theorem bitOf_and (x y l : Nat) : bitOf (x &&& y) l = (bitOf x l && bitOf y l) := by
  have h : ∀ z, bitOf z l = z.testBit l := fun z => by
    simp only [bitOf, Nat.testBit_eq_decide_div_mod_eq]
    rfl
  simp [h, Nat.testBit_and]

/-- A ready predicate instruction. -/
theorem pissues {i : Instr} {s : State} {o : XOp} {f : State → List Nat → Nat → XResult} {value : Nat → Bool} {flags : Num.Flags}
    (he : exec i s = issueX s o f) (h : ExecuteReady s o) (hc : o.cls = .predicate) (hd : o.dest ≠ 0x11)
    (hv : ∀ l, l < s.lanes →
      bitOf ((f (landDue s) (o.srcs.map (readSrc (landDue s))) (o.mask s)).data % 2 ^ s.lanes) l = value l)
    (hf : (f (landDue s) (o.srcs.map (readSrc (landDue s))) (o.mask s)).flags = flags) : PIssues i s o value flags := by
  obtain ⟨t, h1, h2, h3⟩ := issueX_ready h f
  refine ⟨t, he.trans h1, ⟨_, h3, ?_⟩, h2⟩
  have hL := landDue_landed s
  refine ⟨⟨rfl, rfl, by rw [← hf]; rfl⟩, ?_⟩
  generalize f (landDue s) (o.srcs.map (readSrc (landDue s))) (o.mask s) = r at *
  simp only [XOp.holdsBits, destLatch, hc, if_true, hd, if_false, hL.lanes]
  have lt : r.data % 2 ^ s.lanes &&& o.mask s < 2 ^ s.lanes := Nat.lt_of_le_of_lt Nat.and_le_right (mask_lt s o)
  have big : 2 ^ s.lanes ≤ 2 ^ 1024 := Nat.pow_le_pow_right (by decide) (by have := (lanes_le s).2; omega)
  rw [BitVec.toNat_ofNat, Nat.mod_eq_of_lt (by omega)]
  refine ⟨lt, fun l hl => ?_⟩
  rw [bitOf_and, hv l hl, Bool.and_comm]

end Sys2Proof.Machine
end

