-- ==== Sys2Proof/Laws/Memory.lean ====
section
/-! SUPPORT. Memory: what a read gives after a write, and that every operation keeps the canonical form (assumption 5). -/

namespace Sys2Proof.Machine

/-! ## The canonical form -/

theorem wfFrom_mono {m : Memory} {n k : Nat} (h : k ≤ n) (w : wfFrom n m = true) : wfFrom k m = true := by
  cases m with
  | nil => rfl
  | cons c m =>
    obtain ⟨a, b⟩ := c
    simp only [wfFrom, Bool.and_eq_true, decide_eq_true_eq] at w ⊢
    exact ⟨⟨by omega, w.1.2⟩, w.2⟩

theorem writeByte_wfFrom (m : Memory) : ∀ (n x : Nat) (v : Byte), wfFrom n m = true → n ≤ x → wfFrom n (writeByte m x v) = true := by
  induction m with
  | nil =>
    intro n x v _ h
    simp only [writeByte]
    split
    · rfl
    · rename_i hv
      simp only [wfFrom, Bool.and_true, Bool.and_eq_true, decide_eq_true_eq, bne_iff_ne, ne_eq]
      exact ⟨h, hv⟩
  | cons c m ih =>
    intro n x v w h
    obtain ⟨a, b⟩ := c
    have w' := w
    simp only [wfFrom, Bool.and_eq_true, decide_eq_true_eq] at w'
    simp only [writeByte]
    split
    · rename_i hx
      split
      · exact w
      · rename_i hv
        simp only [wfFrom, Bool.and_eq_true, decide_eq_true_eq, bne_iff_ne, ne_eq]
        exact ⟨⟨h, hv⟩, ⟨by omega, by simpa using w'.1.2⟩, w'.2⟩
    · split
      · rename_i hx
        split
        · exact wfFrom_mono (by omega) w'.2
        · rename_i hv
          simp only [wfFrom, Bool.and_eq_true, decide_eq_true_eq, bne_iff_ne, ne_eq]
          exact ⟨⟨w'.1.1, hv⟩, w'.2⟩
      · rename_i h1 h2
        simp only [wfFrom, Bool.and_eq_true, decide_eq_true_eq]
        exact ⟨w'.1, ih _ _ _ w'.2 (by omega)⟩

/-- Writing a byte keeps the canonical form. -/
theorem writeByte_wf {m : Memory} (h : m.wf = true) (x : Nat) (v : Byte) : (writeByte m x v).wf = true :=
  writeByte_wfFrom m 0 x v h (Nat.zero_le x)

theorem writeBytes_wf (bs : List Byte) : ∀ {m : Memory} (_ : m.wf = true) (a : Nat), (writeBytes m a bs).wf = true := by
  induction bs with
  | nil => intro m h a; exact h
  | cons b bs ih => intro m h a; exact ih (writeByte_wf h a b) (a + 1)

theorem writeLE_wf {m : Memory} (h : m.wf = true) (a n v : Nat) : (writeLE m a n v).wf = true := writeBytes_wf _ h a

theorem writePlanes_wf (line e code : Nat) : ∀ n {m : Memory} (_ : m.wf = true), (writePlanes m line e code n).wf = true := by
  intro n
  induction n with
  | zero => intro m h; exact h
  | succ n ih => intro m h; simp only [writePlanes]; exact ih (writeByte_wf h _ _)

theorem putStreamByte_wf {m : Memory} (h : m.wf = true) (a : PageAttr) (va : Nat) (b : Byte) : (putStreamByte m a va b).wf = true := by
  unfold putStreamByte
  split
  · exact writePlanes_wf _ _ _ _ h
  · exact writeByte_wf h _ _

theorem putStreamBytes_wf (a : PageAttr) (bs : List Byte) :
    ∀ {m : Memory} (_ : m.wf = true) (va : Nat), (putStreamBytes m a va bs).wf = true := by
  induction bs with
  | nil => intro m h va; exact h
  | cons b bs ih => intro m h va; exact ih (putStreamByte_wf h a va b) (va + 1)

theorem wfFrom_filter (p : Host.Cell → Bool) (m : Memory) : ∀ n, wfFrom n m = true → wfFrom n (m.filter p) = true := by
  induction m with
  | nil => intro n _; rfl
  | cons c m ih =>
    intro n w
    obtain ⟨a, b⟩ := c
    simp only [wfFrom, Bool.and_eq_true, decide_eq_true_eq] at w
    rw [List.filter_cons]
    split
    · simp only [wfFrom, Bool.and_eq_true, decide_eq_true_eq]; exact ⟨w.1, ih _ w.2⟩
    · exact ih n (wfFrom_mono (by omega) w.2)

/-- Dropping cells keeps the canonical form. -/
theorem filter_wf (p : Host.Cell → Bool) {m : Memory} (h : m.wf = true) : Memory.wf (m.filter p) = true := wfFrom_filter p m 0 h

theorem clearBelow_wf {m : Memory} (h : m.wf = true) (n : Nat) : (clearBelow m n).wf = true := filter_wf _ h

/-! ## Reading after writing -/

/-- Below every listed cell, a byte reads as zero. -/
theorem readByte_below {m : Memory} {n x : Nat} (w : wfFrom n m = true) (h : x < n) : readByte m x = 0 := by
  cases m with
  | nil => rfl
  | cons c m =>
    obtain ⟨a, b⟩ := c
    simp only [wfFrom, Bool.and_eq_true, decide_eq_true_eq] at w
    have h1 : x ≠ a := by omega
    have h2 : x < a := by omega
    simp [readByte, h1, h2]

/-- Memories in canonical form that read alike are equal. -/
theorem wfFrom_ext (m : Memory) : ∀ (n : Nat) (m' : Memory), wfFrom n m = true → wfFrom n m' = true →
    (∀ x, readByte m x = readByte m' x) → m = m' := by
  have cell (a : Nat) (b : Byte) (m : Memory) : readByte ((a, b) :: m) a = b := by simp [readByte]
  induction m with
  | nil =>
    intro n m' _ w h
    cases m' with
    | nil => rfl
    | cons c m' =>
      obtain ⟨a, b⟩ := c
      have := h a
      rw [cell] at this
      simp [wfFrom, ← this, readByte] at w
  | cons c m ih =>
    obtain ⟨a, b⟩ := c
    intro n m' w w' h
    cases m' with
    | nil =>
      have := h a
      rw [cell] at this
      simp [wfFrom, this, readByte] at w
    | cons c m' =>
      obtain ⟨a', b'⟩ := c
      have e : a = a' := by
        simp only [wfFrom, Bool.and_eq_true, bne_iff_ne, ne_eq] at w w'
        have p := h a
        have q := h a'
        rw [cell] at p q
        simp only [readByte] at p q
        rcases Nat.lt_trichotomy a a' with l | e | l
        · rw [if_neg (by omega), if_pos l] at p; exact absurd p w.1.2
        · exact e
        · rw [if_neg (by omega), if_pos l] at q; exact absurd q.symm w'.1.2
      subst e
      have v := h a
      rw [cell, cell] at v
      subst v
      simp only [wfFrom, Bool.and_eq_true] at w w'
      rw [ih (a + 1) m' w.2 w'.2 (fun x => ?_)]
      by_cases l : x ≤ a
      · rw [readByte_below w.2 (by omega), readByte_below w'.2 (by omega)]
      · have := h x
        simpa only [readByte, if_neg (show ¬x = a by omega), if_neg (show ¬x < a by omega)] using this
/-- A byte reads as written, and every other byte as before. -/
theorem readByte_writeByte (m : Memory) : ∀ (n x y : Nat) (v : Byte), wfFrom n m = true →
    readByte (writeByte m x v) y = if y = x then v else readByte m y := by
  induction m with
  | nil =>
    intro n x y v _
    simp only [writeByte]
    split
    · rename_i h; subst h; simp [readByte]
    · by_cases e : y = x
      · simp [readByte, e]
      · simp [readByte, e]
  | cons c m ih =>
    intro n x y v w
    obtain ⟨a, b⟩ := c
    simp only [wfFrom, Bool.and_eq_true, decide_eq_true_eq] at w
    simp only [writeByte]
    split
    · rename_i hx
      split
      · rename_i hv
        by_cases e : y = x
        · subst e
          have h1 : y ≠ a := by omega
          simp [readByte, h1, hx, hv]
        · simp [e]
      · by_cases e : y = x
        · simp [readByte, e]
        · by_cases hl : y < x
          · have h1 : y ≠ a := by omega
            have h2 : y < a := by omega
            simp [readByte, e, hl, h1, h2]
          · simp [readByte, e, hl]
    · split
      · rename_i hxa hx
        subst hx
        split
        · rename_i hv
          by_cases e : y = x
          · subst e; simp [hv, readByte_below w.2 (Nat.lt_succ_self y)]
          · by_cases hl : y < x
            · simp [readByte, e, hl, readByte_below w.2 (show y < x + 1 by omega)]
            · simp [readByte, e, hl]
        · by_cases e : y = x
          · simp [readByte, e]
          · simp [readByte, e]
      · rename_i h1 h2
        by_cases e : y = a
        · subst e
          have : y ≠ x := fun e => h2 e.symm
          simp [readByte, this]
        · by_cases hl : y < a
          · have : y ≠ x := by omega
            simp [readByte, e, hl, this]
          · simp [readByte, e, hl, ih _ x y v w.2]

theorem readByte_writeBytes_out (bs : List Byte) : ∀ {m : Memory} (_ : m.wf = true) (a y : Nat), y < a ∨ a + bs.length ≤ y →
    readByte (writeBytes m a bs) y = readByte m y := by
  induction bs with
  | nil => intro m _ a y _; rfl
  | cons b bs ih =>
    intro m h a y hy
    simp only [List.length_cons] at hy
    rw [writeBytes, ih (writeByte_wf h a b) (a + 1) y (by omega), readByte_writeByte m 0 a y b h, if_neg (by omega)]

/-- A range reads back as written. -/
theorem readByte_writeBytes_in (bs : List Byte) : ∀ {m : Memory} (_ : m.wf = true) (a i : Nat), i < bs.length →
    readByte (writeBytes m a bs) (a + i) = bs.getD i 0 := by
  induction bs with
  | nil => intro m _ a i hi; simp at hi
  | cons b bs ih =>
    intro m h a i hi
    cases i with
    | zero =>
      rw [writeBytes, readByte_writeBytes_out bs (writeByte_wf h a b) (a + 1) (a + 0) (by omega), readByte_writeByte m 0 a _ b h]
      simp
    | succ i =>
      have := ih (writeByte_wf h a b) (a + 1) i (by simpa using hi)
      rw [writeBytes, show a + (i + 1) = a + 1 + i by omega, this]
      rfl

theorem leBytes_length (n : Nat) : ∀ v, (leBytes n v).length = n := by
  induction n with
  | zero => intro v; rfl
  | succ n ih => intro v; simp [leBytes, ih]

theorem leNat_leBytes (n : Nat) : ∀ v, leNat (leBytes n v) = v % 256 ^ n := by
  induction n with
  | zero => intro v; simp [leBytes, leNat, Nat.mod_one]
  | succ n ih =>
    intro v
    simp only [leBytes, leNat, ih, BitVec.toNat_ofNat]
    have e : (2 : Nat) ^ 8 = 256 := by decide
    rw [e, Nat.pow_succ, Nat.mul_comm (256 ^ n) 256, Nat.mod_mul]

theorem readBytes_eq (m : Memory) (bs : List Byte) : ∀ a, (∀ i, i < bs.length → readByte m (a + i) = bs.getD i 0) →
    readBytes m a bs.length = bs := by
  induction bs with
  | nil => intro a _; rfl
  | cons b bs ih =>
    intro a h
    simp only [List.length_cons, readBytes]
    have h0 := h 0 (by simp)
    rw [show readByte m a = b by simpa using h0, ih (a + 1) (fun i hi => by
      have := h (i + 1) (by simpa using hi)
      rw [show a + 1 + i = a + (i + 1) by omega, this]; rfl)]

/-- Bytes read back as written. -/
theorem readBytes_writeBytes {m : Memory} (h : m.wf = true) (a : Nat) (bs : List Byte) : readBytes (writeBytes m a bs) a bs.length = bs :=
  readBytes_eq _ _ _ (fun i hi => readByte_writeBytes_in bs h a i hi)

/-- A little-endian number reads back as written (R4). -/
theorem readLE_writeLE {m : Memory} (h : m.wf = true) (a n v : Nat) : readLE (writeLE m a n v) a n = v % 256 ^ n := by
  have := readBytes_writeBytes h a (leBytes n v)
  rw [leBytes_length] at this
  rw [readLE, writeLE, this, leNat_leBytes]

end Sys2Proof.Machine
end

