-- ==== Sys2Proof/Laws/PerInstr.lean ====
section
/-! SUPPORT. Encoding and decoding agree, instruction by instruction (R115 to R126): what the encoder writes for a well-formed
instruction the decoder reads back, with every operand. -/

namespace Sys2Proof.Laws

/-! ## Fields -/

theorem fin_eq {n : Nat} [NeZero n] {w hi lo : Nat} (x : Fin n) (h : bits w hi lo = x.val) : fin w hi lo = x := by
  rw [fin, h]; exact Fin.ofNat_val_eq_self x

theorem vec_eq {n w hi lo : Nat} (x : BitVec n) (h : bits w hi lo = x.toNat) : BitVec.ofNat n (bits w hi lo) = x := by
  rw [h]; simp

theorem flag_eq {w hi lo : Nat} (u : Bool) (h : bits w hi lo = u.toNat) : (bits w hi lo == 1) = u := by
  rw [h]; cases u <;> rfl

theorem ElemType_code_lt (x : ElemType) : x.code < 12 := by cases x <;> decide

theorem ElemType_ofCode (x : ElemType) : ElemType.ofCode x.code = some x := by cases x <;> rfl

theorem CmpCond_code_lt (x : CmpCond) : x.code < 6 := by cases x <;> decide

theorem CmpCond_ofCode (x : CmpCond) : CmpCond.ofCode x.code = some x := by cases x <;> rfl

theorem FCond_code_lt (x : FCond) : x.code < 5 := by cases x <;> decide

theorem FCond_ofCode (x : FCond) : FCond.ofCode x.code = some x := by cases x <;> rfl

theorem ICond_code_lt (x : ICond) : x.code < 4 := by cases x <;> decide

theorem ICond_ofCode (x : ICond) : ICond.ofCode x.code = some x := by cases x <;> rfl

theorem Scope_code_lt (x : Scope) : x.code < 4 := by cases x <;> decide

theorem Scope_ofCode (x : Scope) : Scope.ofCode x.code = some x := by cases x <;> rfl

theorem AmoOp_code_lt (x : AmoOp) : x.code < 10 := by cases x <;> decide

theorem AmoOp_ofCode (x : AmoOp) : AmoOp.ofCode x.code = some x := by cases x <;> rfl

theorem CancelLevel_code_lt (x : CancelLevel) : x.code < 5 := by cases x <;> decide

theorem CancelLevel_ofCode (x : CancelLevel) : CancelLevel.ofCode x.code = some x := by cases x <;> rfl

theorem LoopLevel_code_lt (x : LoopLevel) : x.code < 2 := by cases x <;> decide

theorem LoopLevel_ofCode (x : LoopLevel) : LoopLevel.ofCode x.code = some x := by cases x <;> rfl

theorem RoundMode_code_lt (x : RoundMode) : x.code < 4 := by cases x <;> decide

theorem RoundMode_ofCode (x : RoundMode) : RoundMode.ofCode x.code = some x := by cases x <;> rfl

theorem ShufPattern_code_lt (x : ShufPattern) : x.code < 6 := by cases x <;> decide

theorem ShufPattern_ofCode (x : ShufPattern) : ShufPattern.ofCode x.code = some x := by cases x <;> rfl

/-! ## Words -/

theorem word32_bytes (w : Nat) (h : w < 2 ^ 32) (rest : List Byte) :
    takeWord (bytesOfWord32 w ++ rest) = some (w, rest) := by
  simp only [bytesOfWord32, List.cons_append, List.nil_append, takeWord, word32OfBytes, BitVec.toNat_ofNat, Option.some.injEq, Prod.mk.injEq,
    and_true]
  omega

theorem rec_bytes (r : ShapeRec) (rest : List Byte) : takeRec (bytesOfRec r ++ rest) = some (r, rest) := by
  simp only [takeRec, bytesOfRec, List.append_assoc, word32_bytes _ (BitVec.isLt _)]
  simp

/-- What a word decodes to, with its record. -/
def decodes (w : Nat) (i : Instr) (r : Option ShapeRec) : Prop :=
  w < 2 ^ 32 ∧ decide (0x78 ≤ bits w 31 25) = r.isSome ∧ (match r with | some r => decodeExtended w r | none => decodeWord w) = .ok i

theorem decode_of {i : Instr} {w : Nat} {r : Option ShapeRec} (he : encodeWord i = w) (hr : encodeRec i = r) (h : decodes w i r) (rest : List Byte) :
    decode (encode i ++ rest) = .ok (i, rest) := by
  subst he
  obtain ⟨hl, hx, hd⟩ := h
  have hn : isExtendedWord (encodeWord i) = r.isSome := hx
  cases r with
  | none =>
    have hn : isExtendedWord (encodeWord i) = false := hn
    have hd : decodeWord (encodeWord i) = .ok i := hd
    simp [encode, hr, decode, word32_bytes _ hl, hn, hd]
  | some r =>
    have hn : isExtendedWord (encodeWord i) = true := hn
    have hd : decodeExtended (encodeWord i) r = .ok i := hd
    simp [encode, hr, decode, word32_bytes _ hl, hn, hd, rec_bytes]

/-! A word as its fields, (width, value), from bit 0 up. -/

def pack : List (Nat × Nat) → Nat
  | [] => 0
  | (n, x) :: r => x + 2 ^ n * pack r

def fits : List (Nat × Nat) → Prop
  | [] => True
  | (n, x) :: r => x < 2 ^ n ∧ fits r

def offset : List (Nat × Nat) → Nat → Nat
  | _, 0 => 0
  | [], _ => 0
  | (n, _) :: r, i + 1 => offset r i + n

def value : List (Nat × Nat) → Nat → Nat × Nat
  | [], _ => (0, 0)
  | p :: _, 0 => p
  | _ :: r, i + 1 => value r i

theorem pack_lt (l : List (Nat × Nat)) (h : fits l) : pack l < 2 ^ offset l l.length := by
  induction l with
  | nil => simp [pack, offset]
  | cons p l ih =>
    obtain ⟨n, x⟩ := p
    simp only [pack, offset, List.length_cons]
    have hy := ih h.2
    have hx := h.1
    have : 2 ^ n * (pack l + 1) ≤ 2 ^ n * 2 ^ offset l l.length := Nat.mul_le_mul_left _ hy
    rw [Nat.pow_add, Nat.mul_comm (2 ^ offset l l.length)]
    rw [Nat.mul_add] at this; omega

/-- Each field reads back as its value. -/
theorem field (l : List (Nat × Nat)) : ∀ i, fits l → (value l i).1 ≠ 0 →
    bits (pack l) (offset l i + (value l i).1 - 1) (offset l i) = (value l i).2 := by
  induction l with
  | nil => intro i _ h; simp [value] at h
  | cons p l ih =>
    obtain ⟨n, x⟩ := p
    intro i h hn
    have hx := h.1
    cases i with
    | zero =>
      simp only [offset, value, bits, pack, Nat.pow_zero, Nat.div_one, Nat.zero_add] at hn ⊢
      rw [show n - 1 + 1 - 0 = n by omega, Nat.add_mul_mod_self_left, Nat.mod_eq_of_lt hx]
    | succ i =>
      have k := ih i h.2 hn
      simp only [value] at hn
      simp only [offset, value, bits, pack] at k ⊢
      rw [Nat.pow_add, Nat.mul_comm (2 ^ offset l i), ← Nat.div_div_eq_div_mul, Nat.add_mul_div_left _ _ (Nat.two_pow_pos n),
        Nat.div_eq_of_lt hx, Nat.zero_add]
      rw [← k]; congr 2; omega

theorem field_of {w : Nat} {l : List (Nat × Nat)} (h : w = pack l) (hf : fits l) (i : Nat) (hn : (value l i).1 ≠ 0 := by exact Nat.succ_ne_zero _) :
    bits w (offset l i + (value l i).1 - 1) (offset l i) = (value l i).2 := h ▸ field l i hf hn

/-! ## Majors -/

theorem major00 {w : Nat} (h : bits w 31 25 = 0x00) : decodeWord w = decodeMajor00 w := by rw [decodeWord, h]; rfl

theorem major01 {w : Nat} (h : bits w 31 25 = 0x01) : decodeWord w = decodeMajor01 w := by rw [decodeWord, h]; rfl

theorem major02 {w : Nat} (h : bits w 31 25 = 0x02) : decodeWord w = decodeMajor02 w := by rw [decodeWord, h]; rfl

theorem major03 {w : Nat} (h : bits w 31 25 = 0x03) : decodeWord w = decodeMajor03 w := by rw [decodeWord, h]; rfl

theorem major04 {w : Nat} (h : bits w 31 25 = 0x04) : decodeWord w = decodeMajor04 w := by rw [decodeWord, h]; rfl

theorem major05 {w : Nat} (h : bits w 31 25 = 0x05) : decodeWord w = decodeMajor05 w := by rw [decodeWord, h]; rfl

theorem major06 {w : Nat} (h : bits w 31 25 = 0x06) : decodeWord w = decodeMajor06 w := by rw [decodeWord, h]; rfl

theorem major07 {w : Nat} (h : bits w 31 25 = 0x07) : decodeWord w = decodeMajor07 w := by rw [decodeWord, h]; rfl

theorem major08 {w : Nat} (h : bits w 31 25 = 0x08) : decodeWord w = decodeMajor08 w := by rw [decodeWord, h]; rfl

theorem major09 {w : Nat} (h : bits w 31 25 = 0x09) : decodeWord w = decodeMajor09 w := by rw [decodeWord, h]; rfl

theorem major0A {w : Nat} (h : bits w 31 25 = 0x0A) : decodeWord w = decodeMajor0A w := by rw [decodeWord, h]; rfl

theorem major0B {w : Nat} (h : bits w 31 25 = 0x0B) : decodeWord w = decodeMajor0B w := by rw [decodeWord, h]; rfl

theorem major0C {w : Nat} (h : bits w 31 25 = 0x0C) : decodeWord w = decodeMajor0C w := by rw [decodeWord, h]; rfl

theorem major0D {w : Nat} (h : bits w 31 25 = 0x0D) : decodeWord w = decodeMajor0D w := by rw [decodeWord, h]; rfl

theorem major10 {w : Nat} (h : bits w 31 25 = 0x10) : decodeWord w = decodeMajor10 w := by rw [decodeWord, h]; rfl

theorem major11 {w : Nat} (h : bits w 31 25 = 0x11) : decodeWord w = decodeMajor11 w := by rw [decodeWord, h]; rfl

theorem major12 {w : Nat} (h : bits w 31 25 = 0x12) : decodeWord w = decodeMajor12 w := by rw [decodeWord, h]; rfl

theorem major13 {w : Nat} (h : bits w 31 25 = 0x13) : decodeWord w = decodeMajor13 w := by rw [decodeWord, h]; rfl

theorem major14 {w : Nat} (h : bits w 31 25 = 0x14) : decodeWord w = decodeMajor14 w := by rw [decodeWord, h]; rfl

theorem major15 {w : Nat} (h : bits w 31 25 = 0x15) : decodeWord w = decodeMajor15 w := by rw [decodeWord, h]; rfl

theorem major16 {w : Nat} (h : bits w 31 25 = 0x16) : decodeWord w = decodeMajor16 w := by rw [decodeWord, h]; rfl

theorem major17 {w : Nat} (h : bits w 31 25 = 0x17) : decodeWord w = decodeMajor17 w := by rw [decodeWord, h]; rfl

theorem major18 {w : Nat} (h : bits w 31 25 = 0x18) : decodeWord w = decodeMajor18 w := by rw [decodeWord, h]; rfl

theorem major19 {w : Nat} (h : bits w 31 25 = 0x19) : decodeWord w = decodeMajor19 w := by rw [decodeWord, h]; rfl

theorem major1A {w : Nat} (h : bits w 31 25 = 0x1A) : decodeWord w = decodeMajor1A w := by rw [decodeWord, h]; rfl

theorem major1B {w : Nat} (h : bits w 31 25 = 0x1B) : decodeWord w = decodeMajor1B w := by rw [decodeWord, h]; rfl

theorem major1C {w : Nat} (h : bits w 31 25 = 0x1C) : decodeWord w = decodeMajor1C w := by rw [decodeWord, h]; rfl

theorem major1D {w : Nat} (h : bits w 31 25 = 0x1D) : decodeWord w = decodeMajor1D w := by rw [decodeWord, h]; rfl

theorem major1E {w : Nat} (h : bits w 31 25 = 0x1E) : decodeWord w = decodeMajor1E w := by rw [decodeWord, h]; rfl

theorem major1F {w : Nat} (h : bits w 31 25 = 0x1F) : decodeWord w = decodeMajor1F w := by rw [decodeWord, h]; rfl

theorem major20 {w : Nat} (h : bits w 31 25 = 0x20) : decodeWord w = decodeMajor20 w := by rw [decodeWord, h]; rfl

theorem major21 {w : Nat} (h : bits w 31 25 = 0x21) : decodeWord w = decodeMajor21 w := by rw [decodeWord, h]; rfl

theorem major22 {w : Nat} (h : bits w 31 25 = 0x22) : decodeWord w = decodeMajor22 w := by rw [decodeWord, h]; rfl

theorem major23 {w : Nat} (h : bits w 31 25 = 0x23) : decodeWord w = decodeMajor23 w := by rw [decodeWord, h]; rfl

theorem major24 {w : Nat} (h : bits w 31 25 = 0x24) : decodeWord w = decodeMajor24 w := by rw [decodeWord, h]; rfl

theorem major25 {w : Nat} (h : bits w 31 25 = 0x25) : decodeWord w = decodeMajor25 w := by rw [decodeWord, h]; rfl

theorem major26 {w : Nat} (h : bits w 31 25 = 0x26) : decodeWord w = decodeMajor26 w := by rw [decodeWord, h]; rfl

theorem major27 {w : Nat} (h : bits w 31 25 = 0x27) : decodeWord w = decodeMajor27 w := by rw [decodeWord, h]; rfl

theorem major28 {w : Nat} (h : bits w 31 25 = 0x28) : decodeWord w = decodeMajor28 w := by rw [decodeWord, h]; rfl

theorem major29 {w : Nat} (h : bits w 31 25 = 0x29) : decodeWord w = decodeMajor29 w := by rw [decodeWord, h]; rfl

theorem major2A {w : Nat} (h : bits w 31 25 = 0x2A) : decodeWord w = decodeMajor2A w := by rw [decodeWord, h]; rfl

theorem major2B {w : Nat} (h : bits w 31 25 = 0x2B) : decodeWord w = decodeMajor2B w := by rw [decodeWord, h]; rfl

theorem major2C {w : Nat} (h : bits w 31 25 = 0x2C) : decodeWord w = decodeMajor2C w := by rw [decodeWord, h]; rfl

theorem major2D {w : Nat} (h : bits w 31 25 = 0x2D) : decodeWord w = decodeMajor2D w := by rw [decodeWord, h]; rfl

theorem major2E {w : Nat} (h : bits w 31 25 = 0x2E) : decodeWord w = decodeMajor2E w := by rw [decodeWord, h]; rfl

theorem major2F {w : Nat} (h : bits w 31 25 = 0x2F) : decodeWord w = decodeMajor2F w := by rw [decodeWord, h]; rfl

theorem major30 {w : Nat} (h : bits w 31 25 = 0x30) : decodeWord w = decodeMajor30 w := by rw [decodeWord, h]; rfl

theorem major31 {w : Nat} (h : bits w 31 25 = 0x31) : decodeWord w = decodeMajor31 w := by rw [decodeWord, h]; rfl

theorem major32 {w : Nat} (h : bits w 31 25 = 0x32) : decodeWord w = decodeMajor32 w := by rw [decodeWord, h]; rfl

theorem major33 {w : Nat} (h : bits w 31 25 = 0x33) : decodeWord w = decodeMajor33 w := by rw [decodeWord, h]; rfl

theorem major34 {w : Nat} (h : bits w 31 25 = 0x34) : decodeWord w = decodeMajor34 w := by rw [decodeWord, h]; rfl

theorem major35 {w : Nat} (h : bits w 31 25 = 0x35) : decodeWord w = decodeMajor35 w := by rw [decodeWord, h]; rfl

theorem major36 {w : Nat} (h : bits w 31 25 = 0x36) : decodeWord w = decodeMajor36 w := by rw [decodeWord, h]; rfl

theorem major37 {w : Nat} (h : bits w 31 25 = 0x37) : decodeWord w = decodeMajor37 w := by rw [decodeWord, h]; rfl

theorem major38 {w : Nat} (h : bits w 31 25 = 0x38) : decodeWord w = decodeMajor38 w := by rw [decodeWord, h]; rfl

theorem major39 {w : Nat} (h : bits w 31 25 = 0x39) : decodeWord w = decodeMajor39 w := by rw [decodeWord, h]; rfl

theorem major3A {w : Nat} (h : bits w 31 25 = 0x3A) : decodeWord w = decodeMajor3A w := by rw [decodeWord, h]; rfl

theorem major3B {w : Nat} (h : bits w 31 25 = 0x3B) : decodeWord w = decodeMajor3B w := by rw [decodeWord, h]; rfl

theorem major40 {w : Nat} (h : bits w 31 25 = 0x40) : decodeWord w = decodeMajor40 w := by rw [decodeWord, h]; rfl

theorem major41 {w : Nat} (h : bits w 31 25 = 0x41) : decodeWord w = decodeMajor41 w := by rw [decodeWord, h]; rfl

theorem major42 {w : Nat} (h : bits w 31 25 = 0x42) : decodeWord w = decodeMajor42 w := by rw [decodeWord, h]; rfl

theorem major43 {w : Nat} (h : bits w 31 25 = 0x43) : decodeWord w = decodeMajor43 w := by rw [decodeWord, h]; rfl

theorem major44 {w : Nat} (h : bits w 31 25 = 0x44) : decodeWord w = decodeMajor44 w := by rw [decodeWord, h]; rfl

theorem major45 {w : Nat} (h : bits w 31 25 = 0x45) : decodeWord w = decodeMajor45 w := by rw [decodeWord, h]; rfl

theorem major46 {w : Nat} (h : bits w 31 25 = 0x46) : decodeWord w = decodeMajor46 w := by rw [decodeWord, h]; rfl

theorem major47 {w : Nat} (h : bits w 31 25 = 0x47) : decodeWord w = decodeMajor47 w := by rw [decodeWord, h]; rfl

theorem major48 {w : Nat} (h : bits w 31 25 = 0x48) : decodeWord w = decodeMajor48 w := by rw [decodeWord, h]; rfl

theorem major49 {w : Nat} (h : bits w 31 25 = 0x49) : decodeWord w = decodeMajor49 w := by rw [decodeWord, h]; rfl

theorem major4A {w : Nat} (h : bits w 31 25 = 0x4A) : decodeWord w = decodeMajor4A w := by rw [decodeWord, h]; rfl

theorem major4B {w : Nat} (h : bits w 31 25 = 0x4B) : decodeWord w = decodeMajor4B w := by rw [decodeWord, h]; rfl

theorem major4C {w : Nat} (h : bits w 31 25 = 0x4C) : decodeWord w = decodeMajor4C w := by rw [decodeWord, h]; rfl

theorem major4D {w : Nat} (h : bits w 31 25 = 0x4D) : decodeWord w = decodeMajor4D w := by rw [decodeWord, h]; rfl

theorem major4E {w : Nat} (h : bits w 31 25 = 0x4E) : decodeWord w = decodeMajor4E w := by rw [decodeWord, h]; rfl

theorem major4F {w : Nat} (h : bits w 31 25 = 0x4F) : decodeWord w = decodeMajor4F w := by rw [decodeWord, h]; rfl

theorem major50 {w : Nat} (h : bits w 31 25 = 0x50) : decodeWord w = decodeMajor50 w := by rw [decodeWord, h]; rfl

theorem major51 {w : Nat} (h : bits w 31 25 = 0x51) : decodeWord w = decodeMajor51 w := by rw [decodeWord, h]; rfl

theorem major52 {w : Nat} (h : bits w 31 25 = 0x52) : decodeWord w = decodeMajor52 w := by rw [decodeWord, h]; rfl

theorem major53 {w : Nat} (h : bits w 31 25 = 0x53) : decodeWord w = decodeMajor53 w := by rw [decodeWord, h]; rfl

theorem major54 {w : Nat} (h : bits w 31 25 = 0x54) : decodeWord w = decodeMajor54 w := by rw [decodeWord, h]; rfl

theorem major55 {w : Nat} (h : bits w 31 25 = 0x55) : decodeWord w = decodeMajor55 w := by rw [decodeWord, h]; rfl

theorem major56 {w : Nat} (h : bits w 31 25 = 0x56) : decodeWord w = decodeMajor56 w := by rw [decodeWord, h]; rfl

theorem major57 {w : Nat} (h : bits w 31 25 = 0x57) : decodeWord w = decodeMajor57 w := by rw [decodeWord, h]; rfl

theorem major58 {w : Nat} (h : bits w 31 25 = 0x58) : decodeWord w = decodeMajor58 w := by rw [decodeWord, h]; rfl

theorem major59 {w : Nat} (h : bits w 31 25 = 0x59) : decodeWord w = decodeMajor59 w := by rw [decodeWord, h]; rfl

theorem major5A {w : Nat} (h : bits w 31 25 = 0x5A) : decodeWord w = decodeMajor5A w := by rw [decodeWord, h]; rfl

theorem major5B {w : Nat} (h : bits w 31 25 = 0x5B) : decodeWord w = decodeMajor5B w := by rw [decodeWord, h]; rfl

theorem major5C {w : Nat} (h : bits w 31 25 = 0x5C) : decodeWord w = decodeMajor5C w := by rw [decodeWord, h]; rfl

theorem major5D {w : Nat} (h : bits w 31 25 = 0x5D) : decodeWord w = decodeMajor5D w := by rw [decodeWord, h]; rfl

theorem major5E {w : Nat} (h : bits w 31 25 = 0x5E) : decodeWord w = decodeMajor5E w := by rw [decodeWord, h]; rfl

theorem major5F {w : Nat} (h : bits w 31 25 = 0x5F) : decodeWord w = decodeMajor5F w := by rw [decodeWord, h]; rfl

theorem major60 {w : Nat} (h : bits w 31 25 = 0x60) : decodeWord w = decodeMajor60 w := by rw [decodeWord, h]; rfl

theorem major61 {w : Nat} (h : bits w 31 25 = 0x61) : decodeWord w = decodeMajor61 w := by rw [decodeWord, h]; rfl

theorem major62 {w : Nat} (h : bits w 31 25 = 0x62) : decodeWord w = decodeMajor62 w := by rw [decodeWord, h]; rfl

theorem major63 {w : Nat} (h : bits w 31 25 = 0x63) : decodeWord w = decodeMajor63 w := by rw [decodeWord, h]; rfl

theorem major64 {w : Nat} (h : bits w 31 25 = 0x64) : decodeWord w = decodeMajor64 w := by rw [decodeWord, h]; rfl

theorem major65 {w : Nat} (h : bits w 31 25 = 0x65) : decodeWord w = decodeMajor65 w := by rw [decodeWord, h]; rfl

theorem major66 {w : Nat} (h : bits w 31 25 = 0x66) : decodeWord w = decodeMajor66 w := by rw [decodeWord, h]; rfl

theorem major67 {w : Nat} (h : bits w 31 25 = 0x67) : decodeWord w = decodeMajor67 w := by rw [decodeWord, h]; rfl

theorem major68 {w : Nat} (h : bits w 31 25 = 0x68) : decodeWord w = decodeMajor68 w := by rw [decodeWord, h]; rfl

theorem major69 {w : Nat} (h : bits w 31 25 = 0x69) : decodeWord w = decodeMajor69 w := by rw [decodeWord, h]; rfl

theorem major6A {w : Nat} (h : bits w 31 25 = 0x6A) : decodeWord w = decodeMajor6A w := by rw [decodeWord, h]; rfl

theorem major6B {w : Nat} (h : bits w 31 25 = 0x6B) : decodeWord w = decodeMajor6B w := by rw [decodeWord, h]; rfl

theorem major6C {w : Nat} (h : bits w 31 25 = 0x6C) : decodeWord w = decodeMajor6C w := by rw [decodeWord, h]; rfl

theorem major6D {w : Nat} (h : bits w 31 25 = 0x6D) : decodeWord w = decodeMajor6D w := by rw [decodeWord, h]; rfl

theorem major6E {w : Nat} (h : bits w 31 25 = 0x6E) : decodeWord w = decodeMajor6E w := by rw [decodeWord, h]; rfl

theorem major6F {w : Nat} (h : bits w 31 25 = 0x6F) : decodeWord w = decodeMajor6F w := by rw [decodeWord, h]; rfl

theorem major70 {w : Nat} (h : bits w 31 25 = 0x70) : decodeWord w = decodeMajor70 w := by rw [decodeWord, h]; rfl

theorem major71 {w : Nat} (h : bits w 31 25 = 0x71) : decodeWord w = decodeMajor71 w := by rw [decodeWord, h]; rfl

theorem major72 {w : Nat} (h : bits w 31 25 = 0x72) : decodeWord w = decodeMajor72 w := by rw [decodeWord, h]; rfl

theorem major73 {w : Nat} (h : bits w 31 25 = 0x73) : decodeWord w = decodeMajor73 w := by rw [decodeWord, h]; rfl

end Sys2Proof.Laws

namespace Sys2Proof.Laws.Encoding

-- One proof at a time: many at once ask for more threads than the checks allow.
set_option Elab.async false

/-- A well-formed instruction reads back from its words. Events have none. -/
def Statement (i : Instr) : Prop := i.wf = true → i.hasWord = true → ∀ rest, decode (encode i ++ rest) = .ok (i, rest)

theorem add (d : Fin 32) (a : Fin 32) (b : Fin 32) : Statement (.add d a b) := by
  intro _ _
  suffices key : ∀ w, w = 0 + d.val * 1048576 + a.val * 32768 + b.val * 1024 → decodes w (.add d a b) none from decode_of rfl rfl (key _ rfl)
  intro w h
  have hfit : fits [(10, 0), (5, b.val), (5, a.val), (5, d.val), (7, 0x00)] := ⟨by decide, b.isLt, a.isLt, d.isLt, by decide, trivial⟩
  have hpack := h.trans (show _ = pack _ by simp only [pack] <;> omega : _ = pack [(10, 0), (5, b.val), (5, a.val), (5, d.val), (7, 0x00)])
  have h9_0 : bits w 9 0 = 0 := field_of hpack hfit 0
  have h14_10 : bits w 14 10 = b.val := field_of hpack hfit 1
  have h19_15 : bits w 19 15 = a.val := field_of hpack hfit 2
  have h24_20 : bits w 24 20 = d.val := field_of hpack hfit 3
  have h31_25 : bits w 31 25 = 0x00 := field_of hpack hfit 4
  refine ⟨hpack ▸ pack_lt _ hfit, by rw [h31_25]; rfl, ?_⟩
  change decodeWord w = _
  rw [major00 h31_25, decodeMajor00, if_pos h9_0]
  rw [fin_eq d h24_20, fin_eq a h19_15, fin_eq b h14_10]

theorem sub (d : Fin 32) (a : Fin 32) (b : Fin 32) : Statement (.sub d a b) := by
  intro _ _
  suffices key : ∀ w, w = 1 + d.val * 1048576 + a.val * 32768 + b.val * 1024 → decodes w (.sub d a b) none from decode_of rfl rfl (key _ rfl)
  intro w h
  have hfit : fits [(10, 1), (5, b.val), (5, a.val), (5, d.val), (7, 0x00)] := ⟨by decide, b.isLt, a.isLt, d.isLt, by decide, trivial⟩
  have hpack := h.trans (show _ = pack _ by simp only [pack] <;> omega : _ = pack [(10, 1), (5, b.val), (5, a.val), (5, d.val), (7, 0x00)])
  have h9_0 : bits w 9 0 = 1 := field_of hpack hfit 0
  have h14_10 : bits w 14 10 = b.val := field_of hpack hfit 1
  have h19_15 : bits w 19 15 = a.val := field_of hpack hfit 2
  have h24_20 : bits w 24 20 = d.val := field_of hpack hfit 3
  have h31_25 : bits w 31 25 = 0x00 := field_of hpack hfit 4
  refine ⟨hpack ▸ pack_lt _ hfit, by rw [h31_25]; rfl, ?_⟩
  change decodeWord w = _
  rw [major00 h31_25, decodeMajor00, if_neg (by rw [h9_0]; decide), if_pos h9_0]
  rw [fin_eq d h24_20, fin_eq a h19_15, fin_eq b h14_10]

theorem and (d : Fin 32) (a : Fin 32) (b : Fin 32) : Statement (.and d a b) := by
  intro _ _
  suffices key : ∀ w, w = 2 + d.val * 1048576 + a.val * 32768 + b.val * 1024 → decodes w (.and d a b) none from decode_of rfl rfl (key _ rfl)
  intro w h
  have hfit : fits [(10, 2), (5, b.val), (5, a.val), (5, d.val), (7, 0x00)] := ⟨by decide, b.isLt, a.isLt, d.isLt, by decide, trivial⟩
  have hpack := h.trans (show _ = pack _ by simp only [pack] <;> omega : _ = pack [(10, 2), (5, b.val), (5, a.val), (5, d.val), (7, 0x00)])
  have h9_0 : bits w 9 0 = 2 := field_of hpack hfit 0
  have h14_10 : bits w 14 10 = b.val := field_of hpack hfit 1
  have h19_15 : bits w 19 15 = a.val := field_of hpack hfit 2
  have h24_20 : bits w 24 20 = d.val := field_of hpack hfit 3
  have h31_25 : bits w 31 25 = 0x00 := field_of hpack hfit 4
  refine ⟨hpack ▸ pack_lt _ hfit, by rw [h31_25]; rfl, ?_⟩
  change decodeWord w = _
  rw [major00 h31_25, decodeMajor00, if_neg (by rw [h9_0]; decide), if_neg (by rw [h9_0]; decide), if_pos h9_0]
  rw [fin_eq d h24_20, fin_eq a h19_15, fin_eq b h14_10]

theorem or (d : Fin 32) (a : Fin 32) (b : Fin 32) : Statement (.or d a b) := by
  intro _ _
  suffices key : ∀ w, w = 3 + d.val * 1048576 + a.val * 32768 + b.val * 1024 → decodes w (.or d a b) none from decode_of rfl rfl (key _ rfl)
  intro w h
  have hfit : fits [(10, 3), (5, b.val), (5, a.val), (5, d.val), (7, 0x00)] := ⟨by decide, b.isLt, a.isLt, d.isLt, by decide, trivial⟩
  have hpack := h.trans (show _ = pack _ by simp only [pack] <;> omega : _ = pack [(10, 3), (5, b.val), (5, a.val), (5, d.val), (7, 0x00)])
  have h9_0 : bits w 9 0 = 3 := field_of hpack hfit 0
  have h14_10 : bits w 14 10 = b.val := field_of hpack hfit 1
  have h19_15 : bits w 19 15 = a.val := field_of hpack hfit 2
  have h24_20 : bits w 24 20 = d.val := field_of hpack hfit 3
  have h31_25 : bits w 31 25 = 0x00 := field_of hpack hfit 4
  refine ⟨hpack ▸ pack_lt _ hfit, by rw [h31_25]; rfl, ?_⟩
  change decodeWord w = _
  rw [major00 h31_25, decodeMajor00, if_neg (by rw [h9_0]; decide), if_neg (by rw [h9_0]; decide), if_neg (by rw [h9_0]; decide), if_pos h9_0]
  rw [fin_eq d h24_20, fin_eq a h19_15, fin_eq b h14_10]

theorem xor (d : Fin 32) (a : Fin 32) (b : Fin 32) : Statement (.xor d a b) := by
  intro _ _
  suffices key : ∀ w, w = 4 + d.val * 1048576 + a.val * 32768 + b.val * 1024 → decodes w (.xor d a b) none from decode_of rfl rfl (key _ rfl)
  intro w h
  have hfit : fits [(10, 4), (5, b.val), (5, a.val), (5, d.val), (7, 0x00)] := ⟨by decide, b.isLt, a.isLt, d.isLt, by decide, trivial⟩
  have hpack := h.trans (show _ = pack _ by simp only [pack] <;> omega : _ = pack [(10, 4), (5, b.val), (5, a.val), (5, d.val), (7, 0x00)])
  have h9_0 : bits w 9 0 = 4 := field_of hpack hfit 0
  have h14_10 : bits w 14 10 = b.val := field_of hpack hfit 1
  have h19_15 : bits w 19 15 = a.val := field_of hpack hfit 2
  have h24_20 : bits w 24 20 = d.val := field_of hpack hfit 3
  have h31_25 : bits w 31 25 = 0x00 := field_of hpack hfit 4
  refine ⟨hpack ▸ pack_lt _ hfit, by rw [h31_25]; rfl, ?_⟩
  change decodeWord w = _
  rw [major00 h31_25, decodeMajor00, if_neg (by rw [h9_0]; decide), if_neg (by rw [h9_0]; decide), if_neg (by rw [h9_0]; decide), if_neg (by rw [h9_0]; decide), if_pos h9_0]
  rw [fin_eq d h24_20, fin_eq a h19_15, fin_eq b h14_10]

theorem andn (d : Fin 32) (a : Fin 32) (b : Fin 32) : Statement (.andn d a b) := by
  intro _ _
  suffices key : ∀ w, w = 5 + d.val * 1048576 + a.val * 32768 + b.val * 1024 → decodes w (.andn d a b) none from decode_of rfl rfl (key _ rfl)
  intro w h
  have hfit : fits [(10, 5), (5, b.val), (5, a.val), (5, d.val), (7, 0x00)] := ⟨by decide, b.isLt, a.isLt, d.isLt, by decide, trivial⟩
  have hpack := h.trans (show _ = pack _ by simp only [pack] <;> omega : _ = pack [(10, 5), (5, b.val), (5, a.val), (5, d.val), (7, 0x00)])
  have h9_0 : bits w 9 0 = 5 := field_of hpack hfit 0
  have h14_10 : bits w 14 10 = b.val := field_of hpack hfit 1
  have h19_15 : bits w 19 15 = a.val := field_of hpack hfit 2
  have h24_20 : bits w 24 20 = d.val := field_of hpack hfit 3
  have h31_25 : bits w 31 25 = 0x00 := field_of hpack hfit 4
  refine ⟨hpack ▸ pack_lt _ hfit, by rw [h31_25]; rfl, ?_⟩
  change decodeWord w = _
  rw [major00 h31_25, decodeMajor00, if_neg (by rw [h9_0]; decide), if_neg (by rw [h9_0]; decide), if_neg (by rw [h9_0]; decide), if_neg (by rw [h9_0]; decide), if_neg (by rw [h9_0]; decide), if_pos h9_0]
  rw [fin_eq d h24_20, fin_eq a h19_15, fin_eq b h14_10]

theorem shl (d : Fin 32) (a : Fin 32) (b : Fin 32) : Statement (.shl d a b) := by
  intro _ _
  suffices key : ∀ w, w = 6 + d.val * 1048576 + a.val * 32768 + b.val * 1024 → decodes w (.shl d a b) none from decode_of rfl rfl (key _ rfl)
  intro w h
  have hfit : fits [(10, 6), (5, b.val), (5, a.val), (5, d.val), (7, 0x00)] := ⟨by decide, b.isLt, a.isLt, d.isLt, by decide, trivial⟩
  have hpack := h.trans (show _ = pack _ by simp only [pack] <;> omega : _ = pack [(10, 6), (5, b.val), (5, a.val), (5, d.val), (7, 0x00)])
  have h9_0 : bits w 9 0 = 6 := field_of hpack hfit 0
  have h14_10 : bits w 14 10 = b.val := field_of hpack hfit 1
  have h19_15 : bits w 19 15 = a.val := field_of hpack hfit 2
  have h24_20 : bits w 24 20 = d.val := field_of hpack hfit 3
  have h31_25 : bits w 31 25 = 0x00 := field_of hpack hfit 4
  refine ⟨hpack ▸ pack_lt _ hfit, by rw [h31_25]; rfl, ?_⟩
  change decodeWord w = _
  rw [major00 h31_25, decodeMajor00, if_neg (by rw [h9_0]; decide), if_neg (by rw [h9_0]; decide), if_neg (by rw [h9_0]; decide), if_neg (by rw [h9_0]; decide), if_neg (by rw [h9_0]; decide), if_neg (by rw [h9_0]; decide), if_pos h9_0]
  rw [fin_eq d h24_20, fin_eq a h19_15, fin_eq b h14_10]

theorem shr (d : Fin 32) (a : Fin 32) (b : Fin 32) : Statement (.shr d a b) := by
  intro _ _
  suffices key : ∀ w, w = 7 + d.val * 1048576 + a.val * 32768 + b.val * 1024 → decodes w (.shr d a b) none from decode_of rfl rfl (key _ rfl)
  intro w h
  have hfit : fits [(10, 7), (5, b.val), (5, a.val), (5, d.val), (7, 0x00)] := ⟨by decide, b.isLt, a.isLt, d.isLt, by decide, trivial⟩
  have hpack := h.trans (show _ = pack _ by simp only [pack] <;> omega : _ = pack [(10, 7), (5, b.val), (5, a.val), (5, d.val), (7, 0x00)])
  have h9_0 : bits w 9 0 = 7 := field_of hpack hfit 0
  have h14_10 : bits w 14 10 = b.val := field_of hpack hfit 1
  have h19_15 : bits w 19 15 = a.val := field_of hpack hfit 2
  have h24_20 : bits w 24 20 = d.val := field_of hpack hfit 3
  have h31_25 : bits w 31 25 = 0x00 := field_of hpack hfit 4
  refine ⟨hpack ▸ pack_lt _ hfit, by rw [h31_25]; rfl, ?_⟩
  change decodeWord w = _
  rw [major00 h31_25, decodeMajor00, if_neg (by rw [h9_0]; decide), if_neg (by rw [h9_0]; decide), if_neg (by rw [h9_0]; decide), if_neg (by rw [h9_0]; decide), if_neg (by rw [h9_0]; decide), if_neg (by rw [h9_0]; decide), if_neg (by rw [h9_0]; decide), if_pos h9_0]
  rw [fin_eq d h24_20, fin_eq a h19_15, fin_eq b h14_10]

theorem sra (d : Fin 32) (a : Fin 32) (b : Fin 32) : Statement (.sra d a b) := by
  intro _ _
  suffices key : ∀ w, w = 8 + d.val * 1048576 + a.val * 32768 + b.val * 1024 → decodes w (.sra d a b) none from decode_of rfl rfl (key _ rfl)
  intro w h
  have hfit : fits [(10, 8), (5, b.val), (5, a.val), (5, d.val), (7, 0x00)] := ⟨by decide, b.isLt, a.isLt, d.isLt, by decide, trivial⟩
  have hpack := h.trans (show _ = pack _ by simp only [pack] <;> omega : _ = pack [(10, 8), (5, b.val), (5, a.val), (5, d.val), (7, 0x00)])
  have h9_0 : bits w 9 0 = 8 := field_of hpack hfit 0
  have h14_10 : bits w 14 10 = b.val := field_of hpack hfit 1
  have h19_15 : bits w 19 15 = a.val := field_of hpack hfit 2
  have h24_20 : bits w 24 20 = d.val := field_of hpack hfit 3
  have h31_25 : bits w 31 25 = 0x00 := field_of hpack hfit 4
  refine ⟨hpack ▸ pack_lt _ hfit, by rw [h31_25]; rfl, ?_⟩
  change decodeWord w = _
  rw [major00 h31_25, decodeMajor00, if_neg (by rw [h9_0]; decide), if_neg (by rw [h9_0]; decide), if_neg (by rw [h9_0]; decide), if_neg (by rw [h9_0]; decide), if_neg (by rw [h9_0]; decide), if_neg (by rw [h9_0]; decide), if_neg (by rw [h9_0]; decide), if_neg (by rw [h9_0]; decide), if_pos h9_0]
  rw [fin_eq d h24_20, fin_eq a h19_15, fin_eq b h14_10]

theorem slt (d : Fin 32) (a : Fin 32) (b : Fin 32) : Statement (.slt d a b) := by
  intro _ _
  suffices key : ∀ w, w = 9 + d.val * 1048576 + a.val * 32768 + b.val * 1024 → decodes w (.slt d a b) none from decode_of rfl rfl (key _ rfl)
  intro w h
  have hfit : fits [(10, 9), (5, b.val), (5, a.val), (5, d.val), (7, 0x00)] := ⟨by decide, b.isLt, a.isLt, d.isLt, by decide, trivial⟩
  have hpack := h.trans (show _ = pack _ by simp only [pack] <;> omega : _ = pack [(10, 9), (5, b.val), (5, a.val), (5, d.val), (7, 0x00)])
  have h9_0 : bits w 9 0 = 9 := field_of hpack hfit 0
  have h14_10 : bits w 14 10 = b.val := field_of hpack hfit 1
  have h19_15 : bits w 19 15 = a.val := field_of hpack hfit 2
  have h24_20 : bits w 24 20 = d.val := field_of hpack hfit 3
  have h31_25 : bits w 31 25 = 0x00 := field_of hpack hfit 4
  refine ⟨hpack ▸ pack_lt _ hfit, by rw [h31_25]; rfl, ?_⟩
  change decodeWord w = _
  rw [major00 h31_25, decodeMajor00, if_neg (by rw [h9_0]; decide), if_neg (by rw [h9_0]; decide), if_neg (by rw [h9_0]; decide), if_neg (by rw [h9_0]; decide), if_neg (by rw [h9_0]; decide), if_neg (by rw [h9_0]; decide), if_neg (by rw [h9_0]; decide), if_neg (by rw [h9_0]; decide), if_neg (by rw [h9_0]; decide), if_pos h9_0]
  rw [fin_eq d h24_20, fin_eq a h19_15, fin_eq b h14_10]

theorem sltu (d : Fin 32) (a : Fin 32) (b : Fin 32) : Statement (.sltu d a b) := by
  intro _ _
  suffices key : ∀ w, w = 10 + d.val * 1048576 + a.val * 32768 + b.val * 1024 → decodes w (.sltu d a b) none from decode_of rfl rfl (key _ rfl)
  intro w h
  have hfit : fits [(10, 10), (5, b.val), (5, a.val), (5, d.val), (7, 0x00)] := ⟨by decide, b.isLt, a.isLt, d.isLt, by decide, trivial⟩
  have hpack := h.trans (show _ = pack _ by simp only [pack] <;> omega : _ = pack [(10, 10), (5, b.val), (5, a.val), (5, d.val), (7, 0x00)])
  have h9_0 : bits w 9 0 = 10 := field_of hpack hfit 0
  have h14_10 : bits w 14 10 = b.val := field_of hpack hfit 1
  have h19_15 : bits w 19 15 = a.val := field_of hpack hfit 2
  have h24_20 : bits w 24 20 = d.val := field_of hpack hfit 3
  have h31_25 : bits w 31 25 = 0x00 := field_of hpack hfit 4
  refine ⟨hpack ▸ pack_lt _ hfit, by rw [h31_25]; rfl, ?_⟩
  change decodeWord w = _
  rw [major00 h31_25, decodeMajor00, if_neg (by rw [h9_0]; decide), if_neg (by rw [h9_0]; decide), if_neg (by rw [h9_0]; decide), if_neg (by rw [h9_0]; decide), if_neg (by rw [h9_0]; decide), if_neg (by rw [h9_0]; decide), if_neg (by rw [h9_0]; decide), if_neg (by rw [h9_0]; decide), if_neg (by rw [h9_0]; decide), if_neg (by rw [h9_0]; decide), if_pos h9_0]
  rw [fin_eq d h24_20, fin_eq a h19_15, fin_eq b h14_10]

theorem min (d : Fin 32) (a : Fin 32) (b : Fin 32) : Statement (.min d a b) := by
  intro _ _
  suffices key : ∀ w, w = 11 + d.val * 1048576 + a.val * 32768 + b.val * 1024 → decodes w (.min d a b) none from decode_of rfl rfl (key _ rfl)
  intro w h
  have hfit : fits [(10, 11), (5, b.val), (5, a.val), (5, d.val), (7, 0x00)] := ⟨by decide, b.isLt, a.isLt, d.isLt, by decide, trivial⟩
  have hpack := h.trans (show _ = pack _ by simp only [pack] <;> omega : _ = pack [(10, 11), (5, b.val), (5, a.val), (5, d.val), (7, 0x00)])
  have h9_0 : bits w 9 0 = 11 := field_of hpack hfit 0
  have h14_10 : bits w 14 10 = b.val := field_of hpack hfit 1
  have h19_15 : bits w 19 15 = a.val := field_of hpack hfit 2
  have h24_20 : bits w 24 20 = d.val := field_of hpack hfit 3
  have h31_25 : bits w 31 25 = 0x00 := field_of hpack hfit 4
  refine ⟨hpack ▸ pack_lt _ hfit, by rw [h31_25]; rfl, ?_⟩
  change decodeWord w = _
  rw [major00 h31_25, decodeMajor00, if_neg (by rw [h9_0]; decide), if_neg (by rw [h9_0]; decide), if_neg (by rw [h9_0]; decide), if_neg (by rw [h9_0]; decide), if_neg (by rw [h9_0]; decide), if_neg (by rw [h9_0]; decide), if_neg (by rw [h9_0]; decide), if_neg (by rw [h9_0]; decide), if_neg (by rw [h9_0]; decide), if_neg (by rw [h9_0]; decide), if_neg (by rw [h9_0]; decide), if_pos h9_0]
  rw [fin_eq d h24_20, fin_eq a h19_15, fin_eq b h14_10]

theorem minu (d : Fin 32) (a : Fin 32) (b : Fin 32) : Statement (.minu d a b) := by
  intro _ _
  suffices key : ∀ w, w = 12 + d.val * 1048576 + a.val * 32768 + b.val * 1024 → decodes w (.minu d a b) none from decode_of rfl rfl (key _ rfl)
  intro w h
  have hfit : fits [(10, 12), (5, b.val), (5, a.val), (5, d.val), (7, 0x00)] := ⟨by decide, b.isLt, a.isLt, d.isLt, by decide, trivial⟩
  have hpack := h.trans (show _ = pack _ by simp only [pack] <;> omega : _ = pack [(10, 12), (5, b.val), (5, a.val), (5, d.val), (7, 0x00)])
  have h9_0 : bits w 9 0 = 12 := field_of hpack hfit 0
  have h14_10 : bits w 14 10 = b.val := field_of hpack hfit 1
  have h19_15 : bits w 19 15 = a.val := field_of hpack hfit 2
  have h24_20 : bits w 24 20 = d.val := field_of hpack hfit 3
  have h31_25 : bits w 31 25 = 0x00 := field_of hpack hfit 4
  refine ⟨hpack ▸ pack_lt _ hfit, by rw [h31_25]; rfl, ?_⟩
  change decodeWord w = _
  rw [major00 h31_25, decodeMajor00, if_neg (by rw [h9_0]; decide), if_neg (by rw [h9_0]; decide), if_neg (by rw [h9_0]; decide), if_neg (by rw [h9_0]; decide), if_neg (by rw [h9_0]; decide), if_neg (by rw [h9_0]; decide), if_neg (by rw [h9_0]; decide), if_neg (by rw [h9_0]; decide), if_neg (by rw [h9_0]; decide), if_neg (by rw [h9_0]; decide), if_neg (by rw [h9_0]; decide), if_neg (by rw [h9_0]; decide), if_pos h9_0]
  rw [fin_eq d h24_20, fin_eq a h19_15, fin_eq b h14_10]

theorem max (d : Fin 32) (a : Fin 32) (b : Fin 32) : Statement (.max d a b) := by
  intro _ _
  suffices key : ∀ w, w = 13 + d.val * 1048576 + a.val * 32768 + b.val * 1024 → decodes w (.max d a b) none from decode_of rfl rfl (key _ rfl)
  intro w h
  have hfit : fits [(10, 13), (5, b.val), (5, a.val), (5, d.val), (7, 0x00)] := ⟨by decide, b.isLt, a.isLt, d.isLt, by decide, trivial⟩
  have hpack := h.trans (show _ = pack _ by simp only [pack] <;> omega : _ = pack [(10, 13), (5, b.val), (5, a.val), (5, d.val), (7, 0x00)])
  have h9_0 : bits w 9 0 = 13 := field_of hpack hfit 0
  have h14_10 : bits w 14 10 = b.val := field_of hpack hfit 1
  have h19_15 : bits w 19 15 = a.val := field_of hpack hfit 2
  have h24_20 : bits w 24 20 = d.val := field_of hpack hfit 3
  have h31_25 : bits w 31 25 = 0x00 := field_of hpack hfit 4
  refine ⟨hpack ▸ pack_lt _ hfit, by rw [h31_25]; rfl, ?_⟩
  change decodeWord w = _
  rw [major00 h31_25, decodeMajor00, if_neg (by rw [h9_0]; decide), if_neg (by rw [h9_0]; decide), if_neg (by rw [h9_0]; decide), if_neg (by rw [h9_0]; decide), if_neg (by rw [h9_0]; decide), if_neg (by rw [h9_0]; decide), if_neg (by rw [h9_0]; decide), if_neg (by rw [h9_0]; decide), if_neg (by rw [h9_0]; decide), if_neg (by rw [h9_0]; decide), if_neg (by rw [h9_0]; decide), if_neg (by rw [h9_0]; decide), if_neg (by rw [h9_0]; decide), if_pos h9_0]
  rw [fin_eq d h24_20, fin_eq a h19_15, fin_eq b h14_10]

theorem maxu (d : Fin 32) (a : Fin 32) (b : Fin 32) : Statement (.maxu d a b) := by
  intro _ _
  suffices key : ∀ w, w = 14 + d.val * 1048576 + a.val * 32768 + b.val * 1024 → decodes w (.maxu d a b) none from decode_of rfl rfl (key _ rfl)
  intro w h
  have hfit : fits [(10, 14), (5, b.val), (5, a.val), (5, d.val), (7, 0x00)] := ⟨by decide, b.isLt, a.isLt, d.isLt, by decide, trivial⟩
  have hpack := h.trans (show _ = pack _ by simp only [pack] <;> omega : _ = pack [(10, 14), (5, b.val), (5, a.val), (5, d.val), (7, 0x00)])
  have h9_0 : bits w 9 0 = 14 := field_of hpack hfit 0
  have h14_10 : bits w 14 10 = b.val := field_of hpack hfit 1
  have h19_15 : bits w 19 15 = a.val := field_of hpack hfit 2
  have h24_20 : bits w 24 20 = d.val := field_of hpack hfit 3
  have h31_25 : bits w 31 25 = 0x00 := field_of hpack hfit 4
  refine ⟨hpack ▸ pack_lt _ hfit, by rw [h31_25]; rfl, ?_⟩
  change decodeWord w = _
  rw [major00 h31_25, decodeMajor00, if_neg (by rw [h9_0]; decide), if_neg (by rw [h9_0]; decide), if_neg (by rw [h9_0]; decide), if_neg (by rw [h9_0]; decide), if_neg (by rw [h9_0]; decide), if_neg (by rw [h9_0]; decide), if_neg (by rw [h9_0]; decide), if_neg (by rw [h9_0]; decide), if_neg (by rw [h9_0]; decide), if_neg (by rw [h9_0]; decide), if_neg (by rw [h9_0]; decide), if_neg (by rw [h9_0]; decide), if_neg (by rw [h9_0]; decide), if_neg (by rw [h9_0]; decide), if_pos h9_0]
  rw [fin_eq d h24_20, fin_eq a h19_15, fin_eq b h14_10]

theorem mul (d : Fin 32) (a : Fin 32) (b : Fin 32) : Statement (.mul d a b) := by
  intro _ _
  suffices key : ∀ w, w = 16 + d.val * 1048576 + a.val * 32768 + b.val * 1024 → decodes w (.mul d a b) none from decode_of rfl rfl (key _ rfl)
  intro w h
  have hfit : fits [(10, 16), (5, b.val), (5, a.val), (5, d.val), (7, 0x00)] := ⟨by decide, b.isLt, a.isLt, d.isLt, by decide, trivial⟩
  have hpack := h.trans (show _ = pack _ by simp only [pack] <;> omega : _ = pack [(10, 16), (5, b.val), (5, a.val), (5, d.val), (7, 0x00)])
  have h9_0 : bits w 9 0 = 16 := field_of hpack hfit 0
  have h14_10 : bits w 14 10 = b.val := field_of hpack hfit 1
  have h19_15 : bits w 19 15 = a.val := field_of hpack hfit 2
  have h24_20 : bits w 24 20 = d.val := field_of hpack hfit 3
  have h31_25 : bits w 31 25 = 0x00 := field_of hpack hfit 4
  refine ⟨hpack ▸ pack_lt _ hfit, by rw [h31_25]; rfl, ?_⟩
  change decodeWord w = _
  rw [major00 h31_25, decodeMajor00, if_neg (by rw [h9_0]; decide), if_neg (by rw [h9_0]; decide), if_neg (by rw [h9_0]; decide), if_neg (by rw [h9_0]; decide), if_neg (by rw [h9_0]; decide), if_neg (by rw [h9_0]; decide), if_neg (by rw [h9_0]; decide), if_neg (by rw [h9_0]; decide), if_neg (by rw [h9_0]; decide), if_neg (by rw [h9_0]; decide), if_neg (by rw [h9_0]; decide), if_neg (by rw [h9_0]; decide), if_neg (by rw [h9_0]; decide), if_neg (by rw [h9_0]; decide), if_neg (by rw [h9_0]; decide), if_pos h9_0]
  rw [fin_eq d h24_20, fin_eq a h19_15, fin_eq b h14_10]

theorem mulh (d : Fin 32) (a : Fin 32) (b : Fin 32) : Statement (.mulh d a b) := by
  intro _ _
  suffices key : ∀ w, w = 17 + d.val * 1048576 + a.val * 32768 + b.val * 1024 → decodes w (.mulh d a b) none from decode_of rfl rfl (key _ rfl)
  intro w h
  have hfit : fits [(10, 17), (5, b.val), (5, a.val), (5, d.val), (7, 0x00)] := ⟨by decide, b.isLt, a.isLt, d.isLt, by decide, trivial⟩
  have hpack := h.trans (show _ = pack _ by simp only [pack] <;> omega : _ = pack [(10, 17), (5, b.val), (5, a.val), (5, d.val), (7, 0x00)])
  have h9_0 : bits w 9 0 = 17 := field_of hpack hfit 0
  have h14_10 : bits w 14 10 = b.val := field_of hpack hfit 1
  have h19_15 : bits w 19 15 = a.val := field_of hpack hfit 2
  have h24_20 : bits w 24 20 = d.val := field_of hpack hfit 3
  have h31_25 : bits w 31 25 = 0x00 := field_of hpack hfit 4
  refine ⟨hpack ▸ pack_lt _ hfit, by rw [h31_25]; rfl, ?_⟩
  change decodeWord w = _
  rw [major00 h31_25, decodeMajor00, if_neg (by rw [h9_0]; decide), if_neg (by rw [h9_0]; decide), if_neg (by rw [h9_0]; decide), if_neg (by rw [h9_0]; decide), if_neg (by rw [h9_0]; decide), if_neg (by rw [h9_0]; decide), if_neg (by rw [h9_0]; decide), if_neg (by rw [h9_0]; decide), if_neg (by rw [h9_0]; decide), if_neg (by rw [h9_0]; decide), if_neg (by rw [h9_0]; decide), if_neg (by rw [h9_0]; decide), if_neg (by rw [h9_0]; decide), if_neg (by rw [h9_0]; decide), if_neg (by rw [h9_0]; decide), if_neg (by rw [h9_0]; decide), if_pos h9_0]
  rw [fin_eq d h24_20, fin_eq a h19_15, fin_eq b h14_10]

theorem mulhu (d : Fin 32) (a : Fin 32) (b : Fin 32) : Statement (.mulhu d a b) := by
  intro _ _
  suffices key : ∀ w, w = 18 + d.val * 1048576 + a.val * 32768 + b.val * 1024 → decodes w (.mulhu d a b) none from decode_of rfl rfl (key _ rfl)
  intro w h
  have hfit : fits [(10, 18), (5, b.val), (5, a.val), (5, d.val), (7, 0x00)] := ⟨by decide, b.isLt, a.isLt, d.isLt, by decide, trivial⟩
  have hpack := h.trans (show _ = pack _ by simp only [pack] <;> omega : _ = pack [(10, 18), (5, b.val), (5, a.val), (5, d.val), (7, 0x00)])
  have h9_0 : bits w 9 0 = 18 := field_of hpack hfit 0
  have h14_10 : bits w 14 10 = b.val := field_of hpack hfit 1
  have h19_15 : bits w 19 15 = a.val := field_of hpack hfit 2
  have h24_20 : bits w 24 20 = d.val := field_of hpack hfit 3
  have h31_25 : bits w 31 25 = 0x00 := field_of hpack hfit 4
  refine ⟨hpack ▸ pack_lt _ hfit, by rw [h31_25]; rfl, ?_⟩
  change decodeWord w = _
  rw [major00 h31_25, decodeMajor00, if_neg (by rw [h9_0]; decide), if_neg (by rw [h9_0]; decide), if_neg (by rw [h9_0]; decide), if_neg (by rw [h9_0]; decide), if_neg (by rw [h9_0]; decide), if_neg (by rw [h9_0]; decide), if_neg (by rw [h9_0]; decide), if_neg (by rw [h9_0]; decide), if_neg (by rw [h9_0]; decide), if_neg (by rw [h9_0]; decide), if_neg (by rw [h9_0]; decide), if_neg (by rw [h9_0]; decide), if_neg (by rw [h9_0]; decide), if_neg (by rw [h9_0]; decide), if_neg (by rw [h9_0]; decide), if_neg (by rw [h9_0]; decide), if_neg (by rw [h9_0]; decide), if_pos h9_0]
  rw [fin_eq d h24_20, fin_eq a h19_15, fin_eq b h14_10]

theorem div (d : Fin 32) (a : Fin 32) (b : Fin 32) : Statement (.div d a b) := by
  intro _ _
  suffices key : ∀ w, w = 20 + d.val * 1048576 + a.val * 32768 + b.val * 1024 → decodes w (.div d a b) none from decode_of rfl rfl (key _ rfl)
  intro w h
  have hfit : fits [(10, 20), (5, b.val), (5, a.val), (5, d.val), (7, 0x00)] := ⟨by decide, b.isLt, a.isLt, d.isLt, by decide, trivial⟩
  have hpack := h.trans (show _ = pack _ by simp only [pack] <;> omega : _ = pack [(10, 20), (5, b.val), (5, a.val), (5, d.val), (7, 0x00)])
  have h9_0 : bits w 9 0 = 20 := field_of hpack hfit 0
  have h14_10 : bits w 14 10 = b.val := field_of hpack hfit 1
  have h19_15 : bits w 19 15 = a.val := field_of hpack hfit 2
  have h24_20 : bits w 24 20 = d.val := field_of hpack hfit 3
  have h31_25 : bits w 31 25 = 0x00 := field_of hpack hfit 4
  refine ⟨hpack ▸ pack_lt _ hfit, by rw [h31_25]; rfl, ?_⟩
  change decodeWord w = _
  rw [major00 h31_25, decodeMajor00, if_neg (by rw [h9_0]; decide), if_neg (by rw [h9_0]; decide), if_neg (by rw [h9_0]; decide), if_neg (by rw [h9_0]; decide), if_neg (by rw [h9_0]; decide), if_neg (by rw [h9_0]; decide), if_neg (by rw [h9_0]; decide), if_neg (by rw [h9_0]; decide), if_neg (by rw [h9_0]; decide), if_neg (by rw [h9_0]; decide), if_neg (by rw [h9_0]; decide), if_neg (by rw [h9_0]; decide), if_neg (by rw [h9_0]; decide), if_neg (by rw [h9_0]; decide), if_neg (by rw [h9_0]; decide), if_neg (by rw [h9_0]; decide), if_neg (by rw [h9_0]; decide), if_neg (by rw [h9_0]; decide), if_pos h9_0]
  rw [fin_eq d h24_20, fin_eq a h19_15, fin_eq b h14_10]

theorem divu (d : Fin 32) (a : Fin 32) (b : Fin 32) : Statement (.divu d a b) := by
  intro _ _
  suffices key : ∀ w, w = 21 + d.val * 1048576 + a.val * 32768 + b.val * 1024 → decodes w (.divu d a b) none from decode_of rfl rfl (key _ rfl)
  intro w h
  have hfit : fits [(10, 21), (5, b.val), (5, a.val), (5, d.val), (7, 0x00)] := ⟨by decide, b.isLt, a.isLt, d.isLt, by decide, trivial⟩
  have hpack := h.trans (show _ = pack _ by simp only [pack] <;> omega : _ = pack [(10, 21), (5, b.val), (5, a.val), (5, d.val), (7, 0x00)])
  have h9_0 : bits w 9 0 = 21 := field_of hpack hfit 0
  have h14_10 : bits w 14 10 = b.val := field_of hpack hfit 1
  have h19_15 : bits w 19 15 = a.val := field_of hpack hfit 2
  have h24_20 : bits w 24 20 = d.val := field_of hpack hfit 3
  have h31_25 : bits w 31 25 = 0x00 := field_of hpack hfit 4
  refine ⟨hpack ▸ pack_lt _ hfit, by rw [h31_25]; rfl, ?_⟩
  change decodeWord w = _
  rw [major00 h31_25, decodeMajor00, if_neg (by rw [h9_0]; decide), if_neg (by rw [h9_0]; decide), if_neg (by rw [h9_0]; decide), if_neg (by rw [h9_0]; decide), if_neg (by rw [h9_0]; decide), if_neg (by rw [h9_0]; decide), if_neg (by rw [h9_0]; decide), if_neg (by rw [h9_0]; decide), if_neg (by rw [h9_0]; decide), if_neg (by rw [h9_0]; decide), if_neg (by rw [h9_0]; decide), if_neg (by rw [h9_0]; decide), if_neg (by rw [h9_0]; decide), if_neg (by rw [h9_0]; decide), if_neg (by rw [h9_0]; decide), if_neg (by rw [h9_0]; decide), if_neg (by rw [h9_0]; decide), if_neg (by rw [h9_0]; decide), if_neg (by rw [h9_0]; decide), if_pos h9_0]
  rw [fin_eq d h24_20, fin_eq a h19_15, fin_eq b h14_10]

theorem rem (d : Fin 32) (a : Fin 32) (b : Fin 32) : Statement (.rem d a b) := by
  intro _ _
  suffices key : ∀ w, w = 22 + d.val * 1048576 + a.val * 32768 + b.val * 1024 → decodes w (.rem d a b) none from decode_of rfl rfl (key _ rfl)
  intro w h
  have hfit : fits [(10, 22), (5, b.val), (5, a.val), (5, d.val), (7, 0x00)] := ⟨by decide, b.isLt, a.isLt, d.isLt, by decide, trivial⟩
  have hpack := h.trans (show _ = pack _ by simp only [pack] <;> omega : _ = pack [(10, 22), (5, b.val), (5, a.val), (5, d.val), (7, 0x00)])
  have h9_0 : bits w 9 0 = 22 := field_of hpack hfit 0
  have h14_10 : bits w 14 10 = b.val := field_of hpack hfit 1
  have h19_15 : bits w 19 15 = a.val := field_of hpack hfit 2
  have h24_20 : bits w 24 20 = d.val := field_of hpack hfit 3
  have h31_25 : bits w 31 25 = 0x00 := field_of hpack hfit 4
  refine ⟨hpack ▸ pack_lt _ hfit, by rw [h31_25]; rfl, ?_⟩
  change decodeWord w = _
  rw [major00 h31_25, decodeMajor00, if_neg (by rw [h9_0]; decide), if_neg (by rw [h9_0]; decide), if_neg (by rw [h9_0]; decide), if_neg (by rw [h9_0]; decide), if_neg (by rw [h9_0]; decide), if_neg (by rw [h9_0]; decide), if_neg (by rw [h9_0]; decide), if_neg (by rw [h9_0]; decide), if_neg (by rw [h9_0]; decide), if_neg (by rw [h9_0]; decide), if_neg (by rw [h9_0]; decide), if_neg (by rw [h9_0]; decide), if_neg (by rw [h9_0]; decide), if_neg (by rw [h9_0]; decide), if_neg (by rw [h9_0]; decide), if_neg (by rw [h9_0]; decide), if_neg (by rw [h9_0]; decide), if_neg (by rw [h9_0]; decide), if_neg (by rw [h9_0]; decide), if_neg (by rw [h9_0]; decide), if_pos h9_0]
  rw [fin_eq d h24_20, fin_eq a h19_15, fin_eq b h14_10]

theorem remu (d : Fin 32) (a : Fin 32) (b : Fin 32) : Statement (.remu d a b) := by
  intro _ _
  suffices key : ∀ w, w = 23 + d.val * 1048576 + a.val * 32768 + b.val * 1024 → decodes w (.remu d a b) none from decode_of rfl rfl (key _ rfl)
  intro w h
  have hfit : fits [(10, 23), (5, b.val), (5, a.val), (5, d.val), (7, 0x00)] := ⟨by decide, b.isLt, a.isLt, d.isLt, by decide, trivial⟩
  have hpack := h.trans (show _ = pack _ by simp only [pack] <;> omega : _ = pack [(10, 23), (5, b.val), (5, a.val), (5, d.val), (7, 0x00)])
  have h9_0 : bits w 9 0 = 23 := field_of hpack hfit 0
  have h14_10 : bits w 14 10 = b.val := field_of hpack hfit 1
  have h19_15 : bits w 19 15 = a.val := field_of hpack hfit 2
  have h24_20 : bits w 24 20 = d.val := field_of hpack hfit 3
  have h31_25 : bits w 31 25 = 0x00 := field_of hpack hfit 4
  refine ⟨hpack ▸ pack_lt _ hfit, by rw [h31_25]; rfl, ?_⟩
  change decodeWord w = _
  rw [major00 h31_25, decodeMajor00, if_neg (by rw [h9_0]; decide), if_neg (by rw [h9_0]; decide), if_neg (by rw [h9_0]; decide), if_neg (by rw [h9_0]; decide), if_neg (by rw [h9_0]; decide), if_neg (by rw [h9_0]; decide), if_neg (by rw [h9_0]; decide), if_neg (by rw [h9_0]; decide), if_neg (by rw [h9_0]; decide), if_neg (by rw [h9_0]; decide), if_neg (by rw [h9_0]; decide), if_neg (by rw [h9_0]; decide), if_neg (by rw [h9_0]; decide), if_neg (by rw [h9_0]; decide), if_neg (by rw [h9_0]; decide), if_neg (by rw [h9_0]; decide), if_neg (by rw [h9_0]; decide), if_neg (by rw [h9_0]; decide), if_neg (by rw [h9_0]; decide), if_neg (by rw [h9_0]; decide), if_neg (by rw [h9_0]; decide), if_pos h9_0]
  rw [fin_eq d h24_20, fin_eq a h19_15, fin_eq b h14_10]

theorem clz (d : Fin 32) (a : Fin 32) : Statement (.clz d a) := by
  intro _ _
  suffices key : ∀ w, w = 24 + d.val * 1048576 + a.val * 32768 → decodes w (.clz d a) none from decode_of rfl rfl (key _ rfl)
  intro w h
  have hfit : fits [(15, 24), (5, a.val), (5, d.val), (7, 0x00)] := ⟨by decide, a.isLt, d.isLt, by decide, trivial⟩
  have hpack := h.trans (show _ = pack _ by simp only [pack] <;> omega : _ = pack [(15, 24), (5, a.val), (5, d.val), (7, 0x00)])
  have h14_0 : bits w 14 0 = 24 := field_of hpack hfit 0
  have h19_15 : bits w 19 15 = a.val := field_of hpack hfit 1
  have h24_20 : bits w 24 20 = d.val := field_of hpack hfit 2
  have h31_25 : bits w 31 25 = 0x00 := field_of hpack hfit 3
  have := d.isLt
  have := a.isLt
  refine ⟨hpack ▸ pack_lt _ hfit, by rw [h31_25]; rfl, ?_⟩
  change decodeWord w = _
  rw [major00 h31_25, decodeMajor00, if_neg (by simp only [bits]; omega), if_neg (by simp only [bits]; omega), if_neg (by simp only [bits]; omega), if_neg (by simp only [bits]; omega), if_neg (by simp only [bits]; omega), if_neg (by simp only [bits]; omega), if_neg (by simp only [bits]; omega), if_neg (by simp only [bits]; omega), if_neg (by simp only [bits]; omega), if_neg (by simp only [bits]; omega), if_neg (by simp only [bits]; omega), if_neg (by simp only [bits]; omega), if_neg (by simp only [bits]; omega), if_neg (by simp only [bits]; omega), if_neg (by simp only [bits]; omega), if_neg (by simp only [bits]; omega), if_neg (by simp only [bits]; omega), if_neg (by simp only [bits]; omega), if_neg (by simp only [bits]; omega), if_neg (by simp only [bits]; omega), if_neg (by simp only [bits]; omega), if_neg (by simp only [bits]; omega), if_pos h14_0]
  rw [fin_eq d h24_20, fin_eq a h19_15]

theorem popc (d : Fin 32) (a : Fin 32) : Statement (.popc d a) := by
  intro _ _
  suffices key : ∀ w, w = 25 + d.val * 1048576 + a.val * 32768 → decodes w (.popc d a) none from decode_of rfl rfl (key _ rfl)
  intro w h
  have hfit : fits [(15, 25), (5, a.val), (5, d.val), (7, 0x00)] := ⟨by decide, a.isLt, d.isLt, by decide, trivial⟩
  have hpack := h.trans (show _ = pack _ by simp only [pack] <;> omega : _ = pack [(15, 25), (5, a.val), (5, d.val), (7, 0x00)])
  have h14_0 : bits w 14 0 = 25 := field_of hpack hfit 0
  have h19_15 : bits w 19 15 = a.val := field_of hpack hfit 1
  have h24_20 : bits w 24 20 = d.val := field_of hpack hfit 2
  have h31_25 : bits w 31 25 = 0x00 := field_of hpack hfit 3
  have := d.isLt
  have := a.isLt
  refine ⟨hpack ▸ pack_lt _ hfit, by rw [h31_25]; rfl, ?_⟩
  change decodeWord w = _
  rw [major00 h31_25, decodeMajor00, if_neg (by simp only [bits]; omega), if_neg (by simp only [bits]; omega), if_neg (by simp only [bits]; omega), if_neg (by simp only [bits]; omega), if_neg (by simp only [bits]; omega), if_neg (by simp only [bits]; omega), if_neg (by simp only [bits]; omega), if_neg (by simp only [bits]; omega), if_neg (by simp only [bits]; omega), if_neg (by simp only [bits]; omega), if_neg (by simp only [bits]; omega), if_neg (by simp only [bits]; omega), if_neg (by simp only [bits]; omega), if_neg (by simp only [bits]; omega), if_neg (by simp only [bits]; omega), if_neg (by simp only [bits]; omega), if_neg (by simp only [bits]; omega), if_neg (by simp only [bits]; omega), if_neg (by simp only [bits]; omega), if_neg (by simp only [bits]; omega), if_neg (by simp only [bits]; omega), if_neg (by simp only [bits]; omega), if_neg (by rw [h14_0]; decide), if_pos h14_0]
  rw [fin_eq d h24_20, fin_eq a h19_15]

theorem addsh (d : Fin 32) (a : Fin 32) (b : Fin 32) (s : Fin 8) : Statement (.addsh d a b s) := by
  intro _ _
  suffices key : ∀ w, w = 32 + d.val * 1048576 + a.val * 32768 + b.val * 1024 + s.val → decodes w (.addsh d a b s) none from decode_of rfl rfl (key _ rfl)
  intro w h
  have hfit : fits [(3, s.val), (7, 4), (5, b.val), (5, a.val), (5, d.val), (7, 0x00)] := ⟨s.isLt, by decide, b.isLt, a.isLt, d.isLt, by decide, trivial⟩
  have hpack := h.trans (show _ = pack _ by simp only [pack] <;> omega : _ = pack [(3, s.val), (7, 4), (5, b.val), (5, a.val), (5, d.val), (7, 0x00)])
  have h2_0 : bits w 2 0 = s.val := field_of hpack hfit 0
  have h9_3 : bits w 9 3 = 4 := field_of hpack hfit 1
  have h14_10 : bits w 14 10 = b.val := field_of hpack hfit 2
  have h19_15 : bits w 19 15 = a.val := field_of hpack hfit 3
  have h24_20 : bits w 24 20 = d.val := field_of hpack hfit 4
  have h31_25 : bits w 31 25 = 0x00 := field_of hpack hfit 5
  have := d.isLt
  have := a.isLt
  have := b.isLt
  have := s.isLt
  refine ⟨hpack ▸ pack_lt _ hfit, by rw [h31_25]; rfl, ?_⟩
  change decodeWord w = _
  rw [major00 h31_25, decodeMajor00, if_neg (by simp only [bits]; omega), if_neg (by simp only [bits]; omega), if_neg (by simp only [bits]; omega), if_neg (by simp only [bits]; omega), if_neg (by simp only [bits]; omega), if_neg (by simp only [bits]; omega), if_neg (by simp only [bits]; omega), if_neg (by simp only [bits]; omega), if_neg (by simp only [bits]; omega), if_neg (by simp only [bits]; omega), if_neg (by simp only [bits]; omega), if_neg (by simp only [bits]; omega), if_neg (by simp only [bits]; omega), if_neg (by simp only [bits]; omega), if_neg (by simp only [bits]; omega), if_neg (by simp only [bits]; omega), if_neg (by simp only [bits]; omega), if_neg (by simp only [bits]; omega), if_neg (by simp only [bits]; omega), if_neg (by simp only [bits]; omega), if_neg (by simp only [bits]; omega), if_neg (by simp only [bits]; omega), if_neg (by simp only [bits]; omega), if_neg (by simp only [bits]; omega), if_pos h9_3]
  rw [fin_eq d h24_20, fin_eq a h19_15, fin_eq b h14_10, fin_eq s h2_0]

theorem sel (d : Fin 32) (a : Fin 32) (b : Fin 32) (c : Fin 4) : Statement (.sel d a b c) := by
  intro _ _
  suffices key : ∀ w, w = 40 + d.val * 1048576 + a.val * 32768 + b.val * 1024 + c.val → decodes w (.sel d a b c) none from decode_of rfl rfl (key _ rfl)
  intro w h
  have hfit : fits [(2, c.val), (8, 10), (5, b.val), (5, a.val), (5, d.val), (7, 0x00)] := ⟨c.isLt, by decide, b.isLt, a.isLt, d.isLt, by decide, trivial⟩
  have hpack := h.trans (show _ = pack _ by simp only [pack] <;> omega : _ = pack [(2, c.val), (8, 10), (5, b.val), (5, a.val), (5, d.val), (7, 0x00)])
  have h1_0 : bits w 1 0 = c.val := field_of hpack hfit 0
  have h9_2 : bits w 9 2 = 10 := field_of hpack hfit 1
  have h14_10 : bits w 14 10 = b.val := field_of hpack hfit 2
  have h19_15 : bits w 19 15 = a.val := field_of hpack hfit 3
  have h24_20 : bits w 24 20 = d.val := field_of hpack hfit 4
  have h31_25 : bits w 31 25 = 0x00 := field_of hpack hfit 5
  have := d.isLt
  have := a.isLt
  have := b.isLt
  have := c.isLt
  refine ⟨hpack ▸ pack_lt _ hfit, by rw [h31_25]; rfl, ?_⟩
  change decodeWord w = _
  rw [major00 h31_25, decodeMajor00, if_neg (by simp only [bits]; omega), if_neg (by simp only [bits]; omega), if_neg (by simp only [bits]; omega), if_neg (by simp only [bits]; omega), if_neg (by simp only [bits]; omega), if_neg (by simp only [bits]; omega), if_neg (by simp only [bits]; omega), if_neg (by simp only [bits]; omega), if_neg (by simp only [bits]; omega), if_neg (by simp only [bits]; omega), if_neg (by simp only [bits]; omega), if_neg (by simp only [bits]; omega), if_neg (by simp only [bits]; omega), if_neg (by simp only [bits]; omega), if_neg (by simp only [bits]; omega), if_neg (by simp only [bits]; omega), if_neg (by simp only [bits]; omega), if_neg (by simp only [bits]; omega), if_neg (by simp only [bits]; omega), if_neg (by simp only [bits]; omega), if_neg (by simp only [bits]; omega), if_neg (by simp only [bits]; omega), if_neg (by simp only [bits]; omega), if_neg (by simp only [bits]; omega), if_neg (by simp only [bits]; omega), if_pos h9_2]
  rw [fin_eq d h24_20, fin_eq a h19_15, fin_eq b h14_10, fin_eq c h1_0]

theorem addi (d : Fin 32) (a : Fin 32) (i : BitVec 15) : Statement (.addi d a i) := by
  intro _ _
  suffices key : ∀ w, w = 33554432 + d.val * 1048576 + a.val * 32768 + i.toNat → decodes w (.addi d a i) none from decode_of rfl rfl (key _ rfl)
  intro w h
  have hfit : fits [(15, i.toNat), (5, a.val), (5, d.val), (7, 0x01)] := ⟨i.isLt, a.isLt, d.isLt, by decide, trivial⟩
  have hpack := h.trans (show _ = pack _ by simp only [pack] <;> omega : _ = pack [(15, i.toNat), (5, a.val), (5, d.val), (7, 0x01)])
  have h14_0 : bits w 14 0 = i.toNat := field_of hpack hfit 0
  have h19_15 : bits w 19 15 = a.val := field_of hpack hfit 1
  have h24_20 : bits w 24 20 = d.val := field_of hpack hfit 2
  have h31_25 : bits w 31 25 = 0x01 := field_of hpack hfit 3
  refine ⟨hpack ▸ pack_lt _ hfit, by rw [h31_25]; rfl, ?_⟩
  change decodeWord w = _
  rw [major01 h31_25, decodeMajor01]
  rw [fin_eq d h24_20, fin_eq a h19_15, vec_eq i h14_0]

theorem andi (d : Fin 32) (a : Fin 32) (i : BitVec 15) : Statement (.andi d a i) := by
  intro _ _
  suffices key : ∀ w, w = 67108864 + d.val * 1048576 + a.val * 32768 + i.toNat → decodes w (.andi d a i) none from decode_of rfl rfl (key _ rfl)
  intro w h
  have hfit : fits [(15, i.toNat), (5, a.val), (5, d.val), (7, 0x02)] := ⟨i.isLt, a.isLt, d.isLt, by decide, trivial⟩
  have hpack := h.trans (show _ = pack _ by simp only [pack] <;> omega : _ = pack [(15, i.toNat), (5, a.val), (5, d.val), (7, 0x02)])
  have h14_0 : bits w 14 0 = i.toNat := field_of hpack hfit 0
  have h19_15 : bits w 19 15 = a.val := field_of hpack hfit 1
  have h24_20 : bits w 24 20 = d.val := field_of hpack hfit 2
  have h31_25 : bits w 31 25 = 0x02 := field_of hpack hfit 3
  refine ⟨hpack ▸ pack_lt _ hfit, by rw [h31_25]; rfl, ?_⟩
  change decodeWord w = _
  rw [major02 h31_25, decodeMajor02]
  rw [fin_eq d h24_20, fin_eq a h19_15, vec_eq i h14_0]

theorem ori (d : Fin 32) (a : Fin 32) (i : BitVec 15) : Statement (.ori d a i) := by
  intro _ _
  suffices key : ∀ w, w = 100663296 + d.val * 1048576 + a.val * 32768 + i.toNat → decodes w (.ori d a i) none from decode_of rfl rfl (key _ rfl)
  intro w h
  have hfit : fits [(15, i.toNat), (5, a.val), (5, d.val), (7, 0x03)] := ⟨i.isLt, a.isLt, d.isLt, by decide, trivial⟩
  have hpack := h.trans (show _ = pack _ by simp only [pack] <;> omega : _ = pack [(15, i.toNat), (5, a.val), (5, d.val), (7, 0x03)])
  have h14_0 : bits w 14 0 = i.toNat := field_of hpack hfit 0
  have h19_15 : bits w 19 15 = a.val := field_of hpack hfit 1
  have h24_20 : bits w 24 20 = d.val := field_of hpack hfit 2
  have h31_25 : bits w 31 25 = 0x03 := field_of hpack hfit 3
  refine ⟨hpack ▸ pack_lt _ hfit, by rw [h31_25]; rfl, ?_⟩
  change decodeWord w = _
  rw [major03 h31_25, decodeMajor03]
  rw [fin_eq d h24_20, fin_eq a h19_15, vec_eq i h14_0]

theorem xori (d : Fin 32) (a : Fin 32) (i : BitVec 15) : Statement (.xori d a i) := by
  intro _ _
  suffices key : ∀ w, w = 134217728 + d.val * 1048576 + a.val * 32768 + i.toNat → decodes w (.xori d a i) none from decode_of rfl rfl (key _ rfl)
  intro w h
  have hfit : fits [(15, i.toNat), (5, a.val), (5, d.val), (7, 0x04)] := ⟨i.isLt, a.isLt, d.isLt, by decide, trivial⟩
  have hpack := h.trans (show _ = pack _ by simp only [pack] <;> omega : _ = pack [(15, i.toNat), (5, a.val), (5, d.val), (7, 0x04)])
  have h14_0 : bits w 14 0 = i.toNat := field_of hpack hfit 0
  have h19_15 : bits w 19 15 = a.val := field_of hpack hfit 1
  have h24_20 : bits w 24 20 = d.val := field_of hpack hfit 2
  have h31_25 : bits w 31 25 = 0x04 := field_of hpack hfit 3
  refine ⟨hpack ▸ pack_lt _ hfit, by rw [h31_25]; rfl, ?_⟩
  change decodeWord w = _
  rw [major04 h31_25, decodeMajor04]
  rw [fin_eq d h24_20, fin_eq a h19_15, vec_eq i h14_0]

theorem shli (d : Fin 32) (a : Fin 32) (n : Fin 64) : Statement (.shli d a n) := by
  intro _ _
  suffices key : ∀ w, w = 167772160 + d.val * 1048576 + a.val * 32768 + n.val → decodes w (.shli d a n) none from decode_of rfl rfl (key _ rfl)
  intro w h
  have hfit : fits [(6, n.val), (9, 0), (5, a.val), (5, d.val), (7, 0x05)] := ⟨n.isLt, by decide, a.isLt, d.isLt, by decide, trivial⟩
  have hpack := h.trans (show _ = pack _ by simp only [pack] <;> omega : _ = pack [(6, n.val), (9, 0), (5, a.val), (5, d.val), (7, 0x05)])
  have h5_0 : bits w 5 0 = n.val := field_of hpack hfit 0
  have h14_6 : bits w 14 6 = 0 := field_of hpack hfit 1
  have h19_15 : bits w 19 15 = a.val := field_of hpack hfit 2
  have h24_20 : bits w 24 20 = d.val := field_of hpack hfit 3
  have h31_25 : bits w 31 25 = 0x05 := field_of hpack hfit 4
  refine ⟨hpack ▸ pack_lt _ hfit, by rw [h31_25]; rfl, ?_⟩
  change decodeWord w = _
  rw [major05 h31_25, decodeMajor05, if_pos h14_6]
  rw [fin_eq d h24_20, fin_eq a h19_15, fin_eq n h5_0]

theorem shri (d : Fin 32) (a : Fin 32) (n : Fin 64) : Statement (.shri d a n) := by
  intro _ _
  suffices key : ∀ w, w = 167780352 + d.val * 1048576 + a.val * 32768 + n.val → decodes w (.shri d a n) none from decode_of rfl rfl (key _ rfl)
  intro w h
  have hfit : fits [(6, n.val), (9, 128), (5, a.val), (5, d.val), (7, 0x05)] := ⟨n.isLt, by decide, a.isLt, d.isLt, by decide, trivial⟩
  have hpack := h.trans (show _ = pack _ by simp only [pack] <;> omega : _ = pack [(6, n.val), (9, 128), (5, a.val), (5, d.val), (7, 0x05)])
  have h5_0 : bits w 5 0 = n.val := field_of hpack hfit 0
  have h14_6 : bits w 14 6 = 128 := field_of hpack hfit 1
  have h19_15 : bits w 19 15 = a.val := field_of hpack hfit 2
  have h24_20 : bits w 24 20 = d.val := field_of hpack hfit 3
  have h31_25 : bits w 31 25 = 0x05 := field_of hpack hfit 4
  refine ⟨hpack ▸ pack_lt _ hfit, by rw [h31_25]; rfl, ?_⟩
  change decodeWord w = _
  rw [major05 h31_25, decodeMajor05, if_neg (by rw [h14_6]; decide), if_pos h14_6]
  rw [fin_eq d h24_20, fin_eq a h19_15, fin_eq n h5_0]

theorem srai (d : Fin 32) (a : Fin 32) (n : Fin 64) : Statement (.srai d a n) := by
  intro _ _
  suffices key : ∀ w, w = 167788544 + d.val * 1048576 + a.val * 32768 + n.val → decodes w (.srai d a n) none from decode_of rfl rfl (key _ rfl)
  intro w h
  have hfit : fits [(6, n.val), (9, 256), (5, a.val), (5, d.val), (7, 0x05)] := ⟨n.isLt, by decide, a.isLt, d.isLt, by decide, trivial⟩
  have hpack := h.trans (show _ = pack _ by simp only [pack] <;> omega : _ = pack [(6, n.val), (9, 256), (5, a.val), (5, d.val), (7, 0x05)])
  have h5_0 : bits w 5 0 = n.val := field_of hpack hfit 0
  have h14_6 : bits w 14 6 = 256 := field_of hpack hfit 1
  have h19_15 : bits w 19 15 = a.val := field_of hpack hfit 2
  have h24_20 : bits w 24 20 = d.val := field_of hpack hfit 3
  have h31_25 : bits w 31 25 = 0x05 := field_of hpack hfit 4
  refine ⟨hpack ▸ pack_lt _ hfit, by rw [h31_25]; rfl, ?_⟩
  change decodeWord w = _
  rw [major05 h31_25, decodeMajor05, if_neg (by rw [h14_6]; decide), if_neg (by rw [h14_6]; decide), if_pos h14_6]
  rw [fin_eq d h24_20, fin_eq a h19_15, fin_eq n h5_0]

theorem bfx (d : Fin 32) (a : Fin 32) (l : Fin 64) (p : Fin 64) : Statement (.bfx d a l p) := by
  intro _ _
  suffices key : ∀ w, w = 201326592 + d.val * 1048576 + a.val * 32768 + l.val * 64 + p.val → decodes w (.bfx d a l p) none from decode_of rfl rfl (key _ rfl)
  intro w h
  have hfit : fits [(6, p.val), (6, l.val), (3, 0), (5, a.val), (5, d.val), (7, 0x06)] := ⟨p.isLt, l.isLt, by decide, a.isLt, d.isLt, by decide, trivial⟩
  have hpack := h.trans (show _ = pack _ by simp only [pack] <;> omega : _ = pack [(6, p.val), (6, l.val), (3, 0), (5, a.val), (5, d.val), (7, 0x06)])
  have h5_0 : bits w 5 0 = p.val := field_of hpack hfit 0
  have h11_6 : bits w 11 6 = l.val := field_of hpack hfit 1
  have h14_12 : bits w 14 12 = 0 := field_of hpack hfit 2
  have h19_15 : bits w 19 15 = a.val := field_of hpack hfit 3
  have h24_20 : bits w 24 20 = d.val := field_of hpack hfit 4
  have h31_25 : bits w 31 25 = 0x06 := field_of hpack hfit 5
  refine ⟨hpack ▸ pack_lt _ hfit, by rw [h31_25]; rfl, ?_⟩
  change decodeWord w = _
  rw [major06 h31_25, decodeMajor06, if_pos h14_12]
  rw [fin_eq d h24_20, fin_eq a h19_15, fin_eq l h11_6, fin_eq p h5_0]

theorem bfxSx (d : Fin 32) (a : Fin 32) (l : Fin 64) (p : Fin 64) : Statement (.bfxSx d a l p) := by
  intro _ _
  suffices key : ∀ w, w = 201330688 + d.val * 1048576 + a.val * 32768 + l.val * 64 + p.val → decodes w (.bfxSx d a l p) none from decode_of rfl rfl (key _ rfl)
  intro w h
  have hfit : fits [(6, p.val), (6, l.val), (3, 1), (5, a.val), (5, d.val), (7, 0x06)] := ⟨p.isLt, l.isLt, by decide, a.isLt, d.isLt, by decide, trivial⟩
  have hpack := h.trans (show _ = pack _ by simp only [pack] <;> omega : _ = pack [(6, p.val), (6, l.val), (3, 1), (5, a.val), (5, d.val), (7, 0x06)])
  have h5_0 : bits w 5 0 = p.val := field_of hpack hfit 0
  have h11_6 : bits w 11 6 = l.val := field_of hpack hfit 1
  have h14_12 : bits w 14 12 = 1 := field_of hpack hfit 2
  have h19_15 : bits w 19 15 = a.val := field_of hpack hfit 3
  have h24_20 : bits w 24 20 = d.val := field_of hpack hfit 4
  have h31_25 : bits w 31 25 = 0x06 := field_of hpack hfit 5
  refine ⟨hpack ▸ pack_lt _ hfit, by rw [h31_25]; rfl, ?_⟩
  change decodeWord w = _
  rw [major06 h31_25, decodeMajor06, if_neg (by rw [h14_12]; decide), if_pos h14_12]
  rw [fin_eq d h24_20, fin_eq a h19_15, fin_eq l h11_6, fin_eq p h5_0]

theorem bfi (d : Fin 32) (a : Fin 32) (l : Fin 64) (p : Fin 64) : Statement (.bfi d a l p) := by
  intro _ _
  suffices key : ∀ w, w = 234881024 + d.val * 1048576 + a.val * 32768 + l.val * 64 + p.val → decodes w (.bfi d a l p) none from decode_of rfl rfl (key _ rfl)
  intro w h
  have hfit : fits [(6, p.val), (6, l.val), (3, 0), (5, a.val), (5, d.val), (7, 0x07)] := ⟨p.isLt, l.isLt, by decide, a.isLt, d.isLt, by decide, trivial⟩
  have hpack := h.trans (show _ = pack _ by simp only [pack] <;> omega : _ = pack [(6, p.val), (6, l.val), (3, 0), (5, a.val), (5, d.val), (7, 0x07)])
  have h5_0 : bits w 5 0 = p.val := field_of hpack hfit 0
  have h11_6 : bits w 11 6 = l.val := field_of hpack hfit 1
  have h14_12 : bits w 14 12 = 0 := field_of hpack hfit 2
  have h19_15 : bits w 19 15 = a.val := field_of hpack hfit 3
  have h24_20 : bits w 24 20 = d.val := field_of hpack hfit 4
  have h31_25 : bits w 31 25 = 0x07 := field_of hpack hfit 5
  refine ⟨hpack ▸ pack_lt _ hfit, by rw [h31_25]; rfl, ?_⟩
  change decodeWord w = _
  rw [major07 h31_25, decodeMajor07, if_pos h14_12]
  rw [fin_eq d h24_20, fin_eq a h19_15, fin_eq l h11_6, fin_eq p h5_0]

theorem li (d : Fin 32) (i : BitVec 20) : Statement (.li d i) := by
  intro _ _
  suffices key : ∀ w, w = 268435456 + d.val * 1048576 + i.toNat → decodes w (.li d i) none from decode_of rfl rfl (key _ rfl)
  intro w h
  have hfit : fits [(20, i.toNat), (5, d.val), (7, 0x08)] := ⟨i.isLt, d.isLt, by decide, trivial⟩
  have hpack := h.trans (show _ = pack _ by simp only [pack] <;> omega : _ = pack [(20, i.toNat), (5, d.val), (7, 0x08)])
  have h19_0 : bits w 19 0 = i.toNat := field_of hpack hfit 0
  have h24_20 : bits w 24 20 = d.val := field_of hpack hfit 1
  have h31_25 : bits w 31 25 = 0x08 := field_of hpack hfit 2
  refine ⟨hpack ▸ pack_lt _ hfit, by rw [h31_25]; rfl, ?_⟩
  change decodeWord w = _
  rw [major08 h31_25, decodeMajor08]
  rw [fin_eq d h24_20, vec_eq i h19_0]

theorem lih (d : Fin 32) (i : BitVec 20) : Statement (.lih d i) := by
  intro _ _
  suffices key : ∀ w, w = 301989888 + d.val * 1048576 + i.toNat → decodes w (.lih d i) none from decode_of rfl rfl (key _ rfl)
  intro w h
  have hfit : fits [(20, i.toNat), (5, d.val), (7, 0x09)] := ⟨i.isLt, d.isLt, by decide, trivial⟩
  have hpack := h.trans (show _ = pack _ by simp only [pack] <;> omega : _ = pack [(20, i.toNat), (5, d.val), (7, 0x09)])
  have h19_0 : bits w 19 0 = i.toNat := field_of hpack hfit 0
  have h24_20 : bits w 24 20 = d.val := field_of hpack hfit 1
  have h31_25 : bits w 31 25 = 0x09 := field_of hpack hfit 2
  refine ⟨hpack ▸ pack_lt _ hfit, by rw [h31_25]; rfl, ?_⟩
  change decodeWord w = _
  rw [major09 h31_25, decodeMajor09]
  rw [fin_eq d h24_20, vec_eq i h19_0]

theorem cmp (c : Fin 4) (a : Fin 32) (b : Fin 32) (x : CmpCond) : Statement (.cmp c a b x) := by
  intro _ _
  suffices key : ∀ w, w = 335544320 + c.val * 1048576 + a.val * 32768 + b.val * 1024 + x.code → decodes w (.cmp c a b x) none from decode_of rfl rfl (key _ rfl)
  intro w h
  have hfit : fits [(3, x.code), (7, 0), (5, b.val), (5, a.val), (2, c.val), (3, 0), (7, 0x0A)] := ⟨(Nat.lt_of_lt_of_le (CmpCond_code_lt x) (by decide)), by decide, b.isLt, a.isLt, c.isLt, by decide, by decide, trivial⟩
  have hpack := h.trans (show _ = pack _ by simp only [pack] <;> omega : _ = pack [(3, x.code), (7, 0), (5, b.val), (5, a.val), (2, c.val), (3, 0), (7, 0x0A)])
  have h2_0 : bits w 2 0 = x.code := field_of hpack hfit 0
  have h9_3 : bits w 9 3 = 0 := field_of hpack hfit 1
  have h14_10 : bits w 14 10 = b.val := field_of hpack hfit 2
  have h19_15 : bits w 19 15 = a.val := field_of hpack hfit 3
  have h21_20 : bits w 21 20 = c.val := field_of hpack hfit 4
  have h24_22 : bits w 24 22 = 0 := field_of hpack hfit 5
  have h31_25 : bits w 31 25 = 0x0A := field_of hpack hfit 6
  refine ⟨hpack ▸ pack_lt _ hfit, by rw [h31_25]; rfl, ?_⟩
  change decodeWord w = _
  rw [major0A h31_25, decodeMajor0A, if_pos ⟨h24_22, h9_3⟩, h2_0, CmpCond_ofCode x]
  simp only [named]
  rw [fin_eq c h21_20, fin_eq a h19_15, fin_eq b h14_10]

theorem cmpImm (x : CmpCond) (c : Fin 4) (a : Fin 32) (i : BitVec 15) : Statement (.cmpImm x c a i) := by
  intro _ _
  suffices key : ∀ w, w = 369098752 + x.code * 4194304 + c.val * 1048576 + a.val * 32768 + i.toNat → decodes w (.cmpImm x c a i) none from decode_of rfl rfl (key _ rfl)
  intro w h
  have hfit : fits [(15, i.toNat), (5, a.val), (2, c.val), (3, x.code), (7, 0x0B)] := ⟨i.isLt, a.isLt, c.isLt, (Nat.lt_of_lt_of_le (CmpCond_code_lt x) (by decide)), by decide, trivial⟩
  have hpack := h.trans (show _ = pack _ by simp only [pack] <;> omega : _ = pack [(15, i.toNat), (5, a.val), (2, c.val), (3, x.code), (7, 0x0B)])
  have h14_0 : bits w 14 0 = i.toNat := field_of hpack hfit 0
  have h19_15 : bits w 19 15 = a.val := field_of hpack hfit 1
  have h21_20 : bits w 21 20 = c.val := field_of hpack hfit 2
  have h24_22 : bits w 24 22 = x.code := field_of hpack hfit 3
  have h31_25 : bits w 31 25 = 0x0B := field_of hpack hfit 4
  refine ⟨hpack ▸ pack_lt _ hfit, by rw [h31_25]; rfl, ?_⟩
  change decodeWord w = _
  rw [major0B h31_25, decodeMajor0B, h24_22, CmpCond_ofCode x]
  simp only [named]
  rw [fin_eq c h21_20, fin_eq a h19_15, vec_eq i h14_0]

theorem pbr (b : Fin 4) (o : BitVec 23) : Statement (.pbr b o) := by
  intro _ _
  suffices key : ∀ w, w = 402653184 + b.val * 8388608 + o.toNat → decodes w (.pbr b o) none from decode_of rfl rfl (key _ rfl)
  intro w h
  have hfit : fits [(23, o.toNat), (2, b.val), (7, 0x0C)] := ⟨o.isLt, b.isLt, by decide, trivial⟩
  have hpack := h.trans (show _ = pack _ by simp only [pack] <;> omega : _ = pack [(23, o.toNat), (2, b.val), (7, 0x0C)])
  have h22_0 : bits w 22 0 = o.toNat := field_of hpack hfit 0
  have h24_23 : bits w 24 23 = b.val := field_of hpack hfit 1
  have h31_25 : bits w 31 25 = 0x0C := field_of hpack hfit 2
  refine ⟨hpack ▸ pack_lt _ hfit, by rw [h31_25]; rfl, ?_⟩
  change decodeWord w = _
  rw [major0C h31_25, decodeMajor0C]
  rw [fin_eq b h24_23, vec_eq o h22_0]

theorem pbrg (b : Fin 4) (a : Fin 32) : Statement (.pbrg b a) := by
  intro _ _
  suffices key : ∀ w, w = 436207616 + b.val * 1048576 + a.val * 32768 → decodes w (.pbrg b a) none from decode_of rfl rfl (key _ rfl)
  intro w h
  have hfit : fits [(15, 0), (5, a.val), (2, b.val), (3, 0), (7, 0x0D)] := ⟨by decide, a.isLt, b.isLt, by decide, by decide, trivial⟩
  have hpack := h.trans (show _ = pack _ by simp only [pack] <;> omega : _ = pack [(15, 0), (5, a.val), (2, b.val), (3, 0), (7, 0x0D)])
  have h14_0 : bits w 14 0 = 0 := field_of hpack hfit 0
  have h19_15 : bits w 19 15 = a.val := field_of hpack hfit 1
  have h21_20 : bits w 21 20 = b.val := field_of hpack hfit 2
  have h24_22 : bits w 24 22 = 0 := field_of hpack hfit 3
  have h31_25 : bits w 31 25 = 0x0D := field_of hpack hfit 4
  refine ⟨hpack ▸ pack_lt _ hfit, by rw [h31_25]; rfl, ?_⟩
  change decodeWord w = _
  rw [major0D h31_25, decodeMajor0D, if_pos ⟨h24_22, h14_0⟩]
  rw [fin_eq b h21_20, fin_eq a h19_15]

theorem ldZ8 (d : Fin 32) (b : Fin 32) (c : Fin 16) (u : Fin 8) (o : BitVec 8) : Statement (.ldZ8 d b c u o) := by
  intro _ _
  suffices key : ∀ w, w = 536870912 + d.val * 1048576 + b.val * 32768 + c.val * 2048 + u.val * 256 + o.toNat → decodes w (.ldZ8 d b c u o) none from decode_of rfl rfl (key _ rfl)
  intro w h
  have hfit : fits [(8, o.toNat), (3, u.val), (4, c.val), (5, b.val), (5, d.val), (7, 0x10)] := ⟨o.isLt, u.isLt, c.isLt, b.isLt, d.isLt, by decide, trivial⟩
  have hpack := h.trans (show _ = pack _ by simp only [pack] <;> omega : _ = pack [(8, o.toNat), (3, u.val), (4, c.val), (5, b.val), (5, d.val), (7, 0x10)])
  have h7_0 : bits w 7 0 = o.toNat := field_of hpack hfit 0
  have h10_8 : bits w 10 8 = u.val := field_of hpack hfit 1
  have h14_11 : bits w 14 11 = c.val := field_of hpack hfit 2
  have h19_15 : bits w 19 15 = b.val := field_of hpack hfit 3
  have h24_20 : bits w 24 20 = d.val := field_of hpack hfit 4
  have h31_25 : bits w 31 25 = 0x10 := field_of hpack hfit 5
  refine ⟨hpack ▸ pack_lt _ hfit, by rw [h31_25]; rfl, ?_⟩
  change decodeWord w = _
  rw [major10 h31_25, decodeMajor10]
  rw [fin_eq d h24_20, fin_eq b h19_15, fin_eq c h14_11, fin_eq u h10_8, vec_eq o h7_0]

theorem ldZ16 (d : Fin 32) (b : Fin 32) (c : Fin 16) (u : Fin 8) (o : BitVec 8) : Statement (.ldZ16 d b c u o) := by
  intro _ _
  suffices key : ∀ w, w = 570425344 + d.val * 1048576 + b.val * 32768 + c.val * 2048 + u.val * 256 + o.toNat → decodes w (.ldZ16 d b c u o) none from decode_of rfl rfl (key _ rfl)
  intro w h
  have hfit : fits [(8, o.toNat), (3, u.val), (4, c.val), (5, b.val), (5, d.val), (7, 0x11)] := ⟨o.isLt, u.isLt, c.isLt, b.isLt, d.isLt, by decide, trivial⟩
  have hpack := h.trans (show _ = pack _ by simp only [pack] <;> omega : _ = pack [(8, o.toNat), (3, u.val), (4, c.val), (5, b.val), (5, d.val), (7, 0x11)])
  have h7_0 : bits w 7 0 = o.toNat := field_of hpack hfit 0
  have h10_8 : bits w 10 8 = u.val := field_of hpack hfit 1
  have h14_11 : bits w 14 11 = c.val := field_of hpack hfit 2
  have h19_15 : bits w 19 15 = b.val := field_of hpack hfit 3
  have h24_20 : bits w 24 20 = d.val := field_of hpack hfit 4
  have h31_25 : bits w 31 25 = 0x11 := field_of hpack hfit 5
  refine ⟨hpack ▸ pack_lt _ hfit, by rw [h31_25]; rfl, ?_⟩
  change decodeWord w = _
  rw [major11 h31_25, decodeMajor11]
  rw [fin_eq d h24_20, fin_eq b h19_15, fin_eq c h14_11, fin_eq u h10_8, vec_eq o h7_0]

theorem ldZ32 (d : Fin 32) (b : Fin 32) (c : Fin 16) (u : Fin 8) (o : BitVec 8) : Statement (.ldZ32 d b c u o) := by
  intro _ _
  suffices key : ∀ w, w = 603979776 + d.val * 1048576 + b.val * 32768 + c.val * 2048 + u.val * 256 + o.toNat → decodes w (.ldZ32 d b c u o) none from decode_of rfl rfl (key _ rfl)
  intro w h
  have hfit : fits [(8, o.toNat), (3, u.val), (4, c.val), (5, b.val), (5, d.val), (7, 0x12)] := ⟨o.isLt, u.isLt, c.isLt, b.isLt, d.isLt, by decide, trivial⟩
  have hpack := h.trans (show _ = pack _ by simp only [pack] <;> omega : _ = pack [(8, o.toNat), (3, u.val), (4, c.val), (5, b.val), (5, d.val), (7, 0x12)])
  have h7_0 : bits w 7 0 = o.toNat := field_of hpack hfit 0
  have h10_8 : bits w 10 8 = u.val := field_of hpack hfit 1
  have h14_11 : bits w 14 11 = c.val := field_of hpack hfit 2
  have h19_15 : bits w 19 15 = b.val := field_of hpack hfit 3
  have h24_20 : bits w 24 20 = d.val := field_of hpack hfit 4
  have h31_25 : bits w 31 25 = 0x12 := field_of hpack hfit 5
  refine ⟨hpack ▸ pack_lt _ hfit, by rw [h31_25]; rfl, ?_⟩
  change decodeWord w = _
  rw [major12 h31_25, decodeMajor12]
  rw [fin_eq d h24_20, fin_eq b h19_15, fin_eq c h14_11, fin_eq u h10_8, vec_eq o h7_0]

theorem ldZ64 (d : Fin 32) (b : Fin 32) (c : Fin 16) (u : Fin 8) (o : BitVec 8) : Statement (.ldZ64 d b c u o) := by
  intro _ _
  suffices key : ∀ w, w = 637534208 + d.val * 1048576 + b.val * 32768 + c.val * 2048 + u.val * 256 + o.toNat → decodes w (.ldZ64 d b c u o) none from decode_of rfl rfl (key _ rfl)
  intro w h
  have hfit : fits [(8, o.toNat), (3, u.val), (4, c.val), (5, b.val), (5, d.val), (7, 0x13)] := ⟨o.isLt, u.isLt, c.isLt, b.isLt, d.isLt, by decide, trivial⟩
  have hpack := h.trans (show _ = pack _ by simp only [pack] <;> omega : _ = pack [(8, o.toNat), (3, u.val), (4, c.val), (5, b.val), (5, d.val), (7, 0x13)])
  have h7_0 : bits w 7 0 = o.toNat := field_of hpack hfit 0
  have h10_8 : bits w 10 8 = u.val := field_of hpack hfit 1
  have h14_11 : bits w 14 11 = c.val := field_of hpack hfit 2
  have h19_15 : bits w 19 15 = b.val := field_of hpack hfit 3
  have h24_20 : bits w 24 20 = d.val := field_of hpack hfit 4
  have h31_25 : bits w 31 25 = 0x13 := field_of hpack hfit 5
  refine ⟨hpack ▸ pack_lt _ hfit, by rw [h31_25]; rfl, ?_⟩
  change decodeWord w = _
  rw [major13 h31_25, decodeMajor13]
  rw [fin_eq d h24_20, fin_eq b h19_15, fin_eq c h14_11, fin_eq u h10_8, vec_eq o h7_0]

theorem ldS8 (d : Fin 32) (b : Fin 32) (c : Fin 16) (u : Fin 8) (o : BitVec 8) : Statement (.ldS8 d b c u o) := by
  intro _ _
  suffices key : ∀ w, w = 671088640 + d.val * 1048576 + b.val * 32768 + c.val * 2048 + u.val * 256 + o.toNat → decodes w (.ldS8 d b c u o) none from decode_of rfl rfl (key _ rfl)
  intro w h
  have hfit : fits [(8, o.toNat), (3, u.val), (4, c.val), (5, b.val), (5, d.val), (7, 0x14)] := ⟨o.isLt, u.isLt, c.isLt, b.isLt, d.isLt, by decide, trivial⟩
  have hpack := h.trans (show _ = pack _ by simp only [pack] <;> omega : _ = pack [(8, o.toNat), (3, u.val), (4, c.val), (5, b.val), (5, d.val), (7, 0x14)])
  have h7_0 : bits w 7 0 = o.toNat := field_of hpack hfit 0
  have h10_8 : bits w 10 8 = u.val := field_of hpack hfit 1
  have h14_11 : bits w 14 11 = c.val := field_of hpack hfit 2
  have h19_15 : bits w 19 15 = b.val := field_of hpack hfit 3
  have h24_20 : bits w 24 20 = d.val := field_of hpack hfit 4
  have h31_25 : bits w 31 25 = 0x14 := field_of hpack hfit 5
  refine ⟨hpack ▸ pack_lt _ hfit, by rw [h31_25]; rfl, ?_⟩
  change decodeWord w = _
  rw [major14 h31_25, decodeMajor14]
  rw [fin_eq d h24_20, fin_eq b h19_15, fin_eq c h14_11, fin_eq u h10_8, vec_eq o h7_0]

theorem ldS16 (d : Fin 32) (b : Fin 32) (c : Fin 16) (u : Fin 8) (o : BitVec 8) : Statement (.ldS16 d b c u o) := by
  intro _ _
  suffices key : ∀ w, w = 704643072 + d.val * 1048576 + b.val * 32768 + c.val * 2048 + u.val * 256 + o.toNat → decodes w (.ldS16 d b c u o) none from decode_of rfl rfl (key _ rfl)
  intro w h
  have hfit : fits [(8, o.toNat), (3, u.val), (4, c.val), (5, b.val), (5, d.val), (7, 0x15)] := ⟨o.isLt, u.isLt, c.isLt, b.isLt, d.isLt, by decide, trivial⟩
  have hpack := h.trans (show _ = pack _ by simp only [pack] <;> omega : _ = pack [(8, o.toNat), (3, u.val), (4, c.val), (5, b.val), (5, d.val), (7, 0x15)])
  have h7_0 : bits w 7 0 = o.toNat := field_of hpack hfit 0
  have h10_8 : bits w 10 8 = u.val := field_of hpack hfit 1
  have h14_11 : bits w 14 11 = c.val := field_of hpack hfit 2
  have h19_15 : bits w 19 15 = b.val := field_of hpack hfit 3
  have h24_20 : bits w 24 20 = d.val := field_of hpack hfit 4
  have h31_25 : bits w 31 25 = 0x15 := field_of hpack hfit 5
  refine ⟨hpack ▸ pack_lt _ hfit, by rw [h31_25]; rfl, ?_⟩
  change decodeWord w = _
  rw [major15 h31_25, decodeMajor15]
  rw [fin_eq d h24_20, fin_eq b h19_15, fin_eq c h14_11, fin_eq u h10_8, vec_eq o h7_0]

theorem ldS32 (d : Fin 32) (b : Fin 32) (c : Fin 16) (u : Fin 8) (o : BitVec 8) : Statement (.ldS32 d b c u o) := by
  intro _ _
  suffices key : ∀ w, w = 738197504 + d.val * 1048576 + b.val * 32768 + c.val * 2048 + u.val * 256 + o.toNat → decodes w (.ldS32 d b c u o) none from decode_of rfl rfl (key _ rfl)
  intro w h
  have hfit : fits [(8, o.toNat), (3, u.val), (4, c.val), (5, b.val), (5, d.val), (7, 0x16)] := ⟨o.isLt, u.isLt, c.isLt, b.isLt, d.isLt, by decide, trivial⟩
  have hpack := h.trans (show _ = pack _ by simp only [pack] <;> omega : _ = pack [(8, o.toNat), (3, u.val), (4, c.val), (5, b.val), (5, d.val), (7, 0x16)])
  have h7_0 : bits w 7 0 = o.toNat := field_of hpack hfit 0
  have h10_8 : bits w 10 8 = u.val := field_of hpack hfit 1
  have h14_11 : bits w 14 11 = c.val := field_of hpack hfit 2
  have h19_15 : bits w 19 15 = b.val := field_of hpack hfit 3
  have h24_20 : bits w 24 20 = d.val := field_of hpack hfit 4
  have h31_25 : bits w 31 25 = 0x16 := field_of hpack hfit 5
  refine ⟨hpack ▸ pack_lt _ hfit, by rw [h31_25]; rfl, ?_⟩
  change decodeWord w = _
  rw [major16 h31_25, decodeMajor16]
  rw [fin_eq d h24_20, fin_eq b h19_15, fin_eq c h14_11, fin_eq u h10_8, vec_eq o h7_0]

theorem stZ8 (d : Fin 32) (b : Fin 32) (c : Fin 16) (u : Fin 8) (o : BitVec 8) : Statement (.stZ8 d b c u o) := by
  intro _ _
  suffices key : ∀ w, w = 771751936 + d.val * 1048576 + b.val * 32768 + c.val * 2048 + u.val * 256 + o.toNat → decodes w (.stZ8 d b c u o) none from decode_of rfl rfl (key _ rfl)
  intro w h
  have hfit : fits [(8, o.toNat), (3, u.val), (4, c.val), (5, b.val), (5, d.val), (7, 0x17)] := ⟨o.isLt, u.isLt, c.isLt, b.isLt, d.isLt, by decide, trivial⟩
  have hpack := h.trans (show _ = pack _ by simp only [pack] <;> omega : _ = pack [(8, o.toNat), (3, u.val), (4, c.val), (5, b.val), (5, d.val), (7, 0x17)])
  have h7_0 : bits w 7 0 = o.toNat := field_of hpack hfit 0
  have h10_8 : bits w 10 8 = u.val := field_of hpack hfit 1
  have h14_11 : bits w 14 11 = c.val := field_of hpack hfit 2
  have h19_15 : bits w 19 15 = b.val := field_of hpack hfit 3
  have h24_20 : bits w 24 20 = d.val := field_of hpack hfit 4
  have h31_25 : bits w 31 25 = 0x17 := field_of hpack hfit 5
  refine ⟨hpack ▸ pack_lt _ hfit, by rw [h31_25]; rfl, ?_⟩
  change decodeWord w = _
  rw [major17 h31_25, decodeMajor17]
  rw [fin_eq d h24_20, fin_eq b h19_15, fin_eq c h14_11, fin_eq u h10_8, vec_eq o h7_0]

theorem stZ16 (d : Fin 32) (b : Fin 32) (c : Fin 16) (u : Fin 8) (o : BitVec 8) : Statement (.stZ16 d b c u o) := by
  intro _ _
  suffices key : ∀ w, w = 805306368 + d.val * 1048576 + b.val * 32768 + c.val * 2048 + u.val * 256 + o.toNat → decodes w (.stZ16 d b c u o) none from decode_of rfl rfl (key _ rfl)
  intro w h
  have hfit : fits [(8, o.toNat), (3, u.val), (4, c.val), (5, b.val), (5, d.val), (7, 0x18)] := ⟨o.isLt, u.isLt, c.isLt, b.isLt, d.isLt, by decide, trivial⟩
  have hpack := h.trans (show _ = pack _ by simp only [pack] <;> omega : _ = pack [(8, o.toNat), (3, u.val), (4, c.val), (5, b.val), (5, d.val), (7, 0x18)])
  have h7_0 : bits w 7 0 = o.toNat := field_of hpack hfit 0
  have h10_8 : bits w 10 8 = u.val := field_of hpack hfit 1
  have h14_11 : bits w 14 11 = c.val := field_of hpack hfit 2
  have h19_15 : bits w 19 15 = b.val := field_of hpack hfit 3
  have h24_20 : bits w 24 20 = d.val := field_of hpack hfit 4
  have h31_25 : bits w 31 25 = 0x18 := field_of hpack hfit 5
  refine ⟨hpack ▸ pack_lt _ hfit, by rw [h31_25]; rfl, ?_⟩
  change decodeWord w = _
  rw [major18 h31_25, decodeMajor18]
  rw [fin_eq d h24_20, fin_eq b h19_15, fin_eq c h14_11, fin_eq u h10_8, vec_eq o h7_0]

theorem stZ32 (d : Fin 32) (b : Fin 32) (c : Fin 16) (u : Fin 8) (o : BitVec 8) : Statement (.stZ32 d b c u o) := by
  intro _ _
  suffices key : ∀ w, w = 838860800 + d.val * 1048576 + b.val * 32768 + c.val * 2048 + u.val * 256 + o.toNat → decodes w (.stZ32 d b c u o) none from decode_of rfl rfl (key _ rfl)
  intro w h
  have hfit : fits [(8, o.toNat), (3, u.val), (4, c.val), (5, b.val), (5, d.val), (7, 0x19)] := ⟨o.isLt, u.isLt, c.isLt, b.isLt, d.isLt, by decide, trivial⟩
  have hpack := h.trans (show _ = pack _ by simp only [pack] <;> omega : _ = pack [(8, o.toNat), (3, u.val), (4, c.val), (5, b.val), (5, d.val), (7, 0x19)])
  have h7_0 : bits w 7 0 = o.toNat := field_of hpack hfit 0
  have h10_8 : bits w 10 8 = u.val := field_of hpack hfit 1
  have h14_11 : bits w 14 11 = c.val := field_of hpack hfit 2
  have h19_15 : bits w 19 15 = b.val := field_of hpack hfit 3
  have h24_20 : bits w 24 20 = d.val := field_of hpack hfit 4
  have h31_25 : bits w 31 25 = 0x19 := field_of hpack hfit 5
  refine ⟨hpack ▸ pack_lt _ hfit, by rw [h31_25]; rfl, ?_⟩
  change decodeWord w = _
  rw [major19 h31_25, decodeMajor19]
  rw [fin_eq d h24_20, fin_eq b h19_15, fin_eq c h14_11, fin_eq u h10_8, vec_eq o h7_0]

theorem stZ64 (d : Fin 32) (b : Fin 32) (c : Fin 16) (u : Fin 8) (o : BitVec 8) : Statement (.stZ64 d b c u o) := by
  intro _ _
  suffices key : ∀ w, w = 872415232 + d.val * 1048576 + b.val * 32768 + c.val * 2048 + u.val * 256 + o.toNat → decodes w (.stZ64 d b c u o) none from decode_of rfl rfl (key _ rfl)
  intro w h
  have hfit : fits [(8, o.toNat), (3, u.val), (4, c.val), (5, b.val), (5, d.val), (7, 0x1A)] := ⟨o.isLt, u.isLt, c.isLt, b.isLt, d.isLt, by decide, trivial⟩
  have hpack := h.trans (show _ = pack _ by simp only [pack] <;> omega : _ = pack [(8, o.toNat), (3, u.val), (4, c.val), (5, b.val), (5, d.val), (7, 0x1A)])
  have h7_0 : bits w 7 0 = o.toNat := field_of hpack hfit 0
  have h10_8 : bits w 10 8 = u.val := field_of hpack hfit 1
  have h14_11 : bits w 14 11 = c.val := field_of hpack hfit 2
  have h19_15 : bits w 19 15 = b.val := field_of hpack hfit 3
  have h24_20 : bits w 24 20 = d.val := field_of hpack hfit 4
  have h31_25 : bits w 31 25 = 0x1A := field_of hpack hfit 5
  refine ⟨hpack ▸ pack_lt _ hfit, by rw [h31_25]; rfl, ?_⟩
  change decodeWord w = _
  rw [major1A h31_25, decodeMajor1A]
  rw [fin_eq d h24_20, fin_eq b h19_15, fin_eq c h14_11, fin_eq u h10_8, vec_eq o h7_0]

theorem vld (m : Fin 32) (b : Fin 32) (c : Fin 16) (u : Fin 8) (o : BitVec 8) : Statement (.vld m b c u o) := by
  intro _ _
  suffices key : ∀ w, w = 905969664 + m.val * 1048576 + b.val * 32768 + c.val * 2048 + u.val * 256 + o.toNat → decodes w (.vld m b c u o) none from decode_of rfl rfl (key _ rfl)
  intro w h
  have hfit : fits [(8, o.toNat), (3, u.val), (4, c.val), (5, b.val), (5, m.val), (7, 0x1B)] := ⟨o.isLt, u.isLt, c.isLt, b.isLt, m.isLt, by decide, trivial⟩
  have hpack := h.trans (show _ = pack _ by simp only [pack] <;> omega : _ = pack [(8, o.toNat), (3, u.val), (4, c.val), (5, b.val), (5, m.val), (7, 0x1B)])
  have h7_0 : bits w 7 0 = o.toNat := field_of hpack hfit 0
  have h10_8 : bits w 10 8 = u.val := field_of hpack hfit 1
  have h14_11 : bits w 14 11 = c.val := field_of hpack hfit 2
  have h19_15 : bits w 19 15 = b.val := field_of hpack hfit 3
  have h24_20 : bits w 24 20 = m.val := field_of hpack hfit 4
  have h31_25 : bits w 31 25 = 0x1B := field_of hpack hfit 5
  refine ⟨hpack ▸ pack_lt _ hfit, by rw [h31_25]; rfl, ?_⟩
  change decodeWord w = _
  rw [major1B h31_25, decodeMajor1B]
  rw [fin_eq m h24_20, fin_eq b h19_15, fin_eq c h14_11, fin_eq u h10_8, vec_eq o h7_0]

theorem vst (m : Fin 32) (b : Fin 32) (c : Fin 16) (u : Fin 8) (o : BitVec 8) : Statement (.vst m b c u o) := by
  intro _ _
  suffices key : ∀ w, w = 939524096 + m.val * 1048576 + b.val * 32768 + c.val * 2048 + u.val * 256 + o.toNat → decodes w (.vst m b c u o) none from decode_of rfl rfl (key _ rfl)
  intro w h
  have hfit : fits [(8, o.toNat), (3, u.val), (4, c.val), (5, b.val), (5, m.val), (7, 0x1C)] := ⟨o.isLt, u.isLt, c.isLt, b.isLt, m.isLt, by decide, trivial⟩
  have hpack := h.trans (show _ = pack _ by simp only [pack] <;> omega : _ = pack [(8, o.toNat), (3, u.val), (4, c.val), (5, b.val), (5, m.val), (7, 0x1C)])
  have h7_0 : bits w 7 0 = o.toNat := field_of hpack hfit 0
  have h10_8 : bits w 10 8 = u.val := field_of hpack hfit 1
  have h14_11 : bits w 14 11 = c.val := field_of hpack hfit 2
  have h19_15 : bits w 19 15 = b.val := field_of hpack hfit 3
  have h24_20 : bits w 24 20 = m.val := field_of hpack hfit 4
  have h31_25 : bits w 31 25 = 0x1C := field_of hpack hfit 5
  refine ⟨hpack ▸ pack_lt _ hfit, by rw [h31_25]; rfl, ?_⟩
  change decodeWord w = _
  rw [major1C h31_25, decodeMajor1C]
  rw [fin_eq m h24_20, fin_eq b h19_15, fin_eq c h14_11, fin_eq u h10_8, vec_eq o h7_0]

theorem vgather (m : Fin 32) (b : Fin 32) (c : Fin 16) (u : Fin 8) : Statement (.vgather m b c u) := by
  intro _ _
  suffices key : ∀ w, w = 973078528 + m.val * 1048576 + b.val * 32768 + c.val * 2048 + u.val * 256 → decodes w (.vgather m b c u) none from decode_of rfl rfl (key _ rfl)
  intro w h
  have hfit : fits [(8, 0), (3, u.val), (4, c.val), (5, b.val), (5, m.val), (7, 0x1D)] := ⟨by decide, u.isLt, c.isLt, b.isLt, m.isLt, by decide, trivial⟩
  have hpack := h.trans (show _ = pack _ by simp only [pack] <;> omega : _ = pack [(8, 0), (3, u.val), (4, c.val), (5, b.val), (5, m.val), (7, 0x1D)])
  have h7_0 : bits w 7 0 = 0 := field_of hpack hfit 0
  have h10_8 : bits w 10 8 = u.val := field_of hpack hfit 1
  have h14_11 : bits w 14 11 = c.val := field_of hpack hfit 2
  have h19_15 : bits w 19 15 = b.val := field_of hpack hfit 3
  have h24_20 : bits w 24 20 = m.val := field_of hpack hfit 4
  have h31_25 : bits w 31 25 = 0x1D := field_of hpack hfit 5
  refine ⟨hpack ▸ pack_lt _ hfit, by rw [h31_25]; rfl, ?_⟩
  change decodeWord w = _
  rw [major1D h31_25, decodeMajor1D, if_pos h7_0]
  rw [fin_eq m h24_20, fin_eq b h19_15, fin_eq c h14_11, fin_eq u h10_8]

theorem vscatter (m : Fin 32) (b : Fin 32) (c : Fin 16) (u : Fin 8) : Statement (.vscatter m b c u) := by
  intro _ _
  suffices key : ∀ w, w = 1006632960 + m.val * 1048576 + b.val * 32768 + c.val * 2048 + u.val * 256 → decodes w (.vscatter m b c u) none from decode_of rfl rfl (key _ rfl)
  intro w h
  have hfit : fits [(8, 0), (3, u.val), (4, c.val), (5, b.val), (5, m.val), (7, 0x1E)] := ⟨by decide, u.isLt, c.isLt, b.isLt, m.isLt, by decide, trivial⟩
  have hpack := h.trans (show _ = pack _ by simp only [pack] <;> omega : _ = pack [(8, 0), (3, u.val), (4, c.val), (5, b.val), (5, m.val), (7, 0x1E)])
  have h7_0 : bits w 7 0 = 0 := field_of hpack hfit 0
  have h10_8 : bits w 10 8 = u.val := field_of hpack hfit 1
  have h14_11 : bits w 14 11 = c.val := field_of hpack hfit 2
  have h19_15 : bits w 19 15 = b.val := field_of hpack hfit 3
  have h24_20 : bits w 24 20 = m.val := field_of hpack hfit 4
  have h31_25 : bits w 31 25 = 0x1E := field_of hpack hfit 5
  refine ⟨hpack ▸ pack_lt _ hfit, by rw [h31_25]; rfl, ?_⟩
  change decodeWord w = _
  rw [major1E h31_25, decodeMajor1E, if_pos h7_0]
  rw [fin_eq m h24_20, fin_eq b h19_15, fin_eq c h14_11, fin_eq u h10_8]

theorem vradd (m : Fin 32) (b : Fin 32) (c : Fin 16) (u : Fin 8) (t : ElemType) : Statement (.vradd m b c u t) := by
  intro _ _
  suffices key : ∀ w, w = 1040187392 + m.val * 1048576 + b.val * 32768 + c.val * 2048 + u.val * 256 + t.code → decodes w (.vradd m b c u t) none from decode_of rfl rfl (key _ rfl)
  intro w h
  have hfit : fits [(5, t.code), (3, 0), (3, u.val), (4, c.val), (5, b.val), (5, m.val), (7, 0x1F)] := ⟨(Nat.lt_of_lt_of_le (ElemType_code_lt t) (by decide)), by decide, u.isLt, c.isLt, b.isLt, m.isLt, by decide, trivial⟩
  have hpack := h.trans (show _ = pack _ by simp only [pack] <;> omega : _ = pack [(5, t.code), (3, 0), (3, u.val), (4, c.val), (5, b.val), (5, m.val), (7, 0x1F)])
  have h4_0 : bits w 4 0 = t.code := field_of hpack hfit 0
  have h7_5 : bits w 7 5 = 0 := field_of hpack hfit 1
  have h10_8 : bits w 10 8 = u.val := field_of hpack hfit 2
  have h14_11 : bits w 14 11 = c.val := field_of hpack hfit 3
  have h19_15 : bits w 19 15 = b.val := field_of hpack hfit 4
  have h24_20 : bits w 24 20 = m.val := field_of hpack hfit 5
  have h31_25 : bits w 31 25 = 0x1F := field_of hpack hfit 6
  refine ⟨hpack ▸ pack_lt _ hfit, by rw [h31_25]; rfl, ?_⟩
  change decodeWord w = _
  rw [major1F h31_25, decodeMajor1F, if_pos h7_5, h4_0, ElemType_ofCode t]
  simp only [named]
  rw [fin_eq m h24_20, fin_eq b h19_15, fin_eq c h14_11, fin_eq u h10_8]

theorem amoZ32 (d : Fin 32) (a : Fin 32) (b : Fin 32) (c : Fin 16) (s : Scope) (o : AmoOp) : Statement (.amoZ32 d a b c s o) := by
  intro _ _
  suffices key : ∀ w, w = 1073741824 + d.val * 1048576 + a.val * 32768 + b.val * 1024 + c.val * 64 + s.code * 16 + o.code → decodes w (.amoZ32 d a b c s o) none from decode_of rfl rfl (key _ rfl)
  intro w h
  have hfit : fits [(4, o.code), (2, s.code), (4, c.val), (5, b.val), (5, a.val), (5, d.val), (7, 0x20)] := ⟨(Nat.lt_of_lt_of_le (AmoOp_code_lt o) (by decide)), (Nat.lt_of_lt_of_le (Scope_code_lt s) (by decide)), c.isLt, b.isLt, a.isLt, d.isLt, by decide, trivial⟩
  have hpack := h.trans (show _ = pack _ by simp only [pack] <;> omega : _ = pack [(4, o.code), (2, s.code), (4, c.val), (5, b.val), (5, a.val), (5, d.val), (7, 0x20)])
  have h3_0 : bits w 3 0 = o.code := field_of hpack hfit 0
  have h5_4 : bits w 5 4 = s.code := field_of hpack hfit 1
  have h9_6 : bits w 9 6 = c.val := field_of hpack hfit 2
  have h14_10 : bits w 14 10 = b.val := field_of hpack hfit 3
  have h19_15 : bits w 19 15 = a.val := field_of hpack hfit 4
  have h24_20 : bits w 24 20 = d.val := field_of hpack hfit 5
  have h31_25 : bits w 31 25 = 0x20 := field_of hpack hfit 6
  refine ⟨hpack ▸ pack_lt _ hfit, by rw [h31_25]; rfl, ?_⟩
  change decodeWord w = _
  rw [major20 h31_25, decodeMajor20, h5_4, Scope_ofCode s, h3_0, AmoOp_ofCode o]
  simp only [named]
  rw [fin_eq d h24_20, fin_eq a h19_15, fin_eq b h14_10, fin_eq c h9_6]

theorem amoZ64 (d : Fin 32) (a : Fin 32) (b : Fin 32) (c : Fin 16) (s : Scope) (o : AmoOp) : Statement (.amoZ64 d a b c s o) := by
  intro _ _
  suffices key : ∀ w, w = 1107296256 + d.val * 1048576 + a.val * 32768 + b.val * 1024 + c.val * 64 + s.code * 16 + o.code → decodes w (.amoZ64 d a b c s o) none from decode_of rfl rfl (key _ rfl)
  intro w h
  have hfit : fits [(4, o.code), (2, s.code), (4, c.val), (5, b.val), (5, a.val), (5, d.val), (7, 0x21)] := ⟨(Nat.lt_of_lt_of_le (AmoOp_code_lt o) (by decide)), (Nat.lt_of_lt_of_le (Scope_code_lt s) (by decide)), c.isLt, b.isLt, a.isLt, d.isLt, by decide, trivial⟩
  have hpack := h.trans (show _ = pack _ by simp only [pack] <;> omega : _ = pack [(4, o.code), (2, s.code), (4, c.val), (5, b.val), (5, a.val), (5, d.val), (7, 0x21)])
  have h3_0 : bits w 3 0 = o.code := field_of hpack hfit 0
  have h5_4 : bits w 5 4 = s.code := field_of hpack hfit 1
  have h9_6 : bits w 9 6 = c.val := field_of hpack hfit 2
  have h14_10 : bits w 14 10 = b.val := field_of hpack hfit 3
  have h19_15 : bits w 19 15 = a.val := field_of hpack hfit 4
  have h24_20 : bits w 24 20 = d.val := field_of hpack hfit 5
  have h31_25 : bits w 31 25 = 0x21 := field_of hpack hfit 6
  refine ⟨hpack ▸ pack_lt _ hfit, by rw [h31_25]; rfl, ?_⟩
  change decodeWord w = _
  rw [major21 h31_25, decodeMajor21, h5_4, Scope_ofCode s, h3_0, AmoOp_ofCode o]
  simp only [named]
  rw [fin_eq d h24_20, fin_eq a h19_15, fin_eq b h14_10, fin_eq c h9_6]

theorem casZ32 (d : Fin 32) (a : Fin 32) (b : Fin 32) (c : Fin 16) (s : Scope) : Statement (.casZ32 d a b c s) := by
  intro _ _
  suffices key : ∀ w, w = 1140850688 + d.val * 1048576 + a.val * 32768 + b.val * 1024 + c.val * 64 + s.code * 16 → decodes w (.casZ32 d a b c s) none from decode_of rfl rfl (key _ rfl)
  intro w h
  have hfit : fits [(4, 0), (2, s.code), (4, c.val), (5, b.val), (5, a.val), (5, d.val), (7, 0x22)] := ⟨by decide, (Nat.lt_of_lt_of_le (Scope_code_lt s) (by decide)), c.isLt, b.isLt, a.isLt, d.isLt, by decide, trivial⟩
  have hpack := h.trans (show _ = pack _ by simp only [pack] <;> omega : _ = pack [(4, 0), (2, s.code), (4, c.val), (5, b.val), (5, a.val), (5, d.val), (7, 0x22)])
  have h3_0 : bits w 3 0 = 0 := field_of hpack hfit 0
  have h5_4 : bits w 5 4 = s.code := field_of hpack hfit 1
  have h9_6 : bits w 9 6 = c.val := field_of hpack hfit 2
  have h14_10 : bits w 14 10 = b.val := field_of hpack hfit 3
  have h19_15 : bits w 19 15 = a.val := field_of hpack hfit 4
  have h24_20 : bits w 24 20 = d.val := field_of hpack hfit 5
  have h31_25 : bits w 31 25 = 0x22 := field_of hpack hfit 6
  refine ⟨hpack ▸ pack_lt _ hfit, by rw [h31_25]; rfl, ?_⟩
  change decodeWord w = _
  rw [major22 h31_25, decodeMajor22, if_pos h3_0, h5_4, Scope_ofCode s]
  simp only [named]
  rw [fin_eq d h24_20, fin_eq a h19_15, fin_eq b h14_10, fin_eq c h9_6]

theorem casZ64 (d : Fin 32) (a : Fin 32) (b : Fin 32) (c : Fin 16) (s : Scope) : Statement (.casZ64 d a b c s) := by
  intro _ _
  suffices key : ∀ w, w = 1174405120 + d.val * 1048576 + a.val * 32768 + b.val * 1024 + c.val * 64 + s.code * 16 → decodes w (.casZ64 d a b c s) none from decode_of rfl rfl (key _ rfl)
  intro w h
  have hfit : fits [(4, 0), (2, s.code), (4, c.val), (5, b.val), (5, a.val), (5, d.val), (7, 0x23)] := ⟨by decide, (Nat.lt_of_lt_of_le (Scope_code_lt s) (by decide)), c.isLt, b.isLt, a.isLt, d.isLt, by decide, trivial⟩
  have hpack := h.trans (show _ = pack _ by simp only [pack] <;> omega : _ = pack [(4, 0), (2, s.code), (4, c.val), (5, b.val), (5, a.val), (5, d.val), (7, 0x23)])
  have h3_0 : bits w 3 0 = 0 := field_of hpack hfit 0
  have h5_4 : bits w 5 4 = s.code := field_of hpack hfit 1
  have h9_6 : bits w 9 6 = c.val := field_of hpack hfit 2
  have h14_10 : bits w 14 10 = b.val := field_of hpack hfit 3
  have h19_15 : bits w 19 15 = a.val := field_of hpack hfit 4
  have h24_20 : bits w 24 20 = d.val := field_of hpack hfit 5
  have h31_25 : bits w 31 25 = 0x23 := field_of hpack hfit 6
  refine ⟨hpack ▸ pack_lt _ hfit, by rw [h31_25]; rfl, ?_⟩
  change decodeWord w = _
  rw [major23 h31_25, decodeMajor23, if_pos h3_0, h5_4, Scope_ofCode s]
  simp only [named]
  rw [fin_eq d h24_20, fin_eq a h19_15, fin_eq b h14_10, fin_eq c h9_6]

theorem pin (d : Fin 32) (a : Fin 32) (b : Fin 32) : Statement (.pin d a b) := by
  intro _ _
  suffices key : ∀ w, w = 1207959552 + d.val * 1048576 + a.val * 32768 + b.val * 1024 → decodes w (.pin d a b) none from decode_of rfl rfl (key _ rfl)
  intro w h
  have hfit : fits [(10, 0), (5, b.val), (5, a.val), (5, d.val), (7, 0x24)] := ⟨by decide, b.isLt, a.isLt, d.isLt, by decide, trivial⟩
  have hpack := h.trans (show _ = pack _ by simp only [pack] <;> omega : _ = pack [(10, 0), (5, b.val), (5, a.val), (5, d.val), (7, 0x24)])
  have h9_0 : bits w 9 0 = 0 := field_of hpack hfit 0
  have h14_10 : bits w 14 10 = b.val := field_of hpack hfit 1
  have h19_15 : bits w 19 15 = a.val := field_of hpack hfit 2
  have h24_20 : bits w 24 20 = d.val := field_of hpack hfit 3
  have h31_25 : bits w 31 25 = 0x24 := field_of hpack hfit 4
  refine ⟨hpack ▸ pack_lt _ hfit, by rw [h31_25]; rfl, ?_⟩
  change decodeWord w = _
  rw [major24 h31_25, decodeMajor24, if_pos h9_0]
  rw [fin_eq d h24_20, fin_eq a h19_15, fin_eq b h14_10]

theorem unpin (a : Fin 32) (b : Fin 32) : Statement (.unpin a b) := by
  intro _ _
  suffices key : ∀ w, w = 1207959553 + a.val * 32768 + b.val * 1024 → decodes w (.unpin a b) none from decode_of rfl rfl (key _ rfl)
  intro w h
  have hfit : fits [(10, 1), (5, b.val), (5, a.val), (5, 0), (7, 0x24)] := ⟨by decide, b.isLt, a.isLt, by decide, by decide, trivial⟩
  have hpack := h.trans (show _ = pack _ by simp only [pack] <;> omega : _ = pack [(10, 1), (5, b.val), (5, a.val), (5, 0), (7, 0x24)])
  have h9_0 : bits w 9 0 = 1 := field_of hpack hfit 0
  have h14_10 : bits w 14 10 = b.val := field_of hpack hfit 1
  have h19_15 : bits w 19 15 = a.val := field_of hpack hfit 2
  have h24_20 : bits w 24 20 = 0 := field_of hpack hfit 3
  have h31_25 : bits w 31 25 = 0x24 := field_of hpack hfit 4
  refine ⟨hpack ▸ pack_lt _ hfit, by rw [h31_25]; rfl, ?_⟩
  change decodeWord w = _
  rw [major24 h31_25, decodeMajor24, if_neg (by rw [h9_0]; decide), if_pos ⟨h24_20, h9_0⟩]
  rw [fin_eq a h19_15, fin_eq b h14_10]

theorem cflush (a : Fin 32) (b : Fin 32) (c : Fin 16) : Statement (.cflush a b c) := by
  intro _ _
  suffices key : ∀ w, w = 1207959554 + a.val * 32768 + b.val * 1024 + c.val * 16 → decodes w (.cflush a b c) none from decode_of rfl rfl (key _ rfl)
  intro w h
  have hfit : fits [(4, 2), (4, c.val), (2, 0), (5, b.val), (5, a.val), (5, 0), (7, 0x24)] := ⟨by decide, c.isLt, by decide, b.isLt, a.isLt, by decide, by decide, trivial⟩
  have hpack := h.trans (show _ = pack _ by simp only [pack] <;> omega : _ = pack [(4, 2), (4, c.val), (2, 0), (5, b.val), (5, a.val), (5, 0), (7, 0x24)])
  have h3_0 : bits w 3 0 = 2 := field_of hpack hfit 0
  have h7_4 : bits w 7 4 = c.val := field_of hpack hfit 1
  have h9_8 : bits w 9 8 = 0 := field_of hpack hfit 2
  have h14_10 : bits w 14 10 = b.val := field_of hpack hfit 3
  have h19_15 : bits w 19 15 = a.val := field_of hpack hfit 4
  have h24_20 : bits w 24 20 = 0 := field_of hpack hfit 5
  have h31_25 : bits w 31 25 = 0x24 := field_of hpack hfit 6
  have := a.isLt
  have := b.isLt
  have := c.isLt
  refine ⟨hpack ▸ pack_lt _ hfit, by rw [h31_25]; rfl, ?_⟩
  change decodeWord w = _
  rw [major24 h31_25, decodeMajor24, if_neg (by simp only [bits]; omega), if_neg (by simp only [bits]; omega), if_pos ⟨h24_20, h9_8, h3_0⟩]
  rw [fin_eq a h19_15, fin_eq b h14_10, fin_eq c h7_4]

theorem cinv (a : Fin 32) (b : Fin 32) (c : Fin 16) : Statement (.cinv a b c) := by
  intro _ _
  suffices key : ∀ w, w = 1207959555 + a.val * 32768 + b.val * 1024 + c.val * 16 → decodes w (.cinv a b c) none from decode_of rfl rfl (key _ rfl)
  intro w h
  have hfit : fits [(4, 3), (4, c.val), (2, 0), (5, b.val), (5, a.val), (5, 0), (7, 0x24)] := ⟨by decide, c.isLt, by decide, b.isLt, a.isLt, by decide, by decide, trivial⟩
  have hpack := h.trans (show _ = pack _ by simp only [pack] <;> omega : _ = pack [(4, 3), (4, c.val), (2, 0), (5, b.val), (5, a.val), (5, 0), (7, 0x24)])
  have h3_0 : bits w 3 0 = 3 := field_of hpack hfit 0
  have h7_4 : bits w 7 4 = c.val := field_of hpack hfit 1
  have h9_8 : bits w 9 8 = 0 := field_of hpack hfit 2
  have h14_10 : bits w 14 10 = b.val := field_of hpack hfit 3
  have h19_15 : bits w 19 15 = a.val := field_of hpack hfit 4
  have h24_20 : bits w 24 20 = 0 := field_of hpack hfit 5
  have h31_25 : bits w 31 25 = 0x24 := field_of hpack hfit 6
  have := a.isLt
  have := b.isLt
  have := c.isLt
  refine ⟨hpack ▸ pack_lt _ hfit, by rw [h31_25]; rfl, ?_⟩
  change decodeWord w = _
  rw [major24 h31_25, decodeMajor24, if_neg (by simp only [bits]; omega), if_neg (by simp only [bits]; omega), if_neg (by simp [h3_0]), if_pos ⟨h24_20, h9_8, h3_0⟩]
  rw [fin_eq a h19_15, fin_eq b h14_10, fin_eq c h7_4]

theorem stouch (a : Fin 32) (b : Fin 32) (e : Bool) : Statement (.stouch a b e) := by
  intro _ _
  suffices key : ∀ w, w = 1207959556 + a.val * 32768 + b.val * 1024 + e.toNat * 16 → decodes w (.stouch a b e) none from decode_of rfl rfl (key _ rfl)
  intro w h
  have hfit : fits [(4, 4), (1, e.toNat), (5, 0), (5, b.val), (5, a.val), (5, 0), (7, 0x24)] := ⟨by decide, (Bool.toNat_lt e), by decide, b.isLt, a.isLt, by decide, by decide, trivial⟩
  have hpack := h.trans (show _ = pack _ by simp only [pack] <;> omega : _ = pack [(4, 4), (1, e.toNat), (5, 0), (5, b.val), (5, a.val), (5, 0), (7, 0x24)])
  have h3_0 : bits w 3 0 = 4 := field_of hpack hfit 0
  have h4_4 : bits w 4 4 = e.toNat := field_of hpack hfit 1
  have h9_5 : bits w 9 5 = 0 := field_of hpack hfit 2
  have h14_10 : bits w 14 10 = b.val := field_of hpack hfit 3
  have h19_15 : bits w 19 15 = a.val := field_of hpack hfit 4
  have h24_20 : bits w 24 20 = 0 := field_of hpack hfit 5
  have h31_25 : bits w 31 25 = 0x24 := field_of hpack hfit 6
  have := a.isLt
  have := b.isLt
  have := Bool.toNat_le e
  refine ⟨hpack ▸ pack_lt _ hfit, by rw [h31_25]; rfl, ?_⟩
  change decodeWord w = _
  rw [major24 h31_25, decodeMajor24, if_neg (by simp only [bits]; omega), if_neg (by simp only [bits]; omega), if_neg (by simp [h3_0]), if_neg (by simp [h3_0]), if_pos ⟨h24_20, h9_5, h3_0⟩]
  rw [fin_eq a h19_15, fin_eq b h14_10, flag_eq e h4_4]

theorem swb (a : Fin 32) (b : Fin 32) (c : Fin 16) : Statement (.swb a b c) := by
  intro _ _
  suffices key : ∀ w, w = 1207959557 + a.val * 32768 + b.val * 1024 + c.val * 16 → decodes w (.swb a b c) none from decode_of rfl rfl (key _ rfl)
  intro w h
  have hfit : fits [(4, 5), (4, c.val), (2, 0), (5, b.val), (5, a.val), (5, 0), (7, 0x24)] := ⟨by decide, c.isLt, by decide, b.isLt, a.isLt, by decide, by decide, trivial⟩
  have hpack := h.trans (show _ = pack _ by simp only [pack] <;> omega : _ = pack [(4, 5), (4, c.val), (2, 0), (5, b.val), (5, a.val), (5, 0), (7, 0x24)])
  have h3_0 : bits w 3 0 = 5 := field_of hpack hfit 0
  have h7_4 : bits w 7 4 = c.val := field_of hpack hfit 1
  have h9_8 : bits w 9 8 = 0 := field_of hpack hfit 2
  have h14_10 : bits w 14 10 = b.val := field_of hpack hfit 3
  have h19_15 : bits w 19 15 = a.val := field_of hpack hfit 4
  have h24_20 : bits w 24 20 = 0 := field_of hpack hfit 5
  have h31_25 : bits w 31 25 = 0x24 := field_of hpack hfit 6
  have := a.isLt
  have := b.isLt
  have := c.isLt
  refine ⟨hpack ▸ pack_lt _ hfit, by rw [h31_25]; rfl, ?_⟩
  change decodeWord w = _
  rw [major24 h31_25, decodeMajor24, if_neg (by simp only [bits]; omega), if_neg (by simp only [bits]; omega), if_neg (by simp [h3_0]), if_neg (by simp [h3_0]), if_neg (by simp [h3_0]), if_pos ⟨h24_20, h9_8, h3_0⟩]
  rw [fin_eq a h19_15, fin_eq b h14_10, fin_eq c h7_4]

theorem flagAdd (a : Fin 32) (n : Fin 64) : Statement (.flagAdd a n) := by
  intro _ _
  suffices key : ∀ w, w = 1241513984 + a.val * 32768 + n.val * 16 → decodes w (.flagAdd a n) none from decode_of rfl rfl (key _ rfl)
  intro w h
  have hfit : fits [(4, 0), (6, n.val), (5, 0), (5, a.val), (5, 0), (7, 0x25)] := ⟨by decide, n.isLt, by decide, a.isLt, by decide, by decide, trivial⟩
  have hpack := h.trans (show _ = pack _ by simp only [pack] <;> omega : _ = pack [(4, 0), (6, n.val), (5, 0), (5, a.val), (5, 0), (7, 0x25)])
  have h3_0 : bits w 3 0 = 0 := field_of hpack hfit 0
  have h9_4 : bits w 9 4 = n.val := field_of hpack hfit 1
  have h14_10 : bits w 14 10 = 0 := field_of hpack hfit 2
  have h19_15 : bits w 19 15 = a.val := field_of hpack hfit 3
  have h24_20 : bits w 24 20 = 0 := field_of hpack hfit 4
  have h31_25 : bits w 31 25 = 0x25 := field_of hpack hfit 5
  refine ⟨hpack ▸ pack_lt _ hfit, by rw [h31_25]; rfl, ?_⟩
  change decodeWord w = _
  rw [major25 h31_25, decodeMajor25, if_pos ⟨h24_20, h14_10, h3_0⟩]
  rw [fin_eq a h19_15, fin_eq n h9_4]

theorem flagWait (d : Fin 32) (a : Fin 32) (n : Fin 64) : Statement (.flagWait d a n) := by
  intro _ _
  suffices key : ∀ w, w = 1241513985 + d.val * 1048576 + a.val * 32768 + n.val * 16 → decodes w (.flagWait d a n) none from decode_of rfl rfl (key _ rfl)
  intro w h
  have hfit : fits [(4, 1), (6, n.val), (5, 0), (5, a.val), (5, d.val), (7, 0x25)] := ⟨by decide, n.isLt, by decide, a.isLt, d.isLt, by decide, trivial⟩
  have hpack := h.trans (show _ = pack _ by simp only [pack] <;> omega : _ = pack [(4, 1), (6, n.val), (5, 0), (5, a.val), (5, d.val), (7, 0x25)])
  have h3_0 : bits w 3 0 = 1 := field_of hpack hfit 0
  have h9_4 : bits w 9 4 = n.val := field_of hpack hfit 1
  have h14_10 : bits w 14 10 = 0 := field_of hpack hfit 2
  have h19_15 : bits w 19 15 = a.val := field_of hpack hfit 3
  have h24_20 : bits w 24 20 = d.val := field_of hpack hfit 4
  have h31_25 : bits w 31 25 = 0x25 := field_of hpack hfit 5
  refine ⟨hpack ▸ pack_lt _ hfit, by rw [h31_25]; rfl, ?_⟩
  change decodeWord w = _
  rw [major25 h31_25, decodeMajor25, if_neg (by simp [h3_0]), if_pos ⟨h14_10, h3_0⟩]
  rw [fin_eq d h24_20, fin_eq a h19_15, fin_eq n h9_4]

theorem flagWaitSub (d : Fin 32) (a : Fin 32) (n : Fin 64) : Statement (.flagWaitSub d a n) := by
  intro _ _
  suffices key : ∀ w, w = 1241513986 + d.val * 1048576 + a.val * 32768 + n.val * 16 → decodes w (.flagWaitSub d a n) none from decode_of rfl rfl (key _ rfl)
  intro w h
  have hfit : fits [(4, 2), (6, n.val), (5, 0), (5, a.val), (5, d.val), (7, 0x25)] := ⟨by decide, n.isLt, by decide, a.isLt, d.isLt, by decide, trivial⟩
  have hpack := h.trans (show _ = pack _ by simp only [pack] <;> omega : _ = pack [(4, 2), (6, n.val), (5, 0), (5, a.val), (5, d.val), (7, 0x25)])
  have h3_0 : bits w 3 0 = 2 := field_of hpack hfit 0
  have h9_4 : bits w 9 4 = n.val := field_of hpack hfit 1
  have h14_10 : bits w 14 10 = 0 := field_of hpack hfit 2
  have h19_15 : bits w 19 15 = a.val := field_of hpack hfit 3
  have h24_20 : bits w 24 20 = d.val := field_of hpack hfit 4
  have h31_25 : bits w 31 25 = 0x25 := field_of hpack hfit 5
  refine ⟨hpack ▸ pack_lt _ hfit, by rw [h31_25]; rfl, ?_⟩
  change decodeWord w = _
  rw [major25 h31_25, decodeMajor25, if_neg (by simp [h3_0]), if_neg (by simp [h3_0]), if_pos ⟨h14_10, h3_0⟩]
  rw [fin_eq d h24_20, fin_eq a h19_15, fin_eq n h9_4]

theorem flagRd (d : Fin 32) (n : Fin 64) : Statement (.flagRd d n) := by
  intro _ _
  suffices key : ∀ w, w = 1241513987 + d.val * 1048576 + n.val * 16 → decodes w (.flagRd d n) none from decode_of rfl rfl (key _ rfl)
  intro w h
  have hfit : fits [(4, 3), (6, n.val), (10, 0), (5, d.val), (7, 0x25)] := ⟨by decide, n.isLt, by decide, d.isLt, by decide, trivial⟩
  have hpack := h.trans (show _ = pack _ by simp only [pack] <;> omega : _ = pack [(4, 3), (6, n.val), (10, 0), (5, d.val), (7, 0x25)])
  have h3_0 : bits w 3 0 = 3 := field_of hpack hfit 0
  have h9_4 : bits w 9 4 = n.val := field_of hpack hfit 1
  have h19_10 : bits w 19 10 = 0 := field_of hpack hfit 2
  have h24_20 : bits w 24 20 = d.val := field_of hpack hfit 3
  have h31_25 : bits w 31 25 = 0x25 := field_of hpack hfit 4
  refine ⟨hpack ▸ pack_lt _ hfit, by rw [h31_25]; rfl, ?_⟩
  change decodeWord w = _
  rw [major25 h31_25, decodeMajor25, if_neg (by simp [h3_0]), if_neg (by simp [h3_0]), if_neg (by simp [h3_0]), if_pos ⟨h19_10, h3_0⟩]
  rw [fin_eq d h24_20, fin_eq n h9_4]

theorem wait (t : Fin 32) (c : Fin 32) (s : Fin 32) (l : Fin 32) : Statement (.wait t c s l) := by
  intro _ _
  suffices key : ∀ w, w = 1275068416 + t.val * 32768 + c.val * 1024 + s.val * 32 + l.val → decodes w (.wait t c s l) none from decode_of rfl rfl (key _ rfl)
  intro w h
  have hfit : fits [(5, l.val), (5, s.val), (5, c.val), (5, t.val), (5, 0), (7, 0x26)] := ⟨l.isLt, s.isLt, c.isLt, t.isLt, by decide, by decide, trivial⟩
  have hpack := h.trans (show _ = pack _ by simp only [pack] <;> omega : _ = pack [(5, l.val), (5, s.val), (5, c.val), (5, t.val), (5, 0), (7, 0x26)])
  have h4_0 : bits w 4 0 = l.val := field_of hpack hfit 0
  have h9_5 : bits w 9 5 = s.val := field_of hpack hfit 1
  have h14_10 : bits w 14 10 = c.val := field_of hpack hfit 2
  have h19_15 : bits w 19 15 = t.val := field_of hpack hfit 3
  have h24_20 : bits w 24 20 = 0 := field_of hpack hfit 4
  have h31_25 : bits w 31 25 = 0x26 := field_of hpack hfit 5
  refine ⟨hpack ▸ pack_lt _ hfit, by rw [h31_25]; rfl, ?_⟩
  change decodeWord w = _
  rw [major26 h31_25, decodeMajor26, if_pos h24_20]
  rw [fin_eq t h19_15, fin_eq c h14_10, fin_eq s h9_5, fin_eq l h4_0]

theorem fence (s : Scope) (m : BitVec 16) : Statement (.fence s m) := by
  intro _ _
  suffices key : ∀ w, w = 1308622848 + s.code * 65536 + m.toNat → decodes w (.fence s m) none from decode_of rfl rfl (key _ rfl)
  intro w h
  have hfit : fits [(16, m.toNat), (2, s.code), (7, 0), (7, 0x27)] := ⟨m.isLt, (Nat.lt_of_lt_of_le (Scope_code_lt s) (by decide)), by decide, by decide, trivial⟩
  have hpack := h.trans (show _ = pack _ by simp only [pack] <;> omega : _ = pack [(16, m.toNat), (2, s.code), (7, 0), (7, 0x27)])
  have h15_0 : bits w 15 0 = m.toNat := field_of hpack hfit 0
  have h17_16 : bits w 17 16 = s.code := field_of hpack hfit 1
  have h24_18 : bits w 24 18 = 0 := field_of hpack hfit 2
  have h31_25 : bits w 31 25 = 0x27 := field_of hpack hfit 3
  refine ⟨hpack ▸ pack_lt _ hfit, by rw [h31_25]; rfl, ?_⟩
  change decodeWord w = _
  rw [major27 h31_25, decodeMajor27, if_pos h24_18, h17_16, Scope_ofCode s]
  simp only [named]
  rw [vec_eq m h15_0]

theorem barArrive (s : Fin 8) : Statement (.barArrive s) := by
  intro _ _
  suffices key : ∀ w, w = 1342177280 + s.val * 16 → decodes w (.barArrive s) none from decode_of rfl rfl (key _ rfl)
  intro w h
  have hfit : fits [(4, 0), (3, s.val), (18, 0), (7, 0x28)] := ⟨by decide, s.isLt, by decide, by decide, trivial⟩
  have hpack := h.trans (show _ = pack _ by simp only [pack] <;> omega : _ = pack [(4, 0), (3, s.val), (18, 0), (7, 0x28)])
  have h3_0 : bits w 3 0 = 0 := field_of hpack hfit 0
  have h6_4 : bits w 6 4 = s.val := field_of hpack hfit 1
  have h24_7 : bits w 24 7 = 0 := field_of hpack hfit 2
  have h31_25 : bits w 31 25 = 0x28 := field_of hpack hfit 3
  refine ⟨hpack ▸ pack_lt _ hfit, by rw [h31_25]; rfl, ?_⟩
  change decodeWord w = _
  rw [major28 h31_25, decodeMajor28, if_pos ⟨h24_7, h3_0⟩]
  rw [fin_eq s h6_4]

theorem barWait (a : Fin 32) (s : Fin 8) : Statement (.barWait a s) := by
  intro _ _
  suffices key : ∀ w, w = 1342177281 + a.val * 32768 + s.val * 16 → decodes w (.barWait a s) none from decode_of rfl rfl (key _ rfl)
  intro w h
  have hfit : fits [(4, 1), (3, s.val), (8, 0), (5, a.val), (5, 0), (7, 0x28)] := ⟨by decide, s.isLt, by decide, a.isLt, by decide, by decide, trivial⟩
  have hpack := h.trans (show _ = pack _ by simp only [pack] <;> omega : _ = pack [(4, 1), (3, s.val), (8, 0), (5, a.val), (5, 0), (7, 0x28)])
  have h3_0 : bits w 3 0 = 1 := field_of hpack hfit 0
  have h6_4 : bits w 6 4 = s.val := field_of hpack hfit 1
  have h14_7 : bits w 14 7 = 0 := field_of hpack hfit 2
  have h19_15 : bits w 19 15 = a.val := field_of hpack hfit 3
  have h24_20 : bits w 24 20 = 0 := field_of hpack hfit 4
  have h31_25 : bits w 31 25 = 0x28 := field_of hpack hfit 5
  refine ⟨hpack ▸ pack_lt _ hfit, by rw [h31_25]; rfl, ?_⟩
  change decodeWord w = _
  rw [major28 h31_25, decodeMajor28, if_neg (by simp [h3_0]), if_pos ⟨h24_20, h14_7, h3_0⟩]
  rw [fin_eq a h19_15, fin_eq s h6_4]

theorem startNext : Statement (.startNext) := by
  intro _ _
  suffices key : ∀ w, w = 1375731712 → decodes w (.startNext) none from decode_of rfl rfl (key _ rfl)
  intro w h
  have hfit : fits [(25, 0), (7, 0x29)] := ⟨by decide, by decide, trivial⟩
  have hpack := h.trans (show _ = pack _ by simp only [pack] <;> omega : _ = pack [(25, 0), (7, 0x29)])
  have h24_0 : bits w 24 0 = 0 := field_of hpack hfit 0
  have h31_25 : bits w 31 25 = 0x29 := field_of hpack hfit 1
  refine ⟨hpack ▸ pack_lt _ hfit, by rw [h31_25]; rfl, ?_⟩
  change decodeWord w = _
  rw [major29 h31_25, decodeMajor29, if_pos h24_0]

theorem waitPred : Statement (.waitPred) := by
  intro _ _
  suffices key : ∀ w, w = 1375731713 → decodes w (.waitPred) none from decode_of rfl rfl (key _ rfl)
  intro w h
  have hfit : fits [(25, 1), (7, 0x29)] := ⟨by decide, by decide, trivial⟩
  have hpack := h.trans (show _ = pack _ by simp only [pack] <;> omega : _ = pack [(25, 1), (7, 0x29)])
  have h24_0 : bits w 24 0 = 1 := field_of hpack hfit 0
  have h31_25 : bits w 31 25 = 0x29 := field_of hpack hfit 1
  refine ⟨hpack ▸ pack_lt _ hfit, by rw [h31_25]; rfl, ?_⟩
  change decodeWord w = _
  rw [major29 h31_25, decodeMajor29, if_neg (by rw [h24_0]; decide), if_pos h24_0]

theorem tspawn (a : Fin 32) : Statement (.tspawn a) := by
  intro _ _
  suffices key : ∀ w, w = 1375731714 + a.val * 32768 → decodes w (.tspawn a) none from decode_of rfl rfl (key _ rfl)
  intro w h
  have hfit : fits [(15, 2), (5, a.val), (5, 0), (7, 0x29)] := ⟨by decide, a.isLt, by decide, by decide, trivial⟩
  have hpack := h.trans (show _ = pack _ by simp only [pack] <;> omega : _ = pack [(15, 2), (5, a.val), (5, 0), (7, 0x29)])
  have h14_0 : bits w 14 0 = 2 := field_of hpack hfit 0
  have h19_15 : bits w 19 15 = a.val := field_of hpack hfit 1
  have h24_20 : bits w 24 20 = 0 := field_of hpack hfit 2
  have h31_25 : bits w 31 25 = 0x29 := field_of hpack hfit 3
  have := a.isLt
  refine ⟨hpack ▸ pack_lt _ hfit, by rw [h31_25]; rfl, ?_⟩
  change decodeWord w = _
  rw [major29 h31_25, decodeMajor29, if_neg (by simp only [bits]; omega), if_neg (by simp only [bits]; omega), if_pos ⟨h24_20, h14_0⟩]
  rw [fin_eq a h19_15]

theorem futRd (d : Fin 32) (a : Fin 32) : Statement (.futRd d a) := by
  intro _ _
  suffices key : ∀ w, w = 1375731715 + d.val * 1048576 + a.val * 32768 → decodes w (.futRd d a) none from decode_of rfl rfl (key _ rfl)
  intro w h
  have hfit : fits [(15, 3), (5, a.val), (5, d.val), (7, 0x29)] := ⟨by decide, a.isLt, d.isLt, by decide, trivial⟩
  have hpack := h.trans (show _ = pack _ by simp only [pack] <;> omega : _ = pack [(15, 3), (5, a.val), (5, d.val), (7, 0x29)])
  have h14_0 : bits w 14 0 = 3 := field_of hpack hfit 0
  have h19_15 : bits w 19 15 = a.val := field_of hpack hfit 1
  have h24_20 : bits w 24 20 = d.val := field_of hpack hfit 2
  have h31_25 : bits w 31 25 = 0x29 := field_of hpack hfit 3
  have := d.isLt
  have := a.isLt
  refine ⟨hpack ▸ pack_lt _ hfit, by rw [h31_25]; rfl, ?_⟩
  change decodeWord w = _
  rw [major29 h31_25, decodeMajor29, if_neg (by simp only [bits]; omega), if_neg (by simp only [bits]; omega), if_neg (by simp [h14_0]), if_pos h14_0]
  rw [fin_eq d h24_20, fin_eq a h19_15]

theorem futFill (d : Fin 32) (a : Fin 32) (b : Fin 32) : Statement (.futFill d a b) := by
  intro _ _
  suffices key : ∀ w, w = 1375731716 + d.val * 1048576 + a.val * 32768 + b.val * 1024 → decodes w (.futFill d a b) none from decode_of rfl rfl (key _ rfl)
  intro w h
  have hfit : fits [(10, 4), (5, b.val), (5, a.val), (5, d.val), (7, 0x29)] := ⟨by decide, b.isLt, a.isLt, d.isLt, by decide, trivial⟩
  have hpack := h.trans (show _ = pack _ by simp only [pack] <;> omega : _ = pack [(10, 4), (5, b.val), (5, a.val), (5, d.val), (7, 0x29)])
  have h9_0 : bits w 9 0 = 4 := field_of hpack hfit 0
  have h14_10 : bits w 14 10 = b.val := field_of hpack hfit 1
  have h19_15 : bits w 19 15 = a.val := field_of hpack hfit 2
  have h24_20 : bits w 24 20 = d.val := field_of hpack hfit 3
  have h31_25 : bits w 31 25 = 0x29 := field_of hpack hfit 4
  have := d.isLt
  have := a.isLt
  have := b.isLt
  refine ⟨hpack ▸ pack_lt _ hfit, by rw [h31_25]; rfl, ?_⟩
  change decodeWord w = _
  rw [major29 h31_25, decodeMajor29, if_neg (by simp only [bits]; omega), if_neg (by simp only [bits]; omega), if_neg (by simp only [bits]; omega), if_neg (by simp only [bits]; omega), if_pos h9_0]
  rw [fin_eq d h24_20, fin_eq a h19_15, fin_eq b h14_10]

theorem lvlCancel (a : Fin 32) (l : CancelLevel) : Statement (.lvlCancel a l) := by
  intro _ _
  suffices key : ∀ w, w = 1375731717 + a.val * 32768 + l.code * 16 → decodes w (.lvlCancel a l) none from decode_of rfl rfl (key _ rfl)
  intro w h
  have hfit : fits [(4, 5), (3, l.code), (8, 0), (5, a.val), (5, 0), (7, 0x29)] := ⟨by decide, (Nat.lt_of_lt_of_le (CancelLevel_code_lt l) (by decide)), by decide, a.isLt, by decide, by decide, trivial⟩
  have hpack := h.trans (show _ = pack _ by simp only [pack] <;> omega : _ = pack [(4, 5), (3, l.code), (8, 0), (5, a.val), (5, 0), (7, 0x29)])
  have h3_0 : bits w 3 0 = 5 := field_of hpack hfit 0
  have h6_4 : bits w 6 4 = l.code := field_of hpack hfit 1
  have h14_7 : bits w 14 7 = 0 := field_of hpack hfit 2
  have h19_15 : bits w 19 15 = a.val := field_of hpack hfit 3
  have h24_20 : bits w 24 20 = 0 := field_of hpack hfit 4
  have h31_25 : bits w 31 25 = 0x29 := field_of hpack hfit 5
  have := a.isLt
  have := CancelLevel_code_lt l
  refine ⟨hpack ▸ pack_lt _ hfit, by rw [h31_25]; rfl, ?_⟩
  change decodeWord w = _
  rw [major29 h31_25, decodeMajor29, if_neg (by simp only [bits]; omega), if_neg (by simp only [bits]; omega), if_neg (by simp only [bits]; omega), if_neg (by simp only [bits]; omega), if_neg (by simp only [bits]; omega), if_pos ⟨h24_20, h14_7, h3_0⟩, h6_4, CancelLevel_ofCode l]
  simp only [named]
  rw [fin_eq a h19_15]

theorem lease (u : Fin 8) : Statement (.lease u) := by
  intro _ _
  suffices key : ∀ w, w = 1409286144 + u.val * 16 → decodes w (.lease u) none from decode_of rfl rfl (key _ rfl)
  intro w h
  have hfit : fits [(4, 0), (3, u.val), (18, 0), (7, 0x2A)] := ⟨by decide, u.isLt, by decide, by decide, trivial⟩
  have hpack := h.trans (show _ = pack _ by simp only [pack] <;> omega : _ = pack [(4, 0), (3, u.val), (18, 0), (7, 0x2A)])
  have h3_0 : bits w 3 0 = 0 := field_of hpack hfit 0
  have h6_4 : bits w 6 4 = u.val := field_of hpack hfit 1
  have h24_7 : bits w 24 7 = 0 := field_of hpack hfit 2
  have h31_25 : bits w 31 25 = 0x2A := field_of hpack hfit 3
  refine ⟨hpack ▸ pack_lt _ hfit, by rw [h31_25]; rfl, ?_⟩
  change decodeWord w = _
  rw [major2A h31_25, decodeMajor2A, if_pos ⟨h24_7, h3_0⟩]
  rw [fin_eq u h6_4]

theorem unlease : Statement (.unlease) := by
  intro _ _
  suffices key : ∀ w, w = 1409286145 → decodes w (.unlease) none from decode_of rfl rfl (key _ rfl)
  intro w h
  have hfit : fits [(25, 1), (7, 0x2A)] := ⟨by decide, by decide, trivial⟩
  have hpack := h.trans (show _ = pack _ by simp only [pack] <;> omega : _ = pack [(25, 1), (7, 0x2A)])
  have h24_0 : bits w 24 0 = 1 := field_of hpack hfit 0
  have h31_25 : bits w 31 25 = 0x2A := field_of hpack hfit 1
  refine ⟨hpack ▸ pack_lt _ hfit, by rw [h31_25]; rfl, ?_⟩
  change decodeWord w = _
  rw [major2A h31_25, decodeMajor2A, if_neg (by simp only [bits]; omega), if_pos h24_0]

theorem mzero (t : Fin 4) : Statement (.mzero t) := by
  intro _ _
  suffices key : ∀ w, w = 1409286146 + t.val * 16 → decodes w (.mzero t) none from decode_of rfl rfl (key _ rfl)
  intro w h
  have hfit : fits [(4, 2), (2, t.val), (19, 0), (7, 0x2A)] := ⟨by decide, t.isLt, by decide, by decide, trivial⟩
  have hpack := h.trans (show _ = pack _ by simp only [pack] <;> omega : _ = pack [(4, 2), (2, t.val), (19, 0), (7, 0x2A)])
  have h3_0 : bits w 3 0 = 2 := field_of hpack hfit 0
  have h5_4 : bits w 5 4 = t.val := field_of hpack hfit 1
  have h24_6 : bits w 24 6 = 0 := field_of hpack hfit 2
  have h31_25 : bits w 31 25 = 0x2A := field_of hpack hfit 3
  have := t.isLt
  refine ⟨hpack ▸ pack_lt _ hfit, by rw [h31_25]; rfl, ?_⟩
  change decodeWord w = _
  rw [major2A h31_25, decodeMajor2A, if_neg (by simp [h3_0]), if_neg (by simp only [bits]; omega), if_pos ⟨h24_6, h3_0⟩]
  rw [fin_eq t h5_4]

theorem mout (t : Fin 4) (a : Fin 32) (b : Fin 32) (f : Fin 64) : Statement (.mout t a b f) := by
  intro hwf _
  have hwf' : a.val ≠ 0 := by simpa [Instr.wf] using hwf
  suffices key : ∀ w, w = 1409286147 + t.val * 1048576 + a.val * 32768 + b.val * 1024 + f.val * 16 → decodes w (.mout t a b f) none from decode_of rfl rfl (key _ rfl)
  intro w h
  have hfit : fits [(4, 3), (6, f.val), (5, b.val), (5, a.val), (2, t.val), (3, 0), (7, 0x2A)] := ⟨by decide, f.isLt, b.isLt, a.isLt, t.isLt, by decide, by decide, trivial⟩
  have hpack := h.trans (show _ = pack _ by simp only [pack] <;> omega : _ = pack [(4, 3), (6, f.val), (5, b.val), (5, a.val), (2, t.val), (3, 0), (7, 0x2A)])
  have h3_0 : bits w 3 0 = 3 := field_of hpack hfit 0
  have h9_4 : bits w 9 4 = f.val := field_of hpack hfit 1
  have h14_10 : bits w 14 10 = b.val := field_of hpack hfit 2
  have h19_15 : bits w 19 15 = a.val := field_of hpack hfit 3
  have h21_20 : bits w 21 20 = t.val := field_of hpack hfit 4
  have h24_22 : bits w 24 22 = 0 := field_of hpack hfit 5
  have h31_25 : bits w 31 25 = 0x2A := field_of hpack hfit 6
  have := t.isLt
  have := a.isLt
  have := b.isLt
  have := f.isLt
  refine ⟨hpack ▸ pack_lt _ hfit, by rw [h31_25]; rfl, ?_⟩
  change decodeWord w = _
  rw [major2A h31_25, decodeMajor2A, if_neg (by simp [h3_0]), if_neg (by simp only [bits]; omega), if_neg (by simp [h3_0]), if_neg (by simp only [bits]; omega), if_neg (by simp only [bits]; omega), if_pos ⟨h24_22, h3_0⟩]
  rw [fin_eq t h21_20, fin_eq a h19_15, fin_eq b h14_10, fin_eq f h9_4]

theorem moutRq (t : Fin 4) (f : Fin 64) : Statement (.moutRq t f) := by
  intro _ _
  suffices key : ∀ w, w = 1409286147 + t.val * 1048576 + f.val * 16 → decodes w (.moutRq t f) none from decode_of rfl rfl (key _ rfl)
  intro w h
  have hfit : fits [(4, 3), (6, f.val), (10, 0), (2, t.val), (3, 0), (7, 0x2A)] := ⟨by decide, f.isLt, by decide, t.isLt, by decide, by decide, trivial⟩
  have hpack := h.trans (show _ = pack _ by simp only [pack] <;> omega : _ = pack [(4, 3), (6, f.val), (10, 0), (2, t.val), (3, 0), (7, 0x2A)])
  have h3_0 : bits w 3 0 = 3 := field_of hpack hfit 0
  have h9_4 : bits w 9 4 = f.val := field_of hpack hfit 1
  have h19_10 : bits w 19 10 = 0 := field_of hpack hfit 2
  have h21_20 : bits w 21 20 = t.val := field_of hpack hfit 3
  have h24_22 : bits w 24 22 = 0 := field_of hpack hfit 4
  have h31_25 : bits w 31 25 = 0x2A := field_of hpack hfit 5
  have := t.isLt
  have := f.isLt
  refine ⟨hpack ▸ pack_lt _ hfit, by rw [h31_25]; rfl, ?_⟩
  change decodeWord w = _
  rw [major2A h31_25, decodeMajor2A, if_neg (by simp [h3_0]), if_neg (by simp only [bits]; omega), if_neg (by simp [h3_0]), if_pos ⟨h24_22, h19_10, h3_0⟩]
  rw [fin_eq t h21_20, fin_eq f h9_4]

theorem mstat (d : Fin 32) : Statement (.mstat d) := by
  intro _ _
  suffices key : ∀ w, w = 1409286148 + d.val * 1048576 → decodes w (.mstat d) none from decode_of rfl rfl (key _ rfl)
  intro w h
  have hfit : fits [(20, 4), (5, d.val), (7, 0x2A)] := ⟨by decide, d.isLt, by decide, trivial⟩
  have hpack := h.trans (show _ = pack _ by simp only [pack] <;> omega : _ = pack [(20, 4), (5, d.val), (7, 0x2A)])
  have h19_0 : bits w 19 0 = 4 := field_of hpack hfit 0
  have h24_20 : bits w 24 20 = d.val := field_of hpack hfit 1
  have h31_25 : bits w 31 25 = 0x2A := field_of hpack hfit 2
  have := d.isLt
  refine ⟨hpack ▸ pack_lt _ hfit, by rw [h31_25]; rfl, ?_⟩
  change decodeWord w = _
  rw [major2A h31_25, decodeMajor2A, if_neg (by simp only [bits]; omega), if_neg (by simp only [bits]; omega), if_neg (by simp only [bits]; omega), if_neg (by simp only [bits]; omega), if_pos h19_0]
  rw [fin_eq d h24_20]

theorem sunbind (a : Fin 32) : Statement (.sunbind a) := by
  intro _ _
  suffices key : ∀ w, w = 1442840576 + a.val * 32768 → decodes w (.sunbind a) none from decode_of rfl rfl (key _ rfl)
  intro w h
  have hfit : fits [(15, 0), (5, a.val), (5, 0), (7, 0x2B)] := ⟨by decide, a.isLt, by decide, by decide, trivial⟩
  have hpack := h.trans (show _ = pack _ by simp only [pack] <;> omega : _ = pack [(15, 0), (5, a.val), (5, 0), (7, 0x2B)])
  have h14_0 : bits w 14 0 = 0 := field_of hpack hfit 0
  have h19_15 : bits w 19 15 = a.val := field_of hpack hfit 1
  have h24_20 : bits w 24 20 = 0 := field_of hpack hfit 2
  have h31_25 : bits w 31 25 = 0x2B := field_of hpack hfit 3
  refine ⟨hpack ▸ pack_lt _ hfit, by rw [h31_25]; rfl, ?_⟩
  change decodeWord w = _
  rw [major2B h31_25, decodeMajor2B, if_pos ⟨h24_20, h14_0⟩]
  rw [fin_eq a h19_15]

theorem sctxStart (d : Fin 32) (a : Fin 32) : Statement (.sctxStart d a) := by
  intro _ _
  suffices key : ∀ w, w = 1442840577 + d.val * 1048576 + a.val * 32768 → decodes w (.sctxStart d a) none from decode_of rfl rfl (key _ rfl)
  intro w h
  have hfit : fits [(15, 1), (5, a.val), (5, d.val), (7, 0x2B)] := ⟨by decide, a.isLt, d.isLt, by decide, trivial⟩
  have hpack := h.trans (show _ = pack _ by simp only [pack] <;> omega : _ = pack [(15, 1), (5, a.val), (5, d.val), (7, 0x2B)])
  have h14_0 : bits w 14 0 = 1 := field_of hpack hfit 0
  have h19_15 : bits w 19 15 = a.val := field_of hpack hfit 1
  have h24_20 : bits w 24 20 = d.val := field_of hpack hfit 2
  have h31_25 : bits w 31 25 = 0x2B := field_of hpack hfit 3
  refine ⟨hpack ▸ pack_lt _ hfit, by rw [h31_25]; rfl, ?_⟩
  change decodeWord w = _
  rw [major2B h31_25, decodeMajor2B, if_neg (by simp [h14_0]), if_pos h14_0]
  rw [fin_eq d h24_20, fin_eq a h19_15]

theorem sctxStop (d : Fin 32) (a : Fin 32) : Statement (.sctxStop d a) := by
  intro _ _
  suffices key : ∀ w, w = 1442840593 + d.val * 1048576 + a.val * 32768 → decodes w (.sctxStop d a) none from decode_of rfl rfl (key _ rfl)
  intro w h
  have hfit : fits [(15, 17), (5, a.val), (5, d.val), (7, 0x2B)] := ⟨by decide, a.isLt, d.isLt, by decide, trivial⟩
  have hpack := h.trans (show _ = pack _ by simp only [pack] <;> omega : _ = pack [(15, 17), (5, a.val), (5, d.val), (7, 0x2B)])
  have h14_0 : bits w 14 0 = 17 := field_of hpack hfit 0
  have h19_15 : bits w 19 15 = a.val := field_of hpack hfit 1
  have h24_20 : bits w 24 20 = d.val := field_of hpack hfit 2
  have h31_25 : bits w 31 25 = 0x2B := field_of hpack hfit 3
  refine ⟨hpack ▸ pack_lt _ hfit, by rw [h31_25]; rfl, ?_⟩
  change decodeWord w = _
  rw [major2B h31_25, decodeMajor2B, if_neg (by simp [h14_0]), if_neg (by rw [h14_0]; decide), if_pos h14_0]
  rw [fin_eq d h24_20, fin_eq a h19_15]

theorem sdepth (d : Fin 32) (a : Fin 32) (b : Fin 32) : Statement (.sdepth d a b) := by
  intro _ _
  suffices key : ∀ w, w = 1442840578 + d.val * 1048576 + a.val * 32768 + b.val * 1024 → decodes w (.sdepth d a b) none from decode_of rfl rfl (key _ rfl)
  intro w h
  have hfit : fits [(10, 2), (5, b.val), (5, a.val), (5, d.val), (7, 0x2B)] := ⟨by decide, b.isLt, a.isLt, d.isLt, by decide, trivial⟩
  have hpack := h.trans (show _ = pack _ by simp only [pack] <;> omega : _ = pack [(10, 2), (5, b.val), (5, a.val), (5, d.val), (7, 0x2B)])
  have h9_0 : bits w 9 0 = 2 := field_of hpack hfit 0
  have h14_10 : bits w 14 10 = b.val := field_of hpack hfit 1
  have h19_15 : bits w 19 15 = a.val := field_of hpack hfit 2
  have h24_20 : bits w 24 20 = d.val := field_of hpack hfit 3
  have h31_25 : bits w 31 25 = 0x2B := field_of hpack hfit 4
  have := d.isLt
  have := a.isLt
  have := b.isLt
  refine ⟨hpack ▸ pack_lt _ hfit, by rw [h31_25]; rfl, ?_⟩
  change decodeWord w = _
  rw [major2B h31_25, decodeMajor2B, if_neg (by simp only [bits]; omega), if_neg (by simp only [bits]; omega), if_neg (by simp only [bits]; omega), if_pos h9_0]
  rw [fin_eq d h24_20, fin_eq a h19_15, fin_eq b h14_10]

theorem rowWait (a : Fin 32) (b : Fin 32) : Statement (.rowWait a b) := by
  intro _ _
  suffices key : ∀ w, w = 1476395008 + a.val * 32768 + b.val * 1024 → decodes w (.rowWait a b) none from decode_of rfl rfl (key _ rfl)
  intro w h
  have hfit : fits [(10, 0), (5, b.val), (5, a.val), (5, 0), (7, 0x2C)] := ⟨by decide, b.isLt, a.isLt, by decide, by decide, trivial⟩
  have hpack := h.trans (show _ = pack _ by simp only [pack] <;> omega : _ = pack [(10, 0), (5, b.val), (5, a.val), (5, 0), (7, 0x2C)])
  have h9_0 : bits w 9 0 = 0 := field_of hpack hfit 0
  have h14_10 : bits w 14 10 = b.val := field_of hpack hfit 1
  have h19_15 : bits w 19 15 = a.val := field_of hpack hfit 2
  have h24_20 : bits w 24 20 = 0 := field_of hpack hfit 3
  have h31_25 : bits w 31 25 = 0x2C := field_of hpack hfit 4
  refine ⟨hpack ▸ pack_lt _ hfit, by rw [h31_25]; rfl, ?_⟩
  change decodeWord w = _
  rw [major2C h31_25, decodeMajor2C, if_pos ⟨h24_20, h9_0⟩]
  rw [fin_eq a h19_15, fin_eq b h14_10]

theorem rowPost (a : Fin 32) : Statement (.rowPost a) := by
  intro _ _
  suffices key : ∀ w, w = 1476395009 + a.val * 32768 → decodes w (.rowPost a) none from decode_of rfl rfl (key _ rfl)
  intro w h
  have hfit : fits [(15, 1), (5, a.val), (5, 0), (7, 0x2C)] := ⟨by decide, a.isLt, by decide, by decide, trivial⟩
  have hpack := h.trans (show _ = pack _ by simp only [pack] <;> omega : _ = pack [(15, 1), (5, a.val), (5, 0), (7, 0x2C)])
  have h14_0 : bits w 14 0 = 1 := field_of hpack hfit 0
  have h19_15 : bits w 19 15 = a.val := field_of hpack hfit 1
  have h24_20 : bits w 24 20 = 0 := field_of hpack hfit 2
  have h31_25 : bits w 31 25 = 0x2C := field_of hpack hfit 3
  have := a.isLt
  refine ⟨hpack ▸ pack_lt _ hfit, by rw [h31_25]; rfl, ?_⟩
  change decodeWord w = _
  rw [major2C h31_25, decodeMajor2C, if_neg (by simp only [bits]; omega), if_pos ⟨h24_20, h14_0⟩]
  rw [fin_eq a h19_15]

theorem rowPostFrame : Statement (.rowPostFrame) := by
  intro _ _
  suffices key : ∀ w, w = 1476395025 → decodes w (.rowPostFrame) none from decode_of rfl rfl (key _ rfl)
  intro w h
  have hfit : fits [(25, 17), (7, 0x2C)] := ⟨by decide, by decide, trivial⟩
  have hpack := h.trans (show _ = pack _ by simp only [pack] <;> omega : _ = pack [(25, 17), (7, 0x2C)])
  have h24_0 : bits w 24 0 = 17 := field_of hpack hfit 0
  have h31_25 : bits w 31 25 = 0x2C := field_of hpack hfit 1
  refine ⟨hpack ▸ pack_lt _ hfit, by rw [h31_25]; rfl, ?_⟩
  change decodeWord w = _
  rw [major2C h31_25, decodeMajor2C, if_neg (by simp only [bits]; omega), if_neg (by simp only [bits]; omega), if_pos h24_0]

theorem rowPostSet (a : Fin 32) : Statement (.rowPostSet a) := by
  intro _ _
  suffices key : ∀ w, w = 1476395041 + a.val * 32768 → decodes w (.rowPostSet a) none from decode_of rfl rfl (key _ rfl)
  intro w h
  have hfit : fits [(15, 33), (5, a.val), (5, 0), (7, 0x2C)] := ⟨by decide, a.isLt, by decide, by decide, trivial⟩
  have hpack := h.trans (show _ = pack _ by simp only [pack] <;> omega : _ = pack [(15, 33), (5, a.val), (5, 0), (7, 0x2C)])
  have h14_0 : bits w 14 0 = 33 := field_of hpack hfit 0
  have h19_15 : bits w 19 15 = a.val := field_of hpack hfit 1
  have h24_20 : bits w 24 20 = 0 := field_of hpack hfit 2
  have h31_25 : bits w 31 25 = 0x2C := field_of hpack hfit 3
  have := a.isLt
  refine ⟨hpack ▸ pack_lt _ hfit, by rw [h31_25]; rfl, ?_⟩
  change decodeWord w = _
  rw [major2C h31_25, decodeMajor2C, if_neg (by simp only [bits]; omega), if_neg (by simp [h14_0]), if_neg (by simp only [bits]; omega), if_pos ⟨h24_20, h14_0⟩]
  rw [fin_eq a h19_15]

theorem rowRdPos (d : Fin 32) (a : Fin 32) : Statement (.rowRdPos d a) := by
  intro _ _
  suffices key : ∀ w, w = 1476395010 + d.val * 1048576 + a.val * 32768 → decodes w (.rowRdPos d a) none from decode_of rfl rfl (key _ rfl)
  intro w h
  have hfit : fits [(15, 2), (5, a.val), (5, d.val), (7, 0x2C)] := ⟨by decide, a.isLt, d.isLt, by decide, trivial⟩
  have hpack := h.trans (show _ = pack _ by simp only [pack] <;> omega : _ = pack [(15, 2), (5, a.val), (5, d.val), (7, 0x2C)])
  have h14_0 : bits w 14 0 = 2 := field_of hpack hfit 0
  have h19_15 : bits w 19 15 = a.val := field_of hpack hfit 1
  have h24_20 : bits w 24 20 = d.val := field_of hpack hfit 2
  have h31_25 : bits w 31 25 = 0x2C := field_of hpack hfit 3
  have := d.isLt
  have := a.isLt
  refine ⟨hpack ▸ pack_lt _ hfit, by rw [h31_25]; rfl, ?_⟩
  change decodeWord w = _
  rw [major2C h31_25, decodeMajor2C, if_neg (by simp only [bits]; omega), if_neg (by simp [h14_0]), if_neg (by simp only [bits]; omega), if_neg (by simp [h14_0]), if_pos h14_0]
  rw [fin_eq d h24_20, fin_eq a h19_15]

theorem rowRdRec (d : Fin 32) (a : Fin 32) : Statement (.rowRdRec d a) := by
  intro _ _
  suffices key : ∀ w, w = 1476395026 + d.val * 1048576 + a.val * 32768 → decodes w (.rowRdRec d a) none from decode_of rfl rfl (key _ rfl)
  intro w h
  have hfit : fits [(15, 18), (5, a.val), (5, d.val), (7, 0x2C)] := ⟨by decide, a.isLt, d.isLt, by decide, trivial⟩
  have hpack := h.trans (show _ = pack _ by simp only [pack] <;> omega : _ = pack [(15, 18), (5, a.val), (5, d.val), (7, 0x2C)])
  have h14_0 : bits w 14 0 = 18 := field_of hpack hfit 0
  have h19_15 : bits w 19 15 = a.val := field_of hpack hfit 1
  have h24_20 : bits w 24 20 = d.val := field_of hpack hfit 2
  have h31_25 : bits w 31 25 = 0x2C := field_of hpack hfit 3
  have := d.isLt
  have := a.isLt
  refine ⟨hpack ▸ pack_lt _ hfit, by rw [h31_25]; rfl, ?_⟩
  change decodeWord w = _
  rw [major2C h31_25, decodeMajor2C, if_neg (by simp only [bits]; omega), if_neg (by simp [h14_0]), if_neg (by simp only [bits]; omega), if_neg (by simp [h14_0]), if_neg (by rw [h14_0]; decide), if_pos h14_0]
  rw [fin_eq d h24_20, fin_eq a h19_15]

theorem rowRdStamp (d : Fin 32) (a : Fin 32) : Statement (.rowRdStamp d a) := by
  intro _ _
  suffices key : ∀ w, w = 1476395042 + d.val * 1048576 + a.val * 32768 → decodes w (.rowRdStamp d a) none from decode_of rfl rfl (key _ rfl)
  intro w h
  have hfit : fits [(15, 34), (5, a.val), (5, d.val), (7, 0x2C)] := ⟨by decide, a.isLt, d.isLt, by decide, trivial⟩
  have hpack := h.trans (show _ = pack _ by simp only [pack] <;> omega : _ = pack [(15, 34), (5, a.val), (5, d.val), (7, 0x2C)])
  have h14_0 : bits w 14 0 = 34 := field_of hpack hfit 0
  have h19_15 : bits w 19 15 = a.val := field_of hpack hfit 1
  have h24_20 : bits w 24 20 = d.val := field_of hpack hfit 2
  have h31_25 : bits w 31 25 = 0x2C := field_of hpack hfit 3
  have := d.isLt
  have := a.isLt
  refine ⟨hpack ▸ pack_lt _ hfit, by rw [h31_25]; rfl, ?_⟩
  change decodeWord w = _
  rw [major2C h31_25, decodeMajor2C, if_neg (by simp only [bits]; omega), if_neg (by simp [h14_0]), if_neg (by simp only [bits]; omega), if_neg (by simp [h14_0]), if_neg (by rw [h14_0]; decide), if_neg (by rw [h14_0]; decide), if_pos h14_0]
  rw [fin_eq d h24_20, fin_eq a h19_15]

theorem roiRd (d : Fin 32) (a : Fin 32) (b : Fin 32) : Statement (.roiRd d a b) := by
  intro _ _
  suffices key : ∀ w, w = 1476395011 + d.val * 1048576 + a.val * 32768 + b.val * 1024 → decodes w (.roiRd d a b) none from decode_of rfl rfl (key _ rfl)
  intro w h
  have hfit : fits [(10, 3), (5, b.val), (5, a.val), (5, d.val), (7, 0x2C)] := ⟨by decide, b.isLt, a.isLt, d.isLt, by decide, trivial⟩
  have hpack := h.trans (show _ = pack _ by simp only [pack] <;> omega : _ = pack [(10, 3), (5, b.val), (5, a.val), (5, d.val), (7, 0x2C)])
  have h9_0 : bits w 9 0 = 3 := field_of hpack hfit 0
  have h14_10 : bits w 14 10 = b.val := field_of hpack hfit 1
  have h19_15 : bits w 19 15 = a.val := field_of hpack hfit 2
  have h24_20 : bits w 24 20 = d.val := field_of hpack hfit 3
  have h31_25 : bits w 31 25 = 0x2C := field_of hpack hfit 4
  have := d.isLt
  have := a.isLt
  have := b.isLt
  refine ⟨hpack ▸ pack_lt _ hfit, by rw [h31_25]; rfl, ?_⟩
  change decodeWord w = _
  rw [major2C h31_25, decodeMajor2C, if_neg (by simp [h9_0]), if_neg (by simp only [bits]; omega), if_neg (by simp only [bits]; omega), if_neg (by simp only [bits]; omega), if_neg (by simp only [bits]; omega), if_neg (by simp only [bits]; omega), if_neg (by simp only [bits]; omega), if_pos h9_0]
  rw [fin_eq d h24_20, fin_eq a h19_15, fin_eq b h14_10]

theorem alignWait (d : Fin 32) (a : Fin 32) (b : Fin 32) : Statement (.alignWait d a b) := by
  intro _ _
  suffices key : ∀ w, w = 1476395012 + d.val * 1048576 + a.val * 32768 + b.val * 1024 → decodes w (.alignWait d a b) none from decode_of rfl rfl (key _ rfl)
  intro w h
  have hfit : fits [(10, 4), (5, b.val), (5, a.val), (5, d.val), (7, 0x2C)] := ⟨by decide, b.isLt, a.isLt, d.isLt, by decide, trivial⟩
  have hpack := h.trans (show _ = pack _ by simp only [pack] <;> omega : _ = pack [(10, 4), (5, b.val), (5, a.val), (5, d.val), (7, 0x2C)])
  have h9_0 : bits w 9 0 = 4 := field_of hpack hfit 0
  have h14_10 : bits w 14 10 = b.val := field_of hpack hfit 1
  have h19_15 : bits w 19 15 = a.val := field_of hpack hfit 2
  have h24_20 : bits w 24 20 = d.val := field_of hpack hfit 3
  have h31_25 : bits w 31 25 = 0x2C := field_of hpack hfit 4
  have := d.isLt
  have := a.isLt
  have := b.isLt
  refine ⟨hpack ▸ pack_lt _ hfit, by rw [h31_25]; rfl, ?_⟩
  change decodeWord w = _
  rw [major2C h31_25, decodeMajor2C, if_neg (by simp [h9_0]), if_neg (by simp only [bits]; omega), if_neg (by simp only [bits]; omega), if_neg (by simp only [bits]; omega), if_neg (by simp only [bits]; omega), if_neg (by simp only [bits]; omega), if_neg (by simp only [bits]; omega), if_neg (by rw [h9_0]; decide), if_pos h9_0]
  rw [fin_eq d h24_20, fin_eq a h19_15, fin_eq b h14_10]

theorem alignWaitCnt (d : Fin 32) (a : Fin 32) : Statement (.alignWaitCnt d a) := by
  intro _ _
  suffices key : ∀ w, w = 1476395028 + d.val * 1048576 + a.val * 32768 → decodes w (.alignWaitCnt d a) none from decode_of rfl rfl (key _ rfl)
  intro w h
  have hfit : fits [(15, 20), (5, a.val), (5, d.val), (7, 0x2C)] := ⟨by decide, a.isLt, d.isLt, by decide, trivial⟩
  have hpack := h.trans (show _ = pack _ by simp only [pack] <;> omega : _ = pack [(15, 20), (5, a.val), (5, d.val), (7, 0x2C)])
  have h14_0 : bits w 14 0 = 20 := field_of hpack hfit 0
  have h19_15 : bits w 19 15 = a.val := field_of hpack hfit 1
  have h24_20 : bits w 24 20 = d.val := field_of hpack hfit 2
  have h31_25 : bits w 31 25 = 0x2C := field_of hpack hfit 3
  have := d.isLt
  have := a.isLt
  refine ⟨hpack ▸ pack_lt _ hfit, by rw [h31_25]; rfl, ?_⟩
  change decodeWord w = _
  rw [major2C h31_25, decodeMajor2C, if_neg (by simp only [bits]; omega), if_neg (by simp [h14_0]), if_neg (by simp only [bits]; omega), if_neg (by simp [h14_0]), if_neg (by rw [h14_0]; decide), if_neg (by rw [h14_0]; decide), if_neg (by rw [h14_0]; decide), if_neg (by simp only [bits]; omega), if_neg (by simp only [bits]; omega), if_pos h14_0]
  rw [fin_eq d h24_20, fin_eq a h19_15]

theorem trap (n : Fin 64) : Statement (.trap n) := by
  intro _ _
  suffices key : ∀ w, w = 1509949440 + n.val * 16 → decodes w (.trap n) none from decode_of rfl rfl (key _ rfl)
  intro w h
  have hfit : fits [(4, 0), (6, n.val), (15, 0), (7, 0x2D)] := ⟨by decide, n.isLt, by decide, by decide, trivial⟩
  have hpack := h.trans (show _ = pack _ by simp only [pack] <;> omega : _ = pack [(4, 0), (6, n.val), (15, 0), (7, 0x2D)])
  have h3_0 : bits w 3 0 = 0 := field_of hpack hfit 0
  have h9_4 : bits w 9 4 = n.val := field_of hpack hfit 1
  have h24_10 : bits w 24 10 = 0 := field_of hpack hfit 2
  have h31_25 : bits w 31 25 = 0x2D := field_of hpack hfit 3
  refine ⟨hpack ▸ pack_lt _ hfit, by rw [h31_25]; rfl, ?_⟩
  change decodeWord w = _
  rw [major2D h31_25, decodeMajor2D, if_pos ⟨h24_10, h3_0⟩]
  rw [fin_eq n h9_4]

theorem eret : Statement (.eret) := by
  intro _ _
  suffices key : ∀ w, w = 1509949441 → decodes w (.eret) none from decode_of rfl rfl (key _ rfl)
  intro w h
  have hfit : fits [(25, 1), (7, 0x2D)] := ⟨by decide, by decide, trivial⟩
  have hpack := h.trans (show _ = pack _ by simp only [pack] <;> omega : _ = pack [(25, 1), (7, 0x2D)])
  have h24_0 : bits w 24 0 = 1 := field_of hpack hfit 0
  have h31_25 : bits w 31 25 = 0x2D := field_of hpack hfit 1
  refine ⟨hpack ▸ pack_lt _ hfit, by rw [h31_25]; rfl, ?_⟩
  change decodeWord w = _
  rw [major2D h31_25, decodeMajor2D, if_neg (by simp only [bits]; omega), if_pos h24_0]

theorem sysRd (d : Fin 32) (r : Fin 64) : Statement (.sysRd d r) := by
  intro _ _
  suffices key : ∀ w, w = 1509949442 + d.val * 1048576 + r.val * 16 → decodes w (.sysRd d r) none from decode_of rfl rfl (key _ rfl)
  intro w h
  have hfit : fits [(4, 2), (6, r.val), (10, 0), (5, d.val), (7, 0x2D)] := ⟨by decide, r.isLt, by decide, d.isLt, by decide, trivial⟩
  have hpack := h.trans (show _ = pack _ by simp only [pack] <;> omega : _ = pack [(4, 2), (6, r.val), (10, 0), (5, d.val), (7, 0x2D)])
  have h3_0 : bits w 3 0 = 2 := field_of hpack hfit 0
  have h9_4 : bits w 9 4 = r.val := field_of hpack hfit 1
  have h19_10 : bits w 19 10 = 0 := field_of hpack hfit 2
  have h24_20 : bits w 24 20 = d.val := field_of hpack hfit 3
  have h31_25 : bits w 31 25 = 0x2D := field_of hpack hfit 4
  have := d.isLt
  have := r.isLt
  refine ⟨hpack ▸ pack_lt _ hfit, by rw [h31_25]; rfl, ?_⟩
  change decodeWord w = _
  rw [major2D h31_25, decodeMajor2D, if_neg (by simp [h3_0]), if_neg (by simp only [bits]; omega), if_pos ⟨h19_10, h3_0⟩]
  rw [fin_eq d h24_20, fin_eq r h9_4]

theorem sysWr (a : Fin 32) (r : Fin 64) : Statement (.sysWr a r) := by
  intro _ _
  suffices key : ∀ w, w = 1509949443 + a.val * 32768 + r.val * 16 → decodes w (.sysWr a r) none from decode_of rfl rfl (key _ rfl)
  intro w h
  have hfit : fits [(4, 3), (6, r.val), (5, 0), (5, a.val), (5, 0), (7, 0x2D)] := ⟨by decide, r.isLt, by decide, a.isLt, by decide, by decide, trivial⟩
  have hpack := h.trans (show _ = pack _ by simp only [pack] <;> omega : _ = pack [(4, 3), (6, r.val), (5, 0), (5, a.val), (5, 0), (7, 0x2D)])
  have h3_0 : bits w 3 0 = 3 := field_of hpack hfit 0
  have h9_4 : bits w 9 4 = r.val := field_of hpack hfit 1
  have h14_10 : bits w 14 10 = 0 := field_of hpack hfit 2
  have h19_15 : bits w 19 15 = a.val := field_of hpack hfit 3
  have h24_20 : bits w 24 20 = 0 := field_of hpack hfit 4
  have h31_25 : bits w 31 25 = 0x2D := field_of hpack hfit 5
  have := a.isLt
  have := r.isLt
  refine ⟨hpack ▸ pack_lt _ hfit, by rw [h31_25]; rfl, ?_⟩
  change decodeWord w = _
  rw [major2D h31_25, decodeMajor2D, if_neg (by simp [h3_0]), if_neg (by simp only [bits]; omega), if_neg (by simp [h3_0]), if_pos ⟨h24_20, h14_10, h3_0⟩]
  rw [fin_eq a h19_15, fin_eq r h9_4]

theorem time (d : Fin 32) : Statement (.time d) := by
  intro _ _
  suffices key : ∀ w, w = 1509949444 + d.val * 1048576 → decodes w (.time d) none from decode_of rfl rfl (key _ rfl)
  intro w h
  have hfit : fits [(20, 4), (5, d.val), (7, 0x2D)] := ⟨by decide, d.isLt, by decide, trivial⟩
  have hpack := h.trans (show _ = pack _ by simp only [pack] <;> omega : _ = pack [(20, 4), (5, d.val), (7, 0x2D)])
  have h19_0 : bits w 19 0 = 4 := field_of hpack hfit 0
  have h24_20 : bits w 24 20 = d.val := field_of hpack hfit 1
  have h31_25 : bits w 31 25 = 0x2D := field_of hpack hfit 2
  have := d.isLt
  refine ⟨hpack ▸ pack_lt _ hfit, by rw [h31_25]; rfl, ?_⟩
  change decodeWord w = _
  rw [major2D h31_25, decodeMajor2D, if_neg (by simp only [bits]; omega), if_neg (by simp only [bits]; omega), if_neg (by simp only [bits]; omega), if_neg (by simp only [bits]; omega), if_pos h19_0]
  rw [fin_eq d h24_20]

theorem tlbinvPage (a : Fin 32) : Statement (.tlbinvPage a) := by
  intro _ _
  suffices key : ∀ w, w = 1509949445 + a.val * 32768 → decodes w (.tlbinvPage a) none from decode_of rfl rfl (key _ rfl)
  intro w h
  have hfit : fits [(15, 5), (5, a.val), (5, 0), (7, 0x2D)] := ⟨by decide, a.isLt, by decide, by decide, trivial⟩
  have hpack := h.trans (show _ = pack _ by simp only [pack] <;> omega : _ = pack [(15, 5), (5, a.val), (5, 0), (7, 0x2D)])
  have h14_0 : bits w 14 0 = 5 := field_of hpack hfit 0
  have h19_15 : bits w 19 15 = a.val := field_of hpack hfit 1
  have h24_20 : bits w 24 20 = 0 := field_of hpack hfit 2
  have h31_25 : bits w 31 25 = 0x2D := field_of hpack hfit 3
  have := a.isLt
  refine ⟨hpack ▸ pack_lt _ hfit, by rw [h31_25]; rfl, ?_⟩
  change decodeWord w = _
  rw [major2D h31_25, decodeMajor2D, if_neg (by simp only [bits]; omega), if_neg (by simp only [bits]; omega), if_neg (by simp only [bits]; omega), if_neg (by simp only [bits]; omega), if_neg (by simp only [bits]; omega), if_pos ⟨h24_20, h14_0⟩]
  rw [fin_eq a h19_15]

theorem tlbinvAsid : Statement (.tlbinvAsid) := by
  intro _ _
  suffices key : ∀ w, w = 1509949461 → decodes w (.tlbinvAsid) none from decode_of rfl rfl (key _ rfl)
  intro w h
  have hfit : fits [(25, 21), (7, 0x2D)] := ⟨by decide, by decide, trivial⟩
  have hpack := h.trans (show _ = pack _ by simp only [pack] <;> omega : _ = pack [(25, 21), (7, 0x2D)])
  have h24_0 : bits w 24 0 = 21 := field_of hpack hfit 0
  have h31_25 : bits w 31 25 = 0x2D := field_of hpack hfit 1
  refine ⟨hpack ▸ pack_lt _ hfit, by rw [h31_25]; rfl, ?_⟩
  change decodeWord w = _
  rw [major2D h31_25, decodeMajor2D, if_neg (by simp only [bits]; omega), if_neg (by rw [h24_0]; decide), if_neg (by simp only [bits]; omega), if_neg (by simp only [bits]; omega), if_neg (by simp only [bits]; omega), if_neg (by simp only [bits]; omega), if_pos h24_0]

theorem crgnOpen (a : Fin 32) (b : Fin 32) : Statement (.crgnOpen a b) := by
  intro _ _
  suffices key : ∀ w, w = 1509949446 + a.val * 32768 + b.val * 1024 → decodes w (.crgnOpen a b) none from decode_of rfl rfl (key _ rfl)
  intro w h
  have hfit : fits [(10, 6), (5, b.val), (5, a.val), (5, 0), (7, 0x2D)] := ⟨by decide, b.isLt, a.isLt, by decide, by decide, trivial⟩
  have hpack := h.trans (show _ = pack _ by simp only [pack] <;> omega : _ = pack [(10, 6), (5, b.val), (5, a.val), (5, 0), (7, 0x2D)])
  have h9_0 : bits w 9 0 = 6 := field_of hpack hfit 0
  have h14_10 : bits w 14 10 = b.val := field_of hpack hfit 1
  have h19_15 : bits w 19 15 = a.val := field_of hpack hfit 2
  have h24_20 : bits w 24 20 = 0 := field_of hpack hfit 3
  have h31_25 : bits w 31 25 = 0x2D := field_of hpack hfit 4
  have := a.isLt
  have := b.isLt
  refine ⟨hpack ▸ pack_lt _ hfit, by rw [h31_25]; rfl, ?_⟩
  change decodeWord w = _
  rw [major2D h31_25, decodeMajor2D, if_neg (by simp only [bits]; omega), if_neg (by simp only [bits]; omega), if_neg (by simp only [bits]; omega), if_neg (by simp only [bits]; omega), if_neg (by simp only [bits]; omega), if_neg (by simp only [bits]; omega), if_neg (by simp only [bits]; omega), if_pos ⟨h24_20, h9_0⟩]
  rw [fin_eq a h19_15, fin_eq b h14_10]

theorem crgnClose : Statement (.crgnClose) := by
  intro _ _
  suffices key : ∀ w, w = 1509949447 → decodes w (.crgnClose) none from decode_of rfl rfl (key _ rfl)
  intro w h
  have hfit : fits [(25, 7), (7, 0x2D)] := ⟨by decide, by decide, trivial⟩
  have hpack := h.trans (show _ = pack _ by simp only [pack] <;> omega : _ = pack [(25, 7), (7, 0x2D)])
  have h24_0 : bits w 24 0 = 7 := field_of hpack hfit 0
  have h31_25 : bits w 31 25 = 0x2D := field_of hpack hfit 1
  refine ⟨hpack ▸ pack_lt _ hfit, by rw [h31_25]; rfl, ?_⟩
  change decodeWord w = _
  rw [major2D h31_25, decodeMajor2D, if_neg (by simp only [bits]; omega), if_neg (by rw [h24_0]; decide), if_neg (by simp only [bits]; omega), if_neg (by simp only [bits]; omega), if_neg (by simp only [bits]; omega), if_neg (by simp only [bits]; omega), if_neg (by rw [h24_0]; decide), if_neg (by simp only [bits]; omega), if_pos h24_0]

theorem crgnCloseMirror (f : Fin 64) : Statement (.crgnCloseMirror f) := by
  intro _ _
  suffices key : ∀ w, w = 1510998023 + f.val * 16 → decodes w (.crgnCloseMirror f) none from decode_of rfl rfl (key _ rfl)
  intro w h
  have hfit : fits [(4, 7), (6, f.val), (15, 1024), (7, 0x2D)] := ⟨by decide, f.isLt, by decide, by decide, trivial⟩
  have hpack := h.trans (show _ = pack _ by simp only [pack] <;> omega : _ = pack [(4, 7), (6, f.val), (15, 1024), (7, 0x2D)])
  have h3_0 : bits w 3 0 = 7 := field_of hpack hfit 0
  have h9_4 : bits w 9 4 = f.val := field_of hpack hfit 1
  have h24_10 : bits w 24 10 = 1024 := field_of hpack hfit 2
  have h31_25 : bits w 31 25 = 0x2D := field_of hpack hfit 3
  have := f.isLt
  refine ⟨hpack ▸ pack_lt _ hfit, by rw [h31_25]; rfl, ?_⟩
  change decodeWord w = _
  rw [major2D h31_25, decodeMajor2D, if_neg (by simp [h24_10]), if_neg (by simp only [bits]; omega), if_neg (by simp [h3_0]), if_neg (by simp [h3_0]), if_neg (by simp only [bits]; omega), if_neg (by simp only [bits]; omega), if_neg (by simp only [bits]; omega), if_neg (by simp only [bits]; omega), if_neg (by simp only [bits]; omega), if_pos ⟨h24_10, h3_0⟩]
  rw [fin_eq f h9_4]

theorem selftestArray (d : Fin 32) : Statement (.selftestArray d) := by
  intro _ _
  suffices key : ∀ w, w = 1509949448 + d.val * 1048576 → decodes w (.selftestArray d) none from decode_of rfl rfl (key _ rfl)
  intro w h
  have hfit : fits [(20, 8), (5, d.val), (7, 0x2D)] := ⟨by decide, d.isLt, by decide, trivial⟩
  have hpack := h.trans (show _ = pack _ by simp only [pack] <;> omega : _ = pack [(20, 8), (5, d.val), (7, 0x2D)])
  have h19_0 : bits w 19 0 = 8 := field_of hpack hfit 0
  have h24_20 : bits w 24 20 = d.val := field_of hpack hfit 1
  have h31_25 : bits w 31 25 = 0x2D := field_of hpack hfit 2
  have := d.isLt
  refine ⟨hpack ▸ pack_lt _ hfit, by rw [h31_25]; rfl, ?_⟩
  change decodeWord w = _
  rw [major2D h31_25, decodeMajor2D, if_neg (by simp only [bits]; omega), if_neg (by simp only [bits]; omega), if_neg (by simp only [bits]; omega), if_neg (by simp only [bits]; omega), if_neg (by rw [h19_0]; decide), if_neg (by simp only [bits]; omega), if_neg (by simp only [bits]; omega), if_neg (by simp only [bits]; omega), if_neg (by simp only [bits]; omega), if_neg (by simp only [bits]; omega), if_pos h19_0]
  rw [fin_eq d h24_20]

theorem loop (v : LoopLevel) (a : Fin 32) (i : BitVec 15) : Statement (.loop v a i) := by
  intro _ _
  suffices key : ∀ w, w = 1543503872 + v.code * 1048576 + a.val * 32768 + i.toNat → decodes w (.loop v a i) none from decode_of rfl rfl (key _ rfl)
  intro w h
  have hfit : fits [(15, i.toNat), (5, a.val), (1, v.code), (4, 0), (7, 0x2E)] := ⟨i.isLt, a.isLt, (Nat.lt_of_lt_of_le (LoopLevel_code_lt v) (by decide)), by decide, by decide, trivial⟩
  have hpack := h.trans (show _ = pack _ by simp only [pack] <;> omega : _ = pack [(15, i.toNat), (5, a.val), (1, v.code), (4, 0), (7, 0x2E)])
  have h14_0 : bits w 14 0 = i.toNat := field_of hpack hfit 0
  have h19_15 : bits w 19 15 = a.val := field_of hpack hfit 1
  have h20_20 : bits w 20 20 = v.code := field_of hpack hfit 2
  have h24_21 : bits w 24 21 = 0 := field_of hpack hfit 3
  have h31_25 : bits w 31 25 = 0x2E := field_of hpack hfit 4
  refine ⟨hpack ▸ pack_lt _ hfit, by rw [h31_25]; rfl, ?_⟩
  change decodeWord w = _
  rw [major2E h31_25, decodeMajor2E, if_pos h24_21, h20_20, LoopLevel_ofCode v]
  simp only [named]
  rw [fin_eq a h19_15, vec_eq i h14_0]

theorem loopi (v : LoopLevel) (c : Fin 1024) (n : Fin 1024) : Statement (.loopi v c n) := by
  intro _ _
  suffices key : ∀ w, w = 1577058304 + v.code * 1048576 + c.val * 1024 + n.val → decodes w (.loopi v c n) none from decode_of rfl rfl (key _ rfl)
  intro w h
  have hfit : fits [(10, n.val), (10, c.val), (1, v.code), (4, 0), (7, 0x2F)] := ⟨n.isLt, c.isLt, (Nat.lt_of_lt_of_le (LoopLevel_code_lt v) (by decide)), by decide, by decide, trivial⟩
  have hpack := h.trans (show _ = pack _ by simp only [pack] <;> omega : _ = pack [(10, n.val), (10, c.val), (1, v.code), (4, 0), (7, 0x2F)])
  have h9_0 : bits w 9 0 = n.val := field_of hpack hfit 0
  have h19_10 : bits w 19 10 = c.val := field_of hpack hfit 1
  have h20_20 : bits w 20 20 = v.code := field_of hpack hfit 2
  have h24_21 : bits w 24 21 = 0 := field_of hpack hfit 3
  have h31_25 : bits w 31 25 = 0x2F := field_of hpack hfit 4
  refine ⟨hpack ▸ pack_lt _ hfit, by rw [h31_25]; rfl, ?_⟩
  change decodeWord w = _
  rw [major2F h31_25, decodeMajor2F, if_pos h24_21, h20_20, LoopLevel_ofCode v]
  simp only [named]
  rw [fin_eq c h19_10, fin_eq n h9_0]

theorem br (b : Fin 4) (c : Fin 4) (s : Bool) : Statement (.br b c s) := by
  intro _ _
  suffices key : ∀ w, w = 1610612736 + b.val * 8388608 + c.val * 2097152 + s.toNat * 1048576 → decodes w (.br b c s) none from decode_of rfl rfl (key _ rfl)
  intro w h
  have hfit : fits [(20, 0), (1, s.toNat), (2, c.val), (2, b.val), (7, 0x30)] := ⟨by decide, (Bool.toNat_lt s), c.isLt, b.isLt, by decide, trivial⟩
  have hpack := h.trans (show _ = pack _ by simp only [pack] <;> omega : _ = pack [(20, 0), (1, s.toNat), (2, c.val), (2, b.val), (7, 0x30)])
  have h19_0 : bits w 19 0 = 0 := field_of hpack hfit 0
  have h20_20 : bits w 20 20 = s.toNat := field_of hpack hfit 1
  have h22_21 : bits w 22 21 = c.val := field_of hpack hfit 2
  have h24_23 : bits w 24 23 = b.val := field_of hpack hfit 3
  have h31_25 : bits w 31 25 = 0x30 := field_of hpack hfit 4
  refine ⟨hpack ▸ pack_lt _ hfit, by rw [h31_25]; rfl, ?_⟩
  change decodeWord w = _
  rw [major30 h31_25, decodeMajor30, if_pos h19_0]
  rw [fin_eq b h24_23, fin_eq c h22_21, flag_eq s h20_20]

theorem brPn (b : Fin 4) (c : Fin 4) (s : Bool) : Statement (.brPn b c s) := by
  intro _ _
  suffices key : ∀ w, w = 1610612738 + b.val * 8388608 + c.val * 2097152 + s.toNat * 1048576 → decodes w (.brPn b c s) none from decode_of rfl rfl (key _ rfl)
  intro w h
  have hfit : fits [(20, 2), (1, s.toNat), (2, c.val), (2, b.val), (7, 0x30)] := ⟨by decide, (Bool.toNat_lt s), c.isLt, b.isLt, by decide, trivial⟩
  have hpack := h.trans (show _ = pack _ by simp only [pack] <;> omega : _ = pack [(20, 2), (1, s.toNat), (2, c.val), (2, b.val), (7, 0x30)])
  have h19_0 : bits w 19 0 = 2 := field_of hpack hfit 0
  have h20_20 : bits w 20 20 = s.toNat := field_of hpack hfit 1
  have h22_21 : bits w 22 21 = c.val := field_of hpack hfit 2
  have h24_23 : bits w 24 23 = b.val := field_of hpack hfit 3
  have h31_25 : bits w 31 25 = 0x30 := field_of hpack hfit 4
  refine ⟨hpack ▸ pack_lt _ hfit, by rw [h31_25]; rfl, ?_⟩
  change decodeWord w = _
  rw [major30 h31_25, decodeMajor30, if_neg (by rw [h19_0]; decide), if_pos h19_0]
  rw [fin_eq b h24_23, fin_eq c h22_21, flag_eq s h20_20]

theorem brPt (b : Fin 4) (c : Fin 4) (s : Bool) : Statement (.brPt b c s) := by
  intro _ _
  suffices key : ∀ w, w = 1610612739 + b.val * 8388608 + c.val * 2097152 + s.toNat * 1048576 → decodes w (.brPt b c s) none from decode_of rfl rfl (key _ rfl)
  intro w h
  have hfit : fits [(20, 3), (1, s.toNat), (2, c.val), (2, b.val), (7, 0x30)] := ⟨by decide, (Bool.toNat_lt s), c.isLt, b.isLt, by decide, trivial⟩
  have hpack := h.trans (show _ = pack _ by simp only [pack] <;> omega : _ = pack [(20, 3), (1, s.toNat), (2, c.val), (2, b.val), (7, 0x30)])
  have h19_0 : bits w 19 0 = 3 := field_of hpack hfit 0
  have h20_20 : bits w 20 20 = s.toNat := field_of hpack hfit 1
  have h22_21 : bits w 22 21 = c.val := field_of hpack hfit 2
  have h24_23 : bits w 24 23 = b.val := field_of hpack hfit 3
  have h31_25 : bits w 31 25 = 0x30 := field_of hpack hfit 4
  refine ⟨hpack ▸ pack_lt _ hfit, by rw [h31_25]; rfl, ?_⟩
  change decodeWord w = _
  rw [major30 h31_25, decodeMajor30, if_neg (by rw [h19_0]; decide), if_neg (by rw [h19_0]; decide), if_pos h19_0]
  rw [fin_eq b h24_23, fin_eq c h22_21, flag_eq s h20_20]

theorem jmp (b : Fin 4) : Statement (.jmp b) := by
  intro _ _
  suffices key : ∀ w, w = 1644167168 + b.val * 8388608 → decodes w (.jmp b) none from decode_of rfl rfl (key _ rfl)
  intro w h
  have hfit : fits [(23, 0), (2, b.val), (7, 0x31)] := ⟨by decide, b.isLt, by decide, trivial⟩
  have hpack := h.trans (show _ = pack _ by simp only [pack] <;> omega : _ = pack [(23, 0), (2, b.val), (7, 0x31)])
  have h22_0 : bits w 22 0 = 0 := field_of hpack hfit 0
  have h24_23 : bits w 24 23 = b.val := field_of hpack hfit 1
  have h31_25 : bits w 31 25 = 0x31 := field_of hpack hfit 2
  refine ⟨hpack ▸ pack_lt _ hfit, by rw [h31_25]; rfl, ?_⟩
  change decodeWord w = _
  rw [major31 h31_25, decodeMajor31, if_pos h22_0]
  rw [fin_eq b h24_23]

theorem call (b : Fin 4) (a : Fin 32) : Statement (.call b a) := by
  intro _ _
  suffices key : ∀ w, w = 1677721600 + b.val * 8388608 + a.val * 32768 → decodes w (.call b a) none from decode_of rfl rfl (key _ rfl)
  intro w h
  have hfit : fits [(15, 0), (5, a.val), (3, 0), (2, b.val), (7, 0x32)] := ⟨by decide, a.isLt, by decide, b.isLt, by decide, trivial⟩
  have hpack := h.trans (show _ = pack _ by simp only [pack] <;> omega : _ = pack [(15, 0), (5, a.val), (3, 0), (2, b.val), (7, 0x32)])
  have h14_0 : bits w 14 0 = 0 := field_of hpack hfit 0
  have h19_15 : bits w 19 15 = a.val := field_of hpack hfit 1
  have h22_20 : bits w 22 20 = 0 := field_of hpack hfit 2
  have h24_23 : bits w 24 23 = b.val := field_of hpack hfit 3
  have h31_25 : bits w 31 25 = 0x32 := field_of hpack hfit 4
  refine ⟨hpack ▸ pack_lt _ hfit, by rw [h31_25]; rfl, ?_⟩
  change decodeWord w = _
  rw [major32 h31_25, decodeMajor32, if_pos ⟨h22_20, h14_0⟩]
  rw [fin_eq b h24_23, fin_eq a h19_15]

theorem ret (a : Fin 32) : Statement (.ret a) := by
  intro _ _
  suffices key : ∀ w, w = 1711276032 + a.val * 32768 → decodes w (.ret a) none from decode_of rfl rfl (key _ rfl)
  intro w h
  have hfit : fits [(15, 0), (5, a.val), (5, 0), (7, 0x33)] := ⟨by decide, a.isLt, by decide, by decide, trivial⟩
  have hpack := h.trans (show _ = pack _ by simp only [pack] <;> omega : _ = pack [(15, 0), (5, a.val), (5, 0), (7, 0x33)])
  have h14_0 : bits w 14 0 = 0 := field_of hpack hfit 0
  have h19_15 : bits w 19 15 = a.val := field_of hpack hfit 1
  have h24_20 : bits w 24 20 = 0 := field_of hpack hfit 2
  have h31_25 : bits w 31 25 = 0x33 := field_of hpack hfit 3
  refine ⟨hpack ▸ pack_lt _ hfit, by rw [h31_25]; rfl, ?_⟩
  change decodeWord w = _
  rw [major33 h31_25, decodeMajor33, if_pos ⟨h24_20, h14_0⟩]
  rw [fin_eq a h19_15]

theorem vany (c : Fin 4) (k : Fin 8) : Statement (.vany c k) := by
  intro _ _
  suffices key : ∀ w, w = 1744830464 + c.val * 1048576 + k.val → decodes w (.vany c k) none from decode_of rfl rfl (key _ rfl)
  intro w h
  have hfit : fits [(3, k.val), (17, 0), (2, c.val), (3, 0), (7, 0x34)] := ⟨k.isLt, by decide, c.isLt, by decide, by decide, trivial⟩
  have hpack := h.trans (show _ = pack _ by simp only [pack] <;> omega : _ = pack [(3, k.val), (17, 0), (2, c.val), (3, 0), (7, 0x34)])
  have h2_0 : bits w 2 0 = k.val := field_of hpack hfit 0
  have h19_3 : bits w 19 3 = 0 := field_of hpack hfit 1
  have h21_20 : bits w 21 20 = c.val := field_of hpack hfit 2
  have h24_22 : bits w 24 22 = 0 := field_of hpack hfit 3
  have h31_25 : bits w 31 25 = 0x34 := field_of hpack hfit 4
  refine ⟨hpack ▸ pack_lt _ hfit, by rw [h31_25]; rfl, ?_⟩
  change decodeWord w = _
  rw [major34 h31_25, decodeMajor34, if_pos ⟨h24_22, h19_3⟩]
  rw [fin_eq c h21_20, fin_eq k h2_0]

theorem vall (c : Fin 4) (k : Fin 8) : Statement (.vall c k) := by
  intro _ _
  suffices key : ∀ w, w = 1778384896 + c.val * 1048576 + k.val → decodes w (.vall c k) none from decode_of rfl rfl (key _ rfl)
  intro w h
  have hfit : fits [(3, k.val), (17, 0), (2, c.val), (3, 0), (7, 0x35)] := ⟨k.isLt, by decide, c.isLt, by decide, by decide, trivial⟩
  have hpack := h.trans (show _ = pack _ by simp only [pack] <;> omega : _ = pack [(3, k.val), (17, 0), (2, c.val), (3, 0), (7, 0x35)])
  have h2_0 : bits w 2 0 = k.val := field_of hpack hfit 0
  have h19_3 : bits w 19 3 = 0 := field_of hpack hfit 1
  have h21_20 : bits w 21 20 = c.val := field_of hpack hfit 2
  have h24_22 : bits w 24 22 = 0 := field_of hpack hfit 3
  have h31_25 : bits w 31 25 = 0x35 := field_of hpack hfit 4
  refine ⟨hpack ▸ pack_lt _ hfit, by rw [h31_25]; rfl, ?_⟩
  change decodeWord w = _
  rw [major35 h31_25, decodeMajor35, if_pos ⟨h24_22, h19_3⟩]
  rw [fin_eq c h21_20, fin_eq k h2_0]

theorem vcnt (d : Fin 32) (k : Fin 8) : Statement (.vcnt d k) := by
  intro _ _
  suffices key : ∀ w, w = 1811939328 + d.val * 1048576 + k.val → decodes w (.vcnt d k) none from decode_of rfl rfl (key _ rfl)
  intro w h
  have hfit : fits [(3, k.val), (17, 0), (5, d.val), (7, 0x36)] := ⟨k.isLt, by decide, d.isLt, by decide, trivial⟩
  have hpack := h.trans (show _ = pack _ by simp only [pack] <;> omega : _ = pack [(3, k.val), (17, 0), (5, d.val), (7, 0x36)])
  have h2_0 : bits w 2 0 = k.val := field_of hpack hfit 0
  have h19_3 : bits w 19 3 = 0 := field_of hpack hfit 1
  have h24_20 : bits w 24 20 = d.val := field_of hpack hfit 2
  have h31_25 : bits w 31 25 = 0x36 := field_of hpack hfit 3
  refine ⟨hpack ▸ pack_lt _ hfit, by rw [h31_25]; rfl, ?_⟩
  change decodeWord w = _
  rw [major36 h31_25, decodeMajor36, if_pos h19_3]
  rw [fin_eq d h24_20, fin_eq k h2_0]

theorem popv (d : Fin 32) : Statement (.popv d) := by
  intro _ _
  suffices key : ∀ w, w = 1845493760 + d.val * 1048576 → decodes w (.popv d) none from decode_of rfl rfl (key _ rfl)
  intro w h
  have hfit : fits [(20, 0), (5, d.val), (7, 0x37)] := ⟨by decide, d.isLt, by decide, trivial⟩
  have hpack := h.trans (show _ = pack _ by simp only [pack] <;> omega : _ = pack [(20, 0), (5, d.val), (7, 0x37)])
  have h19_0 : bits w 19 0 = 0 := field_of hpack hfit 0
  have h24_20 : bits w 24 20 = d.val := field_of hpack hfit 1
  have h31_25 : bits w 31 25 = 0x37 := field_of hpack hfit 2
  refine ⟨hpack ▸ pack_lt _ hfit, by rw [h31_25]; rfl, ?_⟩
  change decodeWord w = _
  rw [major37 h31_25, decodeMajor37, if_pos h19_0]
  rw [fin_eq d h24_20]

theorem pushc (a : Fin 32) : Statement (.pushc a) := by
  intro _ _
  suffices key : ∀ w, w = 1879048192 + a.val * 32768 → decodes w (.pushc a) none from decode_of rfl rfl (key _ rfl)
  intro w h
  have hfit : fits [(15, 0), (5, a.val), (5, 0), (7, 0x38)] := ⟨by decide, a.isLt, by decide, by decide, trivial⟩
  have hpack := h.trans (show _ = pack _ by simp only [pack] <;> omega : _ = pack [(15, 0), (5, a.val), (5, 0), (7, 0x38)])
  have h14_0 : bits w 14 0 = 0 := field_of hpack hfit 0
  have h19_15 : bits w 19 15 = a.val := field_of hpack hfit 1
  have h24_20 : bits w 24 20 = 0 := field_of hpack hfit 2
  have h31_25 : bits w 31 25 = 0x38 := field_of hpack hfit 3
  refine ⟨hpack ▸ pack_lt _ hfit, by rw [h31_25]; rfl, ?_⟩
  change decodeWord w = _
  rw [major38 h31_25, decodeMajor38, if_pos ⟨h24_20, h14_0⟩]
  rw [fin_eq a h19_15]

theorem pushd (a : Fin 32) : Statement (.pushd a) := by
  intro _ _
  suffices key : ∀ w, w = 1912602624 + a.val * 32768 → decodes w (.pushd a) none from decode_of rfl rfl (key _ rfl)
  intro w h
  have hfit : fits [(15, 0), (5, a.val), (5, 0), (7, 0x39)] := ⟨by decide, a.isLt, by decide, by decide, trivial⟩
  have hpack := h.trans (show _ = pack _ by simp only [pack] <;> omega : _ = pack [(15, 0), (5, a.val), (5, 0), (7, 0x39)])
  have h14_0 : bits w 14 0 = 0 := field_of hpack hfit 0
  have h19_15 : bits w 19 15 = a.val := field_of hpack hfit 1
  have h24_20 : bits w 24 20 = 0 := field_of hpack hfit 2
  have h31_25 : bits w 31 25 = 0x39 := field_of hpack hfit 3
  refine ⟨hpack ▸ pack_lt _ hfit, by rw [h31_25]; rfl, ?_⟩
  change decodeWord w = _
  rw [major39 h31_25, decodeMajor39, if_pos ⟨h24_20, h14_0⟩]
  rw [fin_eq a h19_15]

theorem mktail (a : Fin 32) : Statement (.mktail a) := by
  intro _ _
  suffices key : ∀ w, w = 1946157056 + a.val * 32768 → decodes w (.mktail a) none from decode_of rfl rfl (key _ rfl)
  intro w h
  have hfit : fits [(15, 0), (5, a.val), (5, 0), (7, 0x3A)] := ⟨by decide, a.isLt, by decide, by decide, trivial⟩
  have hpack := h.trans (show _ = pack _ by simp only [pack] <;> omega : _ = pack [(15, 0), (5, a.val), (5, 0), (7, 0x3A)])
  have h14_0 : bits w 14 0 = 0 := field_of hpack hfit 0
  have h19_15 : bits w 19 15 = a.val := field_of hpack hfit 1
  have h24_20 : bits w 24 20 = 0 := field_of hpack hfit 2
  have h31_25 : bits w 31 25 = 0x3A := field_of hpack hfit 3
  refine ⟨hpack ▸ pack_lt _ hfit, by rw [h31_25]; rfl, ?_⟩
  change decodeWord w = _
  rw [major3A h31_25, decodeMajor3A, if_pos ⟨h24_20, h14_0⟩]
  rw [fin_eq a h19_15]

theorem endUnit : Statement (.endUnit) := by
  intro _ _
  suffices key : ∀ w, w = 1979711488 → decodes w (.endUnit) none from decode_of rfl rfl (key _ rfl)
  intro w h
  have hfit : fits [(25, 0), (7, 0x3B)] := ⟨by decide, by decide, trivial⟩
  have hpack := h.trans (show _ = pack _ by simp only [pack] <;> omega : _ = pack [(25, 0), (7, 0x3B)])
  have h24_0 : bits w 24 0 = 0 := field_of hpack hfit 0
  have h31_25 : bits w 31 25 = 0x3B := field_of hpack hfit 1
  refine ⟨hpack ▸ pack_lt _ hfit, by rw [h31_25]; rfl, ?_⟩
  change decodeWord w = _
  rw [major3B h31_25, decodeMajor3B, if_pos h24_0]

theorem mov (d : Fin 256) (a : Fin 16) (k : Fin 8) (u : Bool) : Statement (.mov d a k u) := by
  intro _ _
  suffices key : ∀ w, w = 2147483648 + d.val * 131072 + a.val * 8192 + k.val * 4 + u.toNat * 2 → decodes w (.mov d a k u) none from decode_of rfl rfl (key _ rfl)
  intro w h
  have hfit : fits [(1, 0), (1, u.toNat), (3, k.val), (8, 0), (4, a.val), (8, d.val), (7, 0x40)] := ⟨by decide, (Bool.toNat_lt u), k.isLt, by decide, a.isLt, d.isLt, by decide, trivial⟩
  have hpack := h.trans (show _ = pack _ by simp only [pack] <;> omega : _ = pack [(1, 0), (1, u.toNat), (3, k.val), (8, 0), (4, a.val), (8, d.val), (7, 0x40)])
  have h0_0 : bits w 0 0 = 0 := field_of hpack hfit 0
  have h1_1 : bits w 1 1 = u.toNat := field_of hpack hfit 1
  have h4_2 : bits w 4 2 = k.val := field_of hpack hfit 2
  have h12_5 : bits w 12 5 = 0 := field_of hpack hfit 3
  have h16_13 : bits w 16 13 = a.val := field_of hpack hfit 4
  have h24_17 : bits w 24 17 = d.val := field_of hpack hfit 5
  have h31_25 : bits w 31 25 = 0x40 := field_of hpack hfit 6
  refine ⟨hpack ▸ pack_lt _ hfit, by rw [h31_25]; rfl, ?_⟩
  change decodeWord w = _
  rw [major40 h31_25, decodeMajor40, if_pos ⟨h12_5, h0_0⟩]
  rw [fin_eq d h24_17, fin_eq a h16_13, fin_eq k h4_2, flag_eq u h1_1]

theorem movMain (d : Fin 256) (n : Fin 128) (k : Fin 8) : Statement (.movMain d n k) := by
  intro _ _
  suffices key : ∀ w, w = 2181038080 + d.val * 131072 + n.val * 32 + k.val * 4 → decodes w (.movMain d n k) none from decode_of rfl rfl (key _ rfl)
  intro w h
  have hfit : fits [(2, 0), (3, k.val), (7, n.val), (5, 0), (8, d.val), (7, 0x41)] := ⟨by decide, k.isLt, n.isLt, by decide, d.isLt, by decide, trivial⟩
  have hpack := h.trans (show _ = pack _ by simp only [pack] <;> omega : _ = pack [(2, 0), (3, k.val), (7, n.val), (5, 0), (8, d.val), (7, 0x41)])
  have h1_0 : bits w 1 0 = 0 := field_of hpack hfit 0
  have h4_2 : bits w 4 2 = k.val := field_of hpack hfit 1
  have h11_5 : bits w 11 5 = n.val := field_of hpack hfit 2
  have h16_12 : bits w 16 12 = 0 := field_of hpack hfit 3
  have h24_17 : bits w 24 17 = d.val := field_of hpack hfit 4
  have h31_25 : bits w 31 25 = 0x41 := field_of hpack hfit 5
  refine ⟨hpack ▸ pack_lt _ hfit, by rw [h31_25]; rfl, ?_⟩
  change decodeWord w = _
  rw [major41 h31_25, decodeMajor41, if_pos ⟨h16_12, h1_0⟩]
  rw [fin_eq d h24_17, fin_eq n h11_5, fin_eq k h4_2]

theorem bcast (d : Fin 256) (a : Fin 16) (i : Fin 256) (k : Fin 8) (u : Bool) : Statement (.bcast d a i k u) := by
  intro _ _
  suffices key : ∀ w, w = 2214592512 + d.val * 131072 + a.val * 8192 + i.val * 32 + k.val * 4 + u.toNat * 2 → decodes w (.bcast d a i k u) none from decode_of rfl rfl (key _ rfl)
  intro w h
  have hfit : fits [(1, 0), (1, u.toNat), (3, k.val), (8, i.val), (4, a.val), (8, d.val), (7, 0x42)] := ⟨by decide, (Bool.toNat_lt u), k.isLt, i.isLt, a.isLt, d.isLt, by decide, trivial⟩
  have hpack := h.trans (show _ = pack _ by simp only [pack] <;> omega : _ = pack [(1, 0), (1, u.toNat), (3, k.val), (8, i.val), (4, a.val), (8, d.val), (7, 0x42)])
  have h0_0 : bits w 0 0 = 0 := field_of hpack hfit 0
  have h1_1 : bits w 1 1 = u.toNat := field_of hpack hfit 1
  have h4_2 : bits w 4 2 = k.val := field_of hpack hfit 2
  have h12_5 : bits w 12 5 = i.val := field_of hpack hfit 3
  have h16_13 : bits w 16 13 = a.val := field_of hpack hfit 4
  have h24_17 : bits w 24 17 = d.val := field_of hpack hfit 5
  have h31_25 : bits w 31 25 = 0x42 := field_of hpack hfit 6
  refine ⟨hpack ▸ pack_lt _ hfit, by rw [h31_25]; rfl, ?_⟩
  change decodeWord w = _
  rw [major42 h31_25, decodeMajor42, if_pos h0_0]
  rw [fin_eq d h24_17, fin_eq a h16_13, fin_eq i h12_5, fin_eq k h4_2, flag_eq u h1_1]

theorem iota (d : Fin 256) (t : ElemType) (k : Fin 8) : Statement (.iota d t k) := by
  intro _ _
  suffices key : ∀ w, w = 2248146944 + d.val * 131072 + t.code * 32 + k.val * 4 → decodes w (.iota d t k) none from decode_of rfl rfl (key _ rfl)
  intro w h
  have hfit : fits [(2, 0), (3, k.val), (4, t.code), (8, 0), (8, d.val), (7, 0x43)] := ⟨by decide, k.isLt, (Nat.lt_of_lt_of_le (ElemType_code_lt t) (by decide)), by decide, d.isLt, by decide, trivial⟩
  have hpack := h.trans (show _ = pack _ by simp only [pack] <;> omega : _ = pack [(2, 0), (3, k.val), (4, t.code), (8, 0), (8, d.val), (7, 0x43)])
  have h1_0 : bits w 1 0 = 0 := field_of hpack hfit 0
  have h4_2 : bits w 4 2 = k.val := field_of hpack hfit 1
  have h8_5 : bits w 8 5 = t.code := field_of hpack hfit 2
  have h16_9 : bits w 16 9 = 0 := field_of hpack hfit 3
  have h24_17 : bits w 24 17 = d.val := field_of hpack hfit 4
  have h31_25 : bits w 31 25 = 0x43 := field_of hpack hfit 5
  refine ⟨hpack ▸ pack_lt _ hfit, by rw [h31_25]; rfl, ?_⟩
  change decodeWord w = _
  rw [major43 h31_25, decodeMajor43, if_pos ⟨h16_9, h1_0⟩, h8_5, ElemType_ofCode t]
  simp only [named]
  rw [fin_eq d h24_17, fin_eq k h4_2]

theorem zero (d : Fin 256) (k : Fin 8) : Statement (.zero d k) := by
  intro _ _
  suffices key : ∀ w, w = 2281701376 + d.val * 131072 + k.val * 4 → decodes w (.zero d k) none from decode_of rfl rfl (key _ rfl)
  intro w h
  have hfit : fits [(2, 0), (3, k.val), (12, 0), (8, d.val), (7, 0x44)] := ⟨by decide, k.isLt, by decide, d.isLt, by decide, trivial⟩
  have hpack := h.trans (show _ = pack _ by simp only [pack] <;> omega : _ = pack [(2, 0), (3, k.val), (12, 0), (8, d.val), (7, 0x44)])
  have h1_0 : bits w 1 0 = 0 := field_of hpack hfit 0
  have h4_2 : bits w 4 2 = k.val := field_of hpack hfit 1
  have h16_5 : bits w 16 5 = 0 := field_of hpack hfit 2
  have h24_17 : bits w 24 17 = d.val := field_of hpack hfit 3
  have h31_25 : bits w 31 25 = 0x44 := field_of hpack hfit 4
  refine ⟨hpack ▸ pack_lt _ hfit, by rw [h31_25]; rfl, ?_⟩
  change decodeWord w = _
  rw [major44 h31_25, decodeMajor44, if_pos ⟨h16_5, h1_0⟩]
  rw [fin_eq d h24_17, fin_eq k h4_2]

theorem extr (a : Fin 16) (i : Fin 256) (u : Bool) : Statement (.extr a i u) := by
  intro _ _
  suffices key : ∀ w, w = 2317484032 + a.val * 8192 + i.val * 32 + u.toNat * 2 → decodes w (.extr a i u) none from decode_of rfl rfl (key _ rfl)
  intro w h
  have hfit : fits [(1, 0), (1, u.toNat), (3, 0), (8, i.val), (4, a.val), (8, 17), (7, 0x45)] := ⟨by decide, (Bool.toNat_lt u), by decide, i.isLt, a.isLt, by decide, by decide, trivial⟩
  have hpack := h.trans (show _ = pack _ by simp only [pack] <;> omega : _ = pack [(1, 0), (1, u.toNat), (3, 0), (8, i.val), (4, a.val), (8, 17), (7, 0x45)])
  have h0_0 : bits w 0 0 = 0 := field_of hpack hfit 0
  have h1_1 : bits w 1 1 = u.toNat := field_of hpack hfit 1
  have h4_2 : bits w 4 2 = 0 := field_of hpack hfit 2
  have h12_5 : bits w 12 5 = i.val := field_of hpack hfit 3
  have h16_13 : bits w 16 13 = a.val := field_of hpack hfit 4
  have h24_17 : bits w 24 17 = 17 := field_of hpack hfit 5
  have h31_25 : bits w 31 25 = 0x45 := field_of hpack hfit 6
  refine ⟨hpack ▸ pack_lt _ hfit, by rw [h31_25]; rfl, ?_⟩
  change decodeWord w = _
  rw [major45 h31_25, decodeMajor45, if_pos ⟨h24_17, h4_2, h0_0⟩]
  rw [fin_eq a h16_13, fin_eq i h12_5, flag_eq u h1_1]

theorem fadd (d : Fin 256) (a : Fin 16) (b : Fin 16) (t : ElemType) (k : Fin 8) (u : Bool) (v : Bool) : Statement (.fadd d a b t k u v) := by
  intro _ _
  suffices key : ∀ w, w = 2348810240 + d.val * 131072 + a.val * 8192 + b.val * 512 + t.code * 32 + k.val * 4 + u.toNat * 2 + v.toNat → decodes w (.fadd d a b t k u v) none from decode_of rfl rfl (key _ rfl)
  intro w h
  have hfit : fits [(1, v.toNat), (1, u.toNat), (3, k.val), (4, t.code), (4, b.val), (4, a.val), (8, d.val), (7, 0x46)] := ⟨(Bool.toNat_lt v), (Bool.toNat_lt u), k.isLt, (Nat.lt_of_lt_of_le (ElemType_code_lt t) (by decide)), b.isLt, a.isLt, d.isLt, by decide, trivial⟩
  have hpack := h.trans (show _ = pack _ by simp only [pack] <;> omega : _ = pack [(1, v.toNat), (1, u.toNat), (3, k.val), (4, t.code), (4, b.val), (4, a.val), (8, d.val), (7, 0x46)])
  have h0_0 : bits w 0 0 = v.toNat := field_of hpack hfit 0
  have h1_1 : bits w 1 1 = u.toNat := field_of hpack hfit 1
  have h4_2 : bits w 4 2 = k.val := field_of hpack hfit 2
  have h8_5 : bits w 8 5 = t.code := field_of hpack hfit 3
  have h12_9 : bits w 12 9 = b.val := field_of hpack hfit 4
  have h16_13 : bits w 16 13 = a.val := field_of hpack hfit 5
  have h24_17 : bits w 24 17 = d.val := field_of hpack hfit 6
  have h31_25 : bits w 31 25 = 0x46 := field_of hpack hfit 7
  refine ⟨hpack ▸ pack_lt _ hfit, by rw [h31_25]; rfl, ?_⟩
  change decodeWord w = _
  rw [major46 h31_25, decodeMajor46, h8_5, ElemType_ofCode t]
  simp only [named]
  rw [fin_eq d h24_17, fin_eq a h16_13, fin_eq b h12_9, fin_eq k h4_2, flag_eq u h1_1, flag_eq v h0_0]

theorem fsub (d : Fin 256) (a : Fin 16) (b : Fin 16) (t : ElemType) (k : Fin 8) (u : Bool) (v : Bool) : Statement (.fsub d a b t k u v) := by
  intro _ _
  suffices key : ∀ w, w = 2382364672 + d.val * 131072 + a.val * 8192 + b.val * 512 + t.code * 32 + k.val * 4 + u.toNat * 2 + v.toNat → decodes w (.fsub d a b t k u v) none from decode_of rfl rfl (key _ rfl)
  intro w h
  have hfit : fits [(1, v.toNat), (1, u.toNat), (3, k.val), (4, t.code), (4, b.val), (4, a.val), (8, d.val), (7, 0x47)] := ⟨(Bool.toNat_lt v), (Bool.toNat_lt u), k.isLt, (Nat.lt_of_lt_of_le (ElemType_code_lt t) (by decide)), b.isLt, a.isLt, d.isLt, by decide, trivial⟩
  have hpack := h.trans (show _ = pack _ by simp only [pack] <;> omega : _ = pack [(1, v.toNat), (1, u.toNat), (3, k.val), (4, t.code), (4, b.val), (4, a.val), (8, d.val), (7, 0x47)])
  have h0_0 : bits w 0 0 = v.toNat := field_of hpack hfit 0
  have h1_1 : bits w 1 1 = u.toNat := field_of hpack hfit 1
  have h4_2 : bits w 4 2 = k.val := field_of hpack hfit 2
  have h8_5 : bits w 8 5 = t.code := field_of hpack hfit 3
  have h12_9 : bits w 12 9 = b.val := field_of hpack hfit 4
  have h16_13 : bits w 16 13 = a.val := field_of hpack hfit 5
  have h24_17 : bits w 24 17 = d.val := field_of hpack hfit 6
  have h31_25 : bits w 31 25 = 0x47 := field_of hpack hfit 7
  refine ⟨hpack ▸ pack_lt _ hfit, by rw [h31_25]; rfl, ?_⟩
  change decodeWord w = _
  rw [major47 h31_25, decodeMajor47, h8_5, ElemType_ofCode t]
  simp only [named]
  rw [fin_eq d h24_17, fin_eq a h16_13, fin_eq b h12_9, fin_eq k h4_2, flag_eq u h1_1, flag_eq v h0_0]

theorem fmul (d : Fin 256) (a : Fin 16) (b : Fin 16) (t : ElemType) (k : Fin 8) (u : Bool) (v : Bool) : Statement (.fmul d a b t k u v) := by
  intro _ _
  suffices key : ∀ w, w = 2415919104 + d.val * 131072 + a.val * 8192 + b.val * 512 + t.code * 32 + k.val * 4 + u.toNat * 2 + v.toNat → decodes w (.fmul d a b t k u v) none from decode_of rfl rfl (key _ rfl)
  intro w h
  have hfit : fits [(1, v.toNat), (1, u.toNat), (3, k.val), (4, t.code), (4, b.val), (4, a.val), (8, d.val), (7, 0x48)] := ⟨(Bool.toNat_lt v), (Bool.toNat_lt u), k.isLt, (Nat.lt_of_lt_of_le (ElemType_code_lt t) (by decide)), b.isLt, a.isLt, d.isLt, by decide, trivial⟩
  have hpack := h.trans (show _ = pack _ by simp only [pack] <;> omega : _ = pack [(1, v.toNat), (1, u.toNat), (3, k.val), (4, t.code), (4, b.val), (4, a.val), (8, d.val), (7, 0x48)])
  have h0_0 : bits w 0 0 = v.toNat := field_of hpack hfit 0
  have h1_1 : bits w 1 1 = u.toNat := field_of hpack hfit 1
  have h4_2 : bits w 4 2 = k.val := field_of hpack hfit 2
  have h8_5 : bits w 8 5 = t.code := field_of hpack hfit 3
  have h12_9 : bits w 12 9 = b.val := field_of hpack hfit 4
  have h16_13 : bits w 16 13 = a.val := field_of hpack hfit 5
  have h24_17 : bits w 24 17 = d.val := field_of hpack hfit 6
  have h31_25 : bits w 31 25 = 0x48 := field_of hpack hfit 7
  refine ⟨hpack ▸ pack_lt _ hfit, by rw [h31_25]; rfl, ?_⟩
  change decodeWord w = _
  rw [major48 h31_25, decodeMajor48, h8_5, ElemType_ofCode t]
  simp only [named]
  rw [fin_eq d h24_17, fin_eq a h16_13, fin_eq b h12_9, fin_eq k h4_2, flag_eq u h1_1, flag_eq v h0_0]

theorem fmin (d : Fin 256) (a : Fin 16) (b : Fin 16) (t : ElemType) (k : Fin 8) (u : Bool) (v : Bool) : Statement (.fmin d a b t k u v) := by
  intro _ _
  suffices key : ∀ w, w = 2449473536 + d.val * 131072 + a.val * 8192 + b.val * 512 + t.code * 32 + k.val * 4 + u.toNat * 2 + v.toNat → decodes w (.fmin d a b t k u v) none from decode_of rfl rfl (key _ rfl)
  intro w h
  have hfit : fits [(1, v.toNat), (1, u.toNat), (3, k.val), (4, t.code), (4, b.val), (4, a.val), (8, d.val), (7, 0x49)] := ⟨(Bool.toNat_lt v), (Bool.toNat_lt u), k.isLt, (Nat.lt_of_lt_of_le (ElemType_code_lt t) (by decide)), b.isLt, a.isLt, d.isLt, by decide, trivial⟩
  have hpack := h.trans (show _ = pack _ by simp only [pack] <;> omega : _ = pack [(1, v.toNat), (1, u.toNat), (3, k.val), (4, t.code), (4, b.val), (4, a.val), (8, d.val), (7, 0x49)])
  have h0_0 : bits w 0 0 = v.toNat := field_of hpack hfit 0
  have h1_1 : bits w 1 1 = u.toNat := field_of hpack hfit 1
  have h4_2 : bits w 4 2 = k.val := field_of hpack hfit 2
  have h8_5 : bits w 8 5 = t.code := field_of hpack hfit 3
  have h12_9 : bits w 12 9 = b.val := field_of hpack hfit 4
  have h16_13 : bits w 16 13 = a.val := field_of hpack hfit 5
  have h24_17 : bits w 24 17 = d.val := field_of hpack hfit 6
  have h31_25 : bits w 31 25 = 0x49 := field_of hpack hfit 7
  refine ⟨hpack ▸ pack_lt _ hfit, by rw [h31_25]; rfl, ?_⟩
  change decodeWord w = _
  rw [major49 h31_25, decodeMajor49, h8_5, ElemType_ofCode t]
  simp only [named]
  rw [fin_eq d h24_17, fin_eq a h16_13, fin_eq b h12_9, fin_eq k h4_2, flag_eq u h1_1, flag_eq v h0_0]

theorem fmax (d : Fin 256) (a : Fin 16) (b : Fin 16) (t : ElemType) (k : Fin 8) (u : Bool) (v : Bool) : Statement (.fmax d a b t k u v) := by
  intro _ _
  suffices key : ∀ w, w = 2483027968 + d.val * 131072 + a.val * 8192 + b.val * 512 + t.code * 32 + k.val * 4 + u.toNat * 2 + v.toNat → decodes w (.fmax d a b t k u v) none from decode_of rfl rfl (key _ rfl)
  intro w h
  have hfit : fits [(1, v.toNat), (1, u.toNat), (3, k.val), (4, t.code), (4, b.val), (4, a.val), (8, d.val), (7, 0x4A)] := ⟨(Bool.toNat_lt v), (Bool.toNat_lt u), k.isLt, (Nat.lt_of_lt_of_le (ElemType_code_lt t) (by decide)), b.isLt, a.isLt, d.isLt, by decide, trivial⟩
  have hpack := h.trans (show _ = pack _ by simp only [pack] <;> omega : _ = pack [(1, v.toNat), (1, u.toNat), (3, k.val), (4, t.code), (4, b.val), (4, a.val), (8, d.val), (7, 0x4A)])
  have h0_0 : bits w 0 0 = v.toNat := field_of hpack hfit 0
  have h1_1 : bits w 1 1 = u.toNat := field_of hpack hfit 1
  have h4_2 : bits w 4 2 = k.val := field_of hpack hfit 2
  have h8_5 : bits w 8 5 = t.code := field_of hpack hfit 3
  have h12_9 : bits w 12 9 = b.val := field_of hpack hfit 4
  have h16_13 : bits w 16 13 = a.val := field_of hpack hfit 5
  have h24_17 : bits w 24 17 = d.val := field_of hpack hfit 6
  have h31_25 : bits w 31 25 = 0x4A := field_of hpack hfit 7
  refine ⟨hpack ▸ pack_lt _ hfit, by rw [h31_25]; rfl, ?_⟩
  change decodeWord w = _
  rw [major4A h31_25, decodeMajor4A, h8_5, ElemType_ofCode t]
  simp only [named]
  rw [fin_eq d h24_17, fin_eq a h16_13, fin_eq b h12_9, fin_eq k h4_2, flag_eq u h1_1, flag_eq v h0_0]

theorem fcmp (x : FCond) (p : Fin 8) (a : Fin 16) (b : Fin 16) (t : ElemType) (k : Fin 8) (u : Bool) (v : Bool) : Statement (.fcmp x p a b t k u v) := by
  intro _ _
  suffices key : ∀ w, w = 2516582400 + x.code * 1048576 + p.val * 131072 + a.val * 8192 + b.val * 512 + t.code * 32 + k.val * 4 + u.toNat * 2 + v.toNat → decodes w (.fcmp x p a b t k u v) none from decode_of rfl rfl (key _ rfl)
  intro w h
  have hfit : fits [(1, v.toNat), (1, u.toNat), (3, k.val), (4, t.code), (4, b.val), (4, a.val), (3, p.val), (5, x.code), (7, 0x4B)] := ⟨(Bool.toNat_lt v), (Bool.toNat_lt u), k.isLt, (Nat.lt_of_lt_of_le (ElemType_code_lt t) (by decide)), b.isLt, a.isLt, p.isLt, (Nat.lt_of_lt_of_le (FCond_code_lt x) (by decide)), by decide, trivial⟩
  have hpack := h.trans (show _ = pack _ by simp only [pack] <;> omega : _ = pack [(1, v.toNat), (1, u.toNat), (3, k.val), (4, t.code), (4, b.val), (4, a.val), (3, p.val), (5, x.code), (7, 0x4B)])
  have h0_0 : bits w 0 0 = v.toNat := field_of hpack hfit 0
  have h1_1 : bits w 1 1 = u.toNat := field_of hpack hfit 1
  have h4_2 : bits w 4 2 = k.val := field_of hpack hfit 2
  have h8_5 : bits w 8 5 = t.code := field_of hpack hfit 3
  have h12_9 : bits w 12 9 = b.val := field_of hpack hfit 4
  have h16_13 : bits w 16 13 = a.val := field_of hpack hfit 5
  have h19_17 : bits w 19 17 = p.val := field_of hpack hfit 6
  have h24_20 : bits w 24 20 = x.code := field_of hpack hfit 7
  have h31_25 : bits w 31 25 = 0x4B := field_of hpack hfit 8
  refine ⟨hpack ▸ pack_lt _ hfit, by rw [h31_25]; rfl, ?_⟩
  change decodeWord w = _
  rw [major4B h31_25, decodeMajor4B, h24_20, FCond_ofCode x, h8_5, ElemType_ofCode t]
  simp only [named]
  rw [fin_eq p h19_17, fin_eq a h16_13, fin_eq b h12_9, fin_eq k h4_2, flag_eq u h1_1, flag_eq v h0_0]

theorem fabs (d : Fin 256) (a : Fin 16) (t : ElemType) (k : Fin 8) (u : Bool) : Statement (.fabs d a t k u) := by
  intro _ _
  suffices key : ∀ w, w = 2550136832 + d.val * 131072 + a.val * 8192 + t.code * 32 + k.val * 4 + u.toNat * 2 → decodes w (.fabs d a t k u) none from decode_of rfl rfl (key _ rfl)
  intro w h
  have hfit : fits [(1, 0), (1, u.toNat), (3, k.val), (4, t.code), (4, 0), (4, a.val), (8, d.val), (7, 0x4C)] := ⟨by decide, (Bool.toNat_lt u), k.isLt, (Nat.lt_of_lt_of_le (ElemType_code_lt t) (by decide)), by decide, a.isLt, d.isLt, by decide, trivial⟩
  have hpack := h.trans (show _ = pack _ by simp only [pack] <;> omega : _ = pack [(1, 0), (1, u.toNat), (3, k.val), (4, t.code), (4, 0), (4, a.val), (8, d.val), (7, 0x4C)])
  have h0_0 : bits w 0 0 = 0 := field_of hpack hfit 0
  have h1_1 : bits w 1 1 = u.toNat := field_of hpack hfit 1
  have h4_2 : bits w 4 2 = k.val := field_of hpack hfit 2
  have h8_5 : bits w 8 5 = t.code := field_of hpack hfit 3
  have h12_9 : bits w 12 9 = 0 := field_of hpack hfit 4
  have h16_13 : bits w 16 13 = a.val := field_of hpack hfit 5
  have h24_17 : bits w 24 17 = d.val := field_of hpack hfit 6
  have h31_25 : bits w 31 25 = 0x4C := field_of hpack hfit 7
  refine ⟨hpack ▸ pack_lt _ hfit, by rw [h31_25]; rfl, ?_⟩
  change decodeWord w = _
  rw [major4C h31_25, decodeMajor4C, if_pos ⟨h12_9, h0_0⟩, h8_5, ElemType_ofCode t]
  simp only [named]
  rw [fin_eq d h24_17, fin_eq a h16_13, fin_eq k h4_2, flag_eq u h1_1]

theorem fneg (d : Fin 256) (a : Fin 16) (t : ElemType) (k : Fin 8) (u : Bool) : Statement (.fneg d a t k u) := by
  intro _ _
  suffices key : ∀ w, w = 2550137344 + d.val * 131072 + a.val * 8192 + t.code * 32 + k.val * 4 + u.toNat * 2 → decodes w (.fneg d a t k u) none from decode_of rfl rfl (key _ rfl)
  intro w h
  have hfit : fits [(1, 0), (1, u.toNat), (3, k.val), (4, t.code), (4, 1), (4, a.val), (8, d.val), (7, 0x4C)] := ⟨by decide, (Bool.toNat_lt u), k.isLt, (Nat.lt_of_lt_of_le (ElemType_code_lt t) (by decide)), by decide, a.isLt, d.isLt, by decide, trivial⟩
  have hpack := h.trans (show _ = pack _ by simp only [pack] <;> omega : _ = pack [(1, 0), (1, u.toNat), (3, k.val), (4, t.code), (4, 1), (4, a.val), (8, d.val), (7, 0x4C)])
  have h0_0 : bits w 0 0 = 0 := field_of hpack hfit 0
  have h1_1 : bits w 1 1 = u.toNat := field_of hpack hfit 1
  have h4_2 : bits w 4 2 = k.val := field_of hpack hfit 2
  have h8_5 : bits w 8 5 = t.code := field_of hpack hfit 3
  have h12_9 : bits w 12 9 = 1 := field_of hpack hfit 4
  have h16_13 : bits w 16 13 = a.val := field_of hpack hfit 5
  have h24_17 : bits w 24 17 = d.val := field_of hpack hfit 6
  have h31_25 : bits w 31 25 = 0x4C := field_of hpack hfit 7
  refine ⟨hpack ▸ pack_lt _ hfit, by rw [h31_25]; rfl, ?_⟩
  change decodeWord w = _
  rw [major4C h31_25, decodeMajor4C, if_neg (by simp [h12_9]), if_pos ⟨h12_9, h0_0⟩, h8_5, ElemType_ofCode t]
  simp only [named]
  rw [fin_eq d h24_17, fin_eq a h16_13, fin_eq k h4_2, flag_eq u h1_1]

theorem fclass (d : Fin 256) (a : Fin 16) (t : ElemType) (k : Fin 8) (u : Bool) : Statement (.fclass d a t k u) := by
  intro _ _
  suffices key : ∀ w, w = 2550137856 + d.val * 131072 + a.val * 8192 + t.code * 32 + k.val * 4 + u.toNat * 2 → decodes w (.fclass d a t k u) none from decode_of rfl rfl (key _ rfl)
  intro w h
  have hfit : fits [(1, 0), (1, u.toNat), (3, k.val), (4, t.code), (4, 2), (4, a.val), (8, d.val), (7, 0x4C)] := ⟨by decide, (Bool.toNat_lt u), k.isLt, (Nat.lt_of_lt_of_le (ElemType_code_lt t) (by decide)), by decide, a.isLt, d.isLt, by decide, trivial⟩
  have hpack := h.trans (show _ = pack _ by simp only [pack] <;> omega : _ = pack [(1, 0), (1, u.toNat), (3, k.val), (4, t.code), (4, 2), (4, a.val), (8, d.val), (7, 0x4C)])
  have h0_0 : bits w 0 0 = 0 := field_of hpack hfit 0
  have h1_1 : bits w 1 1 = u.toNat := field_of hpack hfit 1
  have h4_2 : bits w 4 2 = k.val := field_of hpack hfit 2
  have h8_5 : bits w 8 5 = t.code := field_of hpack hfit 3
  have h12_9 : bits w 12 9 = 2 := field_of hpack hfit 4
  have h16_13 : bits w 16 13 = a.val := field_of hpack hfit 5
  have h24_17 : bits w 24 17 = d.val := field_of hpack hfit 6
  have h31_25 : bits w 31 25 = 0x4C := field_of hpack hfit 7
  refine ⟨hpack ▸ pack_lt _ hfit, by rw [h31_25]; rfl, ?_⟩
  change decodeWord w = _
  rw [major4C h31_25, decodeMajor4C, if_neg (by simp [h12_9]), if_neg (by simp [h12_9]), if_pos ⟨h12_9, h0_0⟩, h8_5, ElemType_ofCode t]
  simp only [named]
  rw [fin_eq d h24_17, fin_eq a h16_13, fin_eq k h4_2, flag_eq u h1_1]

theorem frcp (d : Fin 256) (a : Fin 16) (t : ElemType) (k : Fin 8) (u : Bool) : Statement (.frcp d a t k u) := by
  intro _ _
  suffices key : ∀ w, w = 2550138368 + d.val * 131072 + a.val * 8192 + t.code * 32 + k.val * 4 + u.toNat * 2 → decodes w (.frcp d a t k u) none from decode_of rfl rfl (key _ rfl)
  intro w h
  have hfit : fits [(1, 0), (1, u.toNat), (3, k.val), (4, t.code), (4, 3), (4, a.val), (8, d.val), (7, 0x4C)] := ⟨by decide, (Bool.toNat_lt u), k.isLt, (Nat.lt_of_lt_of_le (ElemType_code_lt t) (by decide)), by decide, a.isLt, d.isLt, by decide, trivial⟩
  have hpack := h.trans (show _ = pack _ by simp only [pack] <;> omega : _ = pack [(1, 0), (1, u.toNat), (3, k.val), (4, t.code), (4, 3), (4, a.val), (8, d.val), (7, 0x4C)])
  have h0_0 : bits w 0 0 = 0 := field_of hpack hfit 0
  have h1_1 : bits w 1 1 = u.toNat := field_of hpack hfit 1
  have h4_2 : bits w 4 2 = k.val := field_of hpack hfit 2
  have h8_5 : bits w 8 5 = t.code := field_of hpack hfit 3
  have h12_9 : bits w 12 9 = 3 := field_of hpack hfit 4
  have h16_13 : bits w 16 13 = a.val := field_of hpack hfit 5
  have h24_17 : bits w 24 17 = d.val := field_of hpack hfit 6
  have h31_25 : bits w 31 25 = 0x4C := field_of hpack hfit 7
  refine ⟨hpack ▸ pack_lt _ hfit, by rw [h31_25]; rfl, ?_⟩
  change decodeWord w = _
  rw [major4C h31_25, decodeMajor4C, if_neg (by simp [h12_9]), if_neg (by simp [h12_9]), if_neg (by simp [h12_9]), if_pos ⟨h12_9, h0_0⟩, h8_5, ElemType_ofCode t]
  simp only [named]
  rw [fin_eq d h24_17, fin_eq a h16_13, fin_eq k h4_2, flag_eq u h1_1]

theorem frsqrt (d : Fin 256) (a : Fin 16) (t : ElemType) (k : Fin 8) (u : Bool) : Statement (.frsqrt d a t k u) := by
  intro _ _
  suffices key : ∀ w, w = 2550138880 + d.val * 131072 + a.val * 8192 + t.code * 32 + k.val * 4 + u.toNat * 2 → decodes w (.frsqrt d a t k u) none from decode_of rfl rfl (key _ rfl)
  intro w h
  have hfit : fits [(1, 0), (1, u.toNat), (3, k.val), (4, t.code), (4, 4), (4, a.val), (8, d.val), (7, 0x4C)] := ⟨by decide, (Bool.toNat_lt u), k.isLt, (Nat.lt_of_lt_of_le (ElemType_code_lt t) (by decide)), by decide, a.isLt, d.isLt, by decide, trivial⟩
  have hpack := h.trans (show _ = pack _ by simp only [pack] <;> omega : _ = pack [(1, 0), (1, u.toNat), (3, k.val), (4, t.code), (4, 4), (4, a.val), (8, d.val), (7, 0x4C)])
  have h0_0 : bits w 0 0 = 0 := field_of hpack hfit 0
  have h1_1 : bits w 1 1 = u.toNat := field_of hpack hfit 1
  have h4_2 : bits w 4 2 = k.val := field_of hpack hfit 2
  have h8_5 : bits w 8 5 = t.code := field_of hpack hfit 3
  have h12_9 : bits w 12 9 = 4 := field_of hpack hfit 4
  have h16_13 : bits w 16 13 = a.val := field_of hpack hfit 5
  have h24_17 : bits w 24 17 = d.val := field_of hpack hfit 6
  have h31_25 : bits w 31 25 = 0x4C := field_of hpack hfit 7
  refine ⟨hpack ▸ pack_lt _ hfit, by rw [h31_25]; rfl, ?_⟩
  change decodeWord w = _
  rw [major4C h31_25, decodeMajor4C, if_neg (by simp [h12_9]), if_neg (by simp [h12_9]), if_neg (by simp [h12_9]), if_neg (by simp [h12_9]), if_pos ⟨h12_9, h0_0⟩, h8_5, ElemType_ofCode t]
  simp only [named]
  rw [fin_eq d h24_17, fin_eq a h16_13, fin_eq k h4_2, flag_eq u h1_1]

theorem fsqrt (d : Fin 256) (a : Fin 16) (t : ElemType) (k : Fin 8) (u : Bool) : Statement (.fsqrt d a t k u) := by
  intro _ _
  suffices key : ∀ w, w = 2550139392 + d.val * 131072 + a.val * 8192 + t.code * 32 + k.val * 4 + u.toNat * 2 → decodes w (.fsqrt d a t k u) none from decode_of rfl rfl (key _ rfl)
  intro w h
  have hfit : fits [(1, 0), (1, u.toNat), (3, k.val), (4, t.code), (4, 5), (4, a.val), (8, d.val), (7, 0x4C)] := ⟨by decide, (Bool.toNat_lt u), k.isLt, (Nat.lt_of_lt_of_le (ElemType_code_lt t) (by decide)), by decide, a.isLt, d.isLt, by decide, trivial⟩
  have hpack := h.trans (show _ = pack _ by simp only [pack] <;> omega : _ = pack [(1, 0), (1, u.toNat), (3, k.val), (4, t.code), (4, 5), (4, a.val), (8, d.val), (7, 0x4C)])
  have h0_0 : bits w 0 0 = 0 := field_of hpack hfit 0
  have h1_1 : bits w 1 1 = u.toNat := field_of hpack hfit 1
  have h4_2 : bits w 4 2 = k.val := field_of hpack hfit 2
  have h8_5 : bits w 8 5 = t.code := field_of hpack hfit 3
  have h12_9 : bits w 12 9 = 5 := field_of hpack hfit 4
  have h16_13 : bits w 16 13 = a.val := field_of hpack hfit 5
  have h24_17 : bits w 24 17 = d.val := field_of hpack hfit 6
  have h31_25 : bits w 31 25 = 0x4C := field_of hpack hfit 7
  refine ⟨hpack ▸ pack_lt _ hfit, by rw [h31_25]; rfl, ?_⟩
  change decodeWord w = _
  rw [major4C h31_25, decodeMajor4C, if_neg (by simp [h12_9]), if_neg (by simp [h12_9]), if_neg (by simp [h12_9]), if_neg (by simp [h12_9]), if_neg (by simp [h12_9]), if_pos ⟨h12_9, h0_0⟩, h8_5, ElemType_ofCode t]
  simp only [named]
  rw [fin_eq d h24_17, fin_eq a h16_13, fin_eq k h4_2, flag_eq u h1_1]

theorem fexp2 (d : Fin 256) (a : Fin 16) (t : ElemType) (k : Fin 8) (u : Bool) : Statement (.fexp2 d a t k u) := by
  intro _ _
  suffices key : ∀ w, w = 2550139904 + d.val * 131072 + a.val * 8192 + t.code * 32 + k.val * 4 + u.toNat * 2 → decodes w (.fexp2 d a t k u) none from decode_of rfl rfl (key _ rfl)
  intro w h
  have hfit : fits [(1, 0), (1, u.toNat), (3, k.val), (4, t.code), (4, 6), (4, a.val), (8, d.val), (7, 0x4C)] := ⟨by decide, (Bool.toNat_lt u), k.isLt, (Nat.lt_of_lt_of_le (ElemType_code_lt t) (by decide)), by decide, a.isLt, d.isLt, by decide, trivial⟩
  have hpack := h.trans (show _ = pack _ by simp only [pack] <;> omega : _ = pack [(1, 0), (1, u.toNat), (3, k.val), (4, t.code), (4, 6), (4, a.val), (8, d.val), (7, 0x4C)])
  have h0_0 : bits w 0 0 = 0 := field_of hpack hfit 0
  have h1_1 : bits w 1 1 = u.toNat := field_of hpack hfit 1
  have h4_2 : bits w 4 2 = k.val := field_of hpack hfit 2
  have h8_5 : bits w 8 5 = t.code := field_of hpack hfit 3
  have h12_9 : bits w 12 9 = 6 := field_of hpack hfit 4
  have h16_13 : bits w 16 13 = a.val := field_of hpack hfit 5
  have h24_17 : bits w 24 17 = d.val := field_of hpack hfit 6
  have h31_25 : bits w 31 25 = 0x4C := field_of hpack hfit 7
  refine ⟨hpack ▸ pack_lt _ hfit, by rw [h31_25]; rfl, ?_⟩
  change decodeWord w = _
  rw [major4C h31_25, decodeMajor4C, if_neg (by simp [h12_9]), if_neg (by simp [h12_9]), if_neg (by simp [h12_9]), if_neg (by simp [h12_9]), if_neg (by simp [h12_9]), if_neg (by simp [h12_9]), if_pos ⟨h12_9, h0_0⟩, h8_5, ElemType_ofCode t]
  simp only [named]
  rw [fin_eq d h24_17, fin_eq a h16_13, fin_eq k h4_2, flag_eq u h1_1]

theorem flog2 (d : Fin 256) (a : Fin 16) (t : ElemType) (k : Fin 8) (u : Bool) : Statement (.flog2 d a t k u) := by
  intro _ _
  suffices key : ∀ w, w = 2550140416 + d.val * 131072 + a.val * 8192 + t.code * 32 + k.val * 4 + u.toNat * 2 → decodes w (.flog2 d a t k u) none from decode_of rfl rfl (key _ rfl)
  intro w h
  have hfit : fits [(1, 0), (1, u.toNat), (3, k.val), (4, t.code), (4, 7), (4, a.val), (8, d.val), (7, 0x4C)] := ⟨by decide, (Bool.toNat_lt u), k.isLt, (Nat.lt_of_lt_of_le (ElemType_code_lt t) (by decide)), by decide, a.isLt, d.isLt, by decide, trivial⟩
  have hpack := h.trans (show _ = pack _ by simp only [pack] <;> omega : _ = pack [(1, 0), (1, u.toNat), (3, k.val), (4, t.code), (4, 7), (4, a.val), (8, d.val), (7, 0x4C)])
  have h0_0 : bits w 0 0 = 0 := field_of hpack hfit 0
  have h1_1 : bits w 1 1 = u.toNat := field_of hpack hfit 1
  have h4_2 : bits w 4 2 = k.val := field_of hpack hfit 2
  have h8_5 : bits w 8 5 = t.code := field_of hpack hfit 3
  have h12_9 : bits w 12 9 = 7 := field_of hpack hfit 4
  have h16_13 : bits w 16 13 = a.val := field_of hpack hfit 5
  have h24_17 : bits w 24 17 = d.val := field_of hpack hfit 6
  have h31_25 : bits w 31 25 = 0x4C := field_of hpack hfit 7
  refine ⟨hpack ▸ pack_lt _ hfit, by rw [h31_25]; rfl, ?_⟩
  change decodeWord w = _
  rw [major4C h31_25, decodeMajor4C, if_neg (by simp [h12_9]), if_neg (by simp [h12_9]), if_neg (by simp [h12_9]), if_neg (by simp [h12_9]), if_neg (by simp [h12_9]), if_neg (by simp [h12_9]), if_neg (by simp [h12_9]), if_pos ⟨h12_9, h0_0⟩, h8_5, ElemType_ofCode t]
  simp only [named]
  rw [fin_eq d h24_17, fin_eq a h16_13, fin_eq k h4_2, flag_eq u h1_1]

theorem ftanh (d : Fin 256) (a : Fin 16) (t : ElemType) (k : Fin 8) (u : Bool) : Statement (.ftanh d a t k u) := by
  intro _ _
  suffices key : ∀ w, w = 2550140928 + d.val * 131072 + a.val * 8192 + t.code * 32 + k.val * 4 + u.toNat * 2 → decodes w (.ftanh d a t k u) none from decode_of rfl rfl (key _ rfl)
  intro w h
  have hfit : fits [(1, 0), (1, u.toNat), (3, k.val), (4, t.code), (4, 8), (4, a.val), (8, d.val), (7, 0x4C)] := ⟨by decide, (Bool.toNat_lt u), k.isLt, (Nat.lt_of_lt_of_le (ElemType_code_lt t) (by decide)), by decide, a.isLt, d.isLt, by decide, trivial⟩
  have hpack := h.trans (show _ = pack _ by simp only [pack] <;> omega : _ = pack [(1, 0), (1, u.toNat), (3, k.val), (4, t.code), (4, 8), (4, a.val), (8, d.val), (7, 0x4C)])
  have h0_0 : bits w 0 0 = 0 := field_of hpack hfit 0
  have h1_1 : bits w 1 1 = u.toNat := field_of hpack hfit 1
  have h4_2 : bits w 4 2 = k.val := field_of hpack hfit 2
  have h8_5 : bits w 8 5 = t.code := field_of hpack hfit 3
  have h12_9 : bits w 12 9 = 8 := field_of hpack hfit 4
  have h16_13 : bits w 16 13 = a.val := field_of hpack hfit 5
  have h24_17 : bits w 24 17 = d.val := field_of hpack hfit 6
  have h31_25 : bits w 31 25 = 0x4C := field_of hpack hfit 7
  refine ⟨hpack ▸ pack_lt _ hfit, by rw [h31_25]; rfl, ?_⟩
  change decodeWord w = _
  rw [major4C h31_25, decodeMajor4C, if_neg (by simp [h12_9]), if_neg (by simp [h12_9]), if_neg (by simp [h12_9]), if_neg (by simp [h12_9]), if_neg (by simp [h12_9]), if_neg (by simp [h12_9]), if_neg (by simp [h12_9]), if_neg (by simp [h12_9]), if_pos ⟨h12_9, h0_0⟩, h8_5, ElemType_ofCode t]
  simp only [named]
  rw [fin_eq d h24_17, fin_eq a h16_13, fin_eq k h4_2, flag_eq u h1_1]

theorem fsig (d : Fin 256) (a : Fin 16) (t : ElemType) (k : Fin 8) (u : Bool) : Statement (.fsig d a t k u) := by
  intro _ _
  suffices key : ∀ w, w = 2550141440 + d.val * 131072 + a.val * 8192 + t.code * 32 + k.val * 4 + u.toNat * 2 → decodes w (.fsig d a t k u) none from decode_of rfl rfl (key _ rfl)
  intro w h
  have hfit : fits [(1, 0), (1, u.toNat), (3, k.val), (4, t.code), (4, 9), (4, a.val), (8, d.val), (7, 0x4C)] := ⟨by decide, (Bool.toNat_lt u), k.isLt, (Nat.lt_of_lt_of_le (ElemType_code_lt t) (by decide)), by decide, a.isLt, d.isLt, by decide, trivial⟩
  have hpack := h.trans (show _ = pack _ by simp only [pack] <;> omega : _ = pack [(1, 0), (1, u.toNat), (3, k.val), (4, t.code), (4, 9), (4, a.val), (8, d.val), (7, 0x4C)])
  have h0_0 : bits w 0 0 = 0 := field_of hpack hfit 0
  have h1_1 : bits w 1 1 = u.toNat := field_of hpack hfit 1
  have h4_2 : bits w 4 2 = k.val := field_of hpack hfit 2
  have h8_5 : bits w 8 5 = t.code := field_of hpack hfit 3
  have h12_9 : bits w 12 9 = 9 := field_of hpack hfit 4
  have h16_13 : bits w 16 13 = a.val := field_of hpack hfit 5
  have h24_17 : bits w 24 17 = d.val := field_of hpack hfit 6
  have h31_25 : bits w 31 25 = 0x4C := field_of hpack hfit 7
  refine ⟨hpack ▸ pack_lt _ hfit, by rw [h31_25]; rfl, ?_⟩
  change decodeWord w = _
  rw [major4C h31_25, decodeMajor4C, if_neg (by simp [h12_9]), if_neg (by simp [h12_9]), if_neg (by simp [h12_9]), if_neg (by simp [h12_9]), if_neg (by simp [h12_9]), if_neg (by simp [h12_9]), if_neg (by simp [h12_9]), if_neg (by simp [h12_9]), if_neg (by simp [h12_9]), if_pos ⟨h12_9, h0_0⟩, h8_5, ElemType_ofCode t]
  simp only [named]
  rw [fin_eq d h24_17, fin_eq a h16_13, fin_eq k h4_2, flag_eq u h1_1]

theorem fmaF32 (d : Fin 256) (a : Fin 16) (b : Fin 16) (c : Fin 16) (k : Fin 8) (u : Bool) (v : Bool) : Statement (.fmaF32 d a b c k u v) := by
  intro _ _
  suffices key : ∀ w, w = 2583691264 + d.val * 131072 + a.val * 8192 + b.val * 512 + c.val * 32 + k.val * 4 + u.toNat * 2 + v.toNat → decodes w (.fmaF32 d a b c k u v) none from decode_of rfl rfl (key _ rfl)
  intro w h
  have hfit : fits [(1, v.toNat), (1, u.toNat), (3, k.val), (4, c.val), (4, b.val), (4, a.val), (8, d.val), (7, 0x4D)] := ⟨(Bool.toNat_lt v), (Bool.toNat_lt u), k.isLt, c.isLt, b.isLt, a.isLt, d.isLt, by decide, trivial⟩
  have hpack := h.trans (show _ = pack _ by simp only [pack] <;> omega : _ = pack [(1, v.toNat), (1, u.toNat), (3, k.val), (4, c.val), (4, b.val), (4, a.val), (8, d.val), (7, 0x4D)])
  have h0_0 : bits w 0 0 = v.toNat := field_of hpack hfit 0
  have h1_1 : bits w 1 1 = u.toNat := field_of hpack hfit 1
  have h4_2 : bits w 4 2 = k.val := field_of hpack hfit 2
  have h8_5 : bits w 8 5 = c.val := field_of hpack hfit 3
  have h12_9 : bits w 12 9 = b.val := field_of hpack hfit 4
  have h16_13 : bits w 16 13 = a.val := field_of hpack hfit 5
  have h24_17 : bits w 24 17 = d.val := field_of hpack hfit 6
  have h31_25 : bits w 31 25 = 0x4D := field_of hpack hfit 7
  refine ⟨hpack ▸ pack_lt _ hfit, by rw [h31_25]; rfl, ?_⟩
  change decodeWord w = _
  rw [major4D h31_25, decodeMajor4D]
  rw [fin_eq d h24_17, fin_eq a h16_13, fin_eq b h12_9, fin_eq c h8_5, fin_eq k h4_2, flag_eq u h1_1, flag_eq v h0_0]

theorem fmaBf16 (d : Fin 256) (a : Fin 16) (b : Fin 16) (c : Fin 16) (k : Fin 8) (u : Bool) (v : Bool) : Statement (.fmaBf16 d a b c k u v) := by
  intro _ _
  suffices key : ∀ w, w = 2617245696 + d.val * 131072 + a.val * 8192 + b.val * 512 + c.val * 32 + k.val * 4 + u.toNat * 2 + v.toNat → decodes w (.fmaBf16 d a b c k u v) none from decode_of rfl rfl (key _ rfl)
  intro w h
  have hfit : fits [(1, v.toNat), (1, u.toNat), (3, k.val), (4, c.val), (4, b.val), (4, a.val), (8, d.val), (7, 0x4E)] := ⟨(Bool.toNat_lt v), (Bool.toNat_lt u), k.isLt, c.isLt, b.isLt, a.isLt, d.isLt, by decide, trivial⟩
  have hpack := h.trans (show _ = pack _ by simp only [pack] <;> omega : _ = pack [(1, v.toNat), (1, u.toNat), (3, k.val), (4, c.val), (4, b.val), (4, a.val), (8, d.val), (7, 0x4E)])
  have h0_0 : bits w 0 0 = v.toNat := field_of hpack hfit 0
  have h1_1 : bits w 1 1 = u.toNat := field_of hpack hfit 1
  have h4_2 : bits w 4 2 = k.val := field_of hpack hfit 2
  have h8_5 : bits w 8 5 = c.val := field_of hpack hfit 3
  have h12_9 : bits w 12 9 = b.val := field_of hpack hfit 4
  have h16_13 : bits w 16 13 = a.val := field_of hpack hfit 5
  have h24_17 : bits w 24 17 = d.val := field_of hpack hfit 6
  have h31_25 : bits w 31 25 = 0x4E := field_of hpack hfit 7
  refine ⟨hpack ▸ pack_lt _ hfit, by rw [h31_25]; rfl, ?_⟩
  change decodeWord w = _
  rw [major4E h31_25, decodeMajor4E]
  rw [fin_eq d h24_17, fin_eq a h16_13, fin_eq b h12_9, fin_eq c h8_5, fin_eq k h4_2, flag_eq u h1_1, flag_eq v h0_0]

theorem fmaF16 (d : Fin 256) (a : Fin 16) (b : Fin 16) (c : Fin 16) (k : Fin 8) (u : Bool) (v : Bool) : Statement (.fmaF16 d a b c k u v) := by
  intro _ _
  suffices key : ∀ w, w = 2650800128 + d.val * 131072 + a.val * 8192 + b.val * 512 + c.val * 32 + k.val * 4 + u.toNat * 2 + v.toNat → decodes w (.fmaF16 d a b c k u v) none from decode_of rfl rfl (key _ rfl)
  intro w h
  have hfit : fits [(1, v.toNat), (1, u.toNat), (3, k.val), (4, c.val), (4, b.val), (4, a.val), (8, d.val), (7, 0x4F)] := ⟨(Bool.toNat_lt v), (Bool.toNat_lt u), k.isLt, c.isLt, b.isLt, a.isLt, d.isLt, by decide, trivial⟩
  have hpack := h.trans (show _ = pack _ by simp only [pack] <;> omega : _ = pack [(1, v.toNat), (1, u.toNat), (3, k.val), (4, c.val), (4, b.val), (4, a.val), (8, d.val), (7, 0x4F)])
  have h0_0 : bits w 0 0 = v.toNat := field_of hpack hfit 0
  have h1_1 : bits w 1 1 = u.toNat := field_of hpack hfit 1
  have h4_2 : bits w 4 2 = k.val := field_of hpack hfit 2
  have h8_5 : bits w 8 5 = c.val := field_of hpack hfit 3
  have h12_9 : bits w 12 9 = b.val := field_of hpack hfit 4
  have h16_13 : bits w 16 13 = a.val := field_of hpack hfit 5
  have h24_17 : bits w 24 17 = d.val := field_of hpack hfit 6
  have h31_25 : bits w 31 25 = 0x4F := field_of hpack hfit 7
  refine ⟨hpack ▸ pack_lt _ hfit, by rw [h31_25]; rfl, ?_⟩
  change decodeWord w = _
  rw [major4F h31_25, decodeMajor4F]
  rw [fin_eq d h24_17, fin_eq a h16_13, fin_eq b h12_9, fin_eq c h8_5, fin_eq k h4_2, flag_eq u h1_1, flag_eq v h0_0]

theorem fmsF32 (d : Fin 256) (a : Fin 16) (b : Fin 16) (c : Fin 16) (k : Fin 8) (u : Bool) (v : Bool) : Statement (.fmsF32 d a b c k u v) := by
  intro _ _
  suffices key : ∀ w, w = 2684354560 + d.val * 131072 + a.val * 8192 + b.val * 512 + c.val * 32 + k.val * 4 + u.toNat * 2 + v.toNat → decodes w (.fmsF32 d a b c k u v) none from decode_of rfl rfl (key _ rfl)
  intro w h
  have hfit : fits [(1, v.toNat), (1, u.toNat), (3, k.val), (4, c.val), (4, b.val), (4, a.val), (8, d.val), (7, 0x50)] := ⟨(Bool.toNat_lt v), (Bool.toNat_lt u), k.isLt, c.isLt, b.isLt, a.isLt, d.isLt, by decide, trivial⟩
  have hpack := h.trans (show _ = pack _ by simp only [pack] <;> omega : _ = pack [(1, v.toNat), (1, u.toNat), (3, k.val), (4, c.val), (4, b.val), (4, a.val), (8, d.val), (7, 0x50)])
  have h0_0 : bits w 0 0 = v.toNat := field_of hpack hfit 0
  have h1_1 : bits w 1 1 = u.toNat := field_of hpack hfit 1
  have h4_2 : bits w 4 2 = k.val := field_of hpack hfit 2
  have h8_5 : bits w 8 5 = c.val := field_of hpack hfit 3
  have h12_9 : bits w 12 9 = b.val := field_of hpack hfit 4
  have h16_13 : bits w 16 13 = a.val := field_of hpack hfit 5
  have h24_17 : bits w 24 17 = d.val := field_of hpack hfit 6
  have h31_25 : bits w 31 25 = 0x50 := field_of hpack hfit 7
  refine ⟨hpack ▸ pack_lt _ hfit, by rw [h31_25]; rfl, ?_⟩
  change decodeWord w = _
  rw [major50 h31_25, decodeMajor50]
  rw [fin_eq d h24_17, fin_eq a h16_13, fin_eq b h12_9, fin_eq c h8_5, fin_eq k h4_2, flag_eq u h1_1, flag_eq v h0_0]

theorem fmsBf16 (d : Fin 256) (a : Fin 16) (b : Fin 16) (c : Fin 16) (k : Fin 8) (u : Bool) (v : Bool) : Statement (.fmsBf16 d a b c k u v) := by
  intro _ _
  suffices key : ∀ w, w = 2717908992 + d.val * 131072 + a.val * 8192 + b.val * 512 + c.val * 32 + k.val * 4 + u.toNat * 2 + v.toNat → decodes w (.fmsBf16 d a b c k u v) none from decode_of rfl rfl (key _ rfl)
  intro w h
  have hfit : fits [(1, v.toNat), (1, u.toNat), (3, k.val), (4, c.val), (4, b.val), (4, a.val), (8, d.val), (7, 0x51)] := ⟨(Bool.toNat_lt v), (Bool.toNat_lt u), k.isLt, c.isLt, b.isLt, a.isLt, d.isLt, by decide, trivial⟩
  have hpack := h.trans (show _ = pack _ by simp only [pack] <;> omega : _ = pack [(1, v.toNat), (1, u.toNat), (3, k.val), (4, c.val), (4, b.val), (4, a.val), (8, d.val), (7, 0x51)])
  have h0_0 : bits w 0 0 = v.toNat := field_of hpack hfit 0
  have h1_1 : bits w 1 1 = u.toNat := field_of hpack hfit 1
  have h4_2 : bits w 4 2 = k.val := field_of hpack hfit 2
  have h8_5 : bits w 8 5 = c.val := field_of hpack hfit 3
  have h12_9 : bits w 12 9 = b.val := field_of hpack hfit 4
  have h16_13 : bits w 16 13 = a.val := field_of hpack hfit 5
  have h24_17 : bits w 24 17 = d.val := field_of hpack hfit 6
  have h31_25 : bits w 31 25 = 0x51 := field_of hpack hfit 7
  refine ⟨hpack ▸ pack_lt _ hfit, by rw [h31_25]; rfl, ?_⟩
  change decodeWord w = _
  rw [major51 h31_25, decodeMajor51]
  rw [fin_eq d h24_17, fin_eq a h16_13, fin_eq b h12_9, fin_eq c h8_5, fin_eq k h4_2, flag_eq u h1_1, flag_eq v h0_0]

theorem fmsF16 (d : Fin 256) (a : Fin 16) (b : Fin 16) (c : Fin 16) (k : Fin 8) (u : Bool) (v : Bool) : Statement (.fmsF16 d a b c k u v) := by
  intro _ _
  suffices key : ∀ w, w = 2751463424 + d.val * 131072 + a.val * 8192 + b.val * 512 + c.val * 32 + k.val * 4 + u.toNat * 2 + v.toNat → decodes w (.fmsF16 d a b c k u v) none from decode_of rfl rfl (key _ rfl)
  intro w h
  have hfit : fits [(1, v.toNat), (1, u.toNat), (3, k.val), (4, c.val), (4, b.val), (4, a.val), (8, d.val), (7, 0x52)] := ⟨(Bool.toNat_lt v), (Bool.toNat_lt u), k.isLt, c.isLt, b.isLt, a.isLt, d.isLt, by decide, trivial⟩
  have hpack := h.trans (show _ = pack _ by simp only [pack] <;> omega : _ = pack [(1, v.toNat), (1, u.toNat), (3, k.val), (4, c.val), (4, b.val), (4, a.val), (8, d.val), (7, 0x52)])
  have h0_0 : bits w 0 0 = v.toNat := field_of hpack hfit 0
  have h1_1 : bits w 1 1 = u.toNat := field_of hpack hfit 1
  have h4_2 : bits w 4 2 = k.val := field_of hpack hfit 2
  have h8_5 : bits w 8 5 = c.val := field_of hpack hfit 3
  have h12_9 : bits w 12 9 = b.val := field_of hpack hfit 4
  have h16_13 : bits w 16 13 = a.val := field_of hpack hfit 5
  have h24_17 : bits w 24 17 = d.val := field_of hpack hfit 6
  have h31_25 : bits w 31 25 = 0x52 := field_of hpack hfit 7
  refine ⟨hpack ▸ pack_lt _ hfit, by rw [h31_25]; rfl, ?_⟩
  change decodeWord w = _
  rw [major52 h31_25, decodeMajor52]
  rw [fin_eq d h24_17, fin_eq a h16_13, fin_eq b h12_9, fin_eq c h8_5, fin_eq k h4_2, flag_eq u h1_1, flag_eq v h0_0]

theorem fnmaF32 (d : Fin 256) (a : Fin 16) (b : Fin 16) (c : Fin 16) (k : Fin 8) (u : Bool) (v : Bool) : Statement (.fnmaF32 d a b c k u v) := by
  intro _ _
  suffices key : ∀ w, w = 2785017856 + d.val * 131072 + a.val * 8192 + b.val * 512 + c.val * 32 + k.val * 4 + u.toNat * 2 + v.toNat → decodes w (.fnmaF32 d a b c k u v) none from decode_of rfl rfl (key _ rfl)
  intro w h
  have hfit : fits [(1, v.toNat), (1, u.toNat), (3, k.val), (4, c.val), (4, b.val), (4, a.val), (8, d.val), (7, 0x53)] := ⟨(Bool.toNat_lt v), (Bool.toNat_lt u), k.isLt, c.isLt, b.isLt, a.isLt, d.isLt, by decide, trivial⟩
  have hpack := h.trans (show _ = pack _ by simp only [pack] <;> omega : _ = pack [(1, v.toNat), (1, u.toNat), (3, k.val), (4, c.val), (4, b.val), (4, a.val), (8, d.val), (7, 0x53)])
  have h0_0 : bits w 0 0 = v.toNat := field_of hpack hfit 0
  have h1_1 : bits w 1 1 = u.toNat := field_of hpack hfit 1
  have h4_2 : bits w 4 2 = k.val := field_of hpack hfit 2
  have h8_5 : bits w 8 5 = c.val := field_of hpack hfit 3
  have h12_9 : bits w 12 9 = b.val := field_of hpack hfit 4
  have h16_13 : bits w 16 13 = a.val := field_of hpack hfit 5
  have h24_17 : bits w 24 17 = d.val := field_of hpack hfit 6
  have h31_25 : bits w 31 25 = 0x53 := field_of hpack hfit 7
  refine ⟨hpack ▸ pack_lt _ hfit, by rw [h31_25]; rfl, ?_⟩
  change decodeWord w = _
  rw [major53 h31_25, decodeMajor53]
  rw [fin_eq d h24_17, fin_eq a h16_13, fin_eq b h12_9, fin_eq c h8_5, fin_eq k h4_2, flag_eq u h1_1, flag_eq v h0_0]

theorem fnmaBf16 (d : Fin 256) (a : Fin 16) (b : Fin 16) (c : Fin 16) (k : Fin 8) (u : Bool) (v : Bool) : Statement (.fnmaBf16 d a b c k u v) := by
  intro _ _
  suffices key : ∀ w, w = 2818572288 + d.val * 131072 + a.val * 8192 + b.val * 512 + c.val * 32 + k.val * 4 + u.toNat * 2 + v.toNat → decodes w (.fnmaBf16 d a b c k u v) none from decode_of rfl rfl (key _ rfl)
  intro w h
  have hfit : fits [(1, v.toNat), (1, u.toNat), (3, k.val), (4, c.val), (4, b.val), (4, a.val), (8, d.val), (7, 0x54)] := ⟨(Bool.toNat_lt v), (Bool.toNat_lt u), k.isLt, c.isLt, b.isLt, a.isLt, d.isLt, by decide, trivial⟩
  have hpack := h.trans (show _ = pack _ by simp only [pack] <;> omega : _ = pack [(1, v.toNat), (1, u.toNat), (3, k.val), (4, c.val), (4, b.val), (4, a.val), (8, d.val), (7, 0x54)])
  have h0_0 : bits w 0 0 = v.toNat := field_of hpack hfit 0
  have h1_1 : bits w 1 1 = u.toNat := field_of hpack hfit 1
  have h4_2 : bits w 4 2 = k.val := field_of hpack hfit 2
  have h8_5 : bits w 8 5 = c.val := field_of hpack hfit 3
  have h12_9 : bits w 12 9 = b.val := field_of hpack hfit 4
  have h16_13 : bits w 16 13 = a.val := field_of hpack hfit 5
  have h24_17 : bits w 24 17 = d.val := field_of hpack hfit 6
  have h31_25 : bits w 31 25 = 0x54 := field_of hpack hfit 7
  refine ⟨hpack ▸ pack_lt _ hfit, by rw [h31_25]; rfl, ?_⟩
  change decodeWord w = _
  rw [major54 h31_25, decodeMajor54]
  rw [fin_eq d h24_17, fin_eq a h16_13, fin_eq b h12_9, fin_eq c h8_5, fin_eq k h4_2, flag_eq u h1_1, flag_eq v h0_0]

theorem fnmaF16 (d : Fin 256) (a : Fin 16) (b : Fin 16) (c : Fin 16) (k : Fin 8) (u : Bool) (v : Bool) : Statement (.fnmaF16 d a b c k u v) := by
  intro _ _
  suffices key : ∀ w, w = 2852126720 + d.val * 131072 + a.val * 8192 + b.val * 512 + c.val * 32 + k.val * 4 + u.toNat * 2 + v.toNat → decodes w (.fnmaF16 d a b c k u v) none from decode_of rfl rfl (key _ rfl)
  intro w h
  have hfit : fits [(1, v.toNat), (1, u.toNat), (3, k.val), (4, c.val), (4, b.val), (4, a.val), (8, d.val), (7, 0x55)] := ⟨(Bool.toNat_lt v), (Bool.toNat_lt u), k.isLt, c.isLt, b.isLt, a.isLt, d.isLt, by decide, trivial⟩
  have hpack := h.trans (show _ = pack _ by simp only [pack] <;> omega : _ = pack [(1, v.toNat), (1, u.toNat), (3, k.val), (4, c.val), (4, b.val), (4, a.val), (8, d.val), (7, 0x55)])
  have h0_0 : bits w 0 0 = v.toNat := field_of hpack hfit 0
  have h1_1 : bits w 1 1 = u.toNat := field_of hpack hfit 1
  have h4_2 : bits w 4 2 = k.val := field_of hpack hfit 2
  have h8_5 : bits w 8 5 = c.val := field_of hpack hfit 3
  have h12_9 : bits w 12 9 = b.val := field_of hpack hfit 4
  have h16_13 : bits w 16 13 = a.val := field_of hpack hfit 5
  have h24_17 : bits w 24 17 = d.val := field_of hpack hfit 6
  have h31_25 : bits w 31 25 = 0x55 := field_of hpack hfit 7
  refine ⟨hpack ▸ pack_lt _ hfit, by rw [h31_25]; rfl, ?_⟩
  change decodeWord w = _
  rw [major55 h31_25, decodeMajor55]
  rw [fin_eq d h24_17, fin_eq a h16_13, fin_eq b h12_9, fin_eq c h8_5, fin_eq k h4_2, flag_eq u h1_1, flag_eq v h0_0]

theorem vadd (d : Fin 256) (a : Fin 16) (b : Fin 16) (t : ElemType) (k : Fin 8) (u : Bool) (v : Bool) : Statement (.vadd d a b t k u v) := by
  intro _ _
  suffices key : ∀ w, w = 2885681152 + d.val * 131072 + a.val * 8192 + b.val * 512 + t.code * 32 + k.val * 4 + u.toNat * 2 + v.toNat → decodes w (.vadd d a b t k u v) none from decode_of rfl rfl (key _ rfl)
  intro w h
  have hfit : fits [(1, v.toNat), (1, u.toNat), (3, k.val), (4, t.code), (4, b.val), (4, a.val), (8, d.val), (7, 0x56)] := ⟨(Bool.toNat_lt v), (Bool.toNat_lt u), k.isLt, (Nat.lt_of_lt_of_le (ElemType_code_lt t) (by decide)), b.isLt, a.isLt, d.isLt, by decide, trivial⟩
  have hpack := h.trans (show _ = pack _ by simp only [pack] <;> omega : _ = pack [(1, v.toNat), (1, u.toNat), (3, k.val), (4, t.code), (4, b.val), (4, a.val), (8, d.val), (7, 0x56)])
  have h0_0 : bits w 0 0 = v.toNat := field_of hpack hfit 0
  have h1_1 : bits w 1 1 = u.toNat := field_of hpack hfit 1
  have h4_2 : bits w 4 2 = k.val := field_of hpack hfit 2
  have h8_5 : bits w 8 5 = t.code := field_of hpack hfit 3
  have h12_9 : bits w 12 9 = b.val := field_of hpack hfit 4
  have h16_13 : bits w 16 13 = a.val := field_of hpack hfit 5
  have h24_17 : bits w 24 17 = d.val := field_of hpack hfit 6
  have h31_25 : bits w 31 25 = 0x56 := field_of hpack hfit 7
  refine ⟨hpack ▸ pack_lt _ hfit, by rw [h31_25]; rfl, ?_⟩
  change decodeWord w = _
  rw [major56 h31_25, decodeMajor56, h8_5, ElemType_ofCode t]
  simp only [named]
  rw [fin_eq d h24_17, fin_eq a h16_13, fin_eq b h12_9, fin_eq k h4_2, flag_eq u h1_1, flag_eq v h0_0]

theorem vsub (d : Fin 256) (a : Fin 16) (b : Fin 16) (t : ElemType) (k : Fin 8) (u : Bool) (v : Bool) : Statement (.vsub d a b t k u v) := by
  intro _ _
  suffices key : ∀ w, w = 2919235584 + d.val * 131072 + a.val * 8192 + b.val * 512 + t.code * 32 + k.val * 4 + u.toNat * 2 + v.toNat → decodes w (.vsub d a b t k u v) none from decode_of rfl rfl (key _ rfl)
  intro w h
  have hfit : fits [(1, v.toNat), (1, u.toNat), (3, k.val), (4, t.code), (4, b.val), (4, a.val), (8, d.val), (7, 0x57)] := ⟨(Bool.toNat_lt v), (Bool.toNat_lt u), k.isLt, (Nat.lt_of_lt_of_le (ElemType_code_lt t) (by decide)), b.isLt, a.isLt, d.isLt, by decide, trivial⟩
  have hpack := h.trans (show _ = pack _ by simp only [pack] <;> omega : _ = pack [(1, v.toNat), (1, u.toNat), (3, k.val), (4, t.code), (4, b.val), (4, a.val), (8, d.val), (7, 0x57)])
  have h0_0 : bits w 0 0 = v.toNat := field_of hpack hfit 0
  have h1_1 : bits w 1 1 = u.toNat := field_of hpack hfit 1
  have h4_2 : bits w 4 2 = k.val := field_of hpack hfit 2
  have h8_5 : bits w 8 5 = t.code := field_of hpack hfit 3
  have h12_9 : bits w 12 9 = b.val := field_of hpack hfit 4
  have h16_13 : bits w 16 13 = a.val := field_of hpack hfit 5
  have h24_17 : bits w 24 17 = d.val := field_of hpack hfit 6
  have h31_25 : bits w 31 25 = 0x57 := field_of hpack hfit 7
  refine ⟨hpack ▸ pack_lt _ hfit, by rw [h31_25]; rfl, ?_⟩
  change decodeWord w = _
  rw [major57 h31_25, decodeMajor57, h8_5, ElemType_ofCode t]
  simp only [named]
  rw [fin_eq d h24_17, fin_eq a h16_13, fin_eq b h12_9, fin_eq k h4_2, flag_eq u h1_1, flag_eq v h0_0]

theorem vadds (d : Fin 256) (a : Fin 16) (b : Fin 16) (t : ElemType) (k : Fin 8) (u : Bool) (v : Bool) : Statement (.vadds d a b t k u v) := by
  intro _ _
  suffices key : ∀ w, w = 2952790016 + d.val * 131072 + a.val * 8192 + b.val * 512 + t.code * 32 + k.val * 4 + u.toNat * 2 + v.toNat → decodes w (.vadds d a b t k u v) none from decode_of rfl rfl (key _ rfl)
  intro w h
  have hfit : fits [(1, v.toNat), (1, u.toNat), (3, k.val), (4, t.code), (4, b.val), (4, a.val), (8, d.val), (7, 0x58)] := ⟨(Bool.toNat_lt v), (Bool.toNat_lt u), k.isLt, (Nat.lt_of_lt_of_le (ElemType_code_lt t) (by decide)), b.isLt, a.isLt, d.isLt, by decide, trivial⟩
  have hpack := h.trans (show _ = pack _ by simp only [pack] <;> omega : _ = pack [(1, v.toNat), (1, u.toNat), (3, k.val), (4, t.code), (4, b.val), (4, a.val), (8, d.val), (7, 0x58)])
  have h0_0 : bits w 0 0 = v.toNat := field_of hpack hfit 0
  have h1_1 : bits w 1 1 = u.toNat := field_of hpack hfit 1
  have h4_2 : bits w 4 2 = k.val := field_of hpack hfit 2
  have h8_5 : bits w 8 5 = t.code := field_of hpack hfit 3
  have h12_9 : bits w 12 9 = b.val := field_of hpack hfit 4
  have h16_13 : bits w 16 13 = a.val := field_of hpack hfit 5
  have h24_17 : bits w 24 17 = d.val := field_of hpack hfit 6
  have h31_25 : bits w 31 25 = 0x58 := field_of hpack hfit 7
  refine ⟨hpack ▸ pack_lt _ hfit, by rw [h31_25]; rfl, ?_⟩
  change decodeWord w = _
  rw [major58 h31_25, decodeMajor58, h8_5, ElemType_ofCode t]
  simp only [named]
  rw [fin_eq d h24_17, fin_eq a h16_13, fin_eq b h12_9, fin_eq k h4_2, flag_eq u h1_1, flag_eq v h0_0]

theorem vsubs (d : Fin 256) (a : Fin 16) (b : Fin 16) (t : ElemType) (k : Fin 8) (u : Bool) (v : Bool) : Statement (.vsubs d a b t k u v) := by
  intro _ _
  suffices key : ∀ w, w = 2986344448 + d.val * 131072 + a.val * 8192 + b.val * 512 + t.code * 32 + k.val * 4 + u.toNat * 2 + v.toNat → decodes w (.vsubs d a b t k u v) none from decode_of rfl rfl (key _ rfl)
  intro w h
  have hfit : fits [(1, v.toNat), (1, u.toNat), (3, k.val), (4, t.code), (4, b.val), (4, a.val), (8, d.val), (7, 0x59)] := ⟨(Bool.toNat_lt v), (Bool.toNat_lt u), k.isLt, (Nat.lt_of_lt_of_le (ElemType_code_lt t) (by decide)), b.isLt, a.isLt, d.isLt, by decide, trivial⟩
  have hpack := h.trans (show _ = pack _ by simp only [pack] <;> omega : _ = pack [(1, v.toNat), (1, u.toNat), (3, k.val), (4, t.code), (4, b.val), (4, a.val), (8, d.val), (7, 0x59)])
  have h0_0 : bits w 0 0 = v.toNat := field_of hpack hfit 0
  have h1_1 : bits w 1 1 = u.toNat := field_of hpack hfit 1
  have h4_2 : bits w 4 2 = k.val := field_of hpack hfit 2
  have h8_5 : bits w 8 5 = t.code := field_of hpack hfit 3
  have h12_9 : bits w 12 9 = b.val := field_of hpack hfit 4
  have h16_13 : bits w 16 13 = a.val := field_of hpack hfit 5
  have h24_17 : bits w 24 17 = d.val := field_of hpack hfit 6
  have h31_25 : bits w 31 25 = 0x59 := field_of hpack hfit 7
  refine ⟨hpack ▸ pack_lt _ hfit, by rw [h31_25]; rfl, ?_⟩
  change decodeWord w = _
  rw [major59 h31_25, decodeMajor59, h8_5, ElemType_ofCode t]
  simp only [named]
  rw [fin_eq d h24_17, fin_eq a h16_13, fin_eq b h12_9, fin_eq k h4_2, flag_eq u h1_1, flag_eq v h0_0]

theorem vmul (d : Fin 256) (a : Fin 16) (b : Fin 16) (t : ElemType) (k : Fin 8) (u : Bool) (v : Bool) : Statement (.vmul d a b t k u v) := by
  intro _ _
  suffices key : ∀ w, w = 3019898880 + d.val * 131072 + a.val * 8192 + b.val * 512 + t.code * 32 + k.val * 4 + u.toNat * 2 + v.toNat → decodes w (.vmul d a b t k u v) none from decode_of rfl rfl (key _ rfl)
  intro w h
  have hfit : fits [(1, v.toNat), (1, u.toNat), (3, k.val), (4, t.code), (4, b.val), (4, a.val), (8, d.val), (7, 0x5A)] := ⟨(Bool.toNat_lt v), (Bool.toNat_lt u), k.isLt, (Nat.lt_of_lt_of_le (ElemType_code_lt t) (by decide)), b.isLt, a.isLt, d.isLt, by decide, trivial⟩
  have hpack := h.trans (show _ = pack _ by simp only [pack] <;> omega : _ = pack [(1, v.toNat), (1, u.toNat), (3, k.val), (4, t.code), (4, b.val), (4, a.val), (8, d.val), (7, 0x5A)])
  have h0_0 : bits w 0 0 = v.toNat := field_of hpack hfit 0
  have h1_1 : bits w 1 1 = u.toNat := field_of hpack hfit 1
  have h4_2 : bits w 4 2 = k.val := field_of hpack hfit 2
  have h8_5 : bits w 8 5 = t.code := field_of hpack hfit 3
  have h12_9 : bits w 12 9 = b.val := field_of hpack hfit 4
  have h16_13 : bits w 16 13 = a.val := field_of hpack hfit 5
  have h24_17 : bits w 24 17 = d.val := field_of hpack hfit 6
  have h31_25 : bits w 31 25 = 0x5A := field_of hpack hfit 7
  refine ⟨hpack ▸ pack_lt _ hfit, by rw [h31_25]; rfl, ?_⟩
  change decodeWord w = _
  rw [major5A h31_25, decodeMajor5A, h8_5, ElemType_ofCode t]
  simp only [named]
  rw [fin_eq d h24_17, fin_eq a h16_13, fin_eq b h12_9, fin_eq k h4_2, flag_eq u h1_1, flag_eq v h0_0]

theorem vmulh (d : Fin 256) (a : Fin 16) (b : Fin 16) (t : ElemType) (k : Fin 8) (u : Bool) (v : Bool) : Statement (.vmulh d a b t k u v) := by
  intro _ _
  suffices key : ∀ w, w = 3053453312 + d.val * 131072 + a.val * 8192 + b.val * 512 + t.code * 32 + k.val * 4 + u.toNat * 2 + v.toNat → decodes w (.vmulh d a b t k u v) none from decode_of rfl rfl (key _ rfl)
  intro w h
  have hfit : fits [(1, v.toNat), (1, u.toNat), (3, k.val), (4, t.code), (4, b.val), (4, a.val), (8, d.val), (7, 0x5B)] := ⟨(Bool.toNat_lt v), (Bool.toNat_lt u), k.isLt, (Nat.lt_of_lt_of_le (ElemType_code_lt t) (by decide)), b.isLt, a.isLt, d.isLt, by decide, trivial⟩
  have hpack := h.trans (show _ = pack _ by simp only [pack] <;> omega : _ = pack [(1, v.toNat), (1, u.toNat), (3, k.val), (4, t.code), (4, b.val), (4, a.val), (8, d.val), (7, 0x5B)])
  have h0_0 : bits w 0 0 = v.toNat := field_of hpack hfit 0
  have h1_1 : bits w 1 1 = u.toNat := field_of hpack hfit 1
  have h4_2 : bits w 4 2 = k.val := field_of hpack hfit 2
  have h8_5 : bits w 8 5 = t.code := field_of hpack hfit 3
  have h12_9 : bits w 12 9 = b.val := field_of hpack hfit 4
  have h16_13 : bits w 16 13 = a.val := field_of hpack hfit 5
  have h24_17 : bits w 24 17 = d.val := field_of hpack hfit 6
  have h31_25 : bits w 31 25 = 0x5B := field_of hpack hfit 7
  refine ⟨hpack ▸ pack_lt _ hfit, by rw [h31_25]; rfl, ?_⟩
  change decodeWord w = _
  rw [major5B h31_25, decodeMajor5B, h8_5, ElemType_ofCode t]
  simp only [named]
  rw [fin_eq d h24_17, fin_eq a h16_13, fin_eq b h12_9, fin_eq k h4_2, flag_eq u h1_1, flag_eq v h0_0]

theorem vmin (d : Fin 256) (a : Fin 16) (b : Fin 16) (t : ElemType) (k : Fin 8) (u : Bool) (v : Bool) : Statement (.vmin d a b t k u v) := by
  intro _ _
  suffices key : ∀ w, w = 3087007744 + d.val * 131072 + a.val * 8192 + b.val * 512 + t.code * 32 + k.val * 4 + u.toNat * 2 + v.toNat → decodes w (.vmin d a b t k u v) none from decode_of rfl rfl (key _ rfl)
  intro w h
  have hfit : fits [(1, v.toNat), (1, u.toNat), (3, k.val), (4, t.code), (4, b.val), (4, a.val), (8, d.val), (7, 0x5C)] := ⟨(Bool.toNat_lt v), (Bool.toNat_lt u), k.isLt, (Nat.lt_of_lt_of_le (ElemType_code_lt t) (by decide)), b.isLt, a.isLt, d.isLt, by decide, trivial⟩
  have hpack := h.trans (show _ = pack _ by simp only [pack] <;> omega : _ = pack [(1, v.toNat), (1, u.toNat), (3, k.val), (4, t.code), (4, b.val), (4, a.val), (8, d.val), (7, 0x5C)])
  have h0_0 : bits w 0 0 = v.toNat := field_of hpack hfit 0
  have h1_1 : bits w 1 1 = u.toNat := field_of hpack hfit 1
  have h4_2 : bits w 4 2 = k.val := field_of hpack hfit 2
  have h8_5 : bits w 8 5 = t.code := field_of hpack hfit 3
  have h12_9 : bits w 12 9 = b.val := field_of hpack hfit 4
  have h16_13 : bits w 16 13 = a.val := field_of hpack hfit 5
  have h24_17 : bits w 24 17 = d.val := field_of hpack hfit 6
  have h31_25 : bits w 31 25 = 0x5C := field_of hpack hfit 7
  refine ⟨hpack ▸ pack_lt _ hfit, by rw [h31_25]; rfl, ?_⟩
  change decodeWord w = _
  rw [major5C h31_25, decodeMajor5C, h8_5, ElemType_ofCode t]
  simp only [named]
  rw [fin_eq d h24_17, fin_eq a h16_13, fin_eq b h12_9, fin_eq k h4_2, flag_eq u h1_1, flag_eq v h0_0]

theorem vmax (d : Fin 256) (a : Fin 16) (b : Fin 16) (t : ElemType) (k : Fin 8) (u : Bool) (v : Bool) : Statement (.vmax d a b t k u v) := by
  intro _ _
  suffices key : ∀ w, w = 3120562176 + d.val * 131072 + a.val * 8192 + b.val * 512 + t.code * 32 + k.val * 4 + u.toNat * 2 + v.toNat → decodes w (.vmax d a b t k u v) none from decode_of rfl rfl (key _ rfl)
  intro w h
  have hfit : fits [(1, v.toNat), (1, u.toNat), (3, k.val), (4, t.code), (4, b.val), (4, a.val), (8, d.val), (7, 0x5D)] := ⟨(Bool.toNat_lt v), (Bool.toNat_lt u), k.isLt, (Nat.lt_of_lt_of_le (ElemType_code_lt t) (by decide)), b.isLt, a.isLt, d.isLt, by decide, trivial⟩
  have hpack := h.trans (show _ = pack _ by simp only [pack] <;> omega : _ = pack [(1, v.toNat), (1, u.toNat), (3, k.val), (4, t.code), (4, b.val), (4, a.val), (8, d.val), (7, 0x5D)])
  have h0_0 : bits w 0 0 = v.toNat := field_of hpack hfit 0
  have h1_1 : bits w 1 1 = u.toNat := field_of hpack hfit 1
  have h4_2 : bits w 4 2 = k.val := field_of hpack hfit 2
  have h8_5 : bits w 8 5 = t.code := field_of hpack hfit 3
  have h12_9 : bits w 12 9 = b.val := field_of hpack hfit 4
  have h16_13 : bits w 16 13 = a.val := field_of hpack hfit 5
  have h24_17 : bits w 24 17 = d.val := field_of hpack hfit 6
  have h31_25 : bits w 31 25 = 0x5D := field_of hpack hfit 7
  refine ⟨hpack ▸ pack_lt _ hfit, by rw [h31_25]; rfl, ?_⟩
  change decodeWord w = _
  rw [major5D h31_25, decodeMajor5D, h8_5, ElemType_ofCode t]
  simp only [named]
  rw [fin_eq d h24_17, fin_eq a h16_13, fin_eq b h12_9, fin_eq k h4_2, flag_eq u h1_1, flag_eq v h0_0]

theorem vand (d : Fin 256) (a : Fin 16) (b : Fin 16) (t : ElemType) (k : Fin 8) (u : Bool) (v : Bool) : Statement (.vand d a b t k u v) := by
  intro _ _
  suffices key : ∀ w, w = 3154116608 + d.val * 131072 + a.val * 8192 + b.val * 512 + t.code * 32 + k.val * 4 + u.toNat * 2 + v.toNat → decodes w (.vand d a b t k u v) none from decode_of rfl rfl (key _ rfl)
  intro w h
  have hfit : fits [(1, v.toNat), (1, u.toNat), (3, k.val), (4, t.code), (4, b.val), (4, a.val), (8, d.val), (7, 0x5E)] := ⟨(Bool.toNat_lt v), (Bool.toNat_lt u), k.isLt, (Nat.lt_of_lt_of_le (ElemType_code_lt t) (by decide)), b.isLt, a.isLt, d.isLt, by decide, trivial⟩
  have hpack := h.trans (show _ = pack _ by simp only [pack] <;> omega : _ = pack [(1, v.toNat), (1, u.toNat), (3, k.val), (4, t.code), (4, b.val), (4, a.val), (8, d.val), (7, 0x5E)])
  have h0_0 : bits w 0 0 = v.toNat := field_of hpack hfit 0
  have h1_1 : bits w 1 1 = u.toNat := field_of hpack hfit 1
  have h4_2 : bits w 4 2 = k.val := field_of hpack hfit 2
  have h8_5 : bits w 8 5 = t.code := field_of hpack hfit 3
  have h12_9 : bits w 12 9 = b.val := field_of hpack hfit 4
  have h16_13 : bits w 16 13 = a.val := field_of hpack hfit 5
  have h24_17 : bits w 24 17 = d.val := field_of hpack hfit 6
  have h31_25 : bits w 31 25 = 0x5E := field_of hpack hfit 7
  refine ⟨hpack ▸ pack_lt _ hfit, by rw [h31_25]; rfl, ?_⟩
  change decodeWord w = _
  rw [major5E h31_25, decodeMajor5E, h8_5, ElemType_ofCode t]
  simp only [named]
  rw [fin_eq d h24_17, fin_eq a h16_13, fin_eq b h12_9, fin_eq k h4_2, flag_eq u h1_1, flag_eq v h0_0]

theorem vor (d : Fin 256) (a : Fin 16) (b : Fin 16) (t : ElemType) (k : Fin 8) (u : Bool) (v : Bool) : Statement (.vor d a b t k u v) := by
  intro _ _
  suffices key : ∀ w, w = 3187671040 + d.val * 131072 + a.val * 8192 + b.val * 512 + t.code * 32 + k.val * 4 + u.toNat * 2 + v.toNat → decodes w (.vor d a b t k u v) none from decode_of rfl rfl (key _ rfl)
  intro w h
  have hfit : fits [(1, v.toNat), (1, u.toNat), (3, k.val), (4, t.code), (4, b.val), (4, a.val), (8, d.val), (7, 0x5F)] := ⟨(Bool.toNat_lt v), (Bool.toNat_lt u), k.isLt, (Nat.lt_of_lt_of_le (ElemType_code_lt t) (by decide)), b.isLt, a.isLt, d.isLt, by decide, trivial⟩
  have hpack := h.trans (show _ = pack _ by simp only [pack] <;> omega : _ = pack [(1, v.toNat), (1, u.toNat), (3, k.val), (4, t.code), (4, b.val), (4, a.val), (8, d.val), (7, 0x5F)])
  have h0_0 : bits w 0 0 = v.toNat := field_of hpack hfit 0
  have h1_1 : bits w 1 1 = u.toNat := field_of hpack hfit 1
  have h4_2 : bits w 4 2 = k.val := field_of hpack hfit 2
  have h8_5 : bits w 8 5 = t.code := field_of hpack hfit 3
  have h12_9 : bits w 12 9 = b.val := field_of hpack hfit 4
  have h16_13 : bits w 16 13 = a.val := field_of hpack hfit 5
  have h24_17 : bits w 24 17 = d.val := field_of hpack hfit 6
  have h31_25 : bits w 31 25 = 0x5F := field_of hpack hfit 7
  refine ⟨hpack ▸ pack_lt _ hfit, by rw [h31_25]; rfl, ?_⟩
  change decodeWord w = _
  rw [major5F h31_25, decodeMajor5F, h8_5, ElemType_ofCode t]
  simp only [named]
  rw [fin_eq d h24_17, fin_eq a h16_13, fin_eq b h12_9, fin_eq k h4_2, flag_eq u h1_1, flag_eq v h0_0]

theorem vxor (d : Fin 256) (a : Fin 16) (b : Fin 16) (t : ElemType) (k : Fin 8) (u : Bool) (v : Bool) : Statement (.vxor d a b t k u v) := by
  intro _ _
  suffices key : ∀ w, w = 3221225472 + d.val * 131072 + a.val * 8192 + b.val * 512 + t.code * 32 + k.val * 4 + u.toNat * 2 + v.toNat → decodes w (.vxor d a b t k u v) none from decode_of rfl rfl (key _ rfl)
  intro w h
  have hfit : fits [(1, v.toNat), (1, u.toNat), (3, k.val), (4, t.code), (4, b.val), (4, a.val), (8, d.val), (7, 0x60)] := ⟨(Bool.toNat_lt v), (Bool.toNat_lt u), k.isLt, (Nat.lt_of_lt_of_le (ElemType_code_lt t) (by decide)), b.isLt, a.isLt, d.isLt, by decide, trivial⟩
  have hpack := h.trans (show _ = pack _ by simp only [pack] <;> omega : _ = pack [(1, v.toNat), (1, u.toNat), (3, k.val), (4, t.code), (4, b.val), (4, a.val), (8, d.val), (7, 0x60)])
  have h0_0 : bits w 0 0 = v.toNat := field_of hpack hfit 0
  have h1_1 : bits w 1 1 = u.toNat := field_of hpack hfit 1
  have h4_2 : bits w 4 2 = k.val := field_of hpack hfit 2
  have h8_5 : bits w 8 5 = t.code := field_of hpack hfit 3
  have h12_9 : bits w 12 9 = b.val := field_of hpack hfit 4
  have h16_13 : bits w 16 13 = a.val := field_of hpack hfit 5
  have h24_17 : bits w 24 17 = d.val := field_of hpack hfit 6
  have h31_25 : bits w 31 25 = 0x60 := field_of hpack hfit 7
  refine ⟨hpack ▸ pack_lt _ hfit, by rw [h31_25]; rfl, ?_⟩
  change decodeWord w = _
  rw [major60 h31_25, decodeMajor60, h8_5, ElemType_ofCode t]
  simp only [named]
  rw [fin_eq d h24_17, fin_eq a h16_13, fin_eq b h12_9, fin_eq k h4_2, flag_eq u h1_1, flag_eq v h0_0]

theorem vshl (d : Fin 256) (a : Fin 16) (b : Fin 16) (t : ElemType) (k : Fin 8) (u : Bool) (v : Bool) : Statement (.vshl d a b t k u v) := by
  intro _ _
  suffices key : ∀ w, w = 3254779904 + d.val * 131072 + a.val * 8192 + b.val * 512 + t.code * 32 + k.val * 4 + u.toNat * 2 + v.toNat → decodes w (.vshl d a b t k u v) none from decode_of rfl rfl (key _ rfl)
  intro w h
  have hfit : fits [(1, v.toNat), (1, u.toNat), (3, k.val), (4, t.code), (4, b.val), (4, a.val), (8, d.val), (7, 0x61)] := ⟨(Bool.toNat_lt v), (Bool.toNat_lt u), k.isLt, (Nat.lt_of_lt_of_le (ElemType_code_lt t) (by decide)), b.isLt, a.isLt, d.isLt, by decide, trivial⟩
  have hpack := h.trans (show _ = pack _ by simp only [pack] <;> omega : _ = pack [(1, v.toNat), (1, u.toNat), (3, k.val), (4, t.code), (4, b.val), (4, a.val), (8, d.val), (7, 0x61)])
  have h0_0 : bits w 0 0 = v.toNat := field_of hpack hfit 0
  have h1_1 : bits w 1 1 = u.toNat := field_of hpack hfit 1
  have h4_2 : bits w 4 2 = k.val := field_of hpack hfit 2
  have h8_5 : bits w 8 5 = t.code := field_of hpack hfit 3
  have h12_9 : bits w 12 9 = b.val := field_of hpack hfit 4
  have h16_13 : bits w 16 13 = a.val := field_of hpack hfit 5
  have h24_17 : bits w 24 17 = d.val := field_of hpack hfit 6
  have h31_25 : bits w 31 25 = 0x61 := field_of hpack hfit 7
  refine ⟨hpack ▸ pack_lt _ hfit, by rw [h31_25]; rfl, ?_⟩
  change decodeWord w = _
  rw [major61 h31_25, decodeMajor61, h8_5, ElemType_ofCode t]
  simp only [named]
  rw [fin_eq d h24_17, fin_eq a h16_13, fin_eq b h12_9, fin_eq k h4_2, flag_eq u h1_1, flag_eq v h0_0]

theorem vshr (d : Fin 256) (a : Fin 16) (b : Fin 16) (t : ElemType) (k : Fin 8) (u : Bool) (v : Bool) : Statement (.vshr d a b t k u v) := by
  intro _ _
  suffices key : ∀ w, w = 3288334336 + d.val * 131072 + a.val * 8192 + b.val * 512 + t.code * 32 + k.val * 4 + u.toNat * 2 + v.toNat → decodes w (.vshr d a b t k u v) none from decode_of rfl rfl (key _ rfl)
  intro w h
  have hfit : fits [(1, v.toNat), (1, u.toNat), (3, k.val), (4, t.code), (4, b.val), (4, a.val), (8, d.val), (7, 0x62)] := ⟨(Bool.toNat_lt v), (Bool.toNat_lt u), k.isLt, (Nat.lt_of_lt_of_le (ElemType_code_lt t) (by decide)), b.isLt, a.isLt, d.isLt, by decide, trivial⟩
  have hpack := h.trans (show _ = pack _ by simp only [pack] <;> omega : _ = pack [(1, v.toNat), (1, u.toNat), (3, k.val), (4, t.code), (4, b.val), (4, a.val), (8, d.val), (7, 0x62)])
  have h0_0 : bits w 0 0 = v.toNat := field_of hpack hfit 0
  have h1_1 : bits w 1 1 = u.toNat := field_of hpack hfit 1
  have h4_2 : bits w 4 2 = k.val := field_of hpack hfit 2
  have h8_5 : bits w 8 5 = t.code := field_of hpack hfit 3
  have h12_9 : bits w 12 9 = b.val := field_of hpack hfit 4
  have h16_13 : bits w 16 13 = a.val := field_of hpack hfit 5
  have h24_17 : bits w 24 17 = d.val := field_of hpack hfit 6
  have h31_25 : bits w 31 25 = 0x62 := field_of hpack hfit 7
  refine ⟨hpack ▸ pack_lt _ hfit, by rw [h31_25]; rfl, ?_⟩
  change decodeWord w = _
  rw [major62 h31_25, decodeMajor62, h8_5, ElemType_ofCode t]
  simp only [named]
  rw [fin_eq d h24_17, fin_eq a h16_13, fin_eq b h12_9, fin_eq k h4_2, flag_eq u h1_1, flag_eq v h0_0]

theorem vshls (d : Fin 256) (a : Fin 16) (b : Fin 16) (t : ElemType) (k : Fin 8) (u : Bool) (v : Bool) : Statement (.vshls d a b t k u v) := by
  intro _ _
  suffices key : ∀ w, w = 3321888768 + d.val * 131072 + a.val * 8192 + b.val * 512 + t.code * 32 + k.val * 4 + u.toNat * 2 + v.toNat → decodes w (.vshls d a b t k u v) none from decode_of rfl rfl (key _ rfl)
  intro w h
  have hfit : fits [(1, v.toNat), (1, u.toNat), (3, k.val), (4, t.code), (4, b.val), (4, a.val), (8, d.val), (7, 0x63)] := ⟨(Bool.toNat_lt v), (Bool.toNat_lt u), k.isLt, (Nat.lt_of_lt_of_le (ElemType_code_lt t) (by decide)), b.isLt, a.isLt, d.isLt, by decide, trivial⟩
  have hpack := h.trans (show _ = pack _ by simp only [pack] <;> omega : _ = pack [(1, v.toNat), (1, u.toNat), (3, k.val), (4, t.code), (4, b.val), (4, a.val), (8, d.val), (7, 0x63)])
  have h0_0 : bits w 0 0 = v.toNat := field_of hpack hfit 0
  have h1_1 : bits w 1 1 = u.toNat := field_of hpack hfit 1
  have h4_2 : bits w 4 2 = k.val := field_of hpack hfit 2
  have h8_5 : bits w 8 5 = t.code := field_of hpack hfit 3
  have h12_9 : bits w 12 9 = b.val := field_of hpack hfit 4
  have h16_13 : bits w 16 13 = a.val := field_of hpack hfit 5
  have h24_17 : bits w 24 17 = d.val := field_of hpack hfit 6
  have h31_25 : bits w 31 25 = 0x63 := field_of hpack hfit 7
  refine ⟨hpack ▸ pack_lt _ hfit, by rw [h31_25]; rfl, ?_⟩
  change decodeWord w = _
  rw [major63 h31_25, decodeMajor63, h8_5, ElemType_ofCode t]
  simp only [named]
  rw [fin_eq d h24_17, fin_eq a h16_13, fin_eq b h12_9, fin_eq k h4_2, flag_eq u h1_1, flag_eq v h0_0]

theorem vcmp (x : ICond) (p : Fin 8) (a : Fin 16) (b : Fin 16) (t : ElemType) (k : Fin 8) (u : Bool) (v : Bool) : Statement (.vcmp x p a b t k u v) := by
  intro _ _
  suffices key : ∀ w, w = 3355443200 + x.code * 1048576 + p.val * 131072 + a.val * 8192 + b.val * 512 + t.code * 32 + k.val * 4 + u.toNat * 2 + v.toNat → decodes w (.vcmp x p a b t k u v) none from decode_of rfl rfl (key _ rfl)
  intro w h
  have hfit : fits [(1, v.toNat), (1, u.toNat), (3, k.val), (4, t.code), (4, b.val), (4, a.val), (3, p.val), (5, x.code), (7, 0x64)] := ⟨(Bool.toNat_lt v), (Bool.toNat_lt u), k.isLt, (Nat.lt_of_lt_of_le (ElemType_code_lt t) (by decide)), b.isLt, a.isLt, p.isLt, (Nat.lt_of_lt_of_le (ICond_code_lt x) (by decide)), by decide, trivial⟩
  have hpack := h.trans (show _ = pack _ by simp only [pack] <;> omega : _ = pack [(1, v.toNat), (1, u.toNat), (3, k.val), (4, t.code), (4, b.val), (4, a.val), (3, p.val), (5, x.code), (7, 0x64)])
  have h0_0 : bits w 0 0 = v.toNat := field_of hpack hfit 0
  have h1_1 : bits w 1 1 = u.toNat := field_of hpack hfit 1
  have h4_2 : bits w 4 2 = k.val := field_of hpack hfit 2
  have h8_5 : bits w 8 5 = t.code := field_of hpack hfit 3
  have h12_9 : bits w 12 9 = b.val := field_of hpack hfit 4
  have h16_13 : bits w 16 13 = a.val := field_of hpack hfit 5
  have h19_17 : bits w 19 17 = p.val := field_of hpack hfit 6
  have h24_20 : bits w 24 20 = x.code := field_of hpack hfit 7
  have h31_25 : bits w 31 25 = 0x64 := field_of hpack hfit 8
  refine ⟨hpack ▸ pack_lt _ hfit, by rw [h31_25]; rfl, ?_⟩
  change decodeWord w = _
  rw [major64 h31_25, decodeMajor64, h24_20, ICond_ofCode x, h8_5, ElemType_ofCode t]
  simp only [named]
  rw [fin_eq p h19_17, fin_eq a h16_13, fin_eq b h12_9, fin_eq k h4_2, flag_eq u h1_1, flag_eq v h0_0]

theorem vabs (d : Fin 256) (a : Fin 16) (t : ElemType) (k : Fin 8) (u : Bool) : Statement (.vabs d a t k u) := by
  intro _ _
  suffices key : ∀ w, w = 3388997632 + d.val * 131072 + a.val * 8192 + t.code * 32 + k.val * 4 + u.toNat * 2 → decodes w (.vabs d a t k u) none from decode_of rfl rfl (key _ rfl)
  intro w h
  have hfit : fits [(1, 0), (1, u.toNat), (3, k.val), (4, t.code), (4, 0), (4, a.val), (8, d.val), (7, 0x65)] := ⟨by decide, (Bool.toNat_lt u), k.isLt, (Nat.lt_of_lt_of_le (ElemType_code_lt t) (by decide)), by decide, a.isLt, d.isLt, by decide, trivial⟩
  have hpack := h.trans (show _ = pack _ by simp only [pack] <;> omega : _ = pack [(1, 0), (1, u.toNat), (3, k.val), (4, t.code), (4, 0), (4, a.val), (8, d.val), (7, 0x65)])
  have h0_0 : bits w 0 0 = 0 := field_of hpack hfit 0
  have h1_1 : bits w 1 1 = u.toNat := field_of hpack hfit 1
  have h4_2 : bits w 4 2 = k.val := field_of hpack hfit 2
  have h8_5 : bits w 8 5 = t.code := field_of hpack hfit 3
  have h12_9 : bits w 12 9 = 0 := field_of hpack hfit 4
  have h16_13 : bits w 16 13 = a.val := field_of hpack hfit 5
  have h24_17 : bits w 24 17 = d.val := field_of hpack hfit 6
  have h31_25 : bits w 31 25 = 0x65 := field_of hpack hfit 7
  refine ⟨hpack ▸ pack_lt _ hfit, by rw [h31_25]; rfl, ?_⟩
  change decodeWord w = _
  rw [major65 h31_25, decodeMajor65, if_pos ⟨h12_9, h0_0⟩, h8_5, ElemType_ofCode t]
  simp only [named]
  rw [fin_eq d h24_17, fin_eq a h16_13, fin_eq k h4_2, flag_eq u h1_1]

theorem vabss (d : Fin 256) (a : Fin 16) (t : ElemType) (k : Fin 8) (u : Bool) : Statement (.vabss d a t k u) := by
  intro _ _
  suffices key : ∀ w, w = 3388998144 + d.val * 131072 + a.val * 8192 + t.code * 32 + k.val * 4 + u.toNat * 2 → decodes w (.vabss d a t k u) none from decode_of rfl rfl (key _ rfl)
  intro w h
  have hfit : fits [(1, 0), (1, u.toNat), (3, k.val), (4, t.code), (4, 1), (4, a.val), (8, d.val), (7, 0x65)] := ⟨by decide, (Bool.toNat_lt u), k.isLt, (Nat.lt_of_lt_of_le (ElemType_code_lt t) (by decide)), by decide, a.isLt, d.isLt, by decide, trivial⟩
  have hpack := h.trans (show _ = pack _ by simp only [pack] <;> omega : _ = pack [(1, 0), (1, u.toNat), (3, k.val), (4, t.code), (4, 1), (4, a.val), (8, d.val), (7, 0x65)])
  have h0_0 : bits w 0 0 = 0 := field_of hpack hfit 0
  have h1_1 : bits w 1 1 = u.toNat := field_of hpack hfit 1
  have h4_2 : bits w 4 2 = k.val := field_of hpack hfit 2
  have h8_5 : bits w 8 5 = t.code := field_of hpack hfit 3
  have h12_9 : bits w 12 9 = 1 := field_of hpack hfit 4
  have h16_13 : bits w 16 13 = a.val := field_of hpack hfit 5
  have h24_17 : bits w 24 17 = d.val := field_of hpack hfit 6
  have h31_25 : bits w 31 25 = 0x65 := field_of hpack hfit 7
  refine ⟨hpack ▸ pack_lt _ hfit, by rw [h31_25]; rfl, ?_⟩
  change decodeWord w = _
  rw [major65 h31_25, decodeMajor65, if_neg (by simp [h12_9]), if_pos ⟨h12_9, h0_0⟩, h8_5, ElemType_ofCode t]
  simp only [named]
  rw [fin_eq d h24_17, fin_eq a h16_13, fin_eq k h4_2, flag_eq u h1_1]

theorem vneg (d : Fin 256) (a : Fin 16) (t : ElemType) (k : Fin 8) (u : Bool) : Statement (.vneg d a t k u) := by
  intro _ _
  suffices key : ∀ w, w = 3388998656 + d.val * 131072 + a.val * 8192 + t.code * 32 + k.val * 4 + u.toNat * 2 → decodes w (.vneg d a t k u) none from decode_of rfl rfl (key _ rfl)
  intro w h
  have hfit : fits [(1, 0), (1, u.toNat), (3, k.val), (4, t.code), (4, 2), (4, a.val), (8, d.val), (7, 0x65)] := ⟨by decide, (Bool.toNat_lt u), k.isLt, (Nat.lt_of_lt_of_le (ElemType_code_lt t) (by decide)), by decide, a.isLt, d.isLt, by decide, trivial⟩
  have hpack := h.trans (show _ = pack _ by simp only [pack] <;> omega : _ = pack [(1, 0), (1, u.toNat), (3, k.val), (4, t.code), (4, 2), (4, a.val), (8, d.val), (7, 0x65)])
  have h0_0 : bits w 0 0 = 0 := field_of hpack hfit 0
  have h1_1 : bits w 1 1 = u.toNat := field_of hpack hfit 1
  have h4_2 : bits w 4 2 = k.val := field_of hpack hfit 2
  have h8_5 : bits w 8 5 = t.code := field_of hpack hfit 3
  have h12_9 : bits w 12 9 = 2 := field_of hpack hfit 4
  have h16_13 : bits w 16 13 = a.val := field_of hpack hfit 5
  have h24_17 : bits w 24 17 = d.val := field_of hpack hfit 6
  have h31_25 : bits w 31 25 = 0x65 := field_of hpack hfit 7
  refine ⟨hpack ▸ pack_lt _ hfit, by rw [h31_25]; rfl, ?_⟩
  change decodeWord w = _
  rw [major65 h31_25, decodeMajor65, if_neg (by simp [h12_9]), if_neg (by simp [h12_9]), if_pos ⟨h12_9, h0_0⟩, h8_5, ElemType_ofCode t]
  simp only [named]
  rw [fin_eq d h24_17, fin_eq a h16_13, fin_eq k h4_2, flag_eq u h1_1]

theorem vnegs (d : Fin 256) (a : Fin 16) (t : ElemType) (k : Fin 8) (u : Bool) : Statement (.vnegs d a t k u) := by
  intro _ _
  suffices key : ∀ w, w = 3388999168 + d.val * 131072 + a.val * 8192 + t.code * 32 + k.val * 4 + u.toNat * 2 → decodes w (.vnegs d a t k u) none from decode_of rfl rfl (key _ rfl)
  intro w h
  have hfit : fits [(1, 0), (1, u.toNat), (3, k.val), (4, t.code), (4, 3), (4, a.val), (8, d.val), (7, 0x65)] := ⟨by decide, (Bool.toNat_lt u), k.isLt, (Nat.lt_of_lt_of_le (ElemType_code_lt t) (by decide)), by decide, a.isLt, d.isLt, by decide, trivial⟩
  have hpack := h.trans (show _ = pack _ by simp only [pack] <;> omega : _ = pack [(1, 0), (1, u.toNat), (3, k.val), (4, t.code), (4, 3), (4, a.val), (8, d.val), (7, 0x65)])
  have h0_0 : bits w 0 0 = 0 := field_of hpack hfit 0
  have h1_1 : bits w 1 1 = u.toNat := field_of hpack hfit 1
  have h4_2 : bits w 4 2 = k.val := field_of hpack hfit 2
  have h8_5 : bits w 8 5 = t.code := field_of hpack hfit 3
  have h12_9 : bits w 12 9 = 3 := field_of hpack hfit 4
  have h16_13 : bits w 16 13 = a.val := field_of hpack hfit 5
  have h24_17 : bits w 24 17 = d.val := field_of hpack hfit 6
  have h31_25 : bits w 31 25 = 0x65 := field_of hpack hfit 7
  refine ⟨hpack ▸ pack_lt _ hfit, by rw [h31_25]; rfl, ?_⟩
  change decodeWord w = _
  rw [major65 h31_25, decodeMajor65, if_neg (by simp [h12_9]), if_neg (by simp [h12_9]), if_neg (by simp [h12_9]), if_pos ⟨h12_9, h0_0⟩, h8_5, ElemType_ofCode t]
  simp only [named]
  rw [fin_eq d h24_17, fin_eq a h16_13, fin_eq k h4_2, flag_eq u h1_1]

theorem vnot (d : Fin 256) (a : Fin 16) (t : ElemType) (k : Fin 8) (u : Bool) : Statement (.vnot d a t k u) := by
  intro _ _
  suffices key : ∀ w, w = 3388999680 + d.val * 131072 + a.val * 8192 + t.code * 32 + k.val * 4 + u.toNat * 2 → decodes w (.vnot d a t k u) none from decode_of rfl rfl (key _ rfl)
  intro w h
  have hfit : fits [(1, 0), (1, u.toNat), (3, k.val), (4, t.code), (4, 4), (4, a.val), (8, d.val), (7, 0x65)] := ⟨by decide, (Bool.toNat_lt u), k.isLt, (Nat.lt_of_lt_of_le (ElemType_code_lt t) (by decide)), by decide, a.isLt, d.isLt, by decide, trivial⟩
  have hpack := h.trans (show _ = pack _ by simp only [pack] <;> omega : _ = pack [(1, 0), (1, u.toNat), (3, k.val), (4, t.code), (4, 4), (4, a.val), (8, d.val), (7, 0x65)])
  have h0_0 : bits w 0 0 = 0 := field_of hpack hfit 0
  have h1_1 : bits w 1 1 = u.toNat := field_of hpack hfit 1
  have h4_2 : bits w 4 2 = k.val := field_of hpack hfit 2
  have h8_5 : bits w 8 5 = t.code := field_of hpack hfit 3
  have h12_9 : bits w 12 9 = 4 := field_of hpack hfit 4
  have h16_13 : bits w 16 13 = a.val := field_of hpack hfit 5
  have h24_17 : bits w 24 17 = d.val := field_of hpack hfit 6
  have h31_25 : bits w 31 25 = 0x65 := field_of hpack hfit 7
  refine ⟨hpack ▸ pack_lt _ hfit, by rw [h31_25]; rfl, ?_⟩
  change decodeWord w = _
  rw [major65 h31_25, decodeMajor65, if_neg (by simp [h12_9]), if_neg (by simp [h12_9]), if_neg (by simp [h12_9]), if_neg (by simp [h12_9]), if_pos ⟨h12_9, h0_0⟩, h8_5, ElemType_ofCode t]
  simp only [named]
  rw [fin_eq d h24_17, fin_eq a h16_13, fin_eq k h4_2, flag_eq u h1_1]

theorem vclz (d : Fin 256) (a : Fin 16) (t : ElemType) (k : Fin 8) (u : Bool) : Statement (.vclz d a t k u) := by
  intro _ _
  suffices key : ∀ w, w = 3389000192 + d.val * 131072 + a.val * 8192 + t.code * 32 + k.val * 4 + u.toNat * 2 → decodes w (.vclz d a t k u) none from decode_of rfl rfl (key _ rfl)
  intro w h
  have hfit : fits [(1, 0), (1, u.toNat), (3, k.val), (4, t.code), (4, 5), (4, a.val), (8, d.val), (7, 0x65)] := ⟨by decide, (Bool.toNat_lt u), k.isLt, (Nat.lt_of_lt_of_le (ElemType_code_lt t) (by decide)), by decide, a.isLt, d.isLt, by decide, trivial⟩
  have hpack := h.trans (show _ = pack _ by simp only [pack] <;> omega : _ = pack [(1, 0), (1, u.toNat), (3, k.val), (4, t.code), (4, 5), (4, a.val), (8, d.val), (7, 0x65)])
  have h0_0 : bits w 0 0 = 0 := field_of hpack hfit 0
  have h1_1 : bits w 1 1 = u.toNat := field_of hpack hfit 1
  have h4_2 : bits w 4 2 = k.val := field_of hpack hfit 2
  have h8_5 : bits w 8 5 = t.code := field_of hpack hfit 3
  have h12_9 : bits w 12 9 = 5 := field_of hpack hfit 4
  have h16_13 : bits w 16 13 = a.val := field_of hpack hfit 5
  have h24_17 : bits w 24 17 = d.val := field_of hpack hfit 6
  have h31_25 : bits w 31 25 = 0x65 := field_of hpack hfit 7
  refine ⟨hpack ▸ pack_lt _ hfit, by rw [h31_25]; rfl, ?_⟩
  change decodeWord w = _
  rw [major65 h31_25, decodeMajor65, if_neg (by simp [h12_9]), if_neg (by simp [h12_9]), if_neg (by simp [h12_9]), if_neg (by simp [h12_9]), if_neg (by simp [h12_9]), if_pos ⟨h12_9, h0_0⟩, h8_5, ElemType_ofCode t]
  simp only [named]
  rw [fin_eq d h24_17, fin_eq a h16_13, fin_eq k h4_2, flag_eq u h1_1]

theorem vpopc (d : Fin 256) (a : Fin 16) (t : ElemType) (k : Fin 8) (u : Bool) : Statement (.vpopc d a t k u) := by
  intro _ _
  suffices key : ∀ w, w = 3389000704 + d.val * 131072 + a.val * 8192 + t.code * 32 + k.val * 4 + u.toNat * 2 → decodes w (.vpopc d a t k u) none from decode_of rfl rfl (key _ rfl)
  intro w h
  have hfit : fits [(1, 0), (1, u.toNat), (3, k.val), (4, t.code), (4, 6), (4, a.val), (8, d.val), (7, 0x65)] := ⟨by decide, (Bool.toNat_lt u), k.isLt, (Nat.lt_of_lt_of_le (ElemType_code_lt t) (by decide)), by decide, a.isLt, d.isLt, by decide, trivial⟩
  have hpack := h.trans (show _ = pack _ by simp only [pack] <;> omega : _ = pack [(1, 0), (1, u.toNat), (3, k.val), (4, t.code), (4, 6), (4, a.val), (8, d.val), (7, 0x65)])
  have h0_0 : bits w 0 0 = 0 := field_of hpack hfit 0
  have h1_1 : bits w 1 1 = u.toNat := field_of hpack hfit 1
  have h4_2 : bits w 4 2 = k.val := field_of hpack hfit 2
  have h8_5 : bits w 8 5 = t.code := field_of hpack hfit 3
  have h12_9 : bits w 12 9 = 6 := field_of hpack hfit 4
  have h16_13 : bits w 16 13 = a.val := field_of hpack hfit 5
  have h24_17 : bits w 24 17 = d.val := field_of hpack hfit 6
  have h31_25 : bits w 31 25 = 0x65 := field_of hpack hfit 7
  refine ⟨hpack ▸ pack_lt _ hfit, by rw [h31_25]; rfl, ?_⟩
  change decodeWord w = _
  rw [major65 h31_25, decodeMajor65, if_neg (by simp [h12_9]), if_neg (by simp [h12_9]), if_neg (by simp [h12_9]), if_neg (by simp [h12_9]), if_neg (by simp [h12_9]), if_neg (by simp [h12_9]), if_pos ⟨h12_9, h0_0⟩, h8_5, ElemType_ofCode t]
  simp only [named]
  rw [fin_eq d h24_17, fin_eq a h16_13, fin_eq k h4_2, flag_eq u h1_1]

theorem cvtRne (d : Fin 256) (a : Fin 16) (s : ElemType) (t : ElemType) (k : Fin 8) (u : Bool) : Statement (.cvtRne d a s t k u) := by
  intro _ _
  suffices key : ∀ w, w = 3422552064 + d.val * 131072 + a.val * 8192 + s.code * 512 + t.code * 32 + k.val * 4 + u.toNat * 2 → decodes w (.cvtRne d a s t k u) none from decode_of rfl rfl (key _ rfl)
  intro w h
  have hfit : fits [(1, 0), (1, u.toNat), (3, k.val), (4, t.code), (4, s.code), (4, a.val), (8, d.val), (7, 0x66)] := ⟨by decide, (Bool.toNat_lt u), k.isLt, (Nat.lt_of_lt_of_le (ElemType_code_lt t) (by decide)), (Nat.lt_of_lt_of_le (ElemType_code_lt s) (by decide)), a.isLt, d.isLt, by decide, trivial⟩
  have hpack := h.trans (show _ = pack _ by simp only [pack] <;> omega : _ = pack [(1, 0), (1, u.toNat), (3, k.val), (4, t.code), (4, s.code), (4, a.val), (8, d.val), (7, 0x66)])
  have h0_0 : bits w 0 0 = 0 := field_of hpack hfit 0
  have h1_1 : bits w 1 1 = u.toNat := field_of hpack hfit 1
  have h4_2 : bits w 4 2 = k.val := field_of hpack hfit 2
  have h8_5 : bits w 8 5 = t.code := field_of hpack hfit 3
  have h12_9 : bits w 12 9 = s.code := field_of hpack hfit 4
  have h16_13 : bits w 16 13 = a.val := field_of hpack hfit 5
  have h24_17 : bits w 24 17 = d.val := field_of hpack hfit 6
  have h31_25 : bits w 31 25 = 0x66 := field_of hpack hfit 7
  refine ⟨hpack ▸ pack_lt _ hfit, by rw [h31_25]; rfl, ?_⟩
  change decodeWord w = _
  rw [major66 h31_25, decodeMajor66, if_pos h0_0, h12_9, ElemType_ofCode s, h8_5, ElemType_ofCode t]
  simp only [named]
  rw [fin_eq d h24_17, fin_eq a h16_13, fin_eq k h4_2, flag_eq u h1_1]

theorem cvtsRne (d : Fin 256) (a : Fin 16) (s : ElemType) (t : ElemType) (k : Fin 8) (u : Bool) : Statement (.cvtsRne d a s t k u) := by
  intro _ _
  suffices key : ∀ w, w = 3422552065 + d.val * 131072 + a.val * 8192 + s.code * 512 + t.code * 32 + k.val * 4 + u.toNat * 2 → decodes w (.cvtsRne d a s t k u) none from decode_of rfl rfl (key _ rfl)
  intro w h
  have hfit : fits [(1, 1), (1, u.toNat), (3, k.val), (4, t.code), (4, s.code), (4, a.val), (8, d.val), (7, 0x66)] := ⟨by decide, (Bool.toNat_lt u), k.isLt, (Nat.lt_of_lt_of_le (ElemType_code_lt t) (by decide)), (Nat.lt_of_lt_of_le (ElemType_code_lt s) (by decide)), a.isLt, d.isLt, by decide, trivial⟩
  have hpack := h.trans (show _ = pack _ by simp only [pack] <;> omega : _ = pack [(1, 1), (1, u.toNat), (3, k.val), (4, t.code), (4, s.code), (4, a.val), (8, d.val), (7, 0x66)])
  have h0_0 : bits w 0 0 = 1 := field_of hpack hfit 0
  have h1_1 : bits w 1 1 = u.toNat := field_of hpack hfit 1
  have h4_2 : bits w 4 2 = k.val := field_of hpack hfit 2
  have h8_5 : bits w 8 5 = t.code := field_of hpack hfit 3
  have h12_9 : bits w 12 9 = s.code := field_of hpack hfit 4
  have h16_13 : bits w 16 13 = a.val := field_of hpack hfit 5
  have h24_17 : bits w 24 17 = d.val := field_of hpack hfit 6
  have h31_25 : bits w 31 25 = 0x66 := field_of hpack hfit 7
  refine ⟨hpack ▸ pack_lt _ hfit, by rw [h31_25]; rfl, ?_⟩
  change decodeWord w = _
  rw [major66 h31_25, decodeMajor66, if_neg (by rw [h0_0]; decide), if_pos h0_0, h12_9, ElemType_ofCode s, h8_5, ElemType_ofCode t]
  simp only [named]
  rw [fin_eq d h24_17, fin_eq a h16_13, fin_eq k h4_2, flag_eq u h1_1]

theorem cvtRtz (d : Fin 256) (a : Fin 16) (s : ElemType) (t : ElemType) (k : Fin 8) (u : Bool) : Statement (.cvtRtz d a s t k u) := by
  intro _ _
  suffices key : ∀ w, w = 3456106496 + d.val * 131072 + a.val * 8192 + s.code * 512 + t.code * 32 + k.val * 4 + u.toNat * 2 → decodes w (.cvtRtz d a s t k u) none from decode_of rfl rfl (key _ rfl)
  intro w h
  have hfit : fits [(1, 0), (1, u.toNat), (3, k.val), (4, t.code), (4, s.code), (4, a.val), (8, d.val), (7, 0x67)] := ⟨by decide, (Bool.toNat_lt u), k.isLt, (Nat.lt_of_lt_of_le (ElemType_code_lt t) (by decide)), (Nat.lt_of_lt_of_le (ElemType_code_lt s) (by decide)), a.isLt, d.isLt, by decide, trivial⟩
  have hpack := h.trans (show _ = pack _ by simp only [pack] <;> omega : _ = pack [(1, 0), (1, u.toNat), (3, k.val), (4, t.code), (4, s.code), (4, a.val), (8, d.val), (7, 0x67)])
  have h0_0 : bits w 0 0 = 0 := field_of hpack hfit 0
  have h1_1 : bits w 1 1 = u.toNat := field_of hpack hfit 1
  have h4_2 : bits w 4 2 = k.val := field_of hpack hfit 2
  have h8_5 : bits w 8 5 = t.code := field_of hpack hfit 3
  have h12_9 : bits w 12 9 = s.code := field_of hpack hfit 4
  have h16_13 : bits w 16 13 = a.val := field_of hpack hfit 5
  have h24_17 : bits w 24 17 = d.val := field_of hpack hfit 6
  have h31_25 : bits w 31 25 = 0x67 := field_of hpack hfit 7
  refine ⟨hpack ▸ pack_lt _ hfit, by rw [h31_25]; rfl, ?_⟩
  change decodeWord w = _
  rw [major67 h31_25, decodeMajor67, if_pos h0_0, h12_9, ElemType_ofCode s, h8_5, ElemType_ofCode t]
  simp only [named]
  rw [fin_eq d h24_17, fin_eq a h16_13, fin_eq k h4_2, flag_eq u h1_1]

theorem cvtsRtz (d : Fin 256) (a : Fin 16) (s : ElemType) (t : ElemType) (k : Fin 8) (u : Bool) : Statement (.cvtsRtz d a s t k u) := by
  intro _ _
  suffices key : ∀ w, w = 3456106497 + d.val * 131072 + a.val * 8192 + s.code * 512 + t.code * 32 + k.val * 4 + u.toNat * 2 → decodes w (.cvtsRtz d a s t k u) none from decode_of rfl rfl (key _ rfl)
  intro w h
  have hfit : fits [(1, 1), (1, u.toNat), (3, k.val), (4, t.code), (4, s.code), (4, a.val), (8, d.val), (7, 0x67)] := ⟨by decide, (Bool.toNat_lt u), k.isLt, (Nat.lt_of_lt_of_le (ElemType_code_lt t) (by decide)), (Nat.lt_of_lt_of_le (ElemType_code_lt s) (by decide)), a.isLt, d.isLt, by decide, trivial⟩
  have hpack := h.trans (show _ = pack _ by simp only [pack] <;> omega : _ = pack [(1, 1), (1, u.toNat), (3, k.val), (4, t.code), (4, s.code), (4, a.val), (8, d.val), (7, 0x67)])
  have h0_0 : bits w 0 0 = 1 := field_of hpack hfit 0
  have h1_1 : bits w 1 1 = u.toNat := field_of hpack hfit 1
  have h4_2 : bits w 4 2 = k.val := field_of hpack hfit 2
  have h8_5 : bits w 8 5 = t.code := field_of hpack hfit 3
  have h12_9 : bits w 12 9 = s.code := field_of hpack hfit 4
  have h16_13 : bits w 16 13 = a.val := field_of hpack hfit 5
  have h24_17 : bits w 24 17 = d.val := field_of hpack hfit 6
  have h31_25 : bits w 31 25 = 0x67 := field_of hpack hfit 7
  refine ⟨hpack ▸ pack_lt _ hfit, by rw [h31_25]; rfl, ?_⟩
  change decodeWord w = _
  rw [major67 h31_25, decodeMajor67, if_neg (by rw [h0_0]; decide), if_pos h0_0, h12_9, ElemType_ofCode s, h8_5, ElemType_ofCode t]
  simp only [named]
  rw [fin_eq d h24_17, fin_eq a h16_13, fin_eq k h4_2, flag_eq u h1_1]

theorem cvtRup (d : Fin 256) (a : Fin 16) (s : ElemType) (t : ElemType) (k : Fin 8) (u : Bool) : Statement (.cvtRup d a s t k u) := by
  intro _ _
  suffices key : ∀ w, w = 3489660928 + d.val * 131072 + a.val * 8192 + s.code * 512 + t.code * 32 + k.val * 4 + u.toNat * 2 → decodes w (.cvtRup d a s t k u) none from decode_of rfl rfl (key _ rfl)
  intro w h
  have hfit : fits [(1, 0), (1, u.toNat), (3, k.val), (4, t.code), (4, s.code), (4, a.val), (8, d.val), (7, 0x68)] := ⟨by decide, (Bool.toNat_lt u), k.isLt, (Nat.lt_of_lt_of_le (ElemType_code_lt t) (by decide)), (Nat.lt_of_lt_of_le (ElemType_code_lt s) (by decide)), a.isLt, d.isLt, by decide, trivial⟩
  have hpack := h.trans (show _ = pack _ by simp only [pack] <;> omega : _ = pack [(1, 0), (1, u.toNat), (3, k.val), (4, t.code), (4, s.code), (4, a.val), (8, d.val), (7, 0x68)])
  have h0_0 : bits w 0 0 = 0 := field_of hpack hfit 0
  have h1_1 : bits w 1 1 = u.toNat := field_of hpack hfit 1
  have h4_2 : bits w 4 2 = k.val := field_of hpack hfit 2
  have h8_5 : bits w 8 5 = t.code := field_of hpack hfit 3
  have h12_9 : bits w 12 9 = s.code := field_of hpack hfit 4
  have h16_13 : bits w 16 13 = a.val := field_of hpack hfit 5
  have h24_17 : bits w 24 17 = d.val := field_of hpack hfit 6
  have h31_25 : bits w 31 25 = 0x68 := field_of hpack hfit 7
  refine ⟨hpack ▸ pack_lt _ hfit, by rw [h31_25]; rfl, ?_⟩
  change decodeWord w = _
  rw [major68 h31_25, decodeMajor68, if_pos h0_0, h12_9, ElemType_ofCode s, h8_5, ElemType_ofCode t]
  simp only [named]
  rw [fin_eq d h24_17, fin_eq a h16_13, fin_eq k h4_2, flag_eq u h1_1]

theorem cvtsRup (d : Fin 256) (a : Fin 16) (s : ElemType) (t : ElemType) (k : Fin 8) (u : Bool) : Statement (.cvtsRup d a s t k u) := by
  intro _ _
  suffices key : ∀ w, w = 3489660929 + d.val * 131072 + a.val * 8192 + s.code * 512 + t.code * 32 + k.val * 4 + u.toNat * 2 → decodes w (.cvtsRup d a s t k u) none from decode_of rfl rfl (key _ rfl)
  intro w h
  have hfit : fits [(1, 1), (1, u.toNat), (3, k.val), (4, t.code), (4, s.code), (4, a.val), (8, d.val), (7, 0x68)] := ⟨by decide, (Bool.toNat_lt u), k.isLt, (Nat.lt_of_lt_of_le (ElemType_code_lt t) (by decide)), (Nat.lt_of_lt_of_le (ElemType_code_lt s) (by decide)), a.isLt, d.isLt, by decide, trivial⟩
  have hpack := h.trans (show _ = pack _ by simp only [pack] <;> omega : _ = pack [(1, 1), (1, u.toNat), (3, k.val), (4, t.code), (4, s.code), (4, a.val), (8, d.val), (7, 0x68)])
  have h0_0 : bits w 0 0 = 1 := field_of hpack hfit 0
  have h1_1 : bits w 1 1 = u.toNat := field_of hpack hfit 1
  have h4_2 : bits w 4 2 = k.val := field_of hpack hfit 2
  have h8_5 : bits w 8 5 = t.code := field_of hpack hfit 3
  have h12_9 : bits w 12 9 = s.code := field_of hpack hfit 4
  have h16_13 : bits w 16 13 = a.val := field_of hpack hfit 5
  have h24_17 : bits w 24 17 = d.val := field_of hpack hfit 6
  have h31_25 : bits w 31 25 = 0x68 := field_of hpack hfit 7
  refine ⟨hpack ▸ pack_lt _ hfit, by rw [h31_25]; rfl, ?_⟩
  change decodeWord w = _
  rw [major68 h31_25, decodeMajor68, if_neg (by rw [h0_0]; decide), if_pos h0_0, h12_9, ElemType_ofCode s, h8_5, ElemType_ofCode t]
  simp only [named]
  rw [fin_eq d h24_17, fin_eq a h16_13, fin_eq k h4_2, flag_eq u h1_1]

theorem cvtRdn (d : Fin 256) (a : Fin 16) (s : ElemType) (t : ElemType) (k : Fin 8) (u : Bool) : Statement (.cvtRdn d a s t k u) := by
  intro _ _
  suffices key : ∀ w, w = 3523215360 + d.val * 131072 + a.val * 8192 + s.code * 512 + t.code * 32 + k.val * 4 + u.toNat * 2 → decodes w (.cvtRdn d a s t k u) none from decode_of rfl rfl (key _ rfl)
  intro w h
  have hfit : fits [(1, 0), (1, u.toNat), (3, k.val), (4, t.code), (4, s.code), (4, a.val), (8, d.val), (7, 0x69)] := ⟨by decide, (Bool.toNat_lt u), k.isLt, (Nat.lt_of_lt_of_le (ElemType_code_lt t) (by decide)), (Nat.lt_of_lt_of_le (ElemType_code_lt s) (by decide)), a.isLt, d.isLt, by decide, trivial⟩
  have hpack := h.trans (show _ = pack _ by simp only [pack] <;> omega : _ = pack [(1, 0), (1, u.toNat), (3, k.val), (4, t.code), (4, s.code), (4, a.val), (8, d.val), (7, 0x69)])
  have h0_0 : bits w 0 0 = 0 := field_of hpack hfit 0
  have h1_1 : bits w 1 1 = u.toNat := field_of hpack hfit 1
  have h4_2 : bits w 4 2 = k.val := field_of hpack hfit 2
  have h8_5 : bits w 8 5 = t.code := field_of hpack hfit 3
  have h12_9 : bits w 12 9 = s.code := field_of hpack hfit 4
  have h16_13 : bits w 16 13 = a.val := field_of hpack hfit 5
  have h24_17 : bits w 24 17 = d.val := field_of hpack hfit 6
  have h31_25 : bits w 31 25 = 0x69 := field_of hpack hfit 7
  refine ⟨hpack ▸ pack_lt _ hfit, by rw [h31_25]; rfl, ?_⟩
  change decodeWord w = _
  rw [major69 h31_25, decodeMajor69, if_pos h0_0, h12_9, ElemType_ofCode s, h8_5, ElemType_ofCode t]
  simp only [named]
  rw [fin_eq d h24_17, fin_eq a h16_13, fin_eq k h4_2, flag_eq u h1_1]

theorem cvtsRdn (d : Fin 256) (a : Fin 16) (s : ElemType) (t : ElemType) (k : Fin 8) (u : Bool) : Statement (.cvtsRdn d a s t k u) := by
  intro _ _
  suffices key : ∀ w, w = 3523215361 + d.val * 131072 + a.val * 8192 + s.code * 512 + t.code * 32 + k.val * 4 + u.toNat * 2 → decodes w (.cvtsRdn d a s t k u) none from decode_of rfl rfl (key _ rfl)
  intro w h
  have hfit : fits [(1, 1), (1, u.toNat), (3, k.val), (4, t.code), (4, s.code), (4, a.val), (8, d.val), (7, 0x69)] := ⟨by decide, (Bool.toNat_lt u), k.isLt, (Nat.lt_of_lt_of_le (ElemType_code_lt t) (by decide)), (Nat.lt_of_lt_of_le (ElemType_code_lt s) (by decide)), a.isLt, d.isLt, by decide, trivial⟩
  have hpack := h.trans (show _ = pack _ by simp only [pack] <;> omega : _ = pack [(1, 1), (1, u.toNat), (3, k.val), (4, t.code), (4, s.code), (4, a.val), (8, d.val), (7, 0x69)])
  have h0_0 : bits w 0 0 = 1 := field_of hpack hfit 0
  have h1_1 : bits w 1 1 = u.toNat := field_of hpack hfit 1
  have h4_2 : bits w 4 2 = k.val := field_of hpack hfit 2
  have h8_5 : bits w 8 5 = t.code := field_of hpack hfit 3
  have h12_9 : bits w 12 9 = s.code := field_of hpack hfit 4
  have h16_13 : bits w 16 13 = a.val := field_of hpack hfit 5
  have h24_17 : bits w 24 17 = d.val := field_of hpack hfit 6
  have h31_25 : bits w 31 25 = 0x69 := field_of hpack hfit 7
  refine ⟨hpack ▸ pack_lt _ hfit, by rw [h31_25]; rfl, ?_⟩
  change decodeWord w = _
  rw [major69 h31_25, decodeMajor69, if_neg (by rw [h0_0]; decide), if_pos h0_0, h12_9, ElemType_ofCode s, h8_5, ElemType_ofCode t]
  simp only [named]
  rw [fin_eq d h24_17, fin_eq a h16_13, fin_eq k h4_2, flag_eq u h1_1]

theorem qpack (d : Fin 256) (a : Fin 16) (p : Fin 8) (b : Fin 4) (f : Bool) (k : Fin 8) (u : Bool) : Statement (.qpack d a p b f k u) := by
  intro _ _
  suffices key : ∀ w, w = 3556769792 + d.val * 131072 + a.val * 8192 + p.val * 1024 + b.val * 256 + f.toNat * 32 + k.val * 4 + u.toNat * 2 → decodes w (.qpack d a p b f k u) none from decode_of rfl rfl (key _ rfl)
  intro w h
  have hfit : fits [(1, 0), (1, u.toNat), (3, k.val), (1, f.toNat), (2, 0), (2, b.val), (3, p.val), (4, a.val), (8, d.val), (7, 0x6A)] := ⟨by decide, (Bool.toNat_lt u), k.isLt, (Bool.toNat_lt f), by decide, b.isLt, p.isLt, a.isLt, d.isLt, by decide, trivial⟩
  have hpack := h.trans (show _ = pack _ by simp only [pack] <;> omega : _ = pack [(1, 0), (1, u.toNat), (3, k.val), (1, f.toNat), (2, 0), (2, b.val), (3, p.val), (4, a.val), (8, d.val), (7, 0x6A)])
  have h0_0 : bits w 0 0 = 0 := field_of hpack hfit 0
  have h1_1 : bits w 1 1 = u.toNat := field_of hpack hfit 1
  have h4_2 : bits w 4 2 = k.val := field_of hpack hfit 2
  have h5_5 : bits w 5 5 = f.toNat := field_of hpack hfit 3
  have h7_6 : bits w 7 6 = 0 := field_of hpack hfit 4
  have h9_8 : bits w 9 8 = b.val := field_of hpack hfit 5
  have h12_10 : bits w 12 10 = p.val := field_of hpack hfit 6
  have h16_13 : bits w 16 13 = a.val := field_of hpack hfit 7
  have h24_17 : bits w 24 17 = d.val := field_of hpack hfit 8
  have h31_25 : bits w 31 25 = 0x6A := field_of hpack hfit 9
  refine ⟨hpack ▸ pack_lt _ hfit, by rw [h31_25]; rfl, ?_⟩
  change decodeWord w = _
  rw [major6A h31_25, decodeMajor6A, if_pos ⟨h7_6, h0_0⟩]
  rw [fin_eq d h24_17, fin_eq a h16_13, fin_eq p h12_10, fin_eq b h9_8, flag_eq f h5_5, fin_eq k h4_2, flag_eq u h1_1]

theorem qunpack (d : Fin 256) (a : Fin 16) (p : Fin 8) (b : Fin 4) (m : RoundMode) (f : Bool) (k : Fin 8) (u : Bool) : Statement (.qunpack d a p b m f k u) := by
  intro _ _
  suffices key : ∀ w, w = 3590324224 + d.val * 131072 + a.val * 8192 + p.val * 1024 + b.val * 256 + m.code * 64 + f.toNat * 32 + k.val * 4 + u.toNat * 2 → decodes w (.qunpack d a p b m f k u) none from decode_of rfl rfl (key _ rfl)
  intro w h
  have hfit : fits [(1, 0), (1, u.toNat), (3, k.val), (1, f.toNat), (2, m.code), (2, b.val), (3, p.val), (4, a.val), (8, d.val), (7, 0x6B)] := ⟨by decide, (Bool.toNat_lt u), k.isLt, (Bool.toNat_lt f), (Nat.lt_of_lt_of_le (RoundMode_code_lt m) (by decide)), b.isLt, p.isLt, a.isLt, d.isLt, by decide, trivial⟩
  have hpack := h.trans (show _ = pack _ by simp only [pack] <;> omega : _ = pack [(1, 0), (1, u.toNat), (3, k.val), (1, f.toNat), (2, m.code), (2, b.val), (3, p.val), (4, a.val), (8, d.val), (7, 0x6B)])
  have h0_0 : bits w 0 0 = 0 := field_of hpack hfit 0
  have h1_1 : bits w 1 1 = u.toNat := field_of hpack hfit 1
  have h4_2 : bits w 4 2 = k.val := field_of hpack hfit 2
  have h5_5 : bits w 5 5 = f.toNat := field_of hpack hfit 3
  have h7_6 : bits w 7 6 = m.code := field_of hpack hfit 4
  have h9_8 : bits w 9 8 = b.val := field_of hpack hfit 5
  have h12_10 : bits w 12 10 = p.val := field_of hpack hfit 6
  have h16_13 : bits w 16 13 = a.val := field_of hpack hfit 7
  have h24_17 : bits w 24 17 = d.val := field_of hpack hfit 8
  have h31_25 : bits w 31 25 = 0x6B := field_of hpack hfit 9
  refine ⟨hpack ▸ pack_lt _ hfit, by rw [h31_25]; rfl, ?_⟩
  change decodeWord w = _
  rw [major6B h31_25, decodeMajor6B, if_pos h0_0, h7_6, RoundMode_ofCode m]
  simp only [named]
  rw [fin_eq d h24_17, fin_eq a h16_13, fin_eq p h12_10, fin_eq b h9_8, flag_eq f h5_5, fin_eq k h4_2, flag_eq u h1_1]

theorem kand (d : Fin 256) (a : Fin 8) (b : Fin 8) (k : Fin 8) : Statement (.kand d a b k) := by
  intro _ _
  suffices key : ∀ w, w = 3623878656 + d.val * 131072 + a.val * 8192 + b.val * 512 + k.val * 4 → decodes w (.kand d a b k) none from decode_of rfl rfl (key _ rfl)
  intro w h
  have hfit : fits [(2, 0), (3, k.val), (4, 0), (3, b.val), (1, 0), (3, a.val), (1, 0), (8, d.val), (7, 0x6C)] := ⟨by decide, k.isLt, by decide, b.isLt, by decide, a.isLt, by decide, d.isLt, by decide, trivial⟩
  have hpack := h.trans (show _ = pack _ by simp only [pack] <;> omega : _ = pack [(2, 0), (3, k.val), (4, 0), (3, b.val), (1, 0), (3, a.val), (1, 0), (8, d.val), (7, 0x6C)])
  have h1_0 : bits w 1 0 = 0 := field_of hpack hfit 0
  have h4_2 : bits w 4 2 = k.val := field_of hpack hfit 1
  have h8_5 : bits w 8 5 = 0 := field_of hpack hfit 2
  have h11_9 : bits w 11 9 = b.val := field_of hpack hfit 3
  have h12_12 : bits w 12 12 = 0 := field_of hpack hfit 4
  have h15_13 : bits w 15 13 = a.val := field_of hpack hfit 5
  have h16_16 : bits w 16 16 = 0 := field_of hpack hfit 6
  have h24_17 : bits w 24 17 = d.val := field_of hpack hfit 7
  have h31_25 : bits w 31 25 = 0x6C := field_of hpack hfit 8
  refine ⟨hpack ▸ pack_lt _ hfit, by rw [h31_25]; rfl, ?_⟩
  change decodeWord w = _
  rw [major6C h31_25, decodeMajor6C, if_pos ⟨h16_16, h12_12, h8_5, h1_0⟩]
  rw [fin_eq d h24_17, fin_eq a h15_13, fin_eq b h11_9, fin_eq k h4_2]

theorem kor (d : Fin 256) (a : Fin 8) (b : Fin 8) (k : Fin 8) : Statement (.kor d a b k) := by
  intro _ _
  suffices key : ∀ w, w = 3623878688 + d.val * 131072 + a.val * 8192 + b.val * 512 + k.val * 4 → decodes w (.kor d a b k) none from decode_of rfl rfl (key _ rfl)
  intro w h
  have hfit : fits [(2, 0), (3, k.val), (4, 1), (3, b.val), (1, 0), (3, a.val), (1, 0), (8, d.val), (7, 0x6C)] := ⟨by decide, k.isLt, by decide, b.isLt, by decide, a.isLt, by decide, d.isLt, by decide, trivial⟩
  have hpack := h.trans (show _ = pack _ by simp only [pack] <;> omega : _ = pack [(2, 0), (3, k.val), (4, 1), (3, b.val), (1, 0), (3, a.val), (1, 0), (8, d.val), (7, 0x6C)])
  have h1_0 : bits w 1 0 = 0 := field_of hpack hfit 0
  have h4_2 : bits w 4 2 = k.val := field_of hpack hfit 1
  have h8_5 : bits w 8 5 = 1 := field_of hpack hfit 2
  have h11_9 : bits w 11 9 = b.val := field_of hpack hfit 3
  have h12_12 : bits w 12 12 = 0 := field_of hpack hfit 4
  have h15_13 : bits w 15 13 = a.val := field_of hpack hfit 5
  have h16_16 : bits w 16 16 = 0 := field_of hpack hfit 6
  have h24_17 : bits w 24 17 = d.val := field_of hpack hfit 7
  have h31_25 : bits w 31 25 = 0x6C := field_of hpack hfit 8
  refine ⟨hpack ▸ pack_lt _ hfit, by rw [h31_25]; rfl, ?_⟩
  change decodeWord w = _
  rw [major6C h31_25, decodeMajor6C, if_neg (by simp [h8_5]), if_pos ⟨h16_16, h12_12, h8_5, h1_0⟩]
  rw [fin_eq d h24_17, fin_eq a h15_13, fin_eq b h11_9, fin_eq k h4_2]

theorem kxor (d : Fin 256) (a : Fin 8) (b : Fin 8) (k : Fin 8) : Statement (.kxor d a b k) := by
  intro _ _
  suffices key : ∀ w, w = 3623878720 + d.val * 131072 + a.val * 8192 + b.val * 512 + k.val * 4 → decodes w (.kxor d a b k) none from decode_of rfl rfl (key _ rfl)
  intro w h
  have hfit : fits [(2, 0), (3, k.val), (4, 2), (3, b.val), (1, 0), (3, a.val), (1, 0), (8, d.val), (7, 0x6C)] := ⟨by decide, k.isLt, by decide, b.isLt, by decide, a.isLt, by decide, d.isLt, by decide, trivial⟩
  have hpack := h.trans (show _ = pack _ by simp only [pack] <;> omega : _ = pack [(2, 0), (3, k.val), (4, 2), (3, b.val), (1, 0), (3, a.val), (1, 0), (8, d.val), (7, 0x6C)])
  have h1_0 : bits w 1 0 = 0 := field_of hpack hfit 0
  have h4_2 : bits w 4 2 = k.val := field_of hpack hfit 1
  have h8_5 : bits w 8 5 = 2 := field_of hpack hfit 2
  have h11_9 : bits w 11 9 = b.val := field_of hpack hfit 3
  have h12_12 : bits w 12 12 = 0 := field_of hpack hfit 4
  have h15_13 : bits w 15 13 = a.val := field_of hpack hfit 5
  have h16_16 : bits w 16 16 = 0 := field_of hpack hfit 6
  have h24_17 : bits w 24 17 = d.val := field_of hpack hfit 7
  have h31_25 : bits w 31 25 = 0x6C := field_of hpack hfit 8
  refine ⟨hpack ▸ pack_lt _ hfit, by rw [h31_25]; rfl, ?_⟩
  change decodeWord w = _
  rw [major6C h31_25, decodeMajor6C, if_neg (by simp [h8_5]), if_neg (by simp [h8_5]), if_pos ⟨h16_16, h12_12, h8_5, h1_0⟩]
  rw [fin_eq d h24_17, fin_eq a h15_13, fin_eq b h11_9, fin_eq k h4_2]

theorem kandn (d : Fin 256) (a : Fin 8) (b : Fin 8) (k : Fin 8) : Statement (.kandn d a b k) := by
  intro _ _
  suffices key : ∀ w, w = 3623878752 + d.val * 131072 + a.val * 8192 + b.val * 512 + k.val * 4 → decodes w (.kandn d a b k) none from decode_of rfl rfl (key _ rfl)
  intro w h
  have hfit : fits [(2, 0), (3, k.val), (4, 3), (3, b.val), (1, 0), (3, a.val), (1, 0), (8, d.val), (7, 0x6C)] := ⟨by decide, k.isLt, by decide, b.isLt, by decide, a.isLt, by decide, d.isLt, by decide, trivial⟩
  have hpack := h.trans (show _ = pack _ by simp only [pack] <;> omega : _ = pack [(2, 0), (3, k.val), (4, 3), (3, b.val), (1, 0), (3, a.val), (1, 0), (8, d.val), (7, 0x6C)])
  have h1_0 : bits w 1 0 = 0 := field_of hpack hfit 0
  have h4_2 : bits w 4 2 = k.val := field_of hpack hfit 1
  have h8_5 : bits w 8 5 = 3 := field_of hpack hfit 2
  have h11_9 : bits w 11 9 = b.val := field_of hpack hfit 3
  have h12_12 : bits w 12 12 = 0 := field_of hpack hfit 4
  have h15_13 : bits w 15 13 = a.val := field_of hpack hfit 5
  have h16_16 : bits w 16 16 = 0 := field_of hpack hfit 6
  have h24_17 : bits w 24 17 = d.val := field_of hpack hfit 7
  have h31_25 : bits w 31 25 = 0x6C := field_of hpack hfit 8
  refine ⟨hpack ▸ pack_lt _ hfit, by rw [h31_25]; rfl, ?_⟩
  change decodeWord w = _
  rw [major6C h31_25, decodeMajor6C, if_neg (by simp [h8_5]), if_neg (by simp [h8_5]), if_neg (by simp [h8_5]), if_pos ⟨h16_16, h12_12, h8_5, h1_0⟩]
  rw [fin_eq d h24_17, fin_eq a h15_13, fin_eq b h11_9, fin_eq k h4_2]

theorem knot (d : Fin 256) (a : Fin 8) (k : Fin 8) : Statement (.knot d a k) := by
  intro _ _
  suffices key : ∀ w, w = 3623878784 + d.val * 131072 + a.val * 8192 + k.val * 4 → decodes w (.knot d a k) none from decode_of rfl rfl (key _ rfl)
  intro w h
  have hfit : fits [(2, 0), (3, k.val), (8, 4), (3, a.val), (1, 0), (8, d.val), (7, 0x6C)] := ⟨by decide, k.isLt, by decide, a.isLt, by decide, d.isLt, by decide, trivial⟩
  have hpack := h.trans (show _ = pack _ by simp only [pack] <;> omega : _ = pack [(2, 0), (3, k.val), (8, 4), (3, a.val), (1, 0), (8, d.val), (7, 0x6C)])
  have h1_0 : bits w 1 0 = 0 := field_of hpack hfit 0
  have h4_2 : bits w 4 2 = k.val := field_of hpack hfit 1
  have h12_5 : bits w 12 5 = 4 := field_of hpack hfit 2
  have h15_13 : bits w 15 13 = a.val := field_of hpack hfit 3
  have h16_16 : bits w 16 16 = 0 := field_of hpack hfit 4
  have h24_17 : bits w 24 17 = d.val := field_of hpack hfit 5
  have h31_25 : bits w 31 25 = 0x6C := field_of hpack hfit 6
  have := d.isLt
  have := a.isLt
  have := k.isLt
  refine ⟨hpack ▸ pack_lt _ hfit, by rw [h31_25]; rfl, ?_⟩
  change decodeWord w = _
  rw [major6C h31_25, decodeMajor6C, if_neg (by simp only [bits]; omega), if_neg (by simp only [bits]; omega), if_neg (by simp only [bits]; omega), if_neg (by simp only [bits]; omega), if_pos ⟨h16_16, h12_5, h1_0⟩]
  rw [fin_eq d h24_17, fin_eq a h15_13, fin_eq k h4_2]

theorem kmov (d : Fin 256) (a : Fin 8) (k : Fin 8) : Statement (.kmov d a k) := by
  intro _ _
  suffices key : ∀ w, w = 3623878816 + d.val * 131072 + a.val * 8192 + k.val * 4 → decodes w (.kmov d a k) none from decode_of rfl rfl (key _ rfl)
  intro w h
  have hfit : fits [(2, 0), (3, k.val), (8, 5), (3, a.val), (1, 0), (8, d.val), (7, 0x6C)] := ⟨by decide, k.isLt, by decide, a.isLt, by decide, d.isLt, by decide, trivial⟩
  have hpack := h.trans (show _ = pack _ by simp only [pack] <;> omega : _ = pack [(2, 0), (3, k.val), (8, 5), (3, a.val), (1, 0), (8, d.val), (7, 0x6C)])
  have h1_0 : bits w 1 0 = 0 := field_of hpack hfit 0
  have h4_2 : bits w 4 2 = k.val := field_of hpack hfit 1
  have h12_5 : bits w 12 5 = 5 := field_of hpack hfit 2
  have h15_13 : bits w 15 13 = a.val := field_of hpack hfit 3
  have h16_16 : bits w 16 16 = 0 := field_of hpack hfit 4
  have h24_17 : bits w 24 17 = d.val := field_of hpack hfit 5
  have h31_25 : bits w 31 25 = 0x6C := field_of hpack hfit 6
  have := d.isLt
  have := a.isLt
  have := k.isLt
  refine ⟨hpack ▸ pack_lt _ hfit, by rw [h31_25]; rfl, ?_⟩
  change decodeWord w = _
  rw [major6C h31_25, decodeMajor6C, if_neg (by simp only [bits]; omega), if_neg (by simp only [bits]; omega), if_neg (by simp only [bits]; omega), if_neg (by simp only [bits]; omega), if_neg (by simp [h12_5]), if_pos ⟨h16_16, h12_5, h1_0⟩]
  rw [fin_eq d h24_17, fin_eq a h15_13, fin_eq k h4_2]

theorem kpop (d : Fin 256) (k : Fin 8) : Statement (.kpop d k) := by
  intro _ _
  suffices key : ∀ w, w = 3623878848 + d.val * 131072 + k.val * 4 → decodes w (.kpop d k) none from decode_of rfl rfl (key _ rfl)
  intro w h
  have hfit : fits [(2, 0), (3, k.val), (12, 6), (8, d.val), (7, 0x6C)] := ⟨by decide, k.isLt, by decide, d.isLt, by decide, trivial⟩
  have hpack := h.trans (show _ = pack _ by simp only [pack] <;> omega : _ = pack [(2, 0), (3, k.val), (12, 6), (8, d.val), (7, 0x6C)])
  have h1_0 : bits w 1 0 = 0 := field_of hpack hfit 0
  have h4_2 : bits w 4 2 = k.val := field_of hpack hfit 1
  have h16_5 : bits w 16 5 = 6 := field_of hpack hfit 2
  have h24_17 : bits w 24 17 = d.val := field_of hpack hfit 3
  have h31_25 : bits w 31 25 = 0x6C := field_of hpack hfit 4
  have := d.isLt
  have := k.isLt
  refine ⟨hpack ▸ pack_lt _ hfit, by rw [h31_25]; rfl, ?_⟩
  change decodeWord w = _
  rw [major6C h31_25, decodeMajor6C, if_neg (by simp only [bits]; omega), if_neg (by simp only [bits]; omega), if_neg (by simp only [bits]; omega), if_neg (by simp only [bits]; omega), if_neg (by simp only [bits]; omega), if_neg (by simp only [bits]; omega), if_pos ⟨h16_5, h1_0⟩]
  rw [fin_eq d h24_17, fin_eq k h4_2]

theorem selExecute (d : Fin 256) (a : Fin 16) (b : Fin 16) (k : Fin 8) (u : Bool) (v : Bool) : Statement (.selExecute d a b k u v) := by
  intro _ _
  suffices key : ∀ w, w = 3657433088 + d.val * 131072 + a.val * 8192 + b.val * 512 + k.val * 4 + u.toNat * 2 + v.toNat → decodes w (.selExecute d a b k u v) none from decode_of rfl rfl (key _ rfl)
  intro w h
  have hfit : fits [(1, v.toNat), (1, u.toNat), (3, k.val), (4, 0), (4, b.val), (4, a.val), (8, d.val), (7, 0x6D)] := ⟨(Bool.toNat_lt v), (Bool.toNat_lt u), k.isLt, by decide, b.isLt, a.isLt, d.isLt, by decide, trivial⟩
  have hpack := h.trans (show _ = pack _ by simp only [pack] <;> omega : _ = pack [(1, v.toNat), (1, u.toNat), (3, k.val), (4, 0), (4, b.val), (4, a.val), (8, d.val), (7, 0x6D)])
  have h0_0 : bits w 0 0 = v.toNat := field_of hpack hfit 0
  have h1_1 : bits w 1 1 = u.toNat := field_of hpack hfit 1
  have h4_2 : bits w 4 2 = k.val := field_of hpack hfit 2
  have h8_5 : bits w 8 5 = 0 := field_of hpack hfit 3
  have h12_9 : bits w 12 9 = b.val := field_of hpack hfit 4
  have h16_13 : bits w 16 13 = a.val := field_of hpack hfit 5
  have h24_17 : bits w 24 17 = d.val := field_of hpack hfit 6
  have h31_25 : bits w 31 25 = 0x6D := field_of hpack hfit 7
  refine ⟨hpack ▸ pack_lt _ hfit, by rw [h31_25]; rfl, ?_⟩
  change decodeWord w = _
  rw [major6D h31_25, decodeMajor6D, if_pos h8_5]
  rw [fin_eq d h24_17, fin_eq a h16_13, fin_eq b h12_9, fin_eq k h4_2, flag_eq u h1_1, flag_eq v h0_0]

theorem rsum (d : Fin 256) (a : Fin 16) (t : ElemType) (k : Fin 8) (u : Bool) : Statement (.rsum d a t k u) := by
  intro _ _
  suffices key : ∀ w, w = 3690987520 + d.val * 131072 + a.val * 8192 + t.code * 32 + k.val * 4 + u.toNat * 2 → decodes w (.rsum d a t k u) none from decode_of rfl rfl (key _ rfl)
  intro w h
  have hfit : fits [(1, 0), (1, u.toNat), (3, k.val), (4, t.code), (4, 0), (4, a.val), (8, d.val), (7, 0x6E)] := ⟨by decide, (Bool.toNat_lt u), k.isLt, (Nat.lt_of_lt_of_le (ElemType_code_lt t) (by decide)), by decide, a.isLt, d.isLt, by decide, trivial⟩
  have hpack := h.trans (show _ = pack _ by simp only [pack] <;> omega : _ = pack [(1, 0), (1, u.toNat), (3, k.val), (4, t.code), (4, 0), (4, a.val), (8, d.val), (7, 0x6E)])
  have h0_0 : bits w 0 0 = 0 := field_of hpack hfit 0
  have h1_1 : bits w 1 1 = u.toNat := field_of hpack hfit 1
  have h4_2 : bits w 4 2 = k.val := field_of hpack hfit 2
  have h8_5 : bits w 8 5 = t.code := field_of hpack hfit 3
  have h12_9 : bits w 12 9 = 0 := field_of hpack hfit 4
  have h16_13 : bits w 16 13 = a.val := field_of hpack hfit 5
  have h24_17 : bits w 24 17 = d.val := field_of hpack hfit 6
  have h31_25 : bits w 31 25 = 0x6E := field_of hpack hfit 7
  refine ⟨hpack ▸ pack_lt _ hfit, by rw [h31_25]; rfl, ?_⟩
  change decodeWord w = _
  rw [major6E h31_25, decodeMajor6E, if_pos ⟨h12_9, h0_0⟩, h8_5, ElemType_ofCode t]
  simp only [named]
  rw [fin_eq d h24_17, fin_eq a h16_13, fin_eq k h4_2, flag_eq u h1_1]

theorem rmax (d : Fin 256) (a : Fin 16) (t : ElemType) (k : Fin 8) (u : Bool) : Statement (.rmax d a t k u) := by
  intro _ _
  suffices key : ∀ w, w = 3690988032 + d.val * 131072 + a.val * 8192 + t.code * 32 + k.val * 4 + u.toNat * 2 → decodes w (.rmax d a t k u) none from decode_of rfl rfl (key _ rfl)
  intro w h
  have hfit : fits [(1, 0), (1, u.toNat), (3, k.val), (4, t.code), (4, 1), (4, a.val), (8, d.val), (7, 0x6E)] := ⟨by decide, (Bool.toNat_lt u), k.isLt, (Nat.lt_of_lt_of_le (ElemType_code_lt t) (by decide)), by decide, a.isLt, d.isLt, by decide, trivial⟩
  have hpack := h.trans (show _ = pack _ by simp only [pack] <;> omega : _ = pack [(1, 0), (1, u.toNat), (3, k.val), (4, t.code), (4, 1), (4, a.val), (8, d.val), (7, 0x6E)])
  have h0_0 : bits w 0 0 = 0 := field_of hpack hfit 0
  have h1_1 : bits w 1 1 = u.toNat := field_of hpack hfit 1
  have h4_2 : bits w 4 2 = k.val := field_of hpack hfit 2
  have h8_5 : bits w 8 5 = t.code := field_of hpack hfit 3
  have h12_9 : bits w 12 9 = 1 := field_of hpack hfit 4
  have h16_13 : bits w 16 13 = a.val := field_of hpack hfit 5
  have h24_17 : bits w 24 17 = d.val := field_of hpack hfit 6
  have h31_25 : bits w 31 25 = 0x6E := field_of hpack hfit 7
  refine ⟨hpack ▸ pack_lt _ hfit, by rw [h31_25]; rfl, ?_⟩
  change decodeWord w = _
  rw [major6E h31_25, decodeMajor6E, if_neg (by simp [h12_9]), if_pos ⟨h12_9, h0_0⟩, h8_5, ElemType_ofCode t]
  simp only [named]
  rw [fin_eq d h24_17, fin_eq a h16_13, fin_eq k h4_2, flag_eq u h1_1]

theorem rmin (d : Fin 256) (a : Fin 16) (t : ElemType) (k : Fin 8) (u : Bool) : Statement (.rmin d a t k u) := by
  intro _ _
  suffices key : ∀ w, w = 3690988544 + d.val * 131072 + a.val * 8192 + t.code * 32 + k.val * 4 + u.toNat * 2 → decodes w (.rmin d a t k u) none from decode_of rfl rfl (key _ rfl)
  intro w h
  have hfit : fits [(1, 0), (1, u.toNat), (3, k.val), (4, t.code), (4, 2), (4, a.val), (8, d.val), (7, 0x6E)] := ⟨by decide, (Bool.toNat_lt u), k.isLt, (Nat.lt_of_lt_of_le (ElemType_code_lt t) (by decide)), by decide, a.isLt, d.isLt, by decide, trivial⟩
  have hpack := h.trans (show _ = pack _ by simp only [pack] <;> omega : _ = pack [(1, 0), (1, u.toNat), (3, k.val), (4, t.code), (4, 2), (4, a.val), (8, d.val), (7, 0x6E)])
  have h0_0 : bits w 0 0 = 0 := field_of hpack hfit 0
  have h1_1 : bits w 1 1 = u.toNat := field_of hpack hfit 1
  have h4_2 : bits w 4 2 = k.val := field_of hpack hfit 2
  have h8_5 : bits w 8 5 = t.code := field_of hpack hfit 3
  have h12_9 : bits w 12 9 = 2 := field_of hpack hfit 4
  have h16_13 : bits w 16 13 = a.val := field_of hpack hfit 5
  have h24_17 : bits w 24 17 = d.val := field_of hpack hfit 6
  have h31_25 : bits w 31 25 = 0x6E := field_of hpack hfit 7
  refine ⟨hpack ▸ pack_lt _ hfit, by rw [h31_25]; rfl, ?_⟩
  change decodeWord w = _
  rw [major6E h31_25, decodeMajor6E, if_neg (by simp [h12_9]), if_neg (by simp [h12_9]), if_pos ⟨h12_9, h0_0⟩, h8_5, ElemType_ofCode t]
  simp only [named]
  rw [fin_eq d h24_17, fin_eq a h16_13, fin_eq k h4_2, flag_eq u h1_1]

theorem risum (d : Fin 256) (a : Fin 16) (t : ElemType) (k : Fin 8) (u : Bool) : Statement (.risum d a t k u) := by
  intro _ _
  suffices key : ∀ w, w = 3690989056 + d.val * 131072 + a.val * 8192 + t.code * 32 + k.val * 4 + u.toNat * 2 → decodes w (.risum d a t k u) none from decode_of rfl rfl (key _ rfl)
  intro w h
  have hfit : fits [(1, 0), (1, u.toNat), (3, k.val), (4, t.code), (4, 3), (4, a.val), (8, d.val), (7, 0x6E)] := ⟨by decide, (Bool.toNat_lt u), k.isLt, (Nat.lt_of_lt_of_le (ElemType_code_lt t) (by decide)), by decide, a.isLt, d.isLt, by decide, trivial⟩
  have hpack := h.trans (show _ = pack _ by simp only [pack] <;> omega : _ = pack [(1, 0), (1, u.toNat), (3, k.val), (4, t.code), (4, 3), (4, a.val), (8, d.val), (7, 0x6E)])
  have h0_0 : bits w 0 0 = 0 := field_of hpack hfit 0
  have h1_1 : bits w 1 1 = u.toNat := field_of hpack hfit 1
  have h4_2 : bits w 4 2 = k.val := field_of hpack hfit 2
  have h8_5 : bits w 8 5 = t.code := field_of hpack hfit 3
  have h12_9 : bits w 12 9 = 3 := field_of hpack hfit 4
  have h16_13 : bits w 16 13 = a.val := field_of hpack hfit 5
  have h24_17 : bits w 24 17 = d.val := field_of hpack hfit 6
  have h31_25 : bits w 31 25 = 0x6E := field_of hpack hfit 7
  refine ⟨hpack ▸ pack_lt _ hfit, by rw [h31_25]; rfl, ?_⟩
  change decodeWord w = _
  rw [major6E h31_25, decodeMajor6E, if_neg (by simp [h12_9]), if_neg (by simp [h12_9]), if_neg (by simp [h12_9]), if_pos ⟨h12_9, h0_0⟩, h8_5, ElemType_ofCode t]
  simp only [named]
  rw [fin_eq d h24_17, fin_eq a h16_13, fin_eq k h4_2, flag_eq u h1_1]

theorem risums (d : Fin 256) (a : Fin 16) (t : ElemType) (k : Fin 8) (u : Bool) : Statement (.risums d a t k u) := by
  intro _ _
  suffices key : ∀ w, w = 3690989568 + d.val * 131072 + a.val * 8192 + t.code * 32 + k.val * 4 + u.toNat * 2 → decodes w (.risums d a t k u) none from decode_of rfl rfl (key _ rfl)
  intro w h
  have hfit : fits [(1, 0), (1, u.toNat), (3, k.val), (4, t.code), (4, 4), (4, a.val), (8, d.val), (7, 0x6E)] := ⟨by decide, (Bool.toNat_lt u), k.isLt, (Nat.lt_of_lt_of_le (ElemType_code_lt t) (by decide)), by decide, a.isLt, d.isLt, by decide, trivial⟩
  have hpack := h.trans (show _ = pack _ by simp only [pack] <;> omega : _ = pack [(1, 0), (1, u.toNat), (3, k.val), (4, t.code), (4, 4), (4, a.val), (8, d.val), (7, 0x6E)])
  have h0_0 : bits w 0 0 = 0 := field_of hpack hfit 0
  have h1_1 : bits w 1 1 = u.toNat := field_of hpack hfit 1
  have h4_2 : bits w 4 2 = k.val := field_of hpack hfit 2
  have h8_5 : bits w 8 5 = t.code := field_of hpack hfit 3
  have h12_9 : bits w 12 9 = 4 := field_of hpack hfit 4
  have h16_13 : bits w 16 13 = a.val := field_of hpack hfit 5
  have h24_17 : bits w 24 17 = d.val := field_of hpack hfit 6
  have h31_25 : bits w 31 25 = 0x6E := field_of hpack hfit 7
  refine ⟨hpack ▸ pack_lt _ hfit, by rw [h31_25]; rfl, ?_⟩
  change decodeWord w = _
  rw [major6E h31_25, decodeMajor6E, if_neg (by simp [h12_9]), if_neg (by simp [h12_9]), if_neg (by simp [h12_9]), if_neg (by simp [h12_9]), if_pos ⟨h12_9, h0_0⟩, h8_5, ElemType_ofCode t]
  simp only [named]
  rw [fin_eq d h24_17, fin_eq a h16_13, fin_eq k h4_2, flag_eq u h1_1]

theorem perm (d : Fin 256) (a : Fin 16) (b : Fin 16) (t : ElemType) (k : Fin 8) (u : Bool) (v : Bool) : Statement (.perm d a b t k u v) := by
  intro _ _
  suffices key : ∀ w, w = 3724541952 + d.val * 131072 + a.val * 8192 + b.val * 512 + t.code * 32 + k.val * 4 + u.toNat * 2 + v.toNat → decodes w (.perm d a b t k u v) none from decode_of rfl rfl (key _ rfl)
  intro w h
  have hfit : fits [(1, v.toNat), (1, u.toNat), (3, k.val), (4, t.code), (4, b.val), (4, a.val), (8, d.val), (7, 0x6F)] := ⟨(Bool.toNat_lt v), (Bool.toNat_lt u), k.isLt, (Nat.lt_of_lt_of_le (ElemType_code_lt t) (by decide)), b.isLt, a.isLt, d.isLt, by decide, trivial⟩
  have hpack := h.trans (show _ = pack _ by simp only [pack] <;> omega : _ = pack [(1, v.toNat), (1, u.toNat), (3, k.val), (4, t.code), (4, b.val), (4, a.val), (8, d.val), (7, 0x6F)])
  have h0_0 : bits w 0 0 = v.toNat := field_of hpack hfit 0
  have h1_1 : bits w 1 1 = u.toNat := field_of hpack hfit 1
  have h4_2 : bits w 4 2 = k.val := field_of hpack hfit 2
  have h8_5 : bits w 8 5 = t.code := field_of hpack hfit 3
  have h12_9 : bits w 12 9 = b.val := field_of hpack hfit 4
  have h16_13 : bits w 16 13 = a.val := field_of hpack hfit 5
  have h24_17 : bits w 24 17 = d.val := field_of hpack hfit 6
  have h31_25 : bits w 31 25 = 0x6F := field_of hpack hfit 7
  refine ⟨hpack ▸ pack_lt _ hfit, by rw [h31_25]; rfl, ?_⟩
  change decodeWord w = _
  rw [major6F h31_25, decodeMajor6F, h8_5, ElemType_ofCode t]
  simp only [named]
  rw [fin_eq d h24_17, fin_eq a h16_13, fin_eq b h12_9, fin_eq k h4_2, flag_eq u h1_1, flag_eq v h0_0]

theorem rot (d : Fin 256) (a : Fin 16) (n : Fin 256) (k : Fin 8) (u : Bool) : Statement (.rot d a n k u) := by
  intro _ _
  suffices key : ∀ w, w = 3758096384 + d.val * 131072 + a.val * 8192 + n.val * 32 + k.val * 4 + u.toNat * 2 → decodes w (.rot d a n k u) none from decode_of rfl rfl (key _ rfl)
  intro w h
  have hfit : fits [(1, 0), (1, u.toNat), (3, k.val), (8, n.val), (4, a.val), (8, d.val), (7, 0x70)] := ⟨by decide, (Bool.toNat_lt u), k.isLt, n.isLt, a.isLt, d.isLt, by decide, trivial⟩
  have hpack := h.trans (show _ = pack _ by simp only [pack] <;> omega : _ = pack [(1, 0), (1, u.toNat), (3, k.val), (8, n.val), (4, a.val), (8, d.val), (7, 0x70)])
  have h0_0 : bits w 0 0 = 0 := field_of hpack hfit 0
  have h1_1 : bits w 1 1 = u.toNat := field_of hpack hfit 1
  have h4_2 : bits w 4 2 = k.val := field_of hpack hfit 2
  have h12_5 : bits w 12 5 = n.val := field_of hpack hfit 3
  have h16_13 : bits w 16 13 = a.val := field_of hpack hfit 4
  have h24_17 : bits w 24 17 = d.val := field_of hpack hfit 5
  have h31_25 : bits w 31 25 = 0x70 := field_of hpack hfit 6
  refine ⟨hpack ▸ pack_lt _ hfit, by rw [h31_25]; rfl, ?_⟩
  change decodeWord w = _
  rw [major70 h31_25, decodeMajor70, if_pos h0_0]
  rw [fin_eq d h24_17, fin_eq a h16_13, fin_eq n h12_5, fin_eq k h4_2, flag_eq u h1_1]

theorem shuf (d : Fin 256) (a : Fin 16) (p : ShufPattern) (t : ElemType) (k : Fin 8) (u : Bool) : Statement (.shuf d a p t k u) := by
  intro _ _
  suffices key : ∀ w, w = 3791650816 + d.val * 131072 + a.val * 8192 + p.code * 512 + t.code * 32 + k.val * 4 + u.toNat * 2 → decodes w (.shuf d a p t k u) none from decode_of rfl rfl (key _ rfl)
  intro w h
  have hfit : fits [(1, 0), (1, u.toNat), (3, k.val), (4, t.code), (4, p.code), (4, a.val), (8, d.val), (7, 0x71)] := ⟨by decide, (Bool.toNat_lt u), k.isLt, (Nat.lt_of_lt_of_le (ElemType_code_lt t) (by decide)), (Nat.lt_of_lt_of_le (ShufPattern_code_lt p) (by decide)), a.isLt, d.isLt, by decide, trivial⟩
  have hpack := h.trans (show _ = pack _ by simp only [pack] <;> omega : _ = pack [(1, 0), (1, u.toNat), (3, k.val), (4, t.code), (4, p.code), (4, a.val), (8, d.val), (7, 0x71)])
  have h0_0 : bits w 0 0 = 0 := field_of hpack hfit 0
  have h1_1 : bits w 1 1 = u.toNat := field_of hpack hfit 1
  have h4_2 : bits w 4 2 = k.val := field_of hpack hfit 2
  have h8_5 : bits w 8 5 = t.code := field_of hpack hfit 3
  have h12_9 : bits w 12 9 = p.code := field_of hpack hfit 4
  have h16_13 : bits w 16 13 = a.val := field_of hpack hfit 5
  have h24_17 : bits w 24 17 = d.val := field_of hpack hfit 6
  have h31_25 : bits w 31 25 = 0x71 := field_of hpack hfit 7
  refine ⟨hpack ▸ pack_lt _ hfit, by rw [h31_25]; rfl, ?_⟩
  change decodeWord w = _
  rw [major71 h31_25, decodeMajor71, if_pos h0_0, h12_9, ShufPattern_ofCode p, h8_5, ElemType_ofCode t]
  simp only [named]
  rw [fin_eq d h24_17, fin_eq a h16_13, fin_eq k h4_2, flag_eq u h1_1]

theorem slide (d : Fin 256) (a : Fin 16) (b : Fin 16) (n : Fin 16) (k : Fin 8) (u : Bool) (v : Bool) : Statement (.slide d a b n k u v) := by
  intro _ _
  suffices key : ∀ w, w = 3825205248 + d.val * 131072 + a.val * 8192 + b.val * 512 + n.val * 32 + k.val * 4 + u.toNat * 2 + v.toNat → decodes w (.slide d a b n k u v) none from decode_of rfl rfl (key _ rfl)
  intro w h
  have hfit : fits [(1, v.toNat), (1, u.toNat), (3, k.val), (4, n.val), (4, b.val), (4, a.val), (8, d.val), (7, 0x72)] := ⟨(Bool.toNat_lt v), (Bool.toNat_lt u), k.isLt, n.isLt, b.isLt, a.isLt, d.isLt, by decide, trivial⟩
  have hpack := h.trans (show _ = pack _ by simp only [pack] <;> omega : _ = pack [(1, v.toNat), (1, u.toNat), (3, k.val), (4, n.val), (4, b.val), (4, a.val), (8, d.val), (7, 0x72)])
  have h0_0 : bits w 0 0 = v.toNat := field_of hpack hfit 0
  have h1_1 : bits w 1 1 = u.toNat := field_of hpack hfit 1
  have h4_2 : bits w 4 2 = k.val := field_of hpack hfit 2
  have h8_5 : bits w 8 5 = n.val := field_of hpack hfit 3
  have h12_9 : bits w 12 9 = b.val := field_of hpack hfit 4
  have h16_13 : bits w 16 13 = a.val := field_of hpack hfit 5
  have h24_17 : bits w 24 17 = d.val := field_of hpack hfit 6
  have h31_25 : bits w 31 25 = 0x72 := field_of hpack hfit 7
  refine ⟨hpack ▸ pack_lt _ hfit, by rw [h31_25]; rfl, ?_⟩
  change decodeWord w = _
  rw [major72 h31_25, decodeMajor72]
  rw [fin_eq d h24_17, fin_eq a h16_13, fin_eq b h12_9, fin_eq n h8_5, fin_eq k h4_2, flag_eq u h1_1, flag_eq v h0_0]

theorem vloop (v : LoopLevel) (n : Fin 4096) : Statement (.vloop v n) := by
  intro _ _
  suffices key : ∀ w, w = 3858759680 + v.code * 131072 + n.val * 32 → decodes w (.vloop v n) none from decode_of rfl rfl (key _ rfl)
  intro w h
  have hfit : fits [(5, 0), (12, n.val), (1, v.code), (7, 0), (7, 0x73)] := ⟨by decide, n.isLt, (Nat.lt_of_lt_of_le (LoopLevel_code_lt v) (by decide)), by decide, by decide, trivial⟩
  have hpack := h.trans (show _ = pack _ by simp only [pack] <;> omega : _ = pack [(5, 0), (12, n.val), (1, v.code), (7, 0), (7, 0x73)])
  have h4_0 : bits w 4 0 = 0 := field_of hpack hfit 0
  have h16_5 : bits w 16 5 = n.val := field_of hpack hfit 1
  have h17_17 : bits w 17 17 = v.code := field_of hpack hfit 2
  have h24_18 : bits w 24 18 = 0 := field_of hpack hfit 3
  have h31_25 : bits w 31 25 = 0x73 := field_of hpack hfit 4
  refine ⟨hpack ▸ pack_lt _ hfit, by rw [h31_25]; rfl, ?_⟩
  change decodeWord w = _
  rw [major73 h31_25, decodeMajor73, if_pos ⟨h24_18, h4_0⟩, h17_17, LoopLevel_ofCode v]
  simp only [named]
  rw [fin_eq n h16_5]

theorem mma (a : Fin 32) (b : Fin 32) (f : Fin 64) (rec : ShapeRec) : Statement (.mma a b f rec) := by
  intro _ _
  suffices key : ∀ w, w = 4026531840 + a.val * 1048576 + b.val * 32768 + f.val * 16 → decodes w (.mma a b f rec) (some rec) from decode_of rfl rfl (key _ rfl)
  intro w h
  have hfit : fits [(4, 0), (6, f.val), (5, 0), (5, b.val), (5, a.val), (7, 0x78)] := ⟨by decide, f.isLt, by decide, b.isLt, a.isLt, by decide, trivial⟩
  have hpack := h.trans (show _ = pack _ by simp only [pack] <;> omega : _ = pack [(4, 0), (6, f.val), (5, 0), (5, b.val), (5, a.val), (7, 0x78)])
  have h3_0 : bits w 3 0 = 0 := field_of hpack hfit 0
  have h9_4 : bits w 9 4 = f.val := field_of hpack hfit 1
  have h14_10 : bits w 14 10 = 0 := field_of hpack hfit 2
  have h19_15 : bits w 19 15 = b.val := field_of hpack hfit 3
  have h24_20 : bits w 24 20 = a.val := field_of hpack hfit 4
  have h31_25 : bits w 31 25 = 0x78 := field_of hpack hfit 5
  refine ⟨hpack ▸ pack_lt _ hfit, by rw [h31_25]; rfl, ?_⟩
  change decodeExtended w rec = _
  rw [decodeExtended, h31_25]; simp only [h3_0]
  rw [if_pos h14_10]
  rw [fin_eq a h24_20, fin_eq b h19_15, fin_eq f h9_4]

theorem mmaSp (a : Fin 32) (b : Fin 32) (c : Fin 32) (f : Fin 64) (rec : ShapeRec) : Statement (.mmaSp a b c f rec) := by
  intro _ _
  suffices key : ∀ w, w = 4026531840 + a.val * 1048576 + b.val * 32768 + c.val * 1024 + f.val * 16 + 1 → decodes w (.mmaSp a b c f rec) (some rec) from decode_of rfl rfl (key _ rfl)
  intro w h
  have hfit : fits [(4, 1), (6, f.val), (5, c.val), (5, b.val), (5, a.val), (7, 0x78)] := ⟨by decide, f.isLt, c.isLt, b.isLt, a.isLt, by decide, trivial⟩
  have hpack := h.trans (show _ = pack _ by simp only [pack] <;> omega : _ = pack [(4, 1), (6, f.val), (5, c.val), (5, b.val), (5, a.val), (7, 0x78)])
  have h3_0 : bits w 3 0 = 1 := field_of hpack hfit 0
  have h9_4 : bits w 9 4 = f.val := field_of hpack hfit 1
  have h14_10 : bits w 14 10 = c.val := field_of hpack hfit 2
  have h19_15 : bits w 19 15 = b.val := field_of hpack hfit 3
  have h24_20 : bits w 24 20 = a.val := field_of hpack hfit 4
  have h31_25 : bits w 31 25 = 0x78 := field_of hpack hfit 5
  refine ⟨hpack ▸ pack_lt _ hfit, by rw [h31_25]; rfl, ?_⟩
  change decodeExtended w rec = _
  rw [decodeExtended, h31_25]; simp only [h3_0]
  rw [fin_eq a h24_20, fin_eq b h19_15, fin_eq c h14_10, fin_eq f h9_4]

theorem mkat (a : Fin 32) (f : Fin 64) (rec : ShapeRec) : Statement (.mkat a f rec) := by
  intro _ _
  suffices key : ∀ w, w = 4026531840 + a.val * 1048576 + f.val * 16 + 2 → decodes w (.mkat a f rec) (some rec) from decode_of rfl rfl (key _ rfl)
  intro w h
  have hfit : fits [(4, 2), (6, f.val), (5, 0), (5, 0), (5, a.val), (7, 0x78)] := ⟨by decide, f.isLt, by decide, by decide, a.isLt, by decide, trivial⟩
  have hpack := h.trans (show _ = pack _ by simp only [pack] <;> omega : _ = pack [(4, 2), (6, f.val), (5, 0), (5, 0), (5, a.val), (7, 0x78)])
  have h3_0 : bits w 3 0 = 2 := field_of hpack hfit 0
  have h9_4 : bits w 9 4 = f.val := field_of hpack hfit 1
  have h14_10 : bits w 14 10 = 0 := field_of hpack hfit 2
  have h19_15 : bits w 19 15 = 0 := field_of hpack hfit 3
  have h24_20 : bits w 24 20 = a.val := field_of hpack hfit 4
  have h31_25 : bits w 31 25 = 0x78 := field_of hpack hfit 5
  refine ⟨hpack ▸ pack_lt _ hfit, by rw [h31_25]; rfl, ?_⟩
  change decodeExtended w rec = _
  rw [decodeExtended, h31_25]; simp only [h3_0]
  rw [if_pos ⟨h19_15, h14_10⟩]
  rw [fin_eq a h24_20, fin_eq f h9_4]

theorem copy (a : Fin 32) (b : Fin 32) (c : Fin 32) (f : Fin 64) (rec : ShapeRec) : Statement (.copy a b c f rec) := by
  intro _ _
  suffices key : ∀ w, w = 4060086272 + a.val * 1048576 + b.val * 32768 + c.val * 1024 + f.val * 16 → decodes w (.copy a b c f rec) (some rec) from decode_of rfl rfl (key _ rfl)
  intro w h
  have hfit : fits [(4, 0), (6, f.val), (5, c.val), (5, b.val), (5, a.val), (7, 0x79)] := ⟨by decide, f.isLt, c.isLt, b.isLt, a.isLt, by decide, trivial⟩
  have hpack := h.trans (show _ = pack _ by simp only [pack] <;> omega : _ = pack [(4, 0), (6, f.val), (5, c.val), (5, b.val), (5, a.val), (7, 0x79)])
  have h3_0 : bits w 3 0 = 0 := field_of hpack hfit 0
  have h9_4 : bits w 9 4 = f.val := field_of hpack hfit 1
  have h14_10 : bits w 14 10 = c.val := field_of hpack hfit 2
  have h19_15 : bits w 19 15 = b.val := field_of hpack hfit 3
  have h24_20 : bits w 24 20 = a.val := field_of hpack hfit 4
  have h31_25 : bits w 31 25 = 0x79 := field_of hpack hfit 5
  refine ⟨hpack ▸ pack_lt _ hfit, by rw [h31_25]; rfl, ?_⟩
  change decodeExtended w rec = _
  rw [decodeExtended, h31_25]; simp only [h3_0]
  rw [fin_eq a h24_20, fin_eq b h19_15, fin_eq c h14_10, fin_eq f h9_4]

theorem copys (a : Fin 32) (b : Fin 32) (c : Fin 32) (f : Fin 64) (rec : ShapeRec) : Statement (.copys a b c f rec) := by
  intro _ _
  suffices key : ∀ w, w = 4060086272 + a.val * 1048576 + b.val * 32768 + c.val * 1024 + f.val * 16 + 1 → decodes w (.copys a b c f rec) (some rec) from decode_of rfl rfl (key _ rfl)
  intro w h
  have hfit : fits [(4, 1), (6, f.val), (5, c.val), (5, b.val), (5, a.val), (7, 0x79)] := ⟨by decide, f.isLt, c.isLt, b.isLt, a.isLt, by decide, trivial⟩
  have hpack := h.trans (show _ = pack _ by simp only [pack] <;> omega : _ = pack [(4, 1), (6, f.val), (5, c.val), (5, b.val), (5, a.val), (7, 0x79)])
  have h3_0 : bits w 3 0 = 1 := field_of hpack hfit 0
  have h9_4 : bits w 9 4 = f.val := field_of hpack hfit 1
  have h14_10 : bits w 14 10 = c.val := field_of hpack hfit 2
  have h19_15 : bits w 19 15 = b.val := field_of hpack hfit 3
  have h24_20 : bits w 24 20 = a.val := field_of hpack hfit 4
  have h31_25 : bits w 31 25 = 0x79 := field_of hpack hfit 5
  refine ⟨hpack ▸ pack_lt _ hfit, by rw [h31_25]; rfl, ?_⟩
  change decodeExtended w rec = _
  rw [decodeExtended, h31_25]; simp only [h3_0]
  rw [fin_eq a h24_20, fin_eq b h19_15, fin_eq c h14_10, fin_eq f h9_4]

theorem copyDec (a : Fin 32) (b : Fin 32) (f : Fin 64) (rec : ShapeRec) : Statement (.copyDec a b f rec) := by
  intro _ _
  suffices key : ∀ w, w = 4060086272 + a.val * 1048576 + b.val * 32768 + f.val * 16 + 2 → decodes w (.copyDec a b f rec) (some rec) from decode_of rfl rfl (key _ rfl)
  intro w h
  have hfit : fits [(4, 2), (6, f.val), (5, 0), (5, b.val), (5, a.val), (7, 0x79)] := ⟨by decide, f.isLt, by decide, b.isLt, a.isLt, by decide, trivial⟩
  have hpack := h.trans (show _ = pack _ by simp only [pack] <;> omega : _ = pack [(4, 2), (6, f.val), (5, 0), (5, b.val), (5, a.val), (7, 0x79)])
  have h3_0 : bits w 3 0 = 2 := field_of hpack hfit 0
  have h9_4 : bits w 9 4 = f.val := field_of hpack hfit 1
  have h14_10 : bits w 14 10 = 0 := field_of hpack hfit 2
  have h19_15 : bits w 19 15 = b.val := field_of hpack hfit 3
  have h24_20 : bits w 24 20 = a.val := field_of hpack hfit 4
  have h31_25 : bits w 31 25 = 0x79 := field_of hpack hfit 5
  refine ⟨hpack ▸ pack_lt _ hfit, by rw [h31_25]; rfl, ?_⟩
  change decodeExtended w rec = _
  rw [decodeExtended, h31_25]; simp only [h3_0]
  rw [if_pos h14_10]
  rw [fin_eq a h24_20, fin_eq b h19_15, fin_eq f h9_4]

theorem fill (a : Fin 32) (b : Fin 32) (f : Fin 64) (rec : ShapeRec) : Statement (.fill a b f rec) := by
  intro _ _
  suffices key : ∀ w, w = 4060086272 + a.val * 1048576 + b.val * 32768 + f.val * 16 + 3 → decodes w (.fill a b f rec) (some rec) from decode_of rfl rfl (key _ rfl)
  intro w h
  have hfit : fits [(4, 3), (6, f.val), (5, 0), (5, b.val), (5, a.val), (7, 0x79)] := ⟨by decide, f.isLt, by decide, b.isLt, a.isLt, by decide, trivial⟩
  have hpack := h.trans (show _ = pack _ by simp only [pack] <;> omega : _ = pack [(4, 3), (6, f.val), (5, 0), (5, b.val), (5, a.val), (7, 0x79)])
  have h3_0 : bits w 3 0 = 3 := field_of hpack hfit 0
  have h9_4 : bits w 9 4 = f.val := field_of hpack hfit 1
  have h14_10 : bits w 14 10 = 0 := field_of hpack hfit 2
  have h19_15 : bits w 19 15 = b.val := field_of hpack hfit 3
  have h24_20 : bits w 24 20 = a.val := field_of hpack hfit 4
  have h31_25 : bits w 31 25 = 0x79 := field_of hpack hfit 5
  refine ⟨hpack ▸ pack_lt _ hfit, by rw [h31_25]; rfl, ?_⟩
  change decodeExtended w rec = _
  rw [decodeExtended, h31_25]; simp only [h3_0]
  rw [if_pos h14_10]
  rw [fin_eq a h24_20, fin_eq b h19_15, fin_eq f h9_4]

theorem copyPeer (a : Fin 32) (b : Fin 32) (c : Fin 32) (f : Fin 64) (rec : ShapeRec) : Statement (.copyPeer a b c f rec) := by
  intro _ _
  suffices key : ∀ w, w = 4060086272 + a.val * 1048576 + b.val * 32768 + c.val * 1024 + f.val * 16 + 4 → decodes w (.copyPeer a b c f rec) (some rec) from decode_of rfl rfl (key _ rfl)
  intro w h
  have hfit : fits [(4, 4), (6, f.val), (5, c.val), (5, b.val), (5, a.val), (7, 0x79)] := ⟨by decide, f.isLt, c.isLt, b.isLt, a.isLt, by decide, trivial⟩
  have hpack := h.trans (show _ = pack _ by simp only [pack] <;> omega : _ = pack [(4, 4), (6, f.val), (5, c.val), (5, b.val), (5, a.val), (7, 0x79)])
  have h3_0 : bits w 3 0 = 4 := field_of hpack hfit 0
  have h9_4 : bits w 9 4 = f.val := field_of hpack hfit 1
  have h14_10 : bits w 14 10 = c.val := field_of hpack hfit 2
  have h19_15 : bits w 19 15 = b.val := field_of hpack hfit 3
  have h24_20 : bits w 24 20 = a.val := field_of hpack hfit 4
  have h31_25 : bits w 31 25 = 0x79 := field_of hpack hfit 5
  refine ⟨hpack ▸ pack_lt _ hfit, by rw [h31_25]; rfl, ?_⟩
  change decodeExtended w rec = _
  rw [decodeExtended, h31_25]; simp only [h3_0]
  rw [fin_eq a h24_20, fin_eq b h19_15, fin_eq c h14_10, fin_eq f h9_4]

theorem wrq (a : Fin 32) (b : Fin 32) (c : Fin 32) (f : Fin 64) (rec : ShapeRec) : Statement (.wrq a b c f rec) := by
  intro _ _
  suffices key : ∀ w, w = 4060086272 + a.val * 1048576 + b.val * 32768 + c.val * 1024 + f.val * 16 + 5 → decodes w (.wrq a b c f rec) (some rec) from decode_of rfl rfl (key _ rfl)
  intro w h
  have hfit : fits [(4, 5), (6, f.val), (5, c.val), (5, b.val), (5, a.val), (7, 0x79)] := ⟨by decide, f.isLt, c.isLt, b.isLt, a.isLt, by decide, trivial⟩
  have hpack := h.trans (show _ = pack _ by simp only [pack] <;> omega : _ = pack [(4, 5), (6, f.val), (5, c.val), (5, b.val), (5, a.val), (7, 0x79)])
  have h3_0 : bits w 3 0 = 5 := field_of hpack hfit 0
  have h9_4 : bits w 9 4 = f.val := field_of hpack hfit 1
  have h14_10 : bits w 14 10 = c.val := field_of hpack hfit 2
  have h19_15 : bits w 19 15 = b.val := field_of hpack hfit 3
  have h24_20 : bits w 24 20 = a.val := field_of hpack hfit 4
  have h31_25 : bits w 31 25 = 0x79 := field_of hpack hfit 5
  refine ⟨hpack ▸ pack_lt _ hfit, by rw [h31_25]; rfl, ?_⟩
  change decodeExtended w rec = _
  rw [decodeExtended, h31_25]; simp only [h3_0]
  rw [fin_eq a h24_20, fin_eq b h19_15, fin_eq c h14_10, fin_eq f h9_4]

theorem dtab (a : Fin 32) (f : Fin 64) (rec : ShapeRec) : Statement (.dtab a f rec) := by
  intro _ _
  suffices key : ∀ w, w = 4060086272 + a.val * 1048576 + f.val * 16 + 6 → decodes w (.dtab a f rec) (some rec) from decode_of rfl rfl (key _ rfl)
  intro w h
  have hfit : fits [(4, 6), (6, f.val), (5, 0), (5, 0), (5, a.val), (7, 0x79)] := ⟨by decide, f.isLt, by decide, by decide, a.isLt, by decide, trivial⟩
  have hpack := h.trans (show _ = pack _ by simp only [pack] <;> omega : _ = pack [(4, 6), (6, f.val), (5, 0), (5, 0), (5, a.val), (7, 0x79)])
  have h3_0 : bits w 3 0 = 6 := field_of hpack hfit 0
  have h9_4 : bits w 9 4 = f.val := field_of hpack hfit 1
  have h14_10 : bits w 14 10 = 0 := field_of hpack hfit 2
  have h19_15 : bits w 19 15 = 0 := field_of hpack hfit 3
  have h24_20 : bits w 24 20 = a.val := field_of hpack hfit 4
  have h31_25 : bits w 31 25 = 0x79 := field_of hpack hfit 5
  refine ⟨hpack ▸ pack_lt _ hfit, by rw [h31_25]; rfl, ?_⟩
  change decodeExtended w rec = _
  rw [decodeExtended, h31_25]; simp only [h3_0]
  rw [if_pos ⟨h19_15, h14_10⟩]
  rw [fin_eq a h24_20, fin_eq f h9_4]

theorem vlds (a : Fin 32) (rec : ShapeRec) : Statement (.vlds a rec) := by
  intro _ _
  suffices key : ∀ w, w = 4093640704 + a.val * 1048576 → decodes w (.vlds a rec) (some rec) from decode_of rfl rfl (key _ rfl)
  intro w h
  have hfit : fits [(4, 0), (6, 0), (5, 0), (5, 0), (5, a.val), (7, 0x7A)] := ⟨by decide, by decide, by decide, by decide, a.isLt, by decide, trivial⟩
  have hpack := h.trans (show _ = pack _ by simp only [pack] <;> omega : _ = pack [(4, 0), (6, 0), (5, 0), (5, 0), (5, a.val), (7, 0x7A)])
  have h3_0 : bits w 3 0 = 0 := field_of hpack hfit 0
  have h9_4 : bits w 9 4 = 0 := field_of hpack hfit 1
  have h14_10 : bits w 14 10 = 0 := field_of hpack hfit 2
  have h19_15 : bits w 19 15 = 0 := field_of hpack hfit 3
  have h24_20 : bits w 24 20 = a.val := field_of hpack hfit 4
  have h31_25 : bits w 31 25 = 0x7A := field_of hpack hfit 5
  refine ⟨hpack ▸ pack_lt _ hfit, by rw [h31_25]; rfl, ?_⟩
  change decodeExtended w rec = _
  rw [decodeExtended, h31_25]; simp only [h3_0]
  rw [if_pos ⟨h19_15, ⟨h14_10, h9_4⟩⟩]
  rw [fin_eq a h24_20]

theorem vsts (a : Fin 32) (rec : ShapeRec) : Statement (.vsts a rec) := by
  intro _ _
  suffices key : ∀ w, w = 4093640704 + a.val * 1048576 + 1 → decodes w (.vsts a rec) (some rec) from decode_of rfl rfl (key _ rfl)
  intro w h
  have hfit : fits [(4, 1), (6, 0), (5, 0), (5, 0), (5, a.val), (7, 0x7A)] := ⟨by decide, by decide, by decide, by decide, a.isLt, by decide, trivial⟩
  have hpack := h.trans (show _ = pack _ by simp only [pack] <;> omega : _ = pack [(4, 1), (6, 0), (5, 0), (5, 0), (5, a.val), (7, 0x7A)])
  have h3_0 : bits w 3 0 = 1 := field_of hpack hfit 0
  have h9_4 : bits w 9 4 = 0 := field_of hpack hfit 1
  have h14_10 : bits w 14 10 = 0 := field_of hpack hfit 2
  have h19_15 : bits w 19 15 = 0 := field_of hpack hfit 3
  have h24_20 : bits w 24 20 = a.val := field_of hpack hfit 4
  have h31_25 : bits w 31 25 = 0x7A := field_of hpack hfit 5
  refine ⟨hpack ▸ pack_lt _ hfit, by rw [h31_25]; rfl, ?_⟩
  change decodeExtended w rec = _
  rw [decodeExtended, h31_25]; simp only [h3_0]
  rw [if_pos ⟨h19_15, ⟨h14_10, h9_4⟩⟩]
  rw [fin_eq a h24_20]

theorem sbind (a : Fin 32) (b : Fin 32) (c : Fin 32) (f : Fin 64) (rec : ShapeRec) : Statement (.sbind a b c f rec) := by
  intro _ _
  suffices key : ∀ w, w = 4127195136 + a.val * 1048576 + b.val * 32768 + c.val * 1024 + f.val * 16 → decodes w (.sbind a b c f rec) (some rec) from decode_of rfl rfl (key _ rfl)
  intro w h
  have hfit : fits [(4, 0), (6, f.val), (5, c.val), (5, b.val), (5, a.val), (7, 0x7B)] := ⟨by decide, f.isLt, c.isLt, b.isLt, a.isLt, by decide, trivial⟩
  have hpack := h.trans (show _ = pack _ by simp only [pack] <;> omega : _ = pack [(4, 0), (6, f.val), (5, c.val), (5, b.val), (5, a.val), (7, 0x7B)])
  have h3_0 : bits w 3 0 = 0 := field_of hpack hfit 0
  have h9_4 : bits w 9 4 = f.val := field_of hpack hfit 1
  have h14_10 : bits w 14 10 = c.val := field_of hpack hfit 2
  have h19_15 : bits w 19 15 = b.val := field_of hpack hfit 3
  have h24_20 : bits w 24 20 = a.val := field_of hpack hfit 4
  have h31_25 : bits w 31 25 = 0x7B := field_of hpack hfit 5
  refine ⟨hpack ▸ pack_lt _ hfit, by rw [h31_25]; rfl, ?_⟩
  change decodeExtended w rec = _
  rw [decodeExtended, h31_25]; simp only [h3_0]
  rw [fin_eq a h24_20, fin_eq b h19_15, fin_eq c h14_10, fin_eq f h9_4]

theorem tileCommit (a : Fin 32) (b : Fin 32) (c : Fin 32) (f : Fin 64) (rec : ShapeRec) : Statement (.tileCommit a b c f rec) := by
  intro _ _
  suffices key : ∀ w, w = 4160749568 + a.val * 1048576 + b.val * 32768 + c.val * 1024 + f.val * 16 → decodes w (.tileCommit a b c f rec) (some rec) from decode_of rfl rfl (key _ rfl)
  intro w h
  have hfit : fits [(4, 0), (6, f.val), (5, c.val), (5, b.val), (5, a.val), (7, 0x7C)] := ⟨by decide, f.isLt, c.isLt, b.isLt, a.isLt, by decide, trivial⟩
  have hpack := h.trans (show _ = pack _ by simp only [pack] <;> omega : _ = pack [(4, 0), (6, f.val), (5, c.val), (5, b.val), (5, a.val), (7, 0x7C)])
  have h3_0 : bits w 3 0 = 0 := field_of hpack hfit 0
  have h9_4 : bits w 9 4 = f.val := field_of hpack hfit 1
  have h14_10 : bits w 14 10 = c.val := field_of hpack hfit 2
  have h19_15 : bits w 19 15 = b.val := field_of hpack hfit 3
  have h24_20 : bits w 24 20 = a.val := field_of hpack hfit 4
  have h31_25 : bits w 31 25 = 0x7C := field_of hpack hfit 5
  refine ⟨hpack ▸ pack_lt _ hfit, by rw [h31_25]; rfl, ?_⟩
  change decodeExtended w rec = _
  rw [decodeExtended, h31_25]; simp only [h3_0]
  rw [fin_eq a h24_20, fin_eq b h19_15, fin_eq c h14_10, fin_eq f h9_4]

theorem alignSet (a : Fin 32) (b : Fin 32) (f : Fin 64) (rec : ShapeRec) : Statement (.alignSet a b f rec) := by
  intro _ _
  suffices key : ∀ w, w = 4160749568 + a.val * 1048576 + b.val * 32768 + f.val * 16 + 1 → decodes w (.alignSet a b f rec) (some rec) from decode_of rfl rfl (key _ rfl)
  intro w h
  have hfit : fits [(4, 1), (6, f.val), (5, 0), (5, b.val), (5, a.val), (7, 0x7C)] := ⟨by decide, f.isLt, by decide, b.isLt, a.isLt, by decide, trivial⟩
  have hpack := h.trans (show _ = pack _ by simp only [pack] <;> omega : _ = pack [(4, 1), (6, f.val), (5, 0), (5, b.val), (5, a.val), (7, 0x7C)])
  have h3_0 : bits w 3 0 = 1 := field_of hpack hfit 0
  have h9_4 : bits w 9 4 = f.val := field_of hpack hfit 1
  have h14_10 : bits w 14 10 = 0 := field_of hpack hfit 2
  have h19_15 : bits w 19 15 = b.val := field_of hpack hfit 3
  have h24_20 : bits w 24 20 = a.val := field_of hpack hfit 4
  have h31_25 : bits w 31 25 = 0x7C := field_of hpack hfit 5
  refine ⟨hpack ▸ pack_lt _ hfit, by rw [h31_25]; rfl, ?_⟩
  change decodeExtended w rec = _
  rw [decodeExtended, h31_25]; simp only [h3_0]
  rw [if_pos h14_10]
  rw [fin_eq a h24_20, fin_eq b h19_15, fin_eq f h9_4]

theorem tshapeWrite (v : Word) : Statement (.tshapeWrite v) := fun _ h => absurd h Bool.false_ne_true

theorem fpmodeWrite (v : Word) : Statement (.fpmodeWrite v) := fun _ h => absurd h Bool.false_ne_true

theorem timecmpWrite (v : Word) : Statement (.timecmpWrite v) := fun _ h => absurd h Bool.false_ne_true

theorem loopRegisterWrite (r : Fin 64) (v : Word) : Statement (.loopRegisterWrite r v) := fun _ h => absurd h Bool.false_ne_true

theorem slacktabWrite (i : Fin 3) (v : Word) : Statement (.slacktabWrite i v) := fun _ h => absurd h Bool.false_ne_true

theorem powerGood : Statement (.powerGood) := fun _ h => absurd h Bool.false_ne_true

theorem recoveryImageWrite (slot : Fin 2) (image : List Byte) : Statement (.recoveryImageWrite slot image) := fun _ h => absurd h Bool.false_ne_true

theorem quoteRequest (v : Word) : Statement (.quoteRequest v) := fun _ h => absurd h Bool.false_ne_true

theorem quoteDone : Statement (.quoteDone) := fun _ h => absurd h Bool.false_ne_true

theorem housekeepingWrite (off : Nat) (n : Nat) (v : Word) : Statement (.housekeepingWrite off n v) := fun _ h => absurd h Bool.false_ne_true

theorem stashcfgWrite (core : Fin 128) (v : Word) : Statement (.stashcfgWrite core v) := fun _ h => absurd h Bool.false_ne_true

theorem ctcTick : Statement (.ctcTick) := fun _ h => absurd h Bool.false_ne_true

theorem ctcrateWrite (v : Word) : Statement (.ctcrateWrite v) := fun _ h => absurd h Bool.false_ne_true

theorem ctcofsWrite (v : Word) : Statement (.ctcofsWrite v) := fun _ h => absurd h Bool.false_ne_true

theorem ringInstall (ring : Fin 256) (cfg : Word) : Statement (.ringInstall ring cfg) := fun _ h => absurd h Bool.false_ne_true

theorem ringRemove (ring : Fin 256) : Statement (.ringRemove ring) := fun _ h => absurd h Bool.false_ne_true

theorem tailWrite (ring : Fin 256) (v : Word32) : Statement (.tailWrite ring v) := fun _ h => absurd h Bool.false_ne_true

theorem admissionTurn : Statement (.admissionTurn) := fun _ h => absurd h Bool.false_ne_true

theorem ringStallEpisode (ring : Fin 256) : Statement (.ringStallEpisode ring) := fun _ h => absurd h Bool.false_ne_true

theorem matchEntryArm (e : Fin 64) : Statement (.matchEntryArm e) := fun _ h => absurd h Bool.false_ne_true

theorem matchWriteArrival (tag : Word32) (asid : BitVec 16) (n : Nat) : Statement (.matchWriteArrival tag asid n) := fun _ h => absurd h Bool.false_ne_true

theorem deadlinePass (slot : Fin 64) : Statement (.deadlinePass slot) := fun _ h => absurd h Bool.false_ne_true

theorem walkerStep : Statement (.walkerStep) := fun _ h => absurd h Bool.false_ne_true

theorem affinityExpiry (grp : Fin 4) (n : Nat) : Statement (.affinityExpiry grp n) := fun _ h => absurd h Bool.false_ne_true

theorem commonQueueMove : Statement (.commonQueueMove) := fun _ h => absurd h Bool.false_ne_true

theorem dispatch (core : Fin 128) : Statement (.dispatch core) := fun _ h => absurd h Bool.false_ne_true

theorem schedulerPreempt : Statement (.schedulerPreempt) := fun _ h => absurd h Bool.false_ne_true

theorem preemptHalt : Statement (.preemptHalt) := fun _ h => absurd h Bool.false_ne_true

theorem saveComplete : Statement (.saveComplete) := fun _ h => absurd h Bool.false_ne_true

theorem tspawnEnqueue : Statement (.tspawnEnqueue) := fun _ h => absurd h Bool.false_ne_true

theorem bankRefill (cluster : Fin 32) (bank : Fin 4) : Statement (.bankRefill cluster bank) := fun _ h => absurd h Bool.false_ne_true

theorem unitRetire : Statement (.unitRetire) := fun _ h => absurd h Bool.false_ne_true

theorem jobEnd (asid : BitVec 16) : Statement (.jobEnd asid) := fun _ h => absurd h Bool.false_ne_true

theorem jobCancel (asid : BitVec 16) : Statement (.jobCancel asid) := fun _ h => absurd h Bool.false_ne_true

theorem jobActivate (asid : BitVec 16) : Statement (.jobActivate asid) := fun _ h => absurd h Bool.false_ne_true

theorem jobHold (asid : BitVec 16) : Statement (.jobHold asid) := fun _ h => absurd h Bool.false_ne_true

theorem jobRetire (asid : BitVec 16) : Statement (.jobRetire asid) := fun _ h => absurd h Bool.false_ne_true

theorem channelInstall (ch : Fin 264) (ctl : Word) : Statement (.channelInstall ch ctl) := fun _ h => absurd h Bool.false_ne_true

theorem faultReply (asid : BitVec 16) (token : Word32) (retry : Bool) : Statement (.faultReply asid token retry) := fun _ h => absurd h Bool.false_ne_true

theorem pageWalkComplete (n : Nat) : Statement (.pageWalkComplete n) := fun _ h => absurd h Bool.false_ne_true

theorem loadReply (n : Nat) : Statement (.loadReply n) := fun _ h => absurd h Bool.false_ne_true

theorem resultLand : Statement (.resultLand) := fun _ h => absurd h Bool.false_ne_true

theorem votePop : Statement (.votePop) := fun _ h => absurd h Bool.false_ne_true

theorem arbiterGrant (arb : ArbId) : Statement (.arbiterGrant arb) := fun _ h => absurd h Bool.false_ne_true

theorem slackDecrement (n : Nat) : Statement (.slackDecrement n) := fun _ h => absurd h Bool.false_ne_true

theorem noUrgencyPromotion (n : Nat) : Statement (.noUrgencyPromotion n) := fun _ h => absurd h Bool.false_ne_true

theorem sliceRequestGrant (slice : Fin 64) : Statement (.sliceRequestGrant slice) := fun _ h => absurd h Bool.false_ne_true

theorem sliceFillComplete (slice : Fin 64) : Statement (.sliceFillComplete slice) := fun _ h => absurd h Bool.false_ne_true

theorem windowAccessServe (core : Fin 128) : Statement (.windowAccessServe core) := fun _ h => absurd h Bool.false_ne_true

theorem fenceMarkerRetire (slice : Fin 64) : Statement (.fenceMarkerRetire slice) := fun _ h => absurd h Bool.false_ne_true

theorem flitCrcReplay (east : Bool) (lane : Fin 24) (station : Fin 15) (failed : Bool) : Statement (.flitCrcReplay east lane station failed) := fun _ h => absurd h Bool.false_ne_true

theorem gauntletGrant (cluster : Fin 32) : Statement (.gauntletGrant cluster) := fun _ h => absurd h Bool.false_ne_true

theorem leaseSlackDecrement (core : Fin 128) : Statement (.leaseSlackDecrement core) := fun _ h => absurd h Bool.false_ne_true

theorem termClockExpiry (cluster : Fin 32) : Statement (.termClockExpiry cluster) := fun _ h => absurd h Bool.false_ne_true

theorem termIdleExpiry (cluster : Fin 32) : Statement (.termIdleExpiry cluster) := fun _ h => absurd h Bool.false_ne_true

theorem matrixPassEnd : Statement (.matrixPassEnd) := fun _ h => absurd h Bool.false_ne_true

theorem matrixCommandComplete : Statement (.matrixCommandComplete) := fun _ h => absurd h Bool.false_ne_true

theorem mzeroComplete : Statement (.mzeroComplete) := fun _ h => absurd h Bool.false_ne_true

theorem moutComplete : Statement (.moutComplete) := fun _ h => absurd h Bool.false_ne_true

theorem selftestComplete (res : Resource) (lasting : Bool) : Statement (.selftestComplete res lasting) := fun _ h => absurd h Bool.false_ne_true

theorem copyStart (n : Nat) : Statement (.copyStart n) := fun _ h => absurd h Bool.false_ne_true

theorem copyComplete (n : Nat) : Statement (.copyComplete n) := fun _ h => absurd h Bool.false_ne_true

theorem peerWriteArrival (pw : PeerWrite) : Statement (.peerWriteArrival pw) := fun _ h => absurd h Bool.false_ne_true

theorem wrqArrival (msg : WrqMsg) : Statement (.wrqArrival msg) := fun _ h => absurd h Bool.false_ne_true

theorem peerAck (n : Nat) (reply : PeerReply) : Statement (.peerAck n reply) := fun _ h => absurd h Bool.false_ne_true

theorem mirrorArrival (msg : MirrorMsg) : Statement (.mirrorArrival msg) := fun _ h => absurd h Bool.false_ne_true

theorem mirrorAck (reply : PeerReply) : Statement (.mirrorAck reply) := fun _ h => absurd h Bool.false_ne_true

theorem streamFlitLand (turn : Fin 256 × Bool) : Statement (.streamFlitLand turn) := fun _ h => absurd h Bool.false_ne_true

theorem flowSignalArrival (stream : Fin 256) : Statement (.flowSignalArrival stream) := fun _ h => absurd h Bool.false_ne_true

theorem contextEnd : Statement (.contextEnd) := fun _ h => absurd h Bool.false_ne_true

theorem cameraFrameStart (ch : Fin 256) : Statement (.cameraFrameStart ch) := fun _ h => absurd h Bool.false_ne_true

theorem embeddedHeader (ch : Fin 256) (width : BitVec 16) (height : BitVec 16) : Statement (.embeddedHeader ch width height) := fun _ h => absurd h Bool.false_ne_true

theorem cameraLine (ch : Fin 256) (num : Nat) (dt : Nat) (crcOk : Bool) (first : Word) (elems : List (BitVec 16)) : Statement (.cameraLine ch num dt crcOk first elems) := fun _ h => absurd h Bool.false_ne_true

theorem cameraFrameEnd (ch : Fin 256) : Statement (.cameraFrameEnd ch) := fun _ h => absurd h Bool.false_ne_true

theorem lidarPacket (port : Fin 8) (payload : List Byte) (udpOk : Bool) (first : Word) : Statement (.lidarPacket port payload udpOk first) := fun _ h => absurd h Bool.false_ne_true

theorem ethernetFrame (port : Fin 8) (frame : List Byte) (fcsOk : Bool) (first : Word) : Statement (.ethernetFrame port frame fcsOk first) := fun _ h => absurd h Bool.false_ne_true

theorem ptpEgress (port : Fin 8) (header message : List Byte) (oneStep : Bool) : Statement (.ptpEgress port header message oneStep) := fun _ h => absurd h Bool.false_ne_true

theorem otherPacketDiscard (port : Fin 16) (vc : Fin 32) : Statement (.otherPacketDiscard port vc) := fun _ h => absurd h Bool.false_ne_true

theorem rowDeadlineExpiry (ch : Fin 264) : Statement (.rowDeadlineExpiry ch) := fun _ h => absurd h Bool.false_ne_true

theorem lidarFrameTimeout (port : Fin 8) : Statement (.lidarFrameTimeout port) := fun _ h => absurd h Bool.false_ne_true

theorem tileCommitComplete (n : Nat) : Statement (.tileCommitComplete n) := fun _ h => absurd h Bool.false_ne_true

theorem setTimeout (grp : Fin 16) : Statement (.setTimeout grp) := fun _ h => absurd h Bool.false_ne_true

theorem timerExpiry : Statement (.timerExpiry) := fun _ h => absurd h Bool.false_ne_true

theorem trapEntry : Statement (.trapEntry) := fun _ h => absurd h Bool.false_ne_true

theorem unwind : Statement (.unwind) := fun _ h => absurd h Bool.false_ne_true

theorem unitFail : Statement (.unitFail) := fun _ h => absurd h Bool.false_ne_true

theorem cancelStop : Statement (.cancelStop) := fun _ h => absurd h Bool.false_ne_true

theorem heartbeatSend : Statement (.heartbeatSend) := fun _ h => absurd h Bool.false_ne_true

theorem heartbeatReceive (ctc : Word) (part : Bool) : Statement (.heartbeatReceive ctc part) := fun _ h => absurd h Bool.false_ne_true

theorem peerLostTimeout : Statement (.peerLostTimeout) := fun _ h => absurd h Bool.false_ne_true

theorem linkEnable : Statement (.linkEnable) := fun _ h => absurd h Bool.false_ne_true

theorem linkTrained : Statement (.linkTrained) := fun _ h => absurd h Bool.false_ne_true

theorem linkFlitReplay : Statement (.linkFlitReplay) := fun _ h => absurd h Bool.false_ne_true

theorem linkRetrain : Statement (.linkRetrain) := fun _ h => absurd h Bool.false_ne_true

theorem retrainTimeout : Statement (.retrainTimeout) := fun _ h => absurd h Bool.false_ne_true

theorem linkIdleTimeout : Statement (.linkIdleTimeout) := fun _ h => absurd h Bool.false_ne_true

theorem fatalNoticeReceive : Statement (.fatalNoticeReceive) := fun _ h => absurd h Bool.false_ne_true

theorem throttleStart (temp : BitVec 8) (power : BitVec 16) : Statement (.throttleStart temp power) := fun _ h => absurd h Bool.false_ne_true

theorem throttleEnd (temp : BitVec 8) (power : BitVec 16) : Statement (.throttleEnd temp power) := fun _ h => absurd h Bool.false_ne_true

theorem overheat (temp : BitVec 8) : Statement (.overheat temp) := fun _ h => absurd h Bool.false_ne_true

theorem bootWatchdogStall : Statement (.bootWatchdogStall) := fun _ h => absurd h Bool.false_ne_true

theorem dispatchEcc (place : BitVec 8) : Statement (.dispatchEcc place) := fun _ h => absurd h Bool.false_ne_true

theorem debugHalt : Statement (.debugHalt) := fun _ h => absurd h Bool.false_ne_true

theorem debugResume : Statement (.debugResume) := fun _ h => absurd h Bool.false_ne_true

theorem linkRetrained : Statement (.linkRetrained) := fun _ h => absurd h Bool.false_ne_true

theorem idleFlitSend : Statement (.idleFlitSend) := fun _ h => absurd h Bool.false_ne_true

theorem idleFlitReceive : Statement (.idleFlitReceive) := fun _ h => absurd h Bool.false_ne_true

theorem linkFlitAcknowledgment (upTo : Nat) : Statement (.linkFlitAcknowledgment upTo) := fun _ h => absurd h Bool.false_ne_true

theorem writeAcknowledgment (n : Nat) : Statement (.writeAcknowledgment n) := fun _ h => absurd h Bool.false_ne_true

theorem cameraLinkTraining (port : Fin 16) (gear : Nat) : Statement (.cameraLinkTraining port gear) := fun _ h => absurd h Bool.false_ne_true

theorem controlMessagePassThrough (port : Fin 16) (message : List Byte) : Statement (.controlMessagePassThrough port message) := fun _ h => absurd h Bool.false_ne_true

end Sys2Proof.Laws.Encoding
end

