-- ==== Sys2Proof/Tests/Slice0.lean ====
section
/-! SUPPORT. Tests. Every expected word and value stands in the manual or is worked by hand from its tables; the last part shows, for
each statement with hypotheses, states and operands that meet them. -/

namespace Sys2Proof.Tests

open Sys2Proof Sys2Proof.Machine

/-- Chapter 6's table of encodings, and R123's BR.PT. -/
theorem test_decode_control :
    decodeTableWord 32 0x00842800 = some (.add 8 8 10) ∧
    decodeTableWord 32 0x14219002 = some (.cmp 2 3 4 .lt) ∧
    decodeTableWord 32 0x0C5312C8 = some (.bfxSx 5 6 11 8) ∧
    decodeTableWord 32 0x128003F8 = some (.lih 8 0x3F8) ∧
    decodeTableWord 32 0x1880000C = some (.pbr 1 12) ∧
    decodeTableWord 32 0x650F8000 = some (.call 2 31) ∧
    decodeTableWord 32 0x5E001403 = some (.loopi .A 5 3) ∧
    decodeTableWord 32 0x5C078005 = some (.loop .A 15 5) ∧
    decodeTableWord 32 0x68100002 = some (.vany 1 2) ∧
    decodeTableWord 32 0x60D00003 = some (.brPt 1 2 true) ∧
    decodeTableWord 32 0x63800000 = some (.jmp 3) ∧
    decodeTableWord 32 0x08E38001 = some (.xori 14 7 1) ∧
    decodeTableWord 32 0x00D33010 = some (.mul 13 6 12) := by decide

/-- Chapter 10's table, and one of chapter 5's and one of chapter 19's. -/
theorem test_decode_memory :
    decodeTableWord 32 0x2C321102 = some (.ldS32 3 4 2 1 2) ∧
    decodeTableWord 32 0x26828000 = some (.ldZ64 8 5 0 0 0) ∧
    decodeTableWord 32 0x36048800 = some (.vld 0 9 1 0 0) ∧
    decodeTableWord 32 0x36040803 = some (.vld 0 8 1 0 3) ∧
    decodeTableWord 32 0x3A748800 = some (.vgather 7 9 1 0) ∧
    decodeTableWord 32 0x3E04900B = some (.vradd 0 9 2 0 .f32) ∧
    decodeTableWord 32 0x42A5B0E1 = some (.amoZ64 10 11 12 3 .chip .add) ∧
    decodeTableWord 32 0x44A5B010 = some (.casZ32 10 11 12 0 .cluster) ∧
    decodeTableWord 32 0x48D73C00 = some (.pin 13 14 15) ∧
    decodeTableWord 32 0x48073C12 = some (.cflush 14 15 1) ∧
    decodeTableWord 32 0x38070800 = some (.vst 0 14 1 0 0) := by decide

/-- Chapter 14's tables and examples. -/
theorem test_decode_synchronisation :
    decodeTableWord 32 0x4A040050 = some (.flagAdd 8 5) ∧
    decodeTableWord 32 0x4A940051 = some (.flagWait 9 8 5) ∧
    decodeTableWord 32 0x4A940052 = some (.flagWaitSub 9 8 5) ∧
    decodeTableWord 32 0x4A900053 = some (.flagRd 9 5) ∧
    decodeTableWord 32 0x4C000000 = some (.wait 0 0 0 0) ∧
    decodeTableWord 32 0x4C0FFFE2 = some (.wait 31 31 31 2) ∧
    decodeTableWord 32 0x4E020006 = some (.fence .chip 6) ∧
    decodeTableWord 32 0x50000020 = some (.barArrive 2) ∧
    decodeTableWord 32 0x50040021 = some (.barWait 8 2) ∧
    decodeTableWord 32 0x52000000 = some .startNext ∧
    decodeTableWord 32 0x52000001 = some .waitPred ∧
    decodeTableWord 32 0x52040002 = some (.tspawn 8) ∧
    decodeTableWord 32 0x52848003 = some (.futRd 8 9) ∧
    decodeTableWord 32 0x5284A804 = some (.futFill 8 9 10) ∧
    decodeTableWord 32 0x52040025 = some (.lvlCancel 8 .graph) := by decide

/-- Chapter 18's table and chapter 19's words. -/
theorem test_decode_system :
    decodeTableWord 32 0x5A000050 = some (.trap 5) ∧
    decodeTableWord 32 0x5A000001 = some .eret ∧
    decodeTableWord 32 0x5A9000B2 = some (.sysRd 9 0x0B) ∧
    decodeTableWord 32 0x5A0500B3 = some (.sysWr 10 0x0B) ∧
    decodeTableWord 32 0x5A060093 = some (.sysWr 12 9) ∧
    decodeTableWord 32 0x5AB00004 = some (.time 11) ∧
    decodeTableWord 32 0x5A060005 = some (.tlbinvPage 12) ∧
    decodeTableWord 32 0x5A000015 = some .tlbinvAsid ∧
    decodeTableWord 32 0x5A06B806 = some (.crgnOpen 13 14) ∧
    decodeTableWord 32 0x5A000007 = some .crgnClose ∧
    decodeTableWord 32 0x5A100077 = some (.crgnCloseMirror 7) ∧
    decodeTableWord 32 0x5AF00008 = some (.selftestArray 15) := by decide

/-- The tables of chapters 8, 12 and 13. -/
theorem test_decode_matrix_streams_rows :
    decodeTableWord 32 0x54000020 = some (.lease 2) ∧
    decodeTableWord 32 0x54000001 = some .unlease ∧
    decodeTableWord 32 0x54000022 = some (.mzero 2) ∧
    decodeTableWord 32 0x54152C43 = some (.mout 1 10 11 4) ∧
    decodeTableWord 32 0x54100043 = some (.moutRq 1 4) ∧
    decodeTableWord 32 0x54C00004 = some (.mstat 12) ∧
    decodeTableWord 32 0x56040000 = some (.sunbind 8) ∧
    decodeTableWord 32 0x56D70001 = some (.sctxStart 13 14) ∧
    decodeTableWord 32 0x56D70011 = some (.sctxStop 13 14) ∧
    decodeTableWord 32 0x56B43002 = some (.sdepth 11 8 12) ∧
    decodeTableWord 32 0x58042400 = some (.rowWait 8 9) ∧
    decodeTableWord 32 0x58050001 = some (.rowPost 10) ∧
    decodeTableWord 32 0x58000011 = some .rowPostFrame ∧
    decodeTableWord 32 0x58050021 = some (.rowPostSet 10) ∧
    decodeTableWord 32 0x58B40002 = some (.rowRdPos 11 8) ∧
    decodeTableWord 32 0x58B60012 = some (.rowRdRec 11 12) ∧
    decodeTableWord 32 0x58B60022 = some (.rowRdStamp 11 12) ∧
    decodeTableWord 32 0x58D73C03 = some (.roiRd 13 14 15) ∧
    decodeTableWord 32 0x5884A804 = some (.alignWait 8 9 10) ∧
    decodeTableWord 32 0x58848014 = some (.alignWaitCnt 8 9) := by decide

/-- Chapter 7's table, chapter 5's fused example and words of chapters 15 to 17. -/
theorem test_decode_execute :
    decodeTableWord 32 0x9A024689 = some (.fmaF32 1 2 3 4 2 false true) ∧
    decodeTableWord 32 0x80032000 = some (.mov 1 9 0 false) ∧
    decodeTableWord 32 0x9A210244 = some (.fmaF32 0x10 8 1 2 1 false false) ∧
    decodeTableWord 32 0x96262560 = some (.fcmp .lt 3 1 2 .f32 0 false false) ∧
    decodeTableWord 32 0xCE0AD681 = some (.cvtsRtz 5 6 .f32 .s8 0 false) ∧
    decodeTableWord 32 0xD4042D00 = some (.qpack 2 1 3 1 false 0 false) ∧
    decodeTableWord 32 0xD6064D00 = some (.qunpack 3 2 3 1 .rne false 0 false) ∧
    decodeTableWord 32 0xD81200C0 = some (.kpop 9 0) ∧
    decodeTableWord 32 0xDC226160 = some (.rsum 0x11 3 .f32 0 false) ∧
    decodeTableWord 32 0xE4082420 = some (.slide 4 1 2 1 0 false false) ∧
    decodeTableWord 32 0xE60000A0 = some (.vloop .A 5) ∧
    decodeTableWord 32 0xE00A63E0 = some (.rot 5 3 31 0 false) ∧
    decodeTableWord 32 0xE2022020 = some (.shuf 1 1 .deint .z16 0 false) ∧
    decodeTableWord 32 0xB020C426 = some (.vadds 0x10 6 2 .z16 1 true false) ∧
    decodeTableWord 32 0xBE240247 = some (.vor 0x12 0 1 .z32 1 true true) ∧
    decodeTableWord 32 0x94001560 = some (.fmax 0 0 10 .f32 0 false false) := by decide

/-- Words of the extended majors, in the examples of chapters 8, 10, 12 and 13; the record sT of chapter 15 follows one of them. -/
theorem test_decode_extended :
    decodeTableWord 32 0xF084A831 = some (.mmaSp 8 9 10 3 ⟨0, 0, 0, 0⟩) ∧
    decodeTableWord 32 0xF284A850 = some (.copy 8 9 10 5 ⟨0, 0, 0, 0⟩) ∧
    decodeTableWord 32 0xF2943011 = some (.copys 9 8 12 1 ⟨0, 0, 0, 0⟩) ∧
    decodeTableWord 32 0xF684A820 = some (.sbind 8 9 10 2 ⟨0, 0, 0, 0⟩) ∧
    decodeTableWord 32 0xF884A820 = some (.tileCommit 8 9 10 2 ⟨0, 0, 0, 0⟩) ∧
    decodeTableWord 32 0xF8848031 = some (.alignSet 8 9 3 ⟨0, 0, 0, 0⟩) ∧
    decodeTableWord 160 0x08010100000000010000004000020006F8952C00 = some (.tileCommit 9 10 11 0 ⟨0x20006, 0x40, 1, 0x8010100⟩) := by decide
/-- Words of a reserved major, with a nonzero reserved field or with an unassigned function do not decode (R121). -/
theorem test_decode_refuses :
    decodeTableWord 32 0x1E000000 = none ∧ decodeTableWord 32 0xFA000000 = none ∧ decodeTableWord 32 0x5A000009 = none ∧
    decodeTableWord 32 0x5AB00014 = none ∧ decodeTableWord 32 0x52000006 = none ∧ decodeTableWord 32 0x0084280B = some (.min 8 8 10) ∧
    decodeTableWord 32 0x60D00001 = none := by decide

/-- Words with a destination that names nothing, a last use of a queue and a compare into k0 are ill formed (R114, R118, R166). -/
theorem test_decode_ill_formed :
    (decodeTableWord 32 0x9A3C0000).map Instr.wf = some false ∧ (decodeTableWord 32 0x80032002).map Instr.wf = some false ∧
    (decodeTableWord 32 0x96206560).map Instr.wf = some false := by decide

/-! ## Well-formedness: one ill-formed term for each check -/

theorem test_wf_bit_field : (Instr.bfx 1 2 63 1).wf = false ∧ (Instr.bfx 1 2 63 0).wf = true := by decide

theorem test_wf_vradd_type : (Instr.vradd 0 9 0 0 .z32).wf = false ∧ (Instr.vradd 0 9 0 0 .bf16).wf = true := by decide

theorem test_wf_amo_width : (Instr.amoZ64 1 2 3 0 .chip .fadd).wf = false ∧ (Instr.amoZ32 1 2 3 0 .chip .fadd).wf = true := by decide

theorem test_wf_mout_address : (Instr.mout 0 0 1 0).wf = false := by decide

theorem test_wf_empty_loops : (Instr.loop .A 1 0).wf = false ∧ (Instr.loopi .A 1 0).wf = false ∧ (Instr.vloop .A 0).wf = false := by decide

theorem test_wf_value_destination : (Instr.mov 9 1 0 false).wf = false ∧ (Instr.zero 22 0).wf = false ∧ (Instr.zero 21 0).wf = true := by decide

theorem test_wf_predicate_destination : (Instr.kand 8 1 2 0).wf = false ∧ (Instr.kpop 16 0).wf = false ∧ (Instr.knot 15 1 0).wf = true := by decide

theorem test_wf_source : (Instr.mov 1 15 0 false).wf = false ∧ (Instr.fmaF16 1 2 3 15 0 false false).wf = false := by decide

theorem test_wf_last_use : (Instr.mov 1 8 0 true).wf = false ∧ (Instr.mov 1 7 0 true).wf = true := by decide

theorem test_wf_lane_number : (Instr.bcast 1 2 64 0 false).wf = false ∧ (Instr.extr 2 64 false).wf = false ∧ (Instr.rot 1 2 64 0 false).wf = false := by
  decide

theorem test_wf_float_type : (Instr.fadd 1 2 3 .s32 0 false false).wf = false ∧ (Instr.rsum 1 2 .z8 0 false).wf = false := by decide

theorem test_wf_integer_type : (Instr.vadd 1 2 3 .f32 0 false false).wf = false ∧ (Instr.vabs 1 2 .z64 0 false).wf = false := by decide

theorem test_wf_lane_type : (Instr.iota 1 .q 0).wf = false ∧ (Instr.rmax 1 2 .s64 0 false).wf = false := by decide

theorem test_wf_index_type : (Instr.perm 1 2 3 .s8 0 false false).wf = false ∧ (Instr.shuf 1 2 .rev .f16 0 false).wf = false := by decide

theorem test_wf_compare_k0 : (Instr.fcmp .lt 0 1 2 .f32 0 false false).wf = false ∧ (Instr.vcmp .eq 0 1 2 .z8 0 false false).wf = false := by decide

theorem test_wf_conversion : (Instr.cvtRne 1 2 .q .f32 0 false).wf = false ∧ (Instr.cvtsRne 1 2 .f32 .bf16 0 false).wf = false ∧
    (Instr.cvtRne 1 2 .f32 .bf16 0 false).wf = true := by decide

theorem test_wf_packing : (Instr.qpack 17 1 3 0 false 0 false).wf = false ∧ (Instr.qpack 1 1 0 0 false 0 false).wf = false ∧
    (Instr.qunpack 1 9 3 1 .rne false 0 false).wf = false ∧ (Instr.qunpack 1 9 3 0 .rne false 0 false).wf = true := by decide

/-! ## Values worked in the manual -/

/-- A state whose core 0 runs a unit of KIND 0 with nothing issued; its g registers hold the given values. -/
def unit (gs : List (Fin 32 × Word)) : State :=
  (State.reset.withFetchWord 32 0).mod (fun c => gs.foldl (fun c p => c.setG p.1 p.2) c)

/-- What a register holds after an instruction. -/
def after (i : Instr) (s : State) (r : Fin 32) : Option Word :=
  match exec i s with
  | .next t => some (t.ctx.getG r)
  | _ => none

/-- R2: sums wrap. -/
theorem test_add_wraps : after (.add 3 1 2) (unit [(1, -1), (2, 2)]) 3 = some 1 := by decide

/-- R132: a write to g0 is discarded. -/
theorem test_g0_discards : after (.addi 0 1 5) (unit [(1, 7)]) 0 = some 0 := by decide

/-- The corners of R135's table: truncation toward zero, the remainder's sign, division by zero and the one overflow. -/
theorem test_div_corners :
    after (.div 3 1 2) (unit [(1, -7), (2, 2)]) 3 = some (-3) ∧ after (.rem 3 1 2) (unit [(1, -7), (2, 2)]) 3 = some (-1) ∧
    after (.div 3 1 2) (unit [(1, 5)]) 3 = some (-1) ∧ after (.rem 3 1 2) (unit [(1, 5)]) 3 = some 5 ∧
    after (.div 3 1 2) (unit [(1, BitVec.intMin 64), (2, -1)]) 3 = some (BitVec.intMin 64) ∧
    after (.rem 3 1 2) (unit [(1, BitVec.intMin 64), (2, -1)]) 3 = some 0 := by decide

/-- R138: LI g8, 0 then LIH g8, 0x3F8 leaves 0x3F8 in bits 63 to 20. -/
theorem test_lih : after (.lih 8 0x3F8) (unit []) 8 = some 0x3F800000 := by decide

/-- R137: BFX.sx of 12 bits from bit 8. -/
theorem test_bfx_sx : after (.bfxSx 5 6 11 8) (unit [(6, 0x80F00)]) 5 = some (0xFFFFFFFFFFFFF80F) := by decide

/-- R157: MKTAIL of 4 pushes the mask 0xF. -/
theorem test_mktail : (match exec (.mktail 7) (unit [(7, 4)]) with | .next t => t.ctx.cq | _ => []) = [0xF] := by decide

/-- R141: JMP outside the kernel's code is ILLEGAL: the unit, which has no handler, fails (R393). -/
theorem test_jmp_outside : (match exec (.jmp 0) (unit []) with | .next t => t.ctx.fate | _ => .ended) = .failed .illegal := by decide

/-- R29 to R31: the scale codes of R30's table. -/
theorem test_scale_codes :
    Num.scaleOf (Num.unpack Num.f32 0x3F800000) false = 0x3F8000 ∧ Num.scaleOf (Num.unpack Num.f32 0x3F800080) false = 0x3F8000 ∧
    Num.scaleOf (Num.unpack Num.f32 0x3F800180) false = 0x3F8002 ∧ Num.scaleOf (Num.unpack Num.f32 0x7F7FFFFF) false = 0x7F7FFF := by decide

/-- R26, R28: 37.3 quantises to 37 at 8 planes, and at 4 planes to a code that reads back as 40. -/
theorem test_quantise :
    Num.quantise 373 10 8 = 37 ∧ Num.nbiValue (Num.quantise 373 10 4) 4 = 40 ∧ Num.nbiValue 0x5A 4 = 88 := by decide

/-- The worked conversions of R39. -/
theorem test_conversions :
    Num.convFF Num.f32 Num.bf16 .rne false 0x3F808000 = (0x3F80, Num.Flags.inexact) ∧
    Num.convFF Num.f32 Num.bf16 .rup false 0x3F808000 = (0x3F81, Num.Flags.inexact) ∧
    Num.convFI Num.f32 .rne false (-128) 127 0xBF000000 = (0, Num.Flags.inexact) ∧
    Num.convFI Num.f32 .rtz false (-128) 127 0x4396599A = (127, Num.Flags.invalid) ∧
    Num.convFI Num.f32 .rne false (-2147483648) 2147483647 0x7FC00000 = (0, Num.Flags.invalid) ∧
    Num.convIF Num.f16 .rne false 65520 = (0x7C00, ⟨false, false, true, false, true⟩) := by decide

/-- R44's tree: 1.0 with 2^−24 in lanes 1 and 17 gives 0x3F80_0001. -/
theorem test_rsum_tree :
    (treeReduce (Num.fadd Num.f32 .rne false) 5
      ((List.range 32).map (fun l => some (if l = 0 then 0x3F800000 else if l = 1 ∨ l = 17 then 0x33800000 else 0))) .none).1 =
      some 0x3F800001 := by decide

/-- R180: RISUMS of 100, 100 and −100 in lanes 0, 16 and 8 saturates at the first level, so it gives 27. -/
theorem test_risums_tree :
    (treeReduce (fun x y => (ElemType.s8.saturate (ElemType.s8.toInt x + ElemType.s8.toInt y), .none)) 5
      ((List.range 32).map (fun l => some (if l = 0 ∨ l = 16 then 100 else if l = 8 then 156 else 0))) .none).1 = some 27 := by decide

/-- R169: VSUBS.z8 of 5 and 9 is 0, and VADD.s16 of 32,767 and 1 is 0x8000. -/
theorem test_saturation : ElemType.z8.saturate (5 - 9) = 0 ∧ ElemType.s16.narrow (32767 + 1) = 0x8000 := by decide

/-- R176's example: amax 15.875 has scale 0.125, and the lanes 15.875, −4.0 and 1.0 the codes 0x70, 0xE0 and 0. -/
theorem test_qpack :
    let s := Num.scaleValue 0x3E0000
    blockScale (Num.unpack Num.f32 0x417E0000) = 0x3E0000 ∧ (packCode (Num.unpack Num.f32 0x417E0000) s 4).1 % 256 = 0x70 ∧
    (packCode (Num.unpack Num.f32 0xC0800000) s 4).1 % 256 = 0xE0 ∧ (packCode (Num.unpack Num.f32 0x3F800000) s 4).1 % 256 = 0 := by decide

/-- R224 in the example of chapter 4: the home slices of the six placement addresses. -/
theorem test_home_slices :
    [0x40000000, 0x40000080, 0x40001000, 0x40001080, 0x40002000, 0x40002080].map sliceOf = [32, 33, 0, 1, 33, 32] := by decide

/-- R232 to R238 in the example of chapter 9, its second eight bytes built from SCALE 0x80100 << 24 (assumption 89): the entry's attributes, the element's line, home, set, planes and scale. -/
theorem test_formatted_page :
    (match leafAttr 0x2000010000 0x80030013 0x0000080100002890 16 with
    | .ok a =>
      decide (a.fmt = .q ∧ a.spl = 4 ∧ a.blk = 1 ∧ a.swz = 1 ∧ a.scale = 0x80100000 ∧ a.w = true ∧
        a.pbase + 128 * swizzle a.swz 20 = 0x80030A80 ∧ sliceOf 0x80030A80 = 12 ∧ sliceSet 0x80030A80 = 532 ∧
        putStreamByte [] a 0x2000010A5C 0x5A = [(0x80030A80 + 27, 0x10), (0x80030A80 + 59, 0x10)] ∧
        streamByte (putStreamByte [] a 0x2000010A5C 0x5A) a 0x2000010A5C = 0x50 ∧
        scaleSlot (writeLE [] 0x80100294 4 0x3E0000) a 0x2000010A5C = 0x3E0000)
    | .error _ => false) = true := by decide

/-- R246, R247: the canonical codes of the table image 0x21, 0x33. -/
theorem test_code_table :
    let lens := codeLengths [0x21, 0x33]
    lens = [1, 2, 3, 3] ∧ tableBad lens = false ∧ lens.length = 4 ∧ [0, 1, 2, 3].map (codeFor lens) = [0, 2, 6, 7] := by decide

/-- R211: the first two states from seed 1, and the first two codes. -/
theorem test_mkat_generator : (mkatStates 2 1).1 = [0x42021, 0x4080601] ∧ (mkatStates 2 1).1.map (· % 256) = [33, 1] := by decide

/-- R58's example: the placement addresses of a walk of three by two units. -/
theorem test_placement :
    let p : LaunchPacket := { kref := 0, arg := 0, deadline := 0, ctl := 0x110, ext := [3, 2, 0, 0], pbase := 0x1000000000
                              pstr := [0x1000, 0x80, 0, 0], phase := 0, npred := 0, succ := [], done := 0, graph := 0, reserved := false }
    (List.range 6).map (placementOf p) =
      [0x1000000000, 0x1000000080, 0x1000001000, 0x1000001080, 0x1000002000, 0x1000002080] ∧ p.units = 6 := by decide

/-! ## Witnesses: states and operands that meet the hypotheses of the statements -/

/-- Core 0 runs a unit whose code is these words; the control slice is in focus. -/
def running (ws : List Nat) : State := placeUnit State.reset (ws.flatMap bytesOfWord32)

/-- The same with the execute slice's half next. -/
def executing (ws : List Nat) : State := { running ws with side := .execute }

theorem witness_EncodingRoundTrip :
    (Instr.copy 8 9 10 5 ⟨1, 2, 3, 4⟩).wf = true ∧ (Instr.copy 8 9 10 5 ⟨1, 2, 3, 4⟩).hasWord = true ∧
    (Instr.bfx 31 31 63 0).wf = true ∧ (Instr.bfx 31 31 63 0).hasWord = true := by decide

theorem witness_ReservedMajors :
    (0x1C000000 / 2 ^ 25 = 0x0E ∧ 0x1C000000 < 2 ^ 32) ∧ (0xFFFFFFFF / 2 ^ 25 = 0x7F ∧ 0xFFFFFFFF < 2 ^ 32) := by decide

theorem witness_ScalarBinary : ControlReady (unit [(1, -1), (2, 64)]) [3, 1, 2] [] := by unfold ControlReady; decide

theorem witness_ScalarProductsAndQuotients :
    ControlReady (unit [(1, BitVec.intMin 64), (2, -1)]) [0, 1, 2] [] ∧
    ((unit [(1, BitVec.intMin 64), (2, -1)]).ctx.getG 1).toInt = -2 ^ 63 ∧ ((unit [(1, BitVec.intMin 64), (2, -1)]).ctx.getG 2).toInt = -1 := by
  unfold ControlReady; decide

theorem witness_ScalarCountsAndSelect :
    ControlReady (unit [(1, 1)]) [3, 1] [] ∧ ControlReady (unit [(1, 1)]) [3, 1, 0] [2] ∧
    (64 ≤ 64 ∧ ((unit [(1, 1)]).ctx.getG 0).toNat < 2 ^ (64 - 64)) ∧
    (63 ≤ 64 ∧ ((unit [(1, 1)]).ctx.getG 1).toNat < 2 ^ (64 - 63) ∧ 2 ^ (63 - 63) ≤ ((unit [(1, 1)]).ctx.getG 1).toNat) := by
  unfold ControlReady; decide

theorem witness_ScalarImmediates : ControlReady (unit []) [31, 30] [] := by unfold ControlReady; decide

theorem witness_BitFieldsAndConstants :
    ControlReady (unit []) [1, 2] [] ∧ ControlReady (unit []) [1] [] ∧ (1 : Fin 64).val + ((62 : Fin 64).val + 1) ≤ 64 ∧
    ¬(1 : Fin 64).val + ((63 : Fin 64).val + 1) ≤ 64 := by unfold ControlReady; decide

theorem witness_ComparisonsAndTargets : ControlReady (unit []) [1, 2] [3] ∧ ControlReady (unit []) [31] [] := by
  unfold ControlReady; decide

theorem witness_RegisterZero : (31 : Fin 32) ≠ 0 ∧ (0 : Fin 32) ≠ 31 := by decide

/-- A unit that has loads outstanding into these registers. -/
def owing (rs : List (Fin 32)) : State :=
  (unit []).mod (fun c => { c with accesses := rs.map (fun r => newAccess (unit []) (.load 8 false) 0x2000 0 0 ⟨0, 0, 0, 0⟩ r 0 0) })

theorem witness_ScalarWaits :
    canIssue (owing [31]) .control = true ∧ runAhead (owing [31]).ctx = false ∧ (owing [31]).ctx.pendingG 31 = true ∧
    ControlReady (owing [31]) [1, 2] [] ∧ (31 : Fin 32) ≠ 0 := by unfold ControlReady; decide

/-- Six control words, with b0 and g2 at the last of them and 127 entries in bq. -/
def branching : State :=
  (running [0, 0, 0, 0, 0, 0]).mod (fun c => { ((c.setB 0 0x1054).setG 2 0x1054) with bq := List.replicate 127 ⟨0x1040, false, 0, false⟩ })

set_option maxRecDepth 4000 in
theorem witness_TransfersInControl :
    branching.side = .control ∧ ControlReady branching [2] [1] ∧ ControlReady branching [] [1] ∧ branching.ctx.prediction = none ∧
    branching.ctx.unresolved = none ∧ badTransfer branching .control = false ∧ SlotsStay branching ∧ branching.ctx.bq.length < 128 ∧
    afterSlots branching branching.ctx.pcc.toNat < 2 ^ 64 ∧
    outsideCode branching.ctx (branching.ctx.getB 0).toNat = false ∧ (branching.ctx.getB 0).toNat % 4 = 0 ∧
    outsideCode branching.ctx (branching.ctx.getG 2).toNat = false ∧ (branching.ctx.getG 2).toNat % 4 = 0 := by
  unfold ControlReady SlotsStay; decide

/-- A transfer at the end of a body of one word, which the execute slice's loops or the control slice's have active. -/
def atBodyEnd (side : Slice) : State := (running [0, 0, 0, 0]).mod (Context.setLevel side .A ⟨2, 0x1040, 0x1040, 0x1040, 0x1040, true⟩)

theorem witness_TransferTargets :
    (let s := (unit []).mod (fun c => (c.setB 0 0x1058).setG 2 0x1042)
     s.side = .control ∧ ControlReady s [2] [] ∧ badTransfer s .control = false ∧ SlotsStay s ∧ outsideCode s.ctx (s.ctx.getB 0).toNat = true ∧
     outsideCode s.ctx (s.ctx.getG 2).toNat = false ∧ (s.ctx.getG 2).toNat % 4 ≠ 0) ∧
    ((atBodyEnd .control).side = .control ∧ badTransfer (atBodyEnd .control) .control = true) ∧
    ((atBodyEnd .execute).side = .control ∧ ControlReady (atBodyEnd .execute) [] [] ∧ meetsExecute (atBodyEnd .execute) = true ∧
     slicesMeet (atBodyEnd .execute).ctx = true ∧ slotsLeaveBody (atBodyEnd .execute) .execute = true) := by
  unfold ControlReady SlotsStay; decide

set_option maxRecDepth 4000 in
theorem witness_BranchPredicts :
    let s := branching.mod (fun c => { c with votes := [1] })
    s.side = .control ∧ ControlReady s [] [] ∧ s.ctx.pendingC 1 = true ∧ s.ctx.prediction = none ∧ s.ctx.unresolved = none ∧
    badTransfer s .control = false ∧ SlotsStay s ∧ s.ctx.bq.length < 128 ∧ afterSlots s s.ctx.pcc.toNat < 2 ^ 64 ∧ (s.ctx.getB 0).toNat % 4 = 0 ∧
    outsideCode s.ctx (s.ctx.getB 0).toNat = false := by unfold ControlReady SlotsStay; decide

/-- A transfer with a slot of the execute slice's stream to come, one with none, and one whose slots leave a body. -/
theorem witness_TransfersInExecute :
    (let s (w : Nat) := (executing [0x66000000, w, w, 0x80032000]).mod (fun c => { c with bq := [⟨0x1040, true, 0x1040, false⟩] })
     (s 0).side = .execute ∧ canIssue (s 0) .execute = true ∧ inSlot (s 0).ctx .execute = false ∧ slotsLeaveBody (s 0) .execute = false ∧
     (s 0).ctx.pcx = 0x1040 ∧ (0x1044 : Word) ≠ (s 0).ctx.pcx ∧ afterSlots (s 0) (s 0).ctx.pcx.toNat < 2 ^ 64 ∧
     afterSlots (s 0) (s 0).ctx.pcx.toNat ≤ nextOf (s 0) .execute ((s 0).ctx.pcx.toNat + 4) ∧
     nextOf (s 0x80032000) .execute ((s 0x80032000).ctx.pcx.toNat + 4) < afterSlots (s 0x80032000) (s 0x80032000).ctx.pcx.toNat) ∧
    (let s := { (atBodyEnd .execute).mod (fun c => { c with bq := [⟨0x1040, true, 0x1040, false⟩] }) with side := .execute }
     canIssue s .execute = true ∧ inSlot s.ctx .execute = false ∧ s.ctx.pcx = 0x1040 ∧ slotsLeaveBody s .execute = true) := by decide

theorem witness_LoopsStart :
    (let s := running [0, 0, 0]
     ControlReady s [1] [] ∧ inSlot s.ctx .control = false ∧ s.ctx.pcc.toNat + 4 * 1 < 2 ^ 64 ∧
     nextOf s .control (s.ctx.pcc.toNat + 4) ≤ s.ctx.pcc.toNat + 4 * 1) ∧
    (let s := (executing [0xE6000020, 0x80032000, 0x80032000]).mod (fun c => { c with cq := [7] })
     canIssue s .execute = true ∧ inSlot s.ctx .execute = false ∧ waitsForControl s isOrderedSysWord = false ∧
     s.ctx.pcx.toNat + 4 * 1 < 2 ^ 64 ∧ nextOf s .execute (s.ctx.pcx.toNat + 4) ≤ s.ctx.pcx.toNat + 4 * 1) := by
  unfold ControlReady; decide

theorem witness_Votes :
    (let s := (unit []).mod (fun c => { c with vq := [⟨0, 5, true⟩] })
     s.side = .control ∧ ControlReady s [] [1] ∧ ControlReady s [] [] ∧ s.ctx.votes = [] ∧ (⟨0, 5, true⟩ : VqEntry).filled = true) ∧
    (let s := (unit []).mod (fun c => { c with vq := [⟨0, 5, true⟩], votes := [2] })
     ControlReady s [] [] ∧ s.ctx.votes ≠ [] ∧ s.ctx.endedX = false) ∧
    (let s := (unit []).mod (fun c => { c with vq := [⟨0, 5, true⟩], votes := [2], endedX := true })
     ControlReady s [] [] ∧ s.ctx.endedX = true ∧ s.ctx.vq.length ≤ s.ctx.votes.length) ∧
    (let s := (executing [0x68100002]).mod (fun c => { c with vq := List.replicate 15 ⟨0, 5, false⟩ })
     s.side = .execute ∧ canIssue s .execute = true ∧ waitsForControl s isOrderedSysWord = false ∧ s.ctx.vq.length < 16) := by
  unfold ControlReady; dsimp only; and_intros <;> decide

theorem witness_Pushes :
    let s (n m : Nat) := (unit [(1, 64)]).mod (fun c => { c with cq := List.replicate n 0, dq := List.replicate m 0 })
    ControlReady (s 31 63) [1] [] ∧ (s 31 63).ctx.cq.length < 32 ∧ (s 31 63).ctx.dq.length < 64 ∧ ControlReady (s 32 64) [1] [] ∧
    (s 32 64).ctx.cq.length = 32 ∧ (s 32 64).ctx.dq.length = 64 := by unfold ControlReady; decide

theorem witness_EndStops :
    (let s := (running [0x76000000]).mod (fun c => { c with info := { c.info with header := { c.info.header with nm := true } } })
     s.side = .control ∧ ControlReady s [] [] ∧ inSlot s.ctx .control = false ∧ s.ctx.info.header.nm = true ∧ leaseHead s.ctx = none) ∧
    (let s := { running [0x76000000] with self := 128 }
     s.side = .control ∧ ControlReady s [] [] ∧ inSlot s.ctx .control = false ∧ 128 ≤ s.self) ∧
    (let s := executing [0x76000000]
     s.side = .execute ∧ canIssue s .execute = true ∧ inSlot s.ctx .execute = false ∧ waitsForControl s isOrderedSysWord = false) := by
  unfold ControlReady; dsimp only; and_intros <;> decide

theorem witness_EndStops_both_slices :
    (let s := (running [0x76000000]).mod (fun c => { c with endedX := true })
     s.side = .control ∧ ControlReady s [] [] ∧ inSlot s.ctx .control = false ∧ s.ctx.endedX = true) ∧
    (let s := (executing [0x76000000]).mod (fun c => { c with endedC := true })
     s.side = .execute ∧ canIssue s .execute = true ∧ inSlot s.ctx .execute = false ∧ waitsForControl s isOrderedSysWord = false ∧
     s.ctx.endedC = true) := by
  unfold ControlReady; dsimp only; and_intros <;> decide


/-- Core 0 stands at a vector instruction; one row waits in each of lq, cq and dq. -/
def vector : State :=
  (executing [0x80032000]).mod (fun c => { c with lq := [⟨0, 7, true, false⟩], cq := [3], dq := [9] })

theorem witness_MovesAndPlacement :
    ExecuteReady vector (valueOp 7 [(6, true)] 7 1 false) ∧ ExecuteReady vector (valueOp 0x10 [(8, false)] 0 1 false) ∧
    (31 : Fin 256).val < vector.lanes ∧ ExecuteReady vector (valueOp 0xFF [] 1 1 false) ∧ anyOk vector.laneBits .f32 = true ∧
    ExecuteReady vector { valueOp 1 [] 0 1 false with mains := [127] } ∧
    ExecuteReady vector { valueOp 0x11 [(9, false)] 0 1 false with cls := .vqOnly } := by unfold ExecuteReady; decide

theorem witness_FloatArithmetic :
    floatOk vector.laneBits .f32 = true ∧ ElemType.f32.fmt? = some Num.f32 ∧ ExecuteReady vector (valueOp 1 [(2, true), (3, false)] 1 4 false) ∧
    ExecuteReady vector (valueOp 1 [(2, true), (2, false)] 1 1 false) := by unfold ExecuteReady; decide

/-- 1.5 and −1.5, whose sum is the zero whose sign the mode gives, and whose product is none. -/
theorem witness_FloatArithmetic_rounding :
    Num.finiteAt Num.bf16 Num.bf16.least 0x3FC0 = some (3 * 2 ^ 132) ∧ Num.finiteAt Num.bf16 Num.bf16.least 0xBFC0 = some (-(3 * 2 ^ 132)) ∧
    Num.bf16 ∈ [Num.f32, Num.bf16, Num.f16] := by decide

/-- 1.5 times 1.5 plus 1.5. -/
theorem witness_FloatFused_rounding :
    Num.finiteAt Num.bf16 Num.bf16.least 0x3FC0 = some (3 * 2 ^ 132) ∧ Num.finiteAt Num.bf16 (2 * Num.bf16.least) 0x3FC0 = some (3 * 2 ^ 265) ∧
    (3 * 2 ^ 132 * (3 * 2 ^ 132) + 3 * 2 ^ 265 : Int) ≠ 0 := by decide

theorem witness_FloatFused :
    ExecuteReady vector (valueOp 1 [(2, true), (3, false), (1, false)] 2 4 false) ∧ vector.laneBits = 32 ∧
    (let s := vector.mod (fun c => { c with w16 := true })
     ExecuteReady s (valueOp 0x10 [(8, false), (9, false), (10, false)] 0 4 false) ∧ s.laneBits ≠ 32) := by unfold ExecuteReady; decide

theorem witness_FloatUnary :
    floatOk vector.laneBits .f16 = true ∧ ElemType.f16.fmt? = some Num.f16 ∧ ExecuteReady vector (valueOp 1 [(1, true)] 0 1 false) ∧
    ExecuteReady vector (valueOp 0x80 [(8, false)] 3 8 false) := by unfold ExecuteReady; decide

theorem witness_NaNResults :
    Num.bf16 ∈ [Num.f32, Num.bf16, Num.f16] ∧ (Num.unpack Num.bf16 0x7F81).isSignalling = true ∧ (Num.unpack Num.bf16 0x7FC0).isNaN = true ∧
    (Num.unpack Num.bf16 0x7FC0).isSignalling = false ∧ (Num.unpack Num.bf16 0).isNaN = false ∧ Num.finiteAt Num.bf16 Num.bf16.least 0 = some 0 ∧
    Num.finiteAt Num.bf16 Num.bf16.least (Num.flushed Num.bf16 0x8001) = some 0 := by decide

theorem witness_VectorComparisons :
    ∀ p ∈ [(1 : Fin 8), 7], p ≠ 0 ∧
      ExecuteReady vector { valueOp (Fin.ofNat 256 (8 + p.val)) [(0, false), (1, false)] 2 1 false with cls := .predicate } ∧
      floatOk vector.laneBits .bf16 = true ∧ ElemType.bf16.fmt? = some Num.bf16 ∧ intOk vector.laneBits .s32 = true := by
  unfold ExecuteReady; decide

theorem witness_IntegerArithmetic :
    intOk vector.laneBits .z8 = true ∧ ExecuteReady vector (valueOp 1 [(1, true), (2, false)] 1 1 false) := by unfold ExecuteReady; decide

theorem witness_IntegerUnary :
    intOk vector.laneBits .s16 = true ∧ ExecuteReady vector (valueOp 1 [(1, true)] 1 1 false) := by unfold ExecuteReady; decide

theorem witness_Conversions :
    anyOk vector.laneBits .f32 = true ∧ anyOk vector.laneBits .s8 = true ∧ ExecuteReady vector (valueOp 5 [(6, false)] 0 3 false) ∧
    ElemType.s8.fmt? = none ∧ ElemType.f32.fmt? ≠ none ∧ ElemType.z8.fmt? = none ∧ ElemType.s8.width ≤ ElemType.z8.width := by
  unfold ExecuteReady; decide

/-- A number, an infinity and a NaN that a conversion reads. -/
theorem witness_Conversions_rounding :
    Num.finiteAt Num.f16 (min Num.f16.least Num.f32.least) 0x3E00 = some (3 * 2 ^ 148) ∧ Num.finiteAt Num.f16 Num.f16.least 0x3E00 = some (3 * 2 ^ 23) ∧
    Num.unpack Num.f16 0xFC00 = .inf true ∧ (Num.unpack Num.f16 0x7E00).isNaN = true ∧ (-128 : Int) ≤ 0 ∧ (0 : Int) ≤ 127 := by decide

theorem witness_Packing :
    packIllegal vector 3 1 false = false ∧ packIllegal vector 7 0 false = false ∧
    ExecuteReady vector { valueOp 2 [(1, false)] 0 3 false with cls := .packed, vqExtra := scaleEntries vector.lanes 1 } ∧
    ExecuteReady vector { valueOp 3 [(2, false)] 0 3 false with cls := .packed, dqPops := scaleEntries vector.lanes 1 } ∧
    ExecuteReady vector { valueOp 3 [(9, false)] 0 3 false with cls := .packed, dqPops := scaleEntries vector.lanes 0 } := by
  unfold ExecuteReady; decide

theorem witness_PredicatesAndSelection :
    ExecuteReady vector { valueOp 15 [] 1 1 false with cls := .predicate } ∧
    ExecuteReady vector { valueOp 9 [] 1 1 false with cls := .predicate, cqPops := 1 } ∧
    ExecuteReady vector { valueOp 1 [(2, true), (8, false)] 1 1 false with whole := true } := by unfold ExecuteReady; decide

theorem witness_Reductions :
    ExecuteReady vector { valueOp 0x11 [(3, false)] 0 6 false with whole := true } ∧ floatOk vector.laneBits .f32 = true ∧
    ElemType.f32.fmt? = some Num.f32 ∧ intOk vector.laneBits .z32 = true := by unfold ExecuteReady; decide

theorem witness_Permutes :
    ExecuteReady vector (valueOp 4 [(1, false), (2, false)] 0 2 false) ∧ ExecuteReady vector (valueOp 5 [(3, false)] 0 2 false) ∧
    plainOk vector.laneBits .z32 = true ∧ (31 : Fin 256).val < vector.lanes := by unfold ExecuteReady; decide


/-! ### Memory -/

theorem witness_ScalarAccesses :
    let s := (owing (List.replicate 31 9)).mod (Context.setG 4 0x1FF8)
    let a := newAccess s (.load 8 false) 0x2000 0 0 ⟨0, 0, 0, 0⟩ 3 2 1
    BitVec.ofInt 64 ((s.ctx.getG 4).toInt + (1 : BitVec 8).toInt * 8) = 0x2000 ∧ AccessReady s [3, 4] 0 a ∧ outstanding s.ctx = 31 ∧
    0x2000 % 8 = 0 ∧ ControlReady s [3, 4] [] ∧ 0x1FF9 % 2 ≠ 0 := by
  unfold AccessReady ControlReady; dsimp only; and_intros <;> decide

theorem witness_VectorAccesses :
    let s := (unit [(5, 0x2000)]).mod (fun c => { c with lq := List.replicate 14 ⟨0, 0, true, false⟩ })
    let r : ShapeRec := ⟨0x80002, 0x80, 0xB, 1⟩
    let a (k : AccKind) := { newAccess s k 0x2000 (laneMask s 0) 0 r 0 1 0 with allLanes := true }
    AccessReady s [0, 5] 1 (a .vload) ∧ AccessReady s [0, 5] 0 (a .vstore) ∧ AccessReady s [0, 5] 1 (a .gather) ∧
    AccessReady s [0, 5] 0 (a .scatter) ∧ AccessReady s [0, 5] 0 (a (.radd .f32)) ∧ s.laneBits = 32 ∧ 0x2000 % 16 = 0 ∧
    substRecord s.ctx r = some r ∧ recordOk r = true ∧ r.stride % r.etype.bytes = 0 ∧ r.blk = 0 ∧ r.aux < 2 ^ 7 ∧
    r.etype.width ≤ s.laneBits ∧ r.rows * ((r.cols + s.lanes - 1) / s.lanes) = 4 := by
  unfold AccessReady ControlReady; dsimp only; and_intros <;> decide

/-- A unit that holds 0x2000 as a page of f32, in lanes of 16 bits or of 32. -/
def paged (w16 : Bool) : State :=
  let s := unit [(5, 0x2000)]
  { s.mod (fun c => { c with w16 := w16 }) with tlb := s.tlb.map (fun t => { t with attr := { t.attr with fmt := .f32 } }) }

/-- The traps: misaligned addresses and strides, a page of the wrong format, and records beyond their limits. -/
theorem witness_VectorAccesses_traps :
    (let s := paged true
     let a (k : AccKind) := { newAccess s k 0x2000 (laneMask s 0) 0 ⟨0x80002, 0x80, 0xB, 1⟩ 0 1 0 with allLanes := true }
     ControlReady s [0, 5] [] ∧ ((held s s.ctx.info.asid 0x2000).map PageAttr.fmt) = some .f32 ∧ s.laneBits = 16 ∧ 0x2000 % 16 = 0 ∧
     shapeAtIssue s (a .vload) = true ∧ shapeAtIssue s (a .vstore) = true ∧
     ¬(if s.laneBits = 32 then ElemType.s32 ∈ [ElemType.s32, .f32] else ElemType.s32 ∈ [ElemType.s16, .bf16, .f16])) ∧
    (let s := unit [(5, 0x2001)]
     let big : ShapeRec := ⟨0x80002, 0x80, 0xB, 0x80⟩
     let off : ShapeRec := ⟨0x80002, 0x82, 0xB, 1⟩
     ControlReady s [0, 5] [] ∧ 0x2001 % 4 ≠ 0 ∧ substRecord s.ctx big = some big ∧ big.stride % big.etype.bytes = 0 ∧ ¬big.aux < 2 ^ 7 ∧
     ControlReady s (5 :: recordRegs big) [] ∧ substRecord s.ctx off = some off ∧ off.stride % off.etype.bytes ≠ 0) := by
  unfold ControlReady; dsimp only; and_intros <;> decide +kernel

theorem witness_AtomicAndCacheAccesses :
    let s := unit [(5, 0x2000), (6, 0x2004)]
    let a (k : AccKind) := newAccess s k 0x2000 1 0 ⟨0, 0, 0, 0⟩ 4 1 0
    AccessReady s [4, 5, 7] 0 (a (.amo 8 .add)) ∧ AccessReady s [4, 5, 7] 0 (a (.cas 4)) ∧ AccessReady s [5, 7] 0 (a (.cacheOp 2)) ∧
    AccessReady s [4, 5, 7] 0 (a .roi) ∧ 0x2000 % 8 = 0 ∧ 0x2000 % 128 = 0 ∧ ControlReady s [4, 6, 7] [] ∧ 0x2004 % 8 ≠ 0 ∧
    ControlReady s [] [] := by unfold AccessReady ControlReady; dsimp only; and_intros <;> decide

theorem witness_MemoryReadsBack :
    Memory.wf [(0x20, 1), (0x21, 255)] = true ∧ (0x1F < 0x20 ∨ 0x20 + 8 ≤ 0x1F) ∧ (0x28 < 0x20 ∨ 0x20 + 8 ≤ 0x28) ∧ 7 < 8 := by decide

theorem witness_ElementsPerform :
    let s := unit []
    let e : Elem := ⟨0, 0, 0x1FFFF8, 8, identityPage⟩
    let a (k : AccKind) := newAccess s k 0x1FFFF8 1 2 ⟨0, 0, 0, 0⟩ 4 0 0
    s.mem.wf = true ∧ e.attr.fmt = .raw ∧ placeOf s e.attr e.va = .dram 0x1FFFF8 ∧ e.va % 2 ^ e.attr.sizeLog + e.n ≤ 2 ^ e.attr.sizeLog ∧
    (a (.cas 8)).kind = .cas 8 ∧ e.n = 8 ∧ (a (.amo 8 .min)).kind = .amo 8 .min := by
  refine ⟨by decide, rfl, by decide, by decide, rfl, rfl, rfl⟩

/-- The one access of a unit, sent, with every part returned and this data. -/
def returned (k : AccKind) (data : List Nat) : State :=
  (unit []).mod (fun c => { c with
    accesses := [{ newAccess (unit []) k 0x2000 0 0 ⟨0, 0, 0, 0⟩ 4 0 0 with stage := .planned, data := data, parts := [⟨64, [], .returned, 0, false, none⟩] }] })

theorem witness_AccessesComplete :
    ∀ k ∈ [AccKind.load 1 true, .amo 8 .add, .cas 4, .vload, .store 8], ∀ a ∈ (returned k [0x80]).ctx.accesses,
      (∀ b ∈ (returned k [0x80]).ctx.accesses, b.id = a.id → b = a) ∧ a.stage = .planned ∧ a.kind.isCache = false ∧
      (∀ q ∈ a.parts, q.stage = .returned) ∧ outlived (returned k [0x80]) = false ∧
      (((returned k [0x80]).ctx.accesses.filter (fun b => b.kind.isLoad))[0]? = some a ∨
        ((returned k [0x80]).ctx.accesses.filter (fun b => b.kind.isStore))[0]? = some a) := by decide

theorem witness_PinsComplete :
    ControlReady (unit [(5, 0x2000), (6, 4)]) [5, 6] [] ∧ (unit [(5, 0x2000), (6, 4)]).mem.wf = true ∧ countsHere (unit [(5, 0x2000), (6, 4)]) = true ∧
    bitOf ((unit [(5, 0x2000), (6, 4)]).ctx.slacktab[2]).toNat 0 = false := by unfold ControlReady; decide

/-- One line of a page that is held, in an empty part. -/
def pinning : State := unit [(5, 0x2000), (6, 1)]

theorem witness_PinsComplete_lines :
    ControlReady pinning [5, 6] [] ∧ pinning.slices = [] ∧ (held pinning pinning.ctx.info.asid 0x2000).isSome = true ∧
    plainLine pinning 0x2000 = some 64 ∧ min (pinning.ctx.getG 6).toNat (2 ^ 20) = 1 ∧ pinning.self < 128 ∧ wayOpen pinning 64 = true ∧
    stashDirty pinning 64 = 0 ∧ (pinning.coreState pinning.self).stash.length < 8 ∧ countsHere pinning = true ∧
    bitOf (pinning.ctx.slacktab[2]).toNat 0 = false ∧ slackEntry pinning.ctx 0 = 0 ∧ slackEntry (pinning.mod (writeSlacktab 0 4095)).ctx 0 = 4095 := by
  unfold ControlReady; and_intros <;> decide +kernel


/-! ### Synchronisation, engines, streams and rows -/

/-- The same unit under a header with 1 flag, 1 barrier slot and futures. -/
def headed (gs : List (Fin 32 × Word)) : State :=
  (unit gs).mod (fun c => { c with info := { c.info with header := { c.info.header with nflag := 1, nbar := 1, fut := true } } })

theorem witness_FlagsAndWaits :
    ControlReady (headed [(1, 1)]) [2, 1] [] ∧ (0 : Fin 64).val < (headed [(1, 1)]).ctx.info.header.nflag ∧
    (headed [(1, 1)]).ctx.info.header.nflag ≤ (1 : Fin 64).val ∧ ((headed [(1, 1)]).ctx.f[(0 : Fin 64)]).toNat < 1 ∧
    min ((headed [(1, 1)]).ctx.getG 0).toNat (2 ^ 32 - 1) ≤ ((headed [(1, 1)]).ctx.f[(0 : Fin 64)]).toNat := by
  unfold ControlReady; and_intros <;> first | decide | rfl

/-- A launch slot that holds nothing but its number. -/
def slotted (pending : Nat) : LaunchSlot :=
  { slot := 0, ring := 0, index := 0, asid := 0, pkt := packetOf [], header := .zero, trailer := .zero, pending := pending, count := 1, nbad := 0
    failed := false, cancelled := false, late := false, early := false, walked := 0, total := 1, admitted := 0, preds := [], stopped := false, skips := []
    dropped := false, copied := [], code := [] }

theorem witness_FencesAndBarriers :
    (let s := { headed [(1, 1)] with slots := [slotted 0] }
     ControlReady s [1] [] ∧ s.ctx.fence = none ∧ ¬((Scope.chip = .chip ∨ Scope.chip = .pair) ∧ (0 : BitVec 16) ≠ 0) ∧
     ((Scope.pair = .chip ∨ Scope.pair = .pair) ∧ (6 : BitVec 16) ≠ 0) ∧ isGusset s.self = false ∧ (0 : Fin 8).val < s.ctx.info.header.nbar ∧
     s.ctx.info.header.nbar ≤ (1 : Fin 8).val ∧ s.slots.find? (fun l => l.slot == s.ctx.info.slot) = some (slotted 0)) ∧
    (let s := (unit []).mod (fun c => { c with fence := some ⟨6, .chip, 1, [3], [3]⟩ })
     ControlReady s [1] [] ∧ s.ctx.fence = some ⟨6, .chip, 1, [3], [3]⟩) ∧
    (let s := { unit [] with self := 128 }
     ControlReady s [1] [] ∧ isGusset s.self = true) := by unfold ControlReady; dsimp only; and_intros <;> first | decide | rfl

theorem witness_SpawnsAndFutures :
    let s := headed [(1, 0x2000), (2, 0x2020)]
    let t := { s with mem := writeLE s.mem 0x2000 8 (2 ^ 63 + 5) }
    ControlReady s [3, 1, 4] [] ∧ isGusset s.self = false ∧ (s.ctx.getG 1).toNat % 64 = 0 ∧ zeroClassHeld s 0x2000 = false ∧
    recordAtPeer s 0x2000 = false ∧ s.ctx.ready.cancel = false ∧ partRead s 0x2000 64 = .ok (List.replicate 64 0, none) ∧ taskOk (List.replicate 64 0) = true ∧ (s.ctx.getG 2).toNat % 64 ≠ 0 ∧
    s.ctx.info.header.fut = true ∧ futurePage s 0x2000 .read = .ok 0x2000 ∧ poisoned s 0x2000 8 = false ∧
    (readLE s.mem 0x2000 8).testBit 63 = false ∧ s.ctx.fse = false ∧ s.ctx.markEffect.fse = true ∧
    ControlReady t [3, 1, 4] [] ∧ futurePage t 0x2000 .read = .ok 0x2000 ∧ (readLE t.mem 0x2000 8).testBit 63 = true ∧
    (unit []).ctx.info.header.fut = false ∧ allPerformed s true = true ∧ futurePage s 0x2000 .write = .ok 0x2000 ∧ s.mem.wf = true ∧
    parkFull s = false ∧ s.queues.park.length < parkTable ∧ s.queues.parkList = [] ∧ (∀ r ∈ s.queues.park, r.future ≠ 0x2000) := by
  unfold ControlReady; dsimp only; and_intros <;> first | decide | rfl

/-- The park table full and n records in the list, whose size at reset is 64. -/
def parking (n : Nat) : State :=
  { headed [(1, 0x2000)] with queues := { State.reset.queues with park := List.replicate 1024 (freshTask UnitInfo.none), parkList := List.replicate n (0, 0) } }

theorem witness_SpawnsAndFutures_park_full :
    parkFull (parking 64) = true ∧ parkFull (parking 63) = false ∧ parkTable ≤ (parking 63).queues.park.length := by
  have size (n : Nat) : (parking n).queues.park.length = 1024 ∧ (parking n).queues.parkList.length = n ∧ (parking n).hk.parklog = 0 :=
    ⟨List.length_replicate, List.length_replicate, rfl⟩
  unfold parkFull parkTable parkSpace
  simp only [size]
  decide

theorem witness_LevelCancels :
    (headed []).self < 128 ∧ ControlReady (headed []) [1] [] ∧ ControlReady (headed []) [0] [] ∧ (1 : Fin 32) ≠ 0 ∧
    (headed []).ctx.info.header.kind = false ∧ (headed []).ctx.run ≠ .idle ∧ (headed []).ctx.run ≠ .draining ∧
    (slotted 0 ∈ ({ headed [] with slots := [slotted 0] } : State).slots ∧ (slotted 0).slot = (headed []).ctx.info.slot ∧
     (slotted 0).asid = (headed []).ctx.info.asid) := by unfold ControlReady; and_intros <;> first | decide | rfl

theorem witness_MatrixIssue :
    (let s := (unit []).mod (fun c => { c with info := { c.info with header := { c.info.header with nm := true } } })
     s.ctx.info.header.nm = true ∧ ControlReady s [] []) ∧
    (let s := headed [(8, 0x2000), (9, 0x4000), (10, 0x8000), (11, 0x100)]
     let x : ShapeRec := ⟨0x40001, 0x80, 9, 9⟩
     let q : ShapeRec := ⟨0x40001, 0x80, 0x88, 0x88⟩
     let k : ShapeRec := ⟨0x40020, 0, 9, 7⟩
     s.ctx.info.header.nm = false ∧ queueDepth s.ctx < 8 ∧ (0 : Fin 64).val < s.ctx.info.header.nflag ∧
     substRecord s.ctx x = some x ∧ recordOk x = true ∧ substRecord s.ctx q = some q ∧ recordOk q = true ∧
     substRecord s.ctx k = some k ∧ recordOk k = true ∧ ControlReady s (8 :: 9 :: 10 :: recordRegs x) [] ∧
     0x2000 % 128 = 0 ∧ 0x4000 % 128 = 0 ∧ 0x8000 % 16 = 0 ∧ x.stride % x.etype.bytes = 0 ∧ mmaShape s false x = false ∧
     mmaPages s false 0x2000 0x4000 0 x = false ∧ mmaShape s true x = false ∧ mmaPages s true 0x2000 0x4000 0x8000 x = false ∧
     mkatShape s k = false ∧
     ControlReady s [8, 11] [] ∧ 0x2000 % s.rowBytes = 0 ∧ 0x100 % 2 ^ 32 % s.rowBytes = 0 ∧ 0x100 < 2 ^ 39 ∧
     heldRowsBad s (fun p => p.fmt != .raw) 0x2000 (0x100 % 2 ^ 32) s.rowBytes (tileRegs s) = false ∧
     s.ctx.info.header.nflag ≤ (1 : Fin 64).val ∧ ControlReady s [] []) := by
  unfold ControlReady; dsimp only; and_intros <;> first | decide | rfl

/-- A stream from core 0's result queue to an input port of Gusset 0's first context, with nothing in it. -/
def resultToGusset : Stream :=
  { entry := 0, gen := 1, asid := 0, owner := 0, prod := ⟨.resultQueue, 0, 0, 0, 0⟩, cons := ⟨.gussetIn, 0, 128, 1, 0⟩, rows := 1, cols := 32
    etype := .f32, stride := 0, cls := 0, res := 8, rofs := 0, fen := false, flag := 0, off := 1, on := 1, lane := none, slice := 0, consOn := true
    prodOn := true, signals := [], outgoing := [], reserved := [], landed := [], unsent := 0, sent := 0, taken := 0, frames := 0, fromMinimum := 0
    slots := [], swz := 0, planes := 8, fork := 0, writing := false }

theorem witness_MatrixIssue_result_queue :
    let s := { headed [] with streams := [resultToGusset] }
    ControlReady s [] [] ∧ isGusset s.self = false ∧ (resultStream s).isSome = true ∧ s.ctx.info.header.nm = false ∧ queueDepth s.ctx < 8 ∧
    (0 : Fin 64).val < s.ctx.info.header.nflag := by unfold ControlReady; dsimp only; and_intros <;> first | decide | rfl

theorem witness_CopiesIssue :
    let s := { headed [(8, 0x2000), (9, 0x4000), (10, 5), (11, 0x1000)] with link := { State.reset.link with up := true }, time := ⟨5, 0, 0, 0, 0⟩ }
    let x : ShapeRec := ⟨0x40001, 0x80, 0, 0⟩
    let d : ShapeRec := ⟨0x100001, 0, 0, 7⟩
    ControlReady s (8 :: 9 :: 10 :: recordRegs x) [] ∧ s.ctx.info.header.nflag ≤ (1 : Fin 64).val ∧ (0 : Fin 64).val < s.ctx.info.header.nflag ∧
    substRecord s.ctx x = some x ∧ recordOk x = true ∧ x.blk = 0 ∧ x.stride % x.etype.bytes = 0 ∧ x.aux / 2 ^ 24 % 8 = 0 ∧
    heldPageBad s 0x2000 x.stride x = false ∧ heldPageBad s 0x4000 x.stride x = false ∧ (5 ≤ s.ctc ∧ s.ctc < 6) ∧
    (bufferOf s (engineCluster s.self s.ctx)).length < 64 ∧ 0x1000 < 2 ^ 31 ∧
    heldRowsBad s (pageBreaks x 0x1000) 0x2000 0x1000 (x.cols * x.etype.bytes) x.rows = false ∧ x.etype = .z8 ∧ s.link.up = true ∧
    0x1000 % 64 = 0 ∧ x.rows * x.cols * x.etype.bytes ≤ 2 ^ 16 ∧
    substRecord s.ctx d = some d ∧ recordOk d = true ∧ 0x2000 % 64 = 0 ∧ d.rows = 1 ∧ d.cols = 128 ∧ d.stride = 0 ∧ d.etype = .z8 ∧
    d.aux / 2 ^ 3 % 2 ^ 21 = 0 ∧ d.aux / 2 ^ 24 % 8 = 0 ∧ heldPageBad s 0x2000 0 d = false := by
  unfold ControlReady; dsimp only; and_intros <;> first | decide | rfl

theorem witness_StreamsIssue :
    (let s := { headed [(8, 0x1000000000000000), (9, 0x2000000000000000), (10, 0x8000000000000001), (11, 0x100)] with streams := [resultToGusset] }
     let x : ShapeRec := ⟨0x40001, 0, 0xB, 0x2000⟩
     let y : ShapeRec := ⟨0x40001, 2, 0xB, 0x2000⟩
     let p : Endpoint := ⟨.resultQueue, 0, 0, 0, 0⟩
     let q : Endpoint := ⟨.gussetIn, 0, 128, 1, 0⟩
     ControlReady s [7, 9, 10] [] ∧ ControlReady s (7 :: 9 :: 10 :: recordRegs x) [] ∧ (0 : Fin 64).val < s.ctx.info.header.nflag ∧
     substRecord s.ctx y = some y ∧ y.stride % y.etype.bytes ≠ 0 ∧
     substRecord s.ctx x = some x ∧ endpointWord (s.ctx.getG 9).toNat = some p ∧ endpointWord (s.ctx.getG 10).toNat = some q ∧
     p.kind.isProducer = true ∧ q.kind.isProducer = false ∧ q.kind ≠ .rowWriter ∧
     q.va % 64 = 0 ∧ x.stride % 64 = 0 ∧ heldRowsBad s (writerLimits x.swz x.stride) 0x2000 x.stride (x.cols * x.etype.bytes) x.rows = false ∧
     bindRecordOk x (p.kind == .camera || p.kind == .ethernet) = true ∧ bindShape x p q 0 = false ∧
     handleStream s 1 = none ∧ handleStream s (s.ctx.getG 11).toNat = some resultToGusset ∧
     (isRing resultToGusset.cons && ringOwner resultToGusset.cons == s.self) = false ∧
     (isRing resultToGusset.prod && ringOwner resultToGusset.prod == s.self) = false ∧ (8 : Fin 32) ≠ 0 ∧ readsDone s = true ∧ storesDone s = true) ∧
    (let k := { Context.idle with run := .running, home := 128, info := { UnitInfo.none with header := { KernelHeader.zero with kind := true } } }
     let s := { headed [] with others := [(128, k)] }
     s.self < 128 ∧ ControlReady s [7, 8, 9] [] ∧ (s.ctx.getG 8).toNat = 0 ∧ (s.ctxAt 128).run = .running ∧
     (s.ctxAt 128).info.asid = s.ctx.info.asid ∧ (s.ctxAt 128).home = 128 ∧ (s.ctxAt 128).info.header.kind = true ∧
     (headed []).self < 128 ∧ ControlReady (headed []) [7, 8, 9] [] ∧ ((headed []).ctxAt 128).run ≠ .running) := by
  unfold ControlReady; dsimp only; and_intros <;> first | decide | rfl


/-- SDEPTH at the consumer's end and at the producer's end of a ring in core 0's window. -/
theorem witness_StreamsIssue_rings :
    let st := { resultToGusset with cons := ⟨.operandQueue, 0, 0, 0, 0⟩, landed := [1, 2] }
    let s := { headed [(11, 0x100), (9, 2)] with streams := [st] }
    ControlReady s [7, 11, 9] [] ∧ handleStream s (s.ctx.getG 11).toNat = some st ∧ (isRing st.cons && ringOwner st.cons == s.self) = true ∧
    readsDone s = true ∧ isRing ({ st with prod := ⟨.gussetOut, 0, 0, 4, 0⟩ } : Stream).prod = true ∧ storesDone s = true := by
  unfold ControlReady; dsimp only; and_intros <;> first | decide +kernel | rfl

/-- An enabled channel of camera 0 of one row of 8 bytes, whose one frame, of two rows, has one row landed and is held open. -/
def oneFrame : Channel :=
  { Channel.blank 0 with enabled := true, ctl := 1, wmax := 8, hmax := 2, rowofs := 100, rowper := 10, frames := 1, nextLine := 1
                         held := [⟨0, 0, 2, 8, 50, [(.good, 60)], 1, 1, true, 50⟩] }

/-- Gusset 0's first port takes that channel's rows, and one slot of its stream stands at its head. -/
def cameraToGusset : Stream :=
  { resultToGusset with prod := ⟨.camera, 0, 0, 0, 0⟩, cons := ⟨.gussetIn, 0, 128, 0, 0⟩, landed := [0], slots := [(0, 0, true, true, true)] }

/-- A fusion group with sets due every 100 ticks from 1000, of which none has been released. -/
def oneGroup : Group :=
  { grp := 3, asid := 0, owner := 0, t0 := 1000, period := 100, win := 10, grace := 5, sensors := [0, 1], gbase := 0, ring := 0, rsz := 0
    fen := false, flag := 0, n0 := 0, rcount := 1, late := 2, miss := 1, sets := [], history := [] }

theorem witness_RowsAndTilesIssue :
    (let s := { headed [(8, 0x3000000000000000), (9, 1), (10, 0x2000), (11, 3)] with channels := [oneFrame], groups := [oneGroup] }
     let x : ShapeRec := ⟨0x80001, 0, 0, 3⟩
     let y : ShapeRec := ⟨0x10001, 0x80, 0, 0⟩
     ControlReady s [7, 8, 9] [] ∧ stageOf s (s.ctx.getG 8).toNat = some (oneFrame.position, 0) ∧ stagePosition s 5 = none ∧
     (waitedStart s.ctx).any (· != 0) = false ∧
     (waitedStart { s.ctx with rowWait := some (s.ctx.pcc, 1) }).any (· != 0) = true ∧
     isGusset s.self = false ∧ heldGroup s (s.ctx.getG 11).toNat = some oneGroup ∧ (s.ctx.getG 0).toNat < oneGroup.rcount ∧
     ¬(s.ctx.getG 9).toNat < oneGroup.rcount ∧ heldGroup s 4 = none ∧ (0 : Fin 64).val < s.ctx.info.header.nflag ∧
     ControlReady s (7 :: 10 :: 9 :: recordRegs x) [] ∧ substRecord s.ctx x = some x ∧ recordOk x = true ∧ (s.ctx.getG 10).toNat % 64 = 0 ∧
     x.rows = 1 ∧ x.cols = 64 ∧ x.stride = 0 ∧ x.w2 = 0 ∧ x.aux < 2 ^ 6 ∧
     substRecord s.ctx y = some y ∧ recordOk y = true ∧ (s.ctx.getG 10).toNat % 128 = 0 ∧ y.stride % y.etype.bytes = 0 ∧
     commitShape s 0x2000 0x2000 0 y = false) ∧
    (let s := { headed [(8, 0), (9, 1)] with self := 128, channels := [oneFrame], streams := [cameraToGusset] }
     ControlReady s [7, 8, 9] [] ∧ isGusset s.self = true ∧ postReady s = true ∧ (s.ctx.getG 8).toNat < 4 ∧
     slotHead s (s.ctx.getG 8).toNat = some (some (0, 0), 0) ∧ chanAt s 0 = some oneFrame ∧
     (oneFrame.held.find? (fun x => x.number == 0)).bind (fun f => f.rows[0]?) = some (.good, 60)) ∧
    (let s := { headed [(8, 0)] with self := 128, streams := [{ cameraToGusset with landed := [] }] }
     isGusset s.self = true ∧ slotHead s (s.ctx.getG 8).toNat = some (none, 0)) := by
  unfold ControlReady; dsimp only; and_intros <;> first | decide | rfl

/-! ### Traps, system registers and the machine -/

/-- A unit at TRAP 5, with its handler at the start of its code and its frame at 0x4000, in the handler or not. -/
def trapping (base : Word) (inh : Bool) : State :=
  (running [0x5A000050, 0x76000000]).mod (fun c => { c with
    trapbase := base, tframe := 0x4000, pcx := 0x1044, timecmp := 9, inh := inh, ready := { c.ready with timer := true } })

/-- Where an address lies and what is held for it does not turn on memory or on a context's registers. -/
theorem reached_alike (s t : State) (a : PageAttr) (asid : BitVec 16) (va : Nat) (h : t.hk = s.hk) (i : t.self = s.self)
    (c : t.ctx.home = s.ctx.home) (b : t.tlb = s.tlb) : placeOf t a va = placeOf s a va ∧ held t asid va = held s asid va := by
  constructor
  · have r (pa : Nat) : regionOf t pa = regionOf s pa := by unfold regionOf; rw [h]
    unfold placeOf; rw [i, c]; simp only [r]
  · unfold held heldAt tlbPlaces; rw [i, c, b]

theorem resolve_of_held {s : State} {asid : BitVec 16} {va : Nat} {a : PageAttr} (h : held s asid va = some a) : resolve s asid va = .ok a := by
  unfold held at h
  unfold resolve resolveAt
  rw [h]

theorem frameAt_trapping (b : Word) (h : Bool) : FrameAt (trapping b h) 0x4000 := by
  have page : ∀ i ∈ [0, 1, 2, 3], held (running [0x5A000050, 0x76000000]) 0 (0x4000 + 4096 * i) = some identityPage ∧
      placeOf (running [0x5A000050, 0x76000000]) identityPage (0x4000 + 4096 * i) = .dram (0x4000 + 4096 * i) := by decide +kernel
  intro i l
  have p := page i (by simp only [List.mem_cons, List.not_mem_nil, or_false]; omega)
  have t : (trapping b h).ctx.tframe.toNat = 0x4000 := rfl
  have a : (trapping b h).ctx.info.asid = 0 := rfl
  rw [t, a]
  unfold trapping
  generalize running [0x5A000050, 0x76000000] = s at p ⊢
  have e := reached_alike s (s.mod (fun c => { c with
    trapbase := b, tframe := 0x4000, pcx := 0x1044, timecmp := 9, inh := h, ready := { c.ready with timer := true } })) identityPage 0
      (0x4000 + 4096 * i) rfl rfl rfl rfl
  exact ⟨identityPage, e.2.trans p.1, rfl, rfl, e.1.trans p.2⟩

/-- What TrapsEnter supposes besides the frame. -/
def trapReady (s : State) (base : Word) : Prop :=
  s.ctx.run = .running ∧ s.ctx.endedC = false ∧ quarantined s = false ∧ betterReady s = false ∧ s.ctx.accesses = [] ∧ s.ctx.latches = [] ∧
  s.ctx.prediction = none ∧ s.ctx.unresolved = none ∧ s.mem.wf = true ∧ s.ctx.trapbase = base ∧
  s.ctx.tframe ≠ 0 ∧ (∀ o ∈ s.ctx.ops, o.kind ≠ .frame)

theorem witness_TrapsEnter :
    (trapReady (trapping 0x1040 false) 0x1040 ∧ topCause (trapping 0x1040 false) = some (.timer, none) ∧ (trapping 0x1040 false).ctx.inh = false ∧
     FrameAt (trapping 0x1040 false) 0x4000) ∧
    (trapReady (trapping 0 false) 0 ∧ topCause (trapping 0 false) = some (.timer, none) ∧ FrameAt (trapping 0 false) 0x4000) ∧
    (trapReady (trapping 0x1040 true) 0x1040 ∧ (trapping 0x1040 true).ctx.inh = true ∧ FrameAt (trapping 0x1040 true) 0x4000) := by
  exact ⟨⟨by unfold trapReady; decide +kernel, by decide, by decide, frameAt_trapping _ _⟩,
    ⟨by unfold trapReady; decide +kernel, by decide, frameAt_trapping _ _⟩,
    by unfold trapReady; decide +kernel, by decide, frameAt_trapping _ _⟩

/-- The bytes of a stretch, of which the first n come first. -/
theorem readBytes_add (m : Memory) (k : Nat) : ∀ n a, readBytes m a (n + k) = readBytes m a n ++ readBytes m (a + n) k := by
  intro n
  induction n with
  | zero => intro a; simp [readBytes]
  | succ n ih =>
    intro a
    rw [show n + 1 + k = n + k + 1 by omega]
    show readByte m a :: readBytes m (a + 1) (n + k) = readByte m a :: (readBytes m (a + 1) n ++ _)
    rw [ih, show a + 1 + n = a + (n + 1) by omega]

theorem readBytes_getD (m : Memory) : ∀ n a i, i < n → (readBytes m a n).getD i 0 = readByte m (a + i) := by
  intro n
  induction n with
  | zero => intro a i h; omega
  | succ n ih =>
    intro a i h
    cases i with
    | zero => rfl
    | succ i =>
      show (readBytes m (a + 1) n).getD i 0 = _
      rw [ih (a + 1) i (by omega), show a + 1 + i = a + (i + 1) by omega]

theorem readBytes_length (m : Memory) : ∀ n a, (readBytes m a n).length = n := by
  intro n
  induction n with
  | zero => intro a; rfl
  | succ n ih => intro a; simp [readBytes, ih]

/-- In a page that maps its first two mebibytes to themselves, bytes are memory's. -/
theorem identityBytes (m : Memory) : ∀ n va, va + n ≤ 2 ^ 21 → streamBytes m identityPage va n = readBytes m va n := by
  intro n
  induction n with
  | zero => intro va _; rfl
  | succ n ih =>
    intro va h
    have x : physOf identityPage va = va := by
      show 0 + va % 2 ^ 21 = va
      omega
    show readByte m (physOf identityPage va) :: streamBytes m identityPage (va + 1) n = readByte m va :: readBytes m (va + 1) n
    rw [x, ih (va + 1) (by omega)]

theorem frameStep (s : State) (n pa : Nat) (bs : List Byte) (a : PageAttr) (h : readFrame s n = .ok bs)
    (r : resolve s s.ctx.info.asid (s.ctx.tframe.toNat + 4096 * n) = .ok a) (w : permFault a .read false = false)
    (q : placeOf s a (s.ctx.tframe.toNat + 4096 * n) = .dram pa) (c : s.poison = []) :
    readFrame s (n + 1) = .ok (bs ++ streamBytes s.mem a (s.ctx.tframe.toNat + 4096 * n) 4096) := by
  simp only [readFrame, h, partRead, r, w, q, poisonAt, c]
  rfl

/-- Cells of an address and up. -/
def raised (n : Nat) (m : Memory) : Memory := m.map (fun c => (c.1 + n, c.2))

theorem readByte_raised (n x : Nat) (m : Memory) : readByte (raised n m) (x + n) = readByte m x := by
  induction m with
  | nil => rfl
  | cons c m ih =>
    obtain ⟨a, b⟩ := c
    show (if x + n = a + n then b else if x + n < a + n then 0 else readByte (raised n m) (x + n)) = if x = a then b else if x < a then 0 else readByte m x
    rw [ih]
    by_cases e : x = a
    · simp [e]
    · by_cases l : x < a
      · simp [e, l]
      · simp [e, l]

theorem readByte_past (m : Memory) (x : Nat) : ∀ l : Memory, (∀ c ∈ l, c.1 < x) → readByte (l ++ m) x = readByte m x := by
  intro l
  induction l with
  | nil => intro _; rfl
  | cons c l ih =>
    intro h
    obtain ⟨a, b⟩ := c
    have := h (a, b) List.mem_cons_self
    show (if x = a then b else if x < a then 0 else readByte (l ++ m) x) = _
    rw [if_neg (by omega), if_neg (by omega), ih (fun c k => h c (List.mem_cons_of_mem _ k))]

/-- A handler at its ERET, whose frame at 0x4000 is this. -/
def returning (fm : Memory) : State :=
  let s := (running [0x5A000001, 0x76000000]).mod (fun c => { c with inh := true, tframe := 0x4000, pcx := 0x1044 })
  { s with mem := s.mem ++ raised 0x4000 fm }

/-- ERET reads the frame that stands there. -/
theorem reads_returning (fm : Memory) (w : fm.wf = true) (below : ∀ c ∈ fm, c.1 < 0x4000) :
    ∃ bs, readFrame (returning fm) 4 = .ok bs ∧ writeBytes [] 0 bs = fm := by
  have page : ∀ i ∈ [0, 1, 2, 3], held (running [0x5A000001, 0x76000000]) 0 (0x4000 + 4096 * i) = some identityPage ∧
      placeOf (running [0x5A000001, 0x76000000]) identityPage (0x4000 + 4096 * i) = .dram (0x4000 + 4096 * i) := by decide +kernel
  have at_ (i : Nat) (h : i < 4) : resolve (returning fm) (returning fm).ctx.info.asid ((returning fm).ctx.tframe.toNat + 4096 * i) = .ok identityPage ∧
      placeOf (returning fm) identityPage ((returning fm).ctx.tframe.toNat + 4096 * i) = .dram (0x4000 + 4096 * i) := by
    have p := page i (by simp only [List.mem_cons, List.not_mem_nil, or_false]; omega)
    have t : (returning fm).ctx.tframe.toNat = 0x4000 := rfl
    have a : (returning fm).ctx.info.asid = 0 := rfl
    rw [t, a]
    unfold returning
    generalize running [0x5A000001, 0x76000000] = s at p ⊢
    have e := reached_alike s { s.mod (fun c => { c with inh := true, tframe := 0x4000, pcx := 0x1044 }) with mem := s.mem ++ raised 0x4000 fm }
      identityPage 0 (0x4000 + 4096 * i) rfl rfl rfl rfl
    exact ⟨resolve_of_held (e.2.trans p.1), e.1.trans p.2⟩
  have step (n : Nat) (h : n < 4) (bs : List Byte) (e : readFrame (returning fm) n = .ok bs) :
      readFrame (returning fm) (n + 1) = .ok (bs ++ readBytes (returning fm).mem (0x4000 + 4096 * n) 4096) := by
    rw [frameStep _ n _ bs identityPage e (at_ n h).1 rfl (at_ n h).2 rfl]
    have t : (returning fm).ctx.tframe.toNat = 0x4000 := rfl
    have i := identityBytes (returning fm).mem 4096 (0x4000 + 4096 * n) (by omega)
    rw [t, i]
  have four (m : Memory) (a k : Nat) : readBytes m a (k + k + k + k) = [] ++ readBytes m (a + k * 0) k ++ readBytes m (a + k * 1) k ++
      readBytes m (a + k * 2) k ++ readBytes m (a + k * 3) k := by
    simp only [readBytes_add, List.nil_append, show k * 0 = 0 by omega, show k * 1 = k by omega, show k * 2 = k + k by omega,
      show k * 3 = k + k + k by omega, Nat.add_zero]
  have all : ∃ n, n = 0x4000 ∧ readFrame (returning fm) 4 = .ok (readBytes (returning fm).mem 0x4000 n) := by
    have e := step 3 (by omega) _ (step 2 (by omega) _ (step 1 (by omega) _ (step 0 (by omega) [] rfl)))
    rw [← four] at e
    exact ⟨_, by decide, e⟩
  obtain ⟨n, hn, all⟩ := all
  refine ⟨_, all, wfFrom_ext _ 0 _ (writeBytes_wf _ rfl 0) w (fun x => ?_)⟩
  by_cases l : x < 0x4000
  · have i := readByte_writeBytes_in (readBytes (returning fm).mem 0x4000 n) (m := []) rfl 0 x (by rw [readBytes_length]; omega)
    rw [Nat.zero_add] at i
    rw [i, readBytes_getD _ _ _ _ (hn ▸ l), Nat.add_comm]
    have m : (returning fm).mem = [(0x1040, 1), (0x1043, 0x5A), (0x1047, 0x76)] ++ raised 0x4000 fm := by
      show (returning []).mem ++ _ = _
      rw [show (returning []).mem = [(0x1040, 1), (0x1043, 0x5A), (0x1047, 0x76)] by decide]
    have low : ∀ c ∈ ([(0x1040, 1), (0x1043, 0x5A), (0x1047, 0x76)] : Memory), c.1 < 0x4000 := by decide
    rw [m, readByte_past _ _ _ (fun c k => by have := low c k; omega), readByte_raised]
  · rw [readByte_writeBytes_out _ rfl 0 x (by rw [readBytes_length]; omega)]
    have := readByte_past [] x fm (fun c k => by have := below c k; omega)
    rw [List.append_nil] at this
    rw [this]

/-- A frame with an LD.z8 of g4 in its slot, to be skipped. -/
def skipping : Memory := [(2, 3), (0x90, 0x10), (0x91, 0x40)]

/-- A frame of zeros, one with a skipped load, one that fails its checks, and one in a page that is not mapped. -/
theorem witness_TrapsReturn :
    (∀ fm ∈ [[], skipping, [(0x3FFF, 1)]], ControlReady (returning fm) [] [] ∧ (returning fm).ctx.latches = [] ∧ (returning fm).ctx.accesses = [] ∧
      (returning fm).ctx.inh = true ∧ atExecutePoint (returning fm) = true ∧ peerFrame (returning fm) = false ∧
      ∃ bs, readFrame (returning fm) 4 = .ok bs ∧ writeBytes [] 0 bs = fm) ∧
    (∀ fm ∈ [[], skipping], frameOk fm = true ∧ descsOk (returning fm) fm = true) ∧ frameOk [(0x3FFF, 1)] = false ∧
    (readLE skipping 0 8 / 2 ^ 16 % 2 = 1 ∧ readLE skipping 0 8 / 2 ^ 17 % 2 = 1 ∧ readLE skipping 0x90 8 % 2 ^ 8 = 0x10 ∧
     readLE skipping 0x90 8 / 2 ^ 12 % 2 ^ 5 = 4 ∧ readLE [] 0 8 / 2 ^ 16 % 2 ≠ 1 ∧ readLE [] 0x28 8 / 2 ^ 40 % 2 ^ 6 = 0) ∧
    (let s := (returning []).mod (fun c => { c with tframe := 0x40000000 })
     ControlReady s [] [] ∧ s.ctx.inh = true ∧ atExecutePoint s = true ∧ peerFrame s = false ∧
     (match readFrame s 4 with | .error (c, _) => c == .page | .ok _ => false) = true) ∧
    (ControlReady (running [0x5A000001]) [] [] ∧ (running [0x5A000001]).ctx.inh = false) := by
  have each : ∀ fm ∈ [[], skipping, [(0x3FFF, 1)]], ControlReady (returning fm) [] [] ∧ (returning fm).ctx.latches = [] ∧
      (returning fm).ctx.accesses = [] ∧ (returning fm).ctx.inh = true ∧ atExecutePoint (returning fm) = true ∧ peerFrame (returning fm) = false := by
    unfold ControlReady; decide +kernel
  refine ⟨fun fm h => ?_, by decide +kernel, by decide +kernel, by decide, by unfold ControlReady; dsimp only; and_intros <;> decide +kernel,
    by unfold ControlReady; decide⟩
  have shape : ∀ fm ∈ [[], skipping, [(0x3FFF, 1)]], Memory.wf fm = true ∧ ∀ c ∈ fm, c.1 < 0x4000 := by decide
  obtain ⟨a, b, c, d, e, f⟩ := each fm h
  exact ⟨a, b, c, d, e, f, reads_returning fm (shape fm h).1 (shape fm h).2⟩

theorem witness_SystemRegisters :
    (let s := unit [(1, 1)]
     ControlReady s [2, 1] [] ∧ sysValue s 0x3F = none ∧ (sysValue s 0x0F).isSome = true ∧ sysWritable 0x0F = false ∧ sysWritable 0x0B = true ∧
     (s.ctx.getG 1).toNat < 2 ^ 3 ∧ s.ctx.fpmode.toNat < 2 ^ 3 ∧ atExecutePoint s = false ∧ (s.ctx.getG 1).getLsbD 0 ≠ s.ctx.w16 ∧
     (s.ctx.getG 0).getLsbD 0 = s.ctx.w16) ∧
    (let s := (running [0x5A008003, 0x76000000]).mod (fun c => { c with pcx := 0x1044 })
     ControlReady s [2, 1] [] ∧ atExecutePoint s = true ∧ s.ctx.latches = [] ∧ s.ctx.ops = [] ∧ sysWritable 0 = true ∧
     sysValue s 0 = some 0) := by unfold ControlReady; dsimp only; and_intros <;> first | decide | rfl

theorem witness_SystemOperations :
    (let s := (headed [(1, 0x1040), (2, 0x5003)])
     ControlReady s [1, 2] [] ∧ writesPerformed s = true ∧ s.ctx.region.isOpen = false ∧ (s.ctx.getG 1).toNat % 4 = 0 ∧
     (s.ctx.getG 2).toNat < 2 ^ 47 ∧ s.ctx.selftest = none ∧ arrayFailed s = false ∧ underTest s (arrayResource s.self) = false) ∧
    (let s := (owing [31]).mod (fun c => { (c.setG 1 0x1042).setG 2 (BitVec.ofNat 64 (2 ^ 47)) with region := { c.region with isOpen := true } })
     ControlReady s [] [] ∧ regionJoined s = false ∧ (s.ctx.getG 1).toNat % 4 ≠ 0 ∧ (s.ctx.getG 0).toNat % 4 = 0 ∧ 2 ^ 47 ≤ (s.ctx.getG 2).toNat) ∧
    (let s := (unit []).mod (fun c => { c with accesses := [newAccess (unit []) (.store 8) 0x2000 0 0 ⟨0, 0, 0, 0⟩ 4 0 0] })
     ControlReady s [] [] ∧ writesPerformed s = false) ∧
    (let s := { headed [] with testing := [(arrayResource 0, 0)] }
     ControlReady s [] [] ∧ s.ctx.selftest = none ∧ arrayFailed s = false ∧ underTest s (arrayResource s.self) = true) ∧
    (let s := { (headed []).mod (fun c => { c with region := { c.region with isOpen := true }, selftest := some (some true) }) with
                link := { State.reset.link with up := true } }
     ControlReady s [1, 2] [] ∧ s.ctx.region.isOpen = true ∧ regionJoined s = true ∧ s.link.up = true ∧
     (0 : Fin 64).val < s.ctx.info.header.nflag ∧ s.ctx.selftest = some (some true)) ∧
    (let s := (headed []).setArray { (headed []).arrayAt 0 with failed := true }
     ControlReady s [1, 2] [] ∧ s.ctx.selftest = none ∧ arrayFailed s = true) ∧
    ((headed []).mod (fun c => { c with selftest := some none })).ctx.selftest = some none := by
  unfold ControlReady; dsimp only; and_intros <;> decide

/-- The state in which the control slice of context 0 takes a turn. -/
def atTurn (s : State) : State := { ({ s with moves := s.moves + 1, agenda := [] } : State).focus 0 with side := .control }

/-- The state in which a step fetches that unit's ADD. -/
def fetching : State := atTurn (running [0x00842800])

/-- A unit at an ADD, or at an ERET outside a handler, that is to be pre-empted. -/
def urged (w : Nat) : State := atTurn ((running [w]).mod (fun c => { c with ready := { c.ready with preempt := true } }))

/-- No cause, one that waits for no instruction, one that goes before every instruction, and one that an instruction's own goes before. -/
theorem witness_StepRunsDecoded_causes :
    causeReady fetching = false ∧
    (causeReady (urged 0x00842800) = true ∧ (trapAt (urged 0x00842800) .control).isNone = true ∧ (trapAt (urged 0x00842800) .execute).isNone = true) ∧
    urgentCause (atTurn ((running [0x00842800]).mod (fun c => { c with ready := { c.ready with ecc := some (0x2000, 0x1040) } }))) = true ∧
    ((urged 0x5A000001).ctx.run = .running ∧ topCause (urged 0x5A000001) ≠ none ∧
     (syncTrap (urged 0x5A000001)).any (fun p => match p with | .run i _ => i == .eret | _ => false) = true) := by
  and_intros <;> decide +kernel

theorem witness_StepRunsDecoded :
    (running [0x00842800]).agenda = .move (.slice .control 0) :: [] ∧ (running [0x00842800]).fatal = none ∧ canIssue fetching .control = true ∧
    runAhead fetching.ctx = false ∧ fetching.ctx.inh = false ∧ outsideCode fetching.ctx (fetching.ctx.pc .control).toNat = false ∧
    (fetching.ctx.pc .control).toNat = 0x1040 ∧ lengthAt fetching 0x1040 = 4 ∧ fetchWords fetching 1 0x1040 = .ok [0x00842800] ∧
    ownsMajor .control (0x00842800 / 2 ^ 25) = true ∧ 0x1040 + 4 ≤ fetching.ctx.codeEnd ∧ poisonedWord fetching 1 0x1040 = none ∧
    decode ([0x00842800].flatMap bytesOfWord32) = .ok (.add 8 8 10, []) := by
  have w : (held fetching fetching.ctx.info.asid 0x1040).isSome = true ∧ codeWord fetching 0x1040 = some 0x00842800 := by decide +kernel
  have f : fetchWords fetching 1 0x1040 = .ok [0x00842800] := by
    obtain ⟨p, hp⟩ := Option.isSome_iff_exists.mp w.1
    simp only [fetchWords, hp, w.2, Option.isSome_some, Bool.true_or]
  have d : decode ([0x00842800].flatMap bytesOfWord32) = .ok (.add 8 8 10, []) := by
    have k : (match decode ([0x00842800].flatMap bytesOfWord32) with | .ok p => p == (.add 8 8 10, []) | .error _ => false) = true := by
      decide +kernel
    split at k
    · rename_i p hp; rw [hp, eq_of_beq k]
    · cases k
  refine ⟨by decide +kernel, by decide +kernel, by decide +kernel, by decide +kernel, by decide +kernel, by decide +kernel, by decide +kernel,
    by decide +kernel, f, by decide +kernel, by decide +kernel, by decide +kernel, d⟩

/-- Gusset 0's first context at that ADD, and its second. -/
def twoContexts : State :=
  let s : State := { running [0x00842800] with self := 128, tlb := (running [0x00842800]).tlb.map (fun t => { t with place := 160 }) }
  { s with others := [(129, s.ctx)] }

/-- The turn goes to the first context at first, and to the second once the first has issued last. -/
theorem witness_StepRunsDecoded_turns :
    isGusset 129 = true ∧ ((twoContexts.gussetState 0).last .control + 1 + 0) % 4 = 0 ∧ canGo twoContexts .control 128 = true ∧
    canGo (twoContexts.setGusset { twoContexts.gussetState 0 with lastControl := 0 }) .control 129 = true := by
  and_intros <;> decide +kernel

theorem witness_StepRunsDecoded_event :
    let s := { running [0] with agenda := [.move (.event 0 .ctcTick)] }
    s.agenda = .move (.event 0 .ctcTick) :: [] ∧ s.fatal = none ∧ s.boot.state ≠ 2 ∧ Instr.ctcTick ≠ .debugHalt ∧ fromHost (.ctcrateWrite 0) = true ∧ ({ s with fatal := some .watchdog } : State).fatal ≠ none ∧
    (∀ n, Move.slice .control 0 ≠ .event n .powerGood) := by
  dsimp only; exact ⟨rfl, rfl, by decide, by decide, by decide, by decide, fun _ => by simp⟩

theorem witness_StepKeepsInvariant :
    (running [0x00842800]).Inv ∧ (match step (running [0x00842800]) with | .next _ => true | _ => false) = true := by
  unfold State.Inv; decide


/-! ### Events -/

/-- A unit whose load of 0x40000000 needs a walk, and a table that maps its gigabyte. -/
def walking : State :=
  let s := (unit []).mod (fun c => { c with accesses := [newAccess (unit []) (.load 8 false) 0x40000000 0 0 ⟨0, 0, 0, 0⟩ 4 0 0] })
  { s with mem := writeLE (writeLE (writeLE (writeLE s.mem 0 8 0x10000) 16 8 1) 0x10000 8 0x11001) 0x11008 8 0x13 }

/-- A request of core 0's first access, for a line of slice 0. -/
def request : Packet :=
  { id := 0, kind := .request, lead := false, urg := 0, va := 0x2000, src := 0, dst := 384, mask := 1, slack := 4, late := false, input := 1, ctx := 0, acc := 0, part := 64 }

/-- A unit whose store of line 64 has been sent. -/
def sentStore : State :=
  (unit []).mod (fun c => { c with
    accesses := [{ newAccess (unit []) (.store 8) 0x2000 0 0 ⟨0, 0, 0, 0⟩ 4 0 0 with
      stage := .planned, parts := [⟨64, [⟨0, 0, 0x2000, 8, identityPage⟩], .sent, 4, false, none⟩] }] })

theorem witness_EventsOfMemory_walk :
    (walkers walking)[0]?.any (fun w =>
      let place := (tlbPlaces walking).headD outPlace
      let u := walkLates walking place (walkSlack walking w.1 w.2) w.1.level w.2
      w.2 == 0x40000000 && (heldAt u (tlbPlaces walking) walking.ctx.info.asid w.2).isNone &&
      (match walkAt u place walking.ctx.info.asid w.2 with
        | .ok p => p.sizeLog == 30
        | .error _ => false)) = true := by decide +kernel

theorem witness_EventsOfMemory_votes :
    let s := (unit []).mod (fun c => { c with votes := [1], vq := [⟨0, 1, true⟩] })
    s.ctx.votes = [1] ∧ s.ctx.vq = [⟨0, 1, true⟩] ∧ s.ctx.prediction = none := by decide

/-- A lane of ring 0 that holds a packet for a station beyond the next one. -/
def onLane : State := (unit []).setArbiter { (unit []).arbiterOf (.lane true 0 0) with packets := [request] }

theorem witness_EventsOfMemory_arbiter :
    choosePacket (onLane.arbiterOf (.lane true 0 0)).packets (onLane.arbiterOf (.lane true 0 0)).lastZero (fifoCount (.lane true 0 0))
      (hasRoom onLane (.lane true 0 0)) = some request ∧ request.kind ≠ .marker ∧
    nextArbiter (.lane true 0 0) request = some (.lane true 1 0) := by decide +kernel

/-- The same request on the lane that ends at its station. -/
def arriving : State := (unit []).setArbiter { (unit []).arbiterOf (.lane true 2 0) with packets := [request] }

theorem witness_EventsOfMemory_arrival :
    choosePacket (arriving.arbiterOf (.lane true 2 0)).packets (arriving.arbiterOf (.lane true 2 0)).lastZero (fifoCount (.lane true 2 0))
      (hasRoom arriving (.lane true 2 0)) = some request ∧ request.kind = .request ∧ nextArbiter (.lane true 2 0) request = none ∧
    384 ≤ request.dst ∧ request.dst < 448 := by decide +kernel

/-- 64 replies of slice 0 wait behind the eight in its port's FIFO. -/
def backedUp : State :=
  let p := { request with kind := .reply, src := 384, dst := 0 }
  (unit []).setArbiter { (unit []).arbiterOf (arbiterAt (stationOf 384) 384 0 0) with packets := List.replicate 72 p }

theorem witness_EventsOfMemory_backed_up : 64 ≤ repliesWaiting backedUp 0 := by decide +kernel

theorem witness_EventsOfMemory_slices :
    (let s := sentStore.setSlice { sentStore.sliceState 0 with requests := [request] }
     choosePacket (s.sliceState 0).requests (s.sliceState 0).lastZero 48 (fun p => p.kind != .marker) = some request ∧
     repliesWaiting s 0 < 64 ∧ servedAtOnce s (s.sliceState 0) request = false) ∧
    (let s := (unit []).setSlice { (unit []).sliceState 63 with requests := [request] }
     choosePacket (s.sliceState 63).requests (s.sliceState 63).lastZero 48 (fun p => p.kind != .marker) = some request ∧
     servedAtOnce s (s.sliceState 63) request = true ∧ (s.sliceState 63).fills = []) ∧
    (let s := (unit []).setSlice { (unit []).sliceState 63 with requests := [request], fills := [{ request with id := 1 }] }
     choosePacket (s.sliceState 63).requests (s.sliceState 63).lastZero 48 (fun p => p.kind != .marker) = some request ∧
     servedAtOnce s (s.sliceState 63) request = true ∧ request.lead = false ∧ (s.sliceState 63).fills ≠ []) ∧
    (let s := (unit []).setSlice { (unit []).sliceState 5 with fills := [request] }
     (s.sliceState 5).fills = [request] ∧ repliesWaiting s 5 < 64) ∧
    (let s := (unit []).setCore { (unit []).coreState 127 with windowReqs := [request] }
     (s.coreState 127).windowReqs = [request] ∧ replyRoom s request = true) := by decide +kernel

theorem witness_EventsOfMemory_fences :
    let s := (unit []).setSlice { (unit []).sliceState 9 with requests := [{ request with kind := .marker }] }
    (s.sliceState 9).requests = [{ request with kind := .marker }] ∧ (s.sliceState 9).fills = [] ∧ (s.sliceState 9).markers = [] ∧
    repliesWaiting s 9 < 64 ∧ stationOf request.src ≠ stationOf (384 + 9) ∧ stationOf ({ request with src := 385 } : Packet).src = stationOf (384 + 9) := by decide +kernel

theorem witness_EventsOfMemory_faults :
    let s := { unit [] with laneFails := [(3, 14), (4, 15)], testing := [(.coreStore 7, 0)] }
    ((s.laneFails.find? (fun p => p.1 == 3)).map Prod.snd).getD 0 < 15 ∧ 15 ≤ ((s.laneFails.find? (fun p => p.1 == 4)).map Prod.snd).getD 0 ∧
    s.testing.find? (fun p => p.1 == .coreStore 7) = some (.coreStore 7, 0) ∧
    [((.coreStore 7 : Resource), 0), (.stashBank 7 0, 0)].any (fun q => q.1 != .coreStore 7 && sameCore (.coreStore 7) q.1) = true := by decide


/-- That unit, with tables that map the first gigabyte of its space to itself. -/
def mapped : State :=
  { unit [] with mem := writeLE (writeLE (writeLE (writeLE (unit []).mem 0 8 0x10000) 16 8 1) 0x10000 8 0x11001) 0x11000 8 0x13 }

/-- A ring of 8 slots for space 0 that admits one launch at a time. -/
def ring0 : Ring := { emptyRing 0 with base := 0x4000, ready := 0x5000, headm := 0x5040, evt := 0x6000, cfg := 0x10003, enabled := true }

/-- Job 0 in a state. -/
def job0 (state : Nat) : Job := { emptyJob 0 with state := state, slotsz := 4, spnum := 1 }

/-- One packet of one unit is published in that ring; its kernel is at 0x3000, of one word. -/
def submitted : State :=
  { mapped with
    rings := [{ ring0 with tail := 1, bounds := [1], batchEnd := 1 }]
    jobs := [job0 1]
    mem := writeLE (writeLE (writeLE (writeLE (writeLE mapped.mem 0x3004 4 1) 0x4000 8 0x3000) 0x4018 8 0x8) 0x4020 4 1) 0x5000 1 1 }

theorem witness_EventsOfScheduling_rings :
    (let s := { unit [] with rings := [{ ring0 with enabled := false, cfg := 0 }] }
     (ringAt s 0).enabled = false ∧ ringOk { ringAt s 0 with cfg := 0x10003 } = true) ∧
    (let s := { unit [] with rings := [ring0] }
     (ringAt s 0).enabled = true ∧ (8 : Word32) ≠ (ringAt s 0).tail ∧ ((8 : Word32) - (ringAt s 0).tail).toNat < 2 ^ 31 ∧
     ((8 : Word32) - (ringAt s 0).head).toNat ≤ (ringAt s 0).size ∧
     (9 : Word32) ≠ (ringAt s 0).tail ∧ ((9 : Word32) - (ringAt s 0).tail).toNat < 2 ^ 31 ∧
     ¬((9 : Word32) - (ringAt s 0).head).toNat ≤ (ringAt s 0).size) := by
  dsimp only; and_intros <;> first | decide | rfl

theorem witness_EventsOfScheduling_admission :
    let r := { ring0 with tail := 1, bounds := [1], batchEnd := 1 }
    submitted.rings = [r] ∧ r.enabled = true ∧ r.head ≠ r.tail ∧ jobState submitted r.asid = 1 ∧ r.batchEnd = r.bounds.headD r.tail ∧
    r.refusals = [] ∧ freeSlot submitted = some 0 ∧ (submitted.slots.filter (fun l => l.ring == r.ring)).length < r.maxl ∧
    (match readBatch submitted r (r.bounds.headD r.tail - r.head).toNat 0 with
      | .ok [x] => ownCodes submitted r.asid (r.batch.flatMap (fun p => p.2.2)) [x] x == [] && x.ready != 0 && !x.null && !packetCancelled submitted r.asid x.pkt && !x.pkt.lateAction &&
        (readKernel submitted r.asid x.pkt.kref.toNat).isSome
      | _ => false) = true := by
  dsimp only; and_intros <;> first | decide +kernel | rfl

/-- The same ring, with its watchdog at 5 ticks and chip time at 5. -/
def stalling : State :=
  { submitted with rings := [{ ring0 with tail := 1, bounds := [1], stallt := 5 }], time := { submitted.time with ticks := 5 } }

/-- Whether a place takes a store does not turn on the bytes. -/
theorem storeIn_isSome (s : State) (asid : BitVec 16) (va : Nat) (bs : List Byte) : (storeIn s asid va bs).isSome = (storeIn s asid va []).isSome := by
  unfold storeIn
  split
  · split
    · rfl
    · split <;> rfl
  · rfl

theorem witness_EventsOfScheduling_stall :
    let r := ringAt stalling 0
    r.enabled = true ∧ r.stall = false ∧ r.stallt ≠ 0 ∧ r.tail ≠ r.head ∧ jobState stalling r.asid = 1 ∧ r.lastMove + r.stallt.toNat ≤ stalling.ctc ∧
    (readIn stalling r.asid (r.readyVa r.head) 1).isSome = true ∧
    ∀ bs, (storeIn stalling r.asid (r.evt.toNat + 32 * (r.evcnt.toNat % 64)) bs).isSome = true := by
  refine ⟨by decide, by decide, by decide, by decide, by decide, by decide, by decide +kernel, fun bs => ?_⟩
  rw [storeIn_isSome]; decide +kernel

/-- A unit of slot 0 with that launch in the slot. -/
def launched (l : LaunchSlot) : State := { mapped with slots := [l], jobs := [job0 1] }

theorem witness_EventsOfScheduling_matches :
    (let s := { launched (slotted 0) with matches_ := [{ emptyMatch 3 with recAddr := 0x2001 }] }
     (matchAt s 3).armed = false ∧ (matchAt s 3).recAddr.toNat % 64 ≠ 0) ∧
    (let s := { launched (slotted 0) with matches_ := [{ emptyMatch 3 with recAddr := 0x2000 }] }
     (matchAt s 3).armed = false ∧ (matchAt s 3).recAddr.toNat % 64 = 0 ∧ readIn s 0 0x2000 64 = some (List.replicate 64 0) ∧
     launchOfTask s 0 (List.replicate 64 0) = some (slotted 0) ∧ taskClean (List.replicate 64 0) = true) ∧
    (let m : MatchEntry := { emptyMatch 3 with armed := true, tag := 7, len := 64, count := 32 }
     ({ unit [] with matches_ := [m] } : State).matches_.find? (fun m => m.armed && m.tag == 7 && m.asid == 0) = some m ∧
     m.count.toNat + 31 < m.len.toNat ∧ m.len.toNat ≤ m.count.toNat + 32) := by
  dsimp only; and_intros <;> first | decide +kernel | rfl

/-- A launch of one unit past its deadline, with its late action set or not. -/
def overdue (act : Bool) : LaunchSlot := { slotted 0 with pkt := { packetOf [] with ctl := if act then 1 else 0 } }

theorem witness_EventsOfScheduling_walker :
    (let s := launched (overdue false)
     slotNumbered s 0 = some (overdue false) ∧ (overdue false).late = false ∧ (overdue false).pkt.deadline.toNat ≤ s.ctc ∧ (overdue false).pkt.lateAction = false) ∧
    (let l := { overdue false with late := true }
     slotNumbered (launched l) 0 = some l ∧ (l.late = true ∨ (launched l).ctc < l.pkt.deadline.toNat)) ∧
    (let s := launched (overdue true)
     slotNumbered s 0 = some (overdue true) ∧ (overdue true).late = false ∧ (overdue true).pkt.deadline.toNat ≤ s.ctc ∧ (overdue true).pkt.lateAction = true) ∧
    (let s := launched (slotted 0)
     walkerChoice s = some (slotted 0) ∧ slotNumbered s (slotted 0).slot = some (slotted 0) ∧
     (slotted 0).skips.contains (slotted 0).walked = false ∧ s.queues.joining = [] ∧ s.queues.common.length < 64) := by
  dsimp only; and_intros <;> first | decide +kernel | rfl

/-- Unit 5 of slot 0, waiting. -/
def waiting5 (expired : Option Nat) : Entry :=
  { info := { UnitInfo.none with seq := 5, group := some 1 }, resumed := false, image := none, home := 1, order := 0, expired := expired }

/-- That unit waits in group 1's queue. -/
def queued5 (expired : Option Nat) : State :=
  let s := launched (slotted 0)
  { s with queues := { s.queues with group1 := [waiting5 expired] } }

theorem witness_EventsOfScheduling_queues :
    (queueOf (queued5 none).queues 1)[0]? = some (waiting5 none) ∧
    (waiting5 (some 7) ∈ queueOf (queued5 (some 7)).queues 1 ∧ (waiting5 (some 7)).expired = some 7 ∧ (queued5 (some 7)).queues.joining = [] ∧
     (queued5 (some 7)).queues.common.length < 64 ∧
     ∀ g' e' k', g' < 4 → e' ∈ queueOf (queued5 (some 7)).queues g' → e'.expired = some k' → (g' = 1 ∧ e' = waiting5 (some 7)) ∨ 7 < k') := by
  refine ⟨by decide, by decide, by decide, by decide, by decide, fun g e k h m _ => ?_⟩
  have q : queueOf (queued5 (some 7)).queues 0 = [] ∧ queueOf (queued5 (some 7)).queues 1 = [waiting5 (some 7)] ∧
    queueOf (queued5 (some 7)).queues 2 = [] ∧ queueOf (queued5 (some 7)).queues 3 = [] := by decide
  match g, h with
  | 0, _ => rw [q.1] at m; cases m
  | 1, _ => rw [q.2.1] at m; exact .inl ⟨rfl, List.mem_singleton.mp m⟩
  | 2, _ => rw [q.2.2.1] at m; cases m
  | 3, _ => rw [q.2.2.2] at m; cases m

theorem witness_EventsOfScheduling_dispatch :
    takes (queued5 none) 32 = some ⟨.queue 1, 2, 0, KernelHeader.zero, waiting5 none⟩ ∧
    (∀ k : Fin 32, takes (queued5 none) k.val ≠ some ⟨.queue 1, 2, 0, KernelHeader.zero, waiting5 none⟩) ∧
    (waiting5 none).image = none := by refine ⟨?_, ?_, rfl⟩ <;> decide +kernel

/-- All 128 cores run units of slot 1, which may be pre-empted and whose deadline is late; unit 5 waits. -/
def crowded : State :=
  let s := queued5 none
  let l : LaunchSlot := { slotted 0 with slot := 1, pkt := { packetOf [] with ctl := 2, deadline := 100 } }
  let c : Context := { s.ctx with info := { s.ctx.info with slot := 1 } }
  { s with ctx := c, others := (List.range 127).map (fun n => (n + 1, c)), slots := [slotted 0, l], hk := { s.hk with prethr := 5 } }

theorem witness_EventsOfScheduling_preempt :
    crowded.queues.joining = [] ∧ allWaiting crowded = [⟨.queue 1, 2, 0, KernelHeader.zero, waiting5 none⟩] ∧ (∀ c : Fin 128, coreFree crowded c.val = false) ∧
    victimFor crowded ⟨.queue 1, 2, 0, KernelHeader.zero, waiting5 none⟩ true = some 32 ∧ preempting crowded = 0 := by
  and_intros <;> decide +kernel

theorem witness_EventsOfScheduling_halt_and_save :
    (let s := (unit []).mod (fun c => { c with ready := { c.ready with preempt := true } })
     topCause s = some (.preempt, none) ∧ s.ctx.accesses = [] ∧ s.ctx.latches = [] ∧ s.ctx.prediction = none) ∧
    (let s := (unit []).mod (fun c => { c with run := .saving })
     s.ctx.run = .saving ∧ s.ctx.ready.cancel = false ∧ s.ctx.ops = [] ∧ s.self < 128) := by
  dsimp only; and_intros <;> first | decide | rfl

/-- A record of zeros in slot 0. -/
def zeroTask : TaskRec := freshTask (taskInfo 0 0 (List.replicate 64 0))

/-- An operation of a kind that has not begun. -/
def anOp (k : OpKind) : EngineOp := plainOp (unit []) k 0

/-- A unit with one operation. -/
def withOp (o : EngineOp) : State := { (unit []).mod (fun c => { c with ops := [o] }) with slots := [slotted 0] }

theorem witness_EventsOfScheduling_spawn :
    let o : EngineOp := { anOp .tspawn with task := List.replicate 64 0 }
    (withOp o).ctx.ops = [o] ∧ o.kind = .tspawn ∧ (withOp o).ctx.accesses = [] ∧ keptBefore (withOp o).ctx o = [] ∧
    (slotNumbered (withOp o) (withOp o).ctx.info.slot).all (fun l => !l.stopped) = true ∧
    (bankOf (withOp o) (bankFor (withOp o) zeroTask (clusterOf (homeOf (withOp o))))).length < 128 ∧
    ovfOf (withOp o) (bankFor (withOp o) zeroTask (clusterOf (homeOf (withOp o)))) = (0, 0) := by
  dsimp only; and_intros <;> first | decide +kernel | rfl

/-- A record of a kernel of one word at 0x3000 heads the first bank. -/
def banked : State :=
  let s := launched (slotted 0)
  { s with mem := writeLE s.mem 0x3004 4 1, queues := { s.queues with banks := [(0, [{ zeroTask with info := { zeroTask.info with kref := 0x3000 } }])] } }

theorem witness_EventsOfScheduling_refill :
    bankOf banked 0 = [{ zeroTask with info := { zeroTask.info with kref := 0x3000 } }] ∧ zeroTask.checked = none ∧ ovfOf banked 0 = (0, 0) ∧
    readKernel (noteRead banked 0 0x3000 64) 0 0x3000 = some ({ KernelHeader.zero with codelen := 1 }, Trailer.zero) ∧
    0x3000 % 64 = 0 ∧ kernelCodes (noteRead banked 0 0x3000 64) 0 0x3000 (headerCodes (noteRead banked 0 0x3000 64) 0) = [] := by
  and_intros <;> first | decide +kernel | rfl

/-- A unit whose slices have ended, on a context. -/
def endedOn (self : Nat) : State :=
  { (unit []).mod (fun c => { c with endedC := true, endedX := true }) with self := self, slots := [{ slotted 0 with count := 2 }] }

theorem witness_EventsOfScheduling_ends :
    (programDone (endedOn 0) = true ∧ (endedOn 0).ctx.fate = .ended ∧ (endedOn 0).self < 128 ∧ (endedOn 0).ctx.ops = [] ∧
     slotNumbered (endedOn 0) (endedOn 0).ctx.info.slot = some { slotted 0 with count := 2 } ∧ 1 < (2 : Nat)) ∧
    (let s := (endedOn 0).mod (fun c => { c with ops := [anOp .mma] })
     programDone s = true ∧ s.ctx.fate = .ended ∧ s.self < 128 ∧ s.ctx.ops.any coreDrains = true) ∧
    (programDone (endedOn 128) = true ∧ isGusset (endedOn 128).self = true ∧ (endedOn 128).ctx.ops = []) := by
  and_intros <;> first | decide +kernel | rfl


/-- Core 0 waits at an access whose fault its job's queue holds. -/
def offered : State :=
  let s := (unit []).mod (fun c => { c with
    accesses := [{ newAccess (unit []) (.load 8 false) 0x40000000 0 0 ⟨0, 0, 0, 0⟩ 4 0 0 with stage := .offered .page 0x40000000 9 }] })
  { s with jobs := [{ job0 1 with offers := [⟨9, 0, false, 0⟩] }] }

theorem witness_EventsOfJobsAndTraps_jobs :
    (∀ n : Fin 5, n ≠ 0 → let s := { unit [] with jobs := [job0 n.val] }
      s.jobOf 0 = some (job0 n.val) ∧ (job0 n.val).state = n.val ∧ (∀ l ∈ s.slots, l.asid ≠ 0) ∧ hasGussets s 0 = false) ∧
    (∃ a, offered.jobOf 0 = some { job0 1 with offers := [⟨9, 0, false, 0⟩] } ∧ (9 : Nat) = (9 : Word32).toNat ∧ (0 : Nat) = offered.self ∧
      offered.ctx.run = .running ∧ offered.ctx.accesses = [a] ∧ a.id = 0 ∧ a.stage = .offered .page 0x40000000 9) := by
  refine ⟨by decide, _, rfl, rfl, rfl, rfl, rfl, rfl, rfl⟩

theorem witness_EventsOfJobsAndTraps_stops :
    (let s := { (unit []).mod (fun c => { c with timecmp := 5 }) with time := ⟨5, 0, 0, 0, 0⟩ }
     s.ctx.timecmp ≠ 0 ∧ s.ctx.timecmp.toNat ≤ s.ctc) ∧
    (let s := (unit []).mod (fun c => { c with region := { c.region with isOpen := true }, ready := { c.ready with ecc := some (0x2000, 0x1040) } })
     s.ctx.run = .running ∧ s.ctx.region.isOpen = true ∧ s.ctx.ready.ecc = some (0x2000, 0x1040)) ∧
    (let s := (unit []).mod (fun c => { c with ready := { c.ready with ecc := some (0x2000, 0x1040) } })
     s.ctx.run = .running ∧ s.ctx.region.isOpen = false ∧ s.ctx.ready.ecc ≠ none) ∧
    (let s := (unit []).setCore { (unit []).coreState 0 with withdrawn := true }
     s.ctx.run = .running ∧ withdrawn s = true) ∧
    (let s := ((unit []).mod (fun c => { c with run := .debugHalted })).setCore { (unit []).coreState 0 with withdrawn := true }
     s.ctx.run = .debugHalted ∧ withdrawn s = true) ∧
    mayHalt ((unit []).mod (fun c => { c with ready := { c.ready with cancel := true } })) = true ∧
    topCause ((unit []).mod (fun c => { c with ready := { c.ready with cancel := true } })) = some (.cancel, none) ∧
    (let s := (unit []).mod (fun c => { c with run := .debugHalted, ready := { c.ready with cancel := true } })
     s.ctx.run = .debugHalted ∧ s.ctx.ready.cancel = true) ∧
    (let s := { unit [] with boot := { State.reset.boot with state := 2 } }
     debugServes s = true ∧ s.ctx.run = .running ∧ mayHalt (s.mod (fun c => { c with ready := { c.ready with halt := true } })) = true ∧ topCause (s.mod (fun c => { c with ready := { c.ready with halt := true } })) = some (.halt, none)) ∧
    (let s := { (unit []).mod (fun c => { c with run := .debugHalted }) with boot := { State.reset.boot with state := 2 } }
     debugServes s = true ∧ s.ctx.run = .debugHalted) := by
  dsimp only; and_intros <;> first | decide | rfl

/-- A unit at a SYS.WR, with the execute slice past it. -/
def writing (w : Nat) : State := (running [w, 0x76000000]).mod (fun c => { c with pcx := 0x1044 })

/-- The registers named in the last clause, at the ends of each range. -/
theorem witness_EventsOfJobsAndTraps_registers (q : Fin 64) (h : q ∈ [0, 1, 3, 5, 0x0B, 0x18, 0x1D, 0x20, 0x25]) :
    let w := 0x5A008003 + 16 * q.val
    codeWord (writing w) (writing w).ctx.pcc.toNat = some w ∧ decode (bytesOfWord32 w) = .ok (.sysWr 1 q, []) ∧ sysWritable q.val = true ∧
    ControlReady (writing w) [1] [] ∧ atExecutePoint (writing w) = true ∧ (writing w).ctx.latches = [] ∧ (writing w).ctx.ops = [] := by
  unfold ControlReady
  have d : (match decode (bytesOfWord32 (0x5A008003 + 16 * q.val)) with | .ok p => p == (.sysWr 1 q, []) | .error _ => false) = true := by
    revert q; decide +kernel
  refine ⟨by revert q; decide +kernel, ?_, by revert q; decide, by revert q; decide +kernel, by revert q; decide +kernel, rfl, rfl⟩
  split at d
  · rename_i p hp; rw [hp, eq_of_beq d]
  · cases d

/-- A unit with one started operation of a kind over one element of 8 bits. -/
def started (k : OpKind) (progress : Nat) : EngineOp :=
  { anOp k with stage := .started, shape := ⟨0x2001, 0, 0, 7⟩, a := 0x2000, b := 0x4000, progress := progress }

/-- The arrays' first: core 0 holds its term, core 1 waits. -/
def termed : State :=
  (unit []).setArray { (unit []).arrayAt 0 with term := some ⟨0, false, 0, 0⟩, reqs := [⟨1, 0, 1, false, false⟩] }

theorem witness_EventsOfEngines_terms :
    (let s := (unit []).setArray { (unit []).arrayAt 0 with reqs := [⟨1, 0, 5, false, false⟩, ⟨2, 0, 5, false, false⟩] }
     (s.arrayAt 0).term = none ∧ (s.arrayAt 0).testing = false ∧
     (∀ p ∈ allContexts s, 640 ≤ p.1 → p.2.home / 4 = 0 → p.2.ops.any startedLease = false) ∧ (⟨1, 0, 5, false, false⟩ : LeaseReq) ∈ (s.arrayAt 0).reqs ∧
     ∀ x ∈ (s.arrayAt 0).reqs, x = ⟨1, 0, 5, false, false⟩ ∨ 5 < x.slack ∨
       (5 = x.slack ∧ (1 + 3 - (s.arrayAt 0).lastHolder) % 4 < (x.core + 3 - (s.arrayAt 0).lastHolder) % 4)) ∧
    ((termed.arrayAt 0).reqs.find? (fun x => x.core == 1) = some ⟨1, 0, 1, false, false⟩ ∧ 1 ≤ (1 : Nat)) ∧
    ((termed.arrayAt 0).term = some ⟨0, false, 0, 0⟩ ∧ (0 : Nat) < 4 ∧ (termed.arrayAt 0).testing = false ∧
     (∀ o ∈ (termed.ctxAt 0).ops, o.kind.isLease = false) ∧ ∃ q ∈ (termed.arrayAt 0).reqs, q.core ≠ 0) := by
  and_intros <;> first | decide | rfl

/-- The same operation with both operands in the window of its core. -/
def inWindow : EngineOp := { started .mma 0 with a := 0xFFFFFF8000000000, b := 0xFFFFFF8000000000 }

/-- A unit with a window of 16 KiB and one operation. -/
def windowed (o : EngineOp) : State :=
  (withOp o).mod (fun c => { c with info := { c.info with header := { c.info.header with win := 1 } } })

/-- A first turn of a pass: what it has read then, where its lines are near and where they are far. -/
theorem witness_EventsOfEngines_pass :
    (startLease (withOp (started .mma 0)) = some (withOp (started .mma 0), started .mma 0) ∧ (started .mma 0).progress < passes (started .mma 0) ∧
     ((withOp (started .mma 0)).arrayAt (arrayIndex (homeOf (withOp (started .mma 0))))).failed = false ∧
     (match seekPass (withOp (started .mma 0)) (started .mma 0) with
      | .ok v => (match readPass v (opNow v (started .mma 0)) with | .ok none => true | _ => false)
      | .error _ => false) = true) ∧
    (startLease (windowed inWindow) = some (windowed inWindow, inWindow) ∧ inWindow.progress < passes inWindow ∧
     ((windowed inWindow).arrayAt (arrayIndex (homeOf (windowed inWindow)))).failed = false ∧
     (match seekPass (windowed inWindow) inWindow with
      | .ok v => (match readPass v (opNow v inWindow) with | .ok (some _) => !(opNow v inWindow).isFailing | _ => false)
      | .error _ => false) = true) := by
  and_intros <;> decide +kernel

theorem witness_EventsOfEngines_commands :
    (let s := withOp (started .mma 1)
     (s.arrayAt (arrayIndex (homeOf s))).failed = false ∧ startLease s = some (s, started .mma 1) ∧ passes (started .mma 1) ≤ (started .mma 1).progress) ∧
    (let s := withOp (started .mkat 0)
     (s.arrayAt (arrayIndex (homeOf s))).failed = false ∧ startLease s = some (s, started .mkat 0) ∧ (started .mkat 0).isFailing = false ∧ s.self < 640) ∧
    (let s := (withOp (started .mma 0)).setArray { (withOp (started .mma 0)).arrayAt 0 with failed := true }
     (s.arrayAt (arrayIndex (homeOf s))).failed = true ∧ leaseHead s.ctx = some (started .mma 0) ∧ (started .mma 0).kind.isLease = true) := by
  dsimp only; and_intros <;> first | decide +kernel | rfl

/-- The same unit with its execute slice at END. -/
def endedWith (o : EngineOp) : State := (withOp o).mod (fun c => { c with endedX := true })

/-- A write of n bytes at 0x2000 that stands at a stage. -/
def aWrite (stage : PartStage) (n : Nat) : LineWrite :=
  { va := 0x2000, attr := identityPage, place := .dram 0x2000, bytes := List.replicate n 0, stage := stage, cause := none, slack := 5, late := false }

/-- A MOUT whose tile is two rows, with a write under way. -/
def mouting (n : Nat) (stage : PartStage) : EngineOp :=
  { started .mout 0 with task := List.replicate n 1, write := some (aWrite stage 128) }

theorem witness_EventsOfEngines_tiles :
    (sideReady (endedWith (started .mzero 0)) (· == .mzero) = some (started .mzero 0) ∧ (started .mzero 0).pages.headD 0 < 4 ∧
     leaseHead (endedWith (started .mzero 0)).ctx = none) ∧
    (let o := { started .mout 0 with task := List.replicate 128 1 }
     let s := endedWith o
     moutReady s = some o ∧ o.write = none ∧
     (match putLine (s.mod (putOp o)) o (shapeIf (fun a => a.fmt != .raw)) (bitsOf o.slackTab (16 * o.lateLevel + 11) (16 * o.lateLevel))
        ((o.a.toNat + o.progress / moutRow s * (o.b.toNat % 2 ^ 32)) % 2 ^ 64) ((o.task.drop o.progress).take (moutRow s)) with
      | .ok _ => true | .error _ => false) = true) ∧
    moutReady (endedWith (mouting 128 .sent)) = some (mouting 128 .sent) ∧
    (moutReady (endedWith (mouting 128 .returned)) = some (mouting 128 .returned) ∧ (mouting 128 .returned).isFailing = false ∧
     (mouting 128 .returned).task.length ≤ (mouting 128 .returned).progress + moutRow (endedWith (mouting 128 .returned))) ∧
    (moutReady (endedWith (mouting 256 .returned)) = some (mouting 256 .returned) ∧
     ¬(mouting 256 .returned).task.length ≤ (mouting 256 .returned).progress + moutRow (endedWith (mouting 256 .returned))) ∧
    (let o := { started .moutRq 0 with c := 256 }
     let s := { endedWith o with streams := [resultToGusset] }
     moutReady s = some o ∧ moutStream s o = some resultToGusset ∧ leaseHead s.ctx = none) := by
  dsimp only; and_intros <;> first | decide +kernel | rfl

/-- A COPY of one element with a write of it at a stage, and a FILL. -/
def copying (stage : PartStage) : EngineOp := { started .copy 0 with write := some (aWrite stage 1) }

theorem witness_EventsOfEngines_copies :
    (let o := { started .copy 0 with stage := .queued, issueTime := 0 }
     let s := withOp o
     (s.ctx.ops.filter inCopyFamily)[0]? = some o ∧ buffered o = true ∧ o.issueTime.toNat ≤ s.ctc ∧
     ∀ x ∈ bufferOf s (engineCluster s.self s.ctx), o.issueTime.toNat < x.issueTime.toNat ∨ (o.issueTime = x.issueTime ∧ o.seq ≤ x.seq)) ∧
    (let o := started .copy 0
     let s := withOp o
     let r := seekTurn s o (copySlack s o)
     let q := opNow r.1 o
     (s.ctx.ops.filter inCopyFamily)[0]? = some o ∧ copyReady s o = true ∧ q.write = none ∧
     (match gatherRun q r.2 0 q.shape.cols 0 with | .ok none => true | _ => false) = true) ∧
    (let o := started .fill 0
     let s := withOp o
     let r := seekTurn s o (copySlack s o)
     let q := opNow r.1 o
     (s.ctx.ops.filter inCopyFamily)[0]? = some o ∧ copyReady s o = true ∧ q.write = none ∧
     (match gatherRun q r.2 0 q.shape.cols 0 with | .ok (some _) => true | _ => false) = true) ∧
    (∀ g ∈ [PartStage.sent, .returned], let s := withOp (copying g)
     let q := opNow (seekTurn s (copying g) (copySlack s (copying g))).1 (copying g)
     (s.ctx.ops.filter inCopyFamily)[0]? = some (copying g) ∧ copyReady s (copying g) = true ∧ q.write = some (aWrite g 1) ∧ q.isFailing = false ∧
     elemCount q * q.shape.etype.bytes ≤ q.progress + 1) := by
  dsimp only; and_intros <;> first | decide +kernel | rfl

/-- A byte for 0x100 from the peer. -/
def fromPeer : PeerWrite := { asid := 0, tag := 0, physical := true, addr := peerBase + 0x100, shape := ⟨0, 0, 0, 0⟩, bytes := [7], slack := 9, late := false }

/-- A row of one byte and a task record of zeros from the peer, for 0x2000 or for an address of no page. -/
def wrqFrom (dst : Nat) : WrqMsg :=
  { asid := 0, dst := dst, shape := ⟨0x2001, 0, 0, 7⟩, rows := [[7]], task := List.replicate 64 0, taskAddr := 0x4000, slack := 9, late := true }

/-- A line at the peer that an operation waits for. -/
def atPeerLine : LineRead :=
  { key := 64, va := 0x2000, attr := identityPage, place := .peer (peerBase + 0x2000), mask := 15, src := 0, stage := .filling, cause := none, poison := []
    slack := 5, late := false }

/-- Over a link that is up, with slot 0 launched. -/
def peered : State := { launched (slotted 0) with link := { State.reset.link with up := true } }

/-- A page of a mirror, and the first flits of one that the link has cut off. -/
def mirrored (whole : Bool) : MirrorMsg := { asid := 0, pages := [(0x2000, [7])], slack := 5, late := false, whole := whole }

theorem witness_EventsOfEngines_peer :
    linkBrings peered = true ∧ linkBrings (unit []) = false ∧
    (peered.matches_ = [] ∧ fromPeer.physical = true ∧ fromPeer.addr < registerBase ∧ isDram peered (fromPeer.addr - peerBase) = true ∧
     isDram peered (fromPeer.addr - peerBase + fromPeer.bytes.length - 1) = true ∧ fromPeer.shape.w1 = 0) ∧
    (∃ u, wrqCheck (hearing peered) (wrqFrom 0x2000) = none ∧ launchOfTask peered 0 (List.replicate 64 0) = some (slotted 0) ∧
      slotNumbered peered 0 = some (slotted 0) ∧ (slotted 0).stopped = false ∧
      remoteRun 0 (fun _ => none) (hearing peered) 0 (wrqPieces (wrqFrom 0x2000)) = .ok u) ∧
    wrqCheck (hearing peered) (wrqFrom 0x40000000) = some (.page, 0x40000000) ∧
    (let o := { started .wrq 0 with stage := .atPeer }
     let s := { withOp o with link := peered.link }
     linkBrings s = true ∧ (peerWaits s.ctx)[0]? = some (.wrq o) ∧ answerFits s (.wrq o) = true) ∧
    (let o := { started .copyPeer 0 with write := some (aWrite .filling 64) }
     let s := { withOp o with link := peered.link }
     linkBrings s = true ∧ (peerWaits s.ctx)[0]? = some (.write o (aWrite .filling 64)) ∧ answerFits s (.write o (aWrite .filling 64)) = true ∧
     o.kind = .copyPeer) ∧
    (let o := { started .copy 0 with reads := [atPeerLine] }
     let s := { withOp o with link := peered.link }
     linkBrings s = true ∧ (peerWaits s.ctx)[0]? = some (.read o atPeerLine) ∧ answerFits s (.read o atPeerLine) = true) ∧
    (let a := { newAccess (unit []) (.load 8 false) 0x2000 0 0 ⟨0, 0, 0, 0⟩ 4 0 0 with stage := .planned, parts := [⟨64, [], .filling, 5, false, none⟩] }
     let s := { (unit []).mod (fun c => { c with accesses := [a] }) with link := peered.link }
     linkBrings s = true ∧ (peerWaits s.ctx)[0]? = some (.part a ⟨64, [], .filling, 5, false, none⟩) ∧
     answerFits s (.part a ⟨64, [], .filling, 5, false, none⟩) = true) ∧
    (∃ u, remoteRun 0 (fun _ => none) (hearing peered) 0 [(0x2000, [7])] = .ok u ∧ (jobAt u 0).mirwa = 0 ∧
      (mirrored true).whole = true ∧ (mirrored false).whole = false ∧ (mirrored true).pages = [(0x2000, [7])]) ∧
    (let o := { started .mirror 0 with stage := .atPeer }
     (withOp o).ctx.ops.find? (fun o => o.kind == .mirror && o.stage == .atPeer) = some o) := by
  have r : (match remoteRun 0 (fun _ => none) (hearing peered) 0 (wrqPieces (wrqFrom 0x2000)) with | .ok _ => true | .error _ => false) = true ∧
    (match remoteRun 0 (fun _ => none) (hearing peered) 0 [(0x2000, [7])] with | .ok u => (jobAt u 0).mirwa == 0 | .error _ => false) = true := by
    decide +kernel
  refine ⟨by decide, by decide, by and_intros <;> decide, ?_, by decide +kernel, by and_intros <;> decide +kernel, by and_intros <;> decide +kernel,
    by and_intros <;> decide +kernel, by and_intros <;> decide +kernel, ?_, by decide⟩
  · obtain ⟨r, -⟩ := r
    split at r
    · rename_i u hu; exact ⟨u, by decide +kernel, by decide +kernel, by decide +kernel, rfl, hu⟩
    · cases r
  · obtain ⟨-, r⟩ := r
    split at r
    · rename_i u hu; exact ⟨u, hu, eq_of_beq r, rfl, rfl, rfl⟩
    · cases r

/-- A commit of one byte of the held frame's row 0 into a tile of two lines at 0x2000. -/
def aCommit (stage : OpStage) (progress : Nat) : EngineOp := { started .commit progress with stage := stage, shape := ⟨0x2001, 0, 0, 7⟩, c := 0 }

def committing (o : EngineOp) : State := { withOp o with channels := [oneFrame] }

/-- The same with the tile pinned. -/
def pinnedTile (o : EngineOp) : State := setPin (setPin (committing o) 64 (some 0)) 65 (some 0)

theorem witness_EventsOfEngines_commit :
    (let o := aCommit .queued 0
     (o :: []) = (committing o).ctx.ops.filter (fun o => o.kind == .commit) ∧ unpinned (committing o) o = some 0x2000 ∧
     unpinned (pinnedTile o) o = none ∧ commitSource (pinnedTile o) o = some (oneFrame, ⟨0, 0, 2, 8, 50, [(.good, 60)], 1, 1, true, 50⟩) ∧
     unpinned { pinnedTile o with channels := [] } o = none ∧ commitSource { pinnedTile o with channels := [] } o = none) ∧
    (let o := aCommit (.suspended .nopin 0x2000) 0
     let p := { o with id := 1, seq := o.seq + 1 }
     (committing o).ctx.ops.filter (fun o => o.kind == .commit) = [o] ∧ commitTurn (committing o) o = true ∧
     commitTurn ((committing o).mod (fun c => { c with ops := [o, p] })) p = false) ∧
    (let o := { aCommit .started 0 with c := 0x10000 }
     o.progress < elemCount o * o.shape.etype.bytes ∧ o.task = [] ∧
     commitSource (committing o) o = some (oneFrame, ⟨0, 0, 2, 8, 50, [(.good, 60)], 1, 1, true, 50⟩) ∧ (1 : Nat) < commitRow o + o.shape.rows) ∧
    (let o := aCommit .started 1
     elemCount o * o.shape.etype.bytes ≤ o.progress ∧ o.write = none ∧
     ({ o with write := some (aWrite .returned 128) } : EngineOp).write = some (aWrite .returned 128)) := by
  dsimp only; and_intros <;> first | decide +kernel | rfl

/-- A camera port with its link at G1. -/
def cameras : List PortState := [{ port := 0, gear := some 1, other := 0, stamp := 0, since := 0, pdelay := 0 }]

/-- The channel of one held frame, with its control word and chip time. -/
def camera (ctl : Word) (now : Nat) (open_ : Bool) : State :=
  { unit [] with
    cameraPorts := cameras, time := ⟨now, 0, 0, 0, 0⟩
    channels := [{ oneFrame with ctl := ctl, held := if open_ then oneFrame.held else [] }] }

/-- A lidar channel at Ethernet port 0, whose open frame of two rows has row 0. -/
def lidar (now : Nat) : State :=
  { unit [] with
    time := ⟨now, 0, 0, 0, 0⟩
    channels := [{ oneFrame with ch := 256, udpport := 2368, seqofs := 0, lastSeq := some 0 }] }

/-- An IPv4 frame with a UDP datagram of 2 bytes for port 2368. -/
def datagram : List Byte :=
  List.replicate 12 0 ++ [8, 0] ++ [0x45, 0, 0, 30] ++ List.replicate 5 0 ++ [17] ++ List.replicate 10 0 ++ [0, 0, 9, 64, 0, 10, 0, 0, 0, 1]

theorem witness_EventsOfSensors_streams :
    (let st := { cameraToGusset with outgoing := [7], landed := [], slots := [] }
     let s := { unit [] with streams := [st] }
     streamAt s 0 = some st ∧ st.prodOn = true ∧ st.occupancy < st.res ∧ isRing st.prod = false ∧ isRing st.cons = false ∧
     st.cons.kind ≠ .rowWriter ∧ st.outgoing = [7] ∧ st.slots = []) ∧
    (let st := { cameraToGusset with cons := ⟨.rowWriter, 0, 0, 0, 0x2000⟩, landed := [7, 8], slots := [], slice := 1 }
     let s := { mapped with streams := [st] }
     streamAt s 0 = some st ∧ st.cons.kind = .rowWriter ∧ st.landed = [7, 8] ∧ st.writing = false ∧ writerForked s st = true ∧
     (match writerAim s st with | .ok (_, _, pa) => sliceOf pa == st.slice | .error _ => false) = true ∧
     (match writerFlit s st 7 with | .ok _ => true | .error _ => false) = true ∧ (st.taken + 1) % st.frameFlits ≠ 0 ∧
     (match writerAim s { st with slice := 0 } with
       | .ok (_, va, pa) => sliceOf pa != 0 && portRoom s (rowPacket { st with slice := 0 } pa va) 1
       | .error _ => false) = true ∧
     (match writerAim s { st with cons := ⟨.rowWriter, 0, 0, 0, 0x40000000⟩ } with | .ok _ => false | .error _ => true) = true ∧
     ({ st with writing := true } : Stream).writing = true) ∧
    (let st := { cameraToGusset with signals := [false] }
     streamAt { unit [] with streams := [st] } 0 = some st ∧ st.flowCheck.signals = [false]) := by
  dsimp only; and_intros <;> first | decide +kernel | rfl

theorem witness_EventsOfSensors_cameras :
    (let s := camera 0x1001 40 false
     ∃ c, cameraUp s 0 = true ∧ enabledChannel s 0 = some c ∧ c.openFrame = none ∧ c.ehdr = true) ∧
    (let s := camera 1 40 false
     ∃ c, cameraUp s 0 = true ∧ enabledChannel s 0 = some c ∧ c.openFrame = none ∧ c.ehdr = false ∧ 1 ≤ c.wmax ∧ c.wmax ≤ 8192 ∧ 1 ≤ c.hmax) ∧
    (let c := { oneFrame with ctl := 0x1001, held := [], starting := some 50 }
     let s := { camera 0x1001 40 false with channels := [c] }
     enabledChannel s 0 = some c ∧ c.ehdr = true ∧ c.starting = some 50 ∧ (8 : BitVec 16).toNat ≤ c.wmax ∧ (2 : BitVec 16).toNat ≤ c.hmax ∧
     ¬(9 : BitVec 16).toNat ≤ c.wmax) ∧
    (let s := camera 1 40 true
     ∃ c f, cameraUp s 0 = true ∧ enabledChannel s 0 = some c ∧ c.openFrame = some f ∧ imageType 0x2A = true ∧ imageType 0x1E = true ∧
       imageType 0x2E = true ∧ c.refusing = false ∧ c.starting = none ∧ c.lnum = false ∧ c.nextLine = f.rows.length ∧ f.rows.length < f.height ∧
       c.overdue f s.ctc f.rows.length = false ∧ portFull s 0 (lineBytes c [1, 2]).length = false ∧ heardFrom s (portIn s.cameraPorts 0) 33 = true) ∧
    (let s := camera 1 161 true
     ∃ c f, enabledChannel s 0 = some c ∧ c.openFrame = some f ∧ f.rows.length < f.height ∧ c.overdue f s.ctc f.rows.length = true ∧
       c.overdue f s.ctc (f.rows.length + 1) = false) := by
  dsimp only
  refine ⟨⟨_, by decide, rfl, by decide, by decide⟩, ⟨_, by decide, rfl, by decide, by decide, by decide, by decide, by decide⟩,
    by and_intros <;> first | decide | rfl, ⟨_, _, by decide, rfl, rfl, by decide, by decide, by decide, by decide, by decide, by decide,
    by decide, by decide, by decide, by decide, by decide⟩, ⟨_, _, rfl, rfl, by decide, by decide, by decide⟩⟩

theorem witness_EventsOfSensors_lidar :
    (∃ c f, enabledChannel (lidar 40) 256 = some c ∧ c.openFrame = some f ∧ extendSeq c.lastSeq (be16 [0, 1] c.seqofs) / c.hmax = f.series ∧ heardFrom (lidar 40) (portIn (lidar 40).etherPorts 0) 33 = true ∧
      extendSeq c.lastSeq (be16 [0, 1] c.seqofs) % c.hmax = f.rows.length ∧ [0, 1].length ≤ f.width ∧ c.overdue f (lidar 40).ctc f.rows.length = false ∧
      portFull (lidar 40) 256 f.width = false) ∧
    frameTaken datagram true = true ∧ frameTaken datagram false = false ∧ heardFrom (unit []) (portIn (unit []).etherPorts 7) 0 = true ∧
    enabledChannel (unit []) 256 = none ∧
    (ptpOf (List.replicate 12 0 ++ [0x88, 0xF7] ++ List.replicate 44 0)).isSome = true ∧
    (∃ c, enabledChannel (lidar 40) 256 = some c ∧ lidarOf datagram = some (c.udpport, [0, 1], true)) ∧
    (∃ c f, chanAt (lidar 161) 256 = some c ∧ c.openFrame = some f ∧ c.overdue f (lidar 161).ctc (f.height - 1) = true) := by
  exact ⟨⟨_, _, rfl, rfl, by decide, by decide, by decide, by decide, by decide, by decide⟩, by decide, by decide, by decide, by decide, by decide, ⟨_, rfl, by decide⟩,
    ⟨_, _, rfl, rfl, by decide⟩⟩

theorem witness_EventsOfSensors_sets_and_time :
    (let s := { unit [] with groups := [oneGroup], time := ⟨1115, 0, 0, 0, 0⟩ }
     groupAt s 3 = some oneGroup ∧ oneGroup.sets = [] ∧ oneGroup.timeout oneGroup.rcount ≤ s.ctc ∧
     s.ctc < oneGroup.timeout oneGroup.rcount + oneGroup.period) ∧
    ((unit []).time.rate = 0 ∧ (unit []).time.slew = 0 ∧ (unit []).time.absorbed = 0 ∧ (unit []).time.frac < 2 ^ 40) ∧
    (0 ≤ (5 : Word).toInt ∧ (-5 : Word).toInt < 0) := by dsimp only; and_intros <;> first | decide | rfl

/-- An image of one line. -/
def image : List Byte := List.replicate 4 0xFF ++ [64] ++ List.replicate 123 0

/-- The signatures and the fuse are not for the model to decide; the rest of an image's checks pass, and an empty slot is refused. -/
theorem witness_EventsOfThePart_boot :
    (Config.ed25519Ok (image.take 0x80) ((image.drop 0x80).take 64) = true → Config.mldsa65Ok (image.take 0x80) ((image.drop 0xC0).take 3309) = true →
      Config.fusedMinVersion ≤ imageVersion image → slotAccepted image = true) ∧
    slotAccepted [] = false ∧ ({ State.reset.boot with state := 2 } : Boot).state = 2 ∧ (unit []).boot.quoting = false ∧
    bitOf (1 : Word).toNat 0 = true ∧ ({ State.reset.boot with quoting := true } : Boot).quoting = true := by
  refine ⟨fun e m f => ?_, ?_, rfl, rfl, by decide, rfl⟩
  · have l : imageLength image = 64 ∧ imageLoad image = 0 ∧ ((image.drop 0x18).take 40).all (· == 0) = true := by decide
    have e' : edsigOk image = true := by unfold edsigOk signedBytes; rw [l.1]; exact e
    have m' : mlsigOk image = true := by unfold mlsigOk signedBytes; rw [l.1]; exact m
    unfold slotAccepted; rw [e', m', l.1, l.2.1, l.2.2]; simp [f]; unfold installedGib; omega
  · have l : imageLength [] = 0 := by decide
    simp [slotAccepted, l]

/-- The link is up. -/
def linked (l : Link → Link) : State := { unit [] with link := l { State.reset.link with up := true, hbhold := false } }

theorem witness_EventsOfThePart_link :
    ((unit []).ctxAt 5).run = .idle ∧ (12 : Word).toNat % 16 ≤ 12 ∧
    (let s := linked (fun l => { l with sinceSend := 500000 })
     500000 ≤ s.link.sinceSend ∧ s.link.up = true ∧ s.link.retraining = false ∧ s.link.hbhold = false ∧ s.boot.state ≠ 2) ∧
    (let s := linked (fun l => { l with failedReplays := 9, idleIn := 100000 })
     s.link.up = true ∧ s.link.retraining = false ∧ 9 ≤ s.link.failedReplays ∧ 100000 ≤ s.link.idleIn) ∧
    (let s := linked (fun l => { l with retraining := true, heardOnce := true, sinceHeard := 1499000 })
     s.link.up = true ∧ s.link.retraining = true ∧ s.link.heardOnce = true ∧ 1499000 ≤ s.link.sinceHeard) ∧
    (unit []).link.en = false ∧ (linked (fun l => { l with training := true })).link.training = true ∧
    115 ≤ (115 : BitVec 8).toNat ∧ (114 : BitVec 8).toNat < 115 ∧ (63 : BitVec 8).toNat < 64 ∧
    (0x80 ≤ (0x80 : BitVec 8).toNat ∧ (0x84 : BitVec 8).toNat ≤ 0x84) := by
  dsimp only; and_intros <;> first | decide | rfl

end Sys2Proof.Tests
end

section
namespace Sys2Proof.Machine

/-- The bytes of a number, one by one (R4). -/
theorem leBytes_getD (n : Nat) : ∀ (v i : Nat), i < n → ((leBytes n v).getD i 0).toNat = v / 2 ^ (8 * i) % 256 := by
  induction n with
  | zero => intro v i hi; omega
  | succ n ih =>
    intro v i hi
    cases i with
    | zero => simp [leBytes]
    | succ i =>
      have e : v / 256 / 2 ^ (8 * i) = v / 2 ^ (8 * (i + 1)) := by
        rw [Nat.div_div_eq_div_mul, show 8 * (i + 1) = 8 + 8 * i by omega, Nat.pow_add]
      rw [← e]
      exact ih (v / 256) i (by omega)

/-- A byte of a range written as a number is that byte of the number. -/
theorem readByte_writeLE_in {m : Memory} (h : m.wf = true) {a n v i : Nat} (hi : i < n) :
    (readByte (writeLE m a n v) (a + i)).toNat = v / 2 ^ (8 * i) % 256 := by
  rw [writeLE, readByte_writeBytes_in _ h a i (by rwa [leBytes_length]), leBytes_getD n v i hi]

/-- Every byte outside a range written as a number is as before. -/
theorem readByte_writeLE_out {m : Memory} (h : m.wf = true) {a n v x : Nat} (hx : x < a ∨ a + n ≤ x) :
    readByte (writeLE m a n v) x = readByte m x :=
  readByte_writeBytes_out _ h a x (by rwa [leBytes_length])

/-- Settles O36: each clause is the rule of that name about writing bytes. -/
theorem memoryReadsBack : Obligations.MemoryReadsBack := by
  intro m a n v x h
  have back : readLE (writeLE m a n v) a n = v % 2 ^ (8 * n) := by
    rw [readLE_writeLE h, Nat.pow_mul]
  exact ⟨writeLE_wf h a n v, back, readByte_writeLE_out h, fun i hi => readByte_writeLE_in h hi⟩

end Sys2Proof.Machine
end

section
namespace Sys2Proof.Machine

/-! # Every step keeps the memory's canonical form (O54)

One lemma for each operation of the model that changes the state, in the order of the model's files: `f_inv` says that from a state that
meets the invariant f reaches such a state. An operation that only sets other parts of the state keeps it by `mk_inv`, one that writes
memory by the rule of that write (`writeBytes_wf`, `putStreamBytes_wf`, `writePlanes_wf`), and every other by the lemmas of the
operations it is made of. `exec_inv`, `prepare_inv` and `step_inv` put them together. -/

/-! ## Results that hold states

An operation gives back a state, or a state beside a value, or a state where it succeeds. Each predicate says of one such result that
whatever state it holds meets the invariant. -/

/-- What is given back, if anything is, satisfies p. -/
def OnSome {α : Type} (p : α → Prop) : Option α → Prop
  | some a => p a
  | none => True

/-- What success gives back satisfies p. -/
def OnOk {ε α : Type} (p : α → Prop) : Except ε α → Prop
  | .ok a => p a
  | .error _ => True

/-- The state that stands first. -/
def FstInv {α : Type} (p : State × α) : Prop := p.1.Inv

/-- The state that stands second. -/
def SndInv {α : Type} (p : α × State) : Prop := p.2.Inv

/-- The state that is reached, or that stands first in what is reported of a failure. -/
def ReachedInv {α : Type} : Except (State × α) State → Prop
  | .ok t => t.Inv
  | .error p => FstInv p

/-- The next state, if there is one. -/
def NextInv : Result → Prop
  | .next t => t.Inv
  | .fault _ => True
  | .refused _ => True

/-- The state in which an instruction is to run, or with which a step ends. -/
def Prepared.Inv : Prepared → Prop
  | .run _ t => t.Inv
  | .done t => t.Inv
  | .stop _ => True

theorem OnSome.of_eq {α : Type} {p : α → Prop} {o : Option α} {a : α} (e : o = some a) (h : OnSome p o) : p a := by
  subst e; exact h

theorem OnOk.of_eq {ε α : Type} {p : α → Prop} {r : Except ε α} {a : α} (e : r = .ok a) (h : OnOk p r) : p a := by
  subst e; exact h

theorem FstInv.mk {α : Type} {t : State} {x : α} (h : t.Inv) : FstInv (t, x) := h

theorem FstInv.of_eq {α : Type} {p : State × α} {t : State} {x : α} (e : p = (t, x)) (h : FstInv p) : t.Inv := by
  subst e; exact h

theorem SndInv.mk {α : Type} {t : State} {x : α} (h : t.Inv) : SndInv (x, t) := h

theorem SndInv.of_eq {α : Type} {p : α × State} {t : State} {x : α} (e : p = (x, t)) (h : SndInv p) : t.Inv := by
  subst e; exact h

theorem ReachedInv.of_ok {α : Type} {r : Except (State × α) State} {t : State} (e : r = .ok t) (h : ReachedInv r) : t.Inv := by
  subst e; exact h

theorem ReachedInv.of_error {α : Type} {r : Except (State × α) State} {t : State} {x : α} (e : r = .error (t, x)) (h : ReachedInv r) :
    t.Inv := by
  subst e; exact h

theorem NextInv.of_eq {r : Result} {t : State} (e : r = .next t) (h : NextInv r) : t.Inv := by
  subst e; exact h

/-! ## What a choice and a repetition keep -/

/-- What holds of both branches holds of the choice. -/
theorem holds_ite {α : Type} {p : α → Prop} {c : Prop} [Decidable c] {a b : α} (ha : p a) (hb : p b) : p (if c then a else b) :=
  iteInduction (fun _ => ha) (fun _ => hb)

/-- What every round keeps holds of the last. -/
theorem foldl_inv {α β : Type} {p : β → Prop} {f : β → α → β} {l : List α} {b : β} (hf : ∀ b a, p b → p (f b a)) (h : p b) :
    p (l.foldl f b) :=
  List.foldlRecOn l f h (fun b k a _ => hf b a k)

theorem getD_inv {α : Type} {p : α → Prop} {o : Option α} {a : α} (ho : OnSome p o) (h : p a) : p (o.getD a) := by
  cases o with
  | none => exact h
  | some b => exact ho

theorem elim_inv {α β : Type} {p : β → Prop} {o : Option α} {b : β} {f : α → β} (h : p b) (hf : ∀ a, p (f a)) : p (o.elim b f) := by
  cases o with
  | none => exact h
  | some a => exact hf a

theorem OnSome.map {α β : Type} {p : β → Prop} {f : α → β} {o : Option α} (hf : ∀ a, p (f a)) : OnSome p (o.map f) := by
  cases o with
  | none => trivial
  | some a => exact hf a

/-! ## A state made of its parts -/

/-- Of the parts of a state the invariant asks only about its memory. -/
theorem mk_inv {ctx self others side agenda moves draws mem dram poison tlb walks spaces slices cores gussets arbiters nextPacket
     arrays streams streamGens starts rings lastRing matches_ slots admissions queues jobs channels cameraPorts etherPorts groups
     time link boot hk out laneFails testing fatal}
    (h : Memory.wf mem = true) :
    (State.mk ctx self others side agenda moves draws mem dram poison tlb walks spaces slices cores gussets arbiters nextPacket
      arrays streams streamGens starts rings lastRing matches_ slots admissions queues jobs channels cameraPorts etherPorts groups
      time link boot hk out laneFails testing fatal).Inv := h

variable {s t : State}

/-- Moving a slice past an instruction leaves memory alone. -/
theorem Passed.inv {side : Slice} (k : Passed side s t) (h : s.Inv) : t.Inv := by
  rw [State.Inv, k.mem]; exact h

/-- Sending accesses on their way leaves memory alone. -/
theorem Settled.inv (k : Settled s t) (h : s.Inv) : t.Inv := by
  rw [k.1]; exact mk_inv h

/-! ## Memory -/

theorem focus_inv {n} (h : s.Inv) : (s.focus n).Inv := holds_ite h (mk_inv h)

theorem mod_inv {f} (h : s.Inv) : (s.mod f).Inv := mk_inv h

theorem withCtx_inv {n} {f : State → State} (h : s.Inv) (hf : ∀ t, t.Inv → (f t).Inv) : (s.withCtx n f).Inv :=
  focus_inv (hf _ (focus_inv h))

theorem setCore_inv {k} (h : s.Inv) : (s.setCore k).Inv := mk_inv h

theorem setGusset_inv {k} (h : s.Inv) : (s.setGusset k).Inv := mk_inv h

theorem setSlice_inv {k} (h : s.Inv) : (s.setSlice k).Inv := mk_inv h

theorem setArray_inv {a} (h : s.Inv) : (s.setArray a).Inv := mk_inv h

theorem setJob_inv {j} (h : s.Inv) : (s.setJob j).Inv := mk_inv h

theorem drawn_inv (h : s.Inv) : s.drawn.Inv := mk_inv h

theorem cacheDesc_inv {asid} (h : s.Inv) : (cacheDesc s asid).Inv := mk_inv h

theorem fillAt_inv {places asid va} (h : s.Inv) : (fillAt s places asid va).Inv := by
  unfold fillAt
  extract_lets +onlyGivenNames _
  split
  · extract_lets s' _
    have hs' : s'.Inv := cacheDesc_inv h
    exact mk_inv hs'
  · exact cacheDesc_inv h

theorem setWindow_inv {owner m} (h : s.Inv) : (setWindow s owner m).Inv := holds_ite (setGusset_inv h) (setCore_inv h)

theorem storeWindow_inv {w o bs} (h : s.Inv) : (storeWindow s w o bs).Inv := setWindow_inv (mk_inv h)

theorem replaceWindow_inv {w m} (h : s.Inv) : (replaceWindow s w m).Inv := setWindow_inv (mk_inv h)

/-! ## Slices -/

theorem stepSequence_inv {side i j} (h : s.Inv) : (stepSequence s side i j).Inv := (stepSequence_passed s side i j).inv h

theorem jumpTo_inv {side t} (h : s.Inv) : (jumpTo s side t).Inv := (jumpTo_passed s side t).inv h

theorem advance_inv {side len} (h : s.Inv) : (advance s side len).Inv := (advance_passed s side len).inv h

theorem retire_inv {side len both} (h : s.Inv) : (retire s side len both).Inv := (retire_passed s side len both).inv h

theorem fillPort_inv {port ident data} (h : s.Inv) : (fillPort s port ident data).Inv := mk_inv h

theorem landOne_inv {l} (h : s.Inv) : (landOne s l).Inv := by
  unfold landOne
  extract_lets +onlyGivenNames _ _ t
  have ht : t.Inv := mod_inv h
  split
  · exact mod_inv ht
  · split
    · exact mod_inv ht
    · split
      · exact mod_inv ht
      · split
        · exact mod_inv ht
        · split
          · exact fillPort_inv ht
          · split
            · exact mod_inv ht
            · exact ht

theorem landDue_inv (h : s.Inv) : (landDue s).Inv := foldl_inv (fun _ _ k => landOne_inv k) (mod_inv h)

/-! ## Caches -/

theorem writeBack_inv {line mask} (h : s.Inv) : (writeBack s line mask).Inv := mk_inv h

theorem discardLine_inv {line} (h : s.Inv) : (discardLine s line).Inv := mk_inv (writeBytes_wf _ h _)

theorem mapMapped_inv {f} (h : s.Inv) : (mapMapped s f).Inv := mk_inv h

theorem recallLine_inv {line keep} (h : s.Inv) : (recallLine s line keep).Inv := mapMapped_inv h

theorem shareLine_inv {line but} (h : s.Inv) : (shareLine s line but).Inv := mapMapped_inv h

theorem evictLine_inv {n v} (h : s.Inv) : (evictLine s n v).Inv := setSlice_inv (recallLine_inv (writeBack_inv h))

theorem wayFor_inv {n line} (h : s.Inv) : OnSome FstInv (wayFor s n line) := by
  unfold wayFor
  dsimp only
  split
  · exact h
  · exact OnSome.map (fun _ => evictLine_inv h)

theorem touchSlice_inv {line mask dirty} (h : s.Inv) : (touchSlice s line mask dirty).Inv := by
  unfold touchSlice
  extract_lets +onlyGivenNames _ _
  split
  · extract_lets _
    exact setSlice_inv h
  · split
    · exact holds_ite (writeBack_inv h) h
    · rename_i e
      have hk := OnSome.of_eq e (wayFor_inv h)
      extract_lets _
      exact setSlice_inv hk

theorem mergeDirty_inv {line d} (h : s.Inv) : (mergeDirty s line d).Inv := holds_ite h (touchSlice_inv h)

theorem setMapped_inv {n l} (h : s.Inv) : (setMapped s n l).Inv := holds_ite (setCore_inv h) (holds_ite (setGusset_inv h) h)

theorem touchStash_inv {n line mask write} (h : s.Inv) : (touchStash s n line mask write).Inv := by
  unfold touchStash
  split
  · exact h
  · split
    · exact holds_ite (writeBack_inv h) h
    · extract_lets _ _ _ _ t _
      have ht : t.Inv := by
        unfold t
        split
        · exact mergeDirty_inv (setMapped_inv h)
        · exact setMapped_inv h
      exact mergeDirty_inv (holds_ite (recallLine_inv ht) (shareLine_inv ht))

theorem shrinkMapped_inv {n} (h : s.Inv) : (shrinkMapped s n).Inv := foldl_inv (fun _ _ k => mergeDirty_inv k) (setMapped_inv h)

theorem writeHome_inv {line mask} (h : s.Inv) : (writeHome s line mask).Inv := touchSlice_inv (mergeDirty_inv (recallLine_inv h))

theorem touchHomes_inv {pa n} (h : s.Inv) : (touchHomes s pa n).Inv := foldl_inv (fun _ _ k => writeHome_inv k) h

theorem storeBytes_inv {pa bs} (h : s.Inv) : (storeBytes s pa bs).Inv := touchHomes_inv (mk_inv (writeBytes_wf _ h _))

theorem readHome_inv {line mask} (h : s.Inv) : (readHome s line mask).Inv := touchSlice_inv (mergeDirty_inv (shareLine_inv h))

theorem storeStream_inv {a va bs} (h : s.Inv) : (storeStream s a va bs).Inv :=
  foldl_inv (fun _ _ k => touchHomes_inv (holds_ite k (mk_inv k))) (mk_inv (putStreamBytes_wf _ _ h _))

theorem walkFill_inv {places asid va} (h : s.Inv) : (walkFill s places asid va).Inv :=
  foldl_inv (fun _ _ k => readHome_inv k) (fillAt_inv h)

theorem reach_inv {places asid va} (h : s.Inv) : (reach s places asid va).Inv := holds_ite h (walkFill_inv h)

theorem readHomes_inv {pa n} (h : s.Inv) : (readHomes s pa n).Inv := foldl_inv (fun _ _ k => readHome_inv k) h

theorem readStream_inv {a va n} (h : s.Inv) : (readStream s a va n).Inv := foldl_inv (fun _ _ k => readHomes_inv k) h

theorem setAtoms_inv {line a} (h : s.Inv) : (setAtoms s line a).Inv := setSlice_inv h

theorem noteAtomics_inv {core line n mask} (h : s.Inv) : (noteAtomics s core line n mask).Inv := by
  unfold noteAtomics
  split
  · exact setAtoms_inv (touchStash_inv h)
  · extract_lets k t
    have ht : t.Inv := setAtoms_inv (writeHome_inv h)
    exact holds_ite (setAtoms_inv (touchStash_inv ht)) ht

theorem flushLine_inv {line} (h : s.Inv) : (flushLine s line).Inv := mapMapped_inv (setSlice_inv (writeBack_inv h))

theorem invalidateLine_inv {line} (h : s.Inv) : (invalidateLine s line).Inv := setSlice_inv (recallLine_inv (discardLine_inv h))

theorem writeBackOwn_inv {n line} (h : s.Inv) : (writeBackOwn s n line).Inv := mergeDirty_inv (setMapped_inv h)

theorem setPin_inv {line p} (h : s.Inv) : (setPin s line p).Inv := setSlice_inv (holds_ite (touchSlice_inv h) h)

theorem writePincnt_inv {asid} (h : s.Inv) : (writePincnt s asid).Inv := storeBytes_inv h

/-! ## Host events -/

theorem hostEvent_inv {cause status asid ident detail} (h : s.Inv) : (hostEvent s cause status asid ident detail).Inv :=
  holds_ite h (holds_ite (mk_inv h) (mk_inv (storeBytes_inv h)))

theorem noteRead_inv {asid va n} (h : s.Inv) : (noteRead s asid va n).Inv := by
  unfold noteRead
  extract_lets s'
  have hs' : s'.Inv := reach_inv h
  split
  · split
    · exact hs'
    · split
      · exact readStream_inv hs'
      · exact hs'
  · exact hs'

theorem storeIn_inv {asid va bs} (h : s.Inv) : OnSome State.Inv (storeIn s asid va bs) := by
  unfold storeIn
  split
  · split
    · trivial
    · split
      · exact storeBytes_inv (reach_inv h)
      · trivial
  · trivial

/-! ## The chains -/

theorem setArbiter_inv {a} (h : s.Inv) : (s.setArbiter a).Inv := mk_inv h

theorem inject_inv {p} (h : s.Inv) : (inject s p).Inv := mk_inv (setArbiter_inv h)

theorem injectAll_inv {p flits} (h : s.Inv) : (injectAll s p flits).Inv := holds_ite (inject_inv (inject_inv h)) (inject_inv h)

theorem addRequest_inv {dst p} (h : s.Inv) : (addRequest s dst p).Inv := holds_ite (setSlice_inv h) (holds_ite (setCore_inv h) h)

theorem hearing_inv (h : s.Inv) : (hearing s).Inv := mk_inv h

theorem modPacket_inv {n f} (h : s.Inv) : (s.modPacket n f).Inv := mk_inv h

/-! ## Self test -/

theorem setQuarantine_inv {r on} (h : s.Inv) : (setQuarantine s r on).Inv := by
  unfold setQuarantine
  split
  · exact setArray_inv h
  · exact setCore_inv h
  · exact setCore_inv h
  · extract_lets _
    exact setSlice_inv h
  · exact setGusset_inv h

theorem startTest_inv {r} (h : s.Inv) : (startTest s r).Inv := holds_ite h (mk_inv (setQuarantine_inv h))

theorem testStorage_inv {va} (h : s.Inv) : (testStorage s va).Inv := by
  unfold testStorage
  split
  · split
    · exact startTest_inv h
    · exact h
  · exact h

theorem consumePoison_inv {va at_} (h : s.Inv) : (consumePoison s va at_).Inv := mod_inv (testStorage_inv h)

theorem noteCorrected_inv {r} (h : s.Inv) : (noteCorrected s r).Inv := by
  unfold noteCorrected
  split
  · exact setCore_inv h
  · exact setCore_inv h
  · exact setGusset_inv h
  · exact h
  · exact h

/-! ## Access -/

theorem partStore_inv {va bs} (h : s.Inv) : FstInv (partStore s va bs) := by
  unfold partStore
  split
  · exact reach_inv h
  · extract_lets t
    have ht : t.Inv := reach_inv h
    split
    · exact ht
    · split
      · exact storeStream_inv ht
      · exact holds_ite (storeWindow_inv ht) ht
      · exact holds_ite (mk_inv ht) ht
      · exact ht
      · exact ht

theorem partReads_inv {va n} (h : s.Inv) : (partReads s va n).Inv := by
  unfold partReads
  extract_lets t
  have ht : t.Inv := reach_inv h
  split
  · split
    · exact holds_ite ht (readStream_inv ht)
    · exact ht
  · exact ht

theorem writeRecord_inv {status kind flag code bytes addr} (h : s.Inv) : (writeRecord s status kind flag code bytes addr).Inv :=
  mod_inv (partStore_inv h)

theorem countFlag_inv {f n} (h : s.Inv) : (countFlag s f n).Inv := by
  unfold countFlag
  split
  · exact mod_inv h
  · split
    · exact storeBytes_inv h
    · exact h

theorem setLate_inv {v} (h : s.Inv) : (setLate s v).Inv := by
  unfold setLate
  split
  · exact mod_inv h
  · split
    · exact storeBytes_inv h
    · exact h

theorem countLate_inv {u va} (h : s.Inv) : (countLate s u va).Inv := by
  unfold countLate
  split
  · exact h
  · extract_lets +onlyGivenNames _ _ s' _
    have hs' : s'.Inv := setLate_inv h
    exact holds_ite hs' (holds_ite (countFlag_inv (writeRecord_inv hs')) (writeRecord_inv hs'))

theorem countLates_inv {u k va} (h : s.Inv) : (countLates s u k va).Inv := by
  unfold countLates
  split
  · exact h
  · extract_lets t
    have ht : t.Inv := countLate_inv h
    split
    · exact setLate_inv ht
    · exact ht

theorem requestLates_inv {slack u n va} (h : s.Inv) : (requestLates s slack u n va).Inv :=
  holds_ite h (holds_ite (countLates_inv h) (countLates_inv (drawn_inv h)))

theorem walkLates_inv {place slack u va} (h : s.Inv) : (walkLates s place slack u va).Inv := requestLates_inv h

theorem planAll_inv (h : s.Inv) : (planAll s).Inv := (planAll_settled s).inv h

theorem writeElem_inv {e v} (h : s.Inv) : (writeElem s e v).Inv := by
  unfold writeElem
  extract_lets t
  have ht : t.Inv := mod_inv h
  split
  · exact mk_inv (putStreamBytes_wf _ _ ht _)
  · exact storeWindow_inv ht
  · exact mk_inv ht
  · exact ht

theorem performElem_inv {e} {sa : State × Access} (h : FstInv sa) : FstInv (performElem sa e) := by
  unfold performElem
  split
  split
  · exact h
  · exact h
  · exact h
  · exact h
  · exact writeElem_inv h
  · exact h
  · exact h
  · exact h
  · exact writeElem_inv h
  · exact writeElem_inv h
  · exact writeElem_inv h
  · exact writeElem_inv h
  · exact writeElem_inv h
  · exact FstInv.mk (holds_ite (writeElem_inv h) h)
  · exact h

theorem cachePart_inv {a p} (h : s.Inv) : (cachePart s a p).Inv := by
  unfold cachePart
  split
  · extract_lets +onlyGivenNames _ _ _
    split
    · exact holds_ite (writeBack_inv h) h
    · exact holds_ite (noteAtomics_inv h) (setAtoms_inv (touchStash_inv (touchSlice_inv h)))
  · exact h

theorem clearWritten_inv {p} (h : s.Inv) : (clearWritten s p).Inv := holds_ite h (mk_inv h)

theorem performPart_inv {whole a p} (h : s.Inv) : FstInv (performPart s whole a p) := by
  unfold performPart
  extract_lets +onlyGivenNames bad
  clear_value bad
  split
  · exact h
  · extract_lets +onlyGivenNames reads
    split
    · exact FstInv.mk (holds_ite h (consumePoison_inv h))
    · extract_lets +onlyGivenNames es n
      split
      rename_i e
      have hk := FstInv.of_eq e (foldl_inv (fun _ _ k => performElem_inv k) (FstInv.mk (holds_ite h (drawn_inv h))))
      extract_lets mark
      exact holds_ite hk (holds_ite hk (cachePart_inv (holds_ite (clearWritten_inv hk) hk)))

theorem performLine_inv {whole ident line} (h : s.Inv) : (performLine s whole ident line).Inv := by
  unfold performLine
  split
  · split
    · extract_lets r
      have hr : FstInv r := performPart_inv h
      exact mod_inv hr
    · exact h
  · exact h

theorem deliver_inv {a} (h : s.Inv) : (deliver s a).Inv :=
  holds_ite (mod_inv (holds_ite (mod_inv (mod_inv h)) (mod_inv h))) (holds_ite (mod_inv (mod_inv h)) (mod_inv h))

theorem reachLines_inv {ea count} (h : s.Inv) : (reachLines s ea count).Inv := foldl_inv (fun _ _ k => reach_inv k) h

theorem cacheEffect_inv {a} (h : s.Inv) : (cacheEffect s a).Inv := by
  unfold cacheEffect
  extract_lets _ t
  have ht : t.Inv := foldl_inv
    (fun _ _ k => holds_ite (flushLine_inv k) (holds_ite (holds_ite (invalidateLine_inv k) k) (writeBackOwn_inv k))) (reachLines_inv h)
  exact requestLates_inv ht

theorem settle_inv (h : s.Inv) : (settle s).Inv := (settle_settled s).inv h

theorem issueAccess_inv {a} (h : s.Inv) : (issueAccess s a).Inv := settle_inv (mod_inv h)

theorem walkAll_inv {ident n} (h : s.Inv) : (walkAll ident n s).Inv := by
  induction n generalizing s with
  | zero => exact h
  | succ n ih =>
    unfold walkAll
    split
    · split
      · exact h
      · split
        · split
          · exact ih (walkFill_inv (walkLates_inv h))
          · exact mod_inv h
        · exact mod_inv h
    · exact h

theorem performHalting_inv {a p} (h : s.Inv) : (performHalting s a p).Inv :=
  holds_ite (requestLates_inv (performLine_inv h)) (performLine_inv h)

theorem performNow_inv {before ident} (h : s.Inv) : (performNow s before ident).Inv := by
  unfold performNow
  split
  · split
    · exact holds_ite (mod_inv (cacheEffect_inv h)) h
    · extract_lets t
      have ht : t.Inv := foldl_inv (fun _ _ k => holds_ite (performHalting_inv k) k) h
      split
      · exact holds_ite (deliver_inv ht) ht
      · exact ht
  · exact h

theorem drainFrom_inv {is} (h : s.Inv) : (drainFrom is s).Inv := by
  induction is generalizing s with
  | nil => exact h
  | cons i is ih => exact ih (performNow_inv (walkAll_inv (planAll_inv h)))

theorem drainAccesses_inv (h : s.Inv) : (drainAccesses s).Inv := drainFrom_inv h

/-! ## Enqueue -/

theorem modSlot_inv {n f} (h : s.Inv) : (modSlot s n f).Inv := mk_inv h

theorem raiseCount_inv {slot} (h : s.Inv) : (raiseCount s slot).Inv := modSlot_inv h

theorem failBeforeStart_inv {u code} (h : s.Inv) : (failBeforeStart s u code).Inv := modSlot_inv (hostEvent_inv h)

theorem setBank_inv {b l} (h : s.Inv) : (setBank s b l).Inv := mk_inv h

theorem setOvf_inv {b p} (h : s.Inv) : (setOvf s b p).Inv := mk_inv h

theorem spillOne_inv {b r} (h : s.Inv) : (spillOne b s r).Inv := by
  unfold spillOne
  split
  extract_lets +onlyGivenNames t
  have ht : t.Inv := setOvf_inv (storeBytes_inv h)
  exact mk_inv ht

theorem spill_inv {b rs} (h : s.Inv) : (spill b s rs).Inv := foldl_inv (fun _ _ k => spillOne_inv k) h

theorem arriveBank_inv {b r} (h : s.Inv) : (arriveBank s b r).Inv := by
  unfold arriveBank
  split
  exact holds_ite (spill_inv h) (holds_ite (setBank_inv h) (spill_inv (setBank_inv h)))

theorem enqueueTask_inv {r home} (h : s.Inv) : (enqueueTask s r home).Inv := arriveBank_inv (holds_ite h (reach_inv h))

theorem parkRecord_inv {r} (h : s.Inv) : (parkRecord s r).Inv := holds_ite (mk_inv h) (mk_inv (storeBytes_inv h))

theorem keepParked_inv {p} (h : s.Inv) : (keepParked s p).Inv := mk_inv h

theorem parkUnit_inv {va} (h : s.Inv) : (parkUnit s va).Inv := parkRecord_inv h

/-! ## Levels -/

theorem writeDone_inv {asid done status code nbad} (h : s.Inv) : (writeDone s asid done status code nbad).Inv :=
  holds_ite h (getD_inv (storeIn_inv h) h)

theorem retireGraph_inv {asid g} (h : s.Inv) : (retireGraph s asid g).Inv := by
  unfold retireGraph
  split
  · exact h
  · split
    · exact h
    · exact holds_ite (holds_ite (setJob_inv h) (hostEvent_inv (setJob_inv h))) h

theorem retirePhase_inv {asid p} (h : s.Inv) : (retirePhase s asid p).Inv := by
  unfold retirePhase
  split
  · exact h
  · split
    · exact h
    · exact holds_ite (holds_ite (setJob_inv h) (hostEvent_inv (setJob_inv h))) h

theorem sealPhases_inv {asid below} (h : s.Inv) : (sealPhases s asid below).Inv := by
  unfold sealPhases
  split
  · exact h
  · extract_lets t
    have ht : t.Inv := setJob_inv h
    exact foldl_inv (fun _ _ k => retirePhase_inv k) ht

theorem freeBarriers_inv {slot} (h : s.Inv) : (freeBarriers s slot).Inv := mk_inv h

theorem retireLaunch_inv {slot} (h : s.Inv) : (retireLaunch s slot).Inv := by
  unfold retireLaunch
  split
  · exact h
  · split
    · exact h
    · extract_lets +onlyGivenNames _ t t1 t2
      have ht : t.Inv := freeBarriers_inv h
      have ht1 : t1.Inv := writeDone_inv ht
      have ht2 : t2.Inv := mk_inv ht1
      split
      · exact ht2
      · extract_lets t3
        have ht3 : t3.Inv := setJob_inv ht2
        exact retirePhase_inv (holds_ite ht3 (retireGraph_inv ht3))

theorem retireLaunches_inv (h : s.Inv) : (retireLaunches s).Inv := foldl_inv (fun _ _ k => retireLaunch_inv k) h

theorem cancelUnits_inv {slot n} (h : s.Inv) : (cancelUnits s slot n).Inv := holds_ite h (modSlot_inv h)

theorem offerTask_inv {r home} (h : s.Inv) : (offerTask s r home).Inv :=
  holds_ite (retireLaunch_inv (cancelUnits_inv h)) (enqueueTask_inv h)

theorem wakeOne_inv {r} (h : s.Inv) : (wakeOne s r).Inv := by
  unfold wakeOne
  split
  · exact h
  · split
    · exact retireLaunch_inv (freeBarriers_inv (failBeforeStart_inv h))
    · exact holds_ite (retireLaunch_inv (freeBarriers_inv (cancelUnits_inv h))) (enqueueTask_inv h)

theorem wakeParked_inv {asid va} (h : s.Inv) : (wakeParked s asid va).Inv := by
  unfold wakeParked
  extract_lets _ _ _ t _
  have ht : t.Inv := foldl_inv (fun _ _ k => readHomes_inv k) (keepParked_inv h)
  exact foldl_inv (fun _ _ k => wakeOne_inv k) (foldl_inv (fun _ _ k => parkRecord_inv k) ht)

/-! ## Operations of the engines -/

theorem completeOp_inv {o} (h : s.Inv) : (completeOp s o).Inv := holds_ite (countFlag_inv (mod_inv h)) (mod_inv h)

theorem failOp_inv {o status code bytes addr} (h : s.Inv) : (failOp s o status code bytes addr).Inv :=
  holds_ite (mod_inv h) (completeOp_inv (writeRecord_inv h))

theorem failUnnamed_inv {o status code bytes} (h : s.Inv) : (failUnnamed s o status code bytes).Inv := failOp_inv (drawn_inv h)

theorem countCancelled_inv {slot} (h : s.Inv) : (countCancelled s slot).Inv := mk_inv h

theorem stopOp_inv {status code o} (h : s.Inv) : (stopOp status code s o).Inv := by
  unfold stopOp
  split
  · exact countCancelled_inv (mod_inv h)
  · exact mod_inv h
  · exact mod_inv h
  · exact mod_inv h
  · exact holds_ite h (mod_inv (failOp_inv h))
  · exact holds_ite h (holds_ite (mod_inv h) (failUnnamed_inv h))

theorem stopOps_inv {p status code} (h : s.Inv) : (stopOps p status code s).Inv := foldl_inv (fun _ _ k => stopOp_inv k) h

theorem dropLease_inv (h : s.Inv) : (dropLease s).Inv := holds_ite (setArray_inv h) h

theorem releaseLease_inv (h : s.Inv) : (releaseLease s).Inv := holds_ite (setArray_inv h) (dropLease_inv h)

theorem enterRequest_inv {u implicit} (h : s.Inv) : (enterRequest s u implicit).Inv :=
  holds_ite (countLate_inv (setArray_inv h)) (setArray_inv h)

theorem leaseAct_inv {u} (h : s.Inv) : (leaseAct s u).Inv := by
  unfold leaseAct
  extract_lets _ t
  have ht : t.Inv := mod_inv h
  split
  · exact setArray_inv ht
  · exact enterRequest_inv ht

theorem unleaseAct_inv (h : s.Inv) : (unleaseAct s).Inv := mod_inv (releaseLease_inv h)

theorem settleLeaseFrom_inv {n} (h : s.Inv) : (settleLeaseFrom n s).Inv := by
  induction n generalizing s with
  | zero => exact h
  | succ n ih =>
    unfold settleLeaseFrom
    split
    · exact h
    · split
      · exact ih (unleaseAct_inv (mod_inv h))
      · exact ih (leaseAct_inv (mod_inv h))
      · split
        · split
          · exact enterRequest_inv h
          · exact holds_ite (enterRequest_inv h) h
        · exact h

theorem settleLease_inv (h : s.Inv) : (settleLease s).Inv := holds_ite (settleLeaseFrom_inv h) h

theorem abandonPass_inv {o} (h : s.Inv) : (abandonPass s o).Inv := by
  unfold abandonPass
  split
  · exact holds_ite (failUnnamed_inv h) h
  · exact h

theorem endTerm_inv (h : s.Inv) : (endTerm s).Inv :=
  settleLease_inv (mod_inv (foldl_inv (fun _ _ k => abandonPass_inv k) (setArray_inv h)))

theorem afterLease_inv {suspended} (h : s.Inv) : (afterLease s suspended).Inv := by
  unfold afterLease
  split
  · split
    · exact holds_ite (endTerm_inv h) (settleLease_inv h)
    · exact settleLease_inv h
  · exact h

theorem withdrawOffers_inv (h : s.Inv) : (withdrawOffers s).Inv := mk_inv h

theorem offerFault_inv {c acc va src engine ident} (h : s.Inv) : OnSome SndInv (offerFault s c acc va src engine ident) := by
  unfold offerFault
  split
  · trivial
  · exact holds_ite trivial (setJob_inv (hostEvent_inv (storeBytes_inv h)))

theorem writeFrame_inv {fm n} (h : s.Inv) : FstInv (writeFrame s fm n) := by
  induction n with
  | zero => exact h
  | succ n ih =>
    unfold writeFrame
    dsimp only
    split
    · rename_i e
      exact FstInv.mk (partStore_inv (FstInv.of_eq e ih))
    · exact ih

theorem releaseSave_inv {asid n} (h : s.Inv) : (releaseSave s asid n).Inv := by
  unfold releaseSave
  split
  · exact setJob_inv h
  · exact h

theorem rehome_inv {old new} (h : s.Inv) : (rehome s old new).Inv := mk_inv h

theorem settleWord_inv (h : s.Inv) : (settleWord s).Inv :=
  holds_ite (writeDone_inv (mod_inv h)) (holds_ite h (retireLaunch_inv h))

theorem sweep_inv (h : s.Inv) : (sweep s).Inv :=
  holds_ite (holds_ite (releaseSave_inv (rehome_inv (mk_inv (settleWord_inv h)))) (settleWord_inv h)) h

theorem forOwner_inv {owner} {f : State → State} (h : s.Inv) (hf : ∀ t, t.Inv → (f t).Inv) : (forOwner s owner f).Inv :=
  holds_ite h (withCtx_inv h hf)

theorem returnPool_inv {st} (h : s.Inv) : (returnPool s st).Inv := holds_ite (setGusset_inv h) h

theorem dropStream_inv {st} (h : s.Inv) : (dropStream s st).Inv := mk_inv (returnPool_inv h)

theorem tearDown_inv {st} (h : s.Inv) : (tearDown s st).Inv := forOwner_inv (dropStream_inv h) (fun _ k => sweep_inv k)

theorem tearDownAll_inv {p} (h : s.Inv) : (tearDownAll s p).Inv := foldl_inv (fun _ _ k => tearDown_inv k) h

theorem discardStores_inv {code} (h : s.Inv) : (discardStores code s).Inv :=
  foldl_inv (fun _ _ k => holds_ite (writeRecord_inv k) k) h

theorem failWithout_inv {c} (h : s.Inv) : (failWithout s c).Inv :=
  mod_inv (tearDownAll_inv (withdrawOffers_inv (releaseLease_inv (stopOps_inv (discardStores_inv h)))))

theorem failUnit_inv {c addr} (h : s.Inv) : (failUnit s c addr).Inv := writeRecord_inv (failWithout_inv h)

theorem haltContext_inv (h : s.Inv) : (haltContext s).Inv :=
  mod_inv (withdrawOffers_inv (drainAccesses_inv (mod_inv (mod_inv (landDue_inv h)))))

theorem enterTrap_inv {c src n faddr slotId addr} (h : s.Inv) : (enterTrap s c src n faddr slotId addr).Inv := by
  unfold enterTrap
  split
  · exact holds_ite (mod_inv h) (failUnit_inv h)
  · extract_lets +onlyGivenNames t _ slot _ _ _
    have ht : t.Inv := haltContext_inv h
    split
    · rename_i e
      have hk := FstInv.of_eq e (writeFrame_inv ht)
      exact failUnit_inv hk
    · rename_i e
      have hk := FstInv.of_eq e (writeFrame_inv ht)
      exact mod_inv hk

theorem trapSync_inv {side c} (h : s.Inv) : (trapSync s side c).Inv := holds_ite h (enterTrap_inv h)

theorem unwindRegion_inv {c fa} (h : s.Inv) : (unwindRegion s c fa).Inv :=
  writeRecord_inv (mod_inv (withdrawOffers_inv (afterLease_inv (stopOps_inv (discardStores_inv (landDue_inv h))))))

theorem stopCancelled_inv (h : s.Inv) : (stopCancelled s).Inv :=
  mod_inv (tearDownAll_inv (releaseLease_inv (stopOps_inv (withdrawOffers_inv (drainAccesses_inv (mod_inv (landDue_inv h)))))))

theorem frameReads_inv (h : s.Inv) : (frameReads s).Inv := foldl_inv (fun _ _ k => partReads_inv k) h

theorem reloadFrame_inv {fm} (h : s.Inv) : (reloadFrame s fm).Inv := mod_inv h

theorem skipSlot_inv {a} (h : s.Inv) : (skipSlot s a).Inv :=
  holds_ite (mod_inv (holds_ite (mod_inv h) h)) (holds_ite (mod_inv h) h)

theorem reissueOne_inv {kept p} (h : s.Inv) : (reissueOne kept s p).Inv := by
  unfold reissueOne
  split
  · exact holds_ite (mod_inv h) (mod_inv h)
  · exact mod_inv h

theorem reissue_inv {fm id0} (h : s.Inv) : (reissue s fm id0).Inv := by
  unfold reissue
  extract_lets cause all t
  have ht : t.Inv := foldl_inv (fun _ _ k => reissueOne_inv k) (mod_inv h)
  exact settle_inv (holds_ite (elim_inv ht (fun _ => skipSlot_inv ht)) ht)

theorem noteTimer_inv (h : s.Inv) : (noteTimer s).Inv := holds_ite (mod_inv h) h

theorem returnWith_inv {bs} (h : s.Inv) : (returnWith s bs).Inv := by
  unfold returnWith
  extract_lets fm
  exact holds_ite (noteTimer_inv (reissue_inv (reloadFrame_inv h))) (failUnit_inv h)

theorem frameFault_inv {c va} (h : s.Inv) : (frameFault s c va).Inv := holds_ite (consumePoison_inv h) (failUnit_inv h)

theorem returnFromTrap_inv (h : s.Inv) : (returnFromTrap s).Inv := by
  unfold returnFromTrap
  split
  · exact frameFault_inv (frameReads_inv h)
  · exact returnWith_inv (frameReads_inv h)

theorem issueC_inv {gs cs len} {act : State → State} (h : s.Inv) (hact : ∀ t, t.Inv → (act t).Inv) :
    NextInv (issueC s gs cs len act) :=
  holds_ite (trapSync_inv h) (holds_ite h (retire_inv (hact _ h)))

theorem orTrap_inv {side bad c} {k : Result} (h : s.Inv) (hk : NextInv k) : NextInv (orTrap s side bad c k) :=
  holds_ite (holds_ite (trapSync_inv h) h) hk

theorem orTrapG_inv {gs bad c} {k : Result} (h : s.Inv) (hk : NextInv k) : NextInv (orTrapG s gs bad c k) :=
  holds_ite h (holds_ite (trapSync_inv h) hk)

/-! ## Loads and stores -/

theorem accessC_inv {gs len lqs misaligned a} (h : s.Inv) : NextInv (accessC s gs len lqs misaligned a) := by
  unfold accessC
  split
  · exact h
  · split
    · exact trapSync_inv h
    · exact holds_ite (trapSync_inv h) (holds_ite h (retire_inv (issueAccess_inv (mod_inv (mod_inv h)))))

theorem loadRows_inv {gs len lqs misaligned a} (h : s.Inv) : NextInv (loadRows s gs len lqs misaligned a) :=
  holds_ite (holds_ite h (retire_inv (issueAccess_inv (mod_inv h)))) (accessC_inv h)

theorem loadC_inv {n sg d b cls u o} (h : s.Inv) : NextInv (loadC n sg d b cls u o s) := accessC_inv h

theorem storeC_inv {n d b cls u o} (h : s.Inv) : NextInv (storeC n d b cls u o s) := accessC_inv h

theorem execVlds_inv {a r} (h : s.Inv) : NextInv (execVlds a r s) := by
  unfold execVlds
  extract_lets +onlyGivenNames _ _
  split
  · exact loadRows_inv h
  · exact holds_ite (holds_ite h (retire_inv (issueAccess_inv (mod_inv h)))) (orTrapG_inv h h)

theorem execVsts_inv {a r} (h : s.Inv) : NextInv (execVsts a r s) := by
  unfold execVsts
  extract_lets _ _
  split
  · exact accessC_inv h
  · exact orTrapG_inv h h

theorem amoC_inv {n d a b cls o} (h : s.Inv) : NextInv (amoC n d a b cls o s) := orTrap_inv h (accessC_inv h)

theorem casC_inv {n d a b cls} (h : s.Inv) : NextInv (casC n d a b cls s) := accessC_inv h

/-! ## Cache operations -/

theorem reachHere_inv {va} (h : s.Inv) : (reachHere s va).Inv := reach_inv h

theorem pinLines_inv {ea n i} (h : s.Inv) : FstInv (pinLines ea n i s) := by
  induction n generalizing i s with
  | zero => exact h
  | succ n ih =>
    unfold pinLines
    dsimp only
    split
    · exact ih (reachHere_inv h)
    · exact ih (setPin_inv (reachHere_inv h))
    · exact reachHere_inv h

theorem askLines_inv {ea n} (h : s.Inv) : (askLines ea n s).Inv := requestLates_inv h

theorem execPin_inv {d a b} (h : s.Inv) : NextInv (execPin d a b s) := by
  unfold execPin
  refine issueC_inv h (fun _ k => ?_)
  split
  rename_i e
  have hk := FstInv.of_eq e (pinLines_inv k)
  exact mod_inv (writePincnt_inv (askLines_inv hk))

theorem unpinLines_inv {ea n} (h : s.Inv) : (unpinLines ea n s).Inv := by
  unfold unpinLines
  refine foldl_inv (fun _ _ k => ?_) h
  extract_lets t
  have ht : t.Inv := reachHere_inv k
  split
  · exact holds_ite (setPin_inv ht) ht
  · exact ht

theorem execUnpin_inv {a b} (h : s.Inv) : NextInv (execUnpin a b s) :=
  issueC_inv h (fun _ k => mod_inv (writePincnt_inv (askLines_inv (unpinLines_inv k))))

theorem cacheC_inv {fn a b cls} (h : s.Inv) : NextInv (cacheC fn a b cls s) := accessC_inv h

theorem touchLines_inv {ea n excl} (h : s.Inv) : (touchLines ea n excl s).Inv := by
  unfold touchLines
  refine foldl_inv (fun _ _ k => ?_) h
  extract_lets +onlyGivenNames t
  have ht : t.Inv := reachHere_inv k
  split
  · split
    · exact holds_ite (setMapped_inv (recallLine_inv (touchStash_inv (touchSlice_inv (drawn_inv ht)))))
        (touchStash_inv (touchSlice_inv (drawn_inv ht)))
    · exact drawn_inv ht
  · exact ht

/-! ## Launch -/

theorem discardImage_inv {ident} (h : s.Inv) : (discardImage s ident).Inv :=
  withCtx_inv h (fun _ k => sweep_inv (mod_inv (stopOps_inv (mod_inv k))))

theorem cancelWaiting_inv {slot p} (h : s.Inv) : (cancelWaiting s slot p).Inv := by
  unfold cancelWaiting
  extract_lets _ _ _ _ _ t t1 _ t2
  have ht : t.Inv := by
    unfold t
    refine foldl_inv (fun _ _ k => ?_) h
    split
    · exact discardImage_inv k
    · exact k
  have ht1 : t1.Inv := keepParked_inv ht
  have ht2 : t2.Inv := mk_inv ht1
  exact freeBarriers_inv (cancelUnits_inv ht2)

theorem cancelSpilled_inv {slot p} (h : s.Inv) : (cancelSpilled s slot p).Inv := freeBarriers_inv (cancelUnits_inv (mk_inv h))

theorem stopWalk_inv {slot} (h : s.Inv) : (stopWalk s slot).Inv := by
  unfold stopWalk
  split
  · exact h
  · extract_lets _ t
    have ht : t.Inv := modSlot_inv h
    exact cancelWaiting_inv (cancelUnits_inv ht)

theorem stopLaunch_inv {slot} (h : s.Inv) : (stopLaunch s slot).Inv := cancelSpilled_inv (stopWalk_inv h)

theorem stopResident_inv {p} (h : s.Inv) : (stopResident s p).Inv := mk_inv h

theorem passDeadline_inv {slot} (h : s.Inv) : (passDeadline s slot).Inv := by
  unfold passDeadline
  split
  · exact h
  · exact holds_ite h (holds_ite (retireLaunch_inv (stopLaunch_inv (modSlot_inv h))) (modSlot_inv h))

theorem cancelLaunch_inv {slot} (h : s.Inv) : (cancelLaunch s slot).Inv := stopResident_inv (modSlot_inv (stopWalk_inv h))

theorem cancelUnit_inv {slot seq} (h : s.Inv) : (cancelUnit s slot seq).Inv := by
  unfold cancelUnit
  split
  · exact h
  · extract_lets t t1
    have ht : t.Inv := holds_ite (modSlot_inv (cancelUnits_inv h)) h
    have ht1 : t1.Inv := cancelSpilled_inv (cancelWaiting_inv ht)
    exact stopResident_inv ht1

theorem cancelGraph_inv {asid g} (h : s.Inv) : (cancelGraph s asid g).Inv := by
  unfold cancelGraph
  split
  · exact h
  · extract_lets t
    have ht : t.Inv := by
      unfold t
      split
      · exact setJob_inv h
      · exact h
    exact foldl_inv (fun _ _ k => cancelLaunch_inv k) ht

theorem cancelPhase_inv {asid p} (h : s.Inv) : (cancelPhase s asid p).Inv := by
  unfold cancelPhase
  extract_lets t
  have ht : t.Inv := by
    unfold t
    split
    · exact setJob_inv h
    · exact h
  exact foldl_inv (fun _ _ k => cancelLaunch_inv k) ht

theorem cancelLaunches_inv {asid} (h : s.Inv) : (cancelLaunches s asid).Inv := foldl_inv (fun _ _ k => cancelLaunch_inv k) h

/-! ## Lines -/

theorem obtain_inv {places slack u va} (h : s.Inv) : (obtain s places slack u va).Inv :=
  holds_ite h (walkFill_inv (walkLates_inv h))

theorem takeLine_inv {o r stage} (h : s.Inv) : (takeLine s o r stage).Inv := by
  unfold takeLine
  extract_lets +onlyGivenNames _ _
  split
  · extract_lets _ t
    have ht : t.Inv := holds_ite h (readHome_inv h)
    exact mod_inv (holds_ite (touchStash_inv ht) ht)
  · exact holds_ite (mod_inv h) (mod_inv h)
  · exact h

theorem askLine_inv {o r} (h : s.Inv) : OnSome State.Inv (askLine s o r) :=
  holds_ite (takeLine_inv h) (holds_ite (inject_inv (mod_inv h)) trivial)

theorem seekLine_inv {o pipe u chk slack planes va mask} (h : s.Inv) :
    OnOk State.Inv (seekLine s o pipe u chk slack planes va mask) := by
  unfold seekLine
  split
  · trivial
  · extract_lets _
    split
    · rename_i e
      have hk := OnSome.of_eq e (askLine_inv (obtain_inv h))
      exact hk
    · exact h

theorem performWrite_inv {o w stage} (h : s.Inv) : (performWrite s o w stage).Inv := by
  unfold performWrite
  extract_lets +onlyGivenNames done
  have hdone : ∀ x y z, x.Inv → (done x y z).Inv := fun _ _ _ k => mod_inv k
  split
  rename_i e
  have hk := FstInv.of_eq e (holds_ite (mk_inv h) h)
  extract_lets +onlyGivenNames s'
  have hs' : s'.Inv := mod_inv hk
  split
  · extract_lets s'1
    have hs'1 : s'1.Inv := storeStream_inv hs'
    exact hdone _ _ _ (holds_ite (touchStash_inv hs'1) hs'1)
  · exact holds_ite (hdone _ _ _ (storeWindow_inv hs')) (hdone _ _ _ hk)
  · exact hk

theorem sendWrite_inv {o w} (h : s.Inv) : OnSome State.Inv (sendWrite s o w) :=
  holds_ite (performWrite_inv h) (holds_ite (injectAll_inv (mod_inv h)) trivial)

theorem putLine_inv {o chk slack va bs} (h : s.Inv) : OnOk State.Inv (putLine s o chk slack va bs) := by
  unfold putLine
  split
  · trivial
  · extract_lets _
    exact getD_inv (sendWrite_inv (obtain_inv h)) h

theorem serveOp_inv {p} (h : s.Inv) : (serveOp s p).Inv := by
  unfold serveOp
  split
  · exact h
  · split
    · exact holds_ite (takeLine_inv h) h
    · exact holds_ite (performWrite_inv h) h
    · exact h

theorem opToPeer_inv {p} (h : s.Inv) : (opToPeer s p).Inv := by
  unfold opToPeer
  split
  · exact h
  · split
    · exact holds_ite h (holds_ite (mk_inv (mod_inv h)) (mod_inv h))
    · exact holds_ite h (holds_ite (mk_inv (mod_inv h)) (mod_inv h))
    · exact h

/-! ## Sync -/

theorem flagC_inv {n} {k : Result} (h : s.Inv) (hk : NextInv k) : NextInv (flagC n s k) := orTrap_inv h hk

theorem execFlagWait_inv {d a n} (h : s.Inv) : NextInv (execFlagWait d a n s) :=
  flagC_inv h (holds_ite h (issueC_inv h (fun _ k => mod_inv k)))

theorem execFlagWaitSub_inv {d a n} (h : s.Inv) : NextInv (execFlagWaitSub d a n s) :=
  flagC_inv h (holds_ite h (issueC_inv h (fun _ k => mod_inv k)))

theorem addMarker_inv {mask ident slack dst arb} (h : s.Inv) : (addMarker mask ident slack dst s arb).Inv :=
  mk_inv (setArbiter_inv h)

theorem sendMarkers_inv {mask ident} (h : s.Inv) : (sendMarkers s mask ident).Inv := foldl_inv (fun _ _ k => addMarker_inv k) h

theorem execFence_inv {sc m} (h : s.Inv) : NextInv (execFence sc m s) := by
  unfold execFence
  split
  · exact h
  · split
    · exact holds_ite h (holds_ite (mod_inv (sendMarkers_inv h)) (holds_ite (retire_inv h) h))
    · exact holds_ite (retire_inv (mod_inv h)) h

theorem setBarrier_inv {n v} (h : s.Inv) : (setBarrier s n v).Inv := setArray_inv h

theorem execBarArrive_inv {n} (h : s.Inv) : NextInv (execBarArrive n s) :=
  orTrap_inv h (holds_ite h (issueC_inv h (fun _ k => mod_inv (setBarrier_inv k))))

theorem probeFault_inv {fn c ea} (h : s.Inv) : (probeFault s fn c ea).Inv := holds_ite h (mod_inv h)

theorem consume_inv {ea} (h : s.Inv) : (consume s ea).Inv := consumePoison_inv h

theorem spawnFrom_inv {ea bs} (h : s.Inv) : NextInv (spawnFrom s ea bs) :=
  holds_ite (trapSync_inv h) (retire_inv (mod_inv (raiseCount_inv h)))

theorem recordTurn_inv {ea} (h : s.Inv) : NextInv (recordTurn s ea) := by
  unfold recordTurn
  split
  · exact mod_inv h
  · split
    · split
      · rename_i e
        have hk := OnOk.of_eq e (seekLine_inv h)
        exact hk
      · exact probeFault_inv (mod_inv h)
    · split
      · exact h
      · split
        · exact probeFault_inv (mod_inv h)
        · exact spawnFrom_inv (mod_inv h)

theorem execTspawn_inv {a} (h : s.Inv) : NextInv (execTspawn a s) := by
  unfold execTspawn
  refine orTrap_inv h ?_
  extract_lets _
  split
  · exact h
  · split
    · exact trapSync_inv h
    · split
      · exact h
      · split
        · exact recordTurn_inv h
        · split
          · exact probeFault_inv h
          · exact consume_inv h
          · exact spawnFrom_inv (partReads_inv h)

theorem squashUnit_inv {va} (h : s.Inv) : (squashUnit s va).Inv :=
  mod_inv (parkUnit_inv (releaseLease_inv (stopOps_inv (mod_inv h))))

theorem execFutRd_inv {d a} (h : s.Inv) : NextInv (execFutRd d a s) := by
  unfold execFutRd
  refine orTrap_inv h ?_
  extract_lets +onlyGivenNames _
  split
  · exact h
  · split
    · exact trapSync_inv h
    · split
      · exact h
      · split
        · exact probeFault_inv h
        · extract_lets _
          split
          · exact consume_inv h
          · split
            · exact retire_inv (mod_inv (walkFill_inv h))
            · exact holds_ite (trapSync_inv h) (holds_ite h (squashUnit_inv h))

theorem execFutFill_inv {d a b} (h : s.Inv) : NextInv (execFutFill d a b s) := by
  unfold execFutFill
  extract_lets +onlyGivenNames _
  split
  · exact h
  · split
    · exact trapSync_inv h
    · split
      · exact h
      · split
        · exact probeFault_inv h
        · split
          · exact consume_inv h
          · extract_lets _ _ s' s'1 s'2
            have hs' : s'.Inv := walkFill_inv h
            have hs'1 : s'1.Inv := holds_ite hs' (storeBytes_inv hs')
            have hs'2 : s'2.Inv := mod_inv hs'1
            exact retire_inv (wakeParked_inv hs'2)

/-! ## Admission -/

theorem setRing_inv {r} (h : s.Inv) : (setRing s r).Inv := mk_inv h

theorem execRingInstall_inv {ring cfg} (h : s.Inv) : NextInv (execRingInstall ring cfg s) :=
  holds_ite h (holds_ite (setRing_inv h) (setJob_inv (setRing_inv h)))

theorem ringEvent_inv {n cause code index detail} (h : s.Inv) : FstInv (ringEvent s n cause code index detail) := by
  unfold ringEvent
  extract_lets +onlyGivenNames _ _
  split
  · rename_i e
    have hk := OnSome.of_eq e (storeIn_inv h)
    extract_lets _
    exact hostEvent_inv (setRing_inv hk)
  · exact h

theorem ringFaultAt_inv {n index va} (h : s.Inv) : (ringFaultAt s n index va).Inv := ringEvent_inv (setRing_inv h)

theorem ringFault_inv {n va} (h : s.Inv) : (ringFault s n va).Inv := ringFaultAt_inv h

theorem recordRing_inv {n cause code index detail} (h : s.Inv) : (recordRing s n cause code index detail).Inv := by
  unfold recordRing
  split
  · rename_i e
    exact FstInv.of_eq e (ringEvent_inv h)
  · rename_i e
    have hk := FstInv.of_eq e (ringEvent_inv h)
    exact ringFault_inv hk

theorem execTailWrite_inv {ring v} (h : s.Inv) : NextInv (execTailWrite ring v s) :=
  holds_ite h (holds_ite (recordRing_inv (setRing_inv h)) (setRing_inv h))

theorem consumeHead_inv {n} (h : s.Inv) : (consumeHead s n).Inv := by
  unfold consumeHead
  extract_lets +onlyGivenNames _ _
  split
  · exact ringFault_inv h
  · rename_i e
    have hk := OnSome.of_eq e (storeIn_inv h)
    extract_lets t
    have ht : t.Inv := setRing_inv hk
    split
    · exact ringFault_inv ht
    · rename_i e
      have hk := OnSome.of_eq e (storeIn_inv ht)
      exact hk

theorem noteTurn_inv {n x admitted} (h : s.Inv) : (noteTurn s n x admitted).Inv := setRing_inv h

theorem admitLaunch_inv {n slot x hd t} (h : s.Inv) : (admitLaunch s n slot x hd t).Inv := by
  unfold admitLaunch
  extract_lets _ _ _ _ _ t1 t2 t3 t4
  have ht1 : t1.Inv := setJob_inv h
  have ht2 : t2.Inv := noteTurn_inv (mk_inv ht1)
  have ht3 : t3.Inv := consumeHead_inv ht2
  have ht4 : t4.Inv := sealPhases_inv ht3
  exact holds_ite (passDeadline_inv ht4) ht4

theorem consumeWith_inv {n x status code} (h : s.Inv) : (consumeWith s n x status code).Inv := by
  unfold consumeWith
  extract_lets _ t t1 _ t2 t3
  have ht : t.Inv := writeDone_inv h
  have ht1 : t1.Inv := holds_ite (recordRing_inv ht) ht
  have ht2 : t2.Inv := holds_ite ht1 (setJob_inv ht1)
  have ht3 : t3.Inv := consumeHead_inv (noteTurn_inv ht2)
  exact holds_ite ht3 (retireGraph_inv ht3)

theorem recheck_inv {n b x} (h : s.Inv) : (recheck s n b x).Inv := holds_ite h (setRing_inv h)

theorem ringTurn_inv {n} (h : s.Inv) : OnSome State.Inv (ringTurn s n) := by
  unfold ringTurn
  extract_lets +onlyGivenNames _
  split
  · trivial
  · extract_lets +onlyGivenNames _
    split
    · exact ringFaultAt_inv h
    · split
      · trivial
      · split
        · trivial
        · extract_lets t
          have ht : t.Inv := holds_ite (recheck_inv h) (setRing_inv h)
          split
          · exact consumeWith_inv ht
          · split
            · exact consumeWith_inv ht
            · split
              · exact consumeWith_inv ht
              · split
                · exact holds_ite (admitLaunch_inv ht) trivial
                · exact consumeWith_inv ht
                · trivial

theorem firstTurn_inv {ns} (h : s.Inv) : OnSome SndInv (firstTurn s ns) := by
  induction ns with
  | nil => trivial
  | cons n ns ih =>
    unfold firstTurn
    split
    · rename_i e
      have hk := OnSome.of_eq e (ringTurn_inv h)
      exact hk
    · exact ih

theorem noteAdmission_inv {n before} (h : s.Inv) : (noteAdmission before n s).Inv := by
  unfold noteAdmission
  extract_lets _ batch
  have hbatch : batch.Inv := foldl_inv (fun _ _ k => noteRead_inv k) h
  split
  · exact hbatch
  · exact foldl_inv (fun _ _ k => noteRead_inv k) (noteRead_inv hbatch)

theorem execAdmissionTurn_inv (h : s.Inv) : NextInv (execAdmissionTurn s) := by
  unfold execAdmissionTurn
  extract_lets +onlyGivenNames _
  split
  · rename_i e
    have hk := OnSome.of_eq e (firstTurn_inv h)
    exact mk_inv (noteAdmission_inv hk)
  · exact h

theorem execRingStallEpisode_inv {ring} (h : s.Inv) : NextInv (execRingStallEpisode ring s) := by
  unfold execRingStallEpisode
  extract_lets _
  split
  · split
    · exact recordRing_inv (setRing_inv h)
    · exact ringFault_inv h
  · exact h

theorem setMatch_inv {m} (h : s.Inv) : (setMatch s m).Inv := mk_inv h

theorem execMatchEntryArm_inv {e} (h : s.Inv) : NextInv (execMatchEntryArm e s) := by
  unfold execMatchEntryArm
  extract_lets +onlyGivenNames _
  split
  · exact h
  · extract_lets bad
    have hbad : NextInv bad := setMatch_inv h
    split
    · exact hbad
    · split
      · exact hbad
      · split
        · exact hbad
        · exact holds_ite hbad (raiseCount_inv (setMatch_inv h))

theorem countMatch_inv {tag asid n} (h : s.Inv) : (countMatch s tag asid n).Inv := by
  unfold countMatch
  split
  · exact h
  · extract_lets +onlyGivenNames _
    split
    · exact setMatch_inv h
    · extract_lets t
      have ht : t.Inv := setMatch_inv h
      split
      · exact offerTask_inv ht
      · exact ht

theorem cancelAt_inv {lv v} {job : State → BitVec 16 → State} (h : s.Inv) (hjob : ∀ t x, t.Inv → (job t x).Inv) :
    (cancelAt s lv v job).Inv := by
  unfold cancelAt
  split
  · exact cancelUnit_inv h
  · exact cancelLaunch_inv h
  · exact cancelGraph_inv h
  · exact cancelPhase_inv h
  · exact hjob _ _ h

/-! ## Branches -/

theorem orMeet_inv {k : Result} (h : s.Inv) (hk : NextInv k) : NextInv (orMeet s k) :=
  holds_ite (holds_ite h (holds_ite (trapSync_inv h) hk)) hk

theorem pushTransfer_inv {taken target tagged} (h : s.Inv) : (pushTransfer s taken target tagged).Inv := mod_inv h

theorem transferC_inv {gs cs taken target link} (h : s.Inv) : NextInv (transferC s gs cs taken target link) := by
  unfold transferC
  refine orTrap_inv h (orMeet_inv h ?_)
  split
  · exact trapSync_inv h
  · split
    · exact h
    · split
      · exact trapSync_inv h
      · split
        · exact trapSync_inv h
        · split
          · exact h
          · extract_lets s' s'1
            have hs' : s'.Inv := pushTransfer_inv h
            have hs'1 : s'1.Inv := by
              unfold s'1
              split
              · exact mod_inv hs'
              · exact hs'
            exact retire_inv hs'1

theorem transferX_inv (h : s.Inv) : NextInv (transferX s) := by
  unfold transferX
  split
  · exact h
  · split
    · exact holds_ite (trapSync_inv h) h
    · split
      · exact h
      · split
        · exact trapSync_inv h
        · exact holds_ite (trapSync_inv h) (settle_inv (retire_inv (mod_inv (mod_inv (landDue_inv h)))))

theorem branchC_inv {b c sense hint} (h : s.Inv) : NextInv (branchC s b c sense hint) := by
  unfold branchC
  extract_lets +onlyGivenNames _
  split
  · split
    · exact orTrap_inv h (orMeet_inv h (holds_ite h (retire_inv (mod_inv (pushTransfer_inv h)))))
    · exact transferC_inv h
  · exact transferC_inv h

theorem bothSlices_inv {control execute : Result} (hcontrol : NextInv control) (hexecute : NextInv execute) :
    NextInv (bothSlices s control execute) := by
  unfold bothSlices
  split
  · exact hcontrol
  · exact hexecute

theorem continueAfter_inv {b taken} (h : s.Inv) : (continueAfter s b taken).Inv := holds_ite (jumpTo_inv h) (stepSequence_inv h)

theorem resolvePrediction_inv {b} (h : s.Inv) : (resolvePrediction s b).Inv := by
  unfold resolvePrediction
  extract_lets +onlyGivenNames _
  split
  · extract_lets +onlyGivenNames t t1 t2
    have ht : t.Inv := mod_inv h
    have ht1 : t1.Inv := holds_ite (mod_inv ht) ht
    have ht2 : t2.Inv := mod_inv ht1
    split <;> exact mod_inv ht2
  · extract_lets t
    have ht : t.Inv := mod_inv h
    split
    · exact mod_inv ht
    · exact continueAfter_inv ht

theorem resolveUnresolved_inv (h : s.Inv) : OnSome State.Inv (resolveUnresolved s) := by
  unfold resolveUnresolved
  split
  · trivial
  · exact holds_ite (trapSync_inv h) (holds_ite trivial (continueAfter_inv (mod_inv h)))

theorem startLoop_inv {side l count len} (h : s.Inv) : (startLoop s side l count len).Inv := stepSequence_inv (mod_inv h)

theorem loopC_inv {l gs count len} (h : s.Inv) : NextInv (loopC s l gs count len) := orTrap_inv h (holds_ite h (startLoop_inv h))

theorem claimVote_inv {c} (h : s.Inv) : NextInv (claimVote s c) :=
  holds_ite (trapSync_inv h) (holds_ite h (retire_inv (mod_inv h)))

theorem popVq_inv {d both} (h : s.Inv) : NextInv (popVq s d both) := by
  unfold popVq
  split
  · exact h
  · split
    · exact trapSync_inv h
    · split
      · exact h
      · split
        · exact h
        · exact holds_ite (retire_inv (mod_inv h)) h

theorem pushVote_inv {value} (h : s.Inv) : NextInv (pushVote s value) :=
  holds_ite h (retire_inv (mod_inv (mod_inv (landDue_inv h))))

/-! ## Row writers -/

theorem setStream_inv {st} (h : s.Inv) : (setStream s st).Inv := mk_inv h

theorem frameDone_inv {st} (h : s.Inv) : (frameDone s st).Inv :=
  holds_ite (forOwner_inv (setStream_inv h) (fun _ k => countFlag_inv k)) (setStream_inv h)

theorem writerFlit_inv {st f} (h : s.Inv) : OnOk State.Inv (writerFlit s st f) := by
  unfold writerFlit
  split
  · trivial
  · extract_lets _
    exact storeStream_inv (reach_inv h)

theorem writerFault_inv {st c va} (h : s.Inv) : (writerFault s st c va).Inv :=
  forOwner_inv (dropStream_inv h) (fun _ k => sweep_inv (holds_ite (countFlag_inv (writeRecord_inv k)) (writeRecord_inv k)))

theorem flitDone_inv {st done} (h : s.Inv) : (flitDone s st done).Inv := holds_ite (frameDone_inv h) h

theorem rowWritten_inv {st} (h : s.Inv) : (rowWritten s st).Inv := by
  unfold rowWritten
  split
  · exact h
  · split
    · exact writerFault_inv h
    · rename_i e
      have hk := OnOk.of_eq e (writerFlit_inv h)
      exact flitDone_inv (setStream_inv hk)

theorem rowTurn_inv {st} (h : s.Inv) : (rowTurn s st).Inv := by
  unfold rowTurn
  split
  · exact h
  · split
    · exact writerFault_inv h
    · exact holds_ite (rowWritten_inv h) (holds_ite (inject_inv (setStream_inv h)) h)

theorem rowPerform_inv {p} (h : s.Inv) : (rowPerform s p).Inv := by
  unfold rowPerform
  split
  · exact rowWritten_inv h
  · exact h

/-! ## Memory events -/

theorem offerOne_inv {a} (h : s.Inv) : (offerOne s a).Inv := by
  unfold offerOne
  split
  · split
    · split
      · rename_i e
        have hk := OnSome.of_eq e (offerFault_inv h)
        exact mod_inv hk
      · exact mod_inv h
    · exact h
  · exact h

theorem offerFaults_inv (h : s.Inv) : (offerFaults s).Inv := foldl_inv (fun _ _ k => offerOne_inv k) h

theorem dropFetched_inv (h : s.Inv) : (dropFetched s).Inv := mod_inv h

theorem failWalkers_inv {asid page c} (h : s.Inv) : (failWalkers asid page c s).Inv :=
  holds_ite h (foldl_inv (fun _ _ k => holds_ite k (mod_inv k)) h)

theorem execPageWalkComplete_inv {n} (h : s.Inv) : NextInv (execPageWalkComplete n s) := by
  unfold execPageWalkComplete
  split
  · exact h
  · extract_lets _ s' finish
    have hs' : s'.Inv := walkFill_inv (walkLates_inv h)
    have hfinish : ∀ x, x.Inv → (finish x).Inv := by
      intro _ k
      unfold finish
      split
      · exact offerFaults_inv (settle_inv (dropFetched_inv k))
      · exact offerFaults_inv (settle_inv (failWalkers_inv k))
    exact foldl_inv (fun _ _ k => withCtx_inv k hfinish) hs'

theorem reply_inv {p flits} (h : s.Inv) : (reply s p flits).Inv := injectAll_inv h

theorem act_inv {p} (h : s.Inv) : (act s p).Inv := by
  unfold act
  split
  · exact rowPerform_inv h
  · refine withCtx_inv h (fun _ k => ?_)
    split
    · exact performLine_inv k
    · exact serveOp_inv k

theorem serve_inv {p} (h : s.Inv) : (serve s p).Inv := holds_ite (modPacket_inv h) (holds_ite (act_inv h) (reply_inv (act_inv h)))

theorem toPeer_inv {p} (h : s.Inv) : (toPeer s p).Inv := by
  unfold toPeer
  refine withCtx_inv h (fun _ k => ?_)
  split
  · exact opToPeer_inv k
  · exact holds_ite k (holds_ite (mk_inv (mod_inv k)) (mod_inv k))

theorem countReply_inv {p} (h : s.Inv) : (countReply p s).Inv := holds_ite (countLate_inv h) h

theorem toRequester_inv {p} (h : s.Inv) : (toRequester s p).Inv :=
  holds_ite (modPacket_inv h) (holds_ite h (withCtx_inv h (fun _ k => countReply_inv (mod_inv k))))

theorem toFence_inv {p} (h : s.Inv) : (toFence s p).Inv := holds_ite h (withCtx_inv h (fun _ k => countReply_inv (mod_inv k)))

theorem arrive_inv {a p} (h : s.Inv) : (arrive s a p).Inv := by
  unfold arrive
  split
  · exact holds_ite (holds_ite (modPacket_inv h) (toPeer_inv h)) (holds_ite (addRequest_inv h) (serve_inv h))
  · exact addRequest_inv h
  · exact toRequester_inv h
  · exact toFence_inv h
  · exact h

theorem moveMarker_inv {a p} (h : s.Inv) : (moveMarker s a p).Inv := by
  unfold moveMarker
  extract_lets +onlyGivenNames t
  have ht : t.Inv := foldl_inv (fun _ _ k => mk_inv (addRequest_inv k)) h
  split
  · split
    · extract_lets _
      exact setArbiter_inv ht
    · exact ht
  · exact ht

theorem execArbiterGrant_inv {arb} (h : s.Inv) : NextInv (execArbiterGrant arb s) := by
  unfold execArbiterGrant
  extract_lets +onlyGivenNames _
  split
  · exact h
  · extract_lets +onlyGivenNames _ s'
    have hs' : s'.Inv := setArbiter_inv h
    split
    · exact moveMarker_inv hs'
    · split
      · extract_lets _
        exact setArbiter_inv hs'
      · exact arrive_inv hs'

theorem keepFill_inv {slice p} (h : s.Inv) : (keepFill s slice p).Inv := holds_ite (setSlice_inv h) h

theorem execSliceRequestGrant_inv {slice} (h : s.Inv) : NextInv (execSliceRequestGrant slice s) := by
  unfold execSliceRequestGrant
  extract_lets +onlyGivenNames _
  split
  · exact h
  · split
    · exact h
    · extract_lets +onlyGivenNames _
      split
      · exact setSlice_inv h
      · exact holds_ite (keepFill_inv (serve_inv (setSlice_inv h))) (setSlice_inv (act_inv (setSlice_inv h)))

theorem execSliceFillComplete_inv {slice} (h : s.Inv) : NextInv (execSliceFillComplete slice s) := by
  unfold execSliceFillComplete
  extract_lets _
  split
  · exact h
  · split
    · exact h
    · exact keepFill_inv (serve_inv (setSlice_inv h))

theorem execWindowAccessServe_inv {core} (h : s.Inv) : NextInv (execWindowAccessServe core s) := by
  unfold execWindowAccessServe
  extract_lets +onlyGivenNames _
  split
  · exact h
  · extract_lets t _
    have ht : t.Inv := serve_inv (setCore_inv h)
    exact holds_ite (setCore_inv ht) ht

theorem performOwn_inv {a} (h : s.Inv) : (performOwn s a).Inv :=
  foldl_inv (fun _ _ k => holds_ite (performLine_inv k) (holds_ite (mod_inv (performLine_inv k)) k)) h

theorem finishAccess_inv {a} (h : s.Inv) : (finishAccess s a).Inv := by
  unfold finishAccess
  extract_lets t
  have ht : t.Inv := performOwn_inv h
  split
  · split
    · exact holds_ite (settle_inv (mod_inv (cacheEffect_inv ht))) ht
    · split
      · exact settle_inv (mod_inv ht)
      · exact holds_ite (settle_inv (deliver_inv ht)) (offerFaults_inv (settle_inv ht))
  · exact ht

theorem execLoadReply_inv {n} (h : s.Inv) : NextInv (execLoadReply n s) := by
  unfold execLoadReply
  split
  · exact sweep_inv (finishAccess_inv h)
  · exact h

theorem execWriteAcknowledgment_inv {n} (h : s.Inv) : NextInv (execWriteAcknowledgment n s) := by
  unfold execWriteAcknowledgment
  split
  · exact sweep_inv (finishAccess_inv h)
  · exact h

theorem execVotePop_inv (h : s.Inv) : NextInv (execVotePop s) := by
  unfold execVotePop
  split
  · split
    · exact h
    · extract_lets s'
      have hs' : s'.Inv := mod_inv h
      split
      · exact holds_ite (settle_inv (resolvePrediction_inv hs')) hs'
      · exact hs'
  · exact h

/-! ## Interrupts -/

theorem execTrapEntry_inv (h : s.Inv) : NextInv (execTrapEntry s) := by
  unfold execTrapEntry
  extract_lets t
  have ht : t.Inv := offerFaults_inv h
  split
  · exact ht
  · split
    · exact enterTrap_inv ht
    · exact enterTrap_inv ht
    · exact ht

theorem execUnwind_inv (h : s.Inv) : NextInv (execUnwind s) := by
  unfold execUnwind
  split
  · exact h
  · split
    · exact unwindRegion_inv h
    · exact unwindRegion_inv h
    · exact h

theorem execUnitFail_inv (h : s.Inv) : NextInv (execUnitFail s) := by
  unfold execUnitFail
  split
  · exact h
  · split
    · exact failUnit_inv h
    · split
      · exact holds_ite h (failUnit_inv h)
      · exact h

theorem execCancelStop_inv (h : s.Inv) : NextInv (execCancelStop s) := by
  unfold execCancelStop
  split
  · exact h
  · split
    · exact stopCancelled_inv h
    · split
      · exact stopCancelled_inv h
      · exact h

/-! ## Scheduler -/

theorem enterQueue_inv {g afw e} (h : s.Inv) : OnSome State.Inv (enterQueue s g afw e) := by
  unfold enterQueue
  extract_lets _ put
  have hput : ∀ x, (put x).Inv := fun _ => mk_inv h
  split
  · exact holds_ite (hput _) (holds_ite (hput _) trivial)
  · exact holds_ite (hput _) trivial

theorem joinFrom_inv {es} (h : s.Inv) : (joinFrom es s).Inv := by
  induction es generalizing s with
  | nil => exact h
  | cons e es ih =>
    unfold joinFrom
    split
    · rename_i eq
      have hk := OnSome.of_eq eq (enterQueue_inv h)
      exact ih (mk_inv hk)
    · exact h

theorem joinQueues_inv (h : s.Inv) : (joinQueues s).Inv := joinFrom_inv h

theorem execWalkerStep_inv (h : s.Inv) : NextInv (execWalkerStep s) := by
  unfold execWalkerStep
  extract_lets +onlyGivenNames t
  have ht : t.Inv := joinQueues_inv h
  split
  · exact ht
  · split
    · exact ht
    · extract_lets +onlyGivenNames _ s1
      have hs1 : s1.Inv := modSlot_inv ht
      split
      · exact retireLaunch_inv hs1
      · extract_lets _ _ s2
        have hs2 : s2.Inv := holds_ite hs1 (walkFill_inv hs1)
        split
        · rename_i e
          have hk := OnSome.of_eq e (enterQueue_inv hs2)
          exact hk
        · exact ht

theorem execCommonQueueMove_inv (h : s.Inv) : NextInv (execCommonQueueMove s) := by
  unfold execCommonQueueMove
  extract_lets +onlyGivenNames t _ oldest
  have ht : t.Inv := joinQueues_inv h
  clear_value oldest
  split
  · exact ht
  · exact holds_ite ht (mk_inv ht)

theorem toFirstWords_inv (h : s.Inv) : (toFirstWords s).Inv := mod_inv h

theorem drawSave_inv (h : s.Inv) : (drawSave s).Inv := by
  unfold drawSave
  extract_lets _
  split
  · exact mod_inv (setJob_inv h)
  · exact h

theorem allocBarriers_inv {cluster slot nbar} (h : s.Inv) : (allocBarriers s cluster slot nbar).Inv :=
  holds_ite h (setArray_inv h)

theorem startUnit_inv {core u} (h : s.Inv) : (startUnit s core u).Inv :=
  withCtx_inv (allocBarriers_inv (replaceWindow_inv h)) (fun _ k => drawSave_inv (toFirstWords_inv (mk_inv k)))

theorem writeImage_inv (h : s.Inv) : (writeImage s).Inv := by
  unfold writeImage
  split
  · extract_lets _ _ _ s' _ s'1 _
    have hs' : s'.Inv := foldl_inv (fun _ _ k => storeBytes_inv k) h
    have hs'1 : s'1.Inv := storeBytes_inv hs'
    exact mk_inv hs'1
  · exact h

theorem cleanStash_inv {core} (h : s.Inv) : (cleanStash s core).Inv := foldl_inv (fun _ _ k => writeBackOwn_inv k) h

theorem execPreemptHalt_inv (h : s.Inv) : NextInv (execPreemptHalt s) := by
  unfold execPreemptHalt
  split
  · exact h
  · split
    · exact mod_inv (haltContext_inv h)
    · exact h

theorem requeue_inv (h : s.Inv) : (requeue s).Inv := mod_inv (mk_inv h)

theorem saveUnit_inv (h : s.Inv) : SndInv (saveUnit s) :=
  mk_inv (rehome_inv (writeImage_inv (cleanStash_inv (requeue_inv (releaseLease_inv h)))))

theorem execSaveComplete_inv (h : s.Inv) : NextInv (execSaveComplete s) := by
  unfold execSaveComplete
  split
  · exact h
  · extract_lets +onlyGivenNames _
    split
    rename_i e
    have hk := SndInv.of_eq e (saveUnit_inv h)
    split
    · exact retireLaunch_inv (freeBarriers_inv (cancelUnits_inv (discardImage_inv hk)))
    · extract_lets +onlyGivenNames _
      exact freeBarriers_inv (joinQueues_inv (mk_inv hk))

theorem loadImage_inv {b} (h : s.Inv) : (loadImage s b).Inv :=
  noteTimer_inv (reissue_inv (mod_inv (reloadFrame_inv (replaceWindow_inv (readHomes_inv (mk_inv h))))))

theorem restoreUnit_inv {core ident} (h : s.Inv) : (restoreUnit s core ident).Inv := by
  unfold restoreUnit
  extract_lets +onlyGivenNames _ t t1 t2 _
  have ht : t.Inv := rehome_inv (focus_inv h)
  have ht1 : t1.Inv := mk_inv ht
  have ht2 : t2.Inv := allocBarriers_inv ht1
  split
  · exact holds_ite (failWithout_inv ht2) (failUnit_inv (mod_inv ht2))
  · extract_lets t3
    have ht3 : t3.Inv := loadImage_inv ht2
    split
    · exact settleLease_inv (enterRequest_inv ht3)
    · exact settleLease_inv ht3

theorem removeWaiting_inv {w} (h : s.Inv) : (removeWaiting s w).Inv := by
  unfold removeWaiting
  split
  · exact mk_inv h
  · exact setBank_inv h

theorem execDispatch_inv {core} (h : s.Inv) : NextInv (execDispatch core s) := by
  unfold execDispatch
  extract_lets +onlyGivenNames t
  have ht : t.Inv := joinQueues_inv h
  split
  · exact ht
  · split
    · exact ht
    · extract_lets _ s'
      have hs' : s'.Inv := removeWaiting_inv ht
      split
      · exact freeBarriers_inv (focus_inv (restoreUnit_inv hs'))
      · exact freeBarriers_inv (startUnit_inv hs')

theorem execSchedulerPreempt_inv (h : s.Inv) : NextInv (execSchedulerPreempt s) := by
  unfold execSchedulerPreempt
  extract_lets +onlyGivenNames t
  have ht : t.Inv := joinQueues_inv h
  split
  · exact ht
  · exact holds_ite ht (withCtx_inv ht (fun _ k => mod_inv k))

theorem execTspawnEnqueue_inv (h : s.Inv) : NextInv (execTspawnEnqueue s) := by
  unfold execTspawnEnqueue
  split
  · exact h
  · exact holds_ite h (holds_ite h (offerTask_inv (mod_inv h)))

theorem returnRecord_inv {b k} (h : s.Inv) : (returnRecord b s k).Inv := by
  unfold returnRecord
  extract_lets +onlyGivenNames _ _ _ _ _ t
  have ht : t.Inv := mk_inv h
  split
  · exact ht
  · split
    · exact ht
    · extract_lets +onlyGivenNames t1 _
      have ht1 : t1.Inv := readHomes_inv ht
      exact holds_ite (retireLaunch_inv (freeBarriers_inv (failBeforeStart_inv ht1)))
        (holds_ite (retireLaunch_inv (freeBarriers_inv (cancelUnits_inv ht1))) (setBank_inv ht1))

theorem refillBank_inv {b} (h : s.Inv) : (refillBank s b).Inv := by
  unfold refillBank
  split
  exact holds_ite (foldl_inv (fun _ _ k => returnRecord_inv k) (setOvf_inv h)) h

theorem checkHead_inv {b} (h : s.Inv) : (checkHead s b).Inv := by
  unfold checkHead
  split
  · exact h
  · split
    · exact h
    · extract_lets fail t _
      have hfail : ∀ x, (fail x).Inv := fun _ => retireLaunch_inv (freeBarriers_inv (failBeforeStart_inv (setBank_inv h)))
      have ht : t.Inv := noteRead_inv h
      split
      · exact hfail _
      · exact setBank_inv ht
      · exact ht

/-! ## Streams -/

theorem bindStream_inv {p c f r} (h : s.Inv) : FstInv (bindStream s p c f r) := by
  unfold bindStream
  extract_lets +onlyGivenNames _ _ t _ _
  have ht : t.Inv := holds_ite (reach_inv h) h
  split
  · exact ht
  · extract_lets +onlyGivenNames pool
    clear_value pool
    split
    · exact ht
    · extract_lets +onlyGivenNames _ _
      split
      · extract_lets _ _ _ t1 _
        have ht1 : t1.Inv := holds_ite (setGusset_inv ht) ht
        exact setStream_inv (mk_inv ht1)
      · exact ht

theorem execSbind_inv {a b c f r} (h : s.Inv) : NextInv (execSbind a b c f r s) := by
  unfold execSbind
  refine orTrap_inv h (orTrapG_inv h ?_)
  split
  · extract_lets +onlyGivenNames _ _
    exact orTrapG_inv h (issueC_inv h (fun _ k => mod_inv (bindStream_inv k)))
  · exact orTrapG_inv h h

theorem execSunbind_inv {a} (h : s.Inv) : NextInv (execSunbind a s) := by
  unfold execSunbind
  refine issueC_inv h (fun _ k => ?_)
  split
  · exact mod_inv (tearDown_inv k)
  · exact mod_inv k

theorem execSdepth_inv {d a b} (h : s.Inv) : NextInv (execSdepth d a b s) := by
  unfold execSdepth
  split
  · exact h
  · split
    · exact retire_inv (mod_inv h)
    · extract_lets +onlyGivenNames _ _ _
      exact holds_ite (trapSync_inv h) (holds_ite h (retire_inv (mod_inv (setStream_inv h))))

theorem statusWrite_inv {c off bs} (h : s.Inv) : (statusWrite s c off bs).Inv :=
  holds_ite (getD_inv (storeIn_inv h) h) (getD_inv (storeIn_inv (getD_inv (storeIn_inv h) h)) (getD_inv (storeIn_inv h) h))

theorem halfWrite_inv {c f off bs} (h : s.Inv) : (halfWrite s c f off bs).Inv := holds_ite (statusWrite_inv h) h

theorem onFrame_inv {ch frame f} {act : Channel → Frame → State → State} (h : s.Inv) (hact : ∀ t x y, y.Inv → (act t x y).Inv) :
    (onFrame s ch frame f act).Inv := by
  unfold onFrame
  split
  · exact h
  · split
    · exact h
    · extract_lets _
      exact hact _ _ _ (mk_inv h)

theorem slotBegins_inv {ch frame} (h : s.Inv) : (slotBegins s ch frame).Inv := onFrame_inv h (fun _ _ _ k => halfWrite_inv k)

theorem slotLanded_inv {ch frame} (h : s.Inv) : (slotLanded s ch frame).Inv := onFrame_inv h (fun _ _ _ k => k)

theorem landTurn_inv {st} (h : s.Inv) : (landTurn s st).Inv := by
  unfold landTurn
  split
  · exact h
  · split
    · exact h
    · extract_lets mark _ t t1 _ t2
      have ht : t.Inv := by
        unfold t
        clear_value mark
        split
        · exact slotBegins_inv h
        · exact h
      have ht1 : t1.Inv := holds_ite (storeWindow_inv ht) ht
      have ht2 : t2.Inv := by
        unfold t2
        clear_value mark
        split
        · exact slotLanded_inv (setStream_inv ht1)
        · exact setStream_inv ht1
      exact flitDone_inv ht2

theorem execStreamFlitLand_inv {turn} (h : s.Inv) : NextInv (execStreamFlitLand turn s) := by
  unfold execStreamFlitLand
  split
  · exact h
  · exact holds_ite (holds_ite (rowTurn_inv h) h) (landTurn_inv h)

theorem execFlowSignalArrival_inv {stream} (h : s.Inv) : NextInv (execFlowSignalArrival stream s) := by
  unfold execFlowSignalArrival
  split
  · exact h
  · extract_lets _
    split
    · exact h
    · exact setStream_inv h

theorem startGusset_inv {n u} (h : s.Inv) : (startGusset s n u).Inv :=
  shrinkMapped_inv (withCtx_inv (mk_inv (setGusset_inv (replaceWindow_inv h))) (fun _ k => toFirstWords_inv (mk_inv k)))

theorem startFrom_inv {va} (h : s.Inv) : FstInv (startFrom s va) := by
  unfold startFrom
  extract_lets +onlyGivenNames _ refused
  have hrefused : ∀ x, FstInv (refused x) := fun _ => h
  split
  · exact hrefused _
  · split
    · exact reach_inv h
    · extract_lets +onlyGivenNames t refused1 _ _ _
      have ht : t.Inv := noteRead_inv h
      have hrefused1 : ∀ x, FstInv (refused1 x) := fun _ => ht
      split
      · exact hrefused1 _
      · split
        · exact ht
        · split
          · exact ht
          · extract_lets +onlyGivenNames _ _ t1 refused2
            have ht1 : t1.Inv := noteRead_inv ht
            have hrefused2 : ∀ x, FstInv (refused2 x) := fun _ => ht1
            split
            · exact hrefused2 _
            · exact hrefused2 _
            · extract_lets _ _ _
              exact holds_ite ht1 (holds_ite ht1 (startGusset_inv ht1))

theorem execSctxStop_inv {d a} (h : s.Inv) : NextInv (execSctxStop d a s) :=
  issueC_inv h (fun _ k => holds_ite (mod_inv (stopResident_inv k)) (mod_inv k))

/-! ## Retire -/

theorem endGroups_inv {n} (h : s.Inv) : (endGroups s n).Inv := mk_inv h

theorem leaveCore_inv (h : s.Inv) : (leaveCore s).Inv :=
  withCtx_inv (rehome_inv (mk_inv (endGroups_inv (dropLease_inv h)))) (fun _ k => sweep_inv k)

theorem freeCore_inv (h : s.Inv) : (freeCore s).Inv := holds_ite (mod_inv h) (leaveCore_inv h)

theorem execUnitRetire_inv (h : s.Inv) : NextInv (execUnitRetire s) := by
  unfold execUnitRetire
  split
  · exact h
  · split
    · extract_lets _ t t1
      have ht : t.Inv := freeCore_inv (tearDownAll_inv h)
      have ht1 : t1.Inv := modSlot_inv ht
      exact retireLaunch_inv (freeBarriers_inv ht1)
    · exact holds_ite (freeCore_inv h) h

theorem execContextEnd_inv (h : s.Inv) : NextInv (execContextEnd s) :=
  holds_ite h (setGusset_inv (leaveCore_inv (mod_inv (tearDownAll_inv h))))

/-! ## Engines -/

theorem engineFail_inv {o c bytes va} (h : s.Inv) : (engineFail s o c bytes va).Inv := by
  unfold engineFail
  extract_lets +onlyGivenNames t t1
  have ht : t.Inv := holds_ite (testStorage_inv h) h
  have ht1 : t1.Inv := holds_ite (failOp_inv ht) (failOp_inv ht)
  exact holds_ite (mod_inv ht1) ht1

theorem engineFault_inv {o c src write bytes va} (h : s.Inv) : (engineFault s o c src write bytes va).Inv := by
  unfold engineFault
  split
  · exact failUnnamed_inv h
  · split
    · split
      · rename_i e
        have hk := OnSome.of_eq e (offerFault_inv h)
        exact mod_inv hk
      · exact engineFail_inv h
    · exact engineFail_inv h

/-! ## Copies -/

theorem failNoLink_inv {o} (h : s.Inv) : (failNoLink s o).Inv := failUnnamed_inv h

theorem copyC_inv {gs f r align shape wait op} (h : s.Inv) : NextInv (copyC s gs f r align shape wait op) := by
  unfold copyC
  refine orTrap_inv h ?_
  split
  · exact orTrapG_inv h h
  · split
    · exact h
    · exact issueC_inv h (fun _ k => holds_ite (failNoLink_inv (mod_inv (mod_inv k))) (mod_inv (mod_inv k)))

theorem execCopyStart_inv {n} (h : s.Inv) : NextInv (execCopyStart n s) := by
  unfold execCopyStart
  split
  · exact h
  · extract_lets _
    exact holds_ite h (mod_inv h)

theorem seekNext_inv {o slack} (h : s.Inv) : OnOk State.Inv (seekNext s o slack) := by
  unfold seekNext
  split
  · exact h
  · exact holds_ite h (seekLine_inv h)

theorem seekTurn_inv {o slack} (h : s.Inv) : FstInv (seekTurn s o slack) := by
  unfold seekTurn
  split
  · rename_i e
    have hk := OnOk.of_eq e (seekNext_inv h)
    exact hk
  · exact h

theorem stopCommit_inv {o c write va} (h : s.Inv) : (stopCommit s o c write va).Inv := by
  unfold stopCommit
  split
  · exact failUnnamed_inv h
  · split
    · rename_i e
      have hk := OnSome.of_eq e (holds_ite (offerFault_inv h) trivial)
      exact mod_inv hk
    · exact mod_inv h

theorem stopOn_inv {o c write va} (h : s.Inv) : (stopOn s o c write va).Inv :=
  holds_ite (failUnnamed_inv h) (holds_ite (stopCommit_inv h) (engineFault_inv h))

theorem sendRun_inv {o slack k bs} (h : s.Inv) : (sendRun s o slack k bs).Inv := by
  unfold sendRun
  split
  · exact getD_inv (sendWrite_inv h) h
  · split
    · exact stopOn_inv h
    · rename_i e
      have hk := OnOk.of_eq e (putLine_inv h)
      exact hk

theorem ranTo_inv {o} {finish : State → EngineOp → State} (h : s.Inv) (hfinish : ∀ t x, t.Inv → (finish t x).Inv) :
    (ranTo s o finish).Inv := by
  unfold ranTo
  split
  · exact hfinish _ _ h
  · split
    · exact holds_ite (failUnnamed_inv h) (mod_inv h)
    · exact mod_inv h

theorem writeTurn_inv {o} {finish : State → EngineOp → State} {next : State} (h : s.Inv) (hfinish : ∀ t x, t.Inv → (finish t x).Inv)
    (hnext : next.Inv) : (writeTurn s o finish next).Inv := by
  unfold writeTurn
  split
  · exact hnext
  · split
    · exact h
    · split
      · exact stopOn_inv h
      · exact ranTo_inv h hfinish

theorem moveTurn_inv {o slack} {finish : State → EngineOp → State} (h : s.Inv) (hfinish : ∀ t x, t.Inv → (finish t x).Inv) :
    (moveTurn s o slack finish).Inv := by
  unfold moveTurn
  split
  rename_i e
  have hk := FstInv.of_eq e (seekTurn_inv h)
  refine writeTurn_inv hk hfinish ?_
  split
  · exact stopOn_inv hk
  · exact hk
  · exact sendRun_inv hk

theorem setTable_inv {cluster t lens} (h : s.Inv) : (setTable s cluster t lens).Inv := setArray_inv h

theorem decodeTurn_inv {o slack} (h : s.Inv) : (decodeTurn s o slack).Inv := by
  unfold decodeTurn
  extract_lets +onlyGivenNames _ _ _ act
  have hact : ∀ x y, x.Inv → (act x y).Inv := by
    intro _ _ k
    unfold act
    split
    · exact stopOn_inv k
    · exact k
    · exact mod_inv (sendRun_inv k)
  split
  · exact failUnnamed_inv h
  · extract_lets t
    have ht : t.Inv := mod_inv h
    refine writeTurn_inv ht (fun _ _ k => completeOp_inv k) ?_
    split
    · split
      · rename_i e
        have hk := OnOk.of_eq e (seekLine_inv ht)
        exact hk
      · exact hact _ _ ht
    · exact hact _ _ ht

theorem readTurn_inv {o slack} {act : State → EngineOp → List (PageAttr × List Byte) → State} (h : s.Inv)
    (hact : ∀ t x y, t.Inv → (act t x y).Inv) : (readTurn s o slack act).Inv := by
  unfold readTurn
  split
  rename_i e
  have hk := FstInv.of_eq e (seekTurn_inv h)
  extract_lets _
  split
  · exact stopOn_inv hk
  · exact hk
  · exact hact _ _ _ hk

theorem loadTable_inv {o l} (h : s.Inv) : (loadTable s o l).Inv :=
  holds_ite (failUnnamed_inv (setTable_inv h)) (completeOp_inv (setTable_inv h))

theorem sendWrq_inv {o l} (h : s.Inv) : (sendWrq s o l).Inv := holds_ite (stopOn_inv h) (mk_inv (mod_inv h))

theorem sendMirror_inv {o l} (h : s.Inv) : (sendMirror s o l).Inv := mk_inv (mod_inv h)

theorem onceTaken_inv {o l} {act : State → EngineOp → List (PageAttr × List Byte) → State}
    (hact : ∀ t x y, t.Inv → (act t x y).Inv) (h : s.Inv) : (onceTaken act s o l).Inv :=
  holds_ite (hact _ _ _ h) h

theorem mirrorTurn_inv {o} (h : s.Inv) : (mirrorTurn s o).Inv := by
  unfold mirrorTurn
  split
  · exact mod_inv (failOp_inv h)
  · exact mod_inv (readTurn_inv (mod_inv h) (fun _ _ _ k => onceTaken_inv (fun _ _ _ k' => sendMirror_inv k') k))

theorem execCopyComplete_inv {n} (h : s.Inv) : NextInv (execCopyComplete n s) := by
  unfold execCopyComplete
  split
  · exact h
  · split
    · exact h
    · split
      · exact sweep_inv (decodeTurn_inv h)
      · exact sweep_inv (readTurn_inv h (fun _ _ _ k => loadTable_inv k))
      · exact sweep_inv (readTurn_inv h (fun _ _ _ k => onceTaken_inv (fun _ _ _ k' => sendWrq_inv k') k))
      · exact sweep_inv (mirrorTurn_inv h)
      · exact sweep_inv (moveTurn_inv h (fun _ _ k => completeOp_inv k))

theorem linkReply_inv {r dst acc part urg va cls bytes} (h : s.Inv) : (linkReply s r dst acc part urg va cls bytes).Inv :=
  injectAll_inv h

theorem answerPart_inv {a p r} (h : s.Inv) : (answerPart s a p r).Inv :=
  holds_ite (settle_inv (linkReply_inv (mod_inv h))) (settle_inv (mod_inv h))

theorem answerRead_inv {o l r} (h : s.Inv) : (answerRead s o l r).Inv := linkReply_inv (mod_inv h)

theorem answerWrite_inv {o w r} (h : s.Inv) : (answerWrite s o w r).Inv :=
  holds_ite (failOp_inv (holds_ite (countLate_inv h) h)) (linkReply_inv (mod_inv h))

theorem answerWrq_inv {o r} (h : s.Inv) : (answerWrq s o r).Inv :=
  holds_ite (completeOp_inv (holds_ite (countLate_inv h) h)) (failOp_inv (holds_ite (countLate_inv h) h))

theorem execPeerAck_inv {n reply} (h : s.Inv) : NextInv (execPeerAck n reply s) := by
  unfold execPeerAck
  split
  · exact h
  · extract_lets t
    have ht : t.Inv := hearing_inv h
    split
    · exact answerRead_inv ht
    · exact sweep_inv (answerWrite_inv ht)
    · exact sweep_inv (answerWrq_inv ht)
    · exact answerPart_inv ht
    · exact ht

theorem execMirrorAck_inv {reply} (h : s.Inv) : NextInv (execMirrorAck reply s) := by
  unfold execMirrorAck
  split
  · exact h
  · extract_lets +onlyGivenNames t
    have ht : t.Inv := hearing_inv h
    split
    · exact ht
    · extract_lets t1
      have ht1 : t1.Inv := holds_ite (countLate_inv ht) ht
      exact holds_ite (sweep_inv (mod_inv (completeOp_inv ht1))) (sweep_inv (mod_inv (failOp_inv ht1)))

theorem acknowledge_inv {slack late r} (h : s.Inv) : (acknowledge s slack late r).Inv := mk_inv (drawn_inv h)

theorem remoteWrite_inv {asid chk va bs} (h : s.Inv) : OnOk State.Inv (remoteWrite s asid chk va bs) := by
  unfold remoteWrite
  split
  · trivial
  · split
    · trivial
    · split
      · trivial
      · split
        · trivial
        · split
          · exact storeStream_inv (reach_inv h)
          · trivial

theorem remoteRun_inv {asid chk n ws} (h : s.Inv) : ReachedInv (remoteRun asid chk s n ws) := by
  induction ws generalizing n s with
  | nil => exact h
  | cons w ws ih =>
    unfold remoteRun
    split
    · rename_i e
      exact ih (OnOk.of_eq e (remoteWrite_inv h))
    · exact reach_inv h

theorem physicalWrite_inv {w} (h : s.Inv) : (physicalWrite s w).Inv := by
  unfold physicalWrite
  extract_lets +onlyGivenNames _
  split
  · exact acknowledge_inv (mk_inv h)
  · split
    · extract_lets _ _ t
      have ht : t.Inv := holds_ite (storeBytes_inv h) (touchHomes_inv (mk_inv (writePlanes_wf _ _ _ _ h)))
      exact acknowledge_inv (countMatch_inv ht)
    · exact acknowledge_inv h

theorem execPeerWriteArrival_inv {pw} (h : s.Inv) : NextInv (execPeerWriteArrival pw s) := by
  unfold execPeerWriteArrival
  split
  · exact h
  · extract_lets +onlyGivenNames t
    have ht : t.Inv := hearing_inv h
    split
    · exact physicalWrite_inv ht
    · extract_lets _
      split
      · rename_i e
        exact acknowledge_inv (countMatch_inv (ReachedInv.of_ok e (remoteRun_inv ht)))
      · rename_i e
        exact acknowledge_inv (countMatch_inv (ReachedInv.of_error e (remoteRun_inv ht)))

theorem wrqWalks_inv {m} (h : s.Inv) : (wrqWalks s m).Inv :=
  foldl_inv (p := FstInv) (fun _ _ k => holds_ite k (reach_inv k)) h

theorem execWrqArrival_inv {msg} (h : s.Inv) : NextInv (execWrqArrival msg s) := by
  unfold execWrqArrival
  split
  · exact h
  · extract_lets +onlyGivenNames t
    have ht : t.Inv := hearing_inv h
    split
    · exact acknowledge_inv (wrqWalks_inv ht)
    · extract_lets +onlyGivenNames u
      have hu : u.Inv := by
        unfold u
        split
        · rename_i e
          exact ReachedInv.of_ok e (remoteRun_inv ht)
        · rename_i e
          exact ReachedInv.of_error e (remoteRun_inv ht)
      split
      · exact ht
      · exact acknowledge_inv (offerTask_inv (raiseCount_inv hu))

theorem execMirrorArrival_inv {msg} (h : s.Inv) : NextInv (execMirrorArrival msg s) := by
  unfold execMirrorArrival
  split
  · exact h
  · extract_lets +onlyGivenNames t
    have ht : t.Inv := hearing_inv h
    split
    · rename_i e
      have hk := ReachedInv.of_error e (remoteRun_inv ht)
      exact holds_ite (acknowledge_inv hk) hk
    · rename_i e
      have hk := ReachedInv.of_ok e (remoteRun_inv ht)
      split
      · exact hk
      · extract_lets +onlyGivenNames _ _
        split
        · exact acknowledge_inv hk
        · extract_lets +onlyGivenNames u fail
          have hu : u.Inv := reach_inv hk
          have hfail : ∀ c, NextInv (fail c) := fun _ => acknowledge_inv hu
          split
          · exact hfail _
          · split
            · exact hfail _
            · split
              · exact acknowledge_inv (storeBytes_inv hu)
              · exact hfail _

theorem verdict_inv {o retry} (h : s.Inv) : (verdict s o retry).Inv := by
  unfold verdict
  split
  · split
    · split
      · exact holds_ite (settleLease_inv (mod_inv h)) (holds_ite (mod_inv h) (afterLease_inv (engineFail_inv h)))
      · exact h
    · exact h
  · split
    · split
      · exact settle_inv (mod_inv h)
      · exact h
    · exact h

theorem execFaultReply_inv {asid token retry} (h : s.Inv) : NextInv (execFaultReply asid token retry s) := by
  unfold execFaultReply
  split
  · exact h
  · split
    · exact h
    · extract_lets t
      have ht : t.Inv := setJob_inv h
      exact withCtx_inv ht (fun _ k => sweep_inv (verdict_inv k))

/-! ## Sensors -/

theorem setChannel_inv {c} (h : s.Inv) : (setChannel s c).Inv := mk_inv h

theorem writeHeader_inv {c} (h : s.Inv) : (writeHeader s c).Inv := statusWrite_inv h

theorem putCounts_inv {c} (h : s.Inv) : (putCounts s c).Inv := writeHeader_inv (setChannel_inv h)

theorem execChannelInstall_inv {ch ctl} (h : s.Inv) : NextInv (execChannelInstall ch ctl s) :=
  holds_ite (statusWrite_inv (setChannel_inv (mk_inv h))) (setChannel_inv (mk_inv h))

theorem heardCamera_inv {port} (h : s.Inv) : (heardCamera s port).Inv := mk_inv h

theorem discardPacket_inv {port vc} (h : s.Inv) : (discardPacket s port vc).Inv := by
  unfold discardPacket
  split
  · exact putCounts_inv h
  · extract_lets _
    exact mk_inv h

theorem sendSlot_inv {ch f r bs} (h : s.Inv) : (sendSlot s ch f r bs).Inv := by
  unfold sendSlot
  split
  · exact h
  · extract_lets _
    exact setStream_inv h

theorem decideRow_inv {ch st stamp data} (h : s.Inv) : (decideRow s ch st stamp data).Inv := by
  unfold decideRow
  split
  · exact h
  · split
    · exact h
    · extract_lets _ _ _ _ _ t t1
      have ht : t.Inv := halfWrite_inv (setChannel_inv h)
      have ht1 : t1.Inv := holds_ite ht (halfWrite_inv ht)
      exact sendSlot_inv ht1

theorem decideMissing_inv {ch} (h : s.Inv) : (decideMissing s ch).Inv := by
  unfold decideMissing
  split
  · extract_lets _
    exact holds_ite (decideRow_inv h) (decideRow_inv h)
  · exact h

theorem decideMissings_inv {ch n} (h : s.Inv) : (decideMissings ch n s).Inv := by
  induction n generalizing s with
  | zero => exact h
  | succ n ih => exact ih (decideMissing_inv h)

theorem decideOverdue_inv {ch n} (h : s.Inv) : (decideOverdue ch n s).Inv := by
  induction n generalizing s with
  | zero => exact h
  | succ n ih =>
    unfold decideOverdue
    split
    · exact holds_ite (ih (decideMissing_inv h)) h
    · exact h

theorem endFrame_inv {ch} (h : s.Inv) : (endFrame s ch).Inv := by
  unfold endFrame
  split
  · exact h
  · extract_lets +onlyGivenNames t
    have ht : t.Inv := decideMissings_inv h
    split
    · exact ht
    · extract_lets _
      exact halfWrite_inv (setChannel_inv ht)

theorem refuseFrame_inv {c fs} (h : s.Inv) : (refuseFrame s c fs).Inv := hostEvent_inv (putCounts_inv h)

theorem startFrame_inv {c series width height fs} (h : s.Inv) : (startFrame s c series width height fs).Inv :=
  holds_ite (refuseFrame_inv h) (halfWrite_inv (putCounts_inv h))

theorem execCameraFrameStart_inv {ch} (h : s.Inv) : NextInv (execCameraFrameStart ch s) := by
  unfold execCameraFrameStart
  split
  · exact h
  · extract_lets +onlyGivenNames t
    have ht : t.Inv := heardCamera_inv h
    split
    · exact discardPacket_inv ht
    · extract_lets t1
      have ht1 : t1.Inv := endFrame_inv ht
      split
      · exact ht1
      · exact holds_ite (setChannel_inv ht1) (startFrame_inv ht1)

theorem execEmbeddedHeader_inv {ch width height} (h : s.Inv) : NextInv (execEmbeddedHeader ch width height s) := by
  unfold execEmbeddedHeader
  split
  · exact h
  · extract_lets t
    have ht : t.Inv := heardCamera_inv h
    split
    · exact discardPacket_inv ht
    · split
      · exact discardPacket_inv ht
      · split
        · exact startFrame_inv ht
        · exact ht

theorem execCameraFrameEnd_inv {ch} (h : s.Inv) : NextInv (execCameraFrameEnd ch s) := by
  unfold execCameraFrameEnd
  split
  · exact h
  · extract_lets +onlyGivenNames t
    have ht : t.Inv := heardCamera_inv h
    split
    · exact discardPacket_inv ht
    · extract_lets t1
      have ht1 : t1.Inv := endFrame_inv ht
      split
      · exact ht1
      · exact setChannel_inv ht1

theorem extraLine_inv {c f row} (h : s.Inv) : (extraLine s c f row).Inv := by
  unfold extraLine
  split
  · exact holds_ite h (putCounts_inv h)
  · exact putCounts_inv h

theorem arriveRow_inv {ch ok first data} (h : s.Inv) : (arriveRow s ch ok first data).Inv := by
  unfold arriveRow
  split
  · split
    · exact decideMissing_inv h
    · exact holds_ite (decideRow_inv h) (holds_ite (decideRow_inv h) (decideRow_inv h))
  · exact h

theorem execCameraLine_inv {ch num dt crcOk first elems} (h : s.Inv) :
    NextInv (execCameraLine ch num dt crcOk first elems s) := by
  unfold execCameraLine
  split
  · exact h
  · extract_lets +onlyGivenNames t
    have ht : t.Inv := heardCamera_inv h
    split
    · exact discardPacket_inv ht
    · split
      · exact discardPacket_inv ht
      · split
        · exact ht
        · split
          · exact refuseFrame_inv ht
          · split
            · exact putCounts_inv ht
            · extract_lets +onlyGivenNames row _ t1
              have ht1 : t1.Inv := setChannel_inv ht
              clear_value row
              split
              · exact putCounts_inv ht1
              · exact holds_ite (extraLine_inv ht1) (arriveRow_inv (decideMissings_inv ht1))

theorem execRowDeadlineExpiry_inv {ch} (h : s.Inv) : NextInv (execRowDeadlineExpiry ch s) := by
  unfold execRowDeadlineExpiry
  split
  · exact decideOverdue_inv h
  · exact h

theorem heardEther_inv {port first pdelay} (h : s.Inv) : (heardEther s port first pdelay).Inv := mk_inv h

theorem takeLidar_inv {ch c payload udpOk first} (h : s.Inv) : (takeLidar s ch c payload udpOk first).Inv := by
  unfold takeLidar
  extract_lets _ _ _ _ t _ _ _ take fresh
  have ht : t.Inv := setChannel_inv h
  have htake : ∀ x y, x.Inv → (take x y).Inv := fun _ _ k => holds_ite (extraLine_inv k) (arriveRow_inv (decideMissings_inv k))
  have hfresh : ∀ x, x.Inv → (fresh x).Inv := by
    intro _ k
    unfold fresh
    split
    · exact k
    · extract_lets t1
      have ht1 : t1.Inv := startFrame_inv (endFrame_inv k)
      split
      · exact htake _ _ ht1
      · exact ht1
  split
  · exact hfresh _ ht
  · exact holds_ite (hfresh _ ht) (holds_ite (extraLine_inv ht) (holds_ite (htake _ _ ht) (extraLine_inv ht)))

theorem execLidarPacket_inv {port payload udpOk first} (h : s.Inv) : NextInv (execLidarPacket port payload udpOk first s) := by
  unfold execLidarPacket
  split
  · exact h
  · exact holds_ite h (takeLidar_inv (heardEther_inv h))

theorem execLidarFrameTimeout_inv {port} (h : s.Inv) : NextInv (execLidarFrameTimeout port s) := by
  unfold execLidarFrameTimeout
  extract_lets _
  split
  · exact holds_ite (endFrame_inv h) h
  · exact h

theorem execEthernetFrame_inv {port frame fcsOk first} (h : s.Inv) : NextInv (execEthernetFrame port frame fcsOk first s) := by
  unfold execEthernetFrame
  split
  · exact h
  · extract_lets t host
    have ht : t.Inv := heardEther_inv h
    have hhost : NextInv host := mk_inv ht
    split
    · exact holds_ite (takeLidar_inv ht) hhost
    · exact hhost

theorem execPtpEgress_inv {port header message oneStep} (h : s.Inv) : NextInv (execPtpEgress port header message oneStep s) := by
  unfold execPtpEgress
  split
  · exact h
  · exact holds_ite h (mk_inv h)

theorem execRowWait_inv {a b} (h : s.Inv) : NextInv (execRowWait a b s) := by
  unfold execRowWait
  split
  · exact h
  · split
    · exact trapSync_inv h
    · exact holds_ite (trapSync_inv h) (holds_ite (mod_inv h) (retire_inv (mod_inv h)))

theorem postC_inv {gs f} (h : s.Inv) : NextInv (postC gs f s) := orTrap_inv h (holds_ite h (issueC_inv h (fun _ k => mod_inv k)))

theorem execRowRdPos_inv {d a} (h : s.Inv) : NextInv (execRowRdPos d a s) := by
  unfold execRowRdPos
  split
  · exact h
  · split
    · exact trapSync_inv h
    · exact retire_inv (mod_inv h)

theorem rowRecord_inv {d a empty f} (h : s.Inv) : NextInv (rowRecord d a empty f s) := by
  unfold rowRecord
  refine orTrap_inv h (orTrapG_inv h ?_)
  split
  · exact h
  · split
    · exact trapSync_inv h
    · exact retire_inv (mod_inv h)
    · extract_lets _
      exact retire_inv (mod_inv h)

/-! ## Hatband -/

theorem setGroup_inv {g} (h : s.Inv) : (setGroup s g).Inv := mk_inv h

theorem setAlign_inv {va f aux} (h : s.Inv) : FstInv (setAlign s va f aux) := by
  unfold setAlign
  extract_lets +onlyGivenNames _
  split
  · exact h
  · split
    · exact mk_inv h
    · extract_lets t
      have ht : t.Inv := noteRead_inv h
      split
      · exact ht
      · split
        · exact ht
        · exact setGroup_inv ht

theorem execAlignSet_inv {a b f r} (h : s.Inv) : NextInv (execAlignSet a b f r s) := by
  unfold execAlignSet
  refine orTrapG_inv h ?_
  split
  · exact orTrapG_inv h h
  · exact issueC_inv h (fun _ k => mod_inv (setAlign_inv k))

theorem releaseSet_inv {g timedOut} (h : s.Inv) : (releaseSet s g timedOut).Inv := by
  unfold releaseSet
  extract_lets _ t t1
  have ht : t.Inv := getD_inv (storeIn_inv h) h
  have ht1 : t1.Inv := setGroup_inv ht
  exact holds_ite (forOwner_inv ht1 (fun _ k => countFlag_inv k)) ht1

theorem releaseDue_inv {n k} (h : s.Inv) : (releaseDue n k s).Inv := by
  induction k generalizing s with
  | zero => exact h
  | succ k ih =>
    unfold releaseDue
    split
    · exact h
    · exact holds_ite (ih (releaseSet_inv h)) h

theorem settleGroup_inv {n} (h : s.Inv) : (settleGroup s n).Inv := by
  unfold settleGroup
  split
  · exact releaseDue_inv h
  · exact h

theorem presentTile_inv {n m sensor ts tile valid} (h : s.Inv) : (presentTile s n m sensor ts tile valid).Inv := by
  unfold presentTile
  extract_lets t
  have ht : t.Inv := settleGroup_inv h
  split
  · exact ht
  · exact settleGroup_inv (setGroup_inv ht)

theorem execAlignWait_inv {d a b} (h : s.Inv) : NextInv (execAlignWait d a b s) := by
  unfold execAlignWait
  split
  · exact issueC_inv h (fun _ k => mod_inv k)
  · exact holds_ite h (issueC_inv h (fun _ k => mod_inv k))

theorem takeSeq_inv {sensor} (h : s.Inv) : (takeSeq s sensor).Inv := by
  unfold takeSeq
  split
  · exact setChannel_inv h
  · exact h

theorem execTileCommit_inv {a b c f r} (h : s.Inv) : NextInv (execTileCommit a b c f r s) := by
  unfold execTileCommit
  refine orTrap_inv h ?_
  split
  · exact orTrapG_inv h h
  · exact issueC_inv h (fun _ k => mod_inv (mod_inv k))

theorem checkCommit_inv {o} (h : s.Inv) : (checkCommit s o).Inv := by
  unfold checkCommit
  split <;> exact mod_inv h

theorem headCommit_inv {o} (h : s.Inv) : (headCommit s o).Inv := by
  unfold headCommit
  split
  · exact h
  · split
    · exact stopOn_inv h
    · rename_i e
      have hk := OnOk.of_eq e (putLine_inv h)
      exact holds_ite (takeSeq_inv hk) hk

theorem endCommit_inv {o} (h : s.Inv) : (endCommit s o).Inv := completeOp_inv (holds_ite (presentTile_inv h) h)

theorem commitStep_inv {o} (h : s.Inv) : (commitStep s o).Inv := by
  unfold commitStep
  split
  · split
    · exact headCommit_inv h
    · split
      · exact h
      · split
        · exact stopOn_inv h
        · exact endCommit_inv h
  · split
    · exact moveTurn_inv h (fun _ _ k => mod_inv k)
    · split
      · exact mod_inv h
      · exact holds_ite h (moveTurn_inv (mod_inv h) (fun _ _ k => mod_inv k))

theorem execTileCommitComplete_inv {n} (h : s.Inv) : NextInv (execTileCommitComplete n s) := by
  unfold execTileCommitComplete
  split
  · exact h
  · split
    · exact checkCommit_inv h
    · exact holds_ite h (holds_ite (sweep_inv (failUnnamed_inv h)) (sweep_inv (engineFail_inv h)))
    · exact sweep_inv (commitStep_inv h)
    · exact sweep_inv (commitStep_inv h)
    · exact h

theorem rowsPassed_inv {ch} (h : s.Inv) : (rowsPassed s ch).Inv := by
  unfold rowsPassed
  split
  · extract_lets t
    have ht : t.Inv := decideOverdue_inv h
    exact holds_ite (endFrame_inv ht) ht
  · exact h

theorem passDeadlines_inv (h : s.Inv) : (passDeadlines s).Inv := by
  unfold passDeadlines
  extract_lets t t1 t2
  have ht : t.Inv := foldl_inv (fun _ _ k => rowsPassed_inv k) h
  have ht1 : t1.Inv := foldl_inv (fun _ _ k => settleGroup_inv k) ht
  have ht2 : t2.Inv := foldl_inv (fun _ _ k => passDeadline_inv k) ht1
  exact mk_inv ht2

theorem timeTo_inv {t n} (h : s.Inv) : (timeTo t n s).Inv := by
  induction n generalizing s with
  | zero => exact passDeadlines_inv (mk_inv h)
  | succ n ih =>
    unfold timeTo
    split
    · exact passDeadlines_inv (mk_inv h)
    · exact ih (passDeadlines_inv (mk_inv h))

theorem comeTo_inv {t} (h : s.Inv) : (comeTo t s).Inv := timeTo_inv h

/-! ## Jobs -/

theorem stopJobParts_inv {asid} (h : s.Inv) : (stopJobParts s asid).Inv := mk_inv (stopResident_inv h)

theorem cancelJob_inv {asid} (h : s.Inv) : (cancelJob s asid).Inv := retireLaunches_inv (stopJobParts_inv (cancelLaunches_inv h))

theorem cancelOwnJob_inv {asid} (h : s.Inv) : (cancelOwnJob s asid).Inv := cancelJob_inv (setJob_inv h)

theorem execLvlCancel_inv {a l} (h : s.Inv) : NextInv (execLvlCancel a l s) :=
  orTrap_inv h (issueC_inv h (fun _ k => retireLaunches_inv (cancelAt_inv (mod_inv k) (fun _ _ k' => cancelOwnJob_inv k'))))

theorem jobCommand_inv {asid allowed next} {k : State → State} (h : s.Inv) (hk : ∀ t, t.Inv → (k t).Inv) :
    NextInv (jobCommand s asid allowed next k) := by
  unfold jobCommand
  split
  · exact h
  · exact holds_ite (hk _ (setJob_inv h)) h

theorem restartWatchdogs_inv {asid} (h : s.Inv) : (restartWatchdogs s asid).Inv := mk_inv h

theorem closeEpisodes_inv {asid} (h : s.Inv) : (closeEpisodes s asid).Inv := mk_inv h

theorem activateJob_inv {asid} (h : s.Inv) : (activateJob s asid).Inv := restartWatchdogs_inv (setJob_inv h)

theorem execJobRetire_inv {asid} (h : s.Inv) : NextInv (execJobRetire asid s) := by
  unfold execJobRetire
  split
  · exact h
  · split
    · exact h
    · exact holds_ite (stopJobParts_inv h) (hostEvent_inv (setJob_inv (tearDownAll_inv (stopJobParts_inv h))))

/-! ## Link -/

theorem endAccess_inv {a} (h : s.Inv) : (endAccess s a).Inv := by
  unfold endAccess
  split
  · exact h
  · split
    · exact mod_inv (writeRecord_inv h)
    · exact mod_inv (writeRecord_inv h)
    · exact mod_inv (writeRecord_inv h)
    · exact mod_inv (writeRecord_inv h)
    · exact mod_inv (writeRecord_inv h)
    · exact mod_inv (writeRecord_inv h)
    · exact mod_inv (writeRecord_inv h)
    · extract_lets _
      exact mod_inv h

theorem endOp_inv {o} (h : s.Inv) : (endOp s o).Inv := by
  unfold endOp
  split
  · exact failUnnamed_inv h
  · exact failUnnamed_inv h
  · exact mod_inv (failOp_inv h)
  · exact mod_inv h

theorem endAtPeer_inv (h : s.Inv) : (endAtPeer s).Inv :=
  sweep_inv (settle_inv (foldl_inv (fun _ _ k => endOp_inv k) (foldl_inv (fun _ _ k => endAccess_inv k) h)))

theorem takeOver_inv (h : s.Inv) : (takeOver s).Inv := foldl_inv (fun _ _ k => hostEvent_inv (activateJob_inv k)) h

theorem linkDown_inv {reason} (h : s.Inv) : (linkDown s reason).Inv :=
  holds_ite h (takeOver_inv (hostEvent_inv (foldl_inv (fun _ _ k => withCtx_inv k (fun _ k' => endAtPeer_inv k')) (mk_inv h))))

theorem fatalEvent_inv {c detail} (h : s.Inv) : (fatalEvent s c detail).Inv := mk_inv (hostEvent_inv (holds_ite (mk_inv h) h))

theorem execFlitCrcReplay_inv {east lane station failed} (h : s.Inv) : NextInv (execFlitCrcReplay east lane station failed s) :=
  holds_ite (mk_inv h) (holds_ite (mk_inv h) (fatalEvent_inv (mk_inv h)))

/-! ## Housekeeping -/

theorem execStashcfgWrite_inv {core v} (h : s.Inv) : NextInv (execStashcfgWrite core v s) :=
  holds_ite h (setCore_inv (holds_ite (cleanStash_inv h) (replaceWindow_inv (cleanStash_inv h))))

theorem measureHeat_inv {temp} (h : s.Inv) : (measureHeat s temp).Inv := holds_ite (mk_inv h) (fatalEvent_inv (mk_inv h))

theorem writeNotify_inv {n o old written} (h : s.Inv) : NextInv (writeNotify s n o old written) :=
  holds_ite (execTailWrite_inv h) (holds_ite (setRing_inv h) h)

theorem writeDescriptor_inv {n o v} (h : s.Inv) : NextInv (writeDescriptor s n o v) := by
  unfold writeDescriptor
  extract_lets _
  split
  · exact setRing_inv h
  · split
    · exact h
    · split
      · exact setRing_inv h
      · exact setRing_inv h
      · exact setRing_inv h
      · exact setRing_inv h
      · exact execRingInstall_inv h
      · exact setRing_inv h
      · exact setRing_inv h
      · exact setRing_inv h

theorem writeJob_inv {n o v written} (h : s.Inv) : NextInv (writeJob s n o v written) := by
  unfold writeJob
  extract_lets +onlyGivenNames _ _
  split
  · extract_lets t
    have ht : t.Inv := setJob_inv h
    split
    · exact jobCommand_inv ht (fun _ k => k)
    · exact jobCommand_inv ht (fun _ k => cancelJob_inv k)
    · exact jobCommand_inv ht (fun _ k => activateJob_inv k)
    · exact jobCommand_inv ht (fun _ k => closeEpisodes_inv k)
    · exact ht
  · exact setJob_inv h

theorem writeService_inv {n o v written} (h : s.Inv) : NextInv (writeService s n o v written) := by
  unfold writeService
  split
  · exact setJob_inv h
  · exact execFaultReply_inv h
  · exact holds_ite h (setJob_inv h)
  · exact holds_ite h (setJob_inv h)

theorem writeMatch_inv {n o v written} (h : s.Inv) : NextInv (writeMatch s n o v written) := by
  unfold writeMatch
  extract_lets +onlyGivenNames _
  split
  · exact setMatch_inv h
  · extract_lets t
    have ht : t.Inv := setMatch_inv h
    exact holds_ite (execMatchEntryArm_inv ht) ht
  · exact setMatch_inv h
  · exact h

theorem writeChannel_inv {n o v} (h : s.Inv) : NextInv (writeChannel s n o v) := by
  unfold writeChannel
  extract_lets +onlyGivenNames _ _
  split
  · exact execChannelInstall_inv h
  · split
    · exact h
    · split
      · exact setChannel_inv h
      · exact setChannel_inv h
      · exact setChannel_inv h
      · exact setChannel_inv h
      · extract_lets _
        exact setChannel_inv h

theorem writeHousekeeping_inv {o v written} (h : s.Inv) : NextInv (writeHousekeeping s o v written) := by
  unfold writeHousekeeping
  extract_lets +onlyGivenNames _ _
  split
  · exact mk_inv h
  · exact mk_inv h
  · exact comeTo_inv h
  · exact mk_inv h
  · exact mk_inv h
  · exact mk_inv h
  · exact mk_inv h
  · exact mk_inv h
  · exact mk_inv h
  · exact mk_inv h
  · extract_lets +onlyGivenNames _ t
    have ht : t.Inv := mk_inv h
    exact holds_ite (holds_ite ht (mk_inv ht)) (mk_inv ht)
  · exact mk_inv h
  · exact holds_ite h (holds_ite (mk_inv h) (mk_inv h))
  · exact mk_inv h
  · exact holds_ite (execStashcfgWrite_inv h) h

/-- The offsets are taken as any numbers: no branch depends on which page is written. -/
theorem execHousekeepingWrite_inv {off n v} (h : s.Inv) : NextInv (execHousekeepingWrite off n v s) := by
  unfold execHousekeepingWrite
  extract_lets o8 m w
  clear_value o8 m w
  split
  · exact holds_ite h (writeNotify_inv h)
  split
  · exact holds_ite (mk_inv h) h
  split
  · exact writeJob_inv h
  split
  · exact writeMatch_inv h
  split
  · exact writeDescriptor_inv h
  split
  · exact writeChannel_inv h
  split
  · exact writeChannel_inv h
  split
  · generalize o8 - 0x310000 = k
    exact writeHousekeeping_inv h
  · exact holds_ite (writeService_inv h) h

/-! ## Boot -/

theorem bootSlot_inv {n img} (h : s.Inv) : (bootSlot s n img).Inv := mk_inv (writeBytes_wf _ h _)

theorem bootUp_inv (h : s.Inv) : (bootUp s).Inv := holds_ite (bootSlot_inv h) (holds_ite (bootSlot_inv h) (mk_inv h))

theorem execPowerGood_inv : NextInv (execPowerGood s) := bootUp_inv (mk_inv rfl)

theorem execDebugHalt_inv (h : s.Inv) : NextInv (execDebugHalt s) := by
  unfold execDebugHalt
  split
  · exact h
  · extract_lets +onlyGivenNames t
    have ht : t.Inv := mod_inv h
    split
    · exact ht
    · split
      · exact mod_inv (haltContext_inv ht)
      · exact ht

/-! ## The control slice's arithmetic -/

theorem aluOp_inv {d srcs f} (h : s.Inv) : NextInv (aluOp s d srcs f) := issueC_inv h (fun _ k => mod_inv k)

theorem aluBinary_inv {d a b f} (h : s.Inv) : NextInv (aluBinary s d a b f) := aluOp_inv h

theorem aluUnary_inv {d a f} (h : s.Inv) : NextInv (aluUnary s d a f) := aluOp_inv h

/-! ## Operands -/

theorem popSources_inv {xs} (h : s.Inv) : (popSources s xs).Inv := mk_inv (mod_inv h)

theorem stalled_inv {o : XOp} (h : s.Inv) : (o.stalled s).Inv := holds_ite h (mod_inv h)

theorem reserveDest_inv {d} (h : s.Inv) : (reserveDest s d).Inv :=
  holds_ite (mod_inv h) (holds_ite (mod_inv h) (holds_ite (mk_inv h) h))

theorem issuedX_inv {o f} (h : s.Inv) : (issuedX s o f).Inv :=
  mod_inv (mod_inv (reserveDest_inv (mod_inv (popSources_inv (mod_inv h)))))

theorem issueX_inv {o f} (h : s.Inv) : NextInv (issueX s o f) := by
  unfold issueX
  split
  · exact h
  · split
    · exact trapSync_inv h
    · split
      · exact h
      · extract_lets s'
        have hs' : s'.Inv := landDue_inv h
        split
        · exact trapSync_inv h
        · split
          · exact trapSync_inv h
          · exact trapSync_inv h
          · exact stalled_inv h
          · exact settle_inv (retire_inv (issuedX_inv hs'))

/-! ## The execute slice's floating point -/

theorem floatBinary_inv {f latency d a b t k u v} (h : s.Inv) : NextInv (floatBinary f latency d a b t k u v s) := issueX_inv h

theorem floatFused_inv {t negP negC d a b c k u v} (h : s.Inv) : NextInv (floatFused t negP negC d a b c k u v s) := issueX_inv h

theorem floatUnary_inv {f latency d a t k u} (h : s.Inv) : NextInv (floatUnary f latency d a t k u s) := issueX_inv h

/-! ## The execute slice's integers -/

theorem intBinary_inv {f d a b t k u v} (h : s.Inv) : NextInv (intBinary f d a b t k u v s) := issueX_inv h

theorem intUnary_inv {f d a t k u} (h : s.Inv) : NextInv (intUnary f d a t k u s) := issueX_inv h

theorem convert_inv {mode sat d a src dst k u} (h : s.Inv) : NextInv (convert mode sat d a src dst k u s) := issueX_inv h

theorem predicate_inv {d k f} (h : s.Inv) : NextInv (predicate d k s f) := issueX_inv h

theorem reduce_inv {f ok d a t k u} (h : s.Inv) : NextInv (reduce f ok d a t k u s) := issueX_inv h

theorem permute_inv {d srcs k illegal f} (h : s.Inv) : NextInv (permute d srcs k illegal s f) := issueX_inv h

theorem execVloop_inv {v n} (h : s.Inv) : NextInv (execVloop v n s) := by
  unfold execVloop
  refine orTrap_inv h ?_
  split
  · exact h
  · split
    · exact holds_ite (trapSync_inv h) h
    · extract_lets t
      have ht : t.Inv := mod_inv (landDue_inv h)
      exact settle_inv (startLoop_inv (mod_inv ht))

/-! ## Matrix -/

theorem matrixC_inv {gs len} {act : State → State} (h : s.Inv) (hact : ∀ t, t.Inv → (act t).Inv) :
    NextInv (matrixC s gs len act) :=
  holds_ite h (issueC_inv h hact)

theorem execLease_inv {u} (h : s.Inv) : NextInv (execLease u s) :=
  orTrap_inv h (issueC_inv h (fun _ k => holds_ite k (holds_ite (mod_inv k) (leaseAct_inv k))))

theorem execUnlease_inv (h : s.Inv) : NextInv (execUnlease s) :=
  orTrap_inv h (issueC_inv h (fun _ k => holds_ite k (settleLease_inv (mod_inv k))))

theorem execMout_inv {t a b f} (h : s.Inv) : NextInv (execMout t a b f s) :=
  orTrap_inv h (orTrapG_inv h (orTrapG_inv h (matrixC_inv h (fun _ k => mod_inv (mod_inv k)))))

theorem execMoutRq_inv {t f} (h : s.Inv) : NextInv (execMoutRq t f s) :=
  orTrap_inv h (orTrap_inv h (matrixC_inv h (fun _ k => mod_inv (mod_inv k))))

theorem execMstat_inv {d} (h : s.Inv) : NextInv (execMstat d s) := orTrap_inv h (issueC_inv h (fun _ k => mod_inv (drawn_inv k)))

theorem issueMma_inv {kind a b c f r} (h : s.Inv) : NextInv (issueMma s kind a b c f r) := by
  unfold issueMma
  refine orTrap_inv h ?_
  split
  · exact orTrapG_inv h h
  · exact matrixC_inv h (fun _ k => settleLease_inv (mod_inv k))

theorem execMkat_inv {a f r} (h : s.Inv) : NextInv (execMkat a f r s) := by
  unfold execMkat
  refine orTrap_inv h ?_
  split
  · exact orTrapG_inv h h
  · exact matrixC_inv h (fun _ k => settleLease_inv (mod_inv k))

theorem execGauntletGrant_inv {cluster} (h : s.Inv) : NextInv (execGauntletGrant cluster s) := by
  unfold execGauntletGrant
  extract_lets _
  split
  · exact h
  · split
    · exact h
    · exact setArray_inv h

theorem execLeaseSlackDecrement_inv {core} (h : s.Inv) : NextInv (execLeaseSlackDecrement core s) := by
  unfold execLeaseSlackDecrement
  extract_lets +onlyGivenNames _
  split
  · exact h
  · extract_lets _ _ s'
    have hs' : s'.Inv := setArray_inv h
    exact holds_ite (withCtx_inv hs' (fun _ k => countLate_inv k)) hs'

theorem execTermClockExpiry_inv {cluster} (h : s.Inv) : NextInv (execTermClockExpiry cluster s) := by
  unfold execTermClockExpiry
  extract_lets _
  split
  · exact holds_ite h (withCtx_inv h (fun _ k => endTerm_inv k))
  · exact h

theorem execTermIdleExpiry_inv {cluster} (h : s.Inv) : NextInv (execTermIdleExpiry cluster s) := by
  unfold execTermIdleExpiry
  extract_lets +onlyGivenNames _
  split
  · extract_lets _
    exact holds_ite h (withCtx_inv h (fun _ k => endTerm_inv k))
  · exact h

theorem startLease_inv (h : s.Inv) : OnSome FstInv (startLease s) := by
  unfold startLease
  extract_lets +onlyGivenNames _
  split
  · trivial
  · split
    · exact h
    · split
      · trivial
      · extract_lets _
        split
        · trivial
        · split
          · exact holds_ite (mod_inv h) trivial
          · split
            · exact holds_ite (mod_inv (setArray_inv h)) trivial
            · trivial

theorem seekLines_inv {o p ls} (h : s.Inv) : OnOk State.Inv (seekLines o p ls s) := by
  induction ls generalizing s with
  | nil => exact h
  | cons l ls ih =>
    unfold seekLines
    split
    · exact ih h
    · split
      · trivial
      · rename_i e
        exact ih (OnOk.of_eq e (seekLine_inv h))

/-- The slots' places are a term too large for the kernel to walk through at each unfolding: the recursion is opened by `delta` and
the places are taken as any function. -/
theorem seekScales_inv {o xs} (h : s.Inv) : OnOk State.Inv (seekScales o xs s) := by
  delta seekScales seekScales._f
  generalize slotPlace = place
  induction xs generalizing s with
  | nil => exact h
  | cons x xs ih =>
    dsimp only
    split
    · exact ih h
    · split
      · exact ih h
      · split
        · trivial
        · exact ih (getD_inv (askLine_inv h) h)

theorem seekSpans_inv {o ps} (h : s.Inv) : OnOk State.Inv (seekSpans o ps s) := by
  induction ps generalizing s with
  | nil => exact h
  | cons p ps ih =>
    unfold seekSpans
    split
    · trivial
    · rename_i e
      exact ih (OnOk.of_eq e (seekLines_inv h))

theorem seekPass_inv {o} (h : s.Inv) : OnOk State.Inv (seekPass s o) := by
  unfold seekPass
  split
  · trivial
  · rename_i e
    have hk := OnOk.of_eq e (seekSpans_inv h)
    split
    · trivial
    · rename_i e
      have hk := OnOk.of_eq e (seekScales_inv hk)
      exact hk

theorem writeTile_inv {o rows} (h : s.Inv) : (writeTile o s rows).Inv := foldl_inv (fun _ _ k => mod_inv k) h

theorem passFault_inv {o c va pipe} (h : s.Inv) : (passFault s o c va pipe).Inv := afterLease_inv (engineFault_inv h)

theorem passDone_inv {o} (h : s.Inv) : (passDone s o).Inv := by
  unfold passDone
  split
  · exact afterLease_inv (failUnnamed_inv h)
  · exact mod_inv h

theorem execMatrixPassEnd_inv (h : s.Inv) : NextInv (execMatrixPassEnd s) := by
  unfold execMatrixPassEnd
  split
  · exact h
  · rename_i e
    have hk := OnSome.of_eq e (startLease_inv h)
    split
    · exact hk
    · split
      · exact passFault_inv hk
      · rename_i e
        have hk := OnOk.of_eq e (seekPass_inv hk)
        extract_lets +onlyGivenNames _
        split
        · exact passFault_inv hk
        · exact hk
        · exact passDone_inv (writeTile_inv hk)

theorem finishMkat_inv {o} (h : s.Inv) : (finishMkat s o).Inv := by
  unfold finishMkat
  extract_lets +onlyGivenNames _ _ _ _
  split
  · exact completeOp_inv (setArray_inv h)
  · extract_lets t t1 t2
    have ht : t.Inv := setArray_inv h
    have ht1 : t1.Inv := completeOp_inv (writeRecord_inv ht)
    have ht2 : t2.Inv := holds_ite (mod_inv ht1) ht1
    exact startTest_inv ht2

theorem execMatrixCommandComplete_inv (h : s.Inv) : NextInv (execMatrixCommandComplete s) := by
  unfold execMatrixCommandComplete
  split
  · split
    · exact holds_ite (sweep_inv (afterLease_inv (failUnnamed_inv h))) h
    · exact h
  · split
    · exact h
    · rename_i e
      have hk := OnSome.of_eq e (startLease_inv h)
      split
      · refine sweep_inv ?_
        split
        · exact afterLease_inv (failUnnamed_inv hk)
        · exact afterLease_inv (finishMkat_inv hk)
      · exact holds_ite (afterLease_inv (completeOp_inv hk)) hk

theorem execMzeroComplete_inv (h : s.Inv) : NextInv (execMzeroComplete s) := by
  unfold execMzeroComplete
  split
  · exact h
  · extract_lets _
    exact settleLease_inv (completeOp_inv (foldl_inv (fun _ _ k => mod_inv k) h))

theorem moutMemory_inv {o} (h : s.Inv) : (moutMemory s o).Inv := by
  unfold moutMemory
  extract_lets +onlyGivenNames _ _ stop
  have hstop : ∀ x y, (stop x y).Inv := by
    intro _ _
    unfold stop
    split
    · exact failUnnamed_inv h
    · exact engineFail_inv h
  split
  · extract_lets t _
    have ht : t.Inv := mod_inv h
    split
    · exact hstop _ _
    · rename_i e
      have hk := OnOk.of_eq e (putLine_inv ht)
      exact hk
  · split
    · exact h
    · split
      · exact hstop _ _
      · extract_lets _
        split
        · exact completeOp_inv h
        · split
          · exact failUnnamed_inv h
          · exact mod_inv h

theorem moutQueue_inv {o} (h : s.Inv) : (moutQueue s o).Inv := by
  unfold moutQueue
  split
  · exact failUnnamed_inv h
  · extract_lets _ _ t
    have ht : t.Inv := mk_inv h
    exact holds_ite (completeOp_inv ht) (mod_inv ht)

theorem execMoutComplete_inv (h : s.Inv) : NextInv (execMoutComplete s) := by
  unfold execMoutComplete
  split
  · exact h
  · exact sweep_inv (settleLease_inv (holds_ite (moutMemory_inv h) (moutQueue_inv h)))

/-! ## Resources -/

theorem notePassed_inv {n} (h : s.Inv) : (notePassed s n).Inv := holds_ite (setCore_inv h) (holds_ite (setGusset_inv h) h)

theorem failLeases_inv (h : s.Inv) : (failLeases s).Inv := afterLease_inv (foldl_inv (fun _ _ k => failUnnamed_inv k) h)

theorem leaveWay_inv {n x} (h : s.Inv) : (leaveWay n s x).Inv := by
  unfold leaveWay
  split
  · exact evictLine_inv h
  · split
    · rename_i e
      have hk := OnSome.of_eq e (wayFor_inv h)
      exact setSlice_inv hk
    · exact h

theorem takeOut_inv {r} (h : s.Inv) : (takeOut s r).Inv := by
  unfold takeOut
  split
  · extract_lets _ t
    have ht : t.Inv := setArray_inv h
    exact foldl_inv (fun _ _ k => withCtx_inv k (fun _ k' => failLeases_inv k')) ht
  · extract_lets _
    exact holds_ite (setCore_inv h) (setCore_inv h)
  · exact setCore_inv h
  · extract_lets _ t
    have ht : t.Inv := setSlice_inv h
    exact foldl_inv (fun _ _ k => leaveWay_inv k) ht
  · exact setGusset_inv h

theorem execSelftestComplete_inv {res lasting} (h : s.Inv) : NextInv (execSelftestComplete res lasting s) := by
  unfold execSelftestComplete
  split
  · exact h
  · extract_lets _ _ t t1
    have ht : t.Inv := mk_inv (holds_ite h (setQuarantine_inv h))
    have ht1 : t1.Inv := holds_ite (takeOut_inv ht) (notePassed_inv ht)
    exact mk_inv ht1

/-! ## System -/

theorem sysC_inv {gs r write} {act : State → State} (h : s.Inv) (hact : ∀ t, t.Inv → (act t).Inv) :
    NextInv (sysC s gs r write act) :=
  holds_ite h (holds_ite (mod_inv h) (issueC_inv h (fun _ k => mod_inv (hact _ k))))

/-- The decoder is taken as any function, so that it is never opened: what is decoded does not matter to the invariant. -/
theorem writeStep_inv {r v} (h : s.Inv) : NextInv (writeStep r v s) := by
  unfold writeStep
  obtain ⟨d, e⟩ : ∃ d, d = decode := ⟨_, rfl⟩
  rw [← e]
  split
  · split
    · exact holds_ite (orTrap_inv h (sysC_inv h (fun _ k => mod_inv k))) h
    · exact h
  · exact h

theorem frameTurn_inv (h : s.Inv) : (frameTurn s).Inv := by
  unfold frameTurn
  split
  · exact mod_inv h
  · extract_lets fault
    have hfault : ∀ x y, (fault x y).Inv := fun _ _ => frameFault_inv (mod_inv h)
    split
    · split
      · rename_i e
        have hk := OnOk.of_eq e (seekLine_inv h)
        exact hk
      · exact hfault _ _
    · split
      · exact hfault _ _
      · exact h
      · exact returnWith_inv (mod_inv h)

theorem execEret_inv (h : s.Inv) : NextInv (execEret s) :=
  orTrap_inv h (holds_ite h (holds_ite (mod_inv h) (holds_ite h (holds_ite (frameTurn_inv h) (returnFromTrap_inv h)))))

theorem execCrgnOpen_inv {a b} (h : s.Inv) : NextInv (execCrgnOpen a b s) :=
  orTrap_inv h (orTrapG_inv h (orTrapG_inv h (issueC_inv h (fun _ k => mod_inv k))))

theorem execCrgnClose_inv (h : s.Inv) : NextInv (execCrgnClose s) :=
  orTrap_inv h (holds_ite h (issueC_inv h (fun _ k => mod_inv k)))

theorem mirrorLink_inv (h : s.Inv) : (mirrorLink s).Inv := by
  unfold mirrorLink
  split
  · exact h
  · split
    · exact mod_inv (failOp_inv h)
    · exact h

theorem execCrgnCloseMirror_inv {f} (h : s.Inv) : NextInv (execCrgnCloseMirror f s) :=
  orTrap_inv h (holds_ite h (issueC_inv h (fun _ k => mirrorLink_inv (mod_inv k))))

theorem execSelftestArray_inv {d} (h : s.Inv) : NextInv (execSelftestArray d s) := by
  unfold execSelftestArray
  split
  · exact h
  · split
    · split
      · exact issueC_inv h (fun _ k => mod_inv k)
      · exact holds_ite (issueC_inv h (fun _ k => mod_inv k)) (mod_inv (startTest_inv h))
    · exact h
    · exact issueC_inv h (fun _ k => mod_inv k)

/-! ## Transfer -/

theorem pushCq_inv {a v} (h : s.Inv) : NextInv (pushCq s a v) := holds_ite h (issueC_inv h (fun _ k => mod_inv k))

theorem endControl_inv (h : s.Inv) : (endControl s).Inv := settleLease_inv (mod_inv h)

theorem endExecute_inv (h : s.Inv) : (endExecute s).Inv := mod_inv (landDue_inv h)

theorem execEndUnit_inv (h : s.Inv) : NextInv (execEndUnit s) :=
  bothSlices_inv (orTrap_inv h (holds_ite h (endControl_inv h))) (holds_ite h (endExecute_inv h))

/-! ## Fetch -/

theorem startFetch_inv {side va} (h : s.Inv) : (startFetch s side va).Inv := holds_ite h (issueAccess_inv h)

theorem waitSpeculation_inv (h : s.Inv) : (waitSpeculation s).Inv := holds_ite (trapSync_inv h) h

theorem illegalHere_inv {side} (h : s.Inv) : (illegalHere s side).Inv := holds_ite (waitSpeculation_inv h) (trapSync_inv h)

theorem fetchSlice_inv {side} (h : s.Inv) : (fetchSlice s side).Inv := by
  unfold fetchSlice
  extract_lets +onlyGivenNames _
  split
  · exact h
  · split
    · exact h
    · split
      · exact getD_inv (resolveUnresolved_inv h) h
      · split
        · exact illegalHere_inv h
        · split
          · exact startFetch_inv h
          · extract_lets _ _
            split
            · exact advance_inv h
            · split
              · exact illegalHere_inv h
              · split
                · exact startFetch_inv h
                · split
                  · exact holds_ite (waitSpeculation_inv h) (consumePoison_inv h)
                  · split
                    · exact holds_ite (waitSpeculation_inv h) h
                    · exact holds_ite h (illegalHere_inv h)

theorem nextInput_inv (h : s.Inv) : SndInv (nextInput s) := by
  unfold nextInput
  extract_lets s'
  have hs' : s'.Inv := mk_inv h
  split
  · exact hs'
  · exact mk_inv hs'

theorem registerError_inv (h : s.Inv) : (registerError s).Inv := holds_ite h (mod_inv (startTest_inv h))

theorem tileError_inv (h : s.Inv) : (tileError s).Inv := by
  unfold tileError
  split
  · exact h
  · rename_i e
    have hk := OnSome.of_eq e (startLease_inv h)
    exact holds_ite hk (afterLease_inv (engineFail_inv (drawn_inv (startTest_inv hk))))

theorem prepareInput_inv {i} (h : s.Inv) : (prepareInput i s).Inv := by
  unfold prepareInput
  split
  · exact h
  · exact holds_ite (storeBytes_inv h) h
  · exact mk_inv h
  · exact startTest_inv h
  · exact noteCorrected_inv h
  · exact mk_inv h
  · exact registerError_inv (focus_inv h)
  · exact tileError_inv (focus_inv h)
  · exact mk_inv h
  · exact mk_inv h
  · split
    · exact walkFill_inv h
    · exact h
  · exact h

/-! ## The slices' turns and what is prepared -/

theorem trapAt_inv {side} (h : s.Inv) : OnSome Prepared.Inv (trapAt s side) := holds_ite (fetchSlice_inv (mk_inv h)) trivial

theorem syncTrap_inv (h : s.Inv) : OnSome Prepared.Inv (syncTrap s) := by
  unfold syncTrap
  split
  · trivial
  · split
    · rename_i e
      have hk := OnSome.of_eq e (trapAt_inv h)
      exact hk
    · exact trapAt_inv h

theorem boundaryTurn_inv {side} (h : s.Inv) : (boundaryTurn s side).Inv := by
  unfold boundaryTurn
  split
  · exact getD_inv (syncTrap_inv h) h
  · split
    · exact fetchSlice_inv h
    · split
      · rename_i e
        have hk := OnSome.of_eq e (trapAt_inv h)
        exact getD_inv (trapAt_inv h) hk
      · exact fetchSlice_inv h

theorem eventTurn_inv {e} (h : s.Inv) : (eventTurn s e).Inv := by
  unfold eventTurn
  split
  · exact h
  · split
    · exact holds_ite (getD_inv (syncTrap_inv h) h) h
    · exact holds_ite (getD_inv (syncTrap_inv h) h) h
    · exact holds_ite (getD_inv (syncTrap_inv h) h) h
    · exact holds_ite (getD_inv (syncTrap_inv (mod_inv h)) h) h
    · exact h

theorem noteWait_inv {side n} (h : s.Inv) : (noteWait side s n).Inv := by
  unfold noteWait
  split
  · exact withCtx_inv h (fun _ k => mod_inv k)
  · exact h

theorem sliceTurn_inv {side n} (h : s.Inv) : FstInv (sliceTurn s side n) := by
  unfold sliceTurn
  extract_lets _ noted _
  have hnoted : noted.Inv := foldl_inv (fun _ _ k => noteWait_inv k) h
  split
  · exact hnoted
  · exact setGusset_inv hnoted

theorem turnOf_inv {i} (h : s.Inv) : SndInv (turnOf i s) := by
  unfold turnOf
  split
  · exact holds_ite (sliceTurn_inv h) h
  · exact h

theorem prepareTurn_inv {i} (h : s.Inv) : (prepareTurn i s).Inv := by
  unfold prepareTurn
  split
  · split
    · trivial
    · split
      · exact boundaryTurn_inv (mk_inv (focus_inv h))
      · exact holds_ite h (eventTurn_inv (focus_inv h))
  · exact holds_ite h (prepareInput_inv h)
  · exact prepareInput_inv h

theorem prepare_inv (h : s.Inv) : (prepare s).Inv := prepareTurn_inv (turnOf_inv (nextInput_inv h))

/-! ## Every instruction and event -/

/-- Each instruction and event keeps the invariant: those of one form by what the form keeps. -/
theorem exec_inv (i : Instr) (h : s.Inv) : NextInv (exec i s) := by
  cases i with unfold exec
  | add | sub | and | or | xor | andn | shl | shr | sra | slt | sltu | min | minu | max | maxu | mul | mulh | mulhu | div | divu | rem |
    remu | addsh => exact aluBinary_inv h
  | clz | popc | addi | andi | ori | xori | shli | shri | srai => exact aluUnary_inv h
  | sel | cmp | cmpImm | pbr | pbrg | alignWaitCnt | time => exact issueC_inv h (fun _ k => mod_inv k)
  | bfx | bfxSx => exact orTrap_inv h (aluUnary_inv h)
  | bfi => exact orTrap_inv h (aluOp_inv h)
  | li | lih => exact aluOp_inv h
  | ldZ8 | ldZ16 | ldZ32 | ldZ64 | ldS8 | ldS16 | ldS32 => exact loadC_inv h
  | stZ8 | stZ16 | stZ32 | stZ64 => exact storeC_inv h
  | vld => exact loadRows_inv h
  | vst | vgather | vscatter | roiRd => exact accessC_inv h
  | vradd => exact orTrap_inv h (accessC_inv h)
  | amoZ32 | amoZ64 => exact amoC_inv h
  | casZ32 | casZ64 => exact casC_inv h
  | pin => exact execPin_inv h
  | unpin => exact execUnpin_inv h
  | cflush | cinv | swb => exact cacheC_inv h
  | stouch => exact issueC_inv h (fun _ k => holds_ite (touchLines_inv k) k)
  | flagAdd | flagRd => exact flagC_inv h (issueC_inv h (fun _ k => mod_inv k))
  | flagWait => exact execFlagWait_inv h
  | flagWaitSub => exact execFlagWaitSub_inv h
  | wait => exact holds_ite h (issueC_inv h (fun _ k => k))
  | fence => exact execFence_inv h
  | barArrive => exact execBarArrive_inv h
  | barWait | waitPred => exact orTrap_inv h (holds_ite h (issueC_inv h (fun _ k => k)))
  | startNext => exact orTrap_inv h (issueC_inv h (fun _ k => mk_inv (mod_inv k)))
  | tspawn => exact execTspawn_inv h
  | futRd => exact execFutRd_inv h
  | futFill => exact execFutFill_inv h
  | lvlCancel => exact execLvlCancel_inv h
  | lease => exact execLease_inv h
  | unlease => exact execUnlease_inv h
  | mzero => exact orTrap_inv h (matrixC_inv h (fun _ k => mod_inv k))
  | mout => exact execMout_inv h
  | moutRq => exact execMoutRq_inv h
  | mstat => exact execMstat_inv h
  | sunbind => exact execSunbind_inv h
  | sctxStart => exact issueC_inv h (fun _ k => mod_inv (startFrom_inv k))
  | sctxStop => exact execSctxStop_inv h
  | sdepth => exact execSdepth_inv h
  | rowWait => exact execRowWait_inv h
  | rowPost | rowPostFrame | rowPostSet => exact postC_inv h
  | rowRdPos => exact execRowRdPos_inv h
  | rowRdRec | rowRdStamp => exact rowRecord_inv h
  | alignWait => exact execAlignWait_inv h
  | trap => exact holds_ite h (enterTrap_inv (retire_inv h))
  | eret => exact execEret_inv h
  | sysRd | sysWr => exact orTrap_inv h (sysC_inv h (fun _ k => mod_inv k))
  | tlbinvPage | tlbinvAsid => exact holds_ite h (issueC_inv h (fun _ k => mk_inv k))
  | crgnOpen => exact execCrgnOpen_inv h
  | crgnClose => exact execCrgnClose_inv h
  | crgnCloseMirror => exact execCrgnCloseMirror_inv h
  | selftestArray => exact execSelftestArray_inv h
  | loop | loopi => exact loopC_inv h
  | br | brPn | brPt => exact bothSlices_inv (branchC_inv h) (transferX_inv h)
  | jmp | call | ret => exact bothSlices_inv (transferC_inv h) (transferX_inv h)
  | vany | vall => exact bothSlices_inv (claimVote_inv h) (pushVote_inv h)
  | vcnt => exact bothSlices_inv (popVq_inv h) (pushVote_inv h)
  | popv => exact popVq_inv h
  | pushc | mktail => exact pushCq_inv h
  | pushd => exact holds_ite h (issueC_inv h (fun _ k => mod_inv k))
  | endUnit => exact execEndUnit_inv h
  | mov | movMain | bcast | iota | zero | extr | fcmp | vcmp | qpack | qunpack | kpop | selExecute | shuf => exact issueX_inv h
  | fadd | fsub | fmul | fmin | fmax => exact floatBinary_inv h
  | fabs | fneg | fclass | frcp | frsqrt | fsqrt | fexp2 | flog2 | ftanh | fsig => exact floatUnary_inv h
  | fmaF32 | fmaBf16 | fmaF16 | fmsF32 | fmsBf16 | fmsF16 | fnmaF32 | fnmaBf16 | fnmaF16 => exact floatFused_inv h
  | vadd | vsub | vadds | vsubs | vmul | vmulh | vmin | vmax | vand | vor | vxor | vshl | vshr | vshls => exact intBinary_inv h
  | vabs | vabss | vneg | vnegs | vnot | vclz | vpopc => exact intUnary_inv h
  | cvtRne | cvtsRne | cvtRtz | cvtsRtz | cvtRup | cvtsRup | cvtRdn | cvtsRdn => exact convert_inv h
  | kand | kor | kxor | kandn | knot | kmov => exact predicate_inv h
  | rsum | rmax | rmin | risum | risums => exact reduce_inv h
  | perm | rot | slide => exact permute_inv h
  | vloop => exact execVloop_inv h
  | mma | mmaSp => exact issueMma_inv h
  | mkat => exact execMkat_inv h
  | copy | copys | copyDec | fill | copyPeer | wrq | dtab => exact copyC_inv h
  | vlds => exact execVlds_inv h
  | vsts => exact execVsts_inv h
  | sbind => exact execSbind_inv h
  | tileCommit => exact execTileCommit_inv h
  | alignSet => exact execAlignSet_inv h
  | tshapeWrite | fpmodeWrite | timecmpWrite | slacktabWrite => exact writeStep_inv h
  | loopRegisterWrite => exact holds_ite (writeStep_inv h) h
  | powerGood => exact execPowerGood_inv
  | recoveryImageWrite => exact holds_ite h (bootUp_inv (mk_inv h))
  | quoteRequest | heartbeatSend => exact holds_ite h (holds_ite (mk_inv h) (mk_inv h))
  | quoteDone => exact holds_ite h (mk_inv (storeBytes_inv h))
  | housekeepingWrite => exact execHousekeepingWrite_inv h
  | stashcfgWrite => exact execStashcfgWrite_inv h
  | ctcTick => exact comeTo_inv (mk_inv h)
  | ctcrateWrite | affinityExpiry | cameraLinkTraining => exact mk_inv h
  | ctcofsWrite => exact comeTo_inv h
  | ringInstall => exact execRingInstall_inv h
  | ringRemove => exact setRing_inv h
  | tailWrite => exact execTailWrite_inv h
  | admissionTurn => exact execAdmissionTurn_inv h
  | ringStallEpisode => exact execRingStallEpisode_inv h
  | matchEntryArm => exact execMatchEntryArm_inv h
  | matchWriteArrival => exact countMatch_inv h
  | deadlinePass => exact passDeadline_inv h
  | walkerStep => exact execWalkerStep_inv h
  | commonQueueMove => exact execCommonQueueMove_inv h
  | dispatch => exact execDispatch_inv h
  | schedulerPreempt => exact execSchedulerPreempt_inv h
  | preemptHalt => exact execPreemptHalt_inv h
  | saveComplete => exact execSaveComplete_inv h
  | tspawnEnqueue => exact execTspawnEnqueue_inv h
  | bankRefill => exact checkHead_inv (refillBank_inv h)
  | unitRetire => exact execUnitRetire_inv h
  | jobEnd => exact jobCommand_inv h (fun _ k => k)
  | jobCancel => exact jobCommand_inv h (fun _ k => cancelJob_inv k)
  | jobActivate => exact jobCommand_inv h (fun _ k => activateJob_inv k)
  | jobHold => exact jobCommand_inv h (fun _ k => closeEpisodes_inv k)
  | jobRetire => exact execJobRetire_inv h
  | channelInstall => exact execChannelInstall_inv h
  | faultReply => exact execFaultReply_inv h
  | pageWalkComplete => exact execPageWalkComplete_inv h
  | loadReply => exact execLoadReply_inv h
  | resultLand => exact settle_inv (landDue_inv (holds_ite (mod_inv h) h))
  | votePop => exact execVotePop_inv h
  | arbiterGrant => exact execArbiterGrant_inv h
  | slackDecrement | noUrgencyPromotion => exact modPacket_inv h
  | sliceRequestGrant => exact execSliceRequestGrant_inv h
  | sliceFillComplete => exact execSliceFillComplete_inv h
  | windowAccessServe => exact execWindowAccessServe_inv h
  | fenceMarkerRetire => exact foldl_inv (fun _ _ k => inject_inv k) (setSlice_inv h)
  | flitCrcReplay => exact execFlitCrcReplay_inv h
  | gauntletGrant => exact execGauntletGrant_inv h
  | leaseSlackDecrement => exact execLeaseSlackDecrement_inv h
  | termClockExpiry => exact execTermClockExpiry_inv h
  | termIdleExpiry => exact execTermIdleExpiry_inv h
  | matrixPassEnd => exact execMatrixPassEnd_inv h
  | matrixCommandComplete => exact execMatrixCommandComplete_inv h
  | mzeroComplete => exact execMzeroComplete_inv h
  | moutComplete => exact execMoutComplete_inv h
  | selftestComplete => exact execSelftestComplete_inv h
  | copyStart => exact execCopyStart_inv h
  | copyComplete => exact execCopyComplete_inv h
  | peerWriteArrival => exact execPeerWriteArrival_inv h
  | wrqArrival => exact execWrqArrival_inv h
  | peerAck => exact execPeerAck_inv h
  | mirrorArrival => exact execMirrorArrival_inv h
  | mirrorAck => exact execMirrorAck_inv h
  | streamFlitLand => exact execStreamFlitLand_inv h
  | flowSignalArrival => exact execFlowSignalArrival_inv h
  | contextEnd => exact execContextEnd_inv h
  | cameraFrameStart => exact execCameraFrameStart_inv h
  | embeddedHeader => exact execEmbeddedHeader_inv h
  | cameraLine => exact execCameraLine_inv h
  | cameraFrameEnd => exact execCameraFrameEnd_inv h
  | lidarPacket => exact execLidarPacket_inv h
  | ethernetFrame => exact execEthernetFrame_inv h
  | ptpEgress => exact execPtpEgress_inv h
  | otherPacketDiscard => exact holds_ite (discardPacket_inv (heardCamera_inv h)) h
  | rowDeadlineExpiry => exact execRowDeadlineExpiry_inv h
  | lidarFrameTimeout => exact execLidarFrameTimeout_inv h
  | tileCommitComplete => exact execTileCommitComplete_inv h
  | setTimeout => exact settleGroup_inv h
  | timerExpiry => exact holds_ite (mod_inv h) h
  | trapEntry => exact execTrapEntry_inv h
  | unwind => exact execUnwind_inv h
  | unitFail => exact execUnitFail_inv h
  | cancelStop => exact execCancelStop_inv h
  | heartbeatReceive | linkRetrain | linkRetrained | idleFlitSend | idleFlitReceive | linkFlitAcknowledgment
  | controlMessagePassThrough => exact holds_ite (mk_inv h) h
  | peerLostTimeout | retrainTimeout | linkIdleTimeout => exact holds_ite (linkDown_inv h) h
  | linkEnable | linkFlitReplay => exact holds_ite h (mk_inv h)
  | linkTrained => exact holds_ite h (hostEvent_inv (mk_inv h))
  | fatalNoticeReceive => exact linkDown_inv h
  | throttleStart | throttleEnd => exact measureHeat_inv (mk_inv h)
  | overheat => exact measureHeat_inv h
  | bootWatchdogStall => exact fatalEvent_inv h
  | dispatchEcc => exact holds_ite (fatalEvent_inv h) h
  | debugHalt => exact execDebugHalt_inv h
  | debugResume => exact holds_ite h (noteTimer_inv (settle_inv (mod_inv h)))
  | writeAcknowledgment => exact execWriteAcknowledgment_inv h

/-! ## A step -/

theorem step_inv (h : s.Inv) : NextInv (step s) := by
  have hp := prepare_inv h
  unfold step
  split
  · rename_i e
    rw [e] at hp
    exact exec_inv _ hp
  · rename_i e
    rw [e] at hp
    exact hp
  · trivial

/-- Settles O54: the input that is prepared, and then the instruction or event that runs, keep the invariant. -/
theorem stepKeepsInvariant : Obligations.StepKeepsInvariant :=
  fun _ _ h e => NextInv.of_eq e (step_inv h)

end Sys2Proof.Machine
end

section
/-! SUPPORT. NaNs in the execute slice's arithmetic, and the lesser and the greater of two operands (R33, R36, R165). -/

namespace Sys2Proof.Num

/-! ## Fields of a code -/

/-- A bit field below bit c is one of the low c bits. -/
theorem mod_two_pow_div_mod (x : Nat) {a b c : Nat} (h : a + b ≤ c) : x % 2 ^ c / 2 ^ a % 2 ^ b = x / 2 ^ a % 2 ^ b := by
  have e : 2 ^ c = 2 ^ a * 2 ^ (c - a) := by rw [← Nat.pow_add]; congr 1; omega
  rw [e, Nat.mod_mul_right_div_self, Nat.mod_mod_of_dvd _ (Nat.pow_dvd_pow 2 (by omega))]

theorem sign_mod_width (f : Fmt) (x : Nat) : x % 2 ^ f.width / f.signBit % 2 = x / f.signBit % 2 :=
  mod_two_pow_div_mod (b := 1) x (Nat.le_refl _)

/-- A code's value is read from the format's own bits. -/
theorem unpack_mod_width (f : Fmt) (x : Nat) : unpack f (x % 2 ^ f.width) = unpack f x := by
  have exp : x % 2 ^ f.width / 2 ^ f.mbits % 2 ^ f.ebits = x / 2 ^ f.mbits % 2 ^ f.ebits :=
    mod_two_pow_div_mod x (by unfold Fmt.width; omega)
  have frac : x % 2 ^ f.width % 2 ^ f.mbits = x % 2 ^ f.mbits :=
    Nat.mod_mod_of_dvd x (Nat.pow_dvd_pow 2 (by unfold Fmt.width; omega))
  simp only [unpack, sign_mod_width, exp, frac]

/-- A code with exponent 0 is a number (R32). -/
theorem unpack_of_exp_zero {f : Fmt} (hf : 0 < f.ebits) {x : Nat} (h : x / 2 ^ f.mbits % 2 ^ f.ebits = 0) :
    unpack f x = .num (signOf f x) (x % 2 ^ f.mbits) f.least := by
  have top : (0 : Nat) ≠ 2 ^ f.ebits - 1 := by have := Nat.one_lt_two_pow (n := f.ebits) (by omega); omega
  simp only [unpack, h, top, if_false, if_true, signOf, Fmt.least]

theorem signOf_mod_width (f : Fmt) (x : Nat) : signOf f (x % 2 ^ f.width) = signOf f x := by
  simp only [signOf, sign_mod_width]

/-! ## Flushed operands (R36) -/

theorem flushIn_eq (ftz : Bool) (f : Fmt) (x : Nat) : flushIn ftz f x = if ftz then flushed f x else x % 2 ^ f.width := by
  cases ftz <;> simp [flushIn, flushed]

/-- A flushed code is its own low bits, or a zero of its sign in place of a code with exponent 0. -/
theorem flushIn_cases (ftz : Bool) (f : Fmt) (x : Nat) :
    flushIn ftz f x = x % 2 ^ f.width ∨
      x / 2 ^ f.mbits % 2 ^ f.ebits = 0 ∧ flushIn ftz f x = x / f.signBit % 2 * f.signBit := by
  unfold flushIn
  split
  · next h => exact .inr ⟨by simpa using (Bool.and_eq_true_iff.mp h).2, rfl⟩
  · exact .inl rfl

/-- Flushing keeps the sign. -/
theorem signOf_flushIn (ftz : Bool) (f : Fmt) (x : Nat) : signOf f (flushIn ftz f x) = signOf f x := by
  rcases flushIn_cases ftz f x with h | ⟨-, h⟩
  · rw [h, signOf_mod_width]
  · simp only [h, signOf, Nat.mul_div_cancel _ (Nat.two_pow_pos (f.ebits + f.mbits)), Fmt.signBit, Nat.mod_mod]

/-- An operand is read as it stands, or as a number in place of a number. -/
theorem load_cases {f : Fmt} (hf : 0 < f.ebits) (ftz : Bool) (x : Nat) :
    load ftz f x = unpack f x ∨ ∃ n m n' m', unpack f x = .num n m f.least ∧ load ftz f x = .num n' m' f.least := by
  unfold load
  rcases flushIn_cases ftz f x with h | ⟨he, h⟩
  · exact .inl (by rw [h, unpack_mod_width])
  · have zero : x / f.signBit % 2 * f.signBit / 2 ^ f.mbits % 2 ^ f.ebits = 0 := by
      rw [Fmt.signBit, Nat.pow_add, ← Nat.mul_assoc, Nat.mul_div_cancel _ (Nat.two_pow_pos _), Nat.mul_mod_left]
    exact .inr ⟨_, _, _, _, unpack_of_exp_zero hf he, by rw [h]; exact unpack_of_exp_zero hf zero⟩

/-- Flushing neither makes nor hides a NaN. -/
theorem load_isNaN {f : Fmt} (hf : 0 < f.ebits) (ftz : Bool) (x : Nat) : (load ftz f x).isNaN = (unpack f x).isNaN := by
  rcases load_cases hf ftz x with h | ⟨n, m, n', m', h, k⟩
  · rw [h]
  · rw [h, k]; rfl

theorem load_isSignalling {f : Fmt} (hf : 0 < f.ebits) (ftz : Bool) (x : Nat) :
    (load ftz f x).isSignalling = (unpack f x).isSignalling := by
  rcases load_cases hf ftz x with h | ⟨n, m, n', m', h, k⟩
  · rw [h]
  · rw [h, k]; rfl

/-! ## NaN operands (R33) -/

namespace Val

theorem isNaN_of_isSignalling {a : Val} (h : a.isSignalling = true) : a.isNaN = true := by
  cases a with
  | nan s => rfl
  | inf n => cases h
  | num n m e => cases h

@[simp] theorem isNaN_neg (a : Val) : a.neg.isNaN = a.isNaN := by cases a <;> rfl

theorem add_of_isNaN {mode : RoundMode} {a b : Val} (h : a.isNaN = true ∨ b.isNaN = true) : a.add mode b = .nan false := by
  cases a <;> cases b <;> simp_all [isNaN, add]

theorem mul_of_isNaN {a b : Val} (h : a.isNaN = true ∨ b.isNaN = true) : a.mul b = .nan false := by
  cases a <;> cases b <;> simp_all [isNaN, mul]

end Val

theorem signalled_nv (vs : List Val) : (signalled vs).nv = vs.any Val.isSignalling := by
  unfold signalled; split
  · next h => rw [h]; rfl
  · next h => rw [Bool.not_eq_true] at h; rw [h]; rfl

@[simp] theorem Flags.union_none (a : Flags) : a.union .none = a := by simp [Flags.union, Flags.none]
@[simp] theorem Flags.none_union (a : Flags) : Flags.none.union a = a := by simp [Flags.union, Flags.none]

/-- A NaN formed from operands with a NaN among them is the default NaN, and NV says whether one of them is signalling. -/
theorem store_of_nan_operand (f : Fmt) (mode : RoundMode) (ftz q : Bool) {vs : List Val} (h : vs.any Val.isNaN = true) :
    store f mode ftz vs (.nan q) = (f.defaultNaN, signalled vs) := by
  simp [store, round, madeNaN, Val.isNaN, h]

section TwoOperands

variable {f : Fmt} (hf : 0 < f.ebits) (mode : RoundMode) (ftz : Bool) {x y : Nat}
  (h : (unpack f x).isNaN = true ∨ (unpack f y).isNaN = true)
include hf h

theorem load_isNaN_or : (load ftz f x).isNaN = true ∨ (load ftz f y).isNaN = true := by
  rwa [load_isNaN hf, load_isNaN hf]

theorem any_load_isNaN : [load ftz f x, load ftz f y].any Val.isNaN = true := by
  simpa using load_isNaN_or hf ftz h

theorem fadd_of_isNaN : fadd f mode ftz x y = (f.defaultNaN, signalled [load ftz f x, load ftz f y]) := by
  rw [fadd, Val.add_of_isNaN (load_isNaN_or hf ftz h), store_of_nan_operand _ _ _ _ (any_load_isNaN hf ftz h)]

theorem fsub_of_isNaN : fsub f mode ftz x y = (f.defaultNaN, signalled [load ftz f x, load ftz f y]) := by
  rw [fsub, Val.add_of_isNaN (by rw [Val.isNaN_neg]; exact load_isNaN_or hf ftz h),
    store_of_nan_operand _ _ _ _ (any_load_isNaN hf ftz h)]

theorem fmul_of_isNaN : fmul f mode ftz x y = (f.defaultNaN, signalled [load ftz f x, load ftz f y]) := by
  rw [fmul, Val.mul_of_isNaN (load_isNaN_or hf ftz h), store_of_nan_operand _ _ _ _ (any_load_isNaN hf ftz h)]

end TwoOperands

/-- NV of two operands as the codes stand, flushed or not. -/
theorem signalled_load_nv {f : Fmt} (hf : 0 < f.ebits) (ftz : Bool) (x y : Nat) :
    (signalled [load ftz f x, load ftz f y]).nv = ((unpack f x).isSignalling || (unpack f y).isSignalling) := by
  simp [signalled_nv, load_isSignalling hf]

/-- A fused form with a NaN operand: the default NaN, and NV besides where the product of two numbers is none. -/
theorem fused_of_isNaN {f : Fmt} (hf : 0 < f.ebits) (mode : RoundMode) (ftz p c : Bool) {x y z : Nat}
    (h : (unpack f x).isNaN = true ∨ (unpack f y).isNaN = true ∨ (unpack f z).isNaN = true) :
    fused f mode ftz p c x y z = (f.defaultNaN, (signalled [load ftz f x, load ftz f y, load ftz f z]).union
      (madeNaN [load ftz f x, load ftz f y] ((load ftz f x).mul (load ftz f y)))) := by
  rw [← load_isNaN hf ftz x, ← load_isNaN hf ftz y, ← load_isNaN hf ftz z] at h
  have any : [load ftz f x, load ftz f y, load ftz f z].any Val.isNaN = true := by simpa using h
  simp only [fused]
  generalize load ftz f x = a, load ftz f y = b, load ftz f z = d at h any
  have sum : (if p = true then (a.mul b).neg else a.mul b).isNaN = true ∨ (if c = true then d.neg else d).isNaN = true := by
    have product : (if p = true then (a.mul b).neg else a.mul b).isNaN = (a.mul b).isNaN := by split <;> simp
    have addend : (if c = true then d.neg else d).isNaN = d.isNaN := by split <;> simp
    rw [product, addend]
    rcases h with ha | hb | hd
    · exact .inl (by rw [Val.mul_of_isNaN (.inl ha)]; rfl)
    · exact .inl (by rw [Val.mul_of_isNaN (.inr hb)]; rfl)
    · exact .inr hd
  rw [Val.add_of_isNaN sum, store_of_nan_operand _ _ _ _ any]

theorem fused_nv_of_isSignalling {f : Fmt} (hf : 0 < f.ebits) (mode : RoundMode) (ftz p c : Bool) {x y z : Nat}
    (h : (unpack f x).isSignalling = true ∨ (unpack f y).isSignalling = true ∨ (unpack f z).isSignalling = true) :
    (fused f mode ftz p c x y z).2.nv = true := by
  have nan := h.imp Val.isNaN_of_isSignalling (Or.imp Val.isNaN_of_isSignalling Val.isNaN_of_isSignalling)
  have nv : (signalled [load ftz f x, load ftz f y, load ftz f z]).nv = true := by
    simpa [signalled_nv, load_isSignalling hf] using h
  rw [fused_of_isNaN hf mode ftz p c nan]
  simp [Flags.union, nv]

/-! ## The order of numbers (R165) -/

theorem Val.signed_mul (n : Bool) (m k : Nat) : Val.signed n (m * k) = Val.signed n m * (k : Int) := by
  cases n with
  | true => simp only [Val.signed, if_true, Int.natCast_mul, Int.neg_mul]
  | false => simp only [Val.signed, Bool.false_eq_true, if_false, Int.natCast_mul]

/-- A number in units of 2^q is so many times what it is in greater units. -/
theorem Val.signed_rescale (n : Bool) (m : Nat) {q lo e : Int} (h : q ≤ lo) (k : lo ≤ e) :
    Val.signed n (m * 2 ^ (e - q).toNat) = Val.signed n (m * 2 ^ (e - lo).toNat) * 2 ^ (lo - q).toNat := by
  have split : (e - q).toNat = (e - lo).toNat + (lo - q).toNat := by omega
  rw [split, Nat.pow_add, ← Nat.mul_assoc, Val.signed_mul, Int.natCast_pow, Int.cast_ofNat_Int]

section Order

variable (n n' : Bool) (m m' : Nat) {q e e' : Int} (h : q ≤ e) (h' : q ≤ e')
include h h'

/-- Two numbers are in the order of what they are in units of 2^q. -/
theorem Val.lt_num : (Val.num n m e).lt (.num n' m' e') =
    decide (Val.signed n (m * 2 ^ (e - q).toNat) < Val.signed n' (m' * 2 ^ (e' - q).toNat)) := by
  have pos : (0 : Int) < 2 ^ (min e e' - q).toNat := Int.pow_pos (by decide)
  have unit : q ≤ min e e' := by omega
  rw [Val.signed_rescale n m unit (Int.min_le_left e e'), Val.signed_rescale n' m' unit (Int.min_le_right e e')]
  simp only [Val.lt, Int.mul_lt_mul_right pos]

theorem Val.eq_num : (Val.num n m e).eq (.num n' m' e') =
    decide (Val.signed n (m * 2 ^ (e - q).toNat) = Val.signed n' (m' * 2 ^ (e' - q).toNat)) := by
  have pos : (0 : Int) < 2 ^ (min e e' - q).toNat := Int.pow_pos (by decide)
  have unit : q ≤ min e e' := by omega
  rw [Val.signed_rescale n m unit (Int.min_le_left e e'), Val.signed_rescale n' m' unit (Int.min_le_right e e')]
  simp only [Val.eq, Int.mul_eq_mul_right_iff (Int.ne_of_gt pos)]
  rfl

end Order

/-- A code that is a number has the sign of its code, and its last place is no less than the format's least. -/
theorem unpack_num {f : Fmt} {c : Nat} {n : Bool} {m : Nat} {e : Int} (h : unpack f c = .num n m e) :
    n = signOf f c ∧ f.least ≤ e := by
  unfold unpack at h
  dsimp only at h
  split at h
  · split at h <;> cases h
  · split at h
    · cases h; exact ⟨rfl, Int.le_refl _⟩
    · cases h; exact ⟨rfl, by unfold Fmt.least; omega⟩

/-- A finite code: its sign, and its value in units of the format's last place. -/
theorem unpack_of_finiteAt {f : Fmt} {c : Nat} {u : Int} (h : finiteAt f f.least c = some u) :
    ∃ m e, unpack f c = .num (signOf f c) m e ∧ f.least ≤ e ∧ u = Val.signed (signOf f c) (m * 2 ^ (e - f.least).toNat) := by
  unfold finiteAt at h
  split at h
  · next n m e hc =>
    obtain ⟨rfl, he⟩ := unpack_num hc
    exact ⟨m, e, hc, he, (Option.some.inj h).symm⟩
  · cases h

/-- One finite code is below another: a lesser value, or −0 beside +0. -/
theorem below_of_finiteAt {f : Fmt} {x y : Nat} {u v : Int} (hx : finiteAt f f.least x = some u) (hy : finiteAt f f.least y = some v) :
    below (unpack f x) (unpack f y) = true ↔ u < v ∨ u = v ∧ signOf f x = true ∧ signOf f y = false := by
  obtain ⟨m, e, ex, le, rfl⟩ := unpack_of_finiteAt hx
  obtain ⟨m', e', ey, le', rfl⟩ := unpack_of_finiteAt hy
  rw [ex, ey, below, Val.lt_num _ _ _ _ le le', Val.eq_num _ _ _ _ le le']
  simp [Val.negative, and_assoc]

theorem isNaN_of_finiteAt {f : Fmt} {c : Nat} {u : Int} (h : finiteAt f f.least c = some u) : (unpack f c).isNaN = false := by
  obtain ⟨m, e, hc, -⟩ := unpack_of_finiteAt h
  rw [hc]; rfl

/-! ## FMIN and FMAX (R165) -/

/-- The operand that FMAX or FMIN chooses is the second. -/
def choosesSecond (isMax : Bool) (a b : Val) : Bool := if isMax then below a b else below b a

theorem fminmax_eq (f : Fmt) (ftz isMax : Bool) (x y : Nat) :
    fminmax f ftz isMax x y = (
      if (load ftz f x).isNaN then (if (load ftz f y).isNaN then f.defaultNaN else flushIn ftz f y)
      else if (load ftz f y).isNaN then flushIn ftz f x
      else if choosesSecond isMax (load ftz f x) (load ftz f y) then flushIn ftz f y else flushIn ftz f x,
      signalled [load ftz f x, load ftz f y]) := by
  simp only [fminmax, choosesSecond, load]
  by_cases nx : (unpack f (flushIn ftz f x)).isNaN = true
  · by_cases ny : (unpack f (flushIn ftz f y)).isNaN = true
    · simp [nx, ny]
    · simp [nx, ny]
  · by_cases ny : (unpack f (flushIn ftz f y)).isNaN = true
    · simp [nx, ny]
    · simp [nx, ny]; cases isMax <;> rfl

/-- Of two finite operands FMIN and FMAX give the lesser and the greater, and of two zeros the negative and the positive one. -/
theorem fminmax_of_finiteAt (f : Fmt) (ftz isMax : Bool) {x y : Nat} {u v : Int}
    (hx : finiteAt f f.least (flushIn ftz f x) = some u) (hy : finiteAt f f.least (flushIn ftz f y) = some v) :
    finiteAt f f.least (fminmax f ftz isMax x y).1 = some (if isMax then max u v else min u v) ∧
    (u = v → signOf f (fminmax f ftz isMax x y).1 =
      if isMax then signOf f x && signOf f y else signOf f x || signOf f y) := by
  have nx : (load ftz f x).isNaN = false := isNaN_of_finiteAt hx
  have ny : (load ftz f y).isNaN = false := isNaN_of_finiteAt hy
  have second : choosesSecond isMax (load ftz f x) (load ftz f y) = true ↔
      if isMax then u < v ∨ u = v ∧ signOf f x = true ∧ signOf f y = false
      else v < u ∨ v = u ∧ signOf f y = true ∧ signOf f x = false := by
    have ab := below_of_finiteAt hx hy
    have ba := below_of_finiteAt hy hx
    simp only [signOf_flushIn] at ab ba
    cases isMax
    · exact ba
    · exact ab
  rw [fminmax_eq]
  simp only [nx, ny, Bool.false_eq_true, if_false]
  by_cases h : choosesSecond isMax (load ftz f x) (load ftz f y) = true
  · rw [if_pos h, hy, signOf_flushIn]
    rw [second] at h
    cases isMax
    · refine ⟨by simp at h ⊢; omega, fun e => ?_⟩
      obtain ⟨-, hsy, -⟩ := h.resolve_left (by omega)
      simp [hsy]
    · refine ⟨by simp at h ⊢; omega, fun e => ?_⟩
      obtain ⟨-, hsx, hsy⟩ := h.resolve_left (by omega)
      simp [hsx, hsy]
  · rw [if_neg h, hx, signOf_flushIn]
    rw [second] at h
    cases isMax
    · refine ⟨by simp at h ⊢; omega, fun e => ?_⟩
      subst e
      cases hx : signOf f x <;> simp_all
    · refine ⟨by simp at h ⊢; omega, fun e => ?_⟩
      subst e
      cases hx : signOf f x <;> simp_all

/-! ## The statement -/

theorem ebits_pos_of_mem {f : Fmt} (h : f ∈ [f32, bf16, f16]) : 0 < f.ebits := by
  simp only [List.mem_cons, List.not_mem_nil, or_false] at h
  rcases h with rfl | rfl | rfl <;> decide

theorem defaultNaN_lt_signBit {f : Fmt} (h : f ∈ [f32, bf16, f16]) : f.defaultNaN < f.signBit := by
  simp only [List.mem_cons, List.not_mem_nil, or_false] at h
  rcases h with rfl | rfl | rfl <;> decide

/-- Settles O24: a NaN operand makes each sum, product and fused form the default NaN, and FMIN and FMAX choose by `below`. -/
theorem naNResults : Obligations.NaNResults := by
  intro f m ftz p c x y z hm
  have hf := ebits_pos_of_mem hm
  refine ⟨fun op hop h => ?_, fun h => ⟨?_, fused_nv_of_isSignalling hf m ftz p c⟩, ?_⟩
  · have each : op = (f.defaultNaN, signalled [load ftz f x, load ftz f y]) := by
      simpa [fadd_of_isNaN hf m ftz h, fsub_of_isNaN hf m ftz h, fmul_of_isNaN hf m ftz h] using hop
    subst each
    exact ⟨rfl, defaultNaN_lt_signBit hm, signalled_load_nv hf ftz x y⟩
  · rw [fused_of_isNaN hf m ftz p c h]
  · intro r nx ny read
    have hread (w : Nat) : read w = flushIn ftz f w := (flushIn_eq ftz f w).symm
    have hr : r = _ := fminmax_eq f ftz p x y
    rw [load_isNaN hf, load_isNaN hf] at hr
    refine ⟨?_, fun h => ?_, fun h k => ?_, fun h k => ?_, fun u v hu hv => ?_⟩
    · rw [hr]; exact signalled_load_nv hf ftz x y
    · change (unpack f x).isNaN = true at h
      rw [hr, hread]; simp only [h, if_true]; rfl
    · change (unpack f x).isNaN = false at h
      change (unpack f y).isNaN = true at k
      rw [hr, hread]; simp [h, k]
    · change (unpack f x).isNaN = false at h
      change (unpack f y).isNaN = false at k
      rw [hr, hread, hread]; simp only [h, k, Bool.false_eq_true, if_false]
      split
      · exact .inr rfl
      · exact .inl rfl
    · rw [hread] at hu hv
      exact fminmax_of_finiteAt f ftz p hu hv

end Sys2Proof.Num
end

section
/-! SUPPORT. Reductions: the tree over lists that the execute slice runs is the pairwise tree over lanes (R44, R180). -/

namespace Sys2Proof

/-! ## Flags and types -/

theorem Num.Flags.union_assoc (a b c : Num.Flags) : (a.union b).union c = a.union (b.union c) := by
  simp [Num.Flags.union, Bool.or_assoc]

/-- Flags raised before a row of operations stay with those it raises. -/
theorem Num.Flags.foldl_union {α : Type} (g : α → Num.Flags) (xs : List α) (a : Num.Flags) :
    xs.foldl (fun m x => m.union (g x)) a = a.union (xs.foldl (fun m x => m.union (g x)) .none) := by
  induction xs generalizing a with
  | nil => simp
  | cons x xs ih => simp only [List.foldl_cons]; rw [ih, ih (Num.Flags.none.union _), Num.Flags.none_union, Num.Flags.union_assoc]

theorem Num.clamp_eq {x lo hi : Int} (h : lo ≤ hi) : Num.clamp x lo hi = max lo (min hi x) := by
  unfold Num.clamp; split
  · omega
  · split <;> omega

namespace ElemType

/-- Saturation clamps to the ends of the type's range (R7, R161). -/
theorem saturate_eq (t : ElemType) (x : Int) : t.saturate x = (max t.minValue (min t.maxValue x) % 2 ^ t.width).toNat := by
  have hs : (0 : Int) < 2 ^ (t.width - 1) := Int.pow_pos (by decide)
  have hu : (0 : Int) < 2 ^ t.width := Int.pow_pos (by decide)
  unfold saturate minValue maxValue Num.wrapz
  cases t.signed with
  | true => simp only [if_true, Num.sat]; rw [Num.clamp_eq (by omega)]
  | false => simp only [Bool.false_eq_true, if_false, Num.satz]; rw [Num.clamp_eq (by omega)]

end ElemType

namespace Machine

theorem width_le_of_anyOk {s : State} {t : ElemType} (h : anyOk s.laneBits t = true) : t.width ≤ s.laneBits := by
  rcases laneBits_cases s with e | e <;> rw [e] at h ⊢ <;> cases t <;> simp_all [anyOk, floatOk, intOk, ElemType.width]

theorem anyOk_of_floatOk {w : Nat} {t : ElemType} (h : floatOk w t = true) : anyOk w t = true := by simp [anyOk, h]

theorem anyOk_of_intOk {w : Nat} {t : ElemType} (h : intOk w t = true) : anyOk w t = true := by simp [anyOk, h]

theorem fmt?_of_intOk {w : Nat} {t : ElemType} (h : intOk w t = true) : t.fmt? = none := by
  cases t <;> simp_all [intOk, ElemType.fmt?]

theorem intOk_of_fmt? {w : Nat} {t : ElemType} {f : Num.Fmt} (h : t.fmt? = some f) : intOk w t = false := by
  cases t <;> simp_all [intOk, ElemType.fmt?]

theorem floatOk_of_intOk {w : Nat} {t : ElemType} (h : intOk w t = true) : floatOk w t = false := by
  cases t <;> simp_all [intOk, floatOk]

/-! ## The tree (R44) -/

/-- One level over the two halves of the lanes combines each lane with its partner. -/
theorem treeLevel_range (f : Nat → Nat → Nat × Num.Flags) (n : Nat) (g g' : Nat → Option Nat) :
    treeLevel f ((List.range n).map g) ((List.range n).map g') = (List.range n).map (fun l => combine f (g l) (g' l)) := by
  rw [treeLevel, List.zip_map', List.map_map]
  refine List.map_congr_left fun l _ => ?_
  simp only [Function.comp_apply, combine]
  cases g l <;> cases g' l <;> rfl

theorem range_two_pow_succ (k : Nat) (g : Nat → Option Nat) : (List.range (2 ^ (k + 1))).map g =
    (List.range (2 ^ k)).map g ++ (List.range (2 ^ k)).map (fun l => g (l + 2 ^ k)) := by
  rw [Nat.pow_succ, Nat.mul_two, List.range_add, List.map_append, List.map_map]
  congr 1
  exact List.map_congr_left fun l _ => congrArg g (Nat.add_comm _ _)

/-- The tree over a list of lanes gives what the tree over lanes gives, and adds its flags to those it began with. -/
theorem treeReduce_range (f : Nat → Nat → Nat × Num.Flags) (k : Nat) (g : Nat → Option Nat) (fl : Num.Flags) :
    treeReduce f k ((List.range (2 ^ k)).map g) fl = ((tree f k g).1, fl.union (tree f k g).2) := by
  induction k generalizing g fl with
  | zero => simp [treeReduce, tree]
  | succ k ih =>
    have len : ((List.range (2 ^ (k + 1))).map g).length / 2 = ((List.range (2 ^ k)).map g).length := by simp [Nat.pow_succ]
    simp only [treeReduce, tree]
    rw [len, range_two_pow_succ, List.take_left, List.drop_left, treeLevel_range, List.map_map, List.foldl_map]
    refine (ih _ _).trans (Prod.ext rfl ?_)
    rw [Num.Flags.foldl_union, Num.Flags.union_assoc]
    rfl

theorem two_pow_log2_lanes (s : State) : 2 ^ Nat.log2 s.lanes = s.lanes := by
  rcases laneBits_cases s with h | h <;> rcases rowBits_cases s with k | k <;> rw [State.lanes, h, k] <;> decide

/-! ## Issue (R180) -/

/-- What lane l of a reduction's source brings to the tree: its low bits, if the predicate names it. -/
def XOp.entry (s : State) (o : XOp) (t : ElemType) (l : Nat) : Option Nat :=
  if bitOf (o.mask s) l then some (o.lane s 0 l % 2 ^ t.width) else none

/-- What the tree over the source's lanes gives. -/
def XOp.reduced (s : State) (o : XOp) (t : ElemType) (op : Nat → Nat → Nat × Num.Flags) : Option Nat × Num.Flags :=
  tree op (Nat.log2 s.lanes) (o.entry s t)

/-- The execute slice's tree, over the operands as its issue reads them. -/
theorem treeReduce_landDue (s : State) (o : XOp) (t : ElemType) (op : Nat → Nat → Nat × Num.Flags) :
    treeReduce op (Nat.log2 (landDue s).lanes) ((List.range (landDue s).lanes).map (fun l =>
      if bitOf (o.mask s) l then some (srcLane (landDue s) (o.srcs.map (readSrc (landDue s))) 0 l % 2 ^ t.width) else none)) .none =
    o.reduced s t op := by
  have hL := landDue_landed s
  have e := treeReduce_range op (Nat.log2 s.lanes) (o.entry s t) .none
  rw [two_pow_log2_lanes, Num.Flags.none_union] at e
  simp only [srcLane, hL.lanes, hL.laneBits]
  exact e

/-- A number that fits lane 0 leaves zero in every other lane. -/
theorem laneOf_of_lt {w x : Nat} (h : x < 2 ^ w) (l : Nat) : laneOf x w l = (if l = 0 then x else 0) % 2 ^ w := by
  cases l with
  | zero => simp [laneOf]
  | succ l =>
    have big : x < 2 ^ (w * (l + 1)) := Nat.lt_of_lt_of_le h (Nat.pow_le_pow_right (by decide) (by rw [Nat.mul_succ]; omega))
    simp [laneOf, Nat.div_eq_of_lt big]

section

variable {i : Instr} {s : State} {f : State → Nat → Nat → Nat × Num.Flags} {ok : Nat → ElemType → Bool} {d : Fin 256} {a : Fin 16}
  {t : ElemType} {k : Fin 8} {u : Bool} (he : exec i s = reduce f ok d a t k u s)
  (h : ExecuteReady s { valueOp d [(a, u)] k 6 false with whole := true })
include he h

/-- A reduction of an accepted type leaves the tree's result in lane 0 and zero in every other. -/
theorem reduce_issues (hok : ok s.laneBits t = true) (hw : t.width ≤ s.laneBits) :
    let o := { valueOp d [(a, u)] k 6 false with whole := true }
    let r := o.reduced s t (f (landDue s))
    XIssues i s o (fun l => if l = 0 then r.1.getD 0 % 2 ^ t.width else 0) r.2 := by
  intro o r
  have small : r.1.getD 0 % 2 ^ t.width < 2 ^ s.laneBits :=
    Nat.lt_of_lt_of_le (Nat.mod_lt _ (Nat.two_pow_pos _)) (Nat.pow_le_pow_right (by decide) hw)
  have row : s.laneBits ≤ 1024 := by rcases laneBits_cases s with e | e <;> omega
  simp only [reduce, hok, Bool.not_true] at he
  refine xissues he h nofun ?_ ?_ ?_
  · intro l _
    rw [treeReduce_landDue, laneOf_of_lt small]
  · rw [treeReduce_landDue]
    exact Nat.lt_of_lt_of_le small (Nat.pow_le_pow_right (by decide) row)
  · rw [treeReduce_landDue]

/-- A reduction of another type is ILLEGAL. -/
theorem reduce_illegal (hok : ok s.laneBits t = false) : exec i s = .next (trapSync s .execute .illegal) := by
  obtain ⟨hr, he', hq, hw, -⟩ := h
  rw [he, reduce, issueX]
  simp [canIssue, Context.ended, hr, he', hq, hw, XOp.isIllegal, valueOp, hok]

end

/-- RMAX and RMIN on a float type choose as FMAX and FMIN do. -/
theorem extreme_float {t : ElemType} {f : Num.Fmt} (h : t.fmt? = some f) (isMax : Bool) (s : State) :
    extreme isMax t s = Num.fminmax f s.ctx.ftz isMax := by
  funext x y; simp only [extreme, h]

theorem extreme_int {t : ElemType} (h : t.fmt? = none) (isMax : Bool) (s : State) :
    extreme isMax t s = fun x y => (if decide (t.toInt x < t.toInt y) == isMax then y else x, .none) := by
  funext x y; simp only [extreme, h]

/-- Settles O31: each reduction is `reduce` of its own operation, and its tree that of R44. -/
theorem reductions : Obligations.Reductions := by
  intro s d a t k u o entry wrap gives illegal ready
  refine ⟨fun f hok hf => ?_, fun hok => ?_⟩
  · have hw := width_le_of_anyOk (anyOk_of_floatOk hok)
    have add : gives (.rsum d a t k u) _ := reduce_issues (exec_rsum d a t k u s) ready hok hw
    have most : gives (.rmax d a t k u) _ := reduce_issues (exec_rmax d a t k u s) ready (anyOk_of_floatOk hok) hw
    have least : gives (.rmin d a t k u) _ := reduce_issues (exec_rmin d a t k u s) ready (anyOk_of_floatOk hok) hw
    rw [extreme_float hf] at most least
    rw [hf] at add
    exact ⟨add, most, least, reduce_illegal (exec_risum d a t k u s) ready (intOk_of_fmt? hf),
      reduce_illegal (exec_risums d a t k u s) ready (intOk_of_fmt? hf)⟩
  · have hw := width_le_of_anyOk (anyOk_of_intOk hok)
    have most : gives (.rmax d a t k u) _ := reduce_issues (exec_rmax d a t k u s) ready (anyOk_of_intOk hok) hw
    have least : gives (.rmin d a t k u) _ := reduce_issues (exec_rmin d a t k u s) ready (anyOk_of_intOk hok) hw
    have add : gives (.risum d a t k u) _ := reduce_issues (exec_risum d a t k u s) ready hok hw
    have adds : gives (.risums d a t k u) _ := reduce_issues (exec_risums d a t k u s) ready hok hw
    rw [extreme_int (fmt?_of_intOk hok)] at most least
    simp only [ElemType.saturate_eq] at adds
    simp only [beq_true, decide_eq_true_eq] at most
    have swap (x y : Nat) : (if (decide (t.toInt x < t.toInt y) == false) = true then y else x) =
        if t.toInt x < t.toInt y then x else y := by by_cases c : t.toInt x < t.toInt y <;> simp [c]
    simp only [swap] at least
    exact ⟨most, least, add, adds, reduce_illegal (exec_rsum d a t k u s) ready (floatOk_of_intOk hok)⟩

end Machine

end Sys2Proof
end

section
/-! SUPPORT. The system registers: when an access acts, what each number reads, and what a write of each keeps (R37, R102, R288, R412). -/

namespace Sys2Proof.Machine

/-! ## Bits -/

theorem bitOf_eq_testBit (x i : Nat) : bitOf x i = x.testBit i := by
  rw [Nat.testBit_eq_decide_div_mod_eq]; rfl

/-- A W1C field within a byte: each bit keeps its value where 0 is written. -/
theorem testBit_and_complement (x : Nat) {w i : Nat} (hw : w < 256) (hi : i < 8) :
    (x &&& (255 - w)).testBit i = (x.testBit i && !w.testBit i) := by
  rw [Nat.testBit_and, show 255 - w = 2 ^ 8 - (w + 1) by omega, Nat.testBit_two_pow_sub_succ hw]
  simp [hi]

/-- Clearing the bits below n leaves those from n up. -/
theorem testBit_div_mul (x : Nat) {n i : Nat} (hi : n ≤ i) : (x / 2 ^ n * 2 ^ n).testBit i = x.testBit i := by
  rw [Nat.testBit_mul_two_pow, Nat.testBit_div_two_pow, Nat.sub_add_cancel hi]
  simp [hi]

/-- The bits of a field above others. -/
theorem testBit_add_mul (n x : Nat) {r i : Nat} (hr : r < 2 ^ n) (hi : n ≤ i) : (r + 2 ^ n * x).testBit i = x.testBit (i - n) := by
  rw [Nat.add_comm, Nat.testBit_two_pow_mul_add x hr]
  simp [Nat.not_lt.mpr hi]

theorem testBit_bitsOf (x hi lo i : Nat) : (bitsOf x hi lo).testBit i = (decide (i < hi + 1 - lo) && x.testBit (lo + i)) := by
  rw [bitsOf, Nat.testBit_mod_two_pow, Nat.testBit_div_two_pow, Nat.add_comm i lo]

/-! ## Writes of the registers with fields (R37, R102, R279, R288, R294, R412) -/

/-- FPMODE's flags are cleared where 1 is written; FTZ and RM are as written (R37). -/
theorem writeFpmode_fields (old v : Word) :
    (writeFpmode old v).toNat < 2 ^ 8 ∧ (writeFpmode old v).toNat % 2 ^ 3 = v.toNat % 2 ^ 3 ∧
    ∀ i, 3 ≤ i → i < 8 → bitOf (writeFpmode old v).toNat i = (bitOf old.toNat i && !bitOf v.toNat i) := by
  have le : old.toNat % 256 / 8 * 8 &&& (255 - v.toNat % 256 / 8 * 8) ≤ 255 := Nat.le_trans Nat.and_le_right (Nat.sub_le _ _)
  have value : (writeFpmode old v).toNat =
      v.toNat % 2 ^ 3 + 2 ^ 3 * ((old.toNat % 256 / 8 * 8 &&& (255 - v.toNat % 256 / 8 * 8)) / 2 ^ 3) := by
    rw [writeFpmode, BitVec.toNat_ofNat]; omega
  refine ⟨by omega, by omega, fun i h k => ?_⟩
  have low (x : Nat) : (x % 256 / 8 * 8).testBit i = x.testBit i := by
    refine (testBit_div_mul (n := 3) _ h).trans ((Nat.testBit_mod_two_pow x 8 i).trans ?_)
    simp [k]
  rw [value, bitOf_eq_testBit, testBit_add_mul 3 _ (Nat.mod_lt _ (Nat.two_pow_pos 3)) h, Nat.testBit_div_two_pow, Nat.sub_add_cancel h,
    testBit_and_complement _ (by omega) k, low, low, bitOf_eq_testBit, bitOf_eq_testBit]

/-- LATE's bits 39:32 are cleared where 1 is written; bits 31:0 are as written (R294). -/
theorem writeSys_late (v : Word) (c : Context) : ∃ x : Word, writeSys 0x06 v c = { c with late := x } ∧
    x.toNat < 2 ^ 40 ∧ x.toNat % 2 ^ 32 = v.toNat % 2 ^ 32 ∧
    ∀ i, 32 ≤ i → i < 40 → bitOf x.toNat i = (bitOf c.late.toNat i && !bitOf v.toNat i) := by
  refine ⟨_, rfl, ?_⟩
  have small : bitsOf v.toNat 39 32 < 2 ^ 8 := Nat.mod_lt _ (Nat.two_pow_pos 8)
  have le : bitsOf c.late.toNat 39 32 &&& (255 - bitsOf v.toNat 39 32) ≤ 255 := Nat.le_trans Nat.and_le_right (Nat.sub_le _ _)
  rw [BitVec.toNat_ofNat, Nat.mod_eq_of_lt (by omega)]
  refine ⟨by omega, by omega, fun i h k => ?_⟩
  rw [bitOf_eq_testBit, testBit_add_mul 32 _ (Nat.mod_lt _ (Nat.two_pow_pos 32)) h, testBit_and_complement _ small (by omega),
    testBit_bitsOf, testBit_bitsOf, bitOf_eq_testBit, bitOf_eq_testBit, Nat.add_sub_cancel' h]
  simp [show i - 32 < 8 by omega]

/-- Each entry of SLACKTAB0 and SLACKTAB1 is 12 bits of 16, and the rest is reserved (R288). -/
theorem writeSys_slacktab (k : Fin 2) (v : Word) (c : Context) : ∃ x : Word,
    writeSys (3 + k.val) v c = { c with slacktab := c.slacktab.set k.val x } ∧
    ∀ i, i < 64 → bitOf x.toNat i = (decide (i % 16 < 12) && bitOf v.toNat i) := by
  have mask : ∀ i, i < 64 → (0x0FFF0FFF0FFF0FFF : Word).getLsbD i = decide (i % 16 < 12) := by decide
  refine ⟨v &&& 0x0FFF0FFF0FFF0FFF, match k with | 0 => rfl | 1 => rfl, fun i hi => ?_⟩
  rw [bitOf_eq_testBit, bitOf_eq_testBit, BitVec.testBit_toNat, BitVec.testBit_toNat, BitVec.getLsbD_and, mask i hi, Bool.and_comm]

theorem toNat_and_low (v : Word) {m n : Nat} (hm : m = 2 ^ n - 1) (hn : n ≤ 64) :
    (v &&& BitVec.ofNat 64 m).toNat = v.toNat % 2 ^ n := by
  have lt : m < 2 ^ 64 := by have := Nat.pow_le_pow_right (n := 2) (by decide) hn; have := Nat.two_pow_pos n; omega
  rw [BitVec.toNat_and, BitVec.toNat_ofNat, Nat.mod_eq_of_lt lt, hm, Nat.and_two_pow_sub_one_eq_mod]

/-- A write of SLACKTAB2: 14 bits as written, and bit 14 too where the flag it names exists (R288). -/
theorem writeSys_slacktab2 (v : Word) (c : Context) : ∃ x : Word, writeSys 0x05 v c = { c with slacktab := c.slacktab.set 2 x } ∧
    x.toNat < 2 ^ 15 ∧ x.toNat % 2 ^ 14 = v.toNat % 2 ^ 14 ∧
    bitOf x.toNat 14 = (bitOf v.toNat 14 && decide (v.toNat / 2 ^ 8 % 2 ^ 6 < c.nflag)) := by
  have y : (v &&& 0x7FFF).toNat = v.toNat % 2 ^ 15 := toNat_and_low v rfl (by decide)
  have z : (v &&& 0x7FFF &&& 0x3FFF).toNat = v.toNat % 2 ^ 14 :=
    (toNat_and_low (n := 14) (v &&& 0x7FFF) rfl (by decide)).trans (by rw [y]; omega)
  have low : bitsOf (v.toNat % 2 ^ 15) 13 8 = v.toNat / 2 ^ 8 % 2 ^ 6 := by unfold bitsOf; omega
  have top : bitOf (v.toNat % 2 ^ 15) 14 = bitOf v.toNat 14 := by
    rw [bitOf_eq_testBit, bitOf_eq_testBit, Nat.testBit_mod_two_pow]; simp
  refine ⟨_, rfl, ?_⟩
  simp only [show ¬ (2 : Fin 3).val < 2 by decide, if_false, y, low, top]
  by_cases clears : (bitOf v.toNat 14 && decide (c.nflag ≤ v.toNat / 2 ^ 8 % 2 ^ 6)) = true
  · rw [if_pos clears, z]
    rw [Bool.and_eq_true, decide_eq_true_eq] at clears
    refine ⟨by omega, by omega, ?_⟩
    rw [bitOf_eq_testBit, Nat.testBit_mod_two_pow]
    simpa using fun _ => clears.2
  · rw [if_neg clears, y]
    refine ⟨by omega, by omega, ?_⟩
    rw [top]
    cases hb : bitOf v.toNat 14
    · rfl
    · simpa [hb] using clears

/-- A write of CRCFG: a size above 8 keeps the old one (assumption 36), and reserved bits read zero (R279). -/
theorem writeSys_crcfg (v : Word) (c : Context) : ∃ x : Word, writeSys 0x07 v c = { c with crcfg := x } ∧
    x.toNat / 2 ^ 12 = v.toNat / 2 ^ 12 ∧
    x.toNat % 2 ^ 12 = if v.toNat % 2 ^ 4 ≤ 8 then v.toNat % 2 ^ 4 else c.crcfg.toNat % 2 ^ 4 := by
  refine ⟨_, rfl, ?_⟩
  have hv := v.isLt
  by_cases keeps : 9 ≤ v.toNat % 16
  · rw [if_pos keeps, if_neg (by omega), BitVec.toNat_ofNat, Nat.mod_eq_of_lt (by omega)]
    omega
  · rw [if_neg keeps, if_pos (by omega), BitVec.toNat_ofNat, Nat.mod_eq_of_lt (by omega)]
    omega

/-- A write of CRCNT clears LOST where 1 is written, and leaves COUNT (R279). -/
theorem writeSys_crcnt (v : Word) (c : Context) : ∃ x : Word, writeSys 0x08 v c = { c with crcnt := x } ∧
    x.toNat % 2 ^ 32 = c.crcnt.toNat % 2 ^ 32 ∧ bitOf x.toNat 32 = (bitOf c.crcnt.toNat 32 && !bitOf v.toNat 32) := by
  refine ⟨_, rfl, ?_⟩
  by_cases clears : bitOf v.toNat 32 = true
  · have top : bitOf (c.crcnt.toNat % 2 ^ 32) 32 = false := by
      rw [bitOf_eq_testBit, Nat.testBit_mod_two_pow]; rfl
    rw [if_pos clears, BitVec.toNat_ofNat, Nat.mod_eq_of_lt (b := 2 ^ 64) (by omega), top, clears]
    exact ⟨by omega, by simp⟩
  · rw [if_neg clears]
    simp [clears]

/-- TSHAPE as it stands: nothing changes (R102). -/
theorem writeTshape_same {v : Word} {c : Context} (h : v.getLsbD 0 = c.w16) : writeTshape v c = c := by
  have e : bitOf v.toNat 0 = c.w16 := by rw [bitOf_eq_testBit, BitVec.testBit_toNat, h]
  simp only [writeTshape, e, if_true]

/-- A change of TSHAPE clears the main file, the operand file and the predicates (R102). -/
theorem writeTshape_change {v : Word} {c : Context} (h : v.getLsbD 0 ≠ c.w16) : writeTshape v c = { c with
    w16 := v.getLsbD 0, m := Vector.replicate 128 0, v := Vector.replicate 8 0, live := Vector.replicate 8 false, k := Vector.replicate 8 0 } := by
  have e : bitOf v.toNat 0 = v.getLsbD 0 := by rw [bitOf_eq_testBit, BitVec.testBit_toNat]
  simp only [writeTshape, e, h, if_false]

/-! ## Which registers there are (R412) -/

/-- A number below 64 that names no system register. -/
def sysReserved (r : Nat) : Prop := r = 0x16 ∨ r = 0x17 ∨ r = 0x1E ∨ r = 0x1F ∨ 0x26 ≤ r

/-- A system register with no field that SYS.WR writes. -/
def sysFixed (r : Nat) : Prop := r = 2 ∨ (0x0C ≤ r ∧ r ≤ 0x15)

theorem sysOrdered_iff (r : Nat) : sysOrdered r = true ↔ r = 0 ∨ r = 1 ∨ (0x20 ≤ r ∧ r ≤ 0x25) := by
  simp [sysOrdered, or_assoc]

theorem sysWritable_iff (r : Nat) : sysWritable r = true ↔ ¬ (sysReserved r ∨ sysFixed r) := by
  simp only [sysWritable, sysReserved, sysFixed, Bool.or_eq_true, Bool.and_eq_true, beq_iff_eq, decide_eq_true_eq]
  omega

theorem sysValue_eq_none_iff (s : State) (r : Nat) : sysValue s r = none ↔ sysReserved r := by
  unfold sysValue
  extract_lets c g
  split
  case h_23 =>
    unfold sysReserved
    by_cases control : 0x18 ≤ r ∧ r ≤ 0x1D
    · rw [if_pos control]; simp only [reduceCtorEq, false_iff]; omega
    · rw [if_neg control]
      by_cases execute : 0x20 ≤ r ∧ r ≤ 0x25
      · rw [if_pos execute]; simp only [reduceCtorEq, false_iff]; omega
      · rw [if_neg execute]; simp only [imp_false, true_iff] at *; omega
  all_goals simp [sysReserved]

/-! ## When an access acts (R38, R102, R412) -/

section

variable {s : State} {gs : List (Fin 32)} {r : Nat} {write : Bool} {act : State → State}

/-- An access that is ready, at its place and with nothing in flight that it waits for acts, and the slice moves on. -/
theorem sysC_ready (h : ControlReady s gs []) (hp : sysPlace s r = true) (hq : sysQuiet s r write = true) :
    sysC s gs r write act = .next (retire ((act s).mod (fun c => { c with xdrain := false })) .control 4 false) := by
  simp [sysC, h.stalled, hp, hq, issueC_ready h]

/-- An access waits for its place. -/
theorem sysC_waits (hp : sysPlace s r = false) : sysC s gs r write act = .next s := by
  simp [sysC, hp]

/-- An access of a register that is not ordered with the execute slice is at its place wherever that slice stands. -/
theorem sysPlace_of (h : sysOrdered r = true → atExecutePoint s = true) : sysPlace s r = true := by
  unfold sysPlace
  cases e : sysOrdered r with
  | false => rfl
  | true => exact h e

/-- An ordered access waits for the results in flight, and a write of TSHAPE for the engine's commands besides. -/
theorem sysQuiet_of (h : sysOrdered r = true → s.ctx.latches = []) (ho : write = true → r = 1 → s.ctx.ops = []) :
    sysQuiet s r write = true := by
  unfold sysQuiet
  cases e : sysOrdered r with
  | false => rfl
  | true =>
    by_cases w : write = true ∧ r = 1
    · simp [h e, ho w.1 w.2]
    · cases write <;> simp_all

end

theorem ControlReady.orTrap_illegal {s : State} {gs : List (Fin 32)} {cs : List (Fin 4)} (h : ControlReady s gs cs) (k : Result) :
    orTrap s .control true .illegal k = .next (trapSync s .control .illegal) := by
  have ⟨_, _, _, ha, _⟩ := h
  simp [orTrap, h.canIssue, ha]

theorem execSysRd_reserved {s : State} (h : ControlReady s [] []) (d : Fin 32) {r : Fin 64} (hr : sysReserved r.val) :
    exec (.sysRd d r) s = .next (trapSync s .control .illegal) := by
  rw [exec_sysRd, execSysRd, (sysValue_eq_none_iff s r.val).mpr hr]
  exact h.orTrap_illegal _

theorem execSysWr_fixed {s : State} (h : ControlReady s [] []) (a : Fin 32) {r : Fin 64} (hr : sysReserved r.val ∨ sysFixed r.val) :
    exec (.sysWr a r) s = .next (trapSync s .control .illegal) := by
  have hw : sysWritable r.val = false := by rw [← Bool.not_eq_true, sysWritable_iff, Classical.not_not]; exact hr
  rw [exec_sysWr, execSysWr, hw]
  exact h.orTrap_illegal _

/-- SYS.RD of a register whose place has not come waits. -/
theorem execSysRd_waits {s : State} {d : Fin 32} {r : Fin 64} (hp : sysPlace s r.val = false) (hr : ¬ sysReserved r.val) :
    exec (.sysRd d r) s = .next s := by
  have known : (sysValue s r.val).isNone = false := by
    rw [← Bool.not_eq_true, Option.isNone_iff_eq_none, sysValue_eq_none_iff]; exact hr
  rw [exec_sysRd, execSysRd, orTrap_false _ _ _ _ known, sysC_waits hp]

theorem execSysWr_waits {s : State} {a : Fin 32} {r : Fin 64} (hp : sysPlace s r.val = false)
    (hr : ¬ (sysReserved r.val ∨ sysFixed r.val)) : exec (.sysWr a r) s = .next s := by
  have writable : sysWritable r.val = true := (sysWritable_iff _).mpr hr
  rw [exec_sysWr, execSysWr, orTrap_false _ _ _ _ (by rw [writable]; rfl), sysC_waits hp]

/-- SYS.RD of a register that has its place writes its value to gd. -/
theorem execSysRd_completes {s : State} (h : ControlReady s [] []) (d : Fin 32) {r : Fin 64} {x : Word}
    (hp : sysPlace s r.val = true) (hq : sysQuiet s r.val false = true) (hx : sysValue s r.val = some x) :
    Completes (.sysRd d r) .control s (s.mod (fun c => { c.setG d x with xdrain := false })) := by
  refine ⟨_, ?_, retire_passed _ .control 4 false⟩
  rw [exec_sysRd, execSysRd, orTrap_false _ _ _ _ (by rw [hx]; rfl), sysC_ready h hp hq, hx]
  rfl

/-- SYS.WR of a register that has its place: the state it leaves. -/
theorem execSysWr_eq {s : State} {a : Fin 32} (h : ControlReady s [a] []) {r : Fin 64} (hw : sysWritable r.val = true)
    (hp : sysPlace s r.val = true) (hq : sysQuiet s r.val true = true) :
    exec (.sysWr a r) s =
      .next (retire (s.mod (fun c => { writeSys r.val (s.ctx.getG a) c with xdrain := false })) .control 4 false) := by
  rw [exec_sysWr, execSysWr, orTrap_false _ _ _ _ (by rw [hw]; rfl), sysC_ready h hp hq]
  rfl

/-- SYS.WR of a register that has its place writes it. -/
theorem execSysWr_completes {s : State} {a : Fin 32} (h : ControlReady s [a] []) {r : Fin 64} (hw : sysWritable r.val = true)
    (hp : sysPlace s r.val = true) (hq : sysQuiet s r.val true = true) {f : Context → Context}
    (hf : writeSys r.val (s.ctx.getG a) s.ctx = f s.ctx) :
    Completes (.sysWr a r) .control s (s.mod (fun c => { f c with xdrain := false })) := by
  refine ⟨_, execSysWr_eq h hw hp hq, ?_⟩
  have same : s.mod (fun c => { writeSys r.val (s.ctx.getG a) c with xdrain := false }) = s.mod (fun c => { f c with xdrain := false }) := by
    simp only [State.mod, hf]
  rw [same]
  exact retire_passed _ _ _ _

/-! ## Loop levels that are not active (R146 to R148) -/

/-- Both loop levels of the control slice are as in s. -/
def SameLoops (s t : State) : Prop := t.ctx.loopA = s.ctx.loopA ∧ t.ctx.loopB = s.ctx.loopB

theorem endCheck_inactive {r : LoopRegs} (h : r.active = false) (i j : Nat) : endCheck r i j = (r, none) := by
  simp [endCheck, h]

theorem leaveLevel_inactive {r : LoopRegs} (h : r.active = false) (t : Nat) : leaveLevel t r = r := by
  simp [leaveLevel, h]

section

variable {s : State} (hA : s.ctx.loopA.active = false) (hB : s.ctx.loopB.active = false)
include hA hB

theorem stepSequence_sameLoops (i j : Nat) : SameLoops s (stepSequence s .control i j) := by
  simp only [stepSequence, Context.levelA, Context.levelB, endCheck_inactive hA, endCheck_inactive hB, emptyBody]
  exact ⟨rfl, rfl⟩

theorem goTo_sameLoops (t : Word) : SameLoops s (goTo s .control t) :=
  ⟨leaveLevel_inactive hA t.toNat, leaveLevel_inactive hB t.toNat⟩

/-- A slice that moves on leaves the loop levels that are not active. -/
theorem advance_sameLoops (len : Nat) : SameLoops s (advance s .control len) := by
  unfold advance
  extract_lets i j hold u
  split
  · exact ⟨rfl, rfl⟩
  · split
    · split
      · split
        · split
          · exact goTo_sameLoops (s := u) hA hB _
          · exact stepSequence_sameLoops (s := u) hA hB _ _
        · split
          · exact goTo_sameLoops hA hB _
          · exact stepSequence_sameLoops (s := s.mod (Context.setRedir .control none)) hA hB _ _
      · exact stepSequence_sameLoops hA hB _ _
    · exact stepSequence_sameLoops hA hB _ _

theorem retire_sameLoops (len : Nat) : SameLoops s (retire s .control len false) :=
  advance_sameLoops (s := s.mod (Context.logIssue .control s.ctx.pcc)) hA hB len

end

/-- SYS.WR of a register that has its place leaves the control slice's loop levels as it wrote them, where neither is active. -/
theorem execSysWr_loops {s : State} {a : Fin 32} (h : ControlReady s [a] []) {r : Fin 64} (hw : sysWritable r.val = true)
    (hp : sysPlace s r.val = true) (hq : sysQuiet s r.val true = true) {c : Context} (hc : writeSys r.val (s.ctx.getG a) s.ctx = c)
    (hA : c.loopA.active = false) (hB : c.loopB.active = false) :
    ∃ t, exec (.sysWr a r) s = .next t ∧ t.ctx.loopA = c.loopA ∧ t.ctx.loopB = c.loopB := by
  subst hc
  let u : State := s.mod (fun c => { writeSys r.val (s.ctx.getG a) c with xdrain := false })
  have same : SameLoops u (retire u .control 4 false) := retire_sameLoops hA hB 4
  exact ⟨_, execSysWr_eq h hw hp hq, same⟩

/-! ## The statement -/

/-- TSTAT's fields (R412). -/
theorem tstatValue_eq (c : Context) : tstatValue c = c.lcode.toNat * 2 ^ 8 + (if c.fse then 2 else 0) + (if c.inh then 1 else 0) := by
  unfold tstatValue; omega

/-- Settles O50: which accesses act, what each number reads, and what a write of each number leaves. -/
theorem systemRegisters : Obligations.SystemRegisters := by
  intro s d a r ordered reserved fixed v bit done reads writes
  refine ⟨fun h => ⟨execSysRd_reserved h d, execSysWr_fixed h a, fun hr ho => ?_, fun hord hat => ?_⟩, fun h hr hf ho ht => ?_⟩
  · have place (e : sysOrdered r.val = true) := ho ((sysOrdered_iff _).mp e)
    have rd {x : Word} (hx : sysValue s r.val = some x) : reads x :=
      execSysRd_completes h d (sysPlace_of fun e => (place e).1) (sysQuiet_of (fun e => (place e).2) nofun) hx
    have rdAt {n : Fin 64} {x : Word} (hx : sysValue s n.val = some x) (e : r = n) : reads x := rd (e ▸ hx)
    obtain ⟨x, hx⟩ := Option.ne_none_iff_exists'.mp (mt (sysValue_eq_none_iff s r.val).mp hr)
    exact ⟨⟨x, hx, rd hx⟩, rdAt rfl, rdAt rfl, rdAt rfl, rdAt rfl, rdAt rfl, rdAt rfl, rdAt rfl, rdAt rfl, rdAt rfl, rdAt rfl, rdAt rfl,
      rdAt rfl, rdAt rfl, rdAt (congrArg (fun n => some (BitVec.ofNat 64 n)) (tstatValue_eq s.ctx)),
      rdAt (congrArg some (BitVec.ofNat_toNat 64 _).symm), rdAt rfl, rdAt rfl, rdAt rfl, rdAt rfl, rdAt rfl⟩
  · have hp : sysPlace s r.val = false := by simp [sysPlace, (sysOrdered_iff _).mpr hord, hat]
    exact ⟨execSysRd_waits hp fun k => by simp only [sysReserved] at k; omega,
      execSysWr_waits hp fun k => by simp only [sysReserved, sysFixed] at k; omega⟩
  · have place (e : sysOrdered r.val = true) := ho ((sysOrdered_iff _).mp e)
    have hw : sysWritable r.val = true := (sysWritable_iff _).mpr (not_or.mpr ⟨hr, hf⟩)
    have hp : sysPlace s r.val = true := sysPlace_of fun e => (place e).1
    have hq : sysQuiet s r.val true = true := sysQuiet_of (fun e => (place e).2) fun _ e => ht (Fin.ext e)
    have wr {f : Context → Context} (hf : writeSys r.val v s.ctx = f s.ctx) : writes f := execSysWr_completes h hw hp hq hf
    have wrAt {n : Fin 64} {f : Context → Context} (e : r = n) (hf : writeSys n.val v s.ctx = f s.ctx) : writes f := wr (e ▸ hf)
    have loopsAt {n : Fin 64} {c : Context} (e : r = n) (hc : writeSys n.val v s.ctx = c) := execSysWr_loops h hw hp hq (e ▸ hc)
    have fields {n : Fin 64} {F : Word → Context → Context} {P : Word → Prop} (e : r = n)
        (hx : ∃ x, writeSys n.val v s.ctx = F x s.ctx ∧ P x) : ∃ x, writes (F x) ∧ P x := hx.imp fun x h => ⟨wrAt e h.1, h.2⟩
    exact ⟨wr rfl, fun e => ⟨_, wrAt e rfl, writeFpmode_fields _ v⟩,
      fun e hv => wrAt e (writeTshape_same hv), fun e hv => wrAt e (writeTshape_change hv),
      fun k e => (writeSys_slacktab k v s.ctx).imp fun x h => ⟨wr (e ▸ h.1), h.2⟩, fun e => fields e (writeSys_slacktab2 v s.ctx),
      fun e => fields e (writeSys_late v s.ctx), fun e => fields e (writeSys_crcfg v s.ctx), fun e => fields e (writeSys_crcnt v s.ctx),
      fun e => wrAt e (congrArg (fun n => { s.ctx with trapbase := BitVec.ofNat 64 n }) Nat.div_mul_self_eq_mod_sub_self),
      fun e => wrAt e (congrArg (fun n => { s.ctx with tframe := BitVec.ofNat 64 n }) Nat.div_mul_self_eq_mod_sub_self),
      fun e => wrAt e rfl,
      fun hA hB => ⟨fun e =>
          have ⟨t, ht, ha, hb⟩ := loopsAt (c := { s.ctx with loopA := { s.ctx.loopA with count := v } }) e rfl hA hB
          ⟨t, ht, congrArg LoopRegs.count ha, hb⟩,
        fun e =>
          have ⟨t, ht, ha, hb⟩ := loopsAt (c := { s.ctx with loopB := { s.ctx.loopB with count := v } }) e rfl hA hB
          ⟨t, ht, congrArg LoopRegs.count hb, ha⟩⟩,
      fun e => wrAt e rfl, fun e => wrAt e rfl, fun e => wrAt e rfl, fun e => wrAt e rfl, fun e => wrAt e rfl, fun e => wrAt e rfl,
      fun e => wrAt e rfl⟩

end Sys2Proof.Machine
end

section
/-! SUPPORT. Every instruction that has a word reads back from its bytes (R67, R115 to R126). -/

namespace Sys2Proof.Laws.Encoding

/-- Instruction by instruction, the law of its encoding; an event has no word. -/
theorem statement (i : Instr) : Statement i := by
  cases i with
  | add d a b => exact add d a b
  | sub d a b => exact sub d a b
  | and d a b => exact and d a b
  | or d a b => exact or d a b
  | xor d a b => exact xor d a b
  | andn d a b => exact andn d a b
  | shl d a b => exact shl d a b
  | shr d a b => exact shr d a b
  | sra d a b => exact sra d a b
  | slt d a b => exact slt d a b
  | sltu d a b => exact sltu d a b
  | min d a b => exact min d a b
  | minu d a b => exact minu d a b
  | max d a b => exact max d a b
  | maxu d a b => exact maxu d a b
  | mul d a b => exact mul d a b
  | mulh d a b => exact mulh d a b
  | mulhu d a b => exact mulhu d a b
  | div d a b => exact div d a b
  | divu d a b => exact divu d a b
  | rem d a b => exact rem d a b
  | remu d a b => exact remu d a b
  | clz d a => exact clz d a
  | popc d a => exact popc d a
  | addsh d a b s => exact addsh d a b s
  | sel d a b c => exact sel d a b c
  | addi d a i => exact addi d a i
  | andi d a i => exact andi d a i
  | ori d a i => exact ori d a i
  | xori d a i => exact xori d a i
  | shli d a n => exact shli d a n
  | shri d a n => exact shri d a n
  | srai d a n => exact srai d a n
  | bfx d a l p => exact bfx d a l p
  | bfxSx d a l p => exact bfxSx d a l p
  | bfi d a l p => exact bfi d a l p
  | li d i => exact li d i
  | lih d i => exact lih d i
  | cmp c a b x => exact cmp c a b x
  | cmpImm x c a i => exact cmpImm x c a i
  | pbr b o => exact pbr b o
  | pbrg b a => exact pbrg b a
  | ldZ8 d b c u o => exact ldZ8 d b c u o
  | ldZ16 d b c u o => exact ldZ16 d b c u o
  | ldZ32 d b c u o => exact ldZ32 d b c u o
  | ldZ64 d b c u o => exact ldZ64 d b c u o
  | ldS8 d b c u o => exact ldS8 d b c u o
  | ldS16 d b c u o => exact ldS16 d b c u o
  | ldS32 d b c u o => exact ldS32 d b c u o
  | stZ8 d b c u o => exact stZ8 d b c u o
  | stZ16 d b c u o => exact stZ16 d b c u o
  | stZ32 d b c u o => exact stZ32 d b c u o
  | stZ64 d b c u o => exact stZ64 d b c u o
  | vld m b c u o => exact vld m b c u o
  | vst m b c u o => exact vst m b c u o
  | vgather m b c u => exact vgather m b c u
  | vscatter m b c u => exact vscatter m b c u
  | vradd m b c u t => exact vradd m b c u t
  | amoZ32 d a b c s o => exact amoZ32 d a b c s o
  | amoZ64 d a b c s o => exact amoZ64 d a b c s o
  | casZ32 d a b c s => exact casZ32 d a b c s
  | casZ64 d a b c s => exact casZ64 d a b c s
  | pin d a b => exact pin d a b
  | unpin a b => exact unpin a b
  | cflush a b c => exact cflush a b c
  | cinv a b c => exact cinv a b c
  | stouch a b e => exact stouch a b e
  | swb a b c => exact swb a b c
  | flagAdd a n => exact flagAdd a n
  | flagWait d a n => exact flagWait d a n
  | flagWaitSub d a n => exact flagWaitSub d a n
  | flagRd d n => exact flagRd d n
  | wait t c s l => exact wait t c s l
  | fence s m => exact fence s m
  | barArrive s => exact barArrive s
  | barWait a s => exact barWait a s
  | startNext => exact startNext
  | waitPred => exact waitPred
  | tspawn a => exact tspawn a
  | futRd d a => exact futRd d a
  | futFill d a b => exact futFill d a b
  | lvlCancel a l => exact lvlCancel a l
  | lease u => exact lease u
  | unlease => exact unlease
  | mzero t => exact mzero t
  | mout t a b f => exact mout t a b f
  | moutRq t f => exact moutRq t f
  | mstat d => exact mstat d
  | sunbind a => exact sunbind a
  | sctxStart d a => exact sctxStart d a
  | sctxStop d a => exact sctxStop d a
  | sdepth d a b => exact sdepth d a b
  | rowWait a b => exact rowWait a b
  | rowPost a => exact rowPost a
  | rowPostFrame => exact rowPostFrame
  | rowPostSet a => exact rowPostSet a
  | rowRdPos d a => exact rowRdPos d a
  | rowRdRec d a => exact rowRdRec d a
  | rowRdStamp d a => exact rowRdStamp d a
  | roiRd d a b => exact roiRd d a b
  | alignWait d a b => exact alignWait d a b
  | alignWaitCnt d a => exact alignWaitCnt d a
  | trap n => exact trap n
  | eret => exact eret
  | sysRd d r => exact sysRd d r
  | sysWr a r => exact sysWr a r
  | time d => exact time d
  | tlbinvPage a => exact tlbinvPage a
  | tlbinvAsid => exact tlbinvAsid
  | crgnOpen a b => exact crgnOpen a b
  | crgnClose => exact crgnClose
  | crgnCloseMirror f => exact crgnCloseMirror f
  | selftestArray d => exact selftestArray d
  | loop v a i => exact loop v a i
  | loopi v c n => exact loopi v c n
  | br b c s => exact br b c s
  | brPn b c s => exact brPn b c s
  | brPt b c s => exact brPt b c s
  | jmp b => exact jmp b
  | call b a => exact call b a
  | ret a => exact ret a
  | vany c k => exact vany c k
  | vall c k => exact vall c k
  | vcnt d k => exact vcnt d k
  | popv d => exact popv d
  | pushc a => exact pushc a
  | pushd a => exact pushd a
  | mktail a => exact mktail a
  | endUnit => exact endUnit
  | mov d a k u => exact mov d a k u
  | movMain d n k => exact movMain d n k
  | bcast d a i k u => exact bcast d a i k u
  | iota d t k => exact iota d t k
  | zero d k => exact zero d k
  | extr a i u => exact extr a i u
  | fadd d a b t k u v => exact fadd d a b t k u v
  | fsub d a b t k u v => exact fsub d a b t k u v
  | fmul d a b t k u v => exact fmul d a b t k u v
  | fmin d a b t k u v => exact fmin d a b t k u v
  | fmax d a b t k u v => exact fmax d a b t k u v
  | fcmp x p a b t k u v => exact fcmp x p a b t k u v
  | fabs d a t k u => exact fabs d a t k u
  | fneg d a t k u => exact fneg d a t k u
  | fclass d a t k u => exact fclass d a t k u
  | frcp d a t k u => exact frcp d a t k u
  | frsqrt d a t k u => exact frsqrt d a t k u
  | fsqrt d a t k u => exact fsqrt d a t k u
  | fexp2 d a t k u => exact fexp2 d a t k u
  | flog2 d a t k u => exact flog2 d a t k u
  | ftanh d a t k u => exact ftanh d a t k u
  | fsig d a t k u => exact fsig d a t k u
  | fmaF32 d a b c k u v => exact fmaF32 d a b c k u v
  | fmaBf16 d a b c k u v => exact fmaBf16 d a b c k u v
  | fmaF16 d a b c k u v => exact fmaF16 d a b c k u v
  | fmsF32 d a b c k u v => exact fmsF32 d a b c k u v
  | fmsBf16 d a b c k u v => exact fmsBf16 d a b c k u v
  | fmsF16 d a b c k u v => exact fmsF16 d a b c k u v
  | fnmaF32 d a b c k u v => exact fnmaF32 d a b c k u v
  | fnmaBf16 d a b c k u v => exact fnmaBf16 d a b c k u v
  | fnmaF16 d a b c k u v => exact fnmaF16 d a b c k u v
  | vadd d a b t k u v => exact vadd d a b t k u v
  | vsub d a b t k u v => exact vsub d a b t k u v
  | vadds d a b t k u v => exact vadds d a b t k u v
  | vsubs d a b t k u v => exact vsubs d a b t k u v
  | vmul d a b t k u v => exact vmul d a b t k u v
  | vmulh d a b t k u v => exact vmulh d a b t k u v
  | vmin d a b t k u v => exact vmin d a b t k u v
  | vmax d a b t k u v => exact vmax d a b t k u v
  | vand d a b t k u v => exact vand d a b t k u v
  | vor d a b t k u v => exact vor d a b t k u v
  | vxor d a b t k u v => exact vxor d a b t k u v
  | vshl d a b t k u v => exact vshl d a b t k u v
  | vshr d a b t k u v => exact vshr d a b t k u v
  | vshls d a b t k u v => exact vshls d a b t k u v
  | vcmp x p a b t k u v => exact vcmp x p a b t k u v
  | vabs d a t k u => exact vabs d a t k u
  | vabss d a t k u => exact vabss d a t k u
  | vneg d a t k u => exact vneg d a t k u
  | vnegs d a t k u => exact vnegs d a t k u
  | vnot d a t k u => exact vnot d a t k u
  | vclz d a t k u => exact vclz d a t k u
  | vpopc d a t k u => exact vpopc d a t k u
  | cvtRne d a s t k u => exact cvtRne d a s t k u
  | cvtsRne d a s t k u => exact cvtsRne d a s t k u
  | cvtRtz d a s t k u => exact cvtRtz d a s t k u
  | cvtsRtz d a s t k u => exact cvtsRtz d a s t k u
  | cvtRup d a s t k u => exact cvtRup d a s t k u
  | cvtsRup d a s t k u => exact cvtsRup d a s t k u
  | cvtRdn d a s t k u => exact cvtRdn d a s t k u
  | cvtsRdn d a s t k u => exact cvtsRdn d a s t k u
  | qpack d a p b f k u => exact qpack d a p b f k u
  | qunpack d a p b m f k u => exact qunpack d a p b m f k u
  | kand d a b k => exact kand d a b k
  | kor d a b k => exact kor d a b k
  | kxor d a b k => exact kxor d a b k
  | kandn d a b k => exact kandn d a b k
  | knot d a k => exact knot d a k
  | kmov d a k => exact kmov d a k
  | kpop d k => exact kpop d k
  | selExecute d a b k u v => exact selExecute d a b k u v
  | rsum d a t k u => exact rsum d a t k u
  | rmax d a t k u => exact rmax d a t k u
  | rmin d a t k u => exact rmin d a t k u
  | risum d a t k u => exact risum d a t k u
  | risums d a t k u => exact risums d a t k u
  | perm d a b t k u v => exact perm d a b t k u v
  | rot d a n k u => exact rot d a n k u
  | shuf d a p t k u => exact shuf d a p t k u
  | slide d a b n k u v => exact slide d a b n k u v
  | vloop v n => exact vloop v n
  | mma a b f rec => exact mma a b f rec
  | mmaSp a b c f rec => exact mmaSp a b c f rec
  | mkat a f rec => exact mkat a f rec
  | copy a b c f rec => exact copy a b c f rec
  | copys a b c f rec => exact copys a b c f rec
  | copyDec a b f rec => exact copyDec a b f rec
  | fill a b f rec => exact fill a b f rec
  | copyPeer a b c f rec => exact copyPeer a b c f rec
  | wrq a b c f rec => exact wrq a b c f rec
  | dtab a f rec => exact dtab a f rec
  | vlds a rec => exact vlds a rec
  | vsts a rec => exact vsts a rec
  | sbind a b c f rec => exact sbind a b c f rec
  | tileCommit a b c f rec => exact tileCommit a b c f rec
  | alignSet a b f rec => exact alignSet a b f rec
  | _ => exact fun _ h => absurd h Bool.false_ne_true

/-- Settles O2: the encoding law of each instruction. -/
theorem encodingRoundTrip : Obligations.EncodingRoundTrip := statement

end Sys2Proof.Laws.Encoding
end

section
/-! SUPPORT. What a step does with its input: the instruction a slice fetches, the causes that go before it, the turn of a Gusset's slice and
an event at its context's boundary (R62, R104, R300, R387 to R389, R431, R433). -/

namespace Sys2Proof.Machine

variable {s : State} {side : Slice}

/-! ## From the preparation to the step -/

theorem step_of_run {i : Instr} {t : State} (h : prepare s = .run i t) : step s = exec i t := by rw [step, h]

theorem step_of_done {t : State} (h : prepare s = .done t) : step s = .next t := by rw [step, h]

theorem step_of_stop {f : Fault} (h : prepare s = .stop f) : step s = .fault f := by rw [step, h]

/-- The state in which the head of the agenda acts. -/
def State.advanced (s : State) (rest : List Input) : State := { s with moves := s.moves + 1, agenda := rest }

theorem nextInput_of_agenda {i : Input} {rest : List Input} (h : s.agenda = i :: rest) : nextInput s = (i, s.advanced rest) := by
  rw [nextInput, h]; rfl

theorem mayMoveNow_of_running {m : Move} (h : s.fatal = none) : mayMoveNow s m = true := by unfold mayMoveNow; rw [h]; rfl

theorem mayMoveNow_of_fatal {m : Move} (h : s.fatal ≠ none) (hm : ∀ n, m ≠ .event n .powerGood) : mayMoveNow s m = false := by
  unfold mayMoveNow
  rw [Option.isNone_eq_false_iff.mpr (Option.isSome_iff_ne_none.mpr h), Bool.false_or]
  split
  · exact absurd rfl (hm _)
  · rfl

/-! ## What a turn leaves alone -/

@[simp] theorem focus_fatal (s : State) (n : Nat) : (s.focus n).fatal = s.fatal := by unfold State.focus; split <;> rfl

@[simp] theorem noteWait_fatal (s : State) (side : Slice) (n : Nat) : (noteWait side s n).fatal = s.fatal := by
  unfold noteWait State.withCtx
  split <;> simp

/-- Whose turn it is changes nothing of a fatal event. -/
@[simp] theorem sliceTurn_fatal (s : State) (side : Slice) (n : Nat) : (sliceTurn s side n).1.fatal = s.fatal := by
  unfold sliceTurn
  extract_lets order noted g
  have same : noted.fatal = s.fatal := List.foldlRecOn (motive := fun t => t.fatal = s.fatal) _ _ rfl fun t h m _ => (noteWait_fatal t side m).trans h
  split <;> exact same

/-! ## The turn of a Gusset's slice (R300) -/

/-- A list in order of a key holds under an element's key that element, once it has been put there. -/
theorem find?_upsert {α : Type} (key : α → Nat) (x : α) (l : List α) : (upsert key x l).find? (fun y => key y == key x) = some x := by
  induction l with
  | nil => simp [upsert]
  | cons y ys ih =>
    unfold upsert
    split
    · simp
    · split
      · simp
      · next hne => rw [List.find?_cons_of_neg (by simpa using fun e => hne e.symm)]; exact ih

theorem gussetState_setGusset {g : Nat} (s : State) (k : GussetState) (h : k.gid = g) : (s.setGusset k).gussetState g = k := by
  subst h; rw [State.gussetState, State.setGusset, find?_upsert]; rfl

/-- A Gusset's record carries its number. -/
theorem gussetState_gid (s : State) (g : Nat) : (s.gussetState g).gid = g := by
  unfold State.gussetState
  cases h : s.gussets.find? (fun k => k.gid == g) with
  | none => rfl
  | some k => simpa using List.find?_some h

/-- The first of a row of numbers that passes a test. -/
theorem find?_map_range {α : Type} {f : Nat → α} {p : α → Bool} {n k : Nat} (hk : k < n) (here : p (f k) = true)
    (before : ∀ j, j < k → p (f j) = false) : ((List.range n).map f).find? p = some (f k) := by
  rw [List.find?_map, List.find?_range_eq_some.mpr ⟨here, List.mem_range.mpr hk, fun j hj => by simp [before j hj]⟩]
  rfl

/-- The slice's turn goes to the first context, in ascending order after the one that issued last, that can issue, and is remembered. -/
theorem sliceTurn_first {n k : Nat} (hk : k < 4)
    (here : canGo s side (128 + 4 * gidOf n + ((s.gussetState (gidOf n)).last side + 1 + k) % 4) = true)
    (before : ∀ j, j < k → canGo s side (128 + 4 * gidOf n + ((s.gussetState (gidOf n)).last side + 1 + j) % 4) = false) :
    (sliceTurn s side n).2 = 128 + 4 * gidOf n + ((s.gussetState (gidOf n)).last side + 1 + k) % 4 ∧
    ((sliceTurn s side n).1.gussetState (gidOf n)).last side = ((s.gussetState (gidOf n)).last side + 1 + k) % 4 := by
  have first : (turnOrder s side (gidOf n)).find? (canGo s side) = _ := find?_map_range hk here before
  have place (x : Nat) : gctxOf (128 + 4 * gidOf n + x % 4) = x % 4 := by unfold gctxOf; omega
  simp only [sliceTurn, first, true_and]
  cases side with
  | control => rw [gussetState_setGusset _ _ (by exact gussetState_gid s (gidOf n))]; exact place _
  | execute => rw [gussetState_setGusset _ _ (by exact gussetState_gid s (gidOf n))]; exact place _

/-! ## A slice at its boundary -/

/-- The state in which a slice's move acts: its Gusset's turn taken, and its context in focus. -/
def turned (v : State) (side : Slice) (n : Nat) : State :=
  let r := if isGusset n then sliceTurn v side n else (v, n)
  { r.1.focus r.2 with side := side }

/-- A slice's move is prepared at the boundary of the context whose turn it is. -/
theorem prepare_slice {n : Nat} {rest : List Input} (h : s.agenda = .move (.slice side n) :: rest) (hf : s.fatal = none) :
    prepare s = boundaryTurn (turned (s.advanced rest) side n) side := by
  have may {m : Move} : mayMoveNow (s.advanced rest) m = true := mayMoveNow_of_running hf
  have mayTurned {m : Move} : mayMoveNow (sliceTurn (s.advanced rest) side n).1 m = true :=
    mayMoveNow_of_running ((sliceTurn_fatal _ side n).trans hf)
  unfold prepare turned
  rw [nextInput_of_agenda h]
  cases hn : isGusset n <;> simp [turnOf, prepareTurn, hn, may, mayTurned]

theorem causeReady_of_urgent (h : urgentCause s = true) : causeReady s = true := by rw [causeReady, h]; rfl

/-- No instruction goes before an urgent cause, and none issues (R387, R389). -/
theorem boundaryTurn_of_urgent (h : urgentCause s = true) : boundaryTurn s side = .done s := by
  unfold boundaryTurn syncTrap
  rw [if_pos (causeReady_of_urgent h), if_pos h]; rfl

/-- While a cause is ready, no instruction that does not trap issues (R389). -/
theorem boundaryTurn_of_cause (h : causeReady s = true) (hc : trapAt s .control = none) (hx : trapAt s .execute = none) :
    boundaryTurn s side = .done s := by
  have noTrap : syncTrap s = none := by rw [syncTrap, hc, hx]; split <;> rfl
  unfold boundaryTurn
  rw [if_pos h, noTrap]; rfl

theorem trapAt_eq_some {p : Prepared} (h : trapAt s side = some p) : p = fetchSlice { s with side := side } side := by
  unfold trapAt at h
  extract_lets t q at h
  split at h
  · exact (Option.some.inj h).symm
  · cases h

/-- With no cause ready, a slice is at its own instruction, unless both slices' instructions trap and it is the execute slice (R388). -/
theorem boundaryTurn_of_quiet (hs : s.side = side) (h : causeReady s = false)
    (hx : side = .execute → trapAt s .control = none ∨ trapAt s .execute = none) : boundaryTurn s side = fetchSlice s side := by
  unfold boundaryTurn
  rw [if_neg (Bool.eq_false_iff.mp h)]
  subst hs
  cases e : s.side with
  | control => rfl
  | execute =>
    have here : ({ s with side := .execute } : State) = s := e ▸ rfl
    cases own : trapAt s .execute with
    | none => rfl
    | some p =>
      have quiet : trapAt s .control = none := (hx e).resolve_right (own ▸ nofun)
      have same := trapAt_eq_some own
      rw [here] at same
      simp only [quiet, Option.getD_none, same]

/-! ## The instruction that a slice fetches (R62, R104) -/

/-- The words at an address, where there are any: the first is there by itself, and tells the instruction's length. -/
theorem fetchWords_head {n va : Nat} {ws : List Nat} (hn : n ≠ 0) (h : fetchWords s n va = .ok ws) :
    fetchWords s 1 va = .ok [ws.headD 0] ∧ codeWord s va = some (ws.headD 0) := by
  obtain ⟨m, rfl⟩ := Nat.exists_eq_succ_of_ne_zero hn
  unfold fetchWords at h
  split at h
  · next w hheld hw =>
    split at h
    · cases h; simp [fetchWords, hheld, hw]
    · cases h
  · cases h

theorem lengthOfMajor_eq (m : Nat) : 4 * (lengthOfMajor m / 4) = lengthOfMajor m ∧ lengthOfMajor m / 4 ≠ 0 := by
  unfold lengthOfMajor; split <;> decide

/-- The instruction at an address has a word at least. -/
theorem lengthAt_div_ne_zero (s : State) (va : Nat) : lengthAt s va / 4 ≠ 0 := by
  unfold lengthAt; split
  · exact (lengthOfMajor_eq _).2
  · decide

theorem lengthAt_of_codeWord {va w : Nat} (h : codeWord s va = some w) : lengthAt s va = lengthOfMajor (w / 2 ^ 25) := by
  rw [lengthAt, h]

/-- A slice ahead of a prediction runs ahead (R153). -/
theorem runAhead_of_speculates (h : speculates s side = true) : side = .control ∧ runAhead s.ctx = true := by
  simp only [speculates, Bool.and_eq_true, beq_iff_eq] at h
  obtain ⟨⟨hs, hp⟩, hr⟩ := h
  exact ⟨hs, by simp [runAhead, hp, hr]⟩

/-- A slice that can issue, with held words of its own stream at its pc inside its kernel's code that are not poisoned, comes to the
instruction they decode to. -/
theorem fetchSlice_run {ws : List Nat} {i : Instr} {bs : List Byte} (issues : canIssue s side = true)
    (ahead : side = .control → runAhead s.ctx = true → s.ctx.prediction ≠ none ∧ isSpeculable i = true)
    (eret : side = .execute → s.ctx.inh = true → waitsForControl s (· == 0x5A000001) = false)
    (inside : outsideCode s.ctx (s.ctx.pc side).toNat = false)
    (fetched : fetchWords s (lengthAt s (s.ctx.pc side).toNat / 4) (s.ctx.pc side).toNat = .ok ws)
    (owns : ownsMajor side (ws.headD 0 / 2 ^ 25) = true)
    (fits : (s.ctx.pc side).toNat + lengthAt s (s.ctx.pc side).toNat ≤ s.ctx.codeEnd)
    (clean : poisonedWord s (lengthAt s (s.ctx.pc side).toNat / 4) (s.ctx.pc side).toNat = none)
    (decodes : decode (ws.flatMap bytesOfWord32) = .ok (i, bs)) : fetchSlice s side = .run i s := by
  obtain ⟨one, word⟩ := fetchWords_head (lengthAt_div_ne_zero s _) fetched
  have len := lengthAt_of_codeWord word
  have whole := (lengthOfMajor_eq (ws.headD 0 / 2 ^ 25)).1
  rw [len] at fetched fits clean
  have resolved : ¬ (side = .control ∧ runAhead s.ctx ∧ s.ctx.prediction.isNone) := fun ⟨hc, hr, hp⟩ =>
    (ahead hc hr).1 (Option.isNone_iff_eq_none.mp hp)
  have passes : ¬ (side = .execute ∧ s.ctx.inh ∧ waitsForControl s (· == 0x5A000001)) := fun ⟨hx, hi, hw⟩ => by
    simp [eret hx hi] at hw
  have goes : ¬ (speculates s side && !isSpeculable i) := fun h => by
    obtain ⟨hs, hi⟩ := Bool.and_eq_true_iff.mp h
    obtain ⟨hc, hr⟩ := runAhead_of_speculates hs
    simp [(ahead hc hr).2] at hi
  rw [fetchSlice, if_neg (by simp [issues]), if_neg passes, if_neg resolved, if_neg (by simp [inside]), one]
  simp only [List.headD_cons, owns, Bool.not_true, Bool.false_eq_true, if_false, whole, Nat.not_lt.mpr fits, fetched, clean, decodes]
  exact if_neg goes

/-! ## An event at its context's boundary (R387, R433) -/

/-- An event's move is prepared at the boundary of its context, unless it is the host's and the part is in recovery. -/
theorem prepare_event {n : Nat} {e : Instr} {rest : List Input} (h : s.agenda = .move (.event n e) :: rest) (hf : s.fatal = none) :
    prepare s = if s.boot.state = 2 ∧ fromHost e = true then .done (s.advanced rest) else eventTurn ((s.advanced rest).focus n) e := by
  have may {m : Move} : mayMoveNow (s.advanced rest) m = true := mayMoveNow_of_running hf
  unfold prepare
  rw [nextInput_of_agenda h]
  simp [turnOf, prepareTurn, may, inRecovery, show (s.advanced rest).boot = s.boot from rfl]

/-- The events that take an asynchronous cause of a running context. -/
def TakesCause (e : Instr) : Prop := e = .trapEntry ∨ e = .cancelStop ∨ e = .preemptHalt

theorem eventTurn_of_takesCause {e : Instr} (hr : s.ctx.run = .running) (he : TakesCause e) :
    eventTurn s e = if topCause s = none then .run e s else (syncTrap s).getD (.run e s) := by
  have turn : eventTurn s e = if (topCause s).isSome then (syncTrap s).getD (.run e s) else .run e s := by
    rcases he with rfl | rfl | rfl <;> simp [eventTurn, hr]
  rw [turn]
  cases topCause s <;> rfl

/-- An event acts at its context's boundary, where no instruction's trap goes before its cause. -/
theorem eventTurn_run {e : Instr}
    (h : s.ctx.run = .running → (TakesCause e → topCause s ≠ none → syncTrap s = none) ∧ e ≠ .debugHalt) : eventTurn s e = .run e s := by
  by_cases hr : s.ctx.run = .running
  · obtain ⟨first, notHalt⟩ := h hr
    by_cases he : TakesCause e
    · rw [eventTurn_of_takesCause hr he]
      split
      · rfl
      · next ready => rw [first he ready]; rfl
    · unfold eventTurn
      split
      · rfl
      · split
        · exact absurd (.inl rfl) he
        · exact absurd (.inr (.inl rfl)) he
        · exact absurd (.inr (.inr rfl)) he
        · exact absurd rfl notHalt
        · rfl
  · unfold eventTurn
    rw [if_pos (by simpa using hr)]

/-- A stopped part takes no move but POWER_GOOD (R431). -/
theorem prepare_fatal {m : Move} {rest : List Input} (h : s.agenda = .move m :: rest) (hf : s.fatal ≠ none)
    (hm : ∀ n, m ≠ .event n .powerGood) : prepare s = .stop .partStopped := by
  have stays {k : Move} (hk : ∀ n, k ≠ .event n .powerGood) : mayMoveNow (s.advanced rest) k = false := mayMoveNow_of_fatal hf hk
  unfold prepare
  rw [nextInput_of_agenda h]
  cases m with
  | slice side n => simp [turnOf, prepareTurn, stays (k := .slice side n) nofun]
  | event n e => simp [turnOf, prepareTurn, stays hm]

/-- Settles O53: a slice's move at its boundary, the turn of a Gusset's slice, an event's move, and a stopped part. -/
theorem stepRunsDecoded : Obligations.StepRunsDecoded := by
  refine ⟨fun s side n rest h hf => ?_, fun s side n k _ hk => sliceTurn_first hk, fun s n e rest h hf => ⟨fun hb hh => ?_, fun hb => ?_⟩,
    fun s m rest h hf hm => step_of_stop (prepare_fatal h hf hm)⟩
  · have prepared := prepare_slice h hf
    exact ⟨fun urgent => step_of_done (prepared.trans (boundaryTurn_of_urgent urgent)),
      fun cause hc hx => step_of_done (prepared.trans (boundaryTurn_of_cause cause hc hx)),
      fun ws i bs quiet hx issues ahead eret inside fetched owns fits clean decodes =>
        step_of_run (prepared.trans ((boundaryTurn_of_quiet rfl quiet hx).trans
          (fetchSlice_run issues ahead eret inside fetched owns fits clean decodes)))⟩
  · exact step_of_done ((prepare_event h hf).trans (if_pos ⟨hb, hh⟩))
  · have prepared := (prepare_event h hf).trans (if_neg fun ⟨h2, hh⟩ => Bool.false_ne_true ((hb h2).symm.trans hh))
    exact ⟨fun first => step_of_run (prepared.trans (eventTurn_run first)), fun hr he hc i t trap =>
      step_of_run (prepared.trans ((eventTurn_of_takesCause hr he).trans ((if_neg hc).trans (by rw [trap]; rfl))))⟩

end Sys2Proof.Machine
end

section
/-! SUPPORT. The matrix commands at issue: their checks on a record, their place on the queue, and MSTAT's low fields (R60, R68, R188, R203,
R205 to R210). -/

namespace Sys2Proof.Machine

/-! ## A record whose substituting words are well formed (R68, R71) -/

/-- A substituting word that is well formed has no bit set that the checks of a malformed one leave out. -/
theorem substWord_masked {c : Context} {w v : Word32} (h : substWord c w = some v) :
    (if bitOf w.toNat 31 then w &&& 0x8000001F else w) = w := by
  unfold substWord at h
  split at h
  · next top =>
    split at h
    · next rest =>
      have kept : ∀ n : Fin 32, BitVec.ofNat 32 (2 ^ 31 + n.val) &&& 0x8000001F = BitVec.ofNat 32 (2 ^ 31 + n.val) := by decide
      have parts : w.toNat = 2 ^ 31 + w.toNat % 32 := by
        have := w.isLt
        simp only [bitOf, beq_iff_eq] at top
        simp only [bitsOf] at rest
        omega
      have shape : w = BitVec.ofNat 32 (2 ^ 31 + w.toNat % 32) := by rw [← parts, BitVec.ofNat_toNat, BitVec.setWidth_eq]
      rw [if_pos top, shape]
      exact kept ⟨_, Nat.mod_lt _ (by decide)⟩
    · cases h
  · next top => rw [if_neg top]

/-- A record that substitutes is checked as it substitutes. -/
theorem substAll_of_substRecord {c : Context} {r x : ShapeRec} (h : substRecord c r = some x) : substAll c r = x := by
  unfold substRecord at h
  split at h
  · next h0 h1 h2 h3 =>
    simp only [substAll, substWord_masked h0, substWord_masked h1, substWord_masked h2, substWord_masked h3, h0, h1, h2, h3, Option.getD_some]
    exact Option.some.inj h
  · cases h

/-- A record that substitutes and passes every check is the instruction's. -/
theorem recordTrap_ok {c : Context} {r x : ShapeRec} {align shape : ShapeRec → Bool} (hx : substRecord c r = some x)
    (ha : align x = false) (ho : recordOk x = true) (hs : shape x = false) : recordTrap c r align shape = .ok x := by
  simp [recordTrap, substAll_of_substRecord hx, hx, ha, ho, hs]

/-- CLS of AUX, read in word 3 itself (R202). -/
theorem auxOf_cls (x : ShapeRec) : Fin.ofNat 16 (auxOf x.aux).cls = Fin.ofNat 16 (x.w3.toNat / 2 ^ 23) := by
  apply Fin.ext
  simp only [auxOf, ShapeRec.aux, bitsOf, Fin.val_ofNat]
  omega

/-! ## Traps (R60, R203) -/

/-- A control instruction that is ready and whose condition for ILLEGAL holds traps. -/
theorem ControlReady.illegal {s : State} {bad : Bool} (h : ControlReady s [] []) (hb : bad = true) (k : Result) :
    orTrap s .control bad .illegal k = .next (trapSync s .control .illegal) := by
  rw [hb]; exact h.orTrap_illegal k

/-- A check on registers that are final, and that finds nothing, lets the instruction go on (R131). -/
theorem ControlReady.orTrapG_false {s : State} {gs : List (Fin 32)} (h : ControlReady s gs []) {bad : Bool} (hb : bad = false) (c : Cause)
    (k : Result) : orTrapG s gs bad c k = k := by
  simp [orTrapG, h.stalled, hb]

variable {s : State} (a b c d : Fin 32) (f : Fin 64) (t : Fin 4) (u : Fin 8) (r : ShapeRec)

/-- A kernel with NM = 1 traps on every matrix instruction (R60). -/
theorem matrix_illegal_of_nm (h : ControlReady s [] []) (nm : s.ctx.info.header.nm = true) :
    ∀ i ∈ [Instr.mma a b f r, .mmaSp a b c f r, .mkat a f r, .mzero t, .mout t a b f, .moutRq t f, .lease u, .unlease, .mstat d],
      exec i s = .next (trapSync s .control .illegal) := by
  have closed : noMatrix s = true := nm
  have either {x : Bool} : (noMatrix s || x) = true := by rw [closed, Bool.true_or]
  have three {x y : Bool} : (noMatrix s || x || y) = true := by rw [closed, Bool.true_or, Bool.true_or]
  intro i hi
  simp only [List.mem_cons, List.not_mem_nil, or_false] at hi
  rcases hi with rfl | rfl | rfl | rfl | rfl | rfl | rfl | rfl | rfl
  · exact (exec_mma a b f r s).trans (h.illegal either _)
  · exact (exec_mmaSp a b c f r s).trans (h.illegal either _)
  · exact (exec_mkat a f r s).trans (h.illegal either _)
  · exact (exec_mzero t s).trans (h.illegal closed _)
  · exact (exec_mout t a b f s).trans (h.illegal either _)
  · exact (exec_moutRq t f s).trans (h.illegal three _)
  · exact (exec_lease u s).trans (h.illegal closed _)
  · exact (exec_unlease s).trans (h.illegal closed _)
  · exact (exec_mstat d s).trans (h.illegal closed _)

/-- A flag at or above NFLAG is ILLEGAL (R203, R208). -/
theorem matrix_illegal_of_flag (h : ControlReady s [] []) (flag : s.ctx.info.header.nflag ≤ f.val) :
    ∀ i ∈ [Instr.mma a b f r, .mmaSp a b c f r, .mkat a f r, .mout t a b f, .moutRq t f],
      exec i s = .next (trapSync s .control .illegal) := by
  have bad : badFlag s f = true := decide_eq_true flag
  have either : (noMatrix s || badFlag s f) = true := by rw [bad, Bool.or_true]
  have three {x : Bool} : (noMatrix s || badFlag s f || x) = true := by rw [either, Bool.true_or]
  intro i hi
  simp only [List.mem_cons, List.not_mem_nil, or_false] at hi
  rcases hi with rfl | rfl | rfl | rfl | rfl
  · exact (exec_mma a b f r s).trans (h.illegal either _)
  · exact (exec_mmaSp a b c f r s).trans (h.illegal either _)
  · exact (exec_mkat a f r s).trans (h.illegal either _)
  · exact (exec_mout t a b f s).trans (h.illegal either _)
  · exact (exec_moutRq t f s).trans (h.illegal three _)

/-! ## Commands that find room (R188, R203, R207, R208, R210) -/

/-- A matrix command that is ready and finds room acts, and its slice moves on. -/
theorem matrixC_completes {i : Instr} {gs : List (Fin 32)} {len : Nat} {act : State → State} (he : exec i s = matrixC s gs len act)
    (h : ControlReady s gs []) (room : queueDepth s.ctx < 8) : Completes i .control s (act s) :=
  issueC_completes (he.trans (if_neg (by simp [room]))) h

section

variable {a b c d f t r} {x : ShapeRec} (nm : s.ctx.info.header.nm = false) (room : queueDepth s.ctx < 8)
include nm room

theorem mzero_enqueues (h : ControlReady s [] []) : Enqueues (.mzero t) s s { plainOp s .mzero 0 with pages := [t.val] } :=
  matrixC_completes ((exec_mzero t s).trans (orTrap_false _ _ _ _ nm)) h room

variable (flag : f.val < s.ctx.info.header.nflag)
include flag

omit room in
/-- With NM = 0 and a flag below NFLAG a matrix command goes on to its own checks. -/
theorem matrix_allowed : (noMatrix s || badFlag s f) = false := by
  rw [show noMatrix s = false from nm, Bool.false_or]
  exact decide_eq_false (Nat.not_le.mpr flag)

theorem mout_enqueues (h : ControlReady s [a, b] []) (base : (s.ctx.getG a).toNat % s.rowBytes = 0)
    (stride : (s.ctx.getG b).toNat % 2 ^ 32 % s.rowBytes = 0) (small : (s.ctx.getG b).toNat < 2 ^ 39)
    (pages : heldRowsBad s (fun p => p.fmt != .raw) (s.ctx.getG a).toNat ((s.ctx.getG b).toNat % 2 ^ 32) s.rowBytes (tileRegs s) = false) :
    Enqueues (.mout t a b f) s (s.mod Context.markEffect) { plainOp s .mout (s.ctx.getG a) with
      b := s.ctx.getG b, flag := f, pages := [t.val], cls := Fin.ofNat 16 ((s.ctx.getG b).toNat / 2 ^ 32) } := by
  have aligned : ((s.ctx.getG a).toNat % moutBytes s != 0 || (s.ctx.getG b).toNat % 2 ^ 32 % moutBytes s != 0) = false := by
    rw [moutBytes, base, stride]; rfl
  have shaped : (bitsOf (s.ctx.getG b).toNat 63 39 != 0 || heldRowsBad s (fun p => p.fmt != .raw) (s.ctx.getG a).toNat
      ((s.ctx.getG b).toNat % 2 ^ 32) (moutBytes s) (tileRegs s)) = false := by
    rw [bitsOf, Nat.div_eq_of_lt small, moutBytes, pages]; rfl
  have cls : Fin.ofNat 16 (bitsOf (s.ctx.getG b).toNat 35 32) = Fin.ofNat 16 ((s.ctx.getG b).toNat / 2 ^ 32) := by
    apply Fin.ext; simp [bitsOf]
  rw [← cls]
  exact matrixC_completes ((exec_mout t a b f s).trans ((orTrap_false _ _ _ _ (matrix_allowed nm flag)).trans
    ((h.orTrapG_false aligned _ _).trans (h.orTrapG_false shaped _ _)))) h room

theorem moutRq_enqueues (h : ControlReady s [] []) (core : isGusset s.self = false) (bound : (resultStream s).isSome = true) :
    Enqueues (.moutRq t f) s (s.mod Context.markEffect) { plainOp s .moutRq 0 with flag := f, pages := [t.val] } := by
  have allowed : (noMatrix s || badFlag s f || isGusset s.self) = false := by rw [matrix_allowed nm flag, core]; rfl
  have stream : (resultStream s).isNone = false := by rw [Option.isNone_eq_false_iff]; exact bound
  exact matrixC_completes ((exec_moutRq t f s).trans ((orTrap_false _ _ _ _ allowed).trans (orTrap_false _ _ _ _ stream))) h room

variable (hx : substRecord s.ctx r = some x) (ok : recordOk x = true) (rows : x.stride % x.etype.bytes = 0)
include hx ok rows

/-- MMA and MMA.SP: a command that passes its checks is queued, and the core asks for its lease (R194, R203). -/
theorem issueMma_completes {i : Instr} {kind : OpKind} {m : Option (Fin 32)} (he : exec i s = issueMma s kind a b m f r)
    (h : ControlReady s (a :: b :: (m.toList ++ recordRegs r)) []) (hva : (s.ctx.getG a).toNat % 128 = 0) (hvb : (s.ctx.getG b).toNat % 128 = 0)
    (hvc : ((m.map s.ctx.getG).getD 0).toNat % 16 = 0) (shape : mmaShape s m.isSome x = false)
    (pages : mmaPages s m.isSome (s.ctx.getG a).toNat (s.ctx.getG b).toNat ((m.map s.ctx.getG).getD 0).toNat x = false) :
    Completes i .control s (settleLease (s.mod (addOp { plainOp s kind (s.ctx.getG a) with
      b := s.ctx.getG b, c := (m.map s.ctx.getG).getD 0, flag := f, shape := x, cls := Fin.ofNat 16 (x.w3.toNat / 2 ^ 23) }))) := by
  rw [← auxOf_cls]
  have checked := he.trans (orTrap_false _ _ _ _ (matrix_allowed nm flag))
  rw [recordTrap_ok hx ?_ ok ?_] at checked
  · exact matrixC_completes checked h room
  · rw [hva, hvb, hvc, strideAligned, rows]; rfl
  · rw [shape, pages]; rfl

/-- MKAT likewise (R210). -/
theorem mkat_completes (h : ControlReady s (a :: recordRegs r) []) (shape : mkatShape s x = false) :
    Completes (.mkat a f r) .control s
      (settleLease (s.mod (addOp { plainOp s .mkat (s.ctx.getG a) with flag := f, shape := x }))) := by
  have checked := (exec_mkat a f r s).trans (orTrap_false _ _ _ _ (matrix_allowed nm flag))
  rw [recordTrap_ok hx ?_ ok shape] at checked
  · exact matrixC_completes checked h room
  · simp [strideAligned, rows]

end

/-! ## MSTAT (R209) -/

/-- MSTAT's bits 5 to 3; every other field lies from bit 6 up. -/
theorem mstatWord_low (s : State) : mstatWord s % 2 ^ 6 =
    2 ^ 5 * ((oldestLease s.ctx).any EngineOp.held?).toNat + 2 ^ 4 * (s.arrayAt (arrayIndex s.self)).failed.toNat +
      2 ^ 3 * ((s.arrayAt (arrayIndex s.self)).kmis.contains (s.self % 4)).toNat := by
  unfold mstatWord arraySlot
  extract_lets a core term prog tcmd lst
  have flag (b : Bool) (n : Nat) : (if b = true then 2 ^ n else 0) = 2 ^ n * b.toNat := by cases b <;> simp
  have low (b : Bool) : b.toNat ≤ 1 := Bool.toNat_le b
  rw [flag, flag, flag]
  change _ = _ + 2 ^ 4 * a.failed.toNat + 2 ^ 3 * (a.kmis.contains (s.self % 4)).toNat
  have held := low ((oldestLease s.ctx).any EngineOp.held?)
  have failed := low a.failed
  have kmis := low (a.kmis.contains (s.self % 4))
  split <;> split <;> omega

/-- The bits of a word whose fields are three flags. -/
theorem testBit_flags : ∀ x y z : Bool, let n := 2 ^ 5 * x.toNat + 2 ^ 4 * y.toNat + 2 ^ 3 * z.toNat
    n.testBit 4 = y ∧ n.testBit 3 = z ∧ n.testBit 5 = x := by decide

theorem mstatWord_testBit (s : State) {n : Nat} (hn : n < 6) :
    (BitVec.ofNat 64 (mstatWord s)).getLsbD n = (mstatWord s % 2 ^ 6).testBit n := by
  rw [BitVec.getLsbD_ofNat, Nat.testBit_mod_two_pow, decide_eq_true hn, decide_eq_true (by omega : n < 64)]

/-- Settles O44: the traps of NM = 1 and of a flag that is not there, the commands that are queued, the lease instructions and MSTAT. -/
theorem matrixIssue : Obligations.MatrixIssue := by
  intro s a b c d f t u r
  refine ⟨fun nm h => matrix_illegal_of_nm a b c d f t u r h nm, fun nm => ⟨fun room flag => ⟨fun x hx ok h => ?_, fun h base stride small pages =>
    mout_enqueues nm room flag h base stride small pages, fun h core bound => moutRq_enqueues nm room flag h core bound,
    fun h => mzero_enqueues nm room h⟩, fun h => ⟨?_, ?_⟩, fun h => ?_⟩, fun flag h => matrix_illegal_of_flag a b c f t r h flag⟩
  · have regs {gs : List (Fin 32)} (sub : gs ⊆ a :: b :: c :: recordRegs r) : ControlReady s gs [] := h.mono (fun _ m => sub m) nofun
    exact ⟨fun hva hvb rows => ⟨fun shape pages =>
        issueMma_completes nm room flag hx ok rows (exec_mma a b f r s) (m := none)
          (regs (List.cons_subset_cons a (List.cons_subset_cons b (List.subset_cons_self c _)))) hva hvb rfl shape pages,
      fun hvc shape pages =>
        issueMma_completes nm room flag hx ok rows (exec_mmaSp a b c f r s) (m := some c) (regs (List.Subset.refl _)) hva hvb hvc shape pages⟩,
      fun rows shape => mkat_completes nm room flag hx ok rows
        (regs (List.cons_subset_cons a (List.subset_cons_of_subset b (List.subset_cons_self c _)))) shape⟩
  · exact issueC_completes ((exec_lease u s).trans (orTrap_false _ _ _ _ nm)) h
  · exact issueC_completes ((exec_unlease s).trans (orTrap_false _ _ _ _ nm)) h
  · refine ⟨_, issueC_completes ((exec_mstat d s).trans (orTrap_false _ _ _ _ nm)) h, ?_⟩
    rw [mstatWord_testBit s (n := 4) (by decide), mstatWord_testBit s (n := 3) (by decide), mstatWord_testBit s (n := 5) (by decide),
      mstatWord_low]
    exact testBit_flags _ _ _

end Sys2Proof.Machine
end

section
/-! SUPPORT. LVL.CANCEL of a phase on a state whose lists do not agree (R98, R369, R370). -/

namespace Sys2Proof.Machine

/-- A launch of job 0's phase 0 that the walker is done with, and of which this many units are yet to retire. -/
def walkedLaunch (slot units : Nat) : LaunchSlot :=
  { slot := slot, ring := 0, index := 0, asid := 0, pkt := packetOf [], header := .zero, trailer := .zero, pending := 0, count := units, nbad := 0
    failed := false, cancelled := false, late := false, early := false, walked := units, total := units, admitted := slot, preds := []
    stopped := false, skips := [], dropped := false, copied := [], code := [] }

/-- A unit of a launch that waits in the common queue. -/
def commonEntry (slot : Nat) (image : Option Nat) : Entry :=
  { info := { UnitInfo.none with slot := slot }, resumed := image.isSome, image := image, home := 4, order := slot, expired := none }

/-- Launches 0 and 1 of one phase with an entry each. Launch 1 counts no unit any more, though its entry waits, and the image that launch 0's
entry names is a unit of launch 1. The statement is about every state: it does not ask that counts and images agree with the entries. -/
def mixedPhase : State :=
  { State.reset with
    ctx := { Context.idle with run := .running }
    others := [(1024, { Context.idle with run := .saved, info := { UnitInfo.none with slot := 1 } })]
    slots := [walkedLaunch 0 1, walkedLaunch 1 0]
    queues := { State.reset.queues with common := [commonEntry 0 (some 0), commonEntry 1 none] } }

theorem mixedPhase_ready : ControlReady mixedPhase [0] [] := by unfold ControlReady; decide

/-- Launch 0 is cancelled first. Its image goes, with it launch 1 retires, and so launch 1 is not there to lose its entry when its turn comes. -/
theorem exec_lvlCancel_mixedPhase :
    ∃ t, exec (.lvlCancel 0 .phase) mixedPhase = .next t ∧ commonEntry 1 none ∈ entryLists t.queues :=
  ⟨_, rfl, by decide +kernel⟩

/-- Refutes O43: none of the target's units is to wait in a queue any more, and in `mixedPhase` one does. -/
theorem not_levelCancels : ¬ Obligations.LevelCancels := by
  unfold Obligations.LevelCancels
  intro h
  obtain ⟨-, cancels⟩ := h mixedPhase 0 .phase (by decide) mixedPhase_ready
  obtain ⟨u, ⟨t, ht, passed⟩, -, -, -, -, gone, -⟩ := cancels nofun
  obtain ⟨t', ht', waits⟩ := exec_lvlCancel_mixedPhase
  obtain rfl : t = t' := Host.Outcome.next.inj (ht.symm.trans ht')
  have same : t.queues = u.queues := by rw [passed.1]
  rw [same] at waits
  exact gone _ waits ⟨walkedLaunch 1 0, by decide, rfl, .inl ⟨rfl, rfl⟩⟩

end Sys2Proof.Machine
end

section
/-! SUPPORT. What reads and writes of memory leave alone: the caches' and the translations' records, memory itself, and the host's event queue
change, and nothing else (R217, R223, R226, R241, R420). -/

namespace Sys2Proof.Machine

variable {r s t : State}

/-! ## Reads -/

/-- t is s but for what caches, stashes and translation levels hold. -/
def ReadsOnly (s t : State) : Prop :=
  t = { s with dram := t.dram, tlb := t.tlb, walks := t.walks, spaces := t.spaces, slices := t.slices, cores := t.cores, gussets := t.gussets }

namespace ReadsOnly

theorem refl (s : State) : ReadsOnly s s := rfl

theorem trans (h : ReadsOnly r s) (k : ReadsOnly s t) : ReadsOnly r t := by
  unfold ReadsOnly at h k
  rw [k, h]; rfl

theorem mem (h : ReadsOnly s t) : t.mem = s.mem := by rw [h]
theorem ctx (h : ReadsOnly s t) : t.ctx = s.ctx := by rw [h]
theorem slots (h : ReadsOnly s t) : t.slots = s.slots := by rw [h]
theorem queues (h : ReadsOnly s t) : t.queues = s.queues := by rw [h]

end ReadsOnly

theorem writeBack_reads {line mask} (h : ReadsOnly r s) : ReadsOnly r (writeBack s line mask) := h.trans rfl

theorem mapMapped_reads {f} (h : ReadsOnly r s) : ReadsOnly r (mapMapped s f) := h.trans rfl

theorem setSlice_reads {k} (h : ReadsOnly r s) : ReadsOnly r (s.setSlice k) := h.trans rfl

theorem evictLine_reads {n v} (h : ReadsOnly r s) : ReadsOnly r (evictLine s n v) := setSlice_reads (mapMapped_reads (writeBack_reads h))

theorem wayFor_reads {n line} (h : ReadsOnly r s) : OnSome (fun p => ReadsOnly r p.1) (wayFor s n line) := by
  unfold wayFor
  dsimp only
  split
  · exact h
  · exact OnSome.map (fun _ => evictLine_reads h)

theorem touchSlice_reads {line mask dirty} (h : ReadsOnly r s) : ReadsOnly r (touchSlice s line mask dirty) := by
  unfold touchSlice
  dsimp only
  split
  · exact setSlice_reads h
  · split
    · exact holds_ite (writeBack_reads h) h
    · rename_i e
      have taken := OnSome.of_eq (p := fun p => ReadsOnly r p.1) e (wayFor_reads h)
      exact setSlice_reads taken

theorem mergeDirty_reads {line d} (h : ReadsOnly r s) : ReadsOnly r (mergeDirty s line d) := holds_ite h (touchSlice_reads h)

theorem readHome_reads {line mask} (h : ReadsOnly r s) : ReadsOnly r (readHome s line mask) :=
  touchSlice_reads (mergeDirty_reads (mapMapped_reads h))

theorem readHomes_reads {pa n} (h : ReadsOnly r s) : ReadsOnly r (readHomes s pa n) := foldl_inv (fun _ _ k => readHome_reads k) h

theorem readStream_reads {a va n} (h : ReadsOnly r s) : ReadsOnly r (readStream s a va n) := foldl_inv (fun _ _ k => readHomes_reads k) h

theorem fillAt_reads {places asid va} (h : ReadsOnly r s) : ReadsOnly r (fillAt s places asid va) := by
  refine h.trans ?_
  unfold fillAt
  dsimp only
  split <;> rfl

theorem walkFill_reads {places asid va} (h : ReadsOnly r s) : ReadsOnly r (walkFill s places asid va) :=
  foldl_inv (fun _ _ k => readHome_reads k) (fillAt_reads h)

theorem reach_reads {places asid va} (h : ReadsOnly r s) : ReadsOnly r (reach s places asid va) := holds_ite h (walkFill_reads h)

theorem noteRead_reads {asid va n} (h : ReadsOnly r s) : ReadsOnly r (noteRead s asid va n) := by
  unfold noteRead
  dsimp only
  split
  · split
    · exact reach_reads h
    · split
      · exact readStream_reads (reach_reads h)
      · exact reach_reads h
  · exact reach_reads h

theorem setMapped_reads {n l} (h : ReadsOnly r s) : ReadsOnly r (setMapped s n l) := holds_ite (h.trans rfl) (holds_ite (h.trans rfl) h)

theorem writeBackOwn_reads {n line} (h : ReadsOnly r s) : ReadsOnly r (writeBackOwn s n line) := mergeDirty_reads (setMapped_reads h)

theorem cleanStash_reads {core} (h : ReadsOnly r s) : ReadsOnly r (cleanStash s core) := foldl_inv (fun _ _ k => writeBackOwn_reads k) h

/-! ## Writes -/

/-- t is s but for memory, what holds copies of it, and what the host is told. -/
def StoresOnly (s t : State) : Prop :=
  t = { s with mem := t.mem, dram := t.dram, poison := t.poison, tlb := t.tlb, walks := t.walks, spaces := t.spaces, slices := t.slices
               cores := t.cores, gussets := t.gussets, hk := t.hk, out := t.out }

namespace StoresOnly

theorem refl (s : State) : StoresOnly s s := rfl

theorem trans (h : StoresOnly r s) (k : StoresOnly s t) : StoresOnly r t := by
  unfold StoresOnly at h k
  rw [k, h]; rfl

theorem ctx (h : StoresOnly s t) : t.ctx = s.ctx := by rw [h]
theorem rings (h : StoresOnly s t) : t.rings = s.rings := by rw [h]
theorem slots (h : StoresOnly s t) : t.slots = s.slots := by rw [h]
theorem jobs (h : StoresOnly s t) : t.jobs = s.jobs := by rw [h]

end StoresOnly

/-- A read writes nothing. -/
theorem ReadsOnly.stores (h : ReadsOnly s t) : StoresOnly s t := by
  unfold ReadsOnly at h
  rw [h]; rfl

theorem writeHome_stores {line mask} (h : StoresOnly r s) : StoresOnly r (writeHome s line mask) :=
  h.trans (touchSlice_reads (mergeDirty_reads (mapMapped_reads (.refl s)))).stores

theorem touchHomes_stores {pa n} (h : StoresOnly r s) : StoresOnly r (touchHomes s pa n) := foldl_inv (fun _ _ k => writeHome_stores k) h

theorem storeBytes_stores {pa bs} (h : StoresOnly r s) : StoresOnly r (storeBytes s pa bs) := touchHomes_stores (h.trans rfl)

theorem storeStream_stores {a va bs} (h : StoresOnly r s) : StoresOnly r (storeStream s a va bs) :=
  foldl_inv (fun _ _ k => touchHomes_stores (holds_ite k (k.trans rfl))) (h.trans rfl)

theorem setWindow_stores {owner m} (h : StoresOnly r s) : StoresOnly r (setWindow s owner m) := holds_ite (h.trans rfl) (h.trans rfl)

theorem storeWindow_stores {w o bs} (h : StoresOnly r s) : StoresOnly r (storeWindow s w o bs) := setWindow_stores (h.trans rfl)

theorem hostEvent_stores {cause status asid ident detail} (h : StoresOnly r s) : StoresOnly r (hostEvent s cause status asid ident detail) :=
  holds_ite h (holds_ite (h.trans rfl) ((storeBytes_stores h).trans rfl))

theorem storeIn_stores {asid va bs} (h : StoresOnly r s) : OnSome (StoresOnly r) (storeIn s asid va bs) := by
  unfold storeIn
  split
  · split
    · trivial
    · split
      · exact storeBytes_stores (h.trans (reach_reads (.refl s)).stores)
      · trivial
  · trivial

theorem writeDone_stores {asid done status code nbad} (h : StoresOnly r s) : StoresOnly r (writeDone s asid done status code nbad) :=
  holds_ite h (getD_inv (storeIn_stores h) h)

theorem partStore_stores {va bs} (h : StoresOnly r s) : StoresOnly r (partStore s va bs).1 := by
  have reached : StoresOnly r (reach s (tlbPlaces s) s.ctx.info.asid va) := h.trans (reach_reads (.refl s)).stores
  unfold partStore
  split
  · exact reached
  · dsimp only
    split
    · exact reached
    · split
      · exact storeStream_stores reached
      · split
        · exact storeWindow_stores reached
        · exact reached
      · split
        · exact reached.trans rfl
        · exact reached
      · exact reached
      · exact reached

end Sys2Proof.Machine
end

section
/-! SUPPORT. What the engines' operations leave alone as they are counted, stopped and settled (R193 to R195, R205, R206, R280, R293, R357,
R370): of the context its operations, its flags, CRCNT, LATE, its lease and MIR change, and nothing else. -/

namespace Sys2Proof.Machine

variable {r s t : State}

/-- A context but for its engine operations and what they count and hold. -/
def Context.aside (c : Context) : Context :=
  { c with ops := [], f := Vector.replicate 64 0, crcnt := 0, late := 0, leaseLevel := none, region := { c.region with mir := false } }

/-- t is s but for the operations of the context in focus, what they count and hold, launches' counts, arrays and memory. -/
def EnginesOnly (s t : State) : Prop :=
  t = { s with mem := t.mem, dram := t.dram, poison := t.poison, tlb := t.tlb, walks := t.walks, spaces := t.spaces, slices := t.slices
               cores := t.cores, gussets := t.gussets, hk := t.hk, out := t.out, ctx := t.ctx, draws := t.draws, slots := t.slots
               arrays := t.arrays } ∧ t.ctx.aside = s.ctx.aside

namespace EnginesOnly

theorem refl (s : State) : EnginesOnly s s := ⟨rfl, rfl⟩

theorem trans (h : EnginesOnly r s) (k : EnginesOnly s t) : EnginesOnly r t := by
  obtain ⟨h, ha⟩ := h
  obtain ⟨k, ka⟩ := k
  refine ⟨?_, ka.trans ha⟩
  rw [k, h]

theorem stores (h : EnginesOnly r s) (k : StoresOnly s t) : EnginesOnly r t := by
  refine h.trans ⟨?_, by rw [k.ctx]⟩
  unfold StoresOnly at k
  rw [k]

theorem mod {f : Context → Context} (h : EnginesOnly r s) (hf : ∀ c, (f c).aside = c.aside) : EnginesOnly r (s.mod f) :=
  h.trans ⟨rfl, hf s.ctx⟩

theorem self (h : EnginesOnly s t) : t.self = s.self := by rw [h.1]
theorem jobs (h : EnginesOnly s t) : t.jobs = s.jobs := by rw [h.1]

/-- What of a context does not lie aside is as it was. -/
theorem same {α : Type} (h : EnginesOnly s t) (f : Context → α) (hf : ∀ c, f c.aside = f c) : f t.ctx = f s.ctx := by
  rw [← hf, h.2, hf]

theorem g (h : EnginesOnly s t) : t.ctx.g = s.ctx.g := h.same Context.g fun _ => rfl
theorem pcc (h : EnginesOnly s t) : t.ctx.pcc = s.ctx.pcc := h.same Context.pcc fun _ => rfl
theorem run (h : EnginesOnly s t) : t.ctx.run = s.ctx.run := h.same Context.run fun _ => rfl
theorem inh (h : EnginesOnly s t) : t.ctx.inh = s.ctx.inh := h.same Context.inh fun _ => rfl
theorem latches (h : EnginesOnly s t) : t.ctx.latches = s.ctx.latches := h.same Context.latches fun _ => rfl
theorem accesses (h : EnginesOnly s t) : t.ctx.accesses = s.ctx.accesses := h.same Context.accesses fun _ => rfl
theorem handler (h : EnginesOnly s t) : t.ctx.region.handler = s.ctx.region.handler :=
  h.same (fun c => c.region.handler) fun _ => rfl

end EnginesOnly

/-! ## Records, flags and LATE -/

theorem setArray_engines {a} (h : EnginesOnly r s) : EnginesOnly r (s.setArray a) := h.trans ⟨rfl, rfl⟩

theorem drawn_engines (h : EnginesOnly r s) : EnginesOnly r s.drawn := h.trans ⟨rfl, rfl⟩

theorem writeRecord_engines {status kind flag code bytes addr} (h : EnginesOnly r s) :
    EnginesOnly r (writeRecord s status kind flag code bytes addr) := by
  unfold writeRecord
  exact (h.stores (partStore_stores (.refl s))).mod fun _ => rfl

theorem countFlag_engines {f n} (h : EnginesOnly r s) : EnginesOnly r (countFlag s f n) := by
  unfold countFlag
  split
  · exact h.mod fun _ => rfl
  · split
    · exact h.stores (storeBytes_stores (.refl s))
    · exact h

theorem setLate_engines {v} (h : EnginesOnly r s) : EnginesOnly r (setLate s v) := by
  unfold setLate
  split
  · exact h.mod fun _ => rfl
  · split
    · exact h.stores (storeBytes_stores (.refl s))
    · exact h

theorem countLate_engines {u va} (h : EnginesOnly r s) : EnginesOnly r (countLate s u va) := by
  unfold countLate
  split
  · exact h
  · have counted {v} : EnginesOnly r (setLate s v) := setLate_engines h
    exact holds_ite counted (holds_ite (countFlag_engines (writeRecord_engines counted)) (writeRecord_engines counted))

theorem countLates_engines {u k va} (h : EnginesOnly r s) : EnginesOnly r (countLates s u k va) := by
  unfold countLates
  split
  · exact h
  · dsimp only
    split
    · exact setLate_engines (countLate_engines h)
    · exact countLate_engines h

theorem requestLates_engines {slack u n va} (h : EnginesOnly r s) : EnginesOnly r (requestLates s slack u n va) :=
  holds_ite h (holds_ite (countLates_engines h) (countLates_engines (drawn_engines h)))

/-! ## Operations that end -/

theorem dropOp_engines {ident} (h : EnginesOnly r s) : EnginesOnly r (s.mod (dropOp ident)) := h.mod fun _ => rfl

theorem completeOp_engines {o} (h : EnginesOnly r s) : EnginesOnly r (completeOp s o) :=
  holds_ite (countFlag_engines (dropOp_engines h)) (dropOp_engines h)

theorem failOp_engines {o status code bytes addr} (h : EnginesOnly r s) : EnginesOnly r (failOp s o status code bytes addr) :=
  holds_ite (dropOp_engines h) (completeOp_engines (writeRecord_engines h))

theorem failUnnamed_engines {o status code bytes} (h : EnginesOnly r s) : EnginesOnly r (failUnnamed s o status code bytes) :=
  failOp_engines (drawn_engines h)

theorem stopOp_engines {status code o} (h : EnginesOnly r s) : EnginesOnly r (stopOp status code s o) := by
  unfold stopOp
  split
  · exact (dropOp_engines h).trans ⟨rfl, rfl⟩
  · exact dropOp_engines h
  · exact dropOp_engines h
  · exact dropOp_engines h
  · exact holds_ite h ((failOp_engines h).mod fun _ => rfl)
  · exact holds_ite h (holds_ite (h.mod fun _ => rfl) (failUnnamed_engines h))

theorem stopOps_engines {p status code} (h : EnginesOnly r s) : EnginesOnly r (stopOps p status code s) :=
  foldl_inv (fun _ _ k => stopOp_engines k) h

theorem discardStores_engines {code} (h : EnginesOnly r s) : EnginesOnly r (discardStores code s) :=
  foldl_inv (fun _ _ k => holds_ite (writeRecord_engines k) k) h

/-! ## Leases -/

theorem dropLease_engines (h : EnginesOnly r s) : EnginesOnly r (dropLease s) := holds_ite (setArray_engines h) h

theorem releaseLease_engines (h : EnginesOnly r s) : EnginesOnly r (releaseLease s) :=
  holds_ite (setArray_engines h) (dropLease_engines h)

theorem enterRequest_engines {u implicit} (h : EnginesOnly r s) : EnginesOnly r (enterRequest s u implicit) :=
  holds_ite (countLate_engines (setArray_engines h)) (setArray_engines h)

theorem leaseAct_engines {u} (h : EnginesOnly r s) : EnginesOnly r (leaseAct s u) := by
  have leased : EnginesOnly r (s.mod (fun c => { c with leaseLevel := some u })) := h.mod fun _ => rfl
  unfold leaseAct
  dsimp only
  split
  · exact setArray_engines leased
  · exact enterRequest_engines leased

theorem unleaseAct_engines (h : EnginesOnly r s) : EnginesOnly r (unleaseAct s) := (releaseLease_engines h).mod fun _ => rfl

theorem settleLeaseFrom_engines {n} (h : EnginesOnly r s) : EnginesOnly r (settleLeaseFrom n s) := by
  induction n generalizing s with
  | zero => exact h
  | succ n ih =>
    unfold settleLeaseFrom
    split
    · exact h
    · split
      · exact ih (unleaseAct_engines (dropOp_engines h))
      · exact ih (leaseAct_engines (dropOp_engines h))
      · split
        · split
          · exact enterRequest_engines h
          · exact holds_ite (enterRequest_engines h) h
        · exact h

theorem settleLease_engines (h : EnginesOnly r s) : EnginesOnly r (settleLease s) := holds_ite (settleLeaseFrom_engines h) h

theorem abandonPass_engines {o} (h : EnginesOnly r s) : EnginesOnly r (abandonPass s o) := by
  unfold abandonPass
  split
  · exact holds_ite (failUnnamed_engines h) h
  · exact h

theorem endTerm_engines (h : EnginesOnly r s) : EnginesOnly r (endTerm s) :=
  settleLease_engines ((foldl_inv (fun _ _ k => abandonPass_engines k) (setArray_engines h)).mod fun _ => rfl)

theorem afterLease_engines {suspended} (h : EnginesOnly r s) : EnginesOnly r (afterLease s suspended) := by
  unfold afterLease
  split
  · split
    · exact holds_ite (endTerm_engines h) (settleLease_engines h)
    · exact settleLease_engines h
  · exact h

end Sys2Proof.Machine
end

section
/-! SUPPORT. What the retirement of launches and levels leaves alone (R48, R53, R54, R419, R442), and what becomes of a context while another
one is in focus: the end of one that has outlived its unit, and the teardown of streams (R64, R314, R316, R399). -/

namespace Sys2Proof.Machine

variable {r s t : State}

/-! ## Lists with a key -/

/-- Looking an item up by its key after an insertion. -/
theorem find?_upsert_key {α : Type} {key : α → Nat} {n : Nat} (x : α) (l : List α) :
    (upsert key x l).find? (fun y => decide (key y = n)) = if key x = n then some x else l.find? (fun y => decide (key y = n)) := by
  induction l with
  | nil => by_cases hx : key x = n <;> simp [upsert, hx]
  | cons y ys ih =>
    unfold upsert
    split
    · by_cases hx : key x = n <;> simp [hx]
    · split
      · rename_i same
        by_cases hx : key y = n <;> simp [same, hx]
      · rename_i same
        rw [List.find?_cons, List.find?_cons, ih]
        by_cases hy : key y = n
        · have other : ¬ key x = n := fun e => same (e.trans hy.symm)
          simp [hy, other]
        · simp [hy]

/-- An item stands in its list after its insertion. -/
theorem mem_upsert {α : Type} (key : α → Nat) (x : α) (l : List α) : x ∈ upsert key x l := by
  induction l with
  | nil => exact List.mem_singleton_self x
  | cons y ys ih => unfold upsert; split <;> [skip; split] <;> simp [ih]

/-! ## Jobs -/

theorem jobOf_setJob (s : State) (j : Job) (asid : BitVec 16) :
    (s.setJob j).jobOf asid = if j.asid = asid then some j else s.jobOf asid := by
  have found := find?_upsert_key (key := fun y : Job => y.asid.toNat) (n := asid.toNat) j s.jobs
  simpa only [State.jobOf, State.setJob, BitVec.toNat_inj, beq_eq_decide] using found

theorem asid_of_jobOf {asid : BitVec 16} {j : Job} (h : s.jobOf asid = some j) : j.asid = asid := by
  simpa using List.find?_some h

theorem jobState_of_jobOf {asid : BitVec 16} {j : Job} (h : s.jobOf asid = some j) : jobState s asid = j.state := by
  simp [jobState, jobAt, h]

theorem jobAt_asid (s : State) (asid : BitVec 16) : (jobAt s asid).asid = asid := by
  unfold jobAt
  cases h : s.jobOf asid with
  | none => rfl
  | some j => exact asid_of_jobOf h

theorem jobState_setJob (s : State) (j : Job) (asid : BitVec 16) :
    jobState (s.setJob j) asid = if j.asid = asid then j.state else jobState s asid := by
  unfold jobState jobAt
  rw [jobOf_setJob]
  split <;> rfl

/-- The job of a space stands in this state. -/
def JobIn (asid : BitVec 16) (n : Nat) (s : State) : Prop := jobState s asid = n

variable {asid : BitVec 16} {n : Nat}

theorem JobIn.of_jobs (h : JobIn asid n s) (e : t.jobs = s.jobs) : JobIn asid n t := by
  simpa [JobIn, jobState, jobAt, State.jobOf, e] using h

/-- A job that is replaced by one in the same state. -/
theorem JobIn.setJob {a : BitVec 16} {j k : Job} (h : JobIn asid n s) (found : s.jobOf a = some j) (same : k.asid = j.asid)
    (state : k.state = j.state) : JobIn asid n (s.setJob k) := by
  unfold JobIn
  rw [jobState_setJob]
  split
  · rename_i e
    rw [state, ← jobState_of_jobOf found, ← asid_of_jobOf found, ← same, e]
    exact h
  · exact h

/-- Jobs whose other fields change. -/
theorem JobIn.map {f : Job → Job} (h : JobIn asid n s) (e : t.jobs = s.jobs.map f) (same : ∀ j, (f j).asid = j.asid)
    (state : ∀ j, (f j).state = j.state) : JobIn asid n t := by
  have found : t.jobOf asid = (s.jobOf asid).map f := by
    simp only [State.jobOf, e, List.find?_map, Function.comp_def, same]
  unfold JobIn jobState jobAt at h ⊢
  rw [found, ← h]
  cases s.jobOf asid with
  | none => rfl
  | some j => exact state j

/-! ## Graphs and phases -/

/-- t is s but for jobs and memory. -/
def JobsOnly (s t : State) : Prop :=
  t = { s with mem := t.mem, dram := t.dram, poison := t.poison, tlb := t.tlb, walks := t.walks, spaces := t.spaces, slices := t.slices
               cores := t.cores, gussets := t.gussets, hk := t.hk, out := t.out, jobs := t.jobs }

theorem JobsOnly.refl (s : State) : JobsOnly s s := rfl

theorem JobsOnly.trans (h : JobsOnly r s) (k : JobsOnly s t) : JobsOnly r t := by
  unfold JobsOnly at h k
  rw [k, h]; rfl

theorem StoresOnly.jobsOnly (h : StoresOnly s t) : JobsOnly s t := by
  unfold StoresOnly at h
  rw [h]; rfl

theorem JobsOnly.slots (h : JobsOnly s t) : t.slots = s.slots := by rw [h]

theorem setJob_jobsOnly {j} (h : JobsOnly r s) : JobsOnly r (s.setJob j) := h.trans rfl

theorem hostEvent_jobsOnly {cause status asid ident detail} (h : JobsOnly r s) : JobsOnly r (hostEvent s cause status asid ident detail) :=
  h.trans (hostEvent_stores (.refl s)).jobsOnly

theorem retireGraph_jobsOnly {asid g} (h : JobsOnly r s) : JobsOnly r (retireGraph s asid g) := by
  unfold retireGraph
  split
  · exact h
  · split
    · exact h
    · exact holds_ite (holds_ite (setJob_jobsOnly h) (hostEvent_jobsOnly (setJob_jobsOnly h))) h

theorem retirePhase_jobsOnly {asid p} (h : JobsOnly r s) : JobsOnly r (retirePhase s asid p) := by
  unfold retirePhase
  split
  · exact h
  · split
    · exact h
    · exact holds_ite (holds_ite (setJob_jobsOnly h) (hostEvent_jobsOnly (setJob_jobsOnly h))) h

theorem sealPhases_jobsOnly {asid below} (h : JobsOnly r s) : JobsOnly r (sealPhases s asid below) := by
  unfold sealPhases
  split
  · exact h
  · exact foldl_inv (fun _ _ k => retirePhase_jobsOnly k) (setJob_jobsOnly h)

theorem hostEvent_jobIn {cause status a ident detail} (h : JobIn asid n s) : JobIn asid n (hostEvent s cause status a ident detail) :=
  h.of_jobs (hostEvent_stores (.refl s)).jobs

theorem retireGraph_jobIn {a g} (h : JobIn asid n s) : JobIn asid n (retireGraph s a g) := by
  unfold retireGraph
  split
  · exact h
  · rename_i j found
    split
    · exact h
    · have left {l} : JobIn asid n (s.setJob { j with graphs := l }) := h.setJob found rfl rfl
      exact holds_ite (holds_ite left (hostEvent_jobIn left)) h

theorem retirePhase_jobIn {a p} (h : JobIn asid n s) : JobIn asid n (retirePhase s a p) := by
  unfold retirePhase
  split
  · exact h
  · rename_i j found
    split
    · exact h
    · have left {l} : JobIn asid n (s.setJob { j with phases := l }) := h.setJob found rfl rfl
      exact holds_ite (holds_ite left (hostEvent_jobIn left)) h

/-! ## Launches -/

/-- t is s but for launches, their jobs, barrier slots and memory. -/
def LevelsOnly (s t : State) : Prop :=
  t = { s with mem := t.mem, dram := t.dram, poison := t.poison, tlb := t.tlb, walks := t.walks, spaces := t.spaces, slices := t.slices
               cores := t.cores, gussets := t.gussets, hk := t.hk, out := t.out, jobs := t.jobs, slots := t.slots, arrays := t.arrays }

namespace LevelsOnly

theorem refl (s : State) : LevelsOnly s s := rfl

theorem trans (h : LevelsOnly r s) (k : LevelsOnly s t) : LevelsOnly r t := by
  unfold LevelsOnly at h k
  rw [k, h]; rfl

theorem ctx (h : LevelsOnly s t) : t.ctx = s.ctx := by rw [h]
theorem self (h : LevelsOnly s t) : t.self = s.self := by rw [h]
theorem others (h : LevelsOnly s t) : t.others = s.others := by rw [h]
theorem queues (h : LevelsOnly s t) : t.queues = s.queues := by rw [h]
theorem groups (h : LevelsOnly s t) : t.groups = s.groups := by rw [h]
theorem streams (h : LevelsOnly s t) : t.streams = s.streams := by rw [h]
theorem matches_ (h : LevelsOnly s t) : t.matches_ = s.matches_ := by rw [h]

end LevelsOnly

theorem JobsOnly.levels (h : JobsOnly s t) : LevelsOnly s t := by
  unfold JobsOnly at h
  rw [h]; rfl

theorem modSlot_levels {k f} (h : LevelsOnly r s) : LevelsOnly r (modSlot s k f) := h.trans rfl

theorem cancelUnits_levels {slot k} (h : LevelsOnly r s) : LevelsOnly r (cancelUnits s slot k) := holds_ite h (modSlot_levels h)

theorem freeBarriers_levels {slot} (h : LevelsOnly r s) : LevelsOnly r (freeBarriers s slot) := h.trans rfl

theorem writeDone_levels {asid done status code nbad} (h : LevelsOnly r s) : LevelsOnly r (writeDone s asid done status code nbad) :=
  h.trans (writeDone_stores (.refl s)).jobsOnly.levels

theorem retireLaunch_levels {slot} (h : LevelsOnly r s) : LevelsOnly r (retireLaunch s slot) := by
  unfold retireLaunch
  split
  · exact h
  · split
    · exact h
    · extract_lets +onlyGivenNames _ t1 t2 t3
      have h3 : LevelsOnly r t3 := (writeDone_levels (freeBarriers_levels h)).trans rfl
      split
      · exact h3
      · refine h3.trans (retirePhase_jobsOnly (holds_ite ?_ (retireGraph_jobsOnly ?_))).levels
        · exact rfl
        · exact rfl

theorem retireLaunches_levels (h : LevelsOnly r s) : LevelsOnly r (retireLaunches s) := foldl_inv (fun _ _ k => retireLaunch_levels k) h

theorem writeDone_jobIn {a done status code nbad} (h : JobIn asid n s) : JobIn asid n (writeDone s a done status code nbad) :=
  h.of_jobs (writeDone_stores (.refl s)).jobs

theorem retireLaunch_jobIn {slot} (h : JobIn asid n s) : JobIn asid n (retireLaunch s slot) := by
  unfold retireLaunch
  split
  · exact h
  · split
    · exact h
    · extract_lets +onlyGivenNames _ t1 t2 t3
      have h1 : JobIn asid n t1 := h.of_jobs rfl
      have h3 : JobIn asid n t3 := (writeDone_jobIn h1).of_jobs rfl
      split
      · exact h3
      · rename_i j found
        have counted {a b} : JobIn asid n (t3.setJob { j with graphs := a, phases := b }) := h3.setJob found rfl rfl
        exact retirePhase_jobIn (holds_ite counted (retireGraph_jobIn counted))

theorem retireLaunches_jobIn (h : JobIn asid n s) : JobIn asid n (retireLaunches s) := foldl_inv (fun _ _ k => retireLaunch_jobIn k) h

/-! ## The context in focus and the others -/

/-- Looking a context up among the others. -/
theorem find?_others_upsert (k m : Nat) (c : Context) (l : List (Nat × Context)) :
    (upsert (·.1) (k, c) l).find? (fun p => p.1 == m) = if k = m then some (k, c) else l.find? (fun p => p.1 == m) := by
  simpa only [beq_eq_decide] using find?_upsert_key (key := fun p : Nat × Context => p.1) (k, c) l

theorem find?_others_filter (k m : Nat) (l : List (Nat × Context)) :
    (l.filter (fun p => p.1 != k)).find? (fun p => p.1 == m) = if k = m then none else l.find? (fun p => p.1 == m) := by
  rw [List.find?_filter]
  split
  · rename_i e
    simp [e]
  · rename_i ne
    congr 1
    funext p
    by_cases hm : p.1 = m
    · simp [hm, Ne.symm ne]
    · simp [hm]

@[simp] theorem focus_self (s : State) (k : Nat) : (s.focus k).self = k := by
  unfold State.focus
  split
  · rename_i e; exact e.symm
  · rfl

theorem focus_ctx (s : State) (k : Nat) : (s.focus k).ctx = s.ctxAt k := by
  unfold State.focus
  split
  · rename_i e; simp [State.ctxAt, e]
  · rfl

theorem focus_here (s : State) : s.focus s.self = s := if_pos rfl

/-- Another focus changes no context. -/
theorem ctxAt_focus (s : State) (k m : Nat) : (s.focus k).ctxAt m = s.ctxAt m := by
  by_cases here : k = s.self
  · rw [here, focus_here]
  · by_cases hm : m = k
    · rw [hm, ← focus_ctx]; simp [State.ctxAt, focus_ctx]
    · unfold State.focus
      simp only [here, if_false, State.ctxAt, hm]
      by_cases idle : s.ctx = .idle
      · simp only [idle, if_true, find?_others_filter]
        by_cases home : m = s.self
        · simp [home]
        · simp [home, Ne.symm home, Ne.symm hm]
      · simp only [idle, if_false, find?_others_upsert, find?_others_filter]
        by_cases home : m = s.self
        · simp [home]
        · simp [home, Ne.symm home, Ne.symm hm]

@[simp] theorem focus_mem (s : State) (k : Nat) : (s.focus k).mem = s.mem := by unfold State.focus; split <;> rfl
@[simp] theorem focus_jobs (s : State) (k : Nat) : (s.focus k).jobs = s.jobs := by unfold State.focus; split <;> rfl
@[simp] theorem focus_slots (s : State) (k : Nat) : (s.focus k).slots = s.slots := by unfold State.focus; split <;> rfl
@[simp] theorem focus_streams (s : State) (k : Nat) : (s.focus k).streams = s.streams := by unfold State.focus; split <;> rfl
@[simp] theorem focus_groups (s : State) (k : Nat) : (s.focus k).groups = s.groups := by unfold State.focus; split <;> rfl
@[simp] theorem focus_cores (s : State) (k : Nat) : (s.focus k).cores = s.cores := by unfold State.focus; split <;> rfl

/-- Acting on the context in focus needs no other focus. -/
theorem withCtx_here {f : State → State} (h : (f s).self = s.self) : s.withCtx s.self f = f s := by
  rw [State.withCtx, focus_here, ← h, focus_here]

@[simp] theorem withCtx_self (s : State) (k : Nat) (f : State → State) : (s.withCtx k f).self = s.self := focus_self _ _

/-- Acting on another context leaves the one in focus, where the act changes no third one. -/
theorem withCtx_ctx {k : Nat} {f : State → State} (ne : k ≠ s.self) (self : (f (s.focus k)).self = k)
    (others : (f (s.focus k)).others = (s.focus k).others) : (s.withCtx k f).ctx = s.ctx := by
  have back : (f (s.focus k)).ctxAt s.self = (s.focus k).ctxAt s.self := by
    simp only [State.ctxAt, self, focus_self, others]
    simp [Ne.symm ne]
  rw [State.withCtx, focus_ctx, back, ctxAt_focus]
  simp [State.ctxAt]

/-- What acting on a context leaves of it. -/
theorem withCtx_ctxAt {k : Nat} {f : State → State} (self : (f (s.focus k)).self = k) : (s.withCtx k f).ctxAt k = (f (s.focus k)).ctx := by
  rw [State.withCtx, ctxAt_focus]
  simp [State.ctxAt, self]

/-! ## Contexts that have outlived their unit -/

/-- What a context that has outlived its unit does at its end: its word, its launch's retirement, its records and its save slot. -/
theorem sweep_keeps {P : State → Prop} (h : P s) (word : P s → P (settleWord s)) (idle : ∀ t, P t → P { t with ctx := .idle })
    (home : ∀ t o n, P t → P (rehome t o n)) (save : ∀ t a n, P t → P (releaseSave t a n)) : P (sweep s) :=
  holds_ite (holds_ite (save _ _ _ (home _ _ _ (idle _ (word h)))) (word h)) h

theorem settleWord_keeps {P : State → Prop} (h : P s) (owed : ∀ t f, P t → P (t.mod f))
    (levels : ∀ t, P t → P (retireLaunch t t.ctx.info.slot)) (word : ∀ t a d st, P t → P (writeDone t a d st 0 0)) : P (settleWord s) :=
  holds_ite (word _ _ _ _ (owed _ _ h)) (holds_ite h (levels _ h))

theorem sweep_self (s : State) : (sweep s).self = s.self := by
  refine sweep_keeps (P := fun t => t.self = s.self) rfl (fun _ => ?_) (fun _ h => h) (fun _ _ _ h => h) fun t _ _ h => ?_
  · exact settleWord_keeps (P := fun t => t.self = s.self) rfl (fun _ _ h => h) (fun _ h => (retireLaunch_levels (.refl _)).self.trans h)
      fun _ _ _ _ h => (writeDone_levels (.refl _)).self.trans h
  · unfold releaseSave
    split <;> exact h

theorem sweep_others (s : State) : (sweep s).others = s.others := by
  refine sweep_keeps (P := fun t => t.others = s.others) rfl (fun _ => ?_) (fun _ h => h) (fun _ _ _ h => h) fun t _ _ h => ?_
  · exact settleWord_keeps (P := fun t => t.others = s.others) rfl (fun _ _ h => h) (fun _ h => (retireLaunch_levels (.refl _)).others.trans h)
      fun _ _ _ _ h => (writeDone_levels (.refl _)).others.trans h
  · unfold releaseSave
    split <;> exact h

/-- A context that has not ended is not swept. -/
theorem sweep_of_run (h : s.ctx.run ≠ .idle) : sweep s = s := by
  have stays : outlived s = false := by simp [outlived, h]
  simp [sweep, stays]

end Sys2Proof.Machine
end

section
/-! SUPPORT. The teardown of streams (R64, R314, R316): which streams are left, and what else of the state is. -/

namespace Sys2Proof.Machine

variable {s t : State}

theorem returnPool_levels (s : State) (st : Stream) : LevelsOnly s (returnPool s st) := by
  unfold returnPool
  split
  · exact rfl
  · exact rfl

theorem withCtx_keeps {P : State → Prop} {n : Nat} {f : State → State} (h : P s) (focus : ∀ t k, P t → P (t.focus k)) (act : ∀ t, P t → P (f t)) :
    P (s.withCtx n f) := focus _ _ (act _ (focus _ _ h))

/-- What the teardown of streams keeps, step by step. -/
theorem tearDownAll_keeps {P : State → Prop} {p : Stream → Bool} (h : P s) (drop : ∀ t st, P t → P (dropStream t st))
    (focus : ∀ t k, P t → P (t.focus k)) (swept : ∀ t, P t → P (sweep t)) : P (tearDownAll s p) :=
  foldl_inv (fun _ _ k => holds_ite (drop _ _ k) (withCtx_keeps (drop _ _ k) focus swept)) h

/-! ## The context in focus -/

theorem tearDown_self (s : State) (st : Stream) : (tearDown s st).self = s.self := by
  unfold tearDown forOwner
  split
  · exact (returnPool_levels s st).self
  · rw [withCtx_self]; exact (returnPool_levels s st).self

/-- A context that has not ended stays as streams are torn down. -/
theorem tearDown_ctx {st : Stream} (h : s.ctx.run ≠ .idle) : (tearDown s st).ctx = s.ctx := by
  have dropped : (dropStream s st).ctx = s.ctx := (returnPool_levels s st).ctx
  unfold tearDown forOwner
  split
  · exact dropped
  · rw [← dropped] at h ⊢
    by_cases here : st.owner = (dropStream s st).self
    · rw [here, withCtx_here (sweep_self _), sweep_of_run h]
    · exact withCtx_ctx here ((sweep_self _).trans (focus_self _ _)) (sweep_others _)

theorem tearDownAll_ctx {p : Stream → Bool} (h : s.ctx.run ≠ .idle) : (tearDownAll s p).ctx = s.ctx :=
  foldl_inv (p := fun t : State => t.ctx = s.ctx) (fun _ _ k => (tearDown_ctx (by rwa [k])).trans k) rfl

theorem tearDownAll_self (s : State) (p : Stream → Bool) : (tearDownAll s p).self = s.self :=
  foldl_inv (p := fun t : State => t.self = s.self) (fun _ _ k => (tearDown_self _ _).trans k) rfl

/-! ## Jobs, groups and launches -/

variable {asid : BitVec 16} {n : Nat}

theorem releaseSave_jobIn {a k} (h : JobIn asid n s) : JobIn asid n (releaseSave s a k) := by
  unfold releaseSave
  split
  · rename_i j found
    exact h.setJob (k := { j with slotsUsed := _ }) found rfl rfl
  · exact h

theorem rehome_jobIn {o m} (h : JobIn asid n s) : JobIn asid n (rehome s o m) := h.map rfl (fun _ => rfl) fun _ => rfl

theorem focus_jobIn {k} (h : JobIn asid n s) : JobIn asid n (s.focus k) := h.of_jobs (focus_jobs s k)

theorem sweep_jobIn (h : JobIn asid n s) : JobIn asid n (sweep s) :=
  sweep_keeps h (fun h => settleWord_keeps h (fun _ _ h => h) (fun _ => retireLaunch_jobIn) fun _ _ _ _ => writeDone_jobIn)
    (fun _ h => h) (fun _ _ _ => rehome_jobIn) fun _ _ _ => releaseSave_jobIn

/-- Every group left belongs to another space. -/
def NoGroups (asid : BitVec 16) (s : State) : Prop := ∀ g ∈ s.groups, g.asid ≠ asid

theorem rehome_noGroups {o m} (h : NoGroups asid s) : NoGroups asid (rehome s o m) := by
  intro g hg
  obtain ⟨x, hx, e⟩ := List.mem_map.mp hg
  have same : g.asid = x.asid := by rw [← e]; split <;> rfl
  rw [same]
  exact h x hx

theorem NoGroups.of_groups (h : NoGroups asid s) (e : t.groups = s.groups) : NoGroups asid t := by
  unfold NoGroups
  rw [e]
  exact h

theorem releaseSave_levels (s : State) (a : BitVec 16) (k : Option Nat) : LevelsOnly s (releaseSave s a k) := by
  unfold releaseSave
  split
  · exact rfl
  · exact rfl

theorem sweep_noGroups (h : NoGroups asid s) : NoGroups asid (sweep s) :=
  sweep_keeps h (fun h => settleWord_keeps h (fun _ _ h => h) (fun _ h => h.of_groups (retireLaunch_levels (.refl _)).groups)
      fun _ _ _ _ h => h.of_groups (writeDone_levels (.refl _)).groups)
    (fun _ h => h) (fun _ _ _ => rehome_noGroups) fun _ _ _ h => h.of_groups (releaseSave_levels _ _ _).groups

theorem tearDownAll_noGroups {p} (h : NoGroups asid s) : NoGroups asid (tearDownAll s p) :=
  tearDownAll_keeps h (fun _ _ h => h.of_groups (returnPool_levels _ _).groups) (fun _ _ h => h.of_groups (focus_groups _ _)) fun _ => sweep_noGroups

/-! ## Streams -/

/-- A stream but for who opened it. -/
def Stream.unowned (st : Stream) : Stream := { st with owner := 0 }

/-- The streams are these, whoever owns them. -/
def StreamsAre (l : List Stream) (s : State) : Prop := s.streams.map Stream.unowned = l

variable {l : List Stream}

theorem StreamsAre.of_streams (h : StreamsAre l s) (e : t.streams = s.streams) : StreamsAre l t := by
  unfold StreamsAre
  rw [e]
  exact h

theorem rehome_streamsAre {o m} (h : StreamsAre l s) : StreamsAre l (rehome s o m) := by
  rw [← h]
  simp only [StreamsAre, rehome, List.map_map]
  refine List.map_congr_left fun st _ => ?_
  simp only [Function.comp]
  split <;> rfl

theorem sweep_streamsAre (h : StreamsAre l s) : StreamsAre l (sweep s) :=
  sweep_keeps h (fun h => settleWord_keeps h (fun _ _ h => h) (fun _ h => h.of_streams (retireLaunch_levels (.refl _)).streams)
      fun _ _ _ _ h => h.of_streams (writeDone_levels (.refl _)).streams)
    (fun _ h => h) (fun _ _ _ => rehome_streamsAre) fun _ _ _ h => h.of_streams (releaseSave_levels _ _ _).streams

theorem tearDown_streamsAre {st} (h : StreamsAre l s) : StreamsAre (l.filter (fun x => x.entry != st.entry)) (tearDown s st) := by
  have dropped : StreamsAre (l.filter (fun x => x.entry != st.entry)) (dropStream s st) := by
    rw [← h]
    simp only [StreamsAre, dropStream, List.filter_map]
    rfl
  exact holds_ite dropped (withCtx_keeps dropped (fun _ _ h => h.of_streams (focus_streams _ _)) fun _ => sweep_streamsAre)

/-- A stream that is left after a teardown stood before, and is none of those torn down. -/
theorem foldl_tearDown_streams {d : List Stream} {x : Stream} (hx : x ∈ (d.foldl tearDown s).streams) :
    x.unowned ∈ s.streams.map Stream.unowned ∧ ∀ y ∈ d, x.entry ≠ y.entry := by
  induction d generalizing s with
  | nil => exact ⟨List.mem_map_of_mem hx, fun _ h => absurd h List.not_mem_nil⟩
  | cons st d ih =>
    obtain ⟨here, others⟩ := ih hx
    rw [tearDown_streamsAre (st := st) (s := s) rfl, List.mem_filter] at here
    obtain ⟨old, other⟩ := here
    refine ⟨old, List.forall_mem_cons.mpr ⟨?_, others⟩⟩
    simpa [Stream.unowned] using other

/-- No stream is left that a teardown chose, where its owner plays no part in the choice. -/
theorem tearDownAll_streams {p : Stream → Bool} (hp : ∀ st, p st.unowned = p st) : ∀ x ∈ (tearDownAll s p).streams, p x = false := by
  intro x hx
  obtain ⟨old, others⟩ := foldl_tearDown_streams hx
  obtain ⟨y, hy, e⟩ := List.mem_map.mp old
  have entry : y.entry = x.entry := by
    have same := congrArg Stream.entry e
    exact same
  have chosen : p y = p x := by rw [← hp, e, hp]
  by_contra left
  exact others y (List.mem_filter.mpr ⟨hy, by simpa [chosen] using left⟩) entry.symm

/-! ## Launches' counts -/

/-- The launch in a slot counts k units. -/
def Counts (slot k : Nat) (s : State) : Prop := (slotNumbered s slot).map LaunchSlot.count = some k

variable {slot k : Nat}

theorem Counts.of_slots (h : Counts slot k s) (e : t.slots = s.slots) : Counts slot k t := by
  simpa [Counts, slotNumbered, e] using h

/-- Launches that only lose their predecessors' counts. -/
theorem Counts.of_map {q : Nat} {f : LaunchSlot → LaunchSlot} (h : Counts slot k s) (ne : q ≠ slot) (e : t.slots = (s.slots.filter (fun x => x.slot != q)).map f)
    (same : ∀ x, (f x).slot = x.slot) (count : ∀ x, (f x).count = x.count) : Counts slot k t := by
  have found : slotNumbered t slot = (slotNumbered s slot).map f := by
    rw [slotNumbered, e, List.find?_map, List.find?_filter]
    congr 2
    funext x
    by_cases hx : x.slot = slot
    · simp [same, hx, ne.symm]
    · simp [same, hx]
  rw [Counts, found, Option.map_map, ← h]
  congr 1
  funext x
  exact count x

theorem retireLaunch_counts {q} (hk : k ≠ 0) (h : Counts slot k s) : Counts slot k (retireLaunch s q) := by
  unfold retireLaunch
  split
  · exact h
  · rename_i l found
    split
    · exact h
    · rename_i ends
      have ne : q ≠ slot := by
        rintro rfl
        rw [Counts, found] at h
        exact ends (by simp [Option.some.inj h, hk])
      extract_lets +onlyGivenNames _ t1 t2 t3
      have h2 : Counts slot k t2 := h.of_slots ((writeDone_stores (.refl t1)).slots)
      have h3 : Counts slot k t3 := h2.of_map ne rfl (fun _ => by split <;> rfl) fun _ => by split <;> rfl
      split
      · exact h3
      · exact h3.of_slots (retirePhase_jobsOnly (holds_ite (setJob_jobsOnly (.refl _)) (retireGraph_jobsOnly (setJob_jobsOnly (.refl _))))).slots

theorem releaseSave_slots (s : State) (a : BitVec 16) (n : Option Nat) : (releaseSave s a n).slots = s.slots := by
  unfold releaseSave
  split <;> rfl

theorem sweep_counts (hk : k ≠ 0) (h : Counts slot k s) : Counts slot k (sweep s) :=
  sweep_keeps h (fun h => settleWord_keeps h (fun _ _ h => h) (fun _ => retireLaunch_counts hk)
      fun _ _ _ _ h => h.of_slots (writeDone_stores (.refl _)).slots)
    (fun _ h => h) (fun _ _ _ h => h) fun _ _ _ h => h.of_slots (releaseSave_slots _ _ _)

theorem returnPool_slots (s : State) (st : Stream) : (returnPool s st).slots = s.slots := by
  unfold returnPool
  split <;> rfl

theorem tearDownAll_counts {p} (hk : k ≠ 0) (h : Counts slot k s) : Counts slot k (tearDownAll s p) :=
  tearDownAll_keeps h (fun _ _ h => h.of_slots (returnPool_slots _ _)) (fun _ _ h => h.of_slots (focus_slots _ _)) fun _ => sweep_counts hk

end Sys2Proof.Machine
end

section
/-! SUPPORT. What performing every access of a context at once leaves alone as it halts (R393): INH and the results that are still due. -/

namespace Sys2Proof.Machine

variable {r s t : State}

/-! ## Stashes and slices under a part that is performed -/

theorem touchStash_reads {n line mask write} (h : ReadsOnly r s) : ReadsOnly r (touchStash s n line mask write) := by
  unfold touchStash
  split
  · exact h
  · split
    · exact holds_ite (writeBack_reads h) h
    · extract_lets +onlyGivenNames _ _ _ _ u
      have hu : ReadsOnly r u := by
        unfold u
        split
        · exact mergeDirty_reads (setMapped_reads h)
        · exact setMapped_reads h
      exact mergeDirty_reads (holds_ite (mapMapped_reads hu) (mapMapped_reads hu))

theorem setAtoms_reads {line a} (h : ReadsOnly r s) : ReadsOnly r (setAtoms s line a) := setSlice_reads h

theorem noteAtomics_reads {core line n mask} (h : ReadsOnly r s) : ReadsOnly r (noteAtomics s core line n mask) := by
  unfold noteAtomics
  split
  · exact setAtoms_reads (touchStash_reads h)
  · dsimp only
    have written {a} : ReadsOnly r (setAtoms (writeHome s line mask) line a) :=
      setAtoms_reads (touchSlice_reads (mergeDirty_reads (mapMapped_reads h)))
    exact holds_ite (setAtoms_reads (touchStash_reads written)) written

theorem cachePart_reads {a p} (h : ReadsOnly r s) : ReadsOnly r (cachePart s a p) := by
  unfold cachePart
  split
  · dsimp only
    split
    · exact holds_ite (writeBack_reads h) h
    · exact holds_ite (noteAtomics_reads h) (setAtoms_reads (touchStash_reads (touchSlice_reads h)))
  · exact h

theorem flushLine_ctx (s : State) (line : Nat) : (flushLine s line).ctx = s.ctx := rfl

theorem recallLine_reads {line keep} (h : ReadsOnly r s) : ReadsOnly r (recallLine s line keep) := mapMapped_reads h

theorem discardLine_ctx (s : State) (line : Nat) : (discardLine s line).ctx = s.ctx := by rw [discardLine]

theorem invalidateLine_ctx (s : State) (line : Nat) : (invalidateLine s line).ctx = s.ctx := by
  rw [← discardLine_ctx s line]
  exact (setSlice_reads (recallLine_reads (.refl (discardLine s line)))).ctx

/-! ## INH and the results still due -/

/-- INH and the results still due are the same in both states. -/
def SameDue (s t : State) : Prop := t.ctx.inh = s.ctx.inh ∧ t.ctx.latches = s.ctx.latches

namespace SameDue

theorem refl (s : State) : SameDue s s := ⟨rfl, rfl⟩

theorem trans (h : SameDue r s) (k : SameDue s t) : SameDue r t := ⟨k.1.trans h.1, k.2.trans h.2⟩

theorem ctx (h : SameDue r s) (k : t.ctx = s.ctx) : SameDue r t := h.trans ⟨by rw [k], by rw [k]⟩

theorem mod {f : Context → Context} (h : SameDue r s) (inh : (f s.ctx).inh = s.ctx.inh) (latches : (f s.ctx).latches = s.ctx.latches) :
    SameDue r (s.mod f) := h.trans ⟨inh, latches⟩

end SameDue

theorem EnginesOnly.due (h : EnginesOnly s t) : SameDue s t := ⟨h.inh, h.latches⟩

theorem planAll_due (s : State) : SameDue s (planAll s) := ⟨rfl, rfl⟩

theorem walkAll_due {ident n} (h : SameDue r s) : SameDue r (walkAll ident n s) := by
  induction n generalizing s with
  | zero => exact h
  | succ n ih =>
    unfold walkAll
    split
    · split
      · exact h
      · split
        · split
          · exact ih ((h.trans (requestLates_engines (.refl s)).due).ctx (walkFill_reads (.refl _)).ctx)
          · exact h.mod rfl rfl
        · exact h.mod rfl rfl
    · exact h

theorem setG_due (h : SameDue r s) (k : Fin 32) (v : Word) : SameDue r (s.mod (Context.setG k v)) := by
  refine h.mod ?_ ?_
  · unfold Context.setG; split <;> rfl
  · unfold Context.setG; split <;> rfl

theorem deliver_due {a} (h : SameDue r s) : SameDue r (deliver s a) := by
  have left : SameDue r (s.mod (dropAccess a.id)) := h.mod rfl rfl
  have written : SameDue r (if a.kind.writesG then (s.mod (dropAccess a.id)).mod (Context.setG a.dest (loadValue a)) else s.mod (dropAccess a.id)) :=
    holds_ite (setG_due left _ _) left
  exact holds_ite (written.mod rfl rfl) written

theorem markWrite_due (h : SameDue r s) (va : Nat) : SameDue r (s.mod (markWrite va)) := by
  refine h.mod ?_ ?_
  · unfold markWrite; dsimp only; split <;> rfl
  · unfold markWrite; dsimp only; split <;> rfl

theorem writeElem_due {e v} (h : SameDue r s) : SameDue r (writeElem s e v) := by
  have marked := markWrite_due h e.va
  unfold writeElem
  dsimp only
  split
  · exact marked.ctx rfl
  · exact marked.ctx (storeWindow_stores (.refl _)).ctx
  · exact marked.ctx rfl
  · exact marked

theorem performElem_due {e} {sa : State × Access} (h : SameDue r sa.1) : SameDue r (performElem sa e).1 := by
  unfold performElem
  split
  split
  · exact h
  · exact h
  · exact h
  · exact h
  · exact writeElem_due h
  · exact h
  · exact h
  · exact h
  · exact writeElem_due h
  · exact writeElem_due h
  · exact writeElem_due h
  · exact writeElem_due h
  · exact writeElem_due h
  · exact holds_ite (writeElem_due h) h
  · exact h

theorem setQuarantine_ctx (s : State) (q : Resource) (on : Bool) : (setQuarantine s q on).ctx = s.ctx := by
  unfold setQuarantine
  split <;> rfl

theorem testStorage_ctx (s : State) (va : Nat) : (testStorage s va).ctx = s.ctx := by
  unfold testStorage
  split
  · split
    · unfold startTest
      extract_lets out who
      split
      · rfl
      · exact setQuarantine_ctx _ _ _
    · rfl
  · rfl

theorem consumePoison_due {va at_} (h : SameDue r s) : SameDue r (consumePoison s va at_) := (h.ctx (testStorage_ctx s va)).mod rfl rfl

theorem clearWritten_ctx (s : State) (p : Part) : (clearWritten s p).ctx = s.ctx := by
  unfold clearWritten
  dsimp only
  split <;> rfl

theorem performPart_due {whole a p} (h : SameDue r s) : SameDue r (performPart s whole a p).1 := by
  unfold performPart
  extract_lets +onlyGivenNames bad
  clear_value bad
  split
  · exact h
  · extract_lets +onlyGivenNames reads
    split
    · exact holds_ite h (consumePoison_due h)
    · extract_lets +onlyGivenNames es n
      split
      rename_i e
      have drawn : SameDue r (if es.length ≤ 1 then s else s.drawn) := holds_ite h (h.ctx rfl)
      have performed := foldl_inv (p := fun sa : State × Access => SameDue r sa.1) (f := performElem) (l := es.take n)
        (b := (if es.length ≤ 1 then s else s.drawn, a)) (fun _ _ k => performElem_due k) drawn
      rw [e] at performed
      extract_lets mark
      split
      · exact performed
      · split
        · exact performed
        · exact (holds_ite (p := SameDue r) (performed.ctx (clearWritten_ctx _ _)) performed).ctx (cachePart_reads (.refl _)).ctx

theorem performLine_due {whole ident line} (h : SameDue r s) : SameDue r (performLine s whole ident line) := by
  unfold performLine
  split
  · split
    · exact (performPart_due h).mod rfl rfl
    · exact h
  · exact h

theorem performHalting_due {a p} (h : SameDue r s) : SameDue r (performHalting s a p) :=
  holds_ite ((performLine_due h).trans (requestLates_engines (.refl _)).due) (performLine_due h)

theorem cacheEffect_due {a} (h : SameDue r s) : SameDue r (cacheEffect s a) := by
  have reached : SameDue r (reachLines s a.ea.toNat a.v1.toNat) := foldl_inv (fun _ _ k => k.ctx (reach_reads (.refl _)).ctx) h
  unfold cacheEffect
  dsimp only
  refine (foldl_inv (p := SameDue r) (fun _ _ k => ?_) reached).trans (requestLates_engines (.refl _)).due
  exact holds_ite (k.ctx (flushLine_ctx _ _)) (holds_ite (holds_ite (k.ctx (invalidateLine_ctx _ _)) k) (k.ctx (writeBackOwn_reads (.refl _)).ctx))

theorem performNow_due {before ident} (h : SameDue r s) : SameDue r (performNow s before ident) := by
  unfold performNow
  split
  · split
    · exact holds_ite ((cacheEffect_due h).mod rfl rfl) h
    · extract_lets u
      have hu : SameDue r u := foldl_inv (fun _ _ k => holds_ite (performHalting_due k) k) h
      split
      · exact holds_ite (deliver_due hu) hu
      · exact hu
  · exact h

theorem drainFrom_due {is} (h : SameDue r s) : SameDue r (drainFrom is s) := by
  induction is generalizing s with
  | nil => exact h
  | cons i is ih => exact ih (performNow_due (walkAll_due (h.trans (planAll_due s))))

/-- Performing every access keeps INH and the results still due. -/
theorem drainAccesses_due (s : State) : SameDue s (drainAccesses s) := drainFrom_due (.refl s)

end Sys2Proof.Machine
end

section
/-! SUPPORT. The host's commands to a job and what they end (R81, R98, R370, R422). -/

namespace Sys2Proof.Machine

variable {s t : State} {asid : BitVec 16} {n : Nat} {j : Job}

/-! ## Cancelling a job -/

theorem withCtx_jobIn {k : Nat} {f : State → State} (h : JobIn asid n s) (act : ∀ t, JobIn asid n t → JobIn asid n (f t)) :
    JobIn asid n (s.withCtx k f) := withCtx_keeps h (fun _ _ => focus_jobIn) act

theorem discardImage_jobIn {ident} (h : JobIn asid n s) : JobIn asid n (discardImage s ident) :=
  withCtx_jobIn h fun _ k => sweep_jobIn (k.of_jobs (stopOps_engines (.refl _)).jobs)

theorem cancelUnits_jobIn {slot k} (h : JobIn asid n s) : JobIn asid n (cancelUnits s slot k) := holds_ite h h

theorem cancelWaiting_jobIn {slot p} (h : JobIn asid n s) : JobIn asid n (cancelWaiting s slot p) := by
  unfold cancelWaiting
  extract_lets +onlyGivenNames _ _ _ _ _ u v
  have hu : JobIn asid n u := by
    refine foldl_inv (fun _ _ k => ?_) h
    split
    · exact discardImage_jobIn k
    · exact k
  have hv : JobIn asid n v := hu
  exact cancelUnits_jobIn hv

theorem stopWalk_jobIn {slot} (h : JobIn asid n s) : JobIn asid n (stopWalk s slot) := by
  unfold stopWalk
  split
  · exact h
  · exact cancelWaiting_jobIn (cancelUnits_jobIn h)

theorem cancelLaunch_jobIn {slot} (h : JobIn asid n s) : JobIn asid n (cancelLaunch s slot) := stopWalk_jobIn (slot := slot) h

theorem cancelJob_jobIn {a} (h : JobIn asid n s) : JobIn asid n (cancelJob s a) :=
  retireLaunches_jobIn (show JobIn asid n (cancelLaunches s a) from foldl_inv (fun _ _ k => cancelLaunch_jobIn k) h)

theorem stopJobParts_noGroups (s : State) (asid : BitVec 16) : NoGroups asid (stopJobParts s asid) := by
  intro g hg
  simpa using (List.mem_filter.mp hg).2

theorem cancelJob_noGroups (s : State) (asid : BitVec 16) : NoGroups asid (cancelJob s asid) :=
  (stopJobParts_noGroups (cancelLaunches s asid) asid).of_groups (retireLaunches_levels (.refl _)).groups

/-! ## The commands -/

/-- A command whose job's state allows it. -/
theorem jobCommand_of_allowed {allowed : Nat → Bool} {next : Nat} {k : State → State} (found : s.jobOf asid = some j) (may : allowed j.state = true) :
    jobCommand s asid allowed next k = .next (k (s.setJob { j with state := next })) := by
  simp [jobCommand, found, may]

theorem setJob_jobIn (found : s.jobOf asid = some j) : JobIn asid n (s.setJob { j with state := n }) := by
  unfold JobIn
  rw [jobState_setJob, if_pos (asid_of_jobOf found)]

theorem execJobEnd_eq (found : s.jobOf asid = some j) (may : j.state = 1 ∨ j.state = 2) :
    exec (.jobEnd asid) s = .next (s.setJob { j with state := 3 }) := by
  rw [exec_jobEnd, execJobEnd, jobCommand_of_allowed found (by simpa using may)]
  rfl

theorem execJobCancel_ends (found : s.jobOf asid = some j) (may : j.state = 1 ∨ j.state = 2) :
    ∃ t, exec (.jobCancel asid) s = .next t ∧ jobState t asid = 4 ∧ ∀ g ∈ t.groups, g.asid ≠ asid := by
  rw [exec_jobCancel, execJobCancel, jobCommand_of_allowed found (by simpa using may)]
  exact ⟨_, rfl, cancelJob_jobIn (setJob_jobIn found), cancelJob_noGroups _ _⟩

theorem execJobActivate_runs (found : s.jobOf asid = some j) (may : j.state = 2) :
    ∃ t, exec (.jobActivate asid) s = .next t ∧ t.mem = s.mem ∧ jobState t asid = 1 ∧ ∀ r ∈ t.rings, r.asid = asid → r.lastMove = s.ctc := by
  rw [exec_jobActivate, execJobActivate, jobCommand_of_allowed found (by simp [may])]
  refine ⟨_, rfl, rfl, ?_, ?_⟩
  · have active : jobState (activateJob (s.setJob { j with state := 1 }) asid) asid =
        jobState ((s.setJob { j with state := 1 }).setJob { jobAt (s.setJob { j with state := 1 }) asid with state := 1 }) asid := rfl
    rw [active, jobState_setJob, if_pos (jobAt_asid _ _)]
  · intro r hr own
    obtain ⟨q, _, e⟩ := List.mem_map.mp hr
    split at e
    · rw [← e]; rfl
    · rw [← e] at own; contradiction

theorem execJobHold_holds (found : s.jobOf asid = some j) (may : j.state = 1) :
    ∃ t, exec (.jobHold asid) s = .next t ∧ t.mem = s.mem ∧ jobState t asid = 2 ∧ ∀ r ∈ t.rings, r.asid = asid → r.stall = false := by
  rw [exec_jobHold, execJobHold, jobCommand_of_allowed found (by simp [may])]
  refine ⟨_, rfl, rfl, setJob_jobIn found, ?_⟩
  intro r hr own
  obtain ⟨q, _, e⟩ := List.mem_map.mp hr
  split at e
  · rw [← e]
  · rw [← e] at own; contradiction

theorem execJobRetire_retires (found : s.jobOf asid = some j) (ending : j.state = 3 ∨ j.state = 4) (launches : ∀ l ∈ s.slots, l.asid ≠ asid)
    (gussets : hasGussets s asid = false) :
    ∃ t, exec (.jobRetire asid) s = .next t ∧ jobState t asid = 5 ∧ (∀ st ∈ t.streams, st.asid ≠ asid) ∧ ∀ g ∈ t.groups, g.asid ≠ asid := by
  have none_left : s.slots.any (fun l => l.asid == asid) = false := by simpa using launches
  have may : ((j.state != 3 && j.state != 4) || s.slots.any (fun l => l.asid == asid)) = false := by
    rcases ending with e | e <;> simp [e, none_left]
  rw [exec_jobRetire, execJobRetire]
  simp only [found, may, gussets, Bool.false_eq_true, if_false]
  refine ⟨_, rfl, hostEvent_jobIn ?_, ?_, ?_⟩
  · unfold JobIn
    rw [jobState_setJob, if_pos (jobAt_asid _ _)]
  · intro st hst
    rw [(hostEvent_jobsOnly (.refl _)).levels.streams] at hst
    simpa using tearDownAll_streams (p := fun st => st.asid == asid) (fun _ => rfl) st hst
  · exact (tearDownAll_noGroups (stopJobParts_noGroups s asid)).of_groups (hostEvent_jobsOnly (.refl _)).levels.groups

end Sys2Proof.Machine
end

section
/-! SUPPORT. Verdicts on faults, units that end, and the debug service (R387, R392, R401, R406, R409, R412). -/

namespace Sys2Proof.Machine

variable {s t : State}

/-! ## Landing the results that are due -/

/-- What landing results leaves of a context. -/
theorem Landed.same {α : Type} (h : Landed s t) (f : Context → α) (hf : ∀ c : Context, f c.unissued = f c) : f t.ctx = f s.ctx := by
  obtain ⟨_, same, _⟩ := h
  rw [← hf, same, hf]

theorem Landed.accesses_nil (h : Landed s t) (e : s.ctx.accesses = []) : t.ctx.accesses = [] := by
  have same := h.same (fun c => c.accesses.map Access.asIssued) fun c => by
    simp [Context.unissued, Context.unsent, Context.still, Function.comp_def, Access.asIssued]
  simpa [e] using same

theorem landOne_latches (s : State) (l : Latch) : (landOne s l).ctx.latches = s.ctx.latches := by
  unfold landOne
  extract_lets lw n u
  split
  · rfl
  split
  · rfl
  split
  · rfl
  split
  · rfl
  split
  · rfl
  split <;> rfl

/-- The results still due once those due now have landed. -/
theorem landDue_latches (s : State) : (landDue s).ctx.latches = s.ctx.latches.filter (fun l => l.rem != 0) :=
  foldl_inv (p := fun t : State => t.ctx.latches = s.ctx.latches.filter (fun l => l.rem != 0)) (fun _ _ k => (landOne_latches _ _).trans k) rfl

theorem dropPrediction_run (c : Context) : (dropPrediction c).run = c.run := by
  unfold dropPrediction loopsBack
  split
  · rfl
  · split <;> rfl

theorem dropPrediction_inh (c : Context) : (dropPrediction c).inh = c.inh := by
  unfold dropPrediction loopsBack
  split
  · rfl
  · split <;> rfl

theorem dropPrediction_latches (c : Context) : (dropPrediction c).latches = c.latches := by
  unfold dropPrediction loopsBack
  split
  · rfl
  · split <;> rfl

theorem dropPrediction_accesses_nil {c : Context} (h : c.accesses = []) : (dropPrediction c).accesses = [] := by
  unfold dropPrediction
  split
  · exact h
  · rw [h]; rfl

theorem drainAccesses_nil (h : s.ctx.accesses = []) : drainAccesses s = s := by rw [drainAccesses, h]; rfl

/-! ## Verdicts -/

theorem takeRows_keeps (claimed : List Nat) (n : Nat) : ∀ (a : Access) (q : List RowEntry),
    (takeRows claimed n a q).1.stage = a.stage ∧ (takeRows claimed n a q).1.parts = a.parts := by
  induction n with
  | zero => exact fun _ _ => ⟨rfl, rfl⟩
  | succ n ih =>
    intro a q
    simp only [takeRows]
    split
    · split
      · obtain ⟨stage, parts⟩ := ih _ _
        exact ⟨stage, parts⟩
      · exact ⟨rfl, rfl⟩
    · exact ⟨rfl, rfl⟩

/-- The one access of a context, where it has been planned or decided and has no part, goes nowhere. -/
theorem settle_standing {a : Access} (one : s.ctx.accesses = [a]) (stage : a.stage ≠ .walking) (parts : a.parts = []) :
    ∃ b, (settle s).ctx.accesses = [b] ∧ b.id = a.id ∧ b.stage = a.stage := by
  let claimed := s.ctx.accesses.flatMap Access.rowIds
  let fed := takeRows claimed (rowsNeeded s.rowBits a - a.rows.length) a s.ctx.sq
  obtain ⟨sameStage, sameParts⟩ : fed.1.stage = a.stage ∧ fed.1.parts = a.parts := takeRows_keeps _ _ _ _
  have sameId : fed.1.asIssued.id = a.asIssued.id := congrArg Access.id (takeRows_asIssued _ _ _ _)
  have rows : (feedRows s.rowBits claimed false s.ctx.accesses s.ctx.sq).1 = [fed.1] := by rw [one]; rfl
  have stays (u : State) : planned u fed.1 = fed.1 := by simp [planned, sameStage, stage]
  have plan : (planAll s).ctx.accesses = [fed.1] := by
    change List.map (planned _) (feedRows s.rowBits claimed false s.ctx.accesses s.ctx.sq).1 = [fed.1]
    rw [rows, List.map_singleton, stays]
  refine ⟨fed.1, ?_, sameId, sameStage⟩
  simp [settle, plan, pumpFrom, sendParts, sameParts, parts]

theorem verdict_of_access {o : Offer} {retry : Bool} {a : Access} {c : Cause} {va : Word} {tok : Nat} (engine : o.engine = false)
    (one : s.ctx.accesses = [a]) (named : a.id = o.ident) (stage : a.stage = .offered c va tok) :
    verdict s o retry = settle (s.mod (putAccess { a with stage := if retry then .walking else .declined c va, parts := [], data := [] })) := by
  simp [verdict, engine, one, named, stage]

theorem Settled.ctx_run (h : Settled s t) : t.ctx.run = s.ctx.run := by
  have same := congrArg Context.run h.2
  exact same

/-- A verdict answers the one offer of a job, of the access that stands on it. -/
theorem execFaultReply_answers {asid : BitVec 16} {j : Job} {o : Offer} {a : Access} {c : Cause} {va : Word} {tok : Nat} {token : Word32} {retry : Bool}
    (found : s.jobOf asid = some j) (offers : j.offers = [o]) (named : o.token = token.toNat) (here : o.ctx = s.self) (engine : o.engine = false)
    (run : s.ctx.run = .running) (one : s.ctx.accesses = [a]) (own : a.id = o.ident) (stage : a.stage = .offered c va tok) :
    ∃ t, exec (.faultReply asid token retry) s = .next t ∧ t.mem = s.mem ∧ (t.jobOf asid).map Job.offers = some [] ∧
      (retry = false → ∃ b, t.ctx.accesses = [b] ∧ b.id = a.id ∧ b.stage = .declined c va) := by
  let s1 := s.setJob { j with offers := [] }
  let answered : Access := { a with stage := if retry then .walking else .declined c va, parts := [], data := [] }
  have settled : Settled (s1.mod (putAccess answered)) (settle (s1.mod (putAccess answered))) := settle_settled _
  have replied : verdict s1 o retry = settle (s1.mod (putAccess answered)) := verdict_of_access engine one own stage
  have running : (verdict s1 o retry).ctx.run ≠ .idle := by
    rw [replied, settled.ctx_run]
    simp [putAccess, s1, State.setJob, run]
  have self : (verdict s1 o retry).self = s1.self := by rw [replied, settled.1]; rfl
  have acts : s1.withCtx s1.self (fun s => sweep (verdict s o retry)) = settle (s1.mod (putAccess answered)) := by
    rw [withCtx_here (by rw [sweep_self, self]), sweep_of_run running, replied]
  have asked : j.offers.find? (fun o => o.token == token.toNat) = some o := by simp [offers, named]
  have gone : j.offers.filter (fun x => x.token != o.token) = [] := by simp [offers]
  have answer : exec (.faultReply asid token retry) s = .next (settle (s1.mod (putAccess answered))) := by
    rw [exec_faultReply, execFaultReply, found]
    dsimp only
    rw [asked]
    dsimp only
    rw [gone, here]
    exact congrArg _ acts
  refine ⟨_, answer, by rw [settled.1]; rfl, ?_, ?_⟩
  · have jobs : (settle (s1.mod (putAccess answered))).jobOf asid = s1.jobOf asid := by rw [settled.1]; rfl
    rw [jobs, jobOf_setJob, if_pos (asid_of_jobOf found)]
    rfl
  · intro declined
    have put : (s1.mod (putAccess answered)).ctx.accesses = [answered] := by
      simp [putAccess, s1, State.setJob, one, answered]
    obtain ⟨b, left, ident, stood⟩ := settle_standing put (by simp [answered, declined]) rfl
    exact ⟨b, left, ident, by simpa [answered, declined] using stood⟩

/-! ## Unwinding, failing and stopping -/

/-- A region that holds an error of storage unwinds to its handler. -/
theorem execUnwind_unwinds {va ia : Word} (run : s.ctx.run = .running) (isOpen : s.ctx.region.isOpen = true) (ecc : s.ctx.ready.ecc = some (va, ia)) :
    ∃ t, exec .unwind s = .next t ∧ t.ctx.pcc = s.ctx.region.handler ∧ t.ctx.pcx = s.ctx.region.handler ∧ t.ctx.region.isOpen = false ∧
      t.ctx.region.ucode = 0x20 ∧ t.ctx.region.fa = va ∧ t.ctx.inh = false ∧ t.ctx.accesses = [] ∧ t.ctx.latches = [] ∧ t.ctx.g = s.ctx.g ∧
      t.ctx.ready.ecc = none := by
  have result : exec .unwind s = .next (unwindRegion s .ecc va) := by
    simp [exec_unwind, execUnwind, run, isOpen, ecc]
  refine ⟨_, result, ?_⟩
  unfold unwindRegion
  extract_lets u1 u2 u3 marked _ u4
  have landed := landDue_landed s
  have stopped : EnginesOnly (landDue s) u2 := afterLease_engines (stopOps_engines (discardStores_engines (.refl _)))
  have handler : u2.ctx.region.handler = s.ctx.region.handler :=
    stopped.handler.trans (landed.same (fun c => c.region.handler) fun _ => rfl)
  have g : u2.ctx.g = s.ctx.g := stopped.g.trans (landed.same Context.g fun _ => rfl)
  clear_value u2
  have recorded := writeRecord_engines (r := u4) (status := 1) (kind := 20) (flag := 0xFF) (code := Cause.ecc.code) (bytes := marked)
    (addr := va.toNat) (.refl u4)
  exact ⟨recorded.pcc.trans handler, (recorded.same Context.pcx fun _ => rfl).trans handler, recorded.same (fun c => c.region.isOpen) fun _ => rfl,
    recorded.same (fun c => c.region.ucode) fun _ => rfl, recorded.same (fun c => c.region.fa) fun _ => rfl, recorded.inh, recorded.accesses,
    recorded.latches, recorded.g.trans g, recorded.same (fun c => c.ready.ecc) fun _ => rfl⟩

/-- What a failed unit is left with. -/
theorem failUnit_ends (s : State) (c : Cause) (addr : Nat) :
    (failUnit s c addr).ctx.fate = .failed c ∧ (failUnit s c addr).ctx.run = .draining ∧ (failUnit s c addr).ctx.endedC = true ∧
      (failUnit s c addr).ctx.endedX = true ∧ (failUnit s c addr).ctx.accesses = [] := by
  have recorded := writeRecord_engines (r := failWithout s c) (status := 1) (kind := 19) (flag := 0xFF) (code := c.code) (bytes := 0)
    (addr := addr) (.refl _)
  exact ⟨recorded.same Context.fate fun _ => rfl, recorded.run, recorded.same Context.endedC fun _ => rfl,
    recorded.same Context.endedX fun _ => rfl, recorded.accesses⟩

theorem execUnitFail_fails (h : (s.ctx.run = .running ∧ (withdrawn s = true ∨ (s.ctx.region.isOpen = false ∧ s.ctx.ready.ecc ≠ none))) ∨
      (s.ctx.run = .debugHalted ∧ withdrawn s = true)) :
    ∃ t, exec .unitFail s = .next t ∧ t.ctx.fate = .failed .ecc ∧ t.ctx.run = .draining ∧ t.ctx.endedC = true ∧ t.ctx.endedX = true ∧
      t.ctx.accesses = [] := by
  suffices fails : ∃ addr, exec .unitFail s = .next (failUnit s .ecc addr) by
    obtain ⟨addr, e⟩ := fails
    exact ⟨_, e, failUnit_ends s .ecc addr⟩
  rw [exec_unitFail, execUnitFail]
  rcases h with ⟨run, out | ⟨closed, ecc⟩⟩ | ⟨run, out⟩
  · exact ⟨s.ctx.pcc.toNat, by simp [run, out]⟩
  · by_cases out : withdrawn s = true
    · exact ⟨s.ctx.pcc.toNat, by simp [run, out]⟩
    · obtain ⟨p, hp⟩ := Option.ne_none_iff_exists'.mp ecc
      exact ⟨p.2.toNat, by simp [run, out, hp, closed]⟩
  · exact ⟨s.ctx.pcc.toNat, by simp [run, out]⟩

theorem topCause_running {c : Cause × Option Access} (h : topCause s = some c) : s.ctx.run = .running := by
  by_contra other
  simp [topCause, other] at h

/-- A cancelled unit with no access is left with none. -/
theorem stopCancelled_accesses_nil (run : s.ctx.run ≠ .idle) (none : s.ctx.accesses = []) : (stopCancelled s).ctx.accesses = [] := by
  let u := (landDue s).mod dropPrediction
  have landed := landDue_landed s
  have left : u.ctx.accesses = [] := dropPrediction_accesses_nil (landed.accesses_nil none)
  have active : u.ctx.run = s.ctx.run := (dropPrediction_run _).trans (landed.same Context.run fun _ => rfl)
  have stopped : EnginesOnly (withdrawOffers u) (releaseLease (stopOps (fun _ => true) 4 Cause.cancel.code (withdrawOffers u))) :=
    releaseLease_engines (stopOps_engines (.refl _))
  have torn : ∀ p, (tearDownAll (releaseLease (stopOps (fun _ => true) 4 Cause.cancel.code (withdrawOffers u))) p).ctx.accesses = [] := by
    intro p
    rw [tearDownAll_ctx (by rw [stopped.run]; exact active ▸ run), stopped.accesses]
    exact left
  unfold stopCancelled
  rw [drainAccesses_nil left]
  simp only [State.mod_ctx, torn, Context.dropWork, List.filter_nil]

theorem execCancelStop_stops (may : mayHalt s = true) (h : topCause s = some (.cancel, none) ∨ (s.ctx.run = .debugHalted ∧ s.ctx.ready.cancel = true)) :
    ∃ t, exec .cancelStop s = .next t ∧ t.ctx.fate = .cancelled ∧ t.ctx.run = .draining ∧ t.ctx.endedC = true ∧ t.ctx.endedX = true ∧
      (s.ctx.accesses = [] → t.ctx.accesses = []) ∧ (∀ a ∈ t.ctx.accesses, a.stage = .planned) ∧ t.ctx.latches = [] := by
  have run : s.ctx.run ≠ .idle := by
    rcases h with top | ⟨halted, _⟩
    · simp [topCause_running top]
    · simp [halted]
  have result : exec .cancelStop s = .next (stopCancelled s) := by
    rw [exec_cancelStop, execCancelStop]
    rcases h with top | ⟨halted, cancel⟩
    · simp [may, topCause_running top, top]
    · simp [may, halted, cancel]
  refine ⟨_, result, rfl, rfl, rfl, rfl, stopCancelled_accesses_nil run, ?_, rfl⟩
  intro a ha
  have kept := (List.mem_filter.mp ha).2
  simp only [Bool.and_eq_true, beq_iff_eq] at kept
  obtain ⟨⟨planned, _⟩, _⟩ := kept
  exact planned

/-! ## The debug service -/

theorem returnRows_keeps (l : List Access) (c : Context) : (returnRows c l).inh = c.inh ∧ (returnRows c l).latches = c.latches := by
  induction l with
  | nil => exact ⟨rfl, rfl⟩
  | cons a l ih => exact ih

/-- A context that halts keeps INH, and the results that are not due at once stay due. -/
theorem haltContext_due (s : State) :
    (haltContext s).ctx.inh = s.ctx.inh ∧ (haltContext s).ctx.latches.map Latch.rem = (landDue s).ctx.latches.map Latch.rem := by
  let u := ((landDue s).mod landExtras).mod dropPrediction
  have drained := drainAccesses_due u
  obtain ⟨inh, latches⟩ := returnRows_keeps ((drainAccesses u).ctx.accesses.filter (fun a => a.stage != .dropped)) { (drainAccesses u).ctx with accesses := [] }
  have landed := landDue_landed s
  unfold haltContext
  simp only [State.mod_ctx]
  constructor
  · exact inh.trans (drained.1.trans ((dropPrediction_inh _).trans (landed.same Context.inh fun _ => rfl)))
  · refine (congrArg (List.map Latch.rem) (latches.trans (drained.2.trans (dropPrediction_latches _)))).trans ?_
    exact List.map_map

end Sys2Proof.Machine
end

section
/-! SUPPORT. The debug service's halt and resumption, register writes as events, and the events of jobs and traps together (R81, R387, R392,
R401, R406, R409, R412, R422, R439). -/

namespace Sys2Proof.Machine

variable {s : State}

/-- The debug service halts a running context, and INH is kept for its return. -/
theorem execDebugHalt_halts (serves : debugServes s = true) (run : s.ctx.run = .running)
    (may : mayHalt (s.mod (fun c => { c with ready := { c.ready with halt := true } })) = true)
    (top : topCause (s.mod (fun c => { c with ready := { c.ready with halt := true } })) = some (.halt, none)) :
    ∃ t, exec .debugHalt s = .next t ∧ t.ctx.run = .debugHalted ∧ t.ctx.ready.halt = false ∧ t.ctx.inh = true ∧ t.ctx.lcode = 0x2B ∧
      t.ctx.haltedInh = s.ctx.inh ∧ t.ctx.latches.map Latch.rem = (landDue s).ctx.latches.map Latch.rem := by
  obtain ⟨inh, latches⟩ := haltContext_due (s.mod (fun c => { c with ready := { c.ready with halt := true } }))
  have result : exec .debugHalt s = .next ((haltContext (s.mod (fun c => { c with ready := { c.ready with halt := true } }))).mod (fun c => { c with
      run := .debugHalted, ready := { c.ready with halt := false }, haltedInh := c.inh, inh := true, lcode := BitVec.ofNat 8 Cause.halt.code })) := by
    rw [exec_debugHalt, execDebugHalt]
    simp [serves, run, may, top]
  refine ⟨_, result, rfl, rfl, rfl, rfl, inh, latches.trans ?_⟩
  rw [landDue_latches, landDue_latches]
  rfl

/-- A halted context resumes where it stood. -/
theorem execDebugResume_resumes (serves : debugServes s = true) (run : s.ctx.run = .debugHalted) :
    ∃ t, exec .debugResume s = .next t ∧ t.mem = s.mem ∧ t.ctx.run = .running ∧ t.ctx.g = s.ctx.g ∧ t.ctx.pcc = s.ctx.pcc ∧
      t.ctx.pcx = s.ctx.pcx ∧ t.ctx.inh = s.ctx.haltedInh ∧ t.ctx.accesses.length = s.ctx.accesses.length := by
  let u := s.mod (fun c => { c with
    run := .running, inh := c.haltedInh, accesses := c.accesses.map (fun a => { a with stage := .walking, parts := [], data := [] }) })
  have result : exec .debugResume s = .next (noteTimer (settle u)) := by
    rw [exec_debugResume, execDebugResume]
    simp [serves, run, u]
  obtain ⟨frame, unsent⟩ := settle_settled u
  have same {α : Type} (f : Context → α) (hf : ∀ c : Context, f c.unsent = f c) : f (settle u).ctx = f u.ctx := by
    rw [← hf, unsent, hf]
  have count : (settle u).ctx.accesses.length = s.ctx.accesses.length := by
    have h := same (fun c => (c.accesses.map Access.asIssued).length) fun c => by simp [Context.unsent]
    simpa [u] using h
  have noted {α : Type} (f : Context → α) (hf : ∀ c : Context, f { c with ready := { c.ready with timer := true } } = f c) :
      f (noteTimer (settle u)).ctx = f (settle u).ctx := by
    unfold noteTimer
    split
    · exact hf _
    · rfl
  refine ⟨_, result, ?_, ?_, ?_, ?_, ?_, ?_, ?_⟩
  · have mem : (noteTimer (settle u)).mem = (settle u).mem := by
      unfold noteTimer
      split <;> rfl
    rw [mem, frame]
    rfl
  · exact (noted Context.run fun _ => rfl).trans (same Context.run fun _ => rfl)
  · exact (noted Context.g fun _ => rfl).trans (same Context.g fun _ => rfl)
  · exact (noted Context.pcc fun _ => rfl).trans (same Context.pcc fun _ => rfl)
  · exact (noted Context.pcx fun _ => rfl).trans (same Context.pcx fun _ => rfl)
  · exact (noted Context.inh fun _ => rfl).trans (same Context.inh fun _ => rfl)
  · exact (noted (fun c => c.accesses.length) fun _ => rfl).trans count

/-- A register-write event is the SYS.WR that stands at the control slice's boundary. -/
theorem writeStep_eq_sysWr {w : Nat} {a : Fin 32} {q : Fin 64} {bs : List Byte} (word : codeWord s s.ctx.pcc.toNat = some w)
    (decoded : decode (bytesOfWord32 w) = .ok (.sysWr a q, bs)) : writeStep q.val (s.ctx.getG a) s = execSysWr a q s := by
  -- The decoder is opaque here: evaluating it on an unknown word costs too much.
  obtain ⟨reads, known⟩ : ∃ reads : Nat → Except DecodeError (Instr × List Byte), ∀ w, decode (bytesOfWord32 w) = reads w := ⟨_, fun _ => rfl⟩
  rw [known] at decoded
  unfold writeStep
  simp only [known]
  rw [word]
  dsimp only
  rw [decoded]
  exact if_pos ⟨rfl, rfl⟩

theorem writeStep_writes {w : Nat} {a : Fin 32} {q : Fin 64} {bs : List Byte} (word : codeWord s s.ctx.pcc.toNat = some w)
    (decoded : decode (bytesOfWord32 w) = .ok (.sysWr a q, bs)) (writable : sysWritable q.val = true) (ready : ControlReady s [a] [])
    (point : atExecutePoint s = true) (latches : s.ctx.latches = []) (ops : s.ctx.ops = []) {i : Instr} {n : Nat}
    (means : exec i s = writeStep n (s.ctx.getG a) s) (h : q.val = n) :
    Completes i .control s (s.mod (fun c => { writeSys q.val (s.ctx.getG a) c with xdrain := false })) := by
  unfold Completes
  rw [means, ← h, writeStep_eq_sysWr word decoded, ← exec_sysWr]
  exact execSysWr_completes ready writable (sysPlace_of fun _ => point) (sysQuiet_of (fun _ => latches) fun _ _ => ops) rfl

/-- Settles O57: a job's commands, verdicts, the timer, unwinding, failing, stopping, the debug service and the register writes, each in turn. -/
theorem eventsOfJobsAndTraps : Obligations.EventsOfJobsAndTraps := by
  unfold Obligations.EventsOfJobsAndTraps
  intro s
  refine ⟨fun asid j found => ⟨fun may => ⟨execJobEnd_eq found may, execJobCancel_ends found may⟩, execJobActivate_runs found,
      execJobHold_holds found, execJobRetire_retires found, ?_⟩,
    fun armed reached => ?_, fun _ _ => execUnwind_unwinds, execUnitFail_fails, execCancelStop_stops,
    fun serves => ⟨execDebugHalt_halts serves, execDebugResume_resumes serves⟩, ?_⟩
  · intro o a c va tok token retry offers named here engine run one own stage
    exact execFaultReply_answers found offers named here engine run one own stage
  · exact if_pos (by simpa using ⟨armed, reached⟩)
  · intro w a q bs word decoded writable ready point latches ops
    have writes {i : Instr} {n : Nat} (means : exec i s = writeStep n (s.ctx.getG a) s) (h : q.val = n) :=
      writeStep_writes word decoded writable ready point latches ops means h
    exact ⟨writes rfl, writes rfl, writes rfl, fun loop => writes (n := q.val) (if_pos loop) rfl, fun i => writes (n := 3 + i.val) rfl⟩

end Sys2Proof.Machine
end

section
/-! SUPPORT. Submission rings and admission (R72 to R81), the link match table (R82, R83) and deadlines (R85). -/

namespace Sys2Proof.Machine

variable {r s t : State} {n : Nat}

/-! ## Rings -/

theorem ringAt_setRing (s : State) (q : Ring) (n : Nat) : ringAt (setRing s q) n = if q.ring = n then q else ringAt s n := by
  have found := find?_upsert_key (key := Ring.ring) (n := n) q s.rings
  simp only [ringAt, setRing, beq_eq_decide]
  rw [found]
  split <;> rfl

@[simp] theorem ring_ringAt (s : State) (n : Nat) : (ringAt s n).ring = n := by
  unfold ringAt
  cases h : s.rings.find? (fun q => q.ring == n) with
  | none => rfl
  | some q => simpa using List.find?_some h

theorem ringAt_setRing_self {q : Ring} (h : q.ring = n) : ringAt (setRing s q) n = q := by rw [ringAt_setRing, if_pos h]

theorem ringAt_of_rings (e : t.rings = s.rings) (n : Nat) : ringAt t n = ringAt s n := by rw [ringAt, ringAt, e]

/-- t is s but for rings, memory, what holds copies of it, and what the host is told. -/
def RingsOnly (s t : State) : Prop :=
  t = { s with mem := t.mem, dram := t.dram, poison := t.poison, tlb := t.tlb, walks := t.walks, spaces := t.spaces, slices := t.slices
               cores := t.cores, gussets := t.gussets, hk := t.hk, out := t.out, rings := t.rings }

namespace RingsOnly

theorem refl (s : State) : RingsOnly s s := rfl

theorem trans (h : RingsOnly r s) (k : RingsOnly s t) : RingsOnly r t := by
  unfold RingsOnly at h k
  rw [k, h]; rfl

theorem slots (h : RingsOnly s t) : t.slots = s.slots := by rw [h]

end RingsOnly

theorem StoresOnly.ringsOnly (h : StoresOnly s t) : RingsOnly s t := by
  unfold StoresOnly at h
  rw [h]; rfl

theorem setRing_ringsOnly {q} (h : RingsOnly r s) : RingsOnly r (setRing s q) := h.trans rfl

theorem ringEvent_ringsOnly {k cause code index detail} (h : RingsOnly r s) : RingsOnly r (ringEvent s k cause code index detail).1 := by
  unfold ringEvent
  dsimp only
  split
  · rename_i e
    have stored := OnSome.of_eq e (storeIn_stores (.refl s))
    exact (setRing_ringsOnly (h.trans stored.ringsOnly)).trans (hostEvent_stores (.refl _)).ringsOnly
  · exact h

theorem ringFaultAt_ringsOnly {k index va} (h : RingsOnly r s) : RingsOnly r (ringFaultAt s k index va) :=
  ringEvent_ringsOnly (setRing_ringsOnly h)

theorem consumeHead_ringsOnly {k} (h : RingsOnly r s) : RingsOnly r (consumeHead s k) := by
  unfold consumeHead
  dsimp only
  split
  · exact ringFaultAt_ringsOnly h
  · rename_i e
    have cleared := h.trans (OnSome.of_eq e (storeIn_stores (.refl s))).ringsOnly
    split
    · exact ringFaultAt_ringsOnly (setRing_ringsOnly cleared)
    · rename_i e'
      exact (setRing_ringsOnly cleared).trans (OnSome.of_eq e' (storeIn_stores (.refl _))).ringsOnly

/-- A record of an event counts it, or cannot be written. -/
theorem ringAt_ringEvent (s : State) (n cause code : Nat) (index : Word32) (detail : Nat) :
    ringAt (ringEvent s n cause code index detail).1 n = ringAt s n ∨
      ringAt (ringEvent s n cause code index detail).1 n = { ringAt s n with evcnt := (ringAt s n).evcnt + 1 } := by
  unfold ringEvent
  dsimp only
  split
  · right
    rw [ringAt_of_rings (hostEvent_stores (.refl _)).rings]
    exact ringAt_setRing_self (ring_ringAt s n)
  · exact .inl rfl

/-- What recording an event keeps of its ring: whatever counting the event and disabling the ring keep. -/
theorem recordRing_keeps {p : Ring → Prop} {cause code : Nat} {index : Word32} {detail : Nat} (h : p (ringAt s n))
    (count : ∀ q : Ring, p q → p { q with evcnt := q.evcnt + 1 })
    (fault : ∀ q : Ring, p q → p { q with enabled := false, disabledByFault := true, stall := false }) :
    p (ringAt (recordRing s n cause code index detail) n) := by
  have event {t : State} {cause code index detail} (ht : p (ringAt t n)) : p (ringAt (ringEvent t n cause code index detail).1 n) := by
    rcases ringAt_ringEvent t n cause code index detail with e | e <;> rw [e]
    · exact ht
    · exact count _ ht
  have first := event (cause := cause) (code := code) (index := index) (detail := detail) h
  unfold recordRing
  split
  · rename_i e
    rw [e] at first
    exact first
  · rename_i e
    rw [e] at first
    refine event ?_
    rw [ringAt_setRing, if_pos (ring_ringAt _ _)]
    exact fault _ first

theorem execRingInstall_installs (s : State) (k : Fin 256) (cfg : Word) (off : (ringAt s k.val).enabled = false)
    (ok : ringOk { ringAt s k.val with cfg := cfg } = true) :
    ∃ t, exec (.ringInstall k cfg) s = .next t ∧ t.mem = s.mem ∧ t.slots = s.slots ∧
      ringAt t k.val = { emptyRing k.val with
        base := (ringAt s k.val).base, ready := (ringAt s k.val).ready, headm := (ringAt s k.val).headm, evt := (ringAt s k.val).evt
        stallt := (ringAt s k.val).stallt, cfg := cfg, enabled := true, lastMove := s.ctc } := by
  rw [exec_ringInstall, execRingInstall]
  dsimp only
  rw [if_neg (by simp [off]), if_neg (by simpa using ok)]
  refine ⟨_, rfl, rfl, rfl, ?_⟩
  exact ringAt_setRing_self rfl

theorem execRingRemove_removes (s : State) (k : Fin 256) :
    ∃ t, exec (.ringRemove k) s = .next t ∧ t.mem = s.mem ∧ t.slots = s.slots ∧ (ringAt t k.val).enabled = false ∧ (ringAt t k.val).cfg = 0 := by
  refine ⟨_, rfl, rfl, rfl, ?_⟩
  rw [ringAt_setRing, if_pos (ring_ringAt _ _)]
  exact ⟨rfl, rfl⟩

theorem execTailWrite_moves (s : State) (k : Fin 256) (v : Word32) (on : (ringAt s k.val).enabled = true) (moved : v ≠ (ringAt s k.val).tail)
    (forward : (v - (ringAt s k.val).tail).toNat < 2 ^ 31) :
    ∃ t, exec (.tailWrite k v) s = .next t ∧
      if (v - (ringAt s k.val).head).toNat ≤ (ringAt s k.val).size then
        t.mem = s.mem ∧ (ringAt t k.val).tail = v ∧ v ∈ (ringAt t k.val).bounds ∧ (ringAt t k.val).head = (ringAt s k.val).head
      else (ringAt t k.val).range = true ∧ (ringAt t k.val).tail = (ringAt s k.val).tail := by
  have takes : (!(ringAt s k.val).enabled || v == (ringAt s k.val).tail || decide (2 ^ 31 ≤ (v - (ringAt s k.val).tail).toNat)) = false := by
    simp only [on, Bool.not_true, Bool.false_or, Bool.or_eq_false_iff, beq_eq_false_iff_ne, decide_eq_false_iff_not]
    exact ⟨moved, by omega⟩
  rw [exec_tailWrite, execTailWrite]
  simp only [takes, Bool.false_eq_true, if_false, decide_eq_true_eq]
  by_cases fits : (v - (ringAt s k.val).head).toNat ≤ (ringAt s k.val).size
  · rw [if_neg (by omega)]
    simp only [fits, if_true]
    refine ⟨_, rfl, rfl, ?_⟩
    rw [ringAt_setRing, if_pos (ring_ringAt _ _)]
    refine ⟨rfl, ?_, rfl⟩
    dsimp only
    split <;> simp
  · rw [if_pos (by omega)]
    simp only [fits, if_false]
    refine ⟨_, rfl, recordRing_keeps (p := fun q => q.range = true ∧ q.tail = (ringAt s k.val).tail) ?_ (fun _ h => h) fun _ h => h⟩
    rw [ringAt_setRing, if_pos (ring_ringAt _ _)]
    exact ⟨rfl, rfl⟩

/-- What a page walk for a party on no core looks at is the same in both states: memory, its size, and the translations that are held. -/
structure SameTables (s t : State) : Prop where
  mem : t.mem = s.mem
  hk : t.hk = s.hk
  walks : t.walks = s.walks
  spaces : t.spaces = s.spaces
  tlb : t.tlb = s.tlb

namespace SameTables

variable (h : SameTables s t)
include h

theorem regionOf : regionOf t = regionOf s := by
  delta Machine.regionOf
  rw [h.hk]

theorem tableEntry : tableEntry t = tableEntry s := by
  delta Machine.tableEntry isDram
  rw [h.mem, h.regionOf]

theorem walkLast : walkLast t = walkLast s := by
  delta Machine.walkLast
  rw [h.tableEntry, h.mem]

/-- (The walk's own equations are not used: the kernel would evaluate the part's memory size in them.) -/
theorem walkFrom : walkFrom t = walkFrom s := by
  delta Machine.walkFrom walkFrom._f
  rw [h.tableEntry, h.walkLast]

theorem walkAt : walkAt t = walkAt s := by
  have desc : descOf t = descOf s := by
    delta descOf readDesc
    rw [h.spaces, h.mem, h.hk]
  have start : walkStart t = walkStart s := by
    delta walkStart
    rw [h.walks]
  delta Machine.walkAt
  rw [desc, start, h.walkFrom]

theorem resolveOut : resolveOut t = resolveOut s := by
  delta Machine.resolveOut resolveAt heldAt
  rw [h.walkAt, h.tlb]

theorem placeOf (self : t.self = s.self) (ctx : t.ctx = s.ctx) : placeOf t = placeOf s := by
  delta Machine.placeOf
  rw [h.regionOf, self, ctx]

end SameTables

/-- Whether a store of a space may be made does not depend on the rings. -/
theorem storeIn_setRing_isSome (s : State) (q : Ring) (asid : BitVec 16) (va : Nat) (bs : List Byte) :
    (storeIn (setRing s q) asid va bs).isSome = (storeIn s asid va bs).isSome := by
  have tables : SameTables s (setRing s q) := ⟨rfl, rfl, rfl, rfl, rfl⟩
  unfold storeIn
  rw [tables.resolveOut, tables.placeOf rfl rfl]
  generalize resolveOut s asid va = page
  generalize placeOf s = place
  split
  · split
    · rfl
    · split
      · rw [Option.isSome_some, Option.isSome_some]
      · rfl
  · rfl

theorem execRingStallEpisode_opens (s : State) (k : Fin 256) (on : (ringAt s k.val).enabled = true) (closed : (ringAt s k.val).stall = false)
    (watched : (ringAt s k.val).stallt ≠ 0) (waiting : (ringAt s k.val).tail ≠ (ringAt s k.val).head)
    (running : jobState s (ringAt s k.val).asid = 1) (late : (ringAt s k.val).lastMove + (ringAt s k.val).stallt.toNat ≤ s.ctc)
    (read : (readIn s (ringAt s k.val).asid ((ringAt s k.val).readyVa (ringAt s k.val).head) 1).isSome = true)
    (room : ∀ bs, (storeIn s (ringAt s k.val).asid ((ringAt s k.val).evt.toNat + 32 * ((ringAt s k.val).evcnt.toNat % 64)) bs).isSome = true) :
    ∃ t, exec (.ringStallEpisode k) s = .next t ∧ (ringAt t k.val).stall = true ∧ (ringAt t k.val).evcnt = (ringAt s k.val).evcnt + 1 ∧
      (ringAt t k.val).head = (ringAt s k.val).head := by
  obtain ⟨ready, hready⟩ := Option.isSome_iff_exists.mp read
  have opens : ((ringAt s k.val).enabled && !(ringAt s k.val).stall && (ringAt s k.val).stallt != 0 && (ringAt s k.val).tail != (ringAt s k.val).head &&
      jobState s (ringAt s k.val).asid == 1 && decide ((ringAt s k.val).lastMove + (ringAt s k.val).stallt.toNat ≤ s.ctc)) = true := by
    simp only [on, closed, running, late]
    simpa using ⟨watched, waiting⟩
  rw [exec_ringStallEpisode, execRingStallEpisode]
  simp only [opens, if_true, hready]
  refine ⟨_, rfl, ?_⟩
  have stalled : ringAt (setRing s { ringAt s k.val with stall := true }) k.val = { ringAt s k.val with stall := true } :=
    ringAt_setRing_self (ring_ringAt s k.val)
  unfold recordRing ringEvent
  rw [stalled]
  dsimp only
  split
  · rename_i e
    split at e
    · rename_i stored
      obtain ⟨rfl, _⟩ := Prod.mk.inj e
      rw [ringAt_of_rings (hostEvent_stores (.refl _)).rings, ringAt_setRing, if_pos (ring_ringAt _ _)]
      exact ⟨rfl, rfl, rfl⟩
    · simp at e
  · rename_i e
    split at e
    · simp at e
    · rename_i full
      have stored := congrArg Option.isSome full
      rw [storeIn_setRing_isSome] at stored
      exact absurd ((room _).symm.trans stored) (by decide)

end Sys2Proof.Machine
end

section
/-! SUPPORT. Admission (R77), the link match table (R82, R83) and deadlines (R52, R85). -/

namespace Sys2Proof.Machine

variable {r s t : State} {n : Nat}

/-! ## Launch slots -/

theorem slotNumbered_of_slots (e : t.slots = s.slots) (n : Nat) : slotNumbered t n = slotNumbered s n := by rw [slotNumbered, slotNumbered, e]

/-- A launch that is changed in its slot. -/
theorem slotNumbered_modSlot {f : LaunchSlot → LaunchSlot} (hf : ∀ x, (f x).slot = x.slot) (n : Nat) :
    slotNumbered (modSlot s n f) n = (slotNumbered s n).map f := by
  simp only [slotNumbered, modSlot, List.find?_map, Function.comp_def]
  have same : (fun x : LaunchSlot => (if x.slot = n then f x else x).slot == n) = fun x => x.slot == n := by
    funext x
    split <;> simp [hf]
  rw [same]
  cases h : s.slots.find? (fun x => x.slot == n) with
  | none => rfl
  | some x =>
    have here : x.slot = n := by simpa using List.find?_some h
    simp [here]

theorem slotNumbered_upsert (s : State) (l : LaunchSlot) :
    slotNumbered { s with slots := upsert LaunchSlot.slot l s.slots } l.slot = some l := by
  have found := find?_upsert_key (key := LaunchSlot.slot) (n := l.slot) l s.slots
  simpa only [slotNumbered, beq_eq_decide, if_true] using found

/-! ## Admission -/

theorem noteAdmission_reads {before : State} {k : Nat} (h : ReadsOnly r s) : ReadsOnly r (noteAdmission before k s) := by
  unfold noteAdmission
  extract_lets q batch
  have hb : ReadsOnly r batch := foldl_inv (fun _ _ k => noteRead_reads k) h
  split
  · exact hb
  · exact foldl_inv (fun _ _ k => noteRead_reads k) (noteRead_reads hb)

/-- A launch whose late action is not set is marked late, at most. -/
theorem slotNumbered_passDeadline {l : LaunchSlot} (h : slotNumbered s n = some l) (act : l.pkt.lateAction = false) :
    ∃ late, slotNumbered (passDeadline s n) n = some { l with late := late } := by
  unfold passDeadline
  simp only [h, act]
  split
  · exact ⟨l.late, h⟩
  · refine ⟨true, ?_⟩
    rw [if_neg Bool.false_ne_true, slotNumbered_modSlot (f := fun l => { l with late := true }) (fun _ => rfl), h]
    rfl

/-- The launch that an admission leaves in its slot. -/
theorem slotNumbered_admitLaunch (s : State) (k slot : Nat) (x : BatchItem) (h : KernelHeader) (tr : Trailer) (act : x.pkt.lateAction = false) :
    ∃ l, slotNumbered (admitLaunch s k slot x h tr) slot = some l ∧ l.pkt = x.pkt ∧ l.header = h ∧ l.ring = k ∧ l.asid = (ringAt s k).asid ∧
      l.walked = 0 ∧ l.total = x.pkt.units ∧ l.count = x.pkt.units := by
  unfold admitLaunch
  extract_lets +onlyGivenNames q preds total l j u1 u2 u3 u4
  have entered : slotNumbered u2 slot = some l := slotNumbered_upsert u1 l
  have kept : slotNumbered u4 slot = some l := by
    rw [← entered]
    refine (slotNumbered_of_slots (sealPhases_jobsOnly (.refl _)).slots _).trans ?_
    exact slotNumbered_of_slots (consumeHead_ringsOnly (.refl _)).slots _
  split
  · obtain ⟨late, marked⟩ := slotNumbered_passDeadline kept act
    exact ⟨_, marked, rfl, rfl, rfl, rfl, rfl, rfl, rfl⟩
  · exact ⟨_, kept, rfl, rfl, rfl, rfl, rfl, rfl, rfl⟩

theorem ringAt_of_only {q : Ring} (only : s.rings = [q]) : ringAt s q.ring = q := by simp [ringAt, only]

/-- The turn of the one ring, whose packet at HEAD has no fault and finds a free slot. -/
theorem ringTurn_admits {q : Ring} {x : BatchItem} {rest : List BatchItem} {k : Nat} {h : KernelHeader} {tr : Trailer} (only : s.rings = [q])
    (on : q.enabled = true) (waiting : q.head ≠ q.tail) (running : jobState s q.asid = 1)
    (batch : readBatch s q (q.bounds.headD q.tail - q.head).toNat 0 = .ok (x :: rest)) (published : ∀ y ∈ x :: rest, y.ready ≠ 0)
    (same : q.batchEnd = q.bounds.headD q.tail) (accepted : q.refusals = [])
    (own : ownCodes s q.asid (q.batch.flatMap (fun p => p.2.2)) (x :: rest) x = []) (packet : x.null = false)
    (live : packetCancelled s q.asid x.pkt = false) (free : freeSlot s = some k) (kernel : readKernel s q.asid x.pkt.kref.toNat = some (h, tr))
    (room : (s.slots.filter (fun l => l.ring == q.ring)).length < q.maxl) :
    ringTurn s q.ring = some (admitLaunch s q.ring k x h tr) := by
  have checked : recheck s q.ring (x :: rest) x = s := by
    unfold recheck
    simp [ringAt_of_only only, own]
  have shown : (x :: rest).any (fun y => y.ready == 0) = false := by
    rw [List.any_eq_false]
    intro y hy
    simpa using published y hy
  unfold ringTurn
  simp only [ringAt_of_only only, on, running, batch, shown]
  simp [waiting, same, checked, ringAt_of_only only, accepted, packet, live, free, kernel, room, running]

theorem execAdmissionTurn_admits {q : Ring} {u : State} (only : s.rings = [q]) (turn : ringTurn s q.ring = some u) :
    exec .admissionTurn s = .next { noteAdmission s q.ring u with lastRing := q.ring } := by
  have order : (s.rings.map Ring.ring).filter (fun n => decide (s.lastRing < n)) ++
      (s.rings.map Ring.ring).filter (fun n => decide (n ≤ s.lastRing)) = [q.ring] := by
    by_cases after : s.lastRing < q.ring
    · simp [only, after]
    · simp [only, after, Nat.not_lt.mp after]
  rw [exec_admissionTurn, execAdmissionTurn]
  simp only [order, firstTurn, turn]

/-! ## The match table -/

theorem matchAt_setMatch_self (s : State) (m : MatchEntry) : matchAt (setMatch s m) m.idx = m := by
  have found := find?_upsert_key (key := MatchEntry.idx) (n := m.idx) m s.matches_
  simp only [matchAt, setMatch, beq_eq_decide]
  rw [found, if_pos rfl]
  rfl

@[simp] theorem idx_matchAt (s : State) (n : Nat) : (matchAt s n).idx = n := by
  unfold matchAt
  cases h : s.matches_.find? (fun m => m.idx == n) with
  | none => rfl
  | some m => simpa using List.find?_some h

theorem matchAt_of_matches (e : t.matches_ = s.matches_) (n : Nat) : matchAt t n = matchAt s n := by rw [matchAt, matchAt, e]

theorem storeBytes_matches (s : State) (pa : Nat) (bs : List Byte) : (storeBytes s pa bs).matches_ = s.matches_ := by rw [storeBytes_stores (.refl s)]

theorem spillOne_matches (b : Nat) (s : State) (q : TaskRec) : (spillOne b s q).matches_ = s.matches_ := by
  unfold spillOne
  dsimp only [setOvf]
  rw [storeBytes_matches]

theorem spill_matches (b : Nat) (rs : List TaskRec) (s : State) : (spill b s rs).matches_ = s.matches_ :=
  foldl_inv (p := fun t : State => t.matches_ = s.matches_) (fun _ _ k => (spillOne_matches _ _ _).trans k) rfl

theorem arriveBank_matches (s : State) (b : Nat) (q : TaskRec) : (arriveBank s b q).matches_ = s.matches_ := by
  unfold arriveBank
  extract_lets l
  split
  split
  · exact spill_matches _ _ _
  · split
    · rfl
    · exact spill_matches _ _ _

theorem enqueueTask_matches (s : State) (q : TaskRec) (home : Nat) : (enqueueTask s q home).matches_ = s.matches_ := by
  unfold enqueueTask
  rw [arriveBank_matches]
  split
  · rfl
  · rw [reach_reads (.refl s)]

theorem offerTask_matches (s : State) (q : TaskRec) (home : Nat) : (offerTask s q home).matches_ = s.matches_ := by
  unfold offerTask
  split
  · exact (retireLaunch_levels (cancelUnits_levels (.refl s))).matches_
  · exact enqueueTask_matches s q home

theorem execMatchEntryArm_refuses {e : Fin 64} (off : (matchAt s e.val).armed = false) (bad : (matchAt s e.val).recAddr.toNat % 64 ≠ 0) :
    exec (.matchEntryArm e) s = .next (setMatch s { matchAt s e.val with err := true, armed := false }) := by
  rw [exec_matchEntryArm, execMatchEntryArm]
  simp [off, bad]

theorem execMatchEntryArm_arms {e : Fin 64} {bs : List Byte} {l : LaunchSlot} (off : (matchAt s e.val).armed = false)
    (aligned : (matchAt s e.val).recAddr.toNat % 64 = 0) (read : readIn s (matchAt s e.val).asid (matchAt s e.val).recAddr.toNat 64 = some bs)
    (launch : launchOfTask s (matchAt s e.val).asid bs = some l) (clean : taskClean bs = true) :
    ∃ t, exec (.matchEntryArm e) s = .next t ∧ t.mem = s.mem ∧ (matchAt t e.val).armed = true ∧ (matchAt t e.val).count = 0 ∧
      (matchAt t e.val).done = false ∧ (matchAt t e.val).err = false := by
  let m : MatchEntry := { matchAt s e.val with
    armed := true, done := false, err := false, count := 0, task := some (freshTask (taskInfo (matchAt s e.val).asid l.slot bs)) }
  have arms : exec (.matchEntryArm e) s = .next (raiseCount (setMatch s m) l.slot) := by
    rw [exec_matchEntryArm, execMatchEntryArm]
    simp [off, aligned, read, launch, clean, m]
  have here : m.idx = e.val := idx_matchAt s e.val
  have entry : matchAt (raiseCount (setMatch s m) l.slot) e.val = m := by
    rw [← here]
    exact matchAt_setMatch_self s m
  refine ⟨_, arms, rfl, ?_⟩
  rw [entry]
  exact ⟨rfl, rfl, rfl, rfl⟩

theorem execMatchWriteArrival_counts {tag : Word32} {asid : BitVec 16} {k : Nat} {m : MatchEntry}
    (found : s.matches_.find? (fun m => m.armed && m.tag == tag && m.asid == asid) = some m) (more : m.count.toNat + k < m.len.toNat) :
    exec (.matchWriteArrival tag asid k) s = .next (setMatch s { m with count := BitVec.ofNat 32 (m.count.toNat + k) }) := by
  rw [exec_matchWriteArrival, execMatchWriteArrival, countMatch, found]
  dsimp only
  rw [if_pos more]

theorem execMatchWriteArrival_releases {tag : Word32} {asid : BitVec 16} {k : Nat} {m : MatchEntry}
    (found : s.matches_.find? (fun m => m.armed && m.tag == tag && m.asid == asid) = some m) (full : m.len.toNat ≤ m.count.toNat + k) :
    ∃ t, exec (.matchWriteArrival tag asid k) s = .next t ∧ (matchAt t m.idx).done = true ∧ (matchAt t m.idx).armed = false := by
  refine ⟨_, rfl, ?_⟩
  rw [countMatch, found]
  dsimp only
  rw [if_neg (by omega)]
  let m' : MatchEntry := { m with count := BitVec.ofNat 32 (m.count.toNat + k), armed := false, done := true, task := none }
  have released (u : State) (e : u.matches_ = (setMatch s m').matches_) : (matchAt u m.idx).done = true ∧ (matchAt u m.idx).armed = false := by
    rw [matchAt_of_matches e, show matchAt (setMatch s m') m.idx = m' from matchAt_setMatch_self s m']
    exact ⟨rfl, rfl⟩
  split
  · exact released _ (offerTask_matches _ _ _)
  · exact released _ rfl

/-! ## Deadlines -/

theorem execDeadlinePass_nothing {slot : Fin 64} {l : LaunchSlot} (found : slotNumbered s slot.val = some l)
    (no : l.late = true ∨ s.ctc < l.pkt.deadline.toNat) : exec (.deadlinePass slot) s = .next s := by
  rw [exec_deadlinePass, execDeadlinePass, passDeadline, found]
  dsimp only
  rw [if_pos (by simpa using no)]

theorem passDeadline_passes {l : LaunchSlot} (found : slotNumbered s n = some l) (first : l.late = false) (due : l.pkt.deadline.toNat ≤ s.ctc) :
    passDeadline s n = if l.pkt.lateAction then retireLaunch (stopLaunch (modSlot s n (fun l => { l with late := true })) n) n
      else modSlot s n (fun l => { l with late := true }) := by
  rw [passDeadline, found]
  dsimp only
  rw [if_neg (by simp [first, due])]

theorem entryLists_filterEntries (p : Entry → Bool) (q : Queues) : entryLists (filterEntries p q) = (entryLists q).filter p := by
  simp [entryLists, filterEntries]

/-- An entry that stays as waiting units are cancelled is none of those. -/
theorem cancelWaiting_entries {slot : Nat} {p : UnitInfo → Bool} {e : Entry} (he : e ∈ entryLists (cancelWaiting s slot p).queues) :
    (e.info.slot == slot && p e.info) = false := by
  unfold cancelWaiting at he
  extract_lets +onlyGivenNames hit es bank park armed u v q w at he
  have queues : (freeBarriers (cancelUnits w slot (es.length + bank.length + park.length + armed.length)) slot).queues = w.queues :=
    (freeBarriers_levels (cancelUnits_levels (.refl w))).queues
  have left : entryLists w.queues = (entryLists v.queues).filter (fun e => !hit e.info) := entryLists_filterEntries _ _
  rw [queues, left] at he
  simpa only [Bool.not_eq_true'] using (List.mem_filter.mp he).2

/-- A launch whose walk is stopped has no entry in a queue any more. -/
theorem stopWalk_queues {l : LaunchSlot} (found : slotNumbered s n = some l) : ∀ e ∈ entryLists (stopWalk s n).queues, e.info.slot ≠ n := by
  intro e he
  rw [stopWalk, found] at he
  simpa using cancelWaiting_entries he

theorem stopLaunch_queues {l : LaunchSlot} (found : slotNumbered s n = some l) : ∀ e ∈ entryLists (stopLaunch s n).queues, e.info.slot ≠ n := by
  intro e he
  unfold stopLaunch cancelSpilled at he
  rw [(freeBarriers_levels (cancelUnits_levels (.refl _))).queues] at he
  exact stopWalk_queues found e he

theorem execDeadlinePass_passes {slot : Fin 64} {l : LaunchSlot} (found : slotNumbered s slot.val = some l) (first : l.late = false)
    (due : l.pkt.deadline.toNat ≤ s.ctc) :
    (l.pkt.lateAction = false → exec (.deadlinePass slot) s = .next (modSlot s slot.val (fun l => { l with late := true }))) ∧
    (l.pkt.lateAction = true → ∃ t, exec (.deadlinePass slot) s = .next t ∧ ∀ e ∈ entryLists t.queues, e.info.slot ≠ slot.val) := by
  rw [exec_deadlinePass, execDeadlinePass, passDeadline_passes found first due]
  constructor
  · intro act
    rw [act, if_neg Bool.false_ne_true]
  · intro act
    refine ⟨_, rfl, ?_⟩
    rw [act, if_pos rfl, (retireLaunch_levels (.refl _)).queues]
    refine stopLaunch_queues (l := { l with late := true }) ?_
    rw [slotNumbered_modSlot (f := fun l => { l with late := true }) (fun _ => rfl), found]
    rfl

end Sys2Proof.Machine
end

section
/-! SUPPORT. The walker, the affinity groups and the common queue (R84, R87 to R89). -/

namespace Sys2Proof.Machine

variable {s t : State}

/-! ## Queues -/

theorem joinQueues_none (h : s.queues.joining = []) : joinQueues s = s := by rw [joinQueues, h]; rfl

theorem queueOf_setQueue (q : Queues) (n : Nat) (l : List Entry) : queueOf (setQueue q n l) n = l := by
  rcases n with _ | _ | _ | _ | n <;> rfl

/-- A unit that enters a queue stands last in it. -/
theorem enterQueue_enters (g : Option Nat) (afw : Nat) (e : Entry) (room : s.queues.common.length < 64) :
    ∃ t n, enterQueue s g afw e = some t ∧ t.mem = s.mem ∧ t.slots = s.slots ∧
      (queueOf t.queues n).map Entry.info = (queueOf s.queues n).map Entry.info ++ [e.info] := by
  have put (n : Nat) : ∃ t k, some { s with queues := { setQueue s.queues n (queueOf s.queues n ++ [{ e with order := s.queues.nextOrder, home := n }]) with
        nextOrder := s.queues.nextOrder + 1 } } = some t ∧ t.mem = s.mem ∧ t.slots = s.slots ∧
      (queueOf t.queues k).map Entry.info = (queueOf s.queues k).map Entry.info ++ [e.info] := by
    refine ⟨_, n, rfl, rfl, rfl, ?_⟩
    have last := queueOf_setQueue s.queues n (queueOf s.queues n ++ [{ e with order := s.queues.nextOrder, home := n }])
    have same (q : Queues) (k : Nat) : queueOf { q with nextOrder := k } n = queueOf q n := by
      rcases n with _ | _ | _ | _ | n <;> rfl
    rw [same, last, List.map_append]
    rfl
  unfold enterQueue
  simp only [room, if_true]
  split
  · split
    · exact put _
    · exact put _
  · exact put _

/-! ## The walker -/

theorem execWalkerStep_walks {l : LaunchSlot} (joined : s.queues.joining = []) (choice : walkerChoice s = some l)
    (found : slotNumbered s l.slot = some l) (taken : l.skips.contains l.walked = false) (room : s.queues.common.length < 64) :
    ∃ t n grp, exec .walkerStep s = .next t ∧ t.mem = s.mem ∧ (slotNumbered t l.slot).map LaunchSlot.walked = some (l.walked + 1) ∧
      (queueOf t.queues n).map Entry.info = (queueOf s.queues n).map Entry.info ++ [{ walkedUnit l l.walked with group := grp }] := by
  rw [exec_walkerStep, execWalkerStep, joinQueues_none joined]
  dsimp only
  rw [if_neg (by omega), choice]
  dsimp only
  rw [if_neg (by rw [taken]; exact Bool.false_ne_true)]
  generalize (if (walkedUnit l l.walked).nopl || inAperture (walkedUnit l l.walked).place.toNat then none else
    (heldAt s [outPlace] (walkedUnit l l.walked).asid (walkedUnit l l.walked).place.toNat).map
      (fun a => sliceOf (physOf a (walkedUnit l l.walked).place.toNat) / 16)) = grp
  let s1 := modSlot s l.slot (fun l => { l with walked := l.walked + 1 })
  let s2 := if (walkedUnit l l.walked).nopl || (heldAt s [outPlace] (walkedUnit l l.walked).asid (walkedUnit l l.walked).place.toNat).isSome then s1
    else walkFill s1 [outPlace] (walkedUnit l l.walked).asid (walkedUnit l l.walked).place.toNat
  have reads : ReadsOnly s1 s2 := holds_ite (.refl s1) (walkFill_reads (.refl s1))
  have walked : (slotNumbered s1 l.slot).map LaunchSlot.walked = some (l.walked + 1) := by
    rw [slotNumbered_modSlot (f := fun l => { l with walked := l.walked + 1 }) (fun _ => rfl), found]
    rfl
  obtain ⟨t, n, enters, mem, slots, last⟩ := enterQueue_enters (s := s2) grp l.pkt.afw
    { info := { walkedUnit l l.walked with group := grp }, resumed := false, image := none, home := 4, order := 0, expired := none }
    (by rw [reads.queues]; exact room)
  refine ⟨t, n, grp, ?_, mem.trans reads.mem, ?_, last.trans (by rw [reads.queues]; rfl)⟩
  · rw [show enterQueue _ _ _ _ = some t from enters]
  · rw [slotNumbered_of_slots (slots.trans reads.slots), walked]

/-! ## Affinity -/

theorem getElem?_modifyNth {α : Type} (f : α → α) (n : Nat) (l : List α) : (modifyNth f n l)[n]? = l[n]?.map f := by
  induction l generalizing n with
  | nil => cases n <;> rfl
  | cons x xs ih =>
    cases n with
    | zero => rfl
    | succ n => exact ih n

theorem execAffinityExpiry_expires {g : Fin 4} {n : Nat} {e : Entry} (stands : (queueOf s.queues g.val)[n]? = some e) :
    ∃ t, exec (.affinityExpiry g n) s = .next t ∧ t.mem = s.mem ∧
      (queueOf t.queues g.val)[n]? = some { e with expired := some (e.expired.getD s.queues.nextOrder) } := by
  refine ⟨_, rfl, rfl, ?_⟩
  have same (q : Queues) (k : Nat) : queueOf { q with nextOrder := k } g.val = queueOf q g.val := by
    rcases g with ⟨_ | _ | _ | _ | n, h⟩ <;> rfl
  rw [same, queueOf_setQueue, getElem?_modifyNth, stands]
  rfl

/-- The one item of least rank is what a search for the least gives. -/
theorem foldl_least {α : Type} {rank : α → Nat} {step : Option α → α → Option α} (start : ∀ x, step none x = some x)
    (next : ∀ x y, step (some y) x = if rank x < rank y then some x else some y) {x : α} {l : List α} {m : Option α}
    (least : ∀ y ∈ l, y = x ∨ rank x < rank y) (held : ∀ y, m = some y → y = x ∨ rank x < rank y) (mem : x ∈ l ∨ m = some x) :
    l.foldl step m = some x := by
  induction l generalizing m with
  | nil => exact mem.resolve_left List.not_mem_nil
  | cons y ys ih =>
    obtain ⟨first, rest⟩ := List.forall_mem_cons.mp least
    cases m with
    | none =>
      rw [List.foldl_cons, start]
      refine ih rest (fun z hz => Option.some.inj hz ▸ first) ?_
      rcases List.mem_cons.mp (mem.resolve_right (by simp)) with rfl | later
      · exact .inr rfl
      · exact .inl later
    | some z =>
      have heldz := held z rfl
      rw [List.foldl_cons, next]
      split
      · rename_i less
        refine ih rest (fun w hw => Option.some.inj hw ▸ first) ?_
        rcases mem with inList | kept
        · rcases List.mem_cons.mp inList with rfl | later
          · exact .inr rfl
          · exact .inl later
        · obtain rfl := Option.some.inj kept
          rcases first with rfl | more <;> omega
      · rename_i more
        refine ih rest held ?_
        rcases mem with inList | kept
        · rcases List.mem_cons.mp inList with rfl | later
          · rcases heldz with rfl | less
            · exact .inr rfl
            · exact absurd less more
          · exact .inl later
        · exact .inr kept

theorem execCommonQueueMove_moves {g : Nat} {e : Entry} {k : Nat} (joined : s.queues.joining = []) (hg : g < 4) (stands : e ∈ queueOf s.queues g)
    (expired : e.expired = some k) (room : s.queues.common.length < 64)
    (first : ∀ g' e' k', g' < 4 → e' ∈ queueOf s.queues g' → e'.expired = some k' → (g' = g ∧ e' = e) ∨ k < k') :
    ∃ t, exec .commonQueueMove s = .next t ∧ t.mem = s.mem ∧ t.queues.common = s.queues.common ++ [{ e with expired := none }] ∧
      queueOf t.queues g = (queueOf s.queues g).filter (fun x => x.order != e.order) := by
  have moves : exec .commonQueueMove s = .next { s with queues := {
      setQueue s.queues g ((queueOf s.queues g).filter (fun x => x.order != e.order)) with common := s.queues.common ++ [{ e with expired := none }] } } := by
    rw [exec_commonQueueMove, execCommonQueueMove]
    rw [joinQueues_none joined]
    dsimp only
    rw [foldl_least (rank := fun x => x.2.expired.getD 0) (x := (g, e)) (fun _ => rfl) (fun _ _ => rfl) ?_ (fun _ h => by cases h) (.inl ?_)]
    · exact if_neg (by omega)
    · rintro ⟨g', e'⟩ h
      simp only [List.mem_flatMap, List.mem_range, List.mem_map, List.mem_filter, Prod.mk.injEq] at h
      obtain ⟨_, hg', _, ⟨there, due⟩, rfl, rfl⟩ := h
      obtain ⟨k', hk'⟩ := Option.isSome_iff_exists.mp due
      simpa [expired, hk'] using first _ _ _ hg' there hk'
    · simp only [List.mem_flatMap, List.mem_range, List.mem_map, List.mem_filter]
      exact ⟨g, hg, e, ⟨stands, by simp [expired]⟩, rfl⟩
  refine ⟨_, moves, rfl, rfl, ?_⟩
  rcases g with _ | _ | _ | _ | g
  · rfl
  · rfl
  · rfl
  · rfl
  · omega

end Sys2Proof.Machine
end

section
/-! SUPPORT. Dispatch (R84, R91), pre-emption (R87, R389) and saving (R88, R399, R400). -/

namespace Sys2Proof.Machine

variable {r s t : State}

/-! ## Starting a unit -/

theorem coreState_setCore_self {k : CoreState} {n : Nat} (h : k.core = n) : (s.setCore k).coreState n = k := by
  have found := find?_upsert_key (key := CoreState.core) (n := n) k s.cores
  simp only [State.coreState, State.setCore, beq_eq_decide]
  rw [found, if_pos h]
  rfl

@[simp] theorem core_coreState (s : State) (n : Nat) : (s.coreState n).core = n := by
  unfold State.coreState
  cases h : s.cores.find? (fun k => k.core == n) with
  | none => rfl
  | some k => simpa using List.find?_some h

theorem coreState_of_cores (e : t.cores = s.cores) (n : Nat) : t.coreState n = s.coreState n := by rw [State.coreState, State.coreState, e]

theorem window_replaceWindow {n : Nat} (core : n < 128) (m : Memory) : ((replaceWindow s n m).coreState n).window = m := by
  have plain : isGusset n = false := by simp [isGusset]; omega
  unfold replaceWindow setWindow
  rw [if_neg (by simp [plain])]
  refine (congrArg CoreState.window (coreState_setCore_self ?_)).trans rfl
  exact core_coreState _ _

theorem replaceWindow_mem (s : State) (n : Nat) (m : Memory) : (replaceWindow s n m).mem = s.mem := by
  unfold replaceWindow setWindow
  split <;> rfl

/-- The registers that a unit starts with (R57). -/
theorem startContext_getG (u : UnitInfo) (n : Nat) :
    (startContext u n).getG 5 = u.arg ∧ (startContext u n).getG 6 = u.seq ∧ (startContext u n).getG 7 = 0 ∧
      ∀ i : Fin 4, (startContext u n).getG ⟨i.val + 1, by omega⟩ = BitVec.ofNat 64 (u.coords.getD i.val 0).toNat := by
  refine ⟨?_, ?_, ?_, ?_⟩
  · simp [startContext, Context.getG_setG]
  · simp [startContext, Context.getG_setG]
  · simp [startContext, Context.getG_setG]; rfl
  · intro i
    fin_cases i <;> simp [startContext, Context.getG_setG]

theorem drawSave_ctx (s : State) : ∃ k, (drawSave s).ctx = { s.ctx with saveSlot := k } := by
  unfold drawSave
  dsimp only
  split
  · exact ⟨_, rfl⟩
  · exact ⟨s.ctx.saveSlot, rfl⟩

theorem drawSave_self (s : State) : (drawSave s).self = s.self := by
  unfold drawSave
  dsimp only
  split <;> rfl

theorem drawSave_mem (s : State) : (drawSave s).mem = s.mem := by
  unfold drawSave
  dsimp only
  split <;> rfl

theorem drawSave_cores (s : State) : (drawSave s).cores = s.cores := by
  unfold drawSave
  dsimp only
  split <;> rfl

theorem allocBarriers_mem (s : State) (cluster slot nbar : Nat) : (allocBarriers s cluster slot nbar).mem = s.mem := by
  unfold allocBarriers
  dsimp only
  split <;> rfl

theorem allocBarriers_cores (s : State) (cluster slot nbar : Nat) : (allocBarriers s cluster slot nbar).cores = s.cores := by
  unfold allocBarriers
  dsimp only
  split <;> rfl

theorem withCtx_mem {k : Nat} {f : State → State} (h : (f (s.focus k)).mem = (s.focus k).mem) : (s.withCtx k f).mem = s.mem := by
  rw [State.withCtx, focus_mem, h, focus_mem]

theorem withCtx_cores {k : Nat} {f : State → State} (h : (f (s.focus k)).cores = (s.focus k).cores) : (s.withCtx k f).cores = s.cores := by
  rw [State.withCtx, focus_cores, h, focus_cores]

/-- A unit starts on a core: what its context holds, and what it finds in the core's window (R57). -/
theorem startUnit_starts {n : Nat} (core : n < 128) (u : UnitInfo) :
    (startUnit s n u).mem = s.mem ∧ ((startUnit s n u).coreState n).window = [] ∧
      ∃ c, (startUnit s n u).ctxAt n = c ∧ c.run = .running ∧ c.info = u ∧ c.g = (startContext u n).g ∧ c.accesses = [] ∧ c.inh = false := by
  let place := allocBarriers (replaceWindow s n []) (n / 4) u.slot u.header.nbar
  let start (s : State) : State := drawSave (toFirstWords { s with ctx := startContext u n })
  have starts : startUnit s n u = place.withCtx n start := rfl
  have window : ((replaceWindow s n []).coreState n).window = [] := window_replaceWindow core []
  obtain ⟨k, ctx⟩ := drawSave_ctx (toFirstWords { place.focus n with ctx := startContext u n })
  rw [starts]
  refine ⟨?_, ?_, _, withCtx_ctxAt ((drawSave_self _).trans (focus_self _ _)), ?_⟩
  · rw [withCtx_mem (f := start) (drawSave_mem _), allocBarriers_mem, replaceWindow_mem]
  · rw [coreState_of_cores (withCtx_cores (f := start) (drawSave_cores _)), coreState_of_cores (allocBarriers_cores _ _ _ _), window]
  · rw [show (start (place.focus n)).ctx = _ from ctx]
    exact ⟨rfl, rfl, rfl, rfl, rfl⟩

theorem removeWaiting_mem (s : State) (w : Waiting) : (removeWaiting s w).mem = s.mem := by
  unfold removeWaiting
  split <;> rfl

theorem execDispatch_starts {core : Fin 128} {w : Waiting} (joined : s.queues.joining = []) (taken : takes s core.val = some w)
    (first : ∀ k, k < core.val → takes s k ≠ some w) (fresh : w.entry.image = none) :
    ∃ t, exec (.dispatch core) s = .next t ∧ t.mem = s.mem ∧ (t.coreState core.val).window = [] ∧
      let c := t.ctxAt core.val
      c.run = .running ∧ c.info.slot = w.entry.info.slot ∧ c.info.seq = w.entry.info.seq ∧ c.getG 5 = w.entry.info.arg ∧ c.getG 6 = w.entry.info.seq ∧
      (∀ i : Fin 4, c.getG ⟨i.val + 1, by omega⟩ = BitVec.ofNat 64 (w.entry.info.coords.getD i.val 0).toNat) ∧ c.getG 7 = 0 ∧ c.accesses = [] ∧
      c.inh = false := by
  have alone : (List.range core.val).any (fun k => takes s k == some w) = false := by
    rw [List.any_eq_false]
    intro k hk
    simpa using first k (List.mem_range.mp hk)
  have result : exec (.dispatch core) s = .next (freeBarriers (startUnit (removeWaiting s w) core.val w.entry.info) w.entry.info.slot) := by
    rw [exec_dispatch, execDispatch, joinQueues_none joined]
    simp only [taken, alone, fresh, Bool.false_eq_true, if_false]
  obtain ⟨mem, window, c, there, run, info, g, accesses, inh⟩ := startUnit_starts (s := removeWaiting s w) core.isLt w.entry.info
  obtain ⟨arg, seq, zero, coords⟩ := startContext_getG w.entry.info core.val
  have reg (x : Fin 32) : c.getG x = (startContext w.entry.info core.val).getG x := by simp only [Context.getG, g]
  refine ⟨_, result, mem.trans (removeWaiting_mem s w), window, ?_⟩
  have same : (freeBarriers (startUnit (removeWaiting s w) core.val w.entry.info) w.entry.info.slot).ctxAt core.val = c := there
  simp only [same, reg]
  exact ⟨run, by rw [info], by rw [info], arg, seq, coords, zero, accesses, inh⟩

/-! ## Pre-emption -/

/-- The one entry that waits is the one that the scheduler pre-empts for. -/
theorem preemptFor_only {w : Waiting} {core : Nat} (only : allWaiting s = [w]) (busy : ∀ c, c < 128 → coreFree s c = false)
    (victim : victimFor s w true = some core) : preemptFor s = some (w, core) := by
  have unserved : (List.range 128).all (fun c => !coreFree s c || !waitsFor s c w) = true := by
    rw [List.all_eq_true]
    intro c hc
    simp [busy c (List.mem_range.mp hc)]
  unfold preemptFor
  simp [only, unserved, victim, earliest]

theorem execSchedulerPreempt_asks {w : Waiting} {core : Nat} (joined : s.queues.joining = []) (only : allWaiting s = [w])
    (busy : ∀ c, c < 128 → coreFree s c = false) (victim : victimFor s w true = some core) (none : preempting s = 0) :
    ∃ t, exec .schedulerPreempt s = .next t ∧ t.mem = s.mem ∧ (t.ctxAt core).ready.preempt = true := by
  have result : exec .schedulerPreempt s = .next (s.withCtx core (fun s => s.mod (fun c => { c with ready := { c.ready with preempt := true } }))) := by
    rw [exec_schedulerPreempt, execSchedulerPreempt, joinQueues_none joined]
    simp [preemptFor_only only busy victim, only, none]
  refine ⟨_, result, withCtx_mem rfl, ?_⟩
  rw [withCtx_ctxAt (focus_self s core)]
  rfl

/-- A context with no access, no result in flight and no prediction halts as it stands. -/
theorem haltContext_still (accesses : s.ctx.accesses = []) (latches : s.ctx.latches = []) (prediction : s.ctx.prediction = none) :
    (haltContext s).mem = s.mem ∧ (haltContext s).ctx.g = s.ctx.g ∧ (haltContext s).ctx.pcc = s.ctx.pcc ∧ (haltContext s).ctx.pcx = s.ctx.pcx := by
  have landed : landDue s = s.mod (fun c => { c with latches := [] }) := by simp [landDue, latches, State.mod]
  have kept : ((landDue s).mod landExtras).mod dropPrediction = (landDue s).mod landExtras := by
    rw [landed]
    simp [State.mod, landExtras, dropPrediction, prediction]
  have left : ((landDue s).mod landExtras).ctx.accesses = [] := by
    rw [landed]
    exact accesses
  rw [haltContext, kept, drainAccesses_nil left, landed]
  simp [State.mod, withdrawOffers, landExtras, accesses, returnRows]

theorem execPreemptHalt_halts (top : topCause s = some (.preempt, none)) (accesses : s.ctx.accesses = []) (latches : s.ctx.latches = [])
    (prediction : s.ctx.prediction = none) :
    ∃ t, exec .preemptHalt s = .next t ∧ t.mem = s.mem ∧ t.ctx.run = .saving ∧ t.ctx.ready.preempt = false ∧ t.ctx.g = s.ctx.g ∧
      t.ctx.pcc = s.ctx.pcc ∧ t.ctx.pcx = s.ctx.pcx := by
  have may : mayHalt s = true := by simp [mayHalt, accesses]
  have result : exec .preemptHalt s =
      .next ((haltContext s).mod (fun c => { c with run := .saving, ready := { c.ready with preempt := false } })) := by
    rw [exec_preemptHalt, execPreemptHalt]
    simp [may, top]
  obtain ⟨mem, g, pcc, pcx⟩ := haltContext_still accesses latches prediction
  exact ⟨_, result, mem, rfl, rfl, g, pcc, pcx⟩

end Sys2Proof.Machine
end

section
/-! SUPPORT. Saves (R400), spawning and banks (R66, R92, R93, R364), the ends of units and Gusset contexts (R48, R90, R302, R419), and the events of
scheduling together. -/

namespace Sys2Proof.Machine

variable {r s t : State}

/-! ## Saves -/

/-- t is s but for its queues. -/
def QueuesOnly (s t : State) : Prop := t = { s with queues := t.queues }

theorem QueuesOnly.trans (h : QueuesOnly r s) (k : QueuesOnly s t) : QueuesOnly r t := by
  unfold QueuesOnly at h k
  rw [k, h]; rfl

theorem enterQueue_queuesOnly (s : State) (g : Option Nat) (afw : Nat) (e : Entry) : OnSome (QueuesOnly s) (enterQueue s g afw e) := by
  unfold enterQueue
  dsimp only
  split
  · split
    · exact rfl
    · split
      · exact rfl
      · trivial
  · split
    · exact rfl
    · trivial

theorem joinFrom_queuesOnly (l : List Entry) (s : State) : QueuesOnly s (joinFrom l s) := by
  induction l generalizing s with
  | nil => exact rfl
  | cons e l ih =>
    unfold joinFrom
    split
    · rename_i entered
      have h := OnSome.of_eq entered (enterQueue_queuesOnly _ _ _ _)
      refine QueuesOnly.trans (h.trans ?_) (ih _)
      exact rfl
    · exact rfl

theorem poison_stores (h : StoresOnly r s) (p : List Nat) : StoresOnly r { s with poison := p } := h.trans rfl

theorem writeImage_stores (s : State) : StoresOnly s (writeImage s) := by
  unfold writeImage
  split
  · dsimp only
    refine poison_stores ?_ _
    exact storeBytes_stores (foldl_inv (fun _ _ k => storeBytes_stores k) (.refl s))
  · exact .refl s

theorem requeue_aside (s : State) : (requeue s).ctx.aside = s.ctx.aside := rfl

/-- What of a context a save writes, past its operations. -/
theorem saved_aside (s : State) (core : Nat) : (writeImage (cleanStash (requeue (releaseLease s)) core)).ctx.aside = s.ctx.aside := by
  rw [(writeImage_stores _).ctx, (cleanStash_reads (.refl _)).ctx, requeue_aside]
  exact (releaseLease_engines (.refl s)).2

theorem execSaveComplete_saves (saving : s.ctx.run = .saving) (wanted : s.ctx.ready.cancel = false) (ops : s.ctx.ops = []) :
    ∃ t, exec .saveComplete s = .next t ∧ t.ctx.run = .idle ∧
      ∃ p ∈ t.others, p.2.run = .saved ∧ p.2.g = s.ctx.g ∧ p.2.info = s.ctx.info ∧ p.2.pcc = s.ctx.pcc := by
  let u := writeImage (cleanStash (requeue (releaseLease s)) s.self)
  let e : Entry := { info := s.ctx.info, resumed := true, image := some (saveUnit s).1, home := 4, order := 0, expired := none }
  let waiting : State := { (saveUnit s).2 with queues := { (saveUnit s).2.queues with joining := (saveUnit s).2.queues.joining ++ [e] } }
  have result : exec .saveComplete s = .next (freeBarriers (joinQueues waiting) s.ctx.info.slot) := by
    rw [exec_saveComplete, execSaveComplete]
    simp [saving, wanted, ops, waiting, e]
  have joined : QueuesOnly waiting (joinQueues waiting) := joinFrom_queuesOnly _ _
  have same {α : Type} (f : Context → α) (hf : ∀ c : Context, f c.aside = f c) : f u.ctx = f s.ctx := by
    rw [← hf, saved_aside, hf]
  refine ⟨_, result, ?_, ?_⟩
  · have idle : (joinQueues waiting).ctx = .idle := by rw [joined]; rfl
    exact congrArg Context.run idle
  · have others : (joinQueues waiting).others = (saveUnit s).2.others := by rw [joined]
    have image : (freeBarriers (joinQueues waiting) s.ctx.info.slot).others = (saveUnit s).2.others := others
    rw [image]
    exact ⟨_, mem_upsert _ _ _, rfl, same Context.g fun _ => rfl, same Context.info fun _ => rfl, same Context.pcc fun _ => rfl⟩

/-! ## Spawning and banks -/

theorem bankOf_of_queues (e : t.queues = s.queues) (b : Nat) : bankOf t b = bankOf s b := by rw [bankOf, bankOf, e]

theorem ovfOf_of_queues (e : t.queues = s.queues) (b : Nat) : ovfOf t b = ovfOf s b := by rw [ovfOf, ovfOf, e]

theorem bankOf_setBank_ne_nil {b : Nat} {l : List TaskRec} (h : l ≠ []) : bankOf (setBank s b l) b = l := by
  have found := find?_upsert_key (key := (Prod.fst : Nat × List TaskRec → Nat)) (n := b) (b, l) s.queues.banks
  simp only [bankOf, setBank, if_neg h, beq_eq_decide]
  rw [found, if_pos rfl]
  rfl

/-- The bank that a record goes to does not turn on the context in focus. -/
theorem bankFor_mod (s : State) (f : Context → Context) (q : TaskRec) (home : Nat) : bankFor (s.mod f) q home = bankFor s q home := by
  have tables : SameTables s (s.mod f) := ⟨rfl, rfl, rfl, rfl, rfl⟩
  have group : placeGroup (s.mod f) = placeGroup s := by
    delta placeGroup
    rw [tables.resolveOut]
  have room : roomiest (s.mod f) = roomiest s := rfl
  delta bankFor
  rw [group, room]

/-- A record arrives in a bank that has room and nothing in its ring. -/
theorem arriveBank_room {b : Nat} {q : TaskRec} (room : (bankOf s b).length < 128) (ring : ovfOf s b = (0, 0)) :
    arriveBank s b q = setBank s b (bankOf s b ++ [q]) := by
  unfold arriveBank
  rw [ring]
  simp [bankCap, room]

theorem execTspawnEnqueue_enqueues {o : EngineOp} (one : s.ctx.ops = [o]) (spawn : o.kind = .tspawn) (accesses : s.ctx.accesses = [])
    (kept : keptBefore s.ctx o = []) (live : (slotNumbered s s.ctx.info.slot).all (fun l => !l.stopped) = true) :
    let q := freshTask (taskInfo s.ctx.info.asid s.ctx.info.slot o.task)
    let b := bankFor s q (clusterOf (homeOf s))
    (bankOf s b).length < 128 → ovfOf s b = (0, 0) →
    ∃ t, exec .tspawnEnqueue s = .next t ∧ t.mem = s.mem ∧ t.ctx.ops = [] ∧ bankOf t b = bankOf s b ++ [q] := by
  intro q b room ring
  let u := s.mod (dropOp o.id)
  let v := if q.info.nopl then u else reach u [] q.info.asid q.info.place.toNat
  have running : (slotNumbered s s.ctx.info.slot).any LaunchSlot.stopped = false := by
    cases h : slotNumbered s s.ctx.info.slot with
    | none => rfl
    | some l => simpa [h] using live
  have notFull : bankFull s b = false := by
    unfold bankFull
    rw [ring]
    simp [bankCap, room]
  have reads : ReadsOnly u v := holds_ite (.refl u) (reach_reads (.refl u))
  have result : exec .tspawnEnqueue s = .next (setBank v b (bankOf v b ++ [q])) := by
    have offered : offerTask u q (clusterOf (homeOf s)) = setBank v b (bankOf v b ++ [q]) := by
      rw [offerTask, if_neg (by rw [show slotNumbered u q.info.slot = slotNumbered s s.ctx.info.slot from rfl, running]; exact Bool.false_ne_true)]
      rw [enqueueTask, bankFor_mod]
      exact arriveBank_room (by rw [bankOf_of_queues reads.queues]; exact room) (by rw [ovfOf_of_queues reads.queues]; exact ring)
    rw [exec_tspawnEnqueue, execTspawnEnqueue]
    simp only [one, accesses, kept, List.find?_cons, spawn, beq_self_eq_true]
    rw [if_neg (by simp), if_neg (by rw [running, show bankFull s (bankFor s _ _) = false from notFull]; simp)]
    exact congrArg _ offered
  refine ⟨_, result, reads.mem, ?_, ?_⟩
  · have ops : v.ctx.ops = [] := by rw [reads.ctx]; simp [u, dropOp, one]
    exact ops
  · rw [bankOf_setBank_ne_nil (by simp), bankOf_of_queues reads.queues]
    rfl

theorem execBankRefill_checks {cl : Fin 32} {bank : Fin 4} {q : TaskRec} {rest : List TaskRec} {h : KernelHeader} {tr : Trailer} :
    let b := 4 * cl.val + bank.val
    let u := noteRead s q.info.asid q.info.kref.toNat 64
    bankOf s b = q :: rest → q.checked = none → ovfOf s b = (0, 0) → readKernel u q.info.asid q.info.kref.toNat = some (h, tr) →
    q.info.kref.toNat % 64 = 0 → kernelCodes u q.info.asid q.info.kref.toNat (headerCodes u q.info.asid) = [] →
    exec (.bankRefill cl bank) s = .next (setBank u b ({ q with checked := some (h, tr) } :: rest)) := by
  intro b u bank fresh ring kernel aligned sound
  have refilled : refillBank s b = s := by
    unfold refillBank
    rw [ring]
    simp
  rw [exec_bankRefill, execBankRefill]
  simp only [show refillBank s (4 * cl.val + _) = s from refilled, checkHead, show bankOf s (4 * cl.val + _) = _ from bank]
  simp only [fresh, Option.isSome_none, Bool.false_eq_true, if_false, aligned, bne_self_eq_false, List.nil_append, kernel, u, sound, lowest, List.foldl_nil]
  rfl

end Sys2Proof.Machine
end

section
/-! SUPPORT. The ends of units and Gusset contexts (R48, R90, R215, R302, R419), and the events of scheduling together. -/

namespace Sys2Proof.Machine

variable {s t : State}

/-! ## Leaving a core -/

/-- What leaving a core keeps: whatever each of its steps keeps. -/
theorem leaveCore_keeps {P : State → Prop} (lease : P (dropLease s))
    (out : ∀ t : State, P t → ∀ c o q g, P { t with ctx := c, others := o, queues := q, groups := g }) (home : ∀ t o n, P t → P (rehome t o n)) (focus : ∀ t k, P t → P (t.focus k)) (swept : ∀ t, P t → P (sweep t)) : P (leaveCore s) :=
  withCtx_keeps (home _ _ _ (out _ lease _ _ _ _)) focus swept

theorem dropLease_self (s : State) : (dropLease s).self = s.self := (dropLease_engines (.refl s)).self

/-- A core or a Gusset context that is left is idle. -/
theorem leaveCore_ctx (here : s.self < 640) : (leaveCore s).ctx = .idle := by
  unfold leaveCore
  refine (withCtx_ctx ?_ ((sweep_self _).trans (focus_self _ _)) (sweep_others _)).trans rfl
  change 1024 + _ ≠ (dropLease s).self
  rw [dropLease_self]
  omega

theorem leaveCore_counts {slot k : Nat} (hk : k ≠ 0) (h : Counts slot k s) : Counts slot k (leaveCore s) := by
  refine leaveCore_keeps ?_ (fun _ h _ _ _ _ => h) (fun _ _ _ h => h) (fun _ _ h => h.of_slots (focus_slots _ _)) fun _ => sweep_counts hk
  refine h.of_slots ?_
  unfold dropLease
  split <;> rfl

theorem leaveCore_streamsAre {l : List Stream} (h : StreamsAre l s) : StreamsAre l (leaveCore s) := by
  refine leaveCore_keeps ?_ (fun _ h _ _ _ _ => h) (fun _ _ _ => rehome_streamsAre) (fun _ _ h => h.of_streams (focus_streams _ _))
    fun _ => sweep_streamsAre
  refine h.of_streams ?_
  unfold dropLease
  split <;> rfl

/-! ## Units -/

theorem programDone_running (h : programDone s = true) : s.ctx.run = .running := by
  by_contra other
  simp [programDone, other] at h

theorem mayEnd_of_programDone (h : programDone s = true) : mayEnd s = true := by simp [mayEnd, h]

theorem counts_of_slotNumbered {slot : Nat} {l : LaunchSlot} (h : slotNumbered s slot = some l) : Counts slot l.count s := by
  rw [Counts, h]
  rfl

/-- A unit whose program has ended is counted in its launch. -/
theorem retired_counts {u : State} {slot k : Nat} (more : 1 < k) (h : Counts slot k u) :
    (slotNumbered (retireLaunch (freeBarriers (modSlot u slot (countEnd .ended)) slot) slot) slot).map LaunchSlot.count = some (k - 1) := by
  refine retireLaunch_counts (by omega) ?_
  have counted : Counts slot (k - 1) (modSlot u slot (countEnd .ended)) := by
    rw [Counts, slotNumbered_modSlot (f := countEnd .ended) (fun _ => rfl), Option.map_map]
    rw [Counts] at h
    cases found : slotNumbered u slot with
    | none => simp [found] at h
    | some l =>
      have count : l.count = k := by simpa [found] using h
      simp [countEnd, count]
  exact counted

theorem execUnitRetire_eq (ended : programDone s = true) (fate : s.ctx.fate = .ended) (core : s.self < 128) :
    exec .unitRetire s = .next (retireLaunch (freeBarriers (modSlot (freeCore (tearDownAll s (hasEnd s.self))) s.ctx.info.slot (countEnd .ended))
      s.ctx.info.slot) s.ctx.info.slot) := by
  rw [exec_unitRetire, execUnitRetire]
  simp [core, mayEnd_of_programDone ended, fate]

theorem torn_ctx (ended : programDone s = true) : (tearDownAll s (hasEnd s.self)).ctx = s.ctx :=
  tearDownAll_ctx (by rw [programDone_running ended]; simp)

theorem retired_ctx (u : State) (slot : Nat) :
    (retireLaunch (freeBarriers (modSlot u slot (countEnd .ended)) slot) slot).ctx = u.ctx :=
  (retireLaunch_levels (freeBarriers_levels (modSlot_levels (.refl u)))).ctx

theorem execUnitRetire_leaves (ended : programDone s = true) (fate : s.ctx.fate = .ended) (core : s.self < 128) (ops : s.ctx.ops = []) :
    ∃ t, exec .unitRetire s = .next t ∧ t.ctx.run = .idle ∧
      ∀ l, slotNumbered s s.ctx.info.slot = some l → 1 < l.count → (slotNumbered t s.ctx.info.slot).map LaunchSlot.count = some (l.count - 1) := by
  have leaves : freeCore (tearDownAll s (hasEnd s.self)) = leaveCore (tearDownAll s (hasEnd s.self)) := by
    rw [freeCore, torn_ctx ended, ops]
    rfl
  refine ⟨_, execUnitRetire_eq ended fate core, ?_, ?_⟩
  · rw [retired_ctx, leaves, leaveCore_ctx (by rw [tearDownAll_self]; omega)]
    rfl
  · intro l found more
    refine retired_counts more ?_
    rw [leaves]
    exact leaveCore_counts (by omega) (tearDownAll_counts (by omega) (counts_of_slotNumbered found))

theorem execUnitRetire_drains (ended : programDone s = true) (fate : s.ctx.fate = .ended) (core : s.self < 128) (drains : s.ctx.ops.any coreDrains = true) :
    ∃ t, exec .unitRetire s = .next t ∧ t.ctx.run = .draining ∧ t.ctx.counted = true ∧
      ∀ l, slotNumbered s s.ctx.info.slot = some l → 1 < l.count → (slotNumbered t s.ctx.info.slot).map LaunchSlot.count = some (l.count - 1) := by
  have stays : ∃ f, freeCore (tearDownAll s (hasEnd s.self)) = (tearDownAll s (hasEnd s.self)).mod f ∧ ∀ c, (f c).run = .draining ∧ (f c).counted = true := by
    rw [freeCore, torn_ctx ended, if_pos drains]
    exact ⟨_, rfl, fun _ => ⟨rfl, rfl⟩⟩
  obtain ⟨f, stays, drained⟩ := stays
  refine ⟨_, execUnitRetire_eq ended fate core, ?_, ?_, ?_⟩
  · rw [retired_ctx, stays]
    exact (drained _).1
  · rw [retired_ctx, stays]
    exact (drained _).2
  · intro l found more
    refine retired_counts more ?_
    rw [stays]
    have torn : Counts s.ctx.info.slot l.count (tearDownAll s (hasEnd s.self)) := tearDownAll_counts (by omega) (counts_of_slotNumbered found)
    exact torn

/-! ## Gusset contexts -/

theorem execContextEnd_ends (ended : programDone s = true) (gusset : isGusset s.self = true) (ops : s.ctx.ops = []) :
    ∃ t, exec .contextEnd s = .next t ∧ t.ctx.run = .idle ∧ ∀ st ∈ t.streams, hasEnd s.self st = false := by
  let torn := tearDownAll s (hasEnd s.self)
  let left := leaveCore (torn.mod (fun c => { c with owesWord := true }))
  have here : s.self < 640 := by
    simp only [isGusset, Bool.and_eq_true, decide_eq_true_eq] at gusset
    exact gusset.2
  have result : ∃ g, exec .contextEnd s = .next (left.setGusset g) := by
    rw [exec_contextEnd, execContextEnd]
    simp only [mayEnd_of_programDone ended, gusset, ops, List.any_nil, Bool.not_true, Bool.or_self, Bool.false_eq_true, if_false]
    exact ⟨_, rfl⟩
  obtain ⟨g, result⟩ := result
  refine ⟨_, result, ?_, ?_⟩
  · have idle : left.ctx = .idle := leaveCore_ctx (by rw [State.mod_self, tearDownAll_self]; exact here)
    exact congrArg Context.run idle
  · intro st hst
    have same : left.streams.map Stream.unowned = torn.streams.map Stream.unowned := leaveCore_streamsAre rfl
    obtain ⟨old, hold, e⟩ := List.mem_map.mp (same ▸ List.mem_map_of_mem (f := Stream.unowned) hst)
    calc hasEnd s.self st = hasEnd s.self st.unowned := rfl
      _ = hasEnd s.self old.unowned := by rw [e]
      _ = hasEnd s.self old := rfl
      _ = false := tearDownAll_streams (fun _ => rfl) old hold

/-- Settles O56: rings, admission, the match table, deadlines, the walker, the queues, dispatch, pre-emption, saves, spawning, banks and the ends of
units and Gusset contexts, each in turn. -/
theorem eventsOfScheduling : Obligations.EventsOfScheduling := by
  unfold Obligations.EventsOfScheduling
  intro s
  refine ⟨?_, execRingRemove_removes s, execTailWrite_moves s, ?_, execRingStallEpisode_opens s,
    fun e off => ⟨execMatchEntryArm_refuses off, fun _ _ => execMatchEntryArm_arms off⟩,
    fun _ _ _ _ found => ⟨execMatchWriteArrival_counts found, execMatchWriteArrival_releases found⟩,
    fun _ _ => execDeadlinePass_nothing, fun _ _ => execDeadlinePass_passes, fun _ => execWalkerStep_walks, fun _ _ _ => execAffinityExpiry_expires,
    fun _ _ _ => execCommonQueueMove_moves, fun _ _ => execDispatch_starts, fun _ _ => execSchedulerPreempt_asks, execPreemptHalt_halts,
    fun saving wanted ops _ => execSaveComplete_saves saving wanted ops, fun _ => execTspawnEnqueue_enqueues,
    fun _ _ _ _ _ _ => execBankRefill_checks, execUnitRetire_leaves, execUnitRetire_drains, execContextEnd_ends⟩
  · intro k cfg off ok
    obtain ⟨t, result, mem, slots, ring⟩ := execRingInstall_installs s k cfg off ok
    refine ⟨t, result, mem, slots, ?_⟩
    rw [ring]
    exact ⟨rfl, rfl, rfl, rfl, rfl, rfl, rfl, rfl, rfl, rfl, rfl, rfl⟩
  · intro q x rest k h tr only on waiting running batch published same accepted own packet live free kernel room act
    have turn := ringTurn_admits only on waiting running batch published same accepted own packet live free kernel room
    obtain ⟨l, entered, pkt, header, ring, asid, counts⟩ := slotNumbered_admitLaunch s q.ring k x h tr act
    have read := noteAdmission_reads (before := s) (k := q.ring) (.refl (admitLaunch s q.ring k x h tr))
    refine ⟨_, l, execAdmissionTurn_admits only turn, ?_, pkt, header, ring, asid.trans (by rw [ringAt_of_only only]), counts⟩
    exact (slotNumbered_of_slots read.slots k).trans entered

end Sys2Proof.Machine
end

section
/-! SUPPORT. Words of reserved majors, and the manual's own words (R104, R115 to R126). -/

namespace Sys2Proof.Laws.Encoding

/-! ## Reserved majors -/

/-- The majors that no row of the opcode map uses (R104, R121). -/
def unassignedMajors : List Nat := [0x0E, 0x0F, 0x3C, 0x3D, 0x3E, 0x3F, 0x74, 0x75, 0x76, 0x77, 0x7D, 0x7E, 0x7F]

/-- Bits 31 to 25 of a word are its major. -/
theorem bits_major {w m : Nat} (small : w < 2 ^ 32) (h : w / 2 ^ 25 = m) : bits w 31 25 = m := by
  rw [bits, h, Nat.mod_eq_of_lt (by omega)]

theorem decodeWord_reserved {w : Nat} (h : bits w 31 25 ∈ unassignedMajors) : decodeWord w = .error .reservedMajor := by
  unfold decodeWord
  generalize bits w 31 25 = m at h
  simp only [unassignedMajors, List.mem_cons, List.not_mem_nil, or_false] at h
  rcases h with rfl | rfl | rfl | rfl | rfl | rfl | rfl | rfl | rfl | rfl | rfl | rfl | rfl <;> rfl

theorem decodeExtended_reserved {w : Nat} (h : bits w 31 25 ∈ unassignedMajors) (r : ShapeRec) :
    decodeExtended w r = .error .reservedMajor := by
  unfold decodeExtended
  generalize bits w 31 25 = m at h
  simp only [unassignedMajors, List.mem_cons, List.not_mem_nil, or_false] at h
  rcases h with rfl | rfl | rfl | rfl | rfl | rfl | rfl | rfl | rfl | rfl | rfl | rfl | rfl <;> rfl

/-- A word of a reserved major is no instruction: its major is the fault, or an extended one lacks its record. -/
theorem decode_reserved {w : Nat} (small : w < 2 ^ 32) (h : bits w 31 25 ∈ unassignedMajors) (bs : List Byte) :
    ∃ e, decode (bytesOfWord32 w ++ bs) = .error e := by
  rw [decode, word32_bytes w small bs]
  simp only [decodeWord_reserved h, decodeExtended_reserved h]
  split
  · split
    · exact ⟨_, rfl⟩
    · exact ⟨_, rfl⟩
  · exact ⟨_, rfl⟩

/-- Settles O3: neither the decoder of words nor that of extended words has a row for these majors. -/
theorem reservedMajors : Obligations.ReservedMajors := by
  intro w m small reserved major bs
  exact decode_reserved small ((bits_major small major).symm ▸ reserved) bs

/-! ## Words of the table -/

/-- The table's decoder gives the instruction that the decoder reads at the head of the bytes. (The definition is unfolded as a function: to check
its equation at an argument, the kernel would run the decoder on a word it does not know.) -/
theorem decodeTableWord_eq (n w : Nat) : decodeTableWord n w = (decode (tableBytes n w)).toOption.map Prod.fst := by
  have unfolded : decodeTableWord = decodeTableWord := rfl
  conv at unfolded => rhs; delta decodeTableWord
  rw [unfolded]
  beta_reduce
  generalize decode (tableBytes n w) = r
  match r with
  | .ok (i, rest) => rfl
  | .error e => rfl

/-- The decoder reads an instruction from the bits that the encoder gives it, whatever bits follow. -/
theorem decodeTableWord_of_encode {i : Instr} {n w : Nat} (wf : i.wf = true) (word : i.hasWord = true) (rest : List Byte)
    (written : tableBytes n w = encode i ++ rest) : decodeTableWord n w = some i := by
  rw [decodeTableWord_eq, written, encodingRoundTrip i wf word rest]
  rfl

/-- The decoder reads nothing from the bits of a word of a reserved major. -/
theorem decodeTableWord_reserved {w : Nat} (small : w < 2 ^ 32) (h : bits w 31 25 ∈ unassignedMajors) : decodeTableWord 32 w = none := by
  obtain ⟨e, fails⟩ := decode_reserved small h (bytesOfWord32 (w / 2 ^ 32) ++ (bytesOfWord32 (w / 2 ^ 64) ++
    (bytesOfWord32 (w / 2 ^ 96) ++ bytesOfWord32 (w / 2 ^ 128))))
  rw [decodeTableWord_eq, tableBytes]
  simp only [Nat.mod_eq_of_lt small, List.append_assoc, fails]
  rfl

/-- The zero bytes that follow a one-word instruction in the table's numbering. -/
def pastWord : List Byte := List.replicate 16 0

/-- Settles O1: each word is its instruction's own encoding, and the last is of a reserved major. -/
theorem wordsDecode : Obligations.WordsDecode := by
  have reads {i : Instr} {w : Nat} (h : i.wf = true ∧ i.hasWord = true ∧ tableBytes 32 w = encode i ++ pastWord) : decodeTableWord 32 w = some i :=
    decodeTableWord_of_encode h.1 h.2.1 pastWord h.2.2
  refine ⟨reads ?_, reads ?_, reads ?_, reads ?_, reads ?_, reads ?_, reads ?_, decodeTableWord_of_encode ?_ ?_ [] ?_,
    decodeTableWord_reserved ?_ ?_⟩ <;> decide

end Sys2Proof.Laws.Encoding
end

section
/-! SUPPORT. Flags and WAIT (R101, R251, R359, R360). -/

namespace Sys2Proof.Machine

variable {s : State} {a c d l : Fin 32} {n : Fin 64}

/-! ## Flags below NFLAG -/

/-- A flag instruction whose flag the unit has goes on. -/
theorem flagC_of_lt (known : n.val < s.ctx.info.header.nflag) (k : Result) : flagC n s k = k :=
  orTrap_false _ _ _ _ (decide_eq_false (Nat.not_le.mpr known))

section

variable (ready : ControlReady s [a] []) (known : n.val < s.ctx.info.header.nflag)
include ready known

theorem flagAdd_completes :
    Completes (.flagAdd a n) .control s (s.mod (fun x => x.addFlag n (x.getG a).toNat)) :=
  issueC_completes ((exec_flagAdd a n s).trans (flagC_of_lt known _)) ready

theorem flagRd_completes :
    Completes (.flagRd d n) .control s (s.mod (fun x => x.setG d (BitVec.ofNat 64 (x.f[n]).toNat))) :=
  issueC_completes ((exec_flagRd d n s).trans (flagC_of_lt known _)) (ready.mono nofun nofun)

theorem flagWait_completes (reached : flagThreshold s.ctx a ≤ (s.ctx.f[n]).toNat) :
    Completes (.flagWait d a n) .control s (s.mod (fun x => x.setG d (BitVec.ofNat 64 (x.f[n]).toNat))) :=
  issueC_completes ((exec_flagWait d a n s).trans ((flagC_of_lt known _).trans (if_neg (Nat.not_lt.mpr reached)))) ready

theorem flagWaitSub_completes (reached : flagThreshold s.ctx a ≤ (s.ctx.f[n]).toNat) :
    Completes (.flagWaitSub d a n) .control s (s.mod (fun x => { x.setG d (BitVec.ofNat 64 (x.f[n]).toNat) with
      f := x.f.set n (BitVec.ofNat 32 ((x.f[n]).toNat - flagThreshold x a)) })) :=
  issueC_completes ((exec_flagWaitSub d a n s).trans ((flagC_of_lt known _).trans (if_neg (Nat.not_lt.mpr reached)))) ready

end

/-- Below the threshold both waits leave the state as it is. -/
theorem flagWaits_wait (known : n.val < s.ctx.info.header.nflag) (below : (s.ctx.f[n]).toNat < flagThreshold s.ctx a) :
    exec (.flagWait d a n) s = .next s ∧ exec (.flagWaitSub d a n) s = .next s :=
  ⟨(exec_flagWait d a n s).trans ((flagC_of_lt known _).trans (if_pos below)),
   (exec_flagWaitSub d a n s).trans ((flagC_of_lt known _).trans (if_pos below))⟩

/-! ## Flags that the unit does not have -/

theorem flag_illegal (ready : ControlReady s [a] []) (absent : s.ctx.info.header.nflag ≤ n.val) :
    ∀ i ∈ [Instr.flagAdd a n, .flagRd d n, .flagWait d a n, .flagWaitSub d a n], exec i s = .next (trapSync s .control .illegal) := by
  have traps (k : Result) : flagC n s k = .next (trapSync s .control .illegal) := by
    rw [flagC, decide_eq_true (show s.ctx.nflag ≤ n.val from absent)]
    exact ready.orTrap_illegal k
  intro i hi
  simp only [List.mem_cons, List.not_mem_nil, or_false] at hi
  rcases hi with rfl | rfl | rfl | rfl
  · exact (exec_flagAdd a n s).trans (traps _)
  · exact (exec_flagRd d n s).trans (traps _)
  · exact (exec_flagWait d a n s).trans (traps _)
  · exact (exec_flagWaitSub d a n s).trans (traps _)

/-! ## WAIT -/

theorem wait_completes (ready : ControlReady s [] []) :
    if loadCount s.ctx ≤ l.val ∧ storeCount s.ctx ≤ c.val ∧ copyCount s.ctx ≤ a.val ∧ tileCount s.ctx ≤ d.val then
      Completes (.wait d a c l) .control s s
    else exec (.wait d a c l) s = .next s := by
  have go : exec (.wait d a c l) s = _ := exec_wait d a c l s
  unfold execWait at go
  simp only [Bool.or_eq_true, decide_eq_true_eq] at go
  split
  · next few =>
    rw [if_neg (by omega)] at go
    exact issueC_completes go ready
  · next many =>
    rw [if_pos (by omega)] at go
    exact go

/-- Settles O40: flags that are there, flags that are not, and WAIT. -/
theorem flagsAndWaits : Obligations.FlagsAndWaits := by
  intro s d a c l n ready
  refine ⟨fun known => ⟨flagAdd_completes ready known, flagRd_completes ready known, fun reached =>
    ⟨flagWait_completes ready known reached, flagWaitSub_completes ready known reached⟩, flagWaits_wait known⟩,
    flag_illegal ready, wait_completes (ready.mono nofun nofun)⟩

end Sys2Proof.Machine
end

section
/-! SUPPORT. Walks, landing results and votes (R112, R150, R234, R240, R391, R392): which translations a walk leaves held, and what settling and
landing leave alone. -/

namespace Sys2Proof.Machine

variable {s t : State}

/-! ## What leaves the held translations alone -/

/-- t holds the translations that s holds. -/
@[reducible] def SameTlb (s t : State) : Prop := t.tlb = s.tlb

theorem wayFor_tlb (s : State) (n line : Nat) : OnSome (fun p => SameTlb s p.1) (wayFor s n line) := by
  unfold wayFor
  dsimp only
  split
  · rfl
  · exact OnSome.map fun _ => rfl

theorem touchSlice_tlb (s : State) (line : Nat) (mask : BitVec 4) (dirty : Bool) : (touchSlice s line mask dirty).tlb = s.tlb := by
  unfold touchSlice
  dsimp only
  split
  · rfl
  · split
    · exact holds_ite (p := SameTlb s) rfl rfl
    · rename_i e
      have taken := OnSome.of_eq (p := fun p => SameTlb s p.1) e (wayFor_tlb s _ line)
      exact taken

theorem mergeDirty_tlb (s : State) (line : Nat) (d : BitVec 4) : (mergeDirty s line d).tlb = s.tlb :=
  holds_ite (p := SameTlb s) rfl (touchSlice_tlb s line d true)

theorem readHome_tlb (s : State) (line : Nat) (mask : BitVec 4) : (readHome s line mask).tlb = s.tlb :=
  (touchSlice_tlb _ _ _ _).trans (mergeDirty_tlb _ _ _)

theorem writeHome_tlb (s : State) (line : Nat) (mask : BitVec 4) : (writeHome s line mask).tlb = s.tlb :=
  (touchSlice_tlb _ _ _ _).trans (mergeDirty_tlb _ _ _)

theorem storeBytes_tlb (s : State) (pa : Nat) (bs : List Byte) : (storeBytes s pa bs).tlb = s.tlb :=
  foldl_inv (p := SameTlb s) (fun _ _ k => (writeHome_tlb _ _ _).trans k) rfl

theorem hostEvent_tlb (s : State) (cause status : Nat) (asid : BitVec 16) (ident detail : Nat) :
    (hostEvent s cause status asid ident detail).tlb = s.tlb :=
  holds_ite (p := SameTlb s) rfl (holds_ite (p := SameTlb s) rfl (storeBytes_tlb s _ _))

theorem offerFault_tlb (s : State) (c : Cause) (acc : Nat) (va : Word) (src : Nat) (engine : Bool) (ident : Nat) :
    OnSome (fun p => SameTlb s p.2) (offerFault s c acc va src engine ident) := by
  unfold offerFault
  split
  · trivial
  · split
    · trivial
    · exact (hostEvent_tlb _ _ _ _ _ _).trans (storeBytes_tlb _ _ _)

theorem offerOne_tlb (s : State) (a : Access) : (offerOne s a).tlb = s.tlb := by
  unfold offerOne
  split
  · split
    · split
      · rename_i e
        exact OnSome.of_eq (p := fun p => SameTlb s p.2) e (offerFault_tlb s _ _ _ _ _ _)
      · rfl
    · rfl
  · rfl

theorem offerFaults_tlb (s : State) : (offerFaults s).tlb = s.tlb :=
  foldl_inv (p := SameTlb s) (fun _ _ k => (offerOne_tlb _ _).trans k) rfl

theorem settle_tlb (s : State) : (settle s).tlb = s.tlb := by rw [(settle_settled s).1]

theorem failWalkers_tlb (asid : BitVec 16) (page : Nat) (c : Cause) (s : State) : (failWalkers asid page c s).tlb = s.tlb :=
  holds_ite (p := SameTlb s) rfl
    (foldl_inv (p := SameTlb s) (fun _ _ k => holds_ite (p := SameTlb s) k k) rfl)

theorem focus_tlb (s : State) (k : Nat) : (s.focus k).tlb = s.tlb := by unfold State.focus; split <;> rfl

/-! ## What a walk leaves held (R240) -/

theorem mem_putTlb_self (l : List TlbEntry) (e : TlbEntry) : e ∈ putTlb l e := List.mem_append_right _ (List.mem_singleton_self e)

/-- An entry stays as another level takes one. -/
theorem mem_putTlb_of_ne {l : List TlbEntry} {x e : TlbEntry} (stands : x ∈ l) (ne : x.place ≠ e.place) : x ∈ putTlb l e := by
  refine List.mem_append_left _ ?_
  split
  · exact stands
  · exact (List.mem_eraseP_of_neg (by simp [ne])).mpr stands

theorem mem_foldl_putTlb_of_ne {x : TlbEntry} {es : List TlbEntry} (ne : ∀ e ∈ es, x.place ≠ e.place) :
    ∀ {l : List TlbEntry}, x ∈ l → x ∈ es.foldl putTlb l := by
  induction es with
  | nil => exact id
  | cons e es ih => exact fun stands => ih (fun y hy => ne y (.tail _ hy)) (mem_putTlb_of_ne stands (ne e (.head _)))

/-- Levels that are all different each keep the entry that they take. -/
theorem mem_foldl_putTlb {places : List Nat} (nodup : places.Nodup) (asid : BitVec 16) (a : PageAttr) :
    ∀ (l : List TlbEntry), ∀ x ∈ places, (⟨x, asid, a⟩ : TlbEntry) ∈ (places.map (fun p => ⟨p, asid, a⟩)).foldl putTlb l := by
  induction places with
  | nil => exact fun _ _ h => absurd h List.not_mem_nil
  | cons p ps ih =>
    obtain ⟨first, rest⟩ := List.nodup_cons.mp nodup
    intro l x hx
    rw [List.map_cons, List.foldl_cons]
    rcases List.mem_cons.mp hx with rfl | later
    · refine mem_foldl_putTlb_of_ne (fun e he => ?_) (mem_putTlb_self l _)
      obtain ⟨q, hq, rfl⟩ := List.mem_map.mp he
      exact fun same => first ((show x = q from same) ▸ hq)
    · exact ih rest _ x later

theorem tlbPlaces_nodup (s : State) : (tlbPlaces s).Nodup := by
  have levels {n : Nat} : (if n < 128 then [n, 128 + n / 4] else if isGusset n then [160 + gidOf n] else [outPlace]).Nodup := by
    split
    · simp; omega
    · split <;> simp
  exact levels

/-- A walk that finds a translation leaves it in each level of the party that made it. -/
theorem mem_walkFill {places : List Nat} {asid : BitVec 16} {va : Nat} {p : PageAttr} (nodup : places.Nodup)
    (missing : heldAt s places asid va = none) (found : walkAt s (places.headD outPlace) asid va = .ok p) :
    ∀ x ∈ places, (⟨x, asid, p⟩ : TlbEntry) ∈ (walkFill s places asid va).tlb := by
  have read : (walkFill s places asid va).tlb = (fillAt s places asid va).tlb :=
    foldl_inv (p := SameTlb (fillAt s places asid va)) (fun _ _ k => (readHome_tlb _ _ _).trans k) rfl
  rw [read]
  unfold fillAt
  simp only [missing, found]
  exact mem_foldl_putTlb nodup asid p s.tlb

theorem execPageWalkComplete_holds {n va : Nat} {a : Access} {p : PageAttr} (waits : (walkers s)[n]? = some (a, va)) :
    let place := (tlbPlaces s).headD outPlace
    let u := walkLates s place (walkSlack s a va) a.level va
    heldAt u (tlbPlaces s) s.ctx.info.asid va = none → walkAt u place s.ctx.info.asid va = .ok p →
    ∃ t, exec (.pageWalkComplete n) s = .next t ∧ ∀ x ∈ tlbPlaces s, (⟨x, s.ctx.info.asid, p⟩ : TlbEntry) ∈ t.tlb := by
  intro place u missing found
  have filled := mem_walkFill (tlbPlaces_nodup s) missing found
  rw [exec_pageWalkComplete, execPageWalkComplete, waits]
  refine ⟨_, rfl, fun x hx => ?_⟩
  refine Eq.subst (motive := fun l => _ ∈ l) (Eq.symm ?_) (filled x hx)
  refine foldl_inv (p := SameTlb (walkFill u (tlbPlaces s) s.ctx.info.asid va)) (fun t m k => ?_) rfl
  refine withCtx_keeps (P := SameTlb (walkFill u (tlbPlaces s) s.ctx.info.asid va)) k
    (fun _ _ k => (focus_tlb _ _).trans k) (fun t k => ?_)
  refine Eq.trans ?_ k
  split
  · exact (offerFaults_tlb _).trans (settle_tlb _)
  · exact (offerFaults_tlb _).trans ((settle_tlb _).trans (failWalkers_tlb _ _ _ _))

/-! ## Landing (R112) -/

/-- What of a context the progress of its accesses does not touch is as it was. -/
theorem Settled.same {α : Type} (h : Settled s t) (f : Context → α) (hf : ∀ c, f c.unsent = f c) : f t.ctx = f s.ctx := by
  rw [← hf, h.2, hf]

theorem Landed.mem (h : Landed s t) : t.mem = s.mem := by rw [h.1]

theorem Landed.g (h : Landed s t) : t.ctx.g = s.ctx.g := by
  have same := congrArg Context.g h.2.1
  exact same

theorem execResultLand_lands (s : State) :
    let u := landDue (if s.ctx.run = .running ∧ (s.ctx.endedX = true ∨ s.ctx.xdrain = true) then s.mod Context.tick else s)
    ∃ t, exec .resultLand s = .next t ∧ t.mem = s.mem ∧ t.ctx.g = s.ctx.g ∧ t.ctx.v = u.ctx.v ∧ t.ctx.k = u.ctx.k ∧ t.ctx.m = u.ctx.m ∧
      t.ctx.fpmode = u.ctx.fpmode ∧ t.ctx.vq = u.ctx.vq ∧ t.ctx.latches = u.ctx.latches := by
  intro u
  have ticked : u.mem = s.mem ∧ u.ctx.g = s.ctx.g := by
    have landed := landDue_landed (if s.ctx.run = .running ∧ (s.ctx.endedX = true ∨ s.ctx.xdrain = true) then s.mod Context.tick else s)
    refine ⟨landed.mem.trans ?_, landed.g.trans ?_⟩
    · split <;> rfl
    · split <;> rfl
  have result : exec .resultLand s = .next (settle u) := by
    rw [exec_resultLand, execResultLand]
    simp only [Bool.and_eq_true, beq_iff_eq, Bool.or_eq_true]
    rfl
  have settled := settle_settled u
  refine ⟨_, result, ?_, (settled.same Context.g fun _ => rfl).trans ticked.2, settled.same Context.v fun _ => rfl,
    settled.same Context.k fun _ => rfl, settled.same Context.m fun _ => rfl, settled.same Context.fpmode fun _ => rfl,
    settled.same Context.vq fun _ => rfl, settled.same Context.latches fun _ => rfl⟩
  rw [settled.1]
  exact ticked.1

/-! ## Votes (R150) -/

theorem execVotePop_answers {r : Fin 4} {claims : List (Fin 4)} {e : VqEntry} {rest : List VqEntry} (votes : s.ctx.votes = r :: claims)
    (vq : s.ctx.vq = e :: rest) (filled : e.filled = true) (other : ∀ b, s.ctx.prediction = some b → b.c ≠ r) :
    exec .votePop s = .next (s.mod (fun c => { c with c := c.c.set r (e.data != 0), votes := claims, vq := rest })) := by
  rw [exec_votePop, execVotePop, votes, vq]
  simp only [filled, Bool.not_true, Bool.false_eq_true, if_false]
  split
  · next b predicted =>
    rw [if_neg (other b predicted)]
    rfl
  · rfl

end Sys2Proof.Machine
end
section
/-! SUPPORT. The crossing chains' grants and waits (R284 to R293), the slices' and windows' requests (R223, R250, R285, R379, R441), fence markers
(R297), chain flits (R404) and the end of a targeted self-test (R407), and the events of memory together. -/

namespace Sys2Proof.Machine

variable {s t : State}

/-! ## Slices and arbiters by their names -/

theorem sliceState_setSlice_self {k : SliceState} {n : Nat} (h : k.slice = n) : (s.setSlice k).sliceState n = k := by
  have found := find?_upsert_key (key := SliceState.slice) (n := n) k s.slices
  simp only [State.sliceState, State.setSlice, beq_eq_decide]
  rw [found, if_pos h]
  rfl

@[simp] theorem slice_sliceState (s : State) (n : Nat) : (s.sliceState n).slice = n := by
  unfold State.sliceState
  cases h : s.slices.find? (fun k => k.slice == n) with
  | none => rfl
  | some k => simpa using List.find?_some h

theorem sliceState_of_slices (e : t.slices = s.slices) (n : Nat) : t.sliceState n = s.sliceState n := by
  rw [State.sliceState, State.sliceState, e]

/-- Arbiters have numbers of their own. -/
theorem arbIndex_inj {a b : ArbId} (h : arbIndex a = arbIndex b) : a = b := by
  rcases a with ⟨e, st, l⟩ | st
  · rcases b with ⟨e', st', l'⟩ | st'
    · simp only [arbIndex] at h
      have east : e = e' := by
        rw [Bool.eq_iff_iff]
        split at h <;> split at h <;> simp_all <;> omega
      subst east
      have same : st.val = st'.val ∧ l.val = l'.val := by omega
      rw [Fin.ext same.1, Fin.ext same.2]
    · simp only [arbIndex] at h
      split at h <;> omega
  · rcases b with ⟨e', st', l'⟩ | st'
    · simp only [arbIndex] at h
      split at h <;> omega
    · simp only [arbIndex] at h
      rw [Fin.ext (show st.val = st'.val by omega)]

@[simp] theorem arb_arbiterOf (s : State) (a : ArbId) : (s.arbiterOf a).arb = a := by
  unfold State.arbiterOf
  cases h : s.arbiters.find? (fun x => x.arb == a) with
  | none => rfl
  | some x => simpa using List.find?_some h

/-- An arbiter that holds a packet stands among the arbiters. -/
theorem arbiters_setArbiter {x : Arbiter} (h : x.packets ≠ []) : (s.setArbiter x).arbiters = upsert (fun x => arbIndex x.arb) x s.arbiters := by
  simp [State.setArbiter, h]

theorem arbiterOf_setArbiter_self {x : Arbiter} {a : ArbId} (h : x.packets ≠ []) (named : x.arb = a) : (s.setArbiter x).arbiterOf a = x := by
  have found := find?_upsert_key (key := fun x : Arbiter => arbIndex x.arb) (n := arbIndex a) x s.arbiters
  have same (y : Arbiter) : (y.arb == a) = decide (arbIndex y.arb = arbIndex a) :=
    (beq_eq_decide _ _).trans (decide_eq_decide.mpr ⟨congrArg arbIndex, arbIndex_inj⟩)
  rw [State.arbiterOf, arbiters_setArbiter h]
  simp only [same]
  rw [found, if_pos (congrArg arbIndex named)]
  rfl

/-! ## Grants of the chains (R291, R292) -/

/-- The state once a packet has left its arbiter. -/
def departed (s : State) (arb : ArbId) (p : Packet) : State :=
  let a := s.arbiterOf arb
  s.setArbiter { a with packets := a.packets.filter (fun q => q.id != p.id), lastZero := if effSlack a.packets p == 0 then fifoIndex p else a.lastZero }

section

variable {arb : ArbId} {p : Packet}
  (chosen : choosePacket (s.arbiterOf arb).packets (s.arbiterOf arb).lastZero (fifoCount arb) (hasRoom s arb) = some p)
include chosen

/-- A granted packet moves to the next arbiter of its lane. -/
theorem execArbiterGrant_moves {b : ArbId} (kind : p.kind ≠ .marker) (next : nextArbiter arb p = some b) :
    ∃ t, exec (.arbiterGrant arb) s = .next t ∧ t.mem = s.mem ∧ t.ctx = s.ctx ∧ { p with input := 0 } ∈ (t.arbiterOf b).packets := by
  let x := (departed s arb p).arbiterOf b
  let y : Arbiter := { x with packets := x.packets ++ [{ p with input := 0 }] }
  have entered : ((departed s arb p).setArbiter y).arbiterOf b = y := arbiterOf_setArbiter_self (by simp [y]) (arb_arbiterOf _ _)
  refine ⟨(departed s arb p).setArbiter y, ?_, rfl, rfl, ?_⟩
  · rw [exec_arbiterGrant, execArbiterGrant]
    simp only [chosen, kind, if_false, next]
    rfl
  · rw [entered]
    exact List.mem_append_right _ (List.mem_singleton_self _)

/-- A granted request whose way ends at a slice enters the slice's FIFOs. -/
theorem execArbiterGrant_arrives (kind : p.kind = .request) (next : nextArbiter arb p = none) (low : 384 ≤ p.dst) (high : p.dst < 448) :
    ∃ t, exec (.arbiterGrant arb) s = .next t ∧ t.mem = s.mem ∧ t.ctx = s.ctx ∧ (t.sliceState (p.dst - 384)).requests =
      (s.sliceState (p.dst - 384)).requests ++ [{ p with input := arrivalSide arb }] := by
  have arrives : arrive (departed s arb p) arb p = addRequest (departed s arb p) p.dst { p with input := arrivalSide arb } := by
    unfold arrive
    simp only [kind]
    rw [if_neg (by omega), if_pos (.inr ⟨low, high⟩)]
  have result : exec (.arbiterGrant arb) s = .next (addRequest (departed s arb p) p.dst { p with input := arrivalSide arb }) := by
    rw [exec_arbiterGrant, execArbiterGrant, ← arrives]
    simp only [chosen, kind, next]
    rfl
  rw [addRequest, if_pos ⟨low, high⟩] at result
  refine ⟨_, result, rfl, rfl, (congrArg SliceState.requests (sliceState_setSlice_self ?_)).trans ?_⟩
  · exact slice_sliceState _ _
  · rfl

end

/-! ## Waiting (R289, R293) -/

/-- A packet that waits loses slack, and is late once it has none. -/
theorem waited_eq (p : Packet) :
    p.waited = if p.slack = 4095 ∨ p.slack = 0 then p else { p with slack := p.slack - 1, late := p.late || p.slack == 1 } := by
  unfold Packet.waited
  refine ite_congr rfl (fun _ => rfl) fun _ => ?_
  unfold Packet.marked
  by_cases last : p.slack = 1
  · simp [last]
  · have more : ¬ p.slack - 1 = 0 := by omega
    simp [last, more]

theorem execSlackDecrement_waits (s : State) (n : Nat) : exec (.slackDecrement n) s = .next (s.modPacket n (fun p =>
    if p.slack = 4095 ∨ p.slack = 0 then p else { p with slack := p.slack - 1, late := p.late || p.slack == 1 })) := by
  rw [exec_slackDecrement, execSlackDecrement, funext waited_eq]

/-! ## Slices (R223, R250, R285, R379) -/

/-- A slice grants nothing while its replies fill their buffer. -/
theorem slice_backedUp {slice : Fin 64} (full : 64 ≤ repliesWaiting s slice.val) :
    exec (.sliceRequestGrant slice) s = .next s ∧ exec (.sliceFillComplete slice) s = .next s :=
  ⟨(exec_sliceRequestGrant slice s).trans (if_pos full), (exec_sliceFillComplete slice s).trans (if_pos full)⟩

section

variable {slice : Fin 64} {p : Packet} (room : repliesWaiting s slice.val < 64)
include room

theorem execSliceFillComplete_serves {rest : List Packet} (fills : (s.sliceState slice.val).fills = p :: rest) :
    exec (.sliceFillComplete slice) s =
      .next (keepFill (serve (s.setSlice { s.sliceState slice.val with fills := rest }) p) slice.val p) := by
  rw [exec_sliceFillComplete, execSliceFillComplete, if_neg (Nat.not_le.mpr room)]
  simp only [fills]

variable (chosen : choosePacket (s.sliceState slice.val).requests (s.sliceState slice.val).lastZero 48 (fun p => p.kind != .marker) = some p)
include chosen

/-- What a grant does, by whether the request is performed at once and what waits before it. -/
theorem execSliceRequestGrant_eq : ∃ z,
    let k := s.sliceState slice.val
    let k' := { k with requests := k.requests.filter (fun q => q.id != p.id), lastZero := z }
    exec (.sliceRequestGrant slice) s = if !servedAtOnce s k p then .next (s.setSlice { k' with fills := k.fills ++ [p] })
      else if p.lead || k.fills.isEmpty then .next (keepFill (serve (s.setSlice k') p) slice.val p)
      else .next ((act (s.setSlice k') p).setSlice
        { (act (s.setSlice k') p).sliceState slice.val with fills := ((act (s.setSlice k') p).sliceState slice.val).fills ++ [p] }) := by
  refine ⟨if effSlack (s.sliceState slice.val).requests p == 0 then fifoIndex p else (s.sliceState slice.val).lastZero, ?_⟩
  rw [exec_sliceRequestGrant, execSliceRequestGrant, if_neg (Nat.not_le.mpr room)]
  simp only [requestFifos, chosen]

theorem execSliceRequestGrant_misses (miss : servedAtOnce s (s.sliceState slice.val) p = false) :
    ∃ t, exec (.sliceRequestGrant slice) s = .next t ∧ t.mem = s.mem ∧ t.ctx = s.ctx ∧
      (t.sliceState slice.val).fills = (s.sliceState slice.val).fills ++ [p] ∧
      (t.sliceState slice.val).requests = (s.sliceState slice.val).requests.filter (fun q => q.id != p.id) := by
  obtain ⟨z, granted⟩ := execSliceRequestGrant_eq room chosen
  simp only [miss, Bool.not_false, if_true] at granted
  refine ⟨_, granted, rfl, rfl, ?_⟩
  rw [sliceState_setSlice_self (by exact slice_sliceState _ _)]
  exact ⟨rfl, rfl⟩

theorem execSliceRequestGrant_follows (hit : servedAtOnce s (s.sliceState slice.val) p = true) (last : p.lead = false)
    (fills : (s.sliceState slice.val).fills ≠ []) :
    ∃ z, let u := act (s.setSlice { s.sliceState slice.val with
        requests := (s.sliceState slice.val).requests.filter (fun q => q.id != p.id), lastZero := z }) p
      exec (.sliceRequestGrant slice) s = .next (u.setSlice { u.sliceState slice.val with fills := (u.sliceState slice.val).fills ++ [p] }) := by
  obtain ⟨z, granted⟩ := execSliceRequestGrant_eq room chosen
  have behind : (p.lead || (s.sliceState slice.val).fills.isEmpty) = false := by simp [last, fills]
  simp only [hit, behind, Bool.not_true, Bool.false_eq_true, if_false] at granted
  exact ⟨z, granted⟩

theorem execSliceRequestGrant_serves (hit : servedAtOnce s (s.sliceState slice.val) p = true)
    (first : p.lead = true ∨ (s.sliceState slice.val).fills = []) :
    ∃ z, exec (.sliceRequestGrant slice) s = .next (keepFill (serve (s.setSlice { s.sliceState slice.val with
      requests := (s.sliceState slice.val).requests.filter (fun q => q.id != p.id), lastZero := z }) p) slice.val p) := by
  obtain ⟨z, granted⟩ := execSliceRequestGrant_eq room chosen
  have ahead : (p.lead || (s.sliceState slice.val).fills.isEmpty) = true := by simpa using first
  simp only [hit, ahead, Bool.not_true, Bool.false_eq_true, if_false, if_true] at granted
  exact ⟨z, granted⟩

end

/-! ## A packet that waits alone (R291) -/

/-- A packet that waits alone is the head of its FIFOs. -/
theorem atHead_single (p : Packet) : atHead [p] p = true := by
  refine List.all_eq_true.mpr fun f hf => ?_
  obtain ⟨c, hc, rfl⟩ := List.mem_map.mp hf
  have covered : inFifo p.input c p = true := by simpa [inFifo] using (List.mem_filter.mp hc).2
  simp [fifoHead, covered]

theorem choosePacket_single {p : Packet} {z n : Nat} {ok : Packet → Bool} (h : ok p = true) : choosePacket [p] z n ok = some p := by
  unfold choosePacket
  have heads : [p].filter (fun q => atHead [p] q && ok q) = [p] := by simp [atHead_single, h]
  simp only [heads]
  by_cases zero : effSlack [p] p = 0
  · simp [zero]
  · simp [zero]

theorem execWindowAccessServe_serves {core : Fin 128} {p : Packet} (alone : (s.coreState core.val).windowReqs = [p]) (room : replyRoom s p = true) :
    ∃ z, let t := serve (s.setCore { s.coreState core.val with windowReqs := [], lastZero := z }) p
      exec (.windowAccessServe core) s = .next (if begun t p then
        t.setCore { t.coreState core.val with windowReqs := p :: (t.coreState core.val).windowReqs } else t) := by
  refine ⟨if effSlack [p] p == 0 then fifoIndex p else (s.coreState core.val).lastZero, ?_⟩
  rw [exec_windowAccessServe, execWindowAccessServe]
  have gone : [p].filter (fun q => q.id != p.id) = [] := by simp
  simp only [alone, choosePacket_single room, gone]

/-! ## Fence markers (R297) -/

theorem marked_eq (p : Packet) : p.marked = { p with late := p.marked.late } := by
  unfold Packet.marked
  split <;> rfl

/-- An injected packet stands at its port. -/
theorem inject_stands (s : State) (p : Packet) :
    ∃ a ∈ (inject s p).arbiters, ({ p with id := s.nextPacket, input := portOf p.src } : Packet).marked ∈ a.packets := by
  refine ⟨_, Eq.subst (motive := fun l => _ ∈ l) (arbiters_setArbiter (by simp)).symm (mem_upsert _ _ _), ?_⟩
  exact List.mem_append_right _ (List.mem_singleton_self _)

section

variable {slice : Fin 64} {p : Packet} (room : repliesWaiting s slice.val < 64) (alone : (s.sliceState slice.val).requests = [p])
  (kind : p.kind = .marker) (fills : (s.sliceState slice.val).fills = []) (markers : (s.sliceState slice.val).markers = [])
include room alone kind fills markers

/-- The one copy that has come is counted and leaves; the fence is acknowledged where it sends no more. -/
theorem execFenceMarkerRetire_eq : exec (.fenceMarkerRetire slice) s = .next (
    if copiesOf p.src slice.val ≤ 1 then
      inject (s.setSlice { s.sliceState slice.val with requests := [], markers := [] })
        { p with kind := .markerAck, src := sliceEndpoint slice.val, dst := p.src, mask := oneClass (classOf p.mask), part := slice.val }
    else s.setSlice { s.sliceState slice.val with requests := [], markers := [(p.ctx, p.acc, 1)] }) := by
  rw [exec_fenceMarkerRetire, execFenceMarkerRetire]
  simp only [if_neg (Nat.not_le.mpr room), alone, fills, markers]
  have head : [p].filter (fun q => q.kind == .marker && atHead [p] q) = [p] := by simp [kind, atHead_single]
  simp only [head]
  by_cases last : copiesOf p.src slice.val ≤ 1
  · simp [countMarker, last, List.filterMap, Option.filter_some]
  · simp [countMarker, last, List.filterMap, Option.filter_some]

theorem execFenceMarkerRetire_counts :
    ∃ t, exec (.fenceMarkerRetire slice) s = .next t ∧ t.mem = s.mem ∧ t.ctx = s.ctx ∧ (t.sliceState slice.val).requests = [] ∧
      if stationOf p.src = stationOf (384 + slice.val) then
        (t.sliceState slice.val).markers = [] ∧
        ∃ a ∈ t.arbiters, ∃ q ∈ a.packets, q.kind = .markerAck ∧ q.dst = p.src ∧ q.ctx = p.ctx ∧ q.acc = p.acc ∧ q.part = slice.val
      else (t.sliceState slice.val).markers = [(p.ctx, p.acc, 1)] := by
  have result := execFenceMarkerRetire_eq room alone kind fills markers
  unfold copiesOf sliceEndpoint at result
  split
  · next here =>
    rw [if_pos here, if_pos (Nat.le_refl 1)] at result
    have empty : (s.setSlice { s.sliceState slice.val with requests := [], markers := [] }).sliceState slice.val = _ :=
      sliceState_setSlice_self (by exact slice_sliceState _ _)
    obtain ⟨a, stands, q⟩ := inject_stands (s.setSlice { s.sliceState slice.val with requests := [], markers := [] })
      { p with kind := .markerAck, src := 384 + slice.val, dst := p.src, mask := oneClass (classOf p.mask), part := slice.val }
    refine ⟨_, result, rfl, rfl, congrArg SliceState.requests empty, congrArg SliceState.markers empty, a, stands, _, q, ?_⟩
    rw [marked_eq]
    exact ⟨rfl, rfl, rfl, rfl, rfl⟩
  · next away =>
    rw [if_neg away, if_neg (by omega)] at result
    refine ⟨_, result, rfl, rfl, ?_⟩
    rw [sliceState_setSlice_self (by exact slice_sliceState _ _)]
    exact ⟨rfl, rfl⟩

end

/-! ## Chain flits (R404) -/

/-- One failure more of a lane: it is counted, and the 16th in a row is fatal. -/
theorem execFlitCrcReplay_fails (s : State) (east : Bool) (lane : Fin 24) (station : Fin 15) :
    let key := lane.val + (if east then 0 else 2 ^ 5) + station.val * 2 ^ 8
    let fails := ((s.laneFails.find? (fun p => p.1 == key)).map Prod.snd).getD 0
    let u : State := { s with laneFails := upsert Prod.fst (key, fails + 1) s.laneFails }
    exec (.flitCrcReplay east lane station true) s = if fails + 1 < 16 then .next u else .next (fatalEvent u .laneFail key) := rfl

theorem execFlitCrcReplay_replays (s : State) (east : Bool) (lane : Fin 24) (station : Fin 15) :
    let key := lane.val + (if east then 0 else 2 ^ 5) + station.val * 2 ^ 8
    let fails := ((s.laneFails.find? (fun p => p.1 == key)).map Prod.snd).getD 0
    exec (.flitCrcReplay east lane station false) s = .next { s with laneFails := s.laneFails.filter (fun p => p.1 != key) } ∧
    (fails < 15 → ∃ t, exec (.flitCrcReplay east lane station true) s = .next t ∧ t.fatal = s.fatal ∧ (key, fails + 1) ∈ t.laneFails) ∧
    (15 ≤ fails → ∃ t, exec (.flitCrcReplay east lane station true) s = .next t ∧ t.fatal = some .laneFail) := by
  intro key fails
  have failed := execFlitCrcReplay_fails s east lane station
  exact ⟨rfl, fun few => ⟨_, failed.trans (if_pos (Nat.succ_lt_succ few)), rfl, mem_upsert _ _ _⟩,
    fun many => ⟨_, failed.trans (if_neg (Nat.not_lt.mpr (Nat.succ_le_succ many))), rfl⟩⟩

/-! ## The end of a self-test (R407, R408) -/

theorem coreState_setCore (s : State) (k : CoreState) (n : Nat) : (s.setCore k).coreState n = if k.core = n then k else s.coreState n := by
  have found := find?_upsert_key (key := CoreState.core) (n := n) k s.cores
  simp only [State.coreState, State.setCore, beq_eq_decide]
  rw [found]
  split <;> rfl

theorem notePassed_quarantined (s : State) (n c : Nat) : ((notePassed s n).coreState c).quarantined = (s.coreState c).quarantined := by
  unfold notePassed
  split
  · rw [coreState_setCore]
    split
    · next same => rw [show n = c from (core_coreState s n).symm.trans same]
    · rfl
  · split <;> rfl

theorem notePassed_testing (s : State) (n : Nat) : (notePassed s n).testing = s.testing ∧ (notePassed s n).mem = s.mem := by
  unfold notePassed
  split
  · exact ⟨rfl, rfl⟩
  · split <;> exact ⟨rfl, rfl⟩

/-- A core whose test ends is in service again, unless another test of it runs. -/
def backInService (s : State) (c : Fin 128) : State :=
  let rest := s.testing.filter (fun q => q.1 != .coreStore c)
  { (if rest.any (fun q => sameCore (.coreStore c) q.1) then s else setQuarantine s (.coreStore c) false) with testing := rest }

theorem backInService_quarantined (s : State) (c : Fin 128) : ((backInService s c).coreState c.val).quarantined =
    (s.testing.any (fun q => q.1 != .coreStore c && sameCore (.coreStore c) q.1) && (s.coreState c.val).quarantined) := by
  unfold backInService
  rw [← List.any_filter]
  dsimp only
  split
  · next other => rw [other, Bool.true_and]; rfl
  · next only =>
    rw [Bool.eq_false_iff.mpr only, Bool.false_and]
    exact congrArg CoreState.quarantined (coreState_setCore_self (by exact core_coreState _ _))

theorem backInService_mem (s : State) (c : Fin 128) : (backInService s c).mem = s.mem := by
  unfold backInService
  dsimp only
  split <;> rfl

theorem execSelftestComplete_ends {c : Fin 128} {n : Nat} (lasting : Bool)
    (runs : s.testing.find? (fun p => p.1 == .coreStore c) = some (.coreStore c, n)) :
    ∃ t, exec (.selftestComplete (.coreStore c) lasting) s = .next t ∧
      (t.coreState c.val).quarantined = (s.testing.any (fun q => q.1 != .coreStore c && sameCore (.coreStore c) q.1) && (s.coreState c.val).quarantined) ∧
      underTest t (.coreStore c) = false ∧ t.mem = s.mem ∧ (lasting = true → (t.coreState c.val).withdrawn = true) := by
  let v := backInService s c
  let u := if lasting then takeOut v (.coreStore c) else notePassed v n
  have result : ∃ x o, exec (.selftestComplete (.coreStore c) lasting) s = .next { u with ctx := x, others := o } := by
    rw [exec_selftestComplete, execSelftestComplete, runs]
    exact ⟨_, _, rfl⟩
  have out : (takeOut v (.coreStore c)).coreState c.val = { v.coreState c.val with withdrawn := true } :=
    coreState_setCore_self (by exact core_coreState _ _)
  have ended : underTest v (.coreStore c) = false := by simp [underTest, v, backInService]
  obtain ⟨x, o, result⟩ := result
  refine ⟨_, result, ?_, ?_, ?_, ?_⟩
  · rw [← backInService_quarantined]
    cases lasting with
    | true =>
      change ((takeOut v (.coreStore c)).coreState c.val).quarantined = (v.coreState c.val).quarantined
      rw [out]
    | false => exact notePassed_quarantined v n c.val
  · refine Eq.trans ?_ ended
    cases lasting with
    | true => rfl
    | false => exact congrArg (List.any · _) (notePassed_testing v n).1
  · refine Eq.trans ?_ (backInService_mem s c)
    cases lasting with
    | true => rfl
    | false => exact (notePassed_testing v n).2
  · rintro rfl
    exact congrArg CoreState.withdrawn out

/-! ## The events together -/

/-- Settles O55: walks, landing, votes, grants, waits, slices, windows, markers, flits and self-tests, each in turn. -/
theorem eventsOfMemory : Obligations.EventsOfMemory := by
  unfold Obligations.EventsOfMemory
  intro s
  exact ⟨fun _ _ _ _ => execPageWalkComplete_holds, execResultLand_lands s, fun _ _ _ _ => execVotePop_answers,
    fun _ _ _ chosen => execArbiterGrant_moves chosen, fun _ _ chosen => execArbiterGrant_arrives chosen, fun n => ⟨execSlackDecrement_waits s n, rfl⟩,
    fun _ _ room chosen => ⟨execSliceRequestGrant_misses room chosen, execSliceRequestGrant_follows room chosen,
      execSliceRequestGrant_serves room chosen⟩,
    fun _ => slice_backedUp, fun _ _ _ room fills => execSliceFillComplete_serves room fills, fun _ _ => execWindowAccessServe_serves,
    fun _ _ => execFenceMarkerRetire_counts, execFlitCrcReplay_replays s, fun _ lasting _ => execSelftestComplete_ends lasting⟩

end Sys2Proof.Machine
end

section
/-! SUPPORT. Scalar arithmetic of the control slice on signed and unsigned numbers (R131, R132, R134 to R140). -/

namespace Sys2Proof.Machine

/-! ## Words as signed and unsigned numbers (R134 to R138) -/

section

variable (x y : Word)

theorem add_eq_ofInt : x + y = BitVec.ofInt 64 (x.toInt + y.toInt) := by
  rw [BitVec.ofInt_add, BitVec.ofInt_toInt, BitVec.ofInt_toInt]

theorem sub_eq_ofInt : x - y = BitVec.ofInt 64 (x.toInt - y.toInt) := by
  rw [Int.sub_eq_add_neg, BitVec.ofInt_add, BitVec.ofInt_neg, BitVec.ofInt_toInt, BitVec.ofInt_toInt, BitVec.sub_eq_add_neg]

theorem mul_eq_ofInt : x * y = BitVec.ofInt 64 (x.toInt * y.toInt) := by
  rw [BitVec.ofInt_mul, BitVec.ofInt_toInt, BitVec.ofInt_toInt]

/-- A word is the unsigned number it is read as. -/
theorem ofInt_toNat : BitVec.ofInt 64 (x.toNat : Nat) = x := by simp

/-- A word that is read as this unsigned number. -/
theorem eq_ofInt_of_toNat {x : Word} {n : Nat} (h : x.toNat = n % 2 ^ 64) : x = BitVec.ofInt 64 (n : Nat) := by
  rw [BitVec.ofInt_natCast]
  exact BitVec.eq_of_toNat_eq (h.trans (BitVec.toNat_ofNat n 64).symm)

theorem and_eq_ofInt : x &&& y = BitVec.ofInt 64 (x.toNat &&& y.toNat : Nat) := by
  rw [← BitVec.toNat_and, ofInt_toNat]

theorem or_eq_ofInt : x ||| y = BitVec.ofInt 64 (x.toNat ||| y.toNat : Nat) := by
  rw [← BitVec.toNat_or, ofInt_toNat]

theorem xor_eq_ofInt : x ^^^ y = BitVec.ofInt 64 (x.toNat ^^^ y.toNat : Nat) := by
  rw [← BitVec.toNat_xor, ofInt_toNat]

theorem andn_eq_ofInt : x &&& ~~~y = BitVec.ofInt 64 (x.toNat &&& (2 ^ 64 - 1 - y.toNat) : Nat) := by
  rw [and_eq_ofInt, BitVec.toNat_not]

theorem shl_eq_ofInt (n : Nat) : x <<< n = BitVec.ofInt 64 (x.toNat * 2 ^ n : Nat) :=
  eq_ofInt_of_toNat (by rw [BitVec.toNat_shiftLeft, Nat.shiftLeft_eq])

theorem shr_eq_ofInt (n : Nat) : x >>> n = BitVec.ofInt 64 (x.toNat / 2 ^ n : Nat) :=
  eq_ofInt_of_toNat (by
    rw [BitVec.toNat_ushiftRight, Nat.shiftRight_eq_div_pow, Nat.mod_eq_of_lt (Nat.lt_of_le_of_lt (Nat.div_le_self _ _) x.isLt)])

theorem sra_eq_ofInt (n : Nat) : x.sshiftRight n = BitVec.ofInt 64 (x.toInt / 2 ^ n) := by
  rw [BitVec.sshiftRight, Int.shiftRight_eq_div_pow]
  norm_cast

/-- A word shifted left is the number it stands for times a power of two. -/
theorem shiftLeft_ofInt (a : Int) (k : Nat) : BitVec.ofInt 64 a <<< k = BitVec.ofInt 64 (a * 2 ^ k) := by
  have one : BitVec.twoPow 64 k = BitVec.ofInt 64 (2 ^ k) := by
    rw [show (2 : Int) ^ k = (2 ^ k : Nat) by norm_cast, BitVec.ofInt_natCast]
    exact BitVec.eq_of_toNat_eq (by simp)
  rw [BitVec.ofInt_mul, BitVec.shiftLeft_eq_mul_twoPow, one]

theorem addsh_eq_ofInt (k : Nat) : x + y <<< k = BitVec.ofInt 64 (x.toInt + y.toInt * 2 ^ k) := by
  rw [BitVec.ofInt_add, ← shiftLeft_ofInt, BitVec.ofInt_toInt, BitVec.ofInt_toInt]

/-- A choice between two words is the choice between what they are read as. -/
theorem ite_eq_ofInt {p q : Prop} [Decidable p] [Decidable q] {x y : Word} {v w : Int} (c : p ↔ q) (hx : x = BitVec.ofInt 64 v)
    (hy : y = BitVec.ofInt 64 w) : (if p then x else y) = BitVec.ofInt 64 (if q then v else w) := by
  by_cases h : q
  · rw [if_pos h, if_pos (c.mpr h), hx]
  · rw [if_neg h, if_neg fun k => h (c.mp k), hy]

/-- A word is zero when it is read as zero. -/
theorem eq_zero_iff_toInt : y = 0 ↔ y.toInt = 0 := by
  rw [← BitVec.toInt_inj]; rfl

theorem eq_zero_iff_toNat : y = 0 ↔ y.toNat = 0 := by
  rw [← BitVec.toNat_inj]; rfl

end

/-- The leading zeros of a number between two powers of two (R134). -/
theorem leadingZeros_of_bounds {n x : Nat} (hn : n ≤ 64) (above : x < 2 ^ (64 - n)) (below : n < 64 → 2 ^ (63 - n) ≤ x) :
    leadingZeros 64 x = n := by
  unfold leadingZeros
  rcases Nat.eq_or_lt_of_le hn with rfl | lt
  · rw [if_pos (by simpa using above)]
  · have low := below lt
    have nonzero : x ≠ 0 := by have := Nat.two_pow_pos (63 - n); omega
    have top : x.log2 = 63 - n := (Nat.log2_eq_iff nonzero).mpr ⟨low, by rwa [show 63 - n + 1 = 64 - n by omega]⟩
    rw [if_neg nonzero, top]
    omega

/-- The ones counted are the bits that are set (R134). -/
theorem popCount_eq_countP (n : Nat) : ∀ x, popCount n x = (List.range n).countP (fun i => x.testBit i) := by
  induction n with
  | zero => intro x; rfl
  | succ n ih =>
    intro x
    have rest : ((fun i => x.testBit i) ∘ Nat.succ) = fun i => (x / 2).testBit i := funext fun i => Nat.testBit_succ x i
    rw [List.range_succ_eq_map, List.countP_cons, List.countP_map, rest, ← ih, Nat.testBit_zero, popCount]
    rcases Nat.mod_two_eq_zero_or_one x with h | h <;> simp [h, Nat.add_comm]

/-- The low bits of a number read as a signed number (R7). -/
theorem wrap_natCast {v len : Nat} (pos : 0 < len) :
    Num.wrap v len = if v % 2 ^ len < 2 ^ (len - 1) then ((v % 2 ^ len : Nat) : Int) else (v % 2 ^ len : Nat) - 2 ^ len := by
  have low : Num.wrapz v len = v % 2 ^ len := by
    unfold Num.wrapz
    rw [show ((2 : Int) ^ len) = ((2 ^ len : Nat) : Int) by norm_cast, ← Int.natCast_emod, Int.toNat_natCast]
  have double : 2 ^ len = 2 * 2 ^ (len - 1) := by rw [← Nat.pow_succ', Nat.succ_eq_add_one, Nat.sub_add_cancel pos]
  unfold Num.wrap
  rw [low]
  by_cases h : v % 2 ^ len < 2 ^ (len - 1)
  · rw [if_pos h]; exact if_pos (by omega)
  · rw [if_neg h]; exact if_neg (by omega)

/-- A field of `len` bits read as a signed number (R137). -/
theorem wrap_field {f len : Nat} (pos : 0 < len) (small : f < 2 ^ len) :
    Num.wrap f len = if f < 2 ^ (len - 1) then (f : Int) else f - 2 ^ len := by
  rw [wrap_natCast pos, Nat.mod_eq_of_lt small]

/-- Putting a field of one number in the place of that of another: the bits of the field come from the one, those outside it stay (R137). -/
theorem testBit_insert (g a i : Nat) {p len : Nat} :
    (g - g / 2 ^ p % 2 ^ len * 2 ^ p + a % 2 ^ len * 2 ^ p).testBit i =
      if p ≤ i ∧ i < p + len then a.testBit (i - p) else g.testBit i := by
  have parts : g - g / 2 ^ p % 2 ^ len * 2 ^ p + a % 2 ^ len * 2 ^ p =
      2 ^ p * (2 ^ len * (g / 2 ^ p / 2 ^ len) + a % 2 ^ len) + g % 2 ^ p := by
    have outer := Nat.div_add_mod g (2 ^ p)
    have inner := Nat.div_add_mod (g / 2 ^ p) (2 ^ len)
    have split : 2 ^ p * (g / 2 ^ p) = 2 ^ p * (2 ^ len * (g / 2 ^ p / 2 ^ len)) + g / 2 ^ p % 2 ^ len * 2 ^ p := by
      conv_lhs => rw [← inner]
      rw [Nat.mul_add, Nat.mul_comm (2 ^ p) (_ % _)]
    rw [Nat.mul_add, Nat.mul_comm (2 ^ p) (a % _)]
    omega
  rw [parts, Nat.testBit_two_pow_mul_add _ (Nat.mod_lt _ (Nat.two_pow_pos p)),
    Nat.testBit_two_pow_mul_add _ (Nat.mod_lt _ (Nat.two_pow_pos len))]
  by_cases low : i < p
  · simp [low, Nat.testBit_mod_two_pow, Nat.not_le.mpr low]
  · by_cases mid : i < p + len
    · have inside : i - p < len := by omega
      simp [low, inside, mid, Nat.testBit_mod_two_pow, Nat.not_lt.mp low]
    · have past : ¬ i - p < len := by omega
      rw [if_neg low, if_neg past, if_neg (by omega), Nat.testBit_div_two_pow, Nat.testBit_div_two_pow]
      congr 1
      omega

/-- The word with a field put in place: its bits one by one (R137). -/
theorem getLsbD_insert (g a : Word) {p len i : Nat} (hp : p + len ≤ 64) (hi : i < 64) :
    (g - BitVec.ofNat 64 (wordField g p len * 2 ^ p) + BitVec.ofNat 64 (wordField a 0 len * 2 ^ p)).getLsbD i =
      if p ≤ i ∧ i < p + len then a.getLsbD (i - p) else g.getLsbD i := by
  have field (x : Nat) : x % 2 ^ len * 2 ^ p < 2 ^ 64 :=
    calc x % 2 ^ len * 2 ^ p < 2 ^ len * 2 ^ p := Nat.mul_lt_mul_of_pos_right (Nat.mod_lt _ (Nat.two_pow_pos len)) (Nat.two_pow_pos p)
      _ = 2 ^ (p + len) := by rw [Nat.add_comm, Nat.pow_add]
      _ ≤ 2 ^ 64 := Nat.pow_le_pow_right (by decide) hp
  have within : g.toNat / 2 ^ p % 2 ^ len * 2 ^ p ≤ g.toNat :=
    (Nat.mul_le_mul_right _ (Nat.mod_le _ _)).trans (Nat.div_mul_le_self _ _)
  have old := field (g.toNat / 2 ^ p)
  have new := field a.toNat
  have value : (g - BitVec.ofNat 64 (wordField g p len * 2 ^ p) + BitVec.ofNat 64 (wordField a 0 len * 2 ^ p)).toNat =
      (g.toNat - g.toNat / 2 ^ p % 2 ^ len * 2 ^ p + a.toNat % 2 ^ len * 2 ^ p) % 2 ^ 64 := by
    have hg := g.isLt
    simp only [wordField, BitVec.toNat_add, BitVec.toNat_sub, BitVec.toNat_ofNat, Nat.pow_zero, Nat.div_one]
    generalize g.toNat / 2 ^ p % 2 ^ len * 2 ^ p = x at *
    generalize a.toNat % 2 ^ len * 2 ^ p = z at *
    omega
  rw [BitVec.getLsbD, value, Nat.testBit_mod_two_pow, decide_eq_true hi, Bool.true_and, testBit_insert]
  rfl

/-- A constant above 20 bits that are kept is a number of 40 bits (R138). -/
theorem lih_eq_ofInt (i : BitVec 20) (r : Nat) :
    (i.signExtend 64) <<< 20 + BitVec.ofNat 64 r = BitVec.ofInt 64 (i.toInt * 2 ^ 20 + r) := by
  rw [BitVec.ofInt_add, ← shiftLeft_ofInt, BitVec.ofInt_natCast]
  rfl

/-- Its low 20 bits are those that are kept, and the bits above them the constant (R138). -/
theorem lih_parts (i : BitVec 20) {r : Nat} (hr : r < 2 ^ 20) :
    (BitVec.ofInt 64 (i.toInt * 2 ^ 20 + r)).toNat % 2 ^ 20 = r ∧ (BitVec.ofInt 64 (i.toInt * 2 ^ 20 + r)).toInt / 2 ^ 20 = i.toInt := by
  have below := i.toInt_lt
  have above := i.le_toInt
  refine ⟨?_, ?_⟩
  · rw [BitVec.toNat_ofInt]
    omega
  · rw [BitVec.toInt_ofInt_eq_self (by decide) (by omega) (by omega)]
    omega

/-! ## The register group (R134, R135) -/

section

variable {s : State} {d a b : Fin 32} {i : Instr}

/-- An instruction that writes gd, all its registers being ready. -/
theorem aluOp_completes {srcs : List (Fin 32)} {f : Context → Word} {w : Word} (he : exec i s = aluOp s d srcs f) (h : ControlReady s srcs [])
    (hw : f s.ctx = w) : Completes i .control s (s.mod (Context.setG d w)) := by
  rw [← hw]
  exact issueC_completes he h

end

theorem slt_eq_ofInt (x y : Word) : boolWord (x.slt y) = BitVec.ofInt 64 (if x.toInt < y.toInt then 1 else 0) :=
  ite_eq_ofInt BitVec.slt_iff_toInt_lt rfl rfl

theorem sltu_eq_ofInt (x y : Word) : boolWord (x.ult y) = BitVec.ofInt 64 (if x.toNat < y.toNat then 1 else 0) :=
  ite_eq_ofInt BitVec.ult_iff_toNat_lt rfl rfl

theorem min_eq_ofInt (x y : Word) : (if x.slt y then x else y) = BitVec.ofInt 64 (min x.toInt y.toInt) := by
  rw [min_def_lt]
  exact ite_eq_ofInt BitVec.slt_iff_toInt_lt BitVec.ofInt_toInt.symm BitVec.ofInt_toInt.symm

theorem max_eq_ofInt (x y : Word) : (if x.slt y then y else x) = BitVec.ofInt 64 (max x.toInt y.toInt) := by
  rw [max_def_lt]
  exact ite_eq_ofInt BitVec.slt_iff_toInt_lt BitVec.ofInt_toInt.symm BitVec.ofInt_toInt.symm

theorem minu_eq_ofInt (x y : Word) : (if x.ult y then x else y) = BitVec.ofInt 64 (min x.toNat y.toNat : Nat) := by
  rw [min_def_lt, Nat.cast_ite]
  exact ite_eq_ofInt BitVec.ult_iff_toNat_lt (ofInt_toNat x).symm (ofInt_toNat y).symm

theorem maxu_eq_ofInt (x y : Word) : (if x.ult y then y else x) = BitVec.ofInt 64 (max x.toNat y.toNat : Nat) := by
  rw [max_def_lt, Nat.cast_ite]
  exact ite_eq_ofInt BitVec.ult_iff_toNat_lt (ofInt_toNat y).symm (ofInt_toNat x).symm

/-- Settles O4: each instruction writes the number that its operands, read as numbers, give. -/
theorem scalarBinary : Obligations.ScalarBinary := by
  intro s d a b h
  exact ⟨aluOp_completes (exec_add d a b s) h (add_eq_ofInt _ _), aluOp_completes (exec_sub d a b s) h (sub_eq_ofInt _ _),
    aluOp_completes (exec_and d a b s) h (and_eq_ofInt _ _), aluOp_completes (exec_or d a b s) h (or_eq_ofInt _ _),
    aluOp_completes (exec_xor d a b s) h (xor_eq_ofInt _ _), aluOp_completes (exec_andn d a b s) h (andn_eq_ofInt _ _),
    aluOp_completes (exec_shl d a b s) h (shl_eq_ofInt _ _), aluOp_completes (exec_shr d a b s) h (shr_eq_ofInt _ _),
    aluOp_completes (exec_sra d a b s) h (sra_eq_ofInt _ _), aluOp_completes (exec_slt d a b s) h (slt_eq_ofInt _ _),
    aluOp_completes (exec_sltu d a b s) h (sltu_eq_ofInt _ _), aluOp_completes (exec_min d a b s) h (min_eq_ofInt _ _),
    aluOp_completes (exec_minu d a b s) h (minu_eq_ofInt _ _), aluOp_completes (exec_max d a b s) h (max_eq_ofInt _ _),
    aluOp_completes (exec_maxu d a b s) h (maxu_eq_ofInt _ _),
    fun k => aluOp_completes (exec_addsh d a b k s) h (addsh_eq_ofInt _ _ _)⟩

theorem divSigned_eq_ofInt (x y : Word) : divSigned x y = BitVec.ofInt 64 (if y.toInt = 0 then -1 else x.toInt.tdiv y.toInt) :=
  ite_eq_ofInt (eq_zero_iff_toInt y) rfl rfl

theorem remSigned_eq_ofInt (x y : Word) :
    remSigned x y = BitVec.ofInt 64 (if y.toInt = 0 then x.toInt else x.toInt - x.toInt.tdiv y.toInt * y.toInt) :=
  ite_eq_ofInt (eq_zero_iff_toInt y) BitVec.ofInt_toInt.symm (by rw [Int.tmod_def, Int.mul_comm])

theorem divUnsigned_eq_ofInt (x y : Word) :
    divUnsigned x y = BitVec.ofInt 64 (if y.toNat = 0 then 2 ^ 64 - 1 else (x.toNat / y.toNat : Nat)) :=
  ite_eq_ofInt (eq_zero_iff_toNat y) rfl (BitVec.ofInt_natCast 64 _).symm

theorem remUnsigned_eq_ofInt (x y : Word) :
    remUnsigned x y = BitVec.ofInt 64 (if y.toNat = 0 then x.toNat else (x.toNat - x.toNat / y.toNat * y.toNat : Nat)) :=
  ite_eq_ofInt (eq_zero_iff_toNat y) (ofInt_toNat x).symm (by rw [← Nat.mod_eq_sub_div_mul, BitVec.ofInt_natCast])

/-- Settles O5: products, and quotients by the cases of their divisor; the smallest number divided by −1 wraps to itself. -/
theorem scalarProductsAndQuotients : Obligations.ScalarProductsAndQuotients := by
  intro s d a b h
  refine ⟨aluOp_completes (exec_mul d a b s) h (mul_eq_ofInt _ _), aluOp_completes (exec_mulh d a b s) h rfl,
    aluOp_completes (exec_mulhu d a b s) h (BitVec.ofInt_natCast 64 _).symm, aluOp_completes (exec_div d a b s) h (divSigned_eq_ofInt _ _),
    aluOp_completes (exec_rem d a b s) h (remSigned_eq_ofInt _ _), aluOp_completes (exec_divu d a b s) h (divUnsigned_eq_ofInt _ _),
    aluOp_completes (exec_remu d a b s) h (remUnsigned_eq_ofInt _ _), fun hx hy =>
    ⟨aluOp_completes (exec_div d a b s) h ((divSigned_eq_ofInt _ _).trans ?_),
     aluOp_completes (exec_rem d a b s) h ((remSigned_eq_ofInt _ _).trans ?_)⟩⟩
  · rw [hx, hy]; decide
  · rw [hx, hy]; decide

/-- Settles O6: the leading zeros by the bounds, the ones by the count of the bits, SEL as it stands. -/
theorem scalarCountsAndSelect : Obligations.ScalarCountsAndSelect := by
  exact ⟨fun s d a n h hn above below => aluOp_completes (exec_clz d a s) h (congrArg (BitVec.ofNat 64) (leadingZeros_of_bounds hn above below)),
    fun s d a h => aluOp_completes (exec_popc d a s) h (congrArg (BitVec.ofNat 64) (popCount_eq_countP 64 _)),
    fun s d a b c h => issueC_completes (exec_sel d a b c s) h⟩

/-! ## Immediates, fields and constants (R136 to R138) -/

theorem toInt_signExtend_imm (i : BitVec 15) : (i.signExtend 64).toInt = i.toInt := BitVec.toInt_signExtend_of_le (by decide)

theorem toNat_signExtend_imm (i : BitVec 15) : (i.signExtend 64).toNat = (i.toInt % 2 ^ 64).toNat := BitVec.toNat_ofInt _

/-- Settles O7: the register group's numbers, on the immediate as a word. -/
theorem scalarImmediates : Obligations.ScalarImmediates := by
  intro s d a h
  refine ⟨fun i => ?_, fun n => ⟨aluOp_completes (exec_shli d a n s) h (shl_eq_ofInt _ _), aluOp_completes (exec_shri d a n s) h (shr_eq_ofInt _ _),
    aluOp_completes (exec_srai d a n s) h (sra_eq_ofInt _ _)⟩⟩
  dsimp only
  rw [← toNat_signExtend_imm, ← toInt_signExtend_imm]
  exact ⟨aluOp_completes (exec_addi d a i s) h (add_eq_ofInt _ _), aluOp_completes (exec_andi d a i s) h (and_eq_ofInt _ _),
    aluOp_completes (exec_ori d a i s) h (or_eq_ofInt _ _), aluOp_completes (exec_xori d a i s) h (xor_eq_ofInt _ _)⟩

/-- Settles O8: a field inside the word is read or put in place, one that passes bit 63 traps, and constants are numbers of 20 and 40 bits. -/
theorem bitFieldsAndConstants : Obligations.BitFieldsAndConstants := by
  refine ⟨fun s d a l p h => ?_, fun s d i h => aluOp_completes (exec_li d i s) h rfl, fun s d i h => ?_⟩
  · dsimp only
    split
    · next inside =>
      have goes (k : Result) : orTrap s .control (decide (64 < p.val + l.val + 1)) .illegal k = k :=
        orTrap_false _ _ _ _ (decide_eq_false (by omega))
      refine ⟨aluOp_completes ((exec_bfx d a l p s).trans (goes _)) h rfl, aluOp_completes ((exec_bfxSx d a l p s).trans (goes _)) h ?_, fun free =>
        ⟨_, aluOp_completes ((exec_bfi d a l p s).trans (goes _)) ⟨h.1, h.2.1, h.2.2.1, h.2.2.2.1, ?_, nofun⟩ rfl, fun i hi =>
          getLsbD_insert _ _ inside hi⟩⟩
      · exact congrArg (BitVec.ofInt 64) (wrap_field (Nat.succ_pos _) (Nat.mod_lt _ (Nat.two_pow_pos _)))
      · have ready := h.2.2.2.2.1 a List.mem_cons_self
        simp [free, ready]
    · next past =>
      have traps (k : Result) : orTrap s .control (decide (64 < p.val + l.val + 1)) .illegal k = .next (trapSync s .control .illegal) := by
        rw [decide_eq_true (by omega)]
        exact h.orTrap_illegal k
      simp only [List.forall_mem_cons, List.not_mem_nil, false_implies, implies_true, and_true]
      exact ⟨(exec_bfx d a l p s).trans (traps _), (exec_bfxSx d a l p s).trans (traps _), (exec_bfi d a l p s).trans (traps _)⟩
  · exact ⟨_, aluOp_completes (exec_lih d i s) h (lih_eq_ofInt i _), lih_parts i (Nat.mod_lt _ (Nat.two_pow_pos 20))⟩

/-! ## Conditions and branch targets (R139, R140) -/

theorem condHolds_eq (x y : Word) : condHolds .eq x y = decide (x.toNat = y.toNat) := by
  rw [Bool.eq_iff_iff, decide_eq_true_iff, BitVec.toNat_inj]; exact beq_iff_eq

theorem condHolds_ne (x y : Word) : condHolds .ne x y = decide (x.toNat ≠ y.toNat) := by
  rw [Bool.eq_iff_iff, decide_eq_true_iff, ne_eq, BitVec.toNat_inj]; exact bne_iff_ne

theorem condHolds_lt (x y : Word) : condHolds .lt x y = decide (x.toInt < y.toInt) := rfl

theorem condHolds_ge (x y : Word) : condHolds .ge x y = decide (y.toInt ≤ x.toInt) := by
  rw [Bool.eq_iff_iff, decide_eq_true_iff, ← Int.not_lt, ← BitVec.slt_iff_toInt_lt]; simp [condHolds]

theorem condHolds_ltu (x y : Word) : condHolds .ltu x y = decide (x.toNat < y.toNat) := rfl

theorem condHolds_geu (x y : Word) : condHolds .geu x y = decide (y.toNat ≤ x.toNat) := by
  rw [Bool.eq_iff_iff, decide_eq_true_iff, ← Nat.not_lt, ← BitVec.ult_iff_toNat_lt]; simp [condHolds]

/-- The address of a label (R140). -/
theorem label_eq_ofInt (x : Word) (o : BitVec 23) : x + (o.signExtend 64) <<< 2 = BitVec.ofInt 64 (x.toNat + 4 * o.toInt) := by
  rw [BitVec.ofInt_add, ofInt_toNat, Int.mul_comm]
  exact congrArg (x + ·) (shiftLeft_ofInt o.toInt 2)

/-- Settles O9: the conditions on the words are those on the numbers; PBR and PBRG as they stand. -/
theorem comparisonsAndTargets : Obligations.ComparisonsAndTargets := by
  refine ⟨fun s c a b imm h => ?_, fun s b a o h => ⟨?_, issueC_completes (exec_pbrg b a s) h⟩⟩
  · intro x ux sets holds k
    have agree (y : Word) : condHolds k (s.ctx.getG a) y = holds k y.toInt y.toNat := by
      cases k
      · exact condHolds_eq _ y
      · exact condHolds_ne _ y
      · exact condHolds_lt _ y
      · exact condHolds_ge _ y
      · exact condHolds_ltu _ y
      · exact condHolds_geu _ y
    rw [← toNat_signExtend_imm, ← toInt_signExtend_imm, ← agree, ← agree]
    exact ⟨issueC_completes (exec_cmp c a b k s) h, issueC_completes (exec_cmpImm k c a imm s) (h.mono (by simp) fun _ m => m)⟩
  · rw [← label_eq_ofInt]
    exact issueC_completes (exec_pbr b o s) (h.mono nofun nofun)

/-! ## Registers (R131, R132) -/

/-- Settles O10. -/
theorem registerZero : Obligations.RegisterZero := by
  intro c r x v
  refine ⟨c.getG_zero, if_pos rfl, fun h => ?_, fun h => ?_⟩
  · rw [Context.getG_setG, if_pos ⟨rfl, fun k => h (Fin.ext k)⟩]
  · rw [Context.getG_setG, if_neg fun k => h k.1]

/-- An instruction that reads a register which is owed waits (R131). -/
theorem issueC_waits {s : State} {gs : List (Fin 32)} {r : Fin 32} (hr : r ∈ gs) (owed : s.ctx.pendingG r = true) (len : Nat)
    (act : State → State) : issueC s gs [] len act = .next s := by
  have stalled : stalledC s gs [] = true := by
    have some_owed : gs.any s.ctx.pendingG = true := List.any_eq_true.mpr ⟨r, hr, owed⟩
    simp [stalledC, some_owed]
  simp [issueC, stalled]

/-- Nothing owes a register that has just been written (R131). -/
theorem Context.pendingG_setG (r : Fin 32) (v : Word) (c : Context) (h : r ≠ 0) : (c.setG r v).pendingG r = false := by
  have hr : r.val ≠ 0 := fun k => h (Fin.ext k)
  rw [Context.setG_eq r v c hr, Context.pendingG, List.any_map, Bool.and_eq_false_iff]
  refine .inr (List.any_eq_false.mpr fun a _ => ?_)
  by_cases k : a.kind.writesG = true ∧ a.dest = r
  · simp [Access.supersede, k, h.symm]
  · rw [Function.comp_apply, Access.supersede_other r a k]
    simpa using k

theorem Passed.pendingG {side : Slice} {s t : State} (h : Passed side s t) (r : Fin 32) : t.ctx.pendingG r = s.ctx.pendingG r := by
  rw [Context.pendingG, h.accesses]; rfl

theorem Passed.getG {side : Slice} {s t : State} (h : Passed side s t) (r : Fin 32) : t.ctx.getG r = s.ctx.getG r := by
  rw [Context.getG, h.g]; rfl

/-- Settles O11: readers of a register that is owed wait, and its writer does not. -/
theorem scalarWaits : Obligations.ScalarWaits := by
  refine ⟨fun s d a b r o _ _ owed => ⟨fun hr => ?_, ?_⟩, fun s d a b h hd _ => ?_⟩
  · have waits {i : Instr} {f : Context → Word} (he : exec i s = aluOp s d [a, b] f) : exec i s = .next s :=
      he.trans (issueC_waits hr owed 4 _)
    simp only [List.forall_mem_cons, List.not_mem_nil, false_implies, implies_true, and_true]
    exact ⟨waits (exec_add d a b s), waits (exec_sub d a b s), waits (exec_mul d a b s), waits (exec_div d a b s), waits (exec_shl d a b s),
      waits (exec_sltu d a b s)⟩
  · rintro rfl
    have waits {i : Instr} {f : Context → Word} (he : exec i s = aluOp s d [r] f) : exec i s = .next s :=
      he.trans (issueC_waits List.mem_cons_self owed 4 _)
    refine ⟨waits (exec_addi d r o s), waits (exec_clz d r s), (exec_pushc r s).trans (ite_eq_left_iff.mpr fun _ => ?_)⟩
    exact issueC_waits List.mem_cons_self owed 4 _
  · obtain ⟨t, ht, passed⟩ := aluOp_completes (exec_add d a b s) h rfl
    refine ⟨t, ht, ?_, ?_⟩
    · rw [passed.pendingG]; exact Context.pendingG_setG d _ _ hd
    · rw [passed.getG]
      exact (Context.getG_setG d d _ _).trans (if_pos ⟨rfl, fun k => hd (Fin.ext k)⟩)

end Sys2Proof.Machine
end

section
/-! SUPPORT. Where a slice goes on: its stream depends on no register of the context in focus (R62, R104), and how `stepSequence`, `advance` and
`retire` place it (R106, R110, R146). -/

namespace Sys2Proof.Machine

/-! ## What a slice's stream depends on -/

/-- A walk depends on the table entries and on memory alone. (The definitions are unfolded as functions: to check their equations at arguments, the
kernel would read an entry at an address it does not know.) -/
theorem walkLast_congr {s t : State} (entries : tableEntry t = tableEntry s) (mem : t.mem = s.mem) : walkLast t = walkLast s := by
  have unfolded : walkLast = walkLast := rfl
  conv at unfolded => rhs; delta walkLast
  rw [unfolded]
  beta_reduce
  rw [entries, mem]

theorem walkFrom_congr {s t : State} (entries : tableEntry t = tableEntry s) (mem : t.mem = s.mem) : walkFrom t = walkFrom s := by
  have unfolded : walkFrom = walkFrom := rfl
  conv at unfolded => rhs; delta walkFrom walkFrom._f
  rw [unfolded]
  beta_reduce
  rw [entries, walkLast_congr entries mem]

/-- t agrees with s in all that a slice's stream depends on (R62, R104, R240): the unit and where it stands, memory and its translations, and what
its launch slot copied. -/
structure SameCode (s t : State) : Prop where
  self : t.self = s.self
  mem : t.mem = s.mem
  tlb : t.tlb = s.tlb
  walks : t.walks = s.walks
  spaces : t.spaces = s.spaces
  slots : t.slots = s.slots
  hk : t.hk = s.hk
  info : t.ctx.info = s.ctx.info
  home : t.ctx.home = s.ctx.home

namespace SameCode

variable {s t : State} (h : SameCode s t)
include h

theorem regionOf (pa : Nat) : regionOf t pa = regionOf s pa := by
  unfold Machine.regionOf
  rw [h.hk]

theorem tableEntry (a : Nat) : tableEntry t a = tableEntry s a := by
  unfold Machine.tableEntry isDram
  rw [h.regionOf, h.mem]

theorem tlbPlaces : tlbPlaces t = tlbPlaces s := by
  unfold Machine.tlbPlaces
  rw [h.self, h.home]

theorem walkAt (place : Nat) (asid : BitVec 16) (va : Nat) : walkAt t place asid va = walkAt s place asid va := by
  have desc : descOf t asid = descOf s asid := by
    unfold descOf readDesc
    rw [h.spaces, h.hk, h.mem]
  have start (strip root : Nat) : walkStart t strip asid va root = walkStart s strip asid va root := by
    unfold walkStart
    rw [h.walks]
  unfold Machine.walkAt
  rw [desc, walkFrom_congr (funext h.tableEntry) h.mem]
  simp only [start]

theorem resolve (asid : BitVec 16) (va : Nat) : resolve t asid va = resolve s asid va := by
  unfold Machine.resolve resolveAt heldAt
  rw [h.tlb, h.tlbPlaces, h.walkAt]

theorem placeOf (a : PageAttr) (va : Nat) : placeOf t a va = placeOf s a va := by
  unfold Machine.placeOf
  rw [h.self, h.home]
  simp only [h.regionOf]

theorem codeWord (a : Nat) : codeWord t a = codeWord s a := by
  have copied : copiedWord t a = copiedWord s a := by
    unfold copiedWord Context.codeBase
    rw [h.slots, h.info, h.self]
  have fetched (va pa : Nat) : fetchedWord t va pa = fetchedWord s va pa := by
    unfold fetchedWord
    rw [h.slots, h.info, h.self, h.mem]
  unfold Machine.codeWord
  rw [h.info, h.resolve, copied]
  simp only [h.placeOf, fetched]

theorem lengthAt (a : Nat) : lengthAt t a = lengthAt s a := by
  unfold Machine.lengthAt
  rw [h.codeWord]

theorem afterSlots (a : Nat) : afterSlots t a = afterSlots s a := by
  unfold Machine.afterSlots
  simp only [h.lengthAt]

theorem codeEnd : t.ctx.codeEnd = s.ctx.codeEnd := by
  unfold Context.codeEnd Context.codeBase
  rw [h.info]

theorem scanFrom (side : Slice) (n : Nat) : ∀ a, scanFrom t side n a = scanFrom s side n a := by
  induction n with
  | zero => intro a; rfl
  | succ n ih => intro a; unfold Machine.scanFrom; rw [h.codeEnd, h.codeWord]; simp only [ih]

/-- The first word of a slice's stream at or after an address is the same. -/
theorem nextOf (side : Slice) (a : Nat) : nextOf t side a = nextOf s side a := by
  unfold Machine.nextOf
  rw [h.codeEnd, h.scanFrom]

end SameCode

/-- A change of the context in focus that leaves its unit and its home alone leaves its stream alone. -/
theorem SameCode.mod {s : State} {f : Context → Context} (info : (f s.ctx).info = s.ctx.info) (home : (f s.ctx).home = s.ctx.home) :
    SameCode s (s.mod f) :=
  ⟨rfl, rfl, rfl, rfl, rfl, rfl, rfl, info, home⟩

theorem SameCode.trans {s t u : State} (h : SameCode s t) (k : SameCode t u) : SameCode s u :=
  ⟨k.self.trans h.self, k.mem.trans h.mem, k.tlb.trans h.tlb, k.walks.trans h.walks, k.spaces.trans h.spaces, k.slots.trans h.slots,
    k.hk.trans h.hk, k.info.trans h.info, k.home.trans h.home⟩

theorem Landed.sameCode {s t : State} (h : Landed s t) : SameCode s t := by
  have info : t.ctx.info = s.ctx.info := by have k := congrArg Context.info h.2.1; exact k
  have home : t.ctx.home = s.ctx.home := by have k := congrArg Context.home h.2.1; exact k
  rw [h.1]
  exact ⟨rfl, rfl, rfl, rfl, rfl, rfl, rfl, info, home⟩

/-! ## Fields of a slice -/

namespace Context

variable (side x : Slice) (v : Word) (l : LoopLevel) (r : LoopRegs) (c : Context)

@[simp] theorem pc_setPc : (c.setPc side v).pc side = v := by cases side <;> rfl
@[simp] theorem pc_setRedir (q : Option Redirect) : (c.setRedir side q).pc x = c.pc x := by cases side <;> cases x <;> rfl
@[simp] theorem pc_commonPoint : (c.commonPoint side v).pc x = c.pc x := by cases side <;> cases x <;> rfl
@[simp] theorem pc_logIssue : (c.logIssue side v).pc x = c.pc x := by cases side <;> cases x <;> rfl
@[simp] theorem pc_setLevel : (c.setLevel side l r).pc x = c.pc x := by cases side <;> cases l <;> cases x <;> rfl

@[simp] theorem redir_setPc : (c.setPc side v).redir x = c.redir x := by cases side <;> cases x <;> rfl
@[simp] theorem redir_setRedir (q : Option Redirect) : (c.setRedir side q).redir side = q := by cases side <;> rfl
@[simp] theorem redir_commonPoint : (c.commonPoint side v).redir x = c.redir x := by cases side <;> cases x <;> rfl
@[simp] theorem redir_setLevel : (c.setLevel side l r).redir x = c.redir x := by cases side <;> cases l <;> cases x <;> rfl

@[simp] theorem level_setPc : (c.setPc side v).level x l = c.level x l := by cases side <;> cases l <;> cases x <;> rfl
@[simp] theorem level_logIssue : (c.logIssue side v).level x l = c.level x l := by cases side <;> cases l <;> cases x <;> rfl
@[simp] theorem level_setLevel : (c.setLevel side l r).level side l = r := by cases side <;> cases l <;> rfl
@[simp] theorem level_setLevel_A : (c.setLevel side .A r).level side .B = c.level side .B := by cases side <;> rfl
@[simp] theorem level_setLevel_B : (c.setLevel side .B r).level side .A = c.level side .A := by cases side <;> rfl

end Context

/-! ## A step in sequence (R146) -/

variable {s : State} {side : Slice} {i j len : Nat} {r : Redirect}

/-- A body that starts past the address a step leaves is not at its end. -/
theorem endCheck_before {q : LoopRegs} (before : i < q.actStart.toNat) : endCheck q i j = (q, none) :=
  if_neg (by simp [Nat.not_le.mpr before])

/-- A step in sequence leaves a pending redirection as it is. -/
theorem stepSequence_redir (x : Slice) : (stepSequence s side i j).ctx.redir x = s.ctx.redir x := by
  unfold stepSequence
  rcases emptyBody s side (endCheck (s.ctx.levelB side) i j) with ⟨rb, _ | t⟩
  · simp
  · simp

/-- A step in sequence leaves a level alone whose body starts past the address it leaves. -/
theorem stepSequence_level {v : LoopLevel} (before : i < (s.ctx.level side v).actStart.toNat) :
    (stepSequence s side i j).ctx.level side v = s.ctx.level side v := by
  unfold stepSequence
  cases v with
  | A =>
    have whole : emptyBody s side (endCheck (s.ctx.levelA side) i j) = (s.ctx.levelA side, none) := congrArg _ (endCheck_before before)
    rcases emptyBody s side (endCheck (s.ctx.levelB side) i j) with ⟨rb, _ | t⟩
    · simp [whole]; rfl
    · simp
  | B =>
    have whole : emptyBody s side (endCheck (s.ctx.levelB side) i j) = (s.ctx.levelB side, none) := congrArg _ (endCheck_before before)
    simp [whole]; rfl

/-! ## Past the delay slots (R106, R110) -/

section

variable (pending : s.ctx.redir side = some r) (free : side = .control → s.ctx.unresolved = none)
include pending free

/-- While a delay slot is still to come the slice goes on in sequence. -/
theorem advance_inSlots (before : nextOf s side ((s.ctx.pc side).toNat + len) < r.after.toNat) :
    advance s side len = stepSequence s side (s.ctx.pc side).toNat (nextOf s side ((s.ctx.pc side).toNat + len)) := by
  unfold advance
  extract_lets i j hold u
  have goes : hold = false := by cases side <;> simp [hold, free]
  rw [if_neg (Bool.not_eq_true _ ▸ goes), pending]
  exact if_neg (Nat.not_le.mpr before)

/-- Behind the last slot of a taken transfer the slice goes to its target. -/
theorem advance_jumps (known : side = .control → s.ctx.prediction = none) (done : r.after.toNat ≤ nextOf s side ((s.ctx.pc side).toNat + len))
    (taken : r.taken = true) : advance s side len = jumpTo s side r.target := by
  unfold advance
  extract_lets i j hold u
  have goes : hold = false := by cases side <;> simp [hold, free]
  rw [if_neg (Bool.not_eq_true _ ▸ goes), pending]
  dsimp only
  rw [if_pos done, if_neg (fun k => by simp [known k.1] at k), if_pos taken]

end

/-- Where the target of a taken transfer places the slice. -/
theorem jumpTo_places (s : State) (side : Slice) (v : Word) : (jumpTo s side v).ctx.redir side = none ∧
    (jumpTo s side v).ctx.pc side = BitVec.ofNat 64 (nextOf s side v.toNat) := by
  simp [jumpTo, goTo]

/-- The same for the path of a prediction, on which the run-ahead begins. -/
theorem goTo_places (s : State) (side : Slice) (v : Word) : (goTo s side v).ctx.redir side = none ∧
    (goTo s side v).ctx.pc side = BitVec.ofNat 64 (nextOf s side v.toNat) := by
  simp [goTo]

/-- Behind the last slot of a predicted branch the slice goes the predicted way, and no redirection is pending any more (R153). -/
theorem advance_predicted (pending : s.ctx.redir .control = some r) (free : s.ctx.unresolved = none) (opened : s.ctx.prediction.isSome = true)
    (done : r.after.toNat ≤ nextOf s .control (s.ctx.pcc.toNat + len)) :
    (advance s .control len).ctx.redirC = none ∧
      (r.taken = true → (advance s .control len).ctx.pcc = BitVec.ofNat 64 (nextOf s .control r.target.toNat)) := by
  unfold advance
  extract_lets i j hold u
  have goes : hold = false := by simp [hold, free]
  have code : SameCode s u := .mod rfl rfl
  have passed : r.after.toNat ≤ j := done
  rw [if_neg (Bool.not_eq_true _ ▸ goes), pending]
  dsimp only
  rw [if_pos passed, if_pos ⟨rfl, opened⟩]
  split
  · next taken =>
    obtain ⟨redir, pc⟩ := goTo_places u .control r.target
    exact ⟨redir, fun _ => pc.trans (by rw [code.nextOf])⟩
  · next straight =>
    exact ⟨stepSequence_redir .control, fun k => absurd k straight⟩

/-! ## Retiring a transfer (R106, R141, R440) -/

/-- What logging a both-slice word leaves to the slice's move. -/
theorem retire_both (s : State) (side : Slice) (len : Nat) :
    retire s side len true = advance (s.mod (Context.commonPoint side (s.ctx.pc side))) side len := rfl

theorem commonPoint_sameCode (s : State) (side : Slice) (v : Word) : SameCode s (s.mod (Context.commonPoint side v)) := by
  cases side <;> exact .mod rfl rfl

section

variable (pending : s.ctx.redir side = some r) (free : side = .control → s.ctx.unresolved = none)
include pending free

/-- The redirection stays pending while a slot is still to come. -/
theorem retire_both_inSlots (before : nextOf s side ((s.ctx.pc side).toNat + 4) < r.after.toNat) :
    (retire s side 4 true).ctx.redir side = some r := by
  have code := commonPoint_sameCode s side (s.ctx.pc side)
  rw [retire_both, advance_inSlots (r := r) (by simpa using pending) (fun k => by subst k; exact free rfl) (by simpa [code.nextOf] using before),
    stepSequence_redir]
  simpa using pending

/-- With no slot to come the slice stands at the target. -/
theorem retire_both_jumps (known : side = .control → s.ctx.prediction = none) (done : r.after.toNat ≤ nextOf s side ((s.ctx.pc side).toNat + 4))
    (taken : r.taken = true) : (retire s side 4 true).ctx.redir side = none ∧
      (retire s side 4 true).ctx.pc side = BitVec.ofNat 64 (nextOf s side r.target.toNat) := by
  have code := commonPoint_sameCode s side (s.ctx.pc side)
  rw [retire_both, advance_jumps (r := r) (by simpa using pending) (fun k => by subst k; exact free rfl) (fun k => by subst k; exact known rfl)
    (by simpa [code.nextOf] using done) taken, ← code.nextOf]
  exact jumpTo_places _ _ _

end

end Sys2Proof.Machine
end

section
/-! SUPPORT. Control transfers: in the control slice with their outcome known or predicted, and in the execute slice (R105, R106, R141, R142,
R152). -/

namespace Sys2Proof.Machine

variable {s : State} {gs : List (Fin 32)} {cs : List (Fin 4)} {b c : Fin 4} {a : Fin 32} {sense : Bool}

/-! ## Words of both slices -/

theorem bothSlices_control (h : s.side = .control) (k l : Result) : bothSlices s k l = k := by
  simp [bothSlices, h]

theorem bothSlices_execute (h : s.side = .execute) (k l : Result) : bothSlices s k l = l := by
  simp [bothSlices, h]

/-- What holds of a branch under each hint holds of the three forms of BR. -/
theorem forall_branches {p : Instr → Prop} (h : ∀ i hint, (∀ s, exec i s = bothSlices s (branchC s b c sense hint) (transferX s)) → p i) :
    ∀ i ∈ [Instr.br b c sense, .brPn b c sense, .brPt b c sense], p i := by
  simp only [List.forall_mem_cons, List.not_mem_nil, false_implies, implies_true, and_true]
  exact ⟨h _ none fun s => exec_br b c sense s, h _ (some false) fun s => exec_brPn b c sense s, h _ (some true) fun s => exec_brPt b c sense s⟩

/-- In the execute slice every transfer follows bq. -/
theorem exec_transferX (h : s.side = .execute) :
    ∀ i ∈ [Instr.br b c sense, .brPn b c sense, .brPt b c sense, .jmp b, .call b a, .ret a], exec i s = transferX s := by
  have follows {i : Instr} {k : Result} (e : exec i s = bothSlices s k (transferX s)) : exec i s = transferX s :=
    e.trans (bothSlices_execute h _ _)
  simp only [List.forall_mem_cons, List.not_mem_nil, false_implies, implies_true, and_true]
  exact ⟨follows (exec_br b c sense s), follows (exec_brPn b c sense s), follows (exec_brPt b c sense s), follows (exec_jmp b s),
    follows (exec_call b a s), follows (exec_ret a s)⟩

/-! ## In the control slice, the outcome known (R141) -/

/-- Where its slots stay in the bodies of the execute slice's loops a transfer goes on. -/
theorem SlotsStay.orMeet (stay : SlotsStay s) (k : Result) : orMeet s k = k := by
  unfold Machine.orMeet
  by_cases meets : meetsExecute s = true
  · obtain ⟨same, inside⟩ := stay meets
    simp [same, inside]
  · simp [meets]

/-- The transfer is pushed to bq, and nothing else has changed: what `pushTransfer` leaves but for the redirection. -/
def queued (s : State) (taken : Bool) (target : Word) : State :=
  s.mod (fun k => { k with bq := k.bq ++ [⟨k.pcc, taken, if taken then target else 0, false⟩] })

/-- The link register of a CALL receives the address after the second slot; other transfers have none. -/
def linked (s u : State) (link : Option (Fin 32)) : State :=
  link.elim u (fun r => u.mod (Context.setG r (BitVec.ofNat 64 (afterSlots s s.ctx.pcc.toNat))))

/-- A transfer that is ready and whose slots leave no body checks its target, then bq's room. -/
theorem transferC_ready (h : ControlReady s gs cs) (slots : badTransfer s .control = false) (stay : SlotsStay s) (taken : State → Bool)
    (target : State → Word) (link : Option (Fin 32)) :
    transferC s gs cs taken target link =
      if (taken s && outsideCode s.ctx (target s).toNat) = true then .next (trapSync s .control .illegal)
      else if (taken s && (target s).toNat % 4 != 0) = true then .next (trapSync s .control .align)
      else if bqCap ≤ s.ctx.bq.length then .next s
      else .next (retire (linked s (pushTransfer s (taken s) (target s) false) link) .control 4 true) := by
  unfold transferC
  rw [orTrap_false _ _ _ _ slots, stay.orMeet, h.noVoteLost, Bool.and_false, if_neg Bool.false_ne_true, h.stalled, if_neg Bool.false_ne_true]
  cases link <;> rfl

/-- A write of a register changes the register file and what is owed, and nothing else of the context. -/
theorem Context.setG_only (r : Fin 32) (v : Word) (k : Context) : ∃ g l, k.setG r v = { k with g := g, accesses := l } := by
  by_cases h : r.val = 0
  · exact ⟨k.g, k.accesses, if_pos h⟩
  · exact ⟨_, _, if_neg h⟩

theorem linked_only (s u : State) (link : Option (Fin 32)) : ∃ g l, linked s u link = { u with ctx := { u.ctx with g := g, accesses := l } } := by
  cases link with
  | none => exact ⟨u.ctx.g, u.ctx.accesses, rfl⟩
  | some r =>
    obtain ⟨g, l, e⟩ := u.ctx.setG_only r (BitVec.ofNat 64 (afterSlots s s.ctx.pcc.toNat))
    exact ⟨g, l, congrArg (fun k => { u with ctx := k }) e⟩

/-- The redirection of a transfer is part of its slice's passing. -/
theorem linked_passed (s : State) (taken : Bool) (target : Word) (link : Option (Fin 32)) :
    Passed .control (linked s (queued s taken target) link) (linked s (pushTransfer s taken target false) link) := by
  have entry : (if (taken || false) = true then target else 0) = if taken = true then target else 0 := by rw [Bool.or_false]
  have eq : pushTransfer s taken target false = (queued s taken target).mod (fun k => { k with
      redirC := some ⟨BitVec.ofNat 64 (afterSlots s s.ctx.pcc.toNat), target, taken⟩ }) := by
    simp only [pushTransfer, queued, entry]; rfl
  rw [eq]
  generalize queued s taken target = u
  cases link with
  | none => exact ⟨rfl, rfl⟩
  | some r =>
    refine ⟨rfl, ?_⟩
    simp only [linked, Option.elim, State.mod_ctx, Context.setG]
    split <;> rfl

section

variable (known : s.ctx.prediction = none) (free : s.ctx.unresolved = none) (slots : badTransfer s .control = false) (stay : SlotsStay s)
  (room : s.ctx.bq.length < 128) (fits : afterSlots s s.ctx.pcc.toNat < 2 ^ 64)
include known free slots stay room fits

/-- A transfer whose target is fair when it is taken completes (R106, R141). -/
theorem transferC_transfers {i : Instr} {taken : State → Bool} {target : State → Word} {link : Option (Fin 32)} {v : Bool} {t : Word}
    (he : exec i s = transferC s gs cs taken target link) (h : ControlReady s gs cs) (ht : taken s = v) (hv : target s = t)
    (fair : v = true → outsideCode s.ctx t.toNat = false ∧ t.toNat % 4 = 0) : Transfers i s (linked s (queued s v t) link) v t := by
  have moved : exec i s = .next (retire (linked s (pushTransfer s v t false) link) .control 4 true) := by
    rw [he, transferC_ready h slots stay, ht, hv, if_neg, if_neg, if_neg (Nat.not_le.mpr (show _ < bqCap from room))]
    · cases v <;> simp_all
    · cases v <;> simp_all
  have after : (BitVec.ofNat 64 (afterSlots s s.ctx.pcc.toNat)).toNat = afterSlots s s.ctx.pcc.toNat := Nat.mod_eq_of_lt fits
  have passed := linked_passed s v t link
  obtain ⟨g, l, e⟩ := linked_only s (pushTransfer s v t false) link
  have code : SameCode s (linked s (pushTransfer s v t false) link) := by
    rw [e]; exact ⟨rfl, rfl, rfl, rfl, rfl, rfl, rfl, rfl, rfl⟩
  have pending : (linked s (pushTransfer s v t false) link).ctx.redir .control =
      some ⟨BitVec.ofNat 64 (afterSlots s s.ctx.pcc.toNat), t, v⟩ := by rw [e]; rfl
  have place : (linked s (pushTransfer s v t false) link).ctx.pc .control = s.ctx.pcc := by rw [e]; rfl
  have settled : (linked s (pushTransfer s v t false) link).ctx.unresolved = none := by rw [e]; exact free
  have unopened : (linked s (pushTransfer s v t false) link).ctx.prediction = none := by rw [e]; exact known
  generalize linked s (pushTransfer s v t false) link = u at *
  refine ⟨_, moved, passed.trans (retire_passed _ _ _ _), fun before => ?_, fun hv done => ?_⟩
  · exact retire_both_inSlots pending (fun _ => settled) (by rw [place, code.nextOf, after]; exact before)
  · rw [← code.nextOf]
    exact retire_both_jumps pending (fun _ => settled) (fun _ => unopened) (by rw [place, code.nextOf, after]; exact done) hv

end

/-- A branch whose bit is settled is a transfer whatever its hint (R141, R152). -/
theorem branchC_settled (h : s.ctx.pendingC c = false) (hint : Option Bool) :
    branchC s b c sense hint = transferC s [] [c] (fun s => s.ctx.getC c == sense) (fun s => s.ctx.getB b) none := by
  cases hint with
  | none => rfl
  | some p => simp [branchC, h]

/-- Settles O12: each transfer is `transferC` with its own target and link. -/
theorem transfersInControl : Obligations.TransfersInControl := by
  refine ⟨fun s b c a side h known free slots stay room fits => ?_, fun s b c side h known free slots stay room fits => ?_⟩
  · have bit := h.2.2.2.2.2 c List.mem_cons_self
    have branches (fair : outsideCode s.ctx (s.ctx.getB b).toNat = false ∧ (s.ctx.getB b).toNat % 4 = 0) :
        ∀ i ∈ [Instr.br b c (s.ctx.getC c), .brPn b c (s.ctx.getC c), .brPt b c (s.ctx.getC c)],
          Transfers i s (queued s true (s.ctx.getB b)) true (s.ctx.getB b) :=
      forall_branches fun i hint he => transferC_transfers known free slots stay room fits
        ((he s).trans ((bothSlices_control side _ _).trans (branchC_settled bit hint))) (h.mono nofun fun _ m => m) (beq_self_eq_true _) rfl
        (link := none) fun _ => fair
    exact ⟨fun fair =>
      ⟨transferC_transfers known free slots stay room fits ((exec_jmp b s).trans (bothSlices_control side _ _)) (h.mono nofun nofun) rfl rfl
          (link := none) fun _ => fair,
        transferC_transfers known free slots stay room fits ((exec_call b a s).trans (bothSlices_control side _ _)) (h.mono (fun _ m => m) nofun)
          rfl rfl (link := some a) fun _ => fair, branches fair⟩,
      fun fair => transferC_transfers known free slots stay room fits ((exec_ret a s).trans (bothSlices_control side _ _))
        (h.mono (fun _ m => m) nofun) rfl rfl (link := none) fun _ => fair⟩
  · exact forall_branches fun i hint he => transferC_transfers known free slots stay room fits
      ((he s).trans ((bothSlices_control side _ _).trans (branchC_settled (h.2.2.2.2.2 c List.mem_cons_self) hint))) h
      (by cases s.ctx.getC c <;> rfl) rfl (link := none) nofun

/-! ## In the control slice, the outcome predicted (R152) -/

/-- A hinted branch whose bit is pending opens its prediction: the state before its slice moves on. -/
def predicting (s : State) (b c : Fin 4) (sense hint : Bool) : State :=
  (pushTransfer s hint (s.ctx.getB b) true).mod (fun k => { k with
    spec := [], prediction := some ⟨k.pcc, s.ctx.getB b, c, sense, hint, BitVec.ofNat 64 (afterSlots s s.ctx.pcc.toNat)⟩ })

theorem branchC_predicts {hint : Bool} (h : ControlReady s [] []) (owed : s.ctx.pendingC c = true) (known : s.ctx.prediction = none)
    (free : s.ctx.unresolved = none) (slots : badTransfer s .control = false) (stay : SlotsStay s) (room : s.ctx.bq.length < 128)
    (aligned : (s.ctx.getB b).toNat % 4 = 0) (inside : outsideCode s.ctx (s.ctx.getB b).toNat = false) :
    branchC s b c sense (some hint) = .next (retire (predicting s b c sense hint) .control 4 true) := by
  have opens : (s.ctx.pendingC c && s.ctx.prediction.isNone && s.ctx.unresolved.isNone && (s.ctx.getB b).toNat % 4 == 0 &&
      !outsideCode s.ctx (s.ctx.getB b).toNat) = true := by simp [owed, known, free, aligned, inside]
  have goes : (!canIssue s .control || decide (bqCap ≤ s.ctx.bq.length)) = false := by
    rw [h.canIssue, decide_eq_false (Nat.not_le.mpr (show _ < bqCap from room))]; rfl
  unfold branchC
  dsimp only
  rw [if_pos opens, orTrap_false _ _ _ _ slots, stay.orMeet, goes, if_neg Bool.false_ne_true]
  rfl

/-- Settles O14: the prediction and its entry stand before the slice moves on, and its move leaves them. -/
theorem branchPredicts : Obligations.BranchPredicts := by
  intro s b c sense hint side h owed known free slots stay room fits aligned inside
  have runs : exec (if hint then .brPt b c sense else .brPn b c sense) s = branchC s b c sense (some hint) := by
    cases hint
    · exact (exec_brPn b c sense s).trans (bothSlices_control side _ _)
    · exact (exec_brPt b c sense s).trans (bothSlices_control side _ _)
  have passed := retire_passed (predicting s b c sense hint) .control 4 true
  have bq : (retire (predicting s b c sense hint) .control 4 true).ctx.bq = s.ctx.bq ++ [⟨s.ctx.pcc, hint, s.ctx.getB b, true⟩] := by
    have k := congrArg Context.bq passed.2
    refine Eq.trans k ?_
    simp [predicting, pushTransfer, Context.still]
  have opened : (retire (predicting s b c sense hint) .control 4 true).ctx.prediction =
      some ⟨s.ctx.pcc, s.ctx.getB b, c, sense, hint, BitVec.ofNat 64 (afterSlots s s.ctx.pcc.toNat)⟩ := by
    have k := congrArg Context.prediction passed.2
    exact k
  have after : (BitVec.ofNat 64 (afterSlots s s.ctx.pcc.toNat)).toNat = afterSlots s s.ctx.pcc.toNat := Nat.mod_eq_of_lt fits
  have code : SameCode s (predicting s b c sense hint) := ⟨rfl, rfl, rfl, rfl, rfl, rfl, rfl, rfl, rfl⟩
  have pending : (predicting s b c sense hint).ctx.redir .control =
      some ⟨BitVec.ofNat 64 (afterSlots s s.ctx.pcc.toNat), s.ctx.getB b, hint⟩ := rfl
  refine ⟨_, runs.trans (branchC_predicts h owed known free slots stay room aligned inside), opened, bq, ⟨passed.1, ?_⟩, fun before => ?_,
    fun done => ?_⟩
  · rw [bq, opened, passed.2]
    simp [predicting, pushTransfer, Context.still]
  · exact retire_both_inSlots pending (fun _ => free) (by rw [code.nextOf, after]; exact before)
  · have logged := commonPoint_sameCode (predicting s b c sense hint) .control s.ctx.pcc
    obtain ⟨redir, pc⟩ := advance_predicted (s := (predicting s b c sense hint).mod (Context.commonPoint .control s.ctx.pcc)) (len := 4) pending
      free rfl (by rw [logged.nextOf, code.nextOf, after]; exact done)
    exact ⟨redir, fun taken => (pc taken).trans (by rw [logged.nextOf, code.nextOf])⟩

/-! ## A transfer of the run-ahead (R106, R153) -/

/-- Behind an open prediction whose slots are done the control slice stands at a transfer that is the last word of a body: what R106 forbids stands
there, and what R153 lets no instruction do but wait. The statement asks of the first disjunct neither that the slice can issue nor that it does not
run ahead. -/
def runAheadAtBodyEnd : State :=
  { State.reset with
    ctx := { Context.idle with
      run := .running, pcc := 0x1040, loopA := ⟨2, 0x1040, 0x1040, 0x1040, 0x1040, true⟩
      prediction := some ⟨0x1000, 0x1040, 0, true, true, 0x100C⟩ } }

/-- A word that traps is waited for while the slice runs ahead (R153). -/
theorem orTrap_runAhead (ahead : runAhead s.ctx = true) (x : Cause) (k : Result) : orTrap s .control true x k = .next s := by
  simp [orTrap, ahead]

/-- A unit that fails carries its cause (R401). -/
theorem failUnit_fate (s : State) (x : Cause) (n : Nat) : (failUnit s x n).ctx.fate = .failed x :=
  (writeRecord_engines (.refl (failWithout s x))).same Context.fate fun _ => rfl

theorem badTransfer_runAheadAtBodyEnd : badTransfer runAheadAtBodyEnd .control = true := by decide

/-- Refutes O13: in `runAheadAtBodyEnd` a JMP stands at the end of a body, and it waits. -/
theorem not_transferTargets : ¬ Obligations.TransferTargets := by
  rintro ⟨-, illegal⟩
  have waits : exec (.jmp 0) runAheadAtBodyEnd = .next runAheadAtBodyEnd := by
    refine (exec_jmp 0 runAheadAtBodyEnd).trans ((bothSlices_control rfl _ _).trans ?_)
    unfold transferC
    rw [badTransfer_runAheadAtBodyEnd]
    exact orTrap_runAhead rfl _ _
  have traps := illegal runAheadAtBodyEnd 0 0 0 true rfl (.inl badTransfer_runAheadAtBodyEnd) (.jmp 0) (by simp)
  have fails : trapSync runAheadAtBodyEnd .control .illegal = failUnit runAheadAtBodyEnd .illegal 0x1040 := rfl
  have same : runAheadAtBodyEnd = failUnit runAheadAtBodyEnd .illegal 0x1040 := Host.Outcome.next.inj (waits.symm.trans (traps.trans (fails ▸ rfl)))
  have fate := (congrArg (fun t : State => t.ctx.fate) same).trans (failUnit_fate _ _ _)
  cases fate

end Sys2Proof.Machine
end

section
/-! SUPPORT. The execute slice beside its results: what landing leaves alone (R112), the transfers it follows (R142), and loops in both slices
(R144, R185). -/

namespace Sys2Proof.Machine

variable {s : State}

/-! ## Landing (R112) -/

/-- A context but for what results that land write: registers, queue entries, flags and the latches themselves. -/
def Context.unlanded (c : Context) : Context :=
  { c with
    sq := [], vq := [], latches := [], fpmode := 0
    k := Vector.replicate 8 0, m := Vector.replicate 128 0, v := Vector.replicate 8 0, live := Vector.replicate 8 false }

theorem landOne_unlanded (s : State) (l : Latch) : (landOne s l).ctx.unlanded = s.ctx.unlanded := by
  unfold landOne
  extract_lets lw n t
  repeat' split
  all_goals rfl

/-- Landing leaves the slices' places, their loops, their redirections and everything else of the context alone. -/
theorem landDue_unlanded (s : State) : (landDue s).ctx.unlanded = s.ctx.unlanded :=
  foldl_inv (p := fun t : State => t.ctx.unlanded = s.ctx.unlanded) (fun t l k => (landOne_unlanded t l).trans k) rfl

/-- What of a context landing does not write is as it was. -/
theorem landDue_same {α : Type} (f : Context → α) (hf : ∀ c : Context, f c.unlanded = f c) : f (landDue s).ctx = f s.ctx := by
  rw [← hf, landDue_unlanded, hf]

theorem fillVq_ids (i : Nat) (d : Word) (q : List VqEntry) : (fillVq i d q).map VqEntry.id = q.map VqEntry.id := by
  rw [fillVq, List.map_map]
  refine List.map_congr_left fun e _ => ?_
  rw [Function.comp_apply]
  split <;> rfl

theorem landOne_vq (s : State) (l : Latch) : (landOne s l).ctx.vq.map VqEntry.id = s.ctx.vq.map VqEntry.id := by
  have extra : (l.extra.foldl (fun q e => fillVq e.1 e.2 q) s.ctx.vq).map VqEntry.id = s.ctx.vq.map VqEntry.id :=
    foldl_inv (p := fun q : List VqEntry => q.map VqEntry.id = s.ctx.vq.map VqEntry.id) (fun q e k => (fillVq_ids e.1 e.2 q).trans k) rfl
  unfold landOne
  extract_lets lw n t
  split
  · exact extra
  · split
    · exact extra
    · split
      · exact extra
      · split
        · exact (fillVq_ids _ _ _).trans extra
        · split
          · exact extra
          · split
            · exact extra
            · exact extra

/-- Landing fills entries of vq; it adds none and takes none (R112). -/
theorem landDue_vq (s : State) : (landDue s).ctx.vq.map VqEntry.id = s.ctx.vq.map VqEntry.id :=
  foldl_inv (p := fun t : State => t.ctx.vq.map VqEntry.id = s.ctx.vq.map VqEntry.id) (fun t l k => (landOne_vq t l).trans k) rfl

/-- The state in which an execute instruction acts: every due result has landed, and one issue clock has passed. -/
def issuing (s : State) : State := (landDue s).mod Context.tick

theorem issuing_sameCode (s : State) : SameCode s (issuing s) :=
  (landDue_landed s).sameCode.trans (.mod rfl rfl)

/-! ## Moving on and settling -/

section

variable {side : Slice} {u t : State}

/-- A slice's passing and the sending of accesses together (R283). -/
theorem Passed.settle (h : Passed side u t) : Sent side u (settle t) := by
  have sent := settle_settled t
  have swap (c : Context) : (c.still side).unsent = c.unsent.still side := by cases side <;> rfl
  refine ⟨?_, ?_⟩
  · have moved := h.1
    have settled := sent.1
    rw [settled, moved]
  · rw [swap, sent.2, ← swap, h.2]

/-- What of a context neither a slice's passing nor the progress of its accesses changes is as it was. -/
theorem Sent.same (h : Sent side u t) {α : Type} (f : Context → α) (hf : ∀ c, f (Context.still side c).unsent = f c) : f t.ctx = f u.ctx := by
  rw [← hf, h.2, hf]

end

/-- A slice's own place is part of no access's progress. -/
theorem settle_same {α : Type} (t : State) (f : Context → α) (hf : ∀ c : Context, f c.unsent = f c) : f (settle t).ctx = f t.ctx :=
  (settle_settled t).same f hf

theorem settle_retire_unissued (u : State) (len : Nat) (both : Bool) : (settle (retire u .execute len both)).ctx.unissued = u.ctx.unissued :=
  (unissued_of_unsent (settle_settled (retire u .execute len both)).2).trans (unissued_of_still (retire_passed u .execute len both).2)

/-! ## The transfers that the execute slice follows (R105, R142) -/

/-- The oldest entry of bq is popped and its redirection is pending, once the due results have landed. -/
def following (s : State) (e : BqEntry) (rest : List BqEntry) : State :=
  (issuing s).mod (fun c => { c with bq := rest, redirX := some ⟨BitVec.ofNat 64 (afterSlots s s.ctx.pcx.toNat), e.target, e.taken⟩ })

section

variable {e : BqEntry} {rest : List BqEntry} (issues : canIssue s .execute = true) (slot : inSlot s.ctx .execute = false)
  (head : s.ctx.bq = e :: rest) (untagged : e.tagged = false)
include issues slot head untagged

theorem transferX_lost (other : e.addr ≠ s.ctx.pcx) : transferX s = .next (trapSync s .execute .queue) := by
  simp [transferX, issues, slot, head, untagged, other]

theorem transferX_leaves (here : e.addr = s.ctx.pcx) (leaves : slotsLeaveBody s .execute = true) :
    transferX s = .next (trapSync s .control .illegal) := by
  simp [transferX, issues, slot, head, untagged, here, leaves]

theorem transferX_follows (here : e.addr = s.ctx.pcx) (stays : slotsLeaveBody s .execute = false) :
    transferX s = .next (settle (retire (following s e rest) .execute 4 true)) := by
  have place : (issuing s).ctx.pcx = s.ctx.pcx := landDue_same Context.pcx fun _ => rfl
  have slots : afterSlots (issuing s) (issuing s).ctx.pcx.toNat = afterSlots s s.ctx.pcx.toNat := by
    rw [place, (issuing_sameCode s).afterSlots]
  simp only [transferX, issues, slot, head, untagged, here, stays, Bool.not_true, Bool.or_false, Bool.false_eq_true, if_false, bne_self_eq_false]
  rw [following, ← slots]
  rfl

end

theorem Context.unissued_bq (c : Context) (q : List BqEntry) : ({ c with bq := q } : Context).unissued = { c.unissued with bq := q } := rfl

theorem Context.unissued_popBq (c : Context) (q : List BqEntry) (r : Option Redirect) :
    ({ c.tick with bq := q, redirX := r } : Context).unissued = { c.unissued with bq := q } := rfl

/-- What following a transfer leaves: besides the slice's passing only the results that were due have landed (R142). -/
theorem following_leaves {e : BqEntry} {rest : List BqEntry} {t : State} (moved : t = settle (retire (following s e rest) .execute 4 true)) :
    t = { s with ctx := t.ctx, streams := t.streams, arbiters := t.arbiters, nextPacket := t.nextPacket } ∧
    t.ctx.bq = rest ∧ ({ t.ctx with bq := s.ctx.bq } : Context).unissued = s.ctx.unissued ∧
    t.ctx.v = (landDue s).ctx.v ∧ t.ctx.k = (landDue s).ctx.k ∧ t.ctx.m = (landDue s).ctx.m ∧ t.ctx.fpmode = (landDue s).ctx.fpmode := by
  have sent : Sent .execute (following s e rest) t := moved ▸ (retire_passed (following s e rest) .execute 4 true).settle
  have whole : t.ctx.unissued = (following s e rest).ctx.unissued := moved ▸ settle_retire_unissued _ _ _
  have landed := landDue_landed s
  refine ⟨?_, sent.same Context.bq fun _ => rfl, ?_, sent.same Context.v fun _ => rfl, sent.same Context.k fun _ => rfl,
    sent.same Context.m fun _ => rfl, sent.same Context.fpmode fun _ => rfl⟩
  · have h := sent.1
    have k := landed.1
    rw [h]
    simp only [following, issuing, State.mod]
    rw [k]
  · rw [Context.unissued_bq, whole, following, State.mod_ctx, issuing, State.mod_ctx, Context.unissued_popBq, landed.2.1]
    exact (Context.unissued_bq s.ctx s.ctx.bq).symm

/-- Settles O15: the entry's address, then the rule of R106, then the transfer itself with the place that its entry gives the slice. -/
theorem transfersInExecute : Obligations.TransfersInExecute := by
  intro s b c a f e rest side issues slot head untagged i hi
  rw [exec_transferX side i hi]
  refine ⟨transferX_lost issues slot head untagged, transferX_leaves issues slot head untagged, fun here stays fits => ?_⟩
  have after : (BitVec.ofNat 64 (afterSlots s s.ctx.pcx.toNat)).toNat = afterSlots s s.ctx.pcx.toNat := Nat.mod_eq_of_lt fits
  have pending : (following s e rest).ctx.redir .execute =
      some ⟨BitVec.ofNat 64 (afterSlots s s.ctx.pcx.toNat), e.target, e.taken⟩ := rfl
  have place : (following s e rest).ctx.pc .execute = s.ctx.pcx := landDue_same Context.pcx fun _ => rfl
  have code : SameCode s (following s e rest) := (issuing_sameCode s).trans (.mod rfl rfl)
  have redir (t : State) : (settle t).ctx.redirX = t.ctx.redirX := settle_same t Context.redirX fun _ => rfl
  have pcx (t : State) : (settle t).ctx.pcx = t.ctx.pcx := settle_same t Context.pcx fun _ => rfl
  obtain ⟨frame, bq, same, v, k, m, flags⟩ := following_leaves (s := s) (e := e) (rest := rest) rfl
  refine ⟨_, transferX_follows issues slot head untagged here stays, frame, bq, same, v, k, m, flags, fun before => ?_, fun taken done => ?_⟩
  · rw [redir]
    exact retire_both_inSlots pending nofun (by rw [place, code.nextOf, after]; exact before)
  · rw [redir, pcx, ← code.nextOf]
    exact retire_both_jumps pending nofun nofun (by rw [place, code.nextOf, after]; exact done) taken

/-! ## Loops (R144, R185) -/

/-- The loop registers of a level that starts behind the word at `a` with a body of `len` words. -/
def startedLevel (a count : Word) (len : Nat) : LoopRegs :=
  ⟨count, a + 4, a + BitVec.ofNat 64 (4 * len), a + 4, a + BitVec.ofNat 64 (4 * len), decide (count ≠ 0)⟩

/-- A loop whose body holds a word of its slice's stream: its level is as it started, and besides only the slice has passed (R144, R146, R185). -/
theorem startLoop_starts {side : Slice} {len : Nat} (l : LoopLevel) (count : Word) (pos : 0 < len)
    (fits : (s.ctx.pc side).toNat + 4 * len < 2 ^ 64) (body : nextOf s side ((s.ctx.pc side).toNat + 4) ≤ (s.ctx.pc side).toNat + 4 * len) :
    Passed side (s.mod (Context.setLevel side l (startedLevel (s.ctx.pc side) count len))) (startLoop s side l count len) ∧
      (startLoop s side l count len).ctx.level side l = startedLevel (s.ctx.pc side) count len := by
  have start : (s.ctx.pc side + 4).toNat = (s.ctx.pc side).toNat + 4 := by
    rw [BitVec.toNat_add]; exact Nat.mod_eq_of_lt (by change _ + 4 < _; omega)
  have stop : (s.ctx.pc side + BitVec.ofNat 64 (4 * len)).toNat = (s.ctx.pc side).toNat + 4 * len := by
    rw [BitVec.toNat_add, BitVec.toNat_ofNat, Nat.mod_eq_of_lt (a := 4 * len) (by omega)]; exact Nat.mod_eq_of_lt fits
  have runs : (count != 0) = decide (count ≠ 0) := by rw [Bool.eq_iff_iff]; simp
  unfold startLoop
  extract_lets a start' stop' empty run r u j
  have full : empty = false := decide_eq_false (by rw [stop, start]; omega)
  have level : r = startedLevel (s.ctx.pc side) count len := by
    simp only [r, run, full, runs, startedLevel, Bool.not_false, Bool.and_true, Bool.false_eq_true, if_false]; rfl
  have stands : u.ctx.level side l = startedLevel (s.ctx.pc side) count len := by
    simp [u, level]
  have begun : Passed side (s.mod (Context.setLevel side l (startedLevel (s.ctx.pc side) count len))) u := by
    rw [← level]
    exact ⟨rfl, Context.still_logIssue side a _⟩
  refine ⟨begun.trans (stepSequence_passed u side _ _), ?_⟩
  rw [stepSequence_level, stands]
  rw [stands]
  change a.toNat < (s.ctx.pc side + 4).toNat
  rw [start]
  exact Nat.lt_add_of_pos_right (by decide)

theorem loopC_starts {gs : List (Fin 32)} {len : Nat} (h : ControlReady s gs []) (slot : inSlot s.ctx .control = false) (l : LoopLevel)
    (count : Context → Word) (pos : 0 < len) : loopC s l gs count len = .next (startLoop s .control l (count s.ctx) len) := by
  have full : (len == 0 || inSlot s.ctx .control) = false := by rw [slot, Bool.or_false]; exact beq_false_of_ne (Nat.ne_of_gt pos)
  unfold loopC
  rw [orTrap_false _ _ _ _ full, h.stalled]
  rfl

theorem Context.unissued_setLevel (l : LoopLevel) (r : LoopRegs) (c : Context) :
    (c.setLevel .execute l r).unissued = c.unissued.setLevel .execute l r.bounds := by cases l <;> rfl

theorem Context.unissued_popCq (c : Context) (q : List Word) : ({ c.tick with cq := q } : Context).unissued = c.unissued := rfl

/-- The count is popped from cq, once the due results have landed. -/
def counting (s : State) (rest : List Word) : State := (issuing s).mod (fun c => { c with cq := rest })

section

variable {v : LoopLevel} {n : Fin 4096} (issues : canIssue s .execute = true) (slot : inSlot s.ctx .execute = false) (pos : n ≠ 0)
  (turn : waitsForControl s isOrderedSysWord = false)
include issues slot pos turn

theorem execVloop_empty (dry : s.ctx.cq = []) :
    execVloop v n s = .next (if s.ctx.endedC then trapSync s .execute .queue else s) := by
  have full : (n.val == 0 || inSlot s.ctx .execute) = false := by rw [slot, Bool.or_false]; exact beq_false_of_ne fun k => pos (Fin.ext k)
  unfold execVloop
  rw [orTrap_false _ _ _ _ full, issues, turn, dry]
  cases s.ctx.endedC <;> rfl

theorem execVloop_pops {count : Word} {rest : List Word} (head : s.ctx.cq = count :: rest) :
    execVloop v n s = .next (settle (startLoop (counting s rest) .execute v count n.val)) := by
  have full : (n.val == 0 || inSlot s.ctx .execute) = false := by rw [slot, Bool.or_false]; exact beq_false_of_ne fun k => pos (Fin.ext k)
  unfold execVloop
  rw [orTrap_false _ _ _ _ full, issues, turn, head]
  rfl

end

/-- What VLOOP leaves once its loop has started from the state with its count popped. -/
theorem counting_leaves {v : LoopLevel} {r : LoopRegs} {rest : List Word} {u t : State}
    (passed : Passed .execute ((counting s rest).mod (Context.setLevel .execute v r)) u) (level : u.ctx.level .execute v = r)
    (moved : t = settle u) : t.ctx.cq = rest ∧ t.ctx.level .execute v = r ∧
      t = { s with ctx := t.ctx, streams := t.streams, arbiters := t.arbiters, nextPacket := t.nextPacket } ∧
      t.ctx.unissued = (s.ctx.setLevel .execute v r).unissued := by
  have sent : Sent .execute ((counting s rest).mod (Context.setLevel .execute v r)) t := moved ▸ passed.settle
  have landed := landDue_landed s
  refine ⟨?_, ?_, ?_, ?_⟩
  · refine (sent.same Context.cq fun _ => rfl).trans ?_
    cases v <;> rfl
  · rw [moved, settle_same u (fun c => c.level .execute v) fun _ => by cases v <;> rfl, level]
  · have h := sent.1
    have k := landed.1
    rw [h]
    simp only [counting, issuing, State.mod]
    rw [k]
  · have whole : t.ctx.unissued = u.ctx.unissued := moved ▸ unissued_of_unsent (settle_settled u).2
    rw [whole, unissued_of_still passed.2, State.mod_ctx, Context.unissued_setLevel, Context.unissued_setLevel, counting, State.mod_ctx, issuing,
      State.mod_ctx, Context.unissued_popCq, landed.2.1]

/-- Settles O16: the loops of the control slice, then VLOOP. -/
theorem loopsStart : Obligations.LoopsStart := by
  refine ⟨fun s v a h slot => ?_, fun s v n issues slot pos turn fits body => ⟨fun dry => ?_, fun count rest head => ?_⟩⟩
  · have ready {gs : List (Fin 32)} (sub : ∀ r ∈ gs, r ∈ [a]) : ControlReady s gs [] := h.mono sub fun _ m => m
    have empty (gs : List (Fin 32)) (count : Context → Word) : loopC s v gs count 0 = .next (trapSync s .control .illegal) :=
      h.orTrap_illegal _
    refine ⟨fun i hi fits body => ?_, fun c n hn fits body => ?_, (exec_loop v a 0 s).trans (empty _ _),
      fun c => (exec_loopi v c 0 s).trans (empty _ _)⟩
    · have pos : 0 < i.toNat := Nat.pos_of_ne_zero fun k => hi (BitVec.eq_of_toNat_eq k)
      exact ⟨_, (exec_loop v a i s).trans (loopC_starts h slot v _ pos), startLoop_starts v _ pos fits body⟩
    · have pos : 0 < n.val := Nat.pos_of_ne_zero fun k => hn (Fin.ext k)
      exact ⟨_, (exec_loopi v c n s).trans (loopC_starts (gs := []) (ready nofun) slot v _ pos), startLoop_starts v _ pos fits body⟩
  · exact (exec_vloop v n s).trans (execVloop_empty issues slot pos turn dry)
  · have code : SameCode s (counting s rest) := (issuing_sameCode s).trans (.mod rfl rfl)
    have place : (counting s rest).ctx.pc .execute = s.ctx.pcx := landDue_same Context.pcx fun _ => rfl
    obtain ⟨passed, level⟩ := startLoop_starts (s := counting s rest) (side := .execute) (len := n.val) v count
      (Nat.pos_of_ne_zero fun k => pos (Fin.ext k)) (by rw [place]; exact fits) (by rw [place, code.nextOf]; exact body)
    rw [place] at passed level
    exact ⟨_, (exec_vloop v n s).trans (execVloop_pops issues slot pos turn head), counting_leaves passed level rfl⟩

end Sys2Proof.Machine
end

section
/-! SUPPORT. Votes, the pushes that feed the execute slice, and END (R109, R149 to R151, R156 to R158, R206, R405). -/

namespace Sys2Proof.Machine

variable {s : State}

/-! ## Votes in the control slice (R109, R150) -/

/-- VANY and VALL make their bit pending on the next claim. -/
theorem claimVote_completes {i : Instr} {c : Fin 4} (he : exec i s = claimVote s c) (h : ControlReady s [] [c]) :
    Completes i .control s (s.mod (fun x => { x with votes := x.votes ++ [c] })) := by
  have coming : voteLost s.ctx c = false := by simpa using h.noVoteLost
  refine ⟨_, he.trans ?_, retire_passed _ .control 4 true⟩
  unfold claimVote
  rw [coming, Bool.and_false, if_neg Bool.false_ne_true, h.stalled, if_neg Bool.false_ne_true]

section

variable {d : Fin 32} {both : Bool} (h : ControlReady s [] [])
include h

/-- An entry that can no longer come traps. -/
theorem popVq_lost (ended : s.ctx.endedX = true) (few : s.ctx.vq.length ≤ s.ctx.votes.length) :
    popVq s d both = .next (trapSync s .control .queue) := by
  simp [popVq, h.stalled, ended, few]

/-- While a claim goes before it, or its entry is not filled, VCNT waits. -/
theorem popVq_waits {e : VqEntry} {rest : List VqEntry} (head : s.ctx.vq = e :: rest) (early : s.ctx.votes ≠ [] ∨ e.filled = false)
    (coming : ¬(s.ctx.endedX = true ∧ s.ctx.vq.length ≤ s.ctx.votes.length)) : popVq s d both = .next s := by
  have mayCome : (s.ctx.endedX && decide (s.ctx.vq.length ≤ s.ctx.votes.length)) = false := by
    rw [Bool.eq_false_iff, ne_eq, Bool.and_eq_true, decide_eq_true_iff]; exact coming
  unfold popVq
  rw [h.stalled, if_neg Bool.false_ne_true, mayCome, if_neg Bool.false_ne_true]
  by_cases claimed : s.ctx.votes = []
  · have empty : e.filled = false := early.resolve_left fun k => k claimed
    rw [claimed, head]
    simp [empty]
  · exact if_pos (bne_iff_ne.mpr claimed)

/-- With no claim before it and its entry filled it pops the entry into gd. -/
theorem popVq_completes {i : Instr} {e : VqEntry} {rest : List VqEntry} (he : exec i s = popVq s d both) (head : s.ctx.vq = e :: rest)
    (first : s.ctx.votes = []) (filled : e.filled = true) :
    Completes i .control s (s.mod (fun x => { x.setG d e.data with vq := rest })) := by
  refine ⟨_, he.trans ?_, retire_passed _ .control 4 both⟩
  simp [popVq, h.stalled, head, first, filled]

end

/-- What holds of popping vq holds of VCNT's control half and of POPV. -/
theorem forall_pops {d : Fin 32} {k : Fin 8} {p : Instr → Prop} (side : s.side = .control)
    (h : ∀ i both, exec i s = popVq s d both → p i) : ∀ i ∈ [Instr.vcnt d k, .popv d], p i := by
  simp only [List.forall_mem_cons, List.not_mem_nil, false_implies, implies_true, and_true]
  exact ⟨h _ true ((exec_vcnt d k s).trans (bothSlices_control side _ _)), h _ false (exec_popv d s)⟩

/-! ## Votes in the execute slice (R149) -/

/-- The value is on its way to the entry of vq that it reserves, once the due results have landed. -/
def voting (s : State) (value : Nat → Context → Nat) : State :=
  (issuing s).mod (fun c => { c with
    vq := c.vq ++ [⟨c.nextId, 0, false⟩], nextId := c.nextId + 1
    latches := c.latches ++
      [⟨0x11, 0, 0, c.nextId, BitVec.allOnes 64, BitVec.ofNat 1024 (value s.lanes c), c.stretchX, c.logX.length, []⟩] })

theorem pushVote_pushes (issues : canIssue s .execute = true) (turn : waitsForControl s isOrderedSysWord = false) (room : s.ctx.vq.length < 16)
    (value : Nat → Context → Nat) : pushVote s value = .next (retire (voting s value) .execute 4 true) := by
  have same : (landDue s).ctx.vq.length = s.ctx.vq.length := by simpa using congrArg List.length (landDue_vq s)
  have goes : (!canIssue s .execute || waitsForControl s isOrderedSysWord || decide (rowCap ≤ (landDue s).ctx.vq.length)) = false := by
    rw [issues, turn, same, decide_eq_false (Nat.not_le.mpr (show _ < rowCap from room))]; rfl
  unfold pushVote
  dsimp only
  rw [goes]
  rfl

theorem Context.unissued_vote (c : Context) (q : List VqEntry) (n : Nat) (l : List Latch) :
    ({ c.tick with vq := q, nextId := n, latches := l } : Context).unissued = c.unissued := rfl

/-- What a vote leaves: its entry and its latch, and the results that were due (R112, R149; assumption 82). -/
theorem voting_leaves {value : Nat → Context → Nat} {v : Nat} {t : State} (moved : t = retire (voting s value) .execute 4 true)
    (gives : value s.lanes (issuing s).ctx = v) :
    t.ctx.vq.map VqEntry.id = s.ctx.vq.map VqEntry.id ++ [s.ctx.nextId] ∧
    (⟨0x11, 0, 0, s.ctx.nextId, BitVec.allOnes 64, BitVec.ofNat 1024 v, s.ctx.stretchX, s.ctx.logX.length, []⟩ : Latch) ∈ t.ctx.latches ∧
    t = { s with ctx := t.ctx, streams := t.streams } ∧ t.ctx.unissued = s.ctx.unissued ∧ t.ctx.k = (landDue s).ctx.k := by
  have passed : Passed .execute (voting s value) t := moved ▸ retire_passed _ _ _ _
  have landed := landDue_landed s
  have next : (landDue s).ctx.nextId = s.ctx.nextId := landDue_same Context.nextId fun _ => rfl
  have stretch : (landDue s).ctx.stretchX = s.ctx.stretchX := landDue_same Context.stretchX fun _ => rfl
  have log : (landDue s).ctx.logX = s.ctx.logX := landDue_same Context.logX fun _ => rfl
  have vq : t.ctx.vq = (landDue s).ctx.vq ++ [⟨(landDue s).ctx.nextId, 0, false⟩] := by
    have k := congrArg Context.vq passed.2
    exact k
  refine ⟨?_, ?_, ?_, ?_, passed.k⟩
  · rw [vq, List.map_append, landDue_vq, next]; rfl
  · rw [passed.latches, ← gives, ← next, ← stretch, ← log]
    exact List.mem_append_right _ (List.mem_singleton_self _)
  · have h := passed.1
    have k := landed.1
    rw [h]
    simp only [voting, issuing, State.mod]
    rw [k]
  · rw [unissued_of_still passed.2, voting, State.mod_ctx, issuing, State.mod_ctx, Context.unissued_vote, landed.2.1]

/-! ### What a mask's lanes say -/

/-- No lane of a mask is set when the mask is zero, every lane when it is full. -/
theorem filter_bits_eq_nil_iff {n x : Nat} (small : x < 2 ^ n) : (List.range n).filter (fun l => bitOf x l) = [] ↔ x = 0 := by
  rw [List.filter_eq_nil_iff]
  refine ⟨fun none => Nat.eq_of_testBit_eq fun i => ?_, fun zero l _ => by simp [zero, bitOf_eq_testBit]⟩
  rw [Nat.zero_testBit]
  by_cases inside : i < n
  · simpa [bitOf_eq_testBit] using none i (List.mem_range.mpr inside)
  · exact Nat.testBit_lt_two_pow (small.trans_le (Nat.pow_le_pow_right (by decide) (Nat.not_lt.mp inside)))

theorem filter_bits_full_iff {n x : Nat} (small : x < 2 ^ n) : ((List.range n).filter (fun l => bitOf x l)).length = n ↔ x = 2 ^ n - 1 := by
  have all : ((List.range n).filter (fun l => bitOf x l)).length = n ↔ ∀ l ∈ List.range n, bitOf x l = true := by
    conv_lhs => rhs; rw [← List.length_range (n := n)]
    exact List.length_filter_eq_length_iff
  rw [all]
  refine ⟨fun set => Nat.eq_of_testBit_eq fun i => ?_, fun full l hl => ?_⟩
  · rw [Nat.testBit_two_pow_sub_one]
    by_cases inside : i < n
    · rw [decide_eq_true inside, ← bitOf_eq_testBit]
      exact set i (List.mem_range.mpr inside)
    · rw [decide_eq_false inside]
      exact Nat.testBit_lt_two_pow (small.trans_le (Nat.pow_le_pow_right (by decide) (Nat.not_lt.mp inside)))
  · rw [full]
    exact bitOf_full (List.mem_range.mp hl)

/-- Settles O17: claims, VCNT and POPV by what they find, and the execute halves by the lanes of their predicate. -/
theorem votes : Obligations.Votes := by
  refine ⟨fun s c k d side => ⟨fun h => ?_, fun h e rest head => forall_pops side fun i both he => ⟨fun early coming => ?_, fun first filled => ?_⟩,
    fun h ended few => forall_pops side fun i both he => he.trans (popVq_lost h ended few)⟩, fun s c k d side issues turn room => ?_⟩
  · simp only [List.forall_mem_cons, List.not_mem_nil, false_implies, implies_true, and_true]
    exact ⟨claimVote_completes ((exec_vany c k s).trans (bothSlices_control side _ _)) h,
      claimVote_completes ((exec_vall c k s).trans (bothSlices_control side _ _)) h⟩
  · exact he.trans (popVq_waits h head early coming)
  · exact popVq_completes h he head first filled
  · have runs {i : Instr} {l : Result} {value : Nat → Context → Nat} (he : exec i s = bothSlices s l (pushVote s value)) :
        exec i s = .next (retire (voting s value) .execute 4 true) :=
      he.trans ((bothSlices_execute side _ _).trans (pushVote_pushes issues turn room value))
    have small : (landDue s).ctx.getK s.lanes k < 2 ^ s.lanes := getK_lt _ _ _
    exact ⟨⟨_, runs (exec_vany c k s), voting_leaves rfl (if_congr (filter_bits_eq_nil_iff small).symm rfl rfl)⟩,
      ⟨_, runs (exec_vall c k s), voting_leaves rfl (if_congr (filter_bits_full_iff small).symm rfl rfl)⟩,
      ⟨_, runs (exec_vcnt d k s), voting_leaves rfl List.countP_eq_length_filter⟩⟩

/-! ## Pushes (R156, R157) -/

theorem pushCq_completes {i : Instr} {a : Fin 32} {v : State → Word} (he : exec i s = pushCq s a v) (h : ControlReady s [a] [])
    (room : s.ctx.cq.length < 32) : Completes i .control s (s.mod (fun c => { c with cq := c.cq ++ [v s] })) :=
  issueC_completes (he.trans (if_neg (Nat.not_le.mpr (show _ < cqCap from room)))) h

/-- The low bits of a mask of so many ones. -/
theorem getLsbD_ones {n l : Nat} (hl : l < 64) : (BitVec.ofNat 64 (2 ^ n - 1)).getLsbD l = decide (l < n) := by
  rw [BitVec.getLsbD_ofNat, decide_eq_true hl, Bool.true_and, Nat.testBit_two_pow_sub_one]

/-- Settles O18: with room a value is appended, and a full queue is waited for. -/
theorem pushes : Obligations.Pushes := by
  intro s a h
  refine ⟨fun room => ⟨pushCq_completes (exec_pushc a s) h room, pushCq_completes (exec_mktail a s) h room, fun l hl => ?_⟩, fun room => ?_,
    fun full => ⟨(exec_pushc a s).trans (if_pos full.ge), (exec_mktail a s).trans (if_pos full.ge)⟩,
    fun full => (exec_pushd a s).trans (if_pos full.ge)⟩
  · rw [getLsbD_ones hl]
    exact decide_eq_decide.mpr lt_min_iff
  · exact issueC_completes ((exec_pushd a s).trans (if_neg (Nat.not_le.mpr (show _ < dqCap from room)))) h

/-! ## What settling a lease leaves of the region (R205, R206) -/

section

variable {r : Region}

theorem setLate_region {n : Nat} (h : s.ctx.region = r) : (setLate s n).ctx.region = r := by
  unfold setLate
  split
  · exact h
  · split
    · rw [(storeBytes_stores (.refl s)).ctx]; exact h
    · exact h

theorem countFlag_region {f : Fin 64} {n : Nat} (h : s.ctx.region = r) : (countFlag s f n).ctx.region = r := by
  unfold countFlag
  split
  · exact h
  · split
    · rw [(storeBytes_stores (.refl s)).ctx]; exact h
    · exact h

theorem writeRecord_region {status kind flag code bytes addr : Nat} (h : s.ctx.region = r) :
    (writeRecord s status kind flag code bytes addr).ctx.region = r := by
  unfold writeRecord
  rw [State.mod_ctx, (partStore_stores (.refl s)).ctx]
  exact h

theorem countLate_region {u va : Nat} (h : s.ctx.region = r) : (countLate s u va).ctx.region = r := by
  unfold countLate
  split
  · exact h
  · have counted {n : Nat} : (setLate s n).ctx.region = r := setLate_region h
    exact holds_ite (p := fun t : State => t.ctx.region = r) counted
      (holds_ite (p := fun t : State => t.ctx.region = r) (countFlag_region (writeRecord_region counted)) (writeRecord_region counted))

theorem enterRequest_region {u : Fin 8} {implicit : Bool} (h : s.ctx.region = r) : (enterRequest s u implicit).ctx.region = r :=
  holds_ite (p := fun t : State => t.ctx.region = r) (countLate_region h) h

theorem leaseAct_region {u : Fin 8} (h : s.ctx.region = r) : (leaseAct s u).ctx.region = r := by
  unfold leaseAct
  dsimp only
  split
  · exact h
  · exact enterRequest_region h

theorem unleaseAct_region (h : s.ctx.region = r) : (unleaseAct s).ctx.region = r :=
  holds_ite (p := fun t : State => t.ctx.region = r) h (holds_ite (p := fun t : State => t.ctx.region = r) h h)

theorem settleLeaseFrom_region {n : Nat} (h : s.ctx.region = r) : (settleLeaseFrom n s).ctx.region = r := by
  induction n generalizing s with
  | zero => exact h
  | succ n ih =>
    unfold settleLeaseFrom
    split
    · exact h
    · split
      · exact ih (unleaseAct_region h)
      · exact ih (leaseAct_region h)
      · split
        · split
          · exact enterRequest_region h
          · exact holds_ite (p := fun t : State => t.ctx.region = r) (enterRequest_region h) h
        · exact h

/-- MIR included, the region is as it was. -/
theorem settleLease_region (h : s.ctx.region = r) : (settleLease s).ctx.region = r :=
  holds_ite (p := fun t : State => t.ctx.region = r) (settleLeaseFrom_region h) h

end

/-- Without a lease command nothing is settled. -/
theorem settleLease_none (h : leaseHead s.ctx = none) : settleLease s = s := by
  unfold settleLease
  split
  · unfold settleLeaseFrom
    rw [h]
  · rfl

/-! ## END (R158, R206, R405) -/

/-- The region apart, the end of a region leaves the context alone. -/
theorem Context.endRegion_only (c : Context) : ∃ r, c.endRegion = { c with region := r } := by
  unfold endRegion
  split
  · exact ⟨_, rfl⟩
  · exact ⟨c.region, rfl⟩

theorem Context.endRegion_same {α : Type} (f : Context → α) (hf : ∀ c r, f { c with region := r } = f c) (c : Context) : f c.endRegion = f c := by
  obtain ⟨r, e⟩ := c.endRegion_only
  rw [e, hf]

theorem Context.endRegion_closes {c : Context} (control : c.endedC = true) (execute : c.endedX = true) : c.endRegion.region.isOpen = false := by
  simp [endRegion, control, execute]

theorem Context.endRegion_stays {c : Context} (runs : (c.endedC && c.endedX) = false) : c.endRegion.region = c.region := by
  simp [endRegion, runs]

/-- The context at the control slice's END, before its lease is settled and its region closes. -/
def stoppedControl (s : State) : Context :=
  { s.ctx with
    endedC := true, votes := []
    loopA := { s.ctx.loopA with active := false }, loopB := { s.ctx.loopB with active := false }
    ops := if decide (s.self < 128) && !s.ctx.info.header.nm then s.ctx.ops ++ [plainOp s .unlease 0] else s.ctx.ops
    nextId := s.ctx.nextId + 1 }

/-- The context at the execute slice's END. -/
def stoppedExecute (s : State) : Context :=
  { (issuing s).ctx with
    endedX := true, vloopA := { (issuing s).ctx.vloopA with active := false }, vloopB := { (issuing s).ctx.vloopB with active := false } }

theorem endControl_eq (s : State) :
    endControl s = settleLease { s with ctx := (stoppedControl s).endRegion.commonPoint .control s.ctx.pcc } := rfl

theorem endExecute_eq (s : State) :
    endExecute s = { landDue s with ctx := (stoppedExecute s).endRegion.commonPoint .execute (landDue s).ctx.pcx } := rfl

/-- What neither END's common point nor its region nor its lease changes is as when the slice stopped. -/
theorem endControl_same {α : Type} (f : Context → α) (hf : ∀ c : Context, f c.aside = f c) (hr : ∀ c r, f { c with region := r } = f c)
    (hp : ∀ c v, f (Context.commonPoint .control v c) = f c) : f (endControl s).ctx = f (stoppedControl s) := by
  rw [endControl_eq, (settleLease_engines (.refl _)).same f hf]
  exact (hp _ _).trans (Context.endRegion_same f hr _)

theorem endControl_region (s : State) : (endControl s).ctx.region = (stoppedControl s).endRegion.region :=
  settleLease_region rfl

/-- Where no lease is given up and none stands, the control slice's END settles nothing (R206). -/
theorem endControl_unleased (h : (s.ctx.info.header.nm = true ∧ leaseHead s.ctx = none) ∨ 128 ≤ s.self) :
    endControl s = { s with ctx := (stoppedControl s).endRegion.commonPoint .control s.ctx.pcc } ∧ (stoppedControl s).ops = s.ctx.ops := by
  have none_queued : (decide (s.self < 128) && !s.ctx.info.header.nm) = false := by
    rcases h with ⟨nm, -⟩ | gusset
    · rw [nm, Bool.not_true, Bool.and_false]
    · rw [decide_eq_false (Nat.not_lt.mpr gusset), Bool.false_and]
  have ops : (stoppedControl s).ops = s.ctx.ops := by simp [stoppedControl, none_queued]
  refine ⟨?_, ops⟩
  rw [endControl_eq]
  rcases h with ⟨-, free⟩ | gusset
  · refine settleLease_none ?_
    have same : ((stoppedControl s).endRegion.commonPoint .control s.ctx.pcc).ops = s.ctx.ops :=
      (Context.endRegion_same Context.ops (fun _ _ => rfl) _).trans ops
    rw [leaseHead, same]
    exact free
  · exact if_neg (Nat.not_lt.mpr gusset)

theorem exec_endUnit_control (side : s.side = .control) (h : ControlReady s [] []) (slot : inSlot s.ctx .control = false) :
    exec .endUnit s = .next (endControl s) := by
  refine (exec_endUnit s).trans ((bothSlices_control side _ _).trans ?_)
  rw [orTrap_false _ _ _ _ slot, h.stalled, if_neg Bool.false_ne_true]

theorem exec_endUnit_execute (side : s.side = .execute) (issues : canIssue s .execute = true) (slot : inSlot s.ctx .execute = false)
    (turn : waitsForControl s isOrderedSysWord = false) : exec .endUnit s = .next (endExecute s) := by
  refine (exec_endUnit s).trans ((bothSlices_execute side _ _).trans ?_)
  rw [issues, slot, turn]
  rfl

/-- What the execute slice's END leaves. -/
theorem endExecute_leaves {t : State} (ended : t = endExecute s) :
    t.ctx.endedX = true ∧ t.ctx.vloopA.active = false ∧ t.ctx.vloopB.active = false ∧ t.ctx.endedC = s.ctx.endedC ∧
      t = { s with ctx := t.ctx, streams := t.streams } ∧ (s.ctx.endedC = true → t.ctx.region.isOpen = false) ∧
      (s.ctx.endedC = false → t.ctx.region = s.ctx.region) ∧ t.ctx.v = (landDue s).ctx.v ∧ t.ctx.k = (landDue s).ctx.k ∧
      t.ctx.fpmode = (landDue s).ctx.fpmode := by
  have same {α : Type} (f : Context → α) (hr : ∀ c r, f { c with region := r } = f c) (hp : ∀ c v, f (Context.commonPoint .execute v c) = f c) :
      f t.ctx = f (stoppedExecute s) := by
    rw [ended, endExecute_eq]
    exact (hp _ _).trans (Context.endRegion_same f hr _)
  have control : (stoppedExecute s).endedC = s.ctx.endedC := landDue_same Context.endedC fun _ => rfl
  have region : t.ctx.region = (stoppedExecute s).endRegion.region := by rw [ended]; rfl
  have frame := (landDue_landed s).1
  refine ⟨same Context.endedX (fun _ _ => rfl) fun _ _ => rfl, same (fun c => c.vloopA.active) (fun _ _ => rfl) fun _ _ => rfl,
    same (fun c => c.vloopB.active) (fun _ _ => rfl) fun _ _ => rfl, (same Context.endedC (fun _ _ => rfl) fun _ _ => rfl).trans control, ?_,
    fun other => ?_, fun other => ?_, same Context.v (fun _ _ => rfl) fun _ _ => rfl, same Context.k (fun _ _ => rfl) fun _ _ => rfl,
    same Context.fpmode (fun _ _ => rfl) fun _ _ => rfl⟩
  · rw [ended, endExecute_eq, frame]
  · rw [region]
    exact Context.endRegion_closes (control.trans other) rfl
  · rw [region, Context.endRegion_stays (by rw [control, other, Bool.false_and])]
    exact landDue_same Context.region fun _ => rfl

/-- Settles O19: each slice's END by what it leaves; the control slice's lease is settled by operations that leave the rest of the context. -/
theorem endStops : Obligations.EndStops := by
  refine fun s => ⟨exec_endUnit_control, exec_endUnit_execute, fun side h slot => ⟨_, exec_endUnit_control side h slot, ?_⟩,
    fun side issues slot turn => ⟨_, exec_endUnit_execute side issues slot turn, endExecute_leaves rfl⟩⟩
  refine ⟨endControl_same Context.endedC (fun _ => rfl) (fun _ _ => rfl) fun _ _ => rfl,
    endControl_same Context.votes (fun _ => rfl) (fun _ _ => rfl) fun _ _ => rfl,
    endControl_same (fun c => c.loopA.active) (fun _ => rfl) (fun _ _ => rfl) fun _ _ => rfl,
    endControl_same (fun c => c.loopB.active) (fun _ => rfl) (fun _ _ => rfl) fun _ _ => rfl,
    endControl_same Context.endedX (fun _ => rfl) (fun _ _ => rfl) fun _ _ => rfl,
    endControl_same Context.g (fun _ => rfl) (fun _ _ => rfl) fun _ _ => rfl,
    endControl_same Context.vq (fun _ => rfl) (fun _ _ => rfl) fun _ _ => rfl, fun other => ?_, fun other => ?_, fun unleased => ?_⟩
  · rw [endControl_region]
    exact Context.endRegion_closes rfl other
  · rw [endControl_region]
    exact Context.endRegion_stays other
  · obtain ⟨whole, ops⟩ := endControl_unleased unleased
    have accesses : (endControl s).ctx.accesses = s.ctx.accesses :=
      endControl_same Context.accesses (fun _ => rfl) (fun _ _ => rfl) fun _ _ => rfl
    refine ⟨by rw [whole], accesses, ?_⟩
    rw [whole]
    exact (Context.endRegion_same Context.ops (fun _ _ => rfl) _).trans ops

end Sys2Proof.Machine
end

section
/-! SUPPORT. Accesses whose every part has returned leave, and their data with them (R131, R252, R253). -/

namespace Sys2Proof.Machine

variable {s : State} {a : Access}

/-! ## What an access delivers -/

/-- A delivery in one update of the context: the access goes, and `v` takes its data in. -/
def Delivers (s : State) (a : Access) (v : Context → Context) : Prop := deliver s a = s.mod (fun c => v (dropAccess a.id c))

theorem deliver_register (register : a.kind.writesG = true) (row : a.kind.fillsLq = false) : Delivers s a (Context.setG a.dest (loadValue a)) := by
  simp [Delivers, deliver, register, row, State.mod]

theorem deliver_rows (register : a.kind.writesG = false) (row : a.kind.fillsLq = true) :
    Delivers s a (fun c => { c with lq := fillLq a.qi a.data c.lq }) := by
  simp [Delivers, deliver, register, row, State.mod]

theorem deliver_nothing (register : a.kind.writesG = false) (row : a.kind.fillsLq = false) : Delivers s a id := by
  simp [Delivers, deliver, register, row]

theorem AccKind.isStore_delivers_nothing {k : AccKind} (h : k.isStore = true) : k.writesG = false ∧ k.fillsLq = false := by
  revert h
  cases k <;> simp [AccKind.isStore, AccKind.writesG, AccKind.fillsLq]

/-- A load's value is its bytes, sign-extended where the load is signed (R252). -/
theorem loadValue_load {k : Nat} {sg : Bool} (pos : 0 < k) (kind : a.kind = .load k sg) :
    let v := a.data.headD 0
    loadValue a = if sg ∧ 2 ^ (8 * k - 1) ≤ v % 2 ^ (8 * k) then BitVec.ofInt 64 (v % 2 ^ (8 * k) - 2 ^ (8 * k) : Int)
      else if sg then BitVec.ofNat 64 (v % 2 ^ (8 * k)) else BitVec.ofNat 64 v := by
  intro v
  cases sg with
  | false => simp [loadValue, kind, v]
  | true =>
    have value : loadValue a = BitVec.ofInt 64 (Num.wrap v (8 * k)) := by simp only [loadValue, kind]; rfl
    rw [value, wrap_natCast (by omega)]
    by_cases negative : 2 ^ (8 * k - 1) ≤ v % 2 ^ (8 * k)
    · rw [if_neg (Nat.not_lt.mpr negative), if_pos ⟨rfl, negative⟩]
      norm_cast
    · rw [if_pos (Nat.lt_of_not_le negative), if_neg fun h => negative h.2, if_pos rfl, BitVec.ofInt_natCast]

theorem Context.setG_run (r : Fin 32) (v : Word) (c : Context) : (c.setG r v).run = c.run := by
  obtain ⟨g, l, e⟩ := c.setG_only r v
  rw [e]

/-- A delivery leaves its context running as it was. -/
theorem deliver_run (s : State) (a : Access) : (deliver s a).ctx.run = s.ctx.run := by
  unfold deliver
  dsimp only
  have kept : (if a.kind.writesG then (s.mod (dropAccess a.id)).mod (Context.setG a.dest (loadValue a)) else s.mod (dropAccess a.id)).ctx.run =
      s.ctx.run := by
    split
    · exact Context.setG_run ..
    · rfl
  split <;> exact kept

/-! ## An access that is complete -/

theorem sweep_of_resident (h : outlived s = false) : sweep s = s := by
  simp [sweep, h]

/-- Nothing of an access is left to perform once its parts have returned. -/
theorem performOwn_returned (returned : ∀ q ∈ a.parts, q.stage = .returned) : performOwn s a = s := by
  unfold performOwn
  refine List.foldlRecOn (motive := fun t => t = s) _ _ rfl fun t same p hp => ?_
  subst same
  simp [goesOn, mayPerform, returned p hp]

theorem find_access (stands : a ∈ s.ctx.accesses) (only : ∀ b ∈ s.ctx.accesses, b.id = a.id → b = a) :
    s.ctx.accesses.find? (fun b => b.id == a.id) = some a := by
  obtain ⟨b, found⟩ := Option.isSome_iff_exists.mp
    (List.find?_isSome (p := fun b : Access => b.id == a.id) |>.mpr ⟨a, stands, beq_self_eq_true a.id⟩)
  have same : b.id = a.id := by simpa using List.find?_some found
  rw [found, only b (List.mem_of_find?_eq_some found) same]

/-- The event performs, and the access leaves as `v` says; besides it only what waited behind it is sent on its way (R283). -/
def Leaves (s : State) (a : Access) (v : Context → Context) (i : Instr) : Prop :=
  ∃ t, exec i s = .next t ∧ t = { s with ctx := t.ctx, arbiters := t.arbiters, nextPacket := t.nextPacket } ∧
    t.ctx.unsent = (v { s.ctx with accesses := s.ctx.accesses.filter (fun b => b.id != a.id) }).unsent

section

variable (stands : a ∈ s.ctx.accesses) (only : ∀ b ∈ s.ctx.accesses, b.id = a.id → b = a) (planned : a.stage = .planned)
  (plain : a.kind.isCache = false) (returned : ∀ q ∈ a.parts, q.stage = .returned)
include stands only planned plain returned

/-- Its data is delivered, and what waits behind it is sent on its way. -/
theorem finishAccess_delivers : finishAccess s a = settle (deliver s a) := by
  have whole : a.parts.all (fun q => q.stage == .returned) = true := List.all_eq_true.mpr fun q hq => by simp [returned q hq]
  unfold finishAccess
  dsimp only
  rw [performOwn_returned returned, find_access stands only]
  simp [plain, planned, whole]

theorem leaves_of_delivers (resident : outlived s = false) {v : Context → Context} (delivers : Delivers s a v) {i : Instr}
    (performs : exec i s = .next (sweep (finishAccess s a))) : Leaves s a v i := by
  obtain ⟨frame, unsent⟩ := settle_settled (deliver s a)
  have run : (settle (deliver s a)).ctx.run = s.ctx.run := (settle_same _ Context.run fun _ => rfl).trans (deliver_run s a)
  have self : (settle (deliver s a)).self = s.self := by rw [frame, delivers]; rfl
  have stays : outlived (settle (deliver s a)) = false := by rw [← resident]; unfold outlived; rw [run, self]
  rw [finishAccess_delivers stands only planned plain returned, sweep_of_resident stays] at performs
  refine ⟨_, performs, ?_, ?_⟩
  · rw [delivers] at frame ⊢
    exact frame
  · rw [unsent, delivers]
    rfl

end

/-- Settles O38: the event finds its access, delivers its data by the access's kind, and neither a sweep nor a fault follows. -/
theorem accessesComplete : Obligations.AccessesComplete := by
  unfold Obligations.AccessesComplete
  intro s n a stands only planned plain returned resident
  have leaves {v : Context → Context} {i : Instr} := leaves_of_delivers stands only planned plain returned resident (v := v) (i := i)
  refine ⟨fun nth => ?_, fun nth => ?_⟩
  · have performs : exec (.loadReply n) s = .next (sweep (finishAccess s a)) := by
      rw [exec_loadReply, execLoadReply, nth]
    refine ⟨fun k sg pos kind => ?_, fun k o kind => ?_, fun kind => ?_⟩
    · have delivers : Delivers s a (Context.setG a.dest (loadValue a)) := deliver_register (by rw [kind]; rfl) (by rw [kind]; rfl)
      rw [loadValue_load pos kind] at delivers
      exact leaves delivers performs
    · have value : loadValue a = BitVec.ofNat 64 (a.data.headD 0) := by
        rcases kind with kind | kind <;> simp only [loadValue, kind]
      have delivers : Delivers s a (Context.setG a.dest (loadValue a)) := by
        rcases kind with kind | kind <;> exact deliver_register (by rw [kind]; rfl) (by rw [kind]; rfl)
      rw [value] at delivers
      exact leaves delivers performs
    · refine leaves (deliver_rows ?_ ?_) performs <;> rcases kind with kind | kind | kind <;> rw [kind] <;> rfl
  · have performs : exec (.writeAcknowledgment n) s = .next (sweep (finishAccess s a)) := by
      rw [exec_writeAcknowledgment, execWriteAcknowledgment, nth]
    have store : a.kind.isStore = true := (List.mem_filter.mp (List.mem_of_getElem? nth)).2
    obtain ⟨register, row⟩ := AccKind.isStore_delivers_nothing store
    exact leaves (deliver_nothing register row) performs

end Sys2Proof.Machine
end

section
/-! SUPPORT. The execute slice's lane forms: moves, unary and two-source float forms, comparisons, integer forms, predicates, selection and permutes
(R160 to R173, R178 to R184). -/

namespace Sys2Proof.Machine

/-! ## Issues of the lane forms (R37, R118, R119, R121) -/

/-- A word that could issue but for its own checks is ILLEGAL where these refuse it. -/
theorem issueX_illegal {s : State} {o o' : XOp} (ready : ExecuteReady s o) (illegal : o'.illegal = true)
    (f : State → List Nat → Nat → XResult) : issueX s o' f = .next (trapSync s .execute .illegal) := by
  obtain ⟨running, going, sound, turn, -⟩ := ready
  simp [issueX, canIssue, Context.ended, running, going, sound, turn, XOp.isIllegal, illegal]

/-- The source lanes that an issue computes with are those of the instruction. -/
theorem srcLane_landDue (s : State) (o : XOp) (j l : Nat) :
    srcLane (landDue s) (o.srcs.map (readSrc (landDue s))) j l = o.lane s j l := by
  simp only [srcLane, (landDue_landed s).laneBits, XOp.lane]

theorem XOp.flagsOf_none (s : State) (o : XOp) : o.flagsOf s (fun _ => Num.Flags.none) = .none := by
  simp [flagsOf]

/-- A predicate is never written to vq (R118). -/
theorem ExecuteReady.dest_ne_vq {s : State} {o : XOp} (ready : ExecuteReady s o) (cls : o.cls = .predicate) : o.dest ≠ 0x11 := by
  obtain ⟨-, -, -, -, legal, -⟩ := ready
  intro h
  simp [XOp.isIllegal, destOk, cls, h] at legal

section

variable {i : Instr} {s : State} {o : XOp}

/-- A ready instruction whose result has no flags, on the lanes as the instruction reads them. -/
theorem xissues_lanes {f : State → List Nat → Nat → Nat → Nat} {value : Nat → Nat}
    (he : exec i s = issueX s o (fun s rows mask => plainLanes s (f s rows mask))) (ready : ExecuteReady s o) (cls : o.cls ≠ .predicate)
    (hv : ∀ l, f (landDue s) (o.srcs.map (readSrc (landDue s))) (o.mask s) l = value l) : XIssues i s o value .none := by
  rw [← funext hv]
  exact xissues_plain he ready cls

/-- A ready instruction whose lanes raise flags, on the lanes as the instruction reads them. -/
theorem xissues_flagged {f : State → List Nat → Nat → Nat → Nat × Num.Flags} {value : Nat → Nat × Num.Flags}
    (he : exec i s = issueX s o (fun s rows mask => flagLanes s mask (f s rows mask))) (ready : ExecuteReady s o) (cls : o.cls ≠ .predicate)
    (hv : ∀ l, f (landDue s) (o.srcs.map (readSrc (landDue s))) (o.mask s) l = value l) :
    XIssues i s o (fun l => (value l).1) (o.flagsOf s (fun l => (value l).2)) := by
  rw [← funext hv]
  exact xissues_flag he ready cls

/-- A ready comparison of lanes. -/
theorem pissues_flagged {f : State → List Nat → Nat → Nat → Bool × Num.Flags} {value : Nat → Bool × Num.Flags}
    (he : exec i s = issueX s o (fun s rows mask => predLanes s mask (f s rows mask))) (ready : ExecuteReady s o) (cls : o.cls = .predicate)
    (hv : ∀ l, f (landDue s) (o.srcs.map (readSrc (landDue s))) (o.mask s) l = value l) :
    PIssues i s o (fun l => (value l).1) (o.flagsOf s (fun l => (value l).2)) := by
  rw [← funext hv]
  generalize hg : f (landDue s) (o.srcs.map (readSrc (landDue s))) (o.mask s) = g
  have lanes := (landDue_landed s).lanes
  refine pissues he ready cls (ready.dest_ne_vq cls) (fun l hl => ?_) ?_
  · simp only [hg, predLanes, List.map_map, Function.comp_def, lanes]
    rw [Nat.mod_eq_of_lt (pack1_lt _ _), bitOf_pack_range _ _ hl]
  · simp only [hg, predLanes, List.map_map, Function.comp_def, lanes]
    rw [collectLanes_range 1 (o.mask s) s.lanes (fun l => (0, (g l).2))]
    rfl

end

/-! ## Moves and placement (R162, R163) -/

/-- Settles O20: each form gives its table's lane. -/
theorem movesAndPlacement : Obligations.MovesAndPlacement := by
  intro s d a k u one no
  have lanes := srcLane_landDue s one 0
  refine ⟨fun ready => ⟨?_, fun i inside => ?_⟩, fun ready => ⟨?_, fun t ok => ?_⟩, fun n ready => ?_, fun i inside => ?_⟩
  · exact xissues_lanes (exec_mov d a k u s) ready nofun lanes
  · have he : exec (.bcast d a i k u) s = _ := exec_bcast d a i k u s
    rw [execBcast, decide_eq_false (by omega : ¬ s.lanes ≤ i.val)] at he
    exact xissues_lanes he ready nofun fun _ => lanes i.val
  · exact xissues_lanes (exec_zero d k s) ready nofun fun _ => rfl
  · have he : exec (.iota d t k) s = _ := exec_iota d t k s
    rw [execIota, ok] at he
    refine xissues_lanes he ready nofun fun l => ?_
    cases t.fmt? with
    | some f => rfl
    | none => exact Int.toNat_natCast (l % 2 ^ t.width)
  · refine xissues_lanes (exec_movMain d n k s) ready nofun fun l => ?_
    rw [(landDue_landed s).laneBits]
  · intro o ready
    have he : exec (.extr a i u) s = _ := exec_extr a i u s
    rw [execExtr, decide_eq_false (by omega : ¬ s.lanes ≤ i.val)] at he
    exact xissues_lanes he ready nofun fun _ => srcLane_landDue s o 0 i.val

/-! ## Float forms (R160, R164 to R168) -/

section

variable {i : Instr} {s : State} {d : Fin 256} {a b c : Fin 16} {t : ElemType} {k : Fin 8} {u v : Bool} {f : Num.Fmt}
  (ok : floatOk s.laneBits t = true) (hf : t.fmt? = some f)
include ok hf

theorem floatBinary_issues {op : Float2} {latency : Nat} (he : exec i s = floatBinary op latency d a b t k u v s) :
    let o := valueOp d [(a, u), (b, v)] k latency false
    let r (l : Nat) := op f (landDue s).ctx.rm (landDue s).ctx.ftz (o.lane s 0 l) (o.lane s 1 l)
    ExecuteReady s o → XIssues i s o (fun l => (r l).1) (o.flagsOf s (fun l => (r l).2)) := by
  intro o r ready
  rw [floatBinary, ok, hf] at he
  refine xissues_flagged (o := o) (value := r) he ready nofun fun l => ?_
  rw [srcLane_landDue, srcLane_landDue]; rfl

theorem floatUnary_issues {op : Num.Fmt → Bool → Nat → Nat × Num.Flags} {latency : Nat} (he : exec i s = floatUnary op latency d a t k u s) :
    let o := valueOp d [(a, u)] k latency false
    let r (l : Nat) := op f (landDue s).ctx.ftz (o.lane s 0 l)
    ExecuteReady s o → XIssues i s o (fun l => (r l).1) (o.flagsOf s (fun l => (r l).2)) := by
  intro o r ready
  rw [floatUnary, ok, hf] at he
  refine xissues_flagged (o := o) (value := r) he ready nofun fun l => ?_
  rw [srcLane_landDue]; rfl

theorem floatFused_issues {p n : Bool} (he : exec i s = floatFused t p n d a b c k u v s) :
    let o := valueOp d [(a, u), (b, v), (c, false)] k 4 false
    let r (l : Nat) := Num.fused f (landDue s).ctx.rm (landDue s).ctx.ftz p n (o.lane s 0 l) (o.lane s 1 l) (o.lane s 2 l)
    ExecuteReady s o → XIssues i s o (fun l => (r l).1) (o.flagsOf s (fun l => (r l).2)) := by
  intro o r ready
  rw [floatFused, ok, hf] at he
  refine xissues_flagged (o := o) (value := r) he ready nofun fun l => ?_
  rw [srcLane_landDue, srcLane_landDue, srcLane_landDue]; rfl

end

/-- FNEG adds the sign's weight: the bits below it stay and the sign is turned (R167). -/
theorem add_signBit_mod (f : Num.Fmt) (x : Nat) : (x + f.signBit) % 2 ^ f.width =
    x % 2 ^ (f.width - 1) + (1 - x / 2 ^ (f.width - 1) % 2) * 2 ^ (f.width - 1) := by
  have w : f.width = f.ebits + f.mbits + 1 := rfl
  rw [w, Nat.add_sub_cancel, Num.Fmt.signBit, Nat.pow_succ, Nat.mod_mul, Nat.add_mod_right, Nat.add_div_right _ (Nat.two_pow_pos _)]
  have flip : (x / 2 ^ (f.ebits + f.mbits) + 1) % 2 = 1 - x / 2 ^ (f.ebits + f.mbits) % 2 := by omega
  rw [flip, Nat.mul_comm]

/-! ## Comparisons (R166, R171) -/

/-- Settles O25: FCMP is `Num.fcmp` of each lane, VCMP compares the lanes as integers. -/
theorem vectorComparisons : Obligations.VectorComparisons := by
  intro s p a b t k u v _ o ready
  refine ⟨fun x f ok hf => ?_, fun ok => ?_⟩
  · intro r
    have he : exec (.fcmp x p a b t k u v) s = _ := exec_fcmp x p a b t k u v s
    rw [execFcmp, ok, hf] at he
    refine pissues_flagged (o := o) (value := r) he ready rfl fun l => ?_
    rw [srcLane_landDue s o, srcLane_landDue s o]; rfl
  · intro x y
    have each (c : ICond) : PIssues (.vcmp c p a b t k u v) s o (fun l => icondHolds c (x l) (y l)) .none := by
      have he : exec (.vcmp c p a b t k u v) s = _ := exec_vcmp c p a b t k u v s
      rw [execVcmp, ok] at he
      rw [← o.flagsOf_none s]
      refine pissues_flagged (o := o) (value := fun l => (icondHolds c (x l) (y l), .none)) he ready rfl fun l => ?_
      rw [srcLane_landDue s o, srcLane_landDue s o]
    have differ : (fun l => icondHolds .ne (x l) (y l)) = fun l => decide (x l ≠ y l) := funext fun l => by
      simp [icondHolds, bne, BEq.beq]
    exact ⟨each .eq, differ ▸ each .ne, each .lt, each .le⟩

/-! ## Integer forms (R169 to R172) -/

section

variable {i : Instr} {s : State} {d : Fin 256} {a b : Fin 16} {t : ElemType} {k : Fin 8} {u v : Bool} (ok : intOk s.laneBits t = true)
include ok

theorem intBinary_issues {op : ElemType → Int → Int → Nat} {op' : Int → Int → Nat} (he : exec i s = intBinary op d a b t k u v s)
    (same : ∀ x y, op t x y = op' x y) (ready : ExecuteReady s (valueOp d [(a, u), (b, v)] k 1 false)) :
    let o := valueOp d [(a, u), (b, v)] k 1 false
    XIssues i s o (fun l => op' (t.toInt (o.lane s 0 l)) (t.toInt (o.lane s 1 l))) .none := by
  intro o
  rw [intBinary, ok] at he
  refine xissues_lanes (o := o) he ready nofun fun l => ?_
  rw [srcLane_landDue s o, srcLane_landDue s o, same]

theorem intUnary_issues {op : ElemType → Int → Nat} {op' : Int → Nat} (he : exec i s = intUnary op d a t k u s)
    (same : ∀ x, op t x = op' x) (ready : ExecuteReady s (valueOp d [(a, u)] k 1 false)) :
    let o := valueOp d [(a, u)] k 1 false
    XIssues i s o (fun l => op' (t.toInt (o.lane s 0 l))) .none := by
  intro o
  rw [intUnary, ok] at he
  refine xissues_lanes (o := o) he ready nofun fun l => ?_
  rw [srcLane_landDue s o, same]

end

/-- A shift by the width or more leaves nothing (R170). -/
theorem narrow_shl (t : ElemType) (x : Int) (n : Nat) :
    t.narrow (x * 2 ^ n) = if t.width ≤ n then 0 else (x * 2 ^ n % 2 ^ t.width).toNat := by
  split
  · next h =>
    have zero : x * 2 ^ n % 2 ^ t.width = 0 := Int.emod_eq_zero_of_dvd ((pow_dvd_pow 2 h).mul_left x)
    rw [ElemType.narrow, Num.wrapz, zero]; rfl
  · rfl

theorem narrow_shr (t : ElemType) (x : Int) (n : Nat) : t.narrow (Int.fdiv x (2 ^ n)) = (x / 2 ^ n % 2 ^ t.width).toNat := by
  rw [Int.fdiv_eq_ediv_of_nonneg _ (by positivity)]; rfl

/-- Settles O26: each form is `intBinary` of its own operation. -/
theorem integerArithmetic : Obligations.IntegerArithmetic := by
  intro s d a b t k u v ok o n wrap sat gives ready
  have group {i : Instr} {op : ElemType → Int → Int → Nat} (he : exec i s = intBinary op d a b t k u v s) {op' : Int → Int → Nat}
      (same : ∀ x y, op t x y = op' x y) : gives i op' := intBinary_issues ok he same ready
  exact ⟨group (exec_vadd d a b t k u v s) fun _ _ => rfl, group (exec_vsub d a b t k u v s) fun _ _ => rfl,
    group (exec_vadds d a b t k u v s) fun _ _ => t.saturate_eq _, group (exec_vsubs d a b t k u v s) fun _ _ => t.saturate_eq _,
    group (exec_vmul d a b t k u v s) fun _ _ => rfl, group (exec_vmulh d a b t k u v s) fun _ _ => rfl,
    group (exec_vmin d a b t k u v s) fun _ _ => rfl, group (exec_vmax d a b t k u v s) fun _ _ => rfl,
    group (exec_vand d a b t k u v s) fun _ _ => rfl, group (exec_vor d a b t k u v s) fun _ _ => rfl,
    group (exec_vxor d a b t k u v s) fun _ _ => rfl, group (exec_vshl d a b t k u v s) fun x y => narrow_shl t x _,
    group (exec_vshr d a b t k u v s) fun x y => narrow_shr t x _, group (exec_vshls d a b t k u v s) fun _ _ => t.saturate_eq _⟩

/-- A count of leading zeros says between which powers of two a number stands (R172). -/
theorem leadingZeros_bounds {n x : Nat} (small : x < 2 ^ n) : leadingZeros n x ≤ n ∧ x < 2 ^ (n - leadingZeros n x) ∧
    (leadingZeros n x < n → 2 ^ (n - 1 - leadingZeros n x) ≤ x) := by
  unfold leadingZeros
  by_cases zero : x = 0
  · simp [zero]
  · have top : x.log2 < n := (Nat.log2_lt zero).mpr small
    rw [if_neg zero, show n - (n - 1 - x.log2) = x.log2 + 1 by omega, show n - 1 - (n - 1 - x.log2) = x.log2 by omega]
    exact ⟨by omega, Nat.lt_log2_self, fun _ => Nat.log2_self_le zero⟩

/-- Settles O27: each form is `intUnary` of its own operation; VCLZ's count by its bounds. -/
theorem integerUnary : Obligations.IntegerUnary := by
  intro s d a t k u ok o n x bits wrap sat gives ready
  have group {i : Instr} {op : ElemType → Int → Nat} (he : exec i s = intUnary op d a t k u s) {op' : Int → Nat}
      (same : ∀ x, op t x = op' x) : XIssues i s o (fun l => op' (x l)) .none := intUnary_issues ok he same ready
  have small (l : Nat) : bits l < 2 ^ n := by
    have pos : (0 : Int) < 2 ^ n := by positivity
    have lt := Int.emod_lt_of_pos (x l) pos
    have eq := Int.toNat_of_nonneg (Int.emod_nonneg (x l) pos.ne')
    zify; exact eq ▸ lt
  exact ⟨group (exec_vabs d a t k u s) fun _ => rfl, group (exec_vabss d a t k u s) fun _ => t.saturate_eq _,
    group (exec_vneg d a t k u s) fun _ => rfl, group (exec_vnegs d a t k u s) fun _ => t.saturate_eq _,
    group (exec_vnot d a t k u s) fun _ => rfl, group (exec_vpopc d a t k u s) fun _ => popCount_eq_countP _ _,
    fun l => leadingZeros n (bits l), group (exec_vclz d a t k u s) fun _ => rfl, fun l => leadingZeros_bounds (small l)⟩

/-! ## Predicates and selection (R178, R179) -/

theorem bitOf_or (x y l : Nat) : bitOf (x ||| y) l = (bitOf x l || bitOf y l) := by simp only [bitOf_eq_testBit, Nat.testBit_or]

theorem bitOf_xor (x y l : Nat) : bitOf (x ^^^ y) l = (bitOf x l != bitOf y l) := by simp only [bitOf_eq_testBit, Nat.testBit_xor]

theorem bitOf_mod (x : Nat) {n l : Nat} (h : l < n) : bitOf (x % 2 ^ n) l = bitOf x l := by
  simp [bitOf_eq_testBit, Nat.testBit_mod_two_pow, h]

theorem bitOf_complement {n l x : Nat} (small : x < 2 ^ n) (h : l < n) : bitOf (2 ^ n - 1 - x) l = !bitOf x l := by
  rw [show 2 ^ n - 1 - x = 2 ^ n - (x + 1) by omega]
  simp [bitOf_eq_testBit, Nat.testBit_two_pow_sub_succ small, h]

/-- A predicate instruction sets each lane by the lanes of the predicates it reads. -/
theorem predicate_issues {i : Instr} {s : State} {d : Fin 256} {k : Fin 8} {f : Nat → Context → Nat} {value : Nat → Bool}
    (he : exec i s = predicate d k s f) (ready : ExecuteReady s (predOp d k false))
    (hv : ∀ l, l < s.lanes → bitOf (f s.lanes (landDue s).ctx) l = value l) : PIssues i s (predOp d k false) value .none := by
  refine pissues he ready rfl (ready.dest_ne_vq rfl) (fun l hl => ?_) rfl
  rw [bitOf_mod _ hl, (landDue_landed s).lanes, hv l hl]

/-- Settles O30: the predicate group bit by bit, KPOP from the head of cq, SEL by its selector. -/
theorem predicatesAndSelection : Obligations.PredicatesAndSelection := by
  refine ⟨fun s d a b k => ?_, fun s d a b k u v => ?_⟩
  · intro o bit
    refine ⟨fun ready => ?_, fun ready => ?_⟩
    · have lt (r : Fin 8) : (landDue s).ctx.getK s.lanes r < 2 ^ s.lanes := getK_lt _ _ _
      refine ⟨predicate_issues (exec_kand d a b k s) ready fun l _ => bitOf_and _ _ l,
        predicate_issues (exec_kor d a b k s) ready fun l _ => bitOf_or _ _ l,
        predicate_issues (exec_kxor d a b k s) ready fun l _ => bitOf_xor _ _ l,
        predicate_issues (exec_kandn d a b k s) ready fun l hl => ?_,
        predicate_issues (exec_knot d a k s) ready fun l hl => bitOf_complement (lt a) hl,
        predicate_issues (exec_kmov d a k s) ready fun _ _ => rfl⟩
      rw [bitOf_and, bitOf_complement (lt b) hl]
    · refine pissues (exec_kpop d k s) ready rfl (ready.dest_ne_vq rfl) (fun l hl => ?_) rfl
      obtain ⟨-, -, cq, -⟩ := landDue_landed s
      rw [bitOf_mod _ hl, (landDue_landed s).lanes, bitOf_mod _ hl, cq]
  · intro o ready
    refine xissues_lanes (exec_selExecute d a b k u v s) ready nofun fun l => ?_
    rw [srcLane_landDue s o, srcLane_landDue s o]

/-! ## Permutes (R181 to R184) -/

theorem rowBits_landDue (s : State) : (landDue s).rowBits = s.rowBits := by simp only [State.rowBits, (landDue_landed s).self]

/-- A type that PERM and SHUF take divides the row. -/
theorem width_mul_of_plainOk {s : State} {t : ElemType} (ok : plainOk s.laneBits t = true) : t.width * (s.rowBits / t.width) = s.rowBits := by
  rcases rowBits_cases s with h | h <;> rw [h] <;> cases t <;> simp_all [plainOk, ElemType.width]

/-- SHUF's row: of n elements of a row, those that the pattern names, packed (R183). -/
def shufRow (source width n : Nat) (p : ShufPattern) : Nat :=
  packLanes width ((List.range n).map (fun i => laneOf source width (shufIndex p n i)))

theorem laneOf_mod (x w l : Nat) : laneOf x w l % 2 ^ w = laneOf x w l := Nat.mod_mod _ _

theorem laneOf_shufRow (source width : Nat) (p : ShufPattern) {n i : Nat} (h : i < n) :
    laneOf (shufRow source width n p) width i = laneOf source width (shufIndex p n i) := by
  rw [shufRow, laneOf_pack_range _ _ _ h, laneOf_mod]

theorem shufRow_lt (source width n : Nat) (p : ShufPattern) : shufRow source width n p < 2 ^ (width * n) := by
  simpa [shufRow] using packLanes_lt width ((List.range n).map (fun i => laneOf source width (shufIndex p n i)))

/-- Settles O32: each permute gives its table's lane, and SHUF's row is packed of the elements of its pattern. -/
theorem permutes : Obligations.Permutes := by
  intro s d a b k u v one two
  have lanes := (landDue_landed s).lanes
  refine ⟨fun ready => ⟨fun t ok => ?_, fun n => ?_⟩, fun ready => ⟨fun n inside => ?_, fun p t ok => ?_⟩⟩
  · have he : exec (.perm d a b t k u v) s = _ := exec_perm d a b t k u v s
    rw [execPerm, permute, ok] at he
    refine xissues_lanes (o := two) he ready nofun fun l => ?_
    simp only [srcLane_landDue s two, lanes]
  · refine xissues_lanes (o := two) (exec_slide d a b n k u v s) ready nofun fun l => ?_
    simp only [srcLane_landDue s two, lanes]
  · have he : exec (.rot d a n k u) s = _ := exec_rot d a n k u s
    rw [execRot, permute, decide_eq_false (by omega : ¬ s.lanes ≤ n.val)] at he
    refine xissues_lanes (o := one) he ready nofun fun l => ?_
    simp only [srcLane_landDue s one, lanes]
  · intro n
    have he : exec (.shuf d a p t k u) s = _ := exec_shuf d a p t k u s
    rw [execShuf, ok] at he
    have row : shufRow (readSrc (landDue s) ⟨a, u⟩) t.width ((landDue s).rowBits / t.width) p =
        shufRow (readSrc (landDue s) ⟨a, u⟩) t.width n p := by rw [rowBits_landDue]
    have fits := shufRow_lt (readSrc (landDue s) ⟨a, u⟩) t.width n p
    rw [width_mul_of_plainOk ok] at fits
    refine ⟨_, fun i hi => laneOf_shufRow _ _ p hi, xissues (o := one) he ready nofun (fun l _ => ?_) ?_ rfl⟩
    · rw [laneOf_mod]
      exact congrArg (laneOf · s.laneBits l) row
    · exact Nat.lt_of_lt_of_le (row.trans_lt fits) (Nat.pow_le_pow_right (by decide) (rowBits_le s))

end Sys2Proof.Machine
namespace Sys2Proof.Num

open Sys2Proof.Machine

/-- Settles O23: each form is `floatUnary` of its own operation. -/
theorem floatUnary : Obligations.FloatUnary := by
  intro s d a t k u f ok hf ftz gives
  have group {i : Instr} (op : Fmt → Bool → Nat → Nat × Flags) {latency : Nat}
      (he : exec i s = Machine.floatUnary op latency d a t k u s) : gives i latency (op f ftz) := floatUnary_issues ok hf he
  have abs := group (fun f _ x => (x % f.signBit, .none)) (exec_fabs d a t k u s)
  have neg := group (fun f _ x => ((x + f.signBit) % 2 ^ f.width, .none)) (exec_fneg d a t k u s)
  have cls := group (fun f ftz x => (fclass f ftz x, .none)) (exec_fclass d a t k u s)
  simp only [add_signBit_mod] at neg
  exact ⟨abs, neg, cls, group frcp (exec_frcp d a t k u s),
    group frsqrt (exec_frsqrt d a t k u s), group fsqrt (exec_fsqrt d a t k u s), group fexp2 (exec_fexp2 d a t k u s),
    group flog2 (exec_flog2 d a t k u s), group ftanh (exec_ftanh d a t k u s), group fsig (exec_fsig d a t k u s)⟩

end Sys2Proof.Num
end

section
/-! SUPPORT. Rounding (R34): the codes of a format in the order of their magnitudes, and the model's one rounding as the choice between the two
codes that enclose a value. -/

namespace Sys2Proof.Num

/-! ## Magnitudes (R32) -/

/-- The magnitude of a code without its sign, in units of the format's last place, as though exponents went on without end. -/
def Fmt.magnitude (f : Fmt) (c : Nat) : Nat :=
  if c < 2 ^ f.mbits then c else (c % 2 ^ f.mbits + 2 ^ f.mbits) * 2 ^ (c / 2 ^ f.mbits - 1)

/-- A significand s at the k-th exponent above the least: codes run on from one exponent to the next. -/
theorem Fmt.magnitude_sig (f : Fmt) {k s : Nat} (normal : k = 0 ∨ 2 ^ f.mbits ≤ s) (small : s ≤ 2 * 2 ^ f.mbits) :
    f.magnitude (s + k * 2 ^ f.mbits) = s * 2 ^ k := by
  unfold magnitude
  have pos := Nat.two_pow_pos f.mbits
  generalize 2 ^ f.mbits = b at *
  by_cases sub : s < b
  · obtain rfl : k = 0 := normal.resolve_right (by omega)
    simp [sub]
  · rw [if_neg (by have := Nat.zero_le (k * b); omega)]
    rcases Nat.eq_or_lt_of_le small with rfl | lt
    · have e : 2 * b + k * b = b * (k + 2) := by ring
      rw [e, Nat.mul_mod_right, Nat.mul_div_cancel_left _ pos, Nat.zero_add, show k + 2 - 1 = k + 1 by omega]
      ring
    · have e : s + k * b = (s - b) + b * (k + 1) := by rw [Nat.mul_succ, Nat.mul_comm b k]; omega
      rw [e, Nat.add_mul_mod_self_left, Nat.add_mul_div_left _ _ pos, Nat.mod_eq_of_lt (by omega), Nat.div_eq_of_lt (by omega),
        show s - b + b = s by omega, show 0 + (k + 1) - 1 = k by omega]

/-- Every code is a significand at some exponent. -/
theorem Fmt.exists_sig (f : Fmt) (c : Nat) :
    ∃ k s, c = s + k * 2 ^ f.mbits ∧ (k = 0 ∨ 2 ^ f.mbits ≤ s) ∧ s < 2 * 2 ^ f.mbits := by
  have pos := Nat.two_pow_pos f.mbits
  generalize 2 ^ f.mbits = b at *
  have low := Nat.mod_lt c pos
  have parts := Nat.div_add_mod' c b
  by_cases sub : c < b
  · exact ⟨0, c, by omega, .inl rfl, by omega⟩
  · have one : 1 ≤ c / b := (Nat.one_le_div_iff pos).mpr (by omega)
    refine ⟨c / b - 1, c % b + b, ?_, .inr (by omega), by omega⟩
    have : (c / b - 1) * b + b = c / b * b := by rw [← Nat.succ_mul]; congr 1; omega
    omega

/-- Codes are in the order of their magnitudes. -/
theorem Fmt.magnitude_strictMono (f : Fmt) : StrictMono f.magnitude := by
  refine strictMono_nat_of_lt_succ fun c => ?_
  obtain ⟨k, s, rfl, normal, small⟩ := f.exists_sig c
  have next : s + k * 2 ^ f.mbits + 1 = s + 1 + k * 2 ^ f.mbits := by omega
  rw [next, f.magnitude_sig normal (by omega), f.magnitude_sig (normal.imp_right (by omega)) (by omega)]
  exact Nat.mul_lt_mul_of_pos_right (Nat.lt_succ_self s) (Nat.two_pow_pos k)

/-! ## Formats of the part (R32) -/

/-- What the proofs need of a format: two fraction codes at least, and an exponent besides the least and the greatest. -/
structure Fmt.Fair (f : Fmt) : Prop where
  mbits : 1 ≤ f.mbits
  ebits : 2 ≤ f.ebits

theorem fair_of_mem {f : Fmt} (h : f ∈ [f32, bf16, f16]) : f.Fair := by
  simp only [List.mem_cons, List.not_mem_nil, or_false] at h
  rcases h with rfl | rfl | rfl <;> exact ⟨by decide, by decide⟩

section
variable {f : Fmt} (fair : f.Fair)
include fair

/-- The code of infinity is that of a power of two beyond the last exponent. -/
theorem Fmt.Fair.infCode_eq : ∃ b k, 2 ^ f.mbits = 2 * b ∧ 0 < b ∧ f.infCode = 4 * b + k * (2 * b) ∧
    f.infCode + 2 * b = f.signBit := by
  obtain ⟨hm, he⟩ := fair
  have em : 2 ^ f.mbits = 2 * 2 ^ (f.mbits - 1) := by rw [← Nat.pow_succ']; congr 1; omega
  have ee : 2 ^ f.ebits = 4 * 2 ^ (f.ebits - 2) := by
    rw [show f.ebits = f.ebits - 2 + 2 by omega, Nat.pow_add]; simp; omega
  have be := Nat.two_pow_pos (f.ebits - 2)
  refine ⟨2 ^ (f.mbits - 1), 2 ^ f.ebits - 3, em, Nat.two_pow_pos _, ?_, ?_⟩
  · rw [infCode, em, show 2 ^ f.ebits - 1 = 2 + (2 ^ f.ebits - 3) by omega]
    ring
  · rw [infCode, signBit, Nat.pow_add, em, ← Nat.succ_mul]
    congr 1; omega

/-- The steps to the last two finite magnitudes and to the one beyond them are alike. -/
theorem Fmt.Fair.top_step : f.magnitude f.infCode + f.magnitude (f.infCode - 2) = 2 * f.magnitude (f.infCode - 1) := by
  obtain ⟨b, k, em, pos, e, -⟩ := fair.infCode_eq
  have at0 := f.magnitude_sig (k := k) (s := 4 * b) (.inr (by omega)) (by omega)
  have at1 := f.magnitude_sig (k := k) (s := 4 * b - 1) (.inr (by omega)) (by omega)
  have at2 := f.magnitude_sig (k := k) (s := 4 * b - 2) (.inr (by omega)) (by omega)
  rw [em] at at0 at1 at2
  rw [show f.infCode - 1 = 4 * b - 1 + k * (2 * b) by omega, show f.infCode - 2 = 4 * b - 2 + k * (2 * b) by omega, at1, at2, e, at0,
    ← Nat.add_mul, ← Nat.mul_assoc]
  congr 1; omega

theorem Fmt.Fair.infCode_bounds : 4 ≤ f.infCode ∧ f.infCode < f.signBit ∧ f.infCode % 2 = 0 ∧ f.signBit % 2 = 0 := by
  obtain ⟨b, k, -, pos, e, s⟩ := fair.infCode_eq
  have even : k * (2 * b) = 2 * (k * b) := by ring
  omega

end

/-! ## Values of codes (R32) -/

theorem Fmt.signBit_pos (f : Fmt) : 0 < f.signBit := Nat.two_pow_pos _

theorem Fmt.two_signBit (f : Fmt) : 2 ^ f.width = 2 * f.signBit := by
  rw [width, signBit, Nat.pow_succ']

/-- A code's exponent field stands below its sign. -/
theorem Fmt.exp_eq (f : Fmt) (c : Nat) : c % f.signBit / 2 ^ f.mbits = c / 2 ^ f.mbits % 2 ^ f.ebits := by
  rw [signBit, Nat.add_comm, Nat.pow_add, Nat.mod_mul_right_div_self]

/-- The value of a finite code in units of 2^q: its sign, and its magnitude. -/
theorem finiteAt_eq {f : Fmt} {q : Int} (hq : q ≤ f.least) (c : Nat) :
    finiteAt f q c = if c % f.signBit < f.infCode then
      some (Val.signed (signOf f c) (f.magnitude (c % f.signBit) * 2 ^ (f.least - q).toNat)) else none := by
  have exp := f.exp_eq c
  have frac : c % f.signBit % 2 ^ f.mbits = c % 2 ^ f.mbits :=
    Nat.mod_mod_of_dvd c (Nat.pow_dvd_pow 2 (by omega))
  have pos := Nat.two_pow_pos f.mbits
  have lt := Nat.mod_lt (c / 2 ^ f.mbits) (Nat.two_pow_pos f.ebits)
  have finite : c % f.signBit < f.infCode ↔ c / 2 ^ f.mbits % 2 ^ f.ebits ≠ 2 ^ f.ebits - 1 := by
    rw [Fmt.infCode, ← Nat.div_lt_iff_lt_mul pos, exp]; omega
  have sub : c % f.signBit < 2 ^ f.mbits ↔ c / 2 ^ f.mbits % 2 ^ f.ebits = 0 := by
    rw [← exp, Nat.div_eq_zero_iff]; omega
  unfold finiteAt unpack
  dsimp only
  by_cases top : c / 2 ^ f.mbits % 2 ^ f.ebits = 2 ^ f.ebits - 1
  · rw [if_pos top, if_neg (mt finite.mp (not_not_intro top))]
    by_cases zero : c % 2 ^ f.mbits = 0
    · rw [if_pos zero]
    · rw [if_neg zero]
  · rw [if_neg top, if_pos (finite.mpr top), Fmt.magnitude]
    by_cases zero : c / 2 ^ f.mbits % 2 ^ f.ebits = 0
    · rw [if_pos zero, if_pos (sub.mpr zero)]
      have small : c % 2 ^ f.mbits = c % f.signBit := by rw [← frac, Nat.mod_eq_of_lt (sub.mpr zero)]
      rw [small]
      rfl
    · rw [if_neg zero, if_neg (by rw [sub]; exact zero), exp, frac]
      have split : ((c / 2 ^ f.mbits % 2 ^ f.ebits : Nat) - f.bias - f.mbits - q : Int).toNat =
          (c / 2 ^ f.mbits % 2 ^ f.ebits - 1) + (f.least - q).toNat := by unfold Fmt.least at hq ⊢; omega
      rw [Nat.mul_assoc, ← Nat.pow_add, ← split]
      rfl

/-! ## The one rounding (R34) -/

/-- A power of two in units of another, through a third between them. -/
theorem two_pow_split {p q r : Int} (hr : q ≤ r) (hq : p ≤ q) : 2 ^ (r - q).toNat * 2 ^ (q - p).toNat = 2 ^ (r - p).toNat := by
  rw [← Nat.pow_add, show (r - q).toNat + (q - p).toNat = (r - p).toNat by omega]

/-- A code's magnitude in units of 2^q. -/
def Fmt.magnitudeAt (f : Fmt) (q : Int) (c : Nat) : Nat := f.magnitude c * 2 ^ (f.least - q).toNat

theorem Fmt.magnitudeAt_strictMono (f : Fmt) (q : Int) : StrictMono (f.magnitudeAt q) := fun _ _ h =>
  Nat.mul_lt_mul_of_pos_right (f.magnitude_strictMono h) (Nat.two_pow_pos _)

/-- The code of a sign and the code of a magnitude. -/
def Fmt.signedCode (f : Fmt) (n : Bool) (r : Nat) : Nat := (if n then f.signBit else 0) + r

/-- Code lo is the last whose magnitude is not above x. -/
structure Encloses (g : Nat → Nat) (x lo : Nat) : Prop where
  le : g lo ≤ x
  lt : x < g (lo + 1)

/-- The one of codes lo and lo + 1 that a magnitude x between them is rounded to. -/
def chosen (g : Nat → Nat) (mode : RoundMode) (neg : Bool) (x lo : Nat) : Nat :=
  lo + (roundsUp mode neg (lo % 2 == 1) (x - g lo) (g (lo + 1) - g lo) false).toNat

theorem roundsUp_exact (mode : RoundMode) (neg odd : Bool) {u : Nat} (pos : 0 < u) : roundsUp mode neg odd 0 u false = false := by
  cases mode <;> simp [roundsUp]; omega

theorem roundsUp_scale (mode : RoundMode) (neg odd : Bool) (rem u : Nat) {c : Nat} (pos : 0 < c) :
    roundsUp mode neg odd (rem * c) (u * c) false = roundsUp mode neg odd rem u false := by
  have lt : u * c < 2 * (rem * c) ↔ u < 2 * rem := by rw [← Nat.mul_assoc, Nat.mul_lt_mul_right pos]
  have eq : 2 * (rem * c) = u * c ↔ 2 * rem = u := by rw [← Nat.mul_assoc, Nat.mul_left_inj (by omega)]
  have zero (n : Nat) : n * c = 0 ↔ n = 0 := by simp; omega
  cases mode <;> simp [roundsUp, lt, eq, zero, BEq.beq]

section

variable {mant x u : Nat} {exp q p : Int} (hx : mant * 2 ^ (exp - p).toNat = x) (hu : 2 ^ (q - p).toNat = u) (he : p ≤ exp)
include hx hu he

/-- Rounding to an integer, in units of a power of two that divides both. -/
theorem roundAt_eq (mode : RoundMode) (neg : Bool) (hq : p ≤ q) : roundAt mode neg mant exp q false =
    (x / u + (roundsUp mode neg (x / u % 2 == 1) (x % u) u false).toNat, decide (x % u ≠ 0)) := by
  subst hu
  unfold roundAt
  split
  · next h =>
    have whole : x = mant * 2 ^ (exp - q).toNat * 2 ^ (q - p).toNat := by rw [← hx, Nat.mul_assoc, two_pow_split h hq]
    rw [whole, Nat.mul_mod_left, Nat.mul_div_cancel _ (Nat.two_pow_pos _), roundsUp_exact _ _ _ (Nat.two_pow_pos _)]
    rfl
  · next h =>
    have pos := Nat.two_pow_pos (exp - p).toNat
    rw [← hx, ← two_pow_split (by omega : exp ≤ q) he, Nat.mul_div_mul_right _ _ pos, Nat.mul_mod_mul_right, roundsUp_scale _ _ _ _ _ pos]
    simp

/-- The significand that a magnitude x has at its exponent q, with the exponent, is the code that encloses it. -/
theorem encloses_sig {f : Fmt} (nz : mant ≠ 0) (hp : p ≤ f.least) (hq : max (Nat.log2 mant + exp - f.mbits) f.least = q) :
    f.magnitudeAt p (x / u + (q - f.least).toNat * 2 ^ f.mbits) = x / u * u ∧
    f.magnitudeAt p (x / u + (q - f.least).toNat * 2 ^ f.mbits + 1) = x / u * u + u := by
  have pos : 0 < u := hu ▸ Nat.two_pow_pos _
  have top : x < 2 * 2 ^ f.mbits * u := by
    refine Nat.lt_of_lt_of_le (hx ▸ Nat.mul_lt_mul_of_pos_right Nat.lt_log2_self (Nat.two_pow_pos _)) ?_
    rw [← hu, ← Nat.pow_succ', ← Nat.pow_add, ← Nat.pow_add]
    exact Nat.pow_le_pow_right (by decide) (by omega)
  have normal : (q - f.least).toNat = 0 ∨ 2 ^ f.mbits ≤ x / u := by
    rcases Int.le_total (Nat.log2 mant + exp - f.mbits) f.least with h | h
    · exact .inl (by omega)
    · right
      rw [Nat.le_div_iff_mul_le pos]
      refine Nat.le_trans ?_ (hx ▸ Nat.mul_le_mul_right _ (Nat.log2_self_le nz))
      rw [← hu, ← Nat.pow_add, ← Nat.pow_add]
      exact Nat.pow_le_pow_right (by decide) (by omega)
  have sig : x / u < 2 * 2 ^ f.mbits := by rwa [Nat.div_lt_iff_lt_mul pos]
  have unit : 2 ^ (q - f.least).toNat * 2 ^ (f.least - p).toNat = u := hu ▸ two_pow_split (by omega) hp
  unfold Fmt.magnitudeAt
  rw [Nat.add_right_comm, f.magnitude_sig normal (by omega), f.magnitude_sig (normal.imp_right (by omega)) (by omega), Nat.mul_assoc,
    Nat.mul_assoc, unit]
  exact ⟨rfl, Nat.succ_mul _ _⟩

end

/-- A magnitude rounds to the code chosen of the two that enclose it, and is exact where it is the first one's. -/
theorem roundMag_chooses {f : Fmt} (fair : f.Fair) (mode : RoundMode) (neg : Bool) {mant x : Nat} (nz : mant ≠ 0) {exp p : Int}
    (hp : p ≤ f.least) (he : p ≤ exp) (hx : mant * 2 ^ (exp - p).toNat = x) :
    let r := roundMag f mode false neg mant exp false
    ∃ lo, Encloses (f.magnitudeAt p) x lo ∧
      let c := chosen (f.magnitudeAt p) mode neg x lo
      r.1 = f.signedCode neg (if f.infCode ≤ c then overflowCode f mode neg else c) ∧
      (r.2.nx = false ↔ c < f.infCode ∧ x = f.magnitudeAt p lo) ∧ r.2.nv = false ∧ r.2.dz = false := by
  intro r
  obtain ⟨q, hq⟩ : ∃ q, max (Nat.log2 mant + exp - f.mbits) f.least = q := ⟨_, rfl⟩
  obtain ⟨u, hu⟩ : ∃ u, 2 ^ (q - p).toNat = u := ⟨_, rfl⟩
  obtain ⟨at0, at1⟩ := encloses_sig hx hu he nz hp hq
  have rounds := roundAt_eq hx hu he mode neg (by omega)
  have split := Nat.div_add_mod' x u
  have low := Nat.mod_lt x (hu ▸ Nat.two_pow_pos _ : 0 < u)
  have even : ((q - f.least).toNat * 2 ^ f.mbits) % 2 = 0 := by
    obtain ⟨b, k, em, -⟩ := fair.infCode_eq
    rw [em, Nat.mul_left_comm]; exact Nat.mul_mod_right 2 _
  generalize hk : (q - f.least).toNat * 2 ^ f.mbits = k at *
  have choose : chosen (f.magnitudeAt p) mode neg x (x / u + k) =
      x / u + (roundsUp mode neg (x / u % 2 == 1) (x % u) u false).toNat + k := by
    have odd : (x / u + k) % 2 = x / u % 2 := by omega
    rw [chosen, at0, at1, odd, show x - x / u * u = x % u by omega, Nat.add_sub_cancel_left]
    omega
  have code (n : Nat) : (n : Int) + (q - f.least) * 2 ^ f.mbits = (n + k : Nat) := by
    rw [← hk, Nat.cast_add, Nat.cast_mul, Int.toNat_of_nonneg (by omega)]; simp
  refine ⟨x / u + k, ⟨by omega, by omega⟩, ?_⟩
  unfold r roundMag
  dsimp only
  rw [show (1 - (f.bias : Int) - f.mbits) = f.least from rfl, hq, rounds, code, ← choose]
  simp only [Nat.cast_le, Int.toNat_natCast, Bool.false_and, Bool.false_eq_true, if_false]
  by_cases exceeds : f.infCode ≤ chosen (f.magnitudeAt p) mode neg x (x / u + k)
  · rw [if_pos exceeds, if_pos exceeds]
    exact ⟨rfl, by simp; omega, rfl, rfl⟩
  · rw [if_neg exceeds, if_neg exceeds]
    exact ⟨rfl, by simp; omega, rfl, rfl⟩

/-! ## What the chosen code is (R34) -/

/-- The mode keeps the magnitude of a value of this sign within what it is, or takes it outward, or to the nearest. -/
theorem chosen_cases (g : Nat → Nat) (mode : RoundMode) (neg : Bool) (x lo : Nat) :
    mode = .rne ∨
    ((mode = .rtz ∨ mode = .rdn ∧ neg = false ∨ mode = .rup ∧ neg = true) ∧ chosen g mode neg x lo = lo ∧
      ∀ f : Fmt, overflowCode f mode neg = f.infCode - 1) ∨
    ((mode = .rdn ∧ neg = true ∨ mode = .rup ∧ neg = false) ∧ chosen g mode neg x lo = lo + (decide (x - g lo ≠ 0)).toNat ∧
      ∀ f : Fmt, overflowCode f mode neg = f.infCode) := by
  cases mode <;> cases neg <;> simp [chosen, roundsUp, overflowCode]

/-- To the nearest, of two as near the even one. -/
theorem Encloses.nearest {g : Nat → Nat} {x lo : Nat} (h : Encloses g x lo) (neg : Bool) :
    chosen g .rne neg x lo = lo ∧ 2 * x ≤ g lo + g (lo + 1) ∧ (2 * x = g lo + g (lo + 1) → lo % 2 = 0) ∨
    chosen g .rne neg x lo = lo + 1 ∧ g lo + g (lo + 1) ≤ 2 * x ∧ (2 * x = g lo + g (lo + 1) → lo % 2 = 1) := by
  obtain ⟨le, lt⟩ := h
  have up : roundsUp .rne neg (lo % 2 == 1) (x - g lo) (g (lo + 1) - g lo) false = true ↔
      g lo + g (lo + 1) < 2 * x ∨ 2 * x = g lo + g (lo + 1) ∧ lo % 2 = 1 := by
    have half : g (lo + 1) - g lo < 2 * (x - g lo) ↔ g lo + g (lo + 1) < 2 * x := by omega
    have tie : 2 * (x - g lo) = g (lo + 1) - g lo ↔ 2 * x = g lo + g (lo + 1) := by omega
    have unit : g (lo + 1) - g lo ≠ 0 := by omega
    simp [roundsUp, half, tie, unit]
  unfold chosen
  cases h : roundsUp .rne neg (lo % 2 == 1) (x - g lo) (g (lo + 1) - g lo) false with
  | true => rw [h] at up; exact .inr ⟨rfl, by simp at up; omega⟩
  | false => rw [h] at up; exact .inl ⟨rfl, by simp at up; omega⟩

theorem overflowCode_cases (f : Fmt) (mode : RoundMode) (neg : Bool) :
    overflowCode f mode neg = f.infCode ∨ overflowCode f mode neg = f.infCode - 1 := by
  cases mode <;> cases neg <;> simp [overflowCode]

section

variable {g : Nat → Nat} (mono : StrictMono g) {x lo : Nat} (h : Encloses g x lo)
include mono h

theorem Encloses.le_iff (j : Nat) : g j ≤ x ↔ j ≤ lo :=
  ⟨fun k => Nat.lt_succ_iff.mp (mono.lt_iff_lt.mp (Nat.lt_of_le_of_lt k h.lt)), fun k => (mono.monotone k).trans h.le⟩

/-- Outward, the least code whose magnitude is not below x. -/
theorem Encloses.outward_le_iff (j : Nat) : lo + (decide (x - g lo ≠ 0)).toNat ≤ j ↔ x ≤ g j := by
  have below := h.le_iff mono j
  by_cases exact : x = g lo
  · subst exact
    simp [mono.le_iff_le]
  · have le := h.le
    have up : decide (x - g lo ≠ 0) = true := by simp; omega
    rw [up, Bool.toNat_true]
    constructor
    · intro k; have := mono.monotone k; have := h.lt; omega
    · intro k
      have : lo < j := mono.lt_iff_lt.mp (by omega)
      omega

end

/-! ## Rounded codes (R34) -/

/-- A code made of a sign and a magnitude below the sign's weight. -/
theorem signedCode_parts {f : Fmt} (n : Bool) {r : Nat} (hr : r < f.signBit) :
    f.signedCode n r % f.signBit = r ∧ f.signedCode n r / f.signBit = n.toNat := by
  unfold Fmt.signedCode
  cases n with
  | true => simp [Nat.mod_eq_of_lt hr, Nat.add_div_left _ f.signBit_pos, Nat.div_eq_of_lt hr]
  | false => simp [Nat.mod_eq_of_lt hr, Nat.div_eq_of_lt hr]

section

variable {f : Fmt} {q : Int} (hq : q ≤ f.least)
include hq

/-- Every finite value is that of a sign and a magnitude. -/
theorem finiteAt_some {c : Nat} {u : Int} (h : finiteAt f q c = some u) :
    ∃ n j, j < f.infCode ∧ u = Val.signed n (f.magnitudeAt q j) := by
  rw [finiteAt_eq hq] at h
  split at h
  · next lt => exact ⟨_, _, lt, (Option.some.inj h).symm⟩
  · cases h

theorem finiteAt_signedCode (n : Bool) {r : Nat} (hr : r < f.signBit) :
    finiteAt f q (f.signedCode n r) = if r < f.infCode then some (Val.signed n (f.magnitudeAt q r)) else none := by
  obtain ⟨low, sign⟩ := signedCode_parts n hr
  rw [finiteAt_eq hq, low, signOf, sign, Fmt.magnitudeAt]
  cases n <;> rfl

end

theorem unpack_infCode {f : Fmt} (fair : f.Fair) (n : Bool) : unpack f (f.signedCode n f.infCode) = .inf n := by
  obtain ⟨low, sign⟩ := signedCode_parts n fair.infCode_bounds.2.1
  have exp : f.signedCode n f.infCode / 2 ^ f.mbits % 2 ^ f.ebits = 2 ^ f.ebits - 1 := by
    rw [← f.exp_eq, low, Fmt.infCode, Nat.mul_div_cancel _ (Nat.two_pow_pos _)]
  have frac : f.signedCode n f.infCode % 2 ^ f.mbits = 0 := by
    rw [← Nat.mod_mod_of_dvd _ (Nat.pow_dvd_pow 2 (Nat.le_add_left f.mbits f.ebits)), ← Fmt.signBit, low, Fmt.infCode, Nat.mul_mod_left]
  simp only [unpack, exp, frac, sign, if_true]
  cases n <;> rfl

theorem Val.signed_neg_iff (n : Bool) {x : Nat} (pos : 0 < x) : Val.signed n x < 0 ↔ n = true := by
  cases n with
  | true => simp [Val.signed, pos]
  | false => simp [Val.signed]

@[simp] theorem Val.natAbs_signed (n : Bool) (x : Nat) : (Val.signed n x).natAbs = x := by cases n <;> simp [Val.signed]

@[simp] theorem Val.signed_zero (n : Bool) : Val.signed n 0 = 0 := by cases n <;> rfl

theorem Val.natAbs_signed_sub (n n' : Bool) (a b : Nat) :
    (Val.signed n a - Val.signed n' b).natAbs = if n = n' then (a - b) + (b - a) else a + b := by
  cases n <;> cases n' <;> simp [Val.signed] <;> omega

section

variable {f : Fmt} (fair : f.Fair) {q : Int} (hq : q ≤ f.least)
include fair hq

/-- The largest finite value. -/
theorem finiteAt_top : (finiteAt f q (f.infCode - 1)).getD 0 = f.magnitudeAt q (f.infCode - 1) := by
  obtain ⟨four, lt, -⟩ := fair.infCode_bounds
  have h := finiteAt_signedCode hq false (r := f.infCode - 1) (by omega)
  rw [if_pos (by omega)] at h
  simpa [Fmt.signedCode, Val.signed] using congrArg (Option.getD · 0) h

/-- Half a step and more beyond the largest finite value, to the nearest (R34). -/
theorem beyond_iff (x : Nat) : 3 * (finiteAt f q (f.infCode - 1)).getD 0 - (finiteAt f q (f.infCode - 2)).getD 0 ≤ 2 * (x : Int) ↔
    f.magnitudeAt q (f.infCode - 1) + f.magnitudeAt q f.infCode ≤ 2 * x := by
  obtain ⟨four, lt, -⟩ := fair.infCode_bounds
  have h := finiteAt_signedCode hq false (r := f.infCode - 2) (by omega)
  rw [if_pos (by omega)] at h
  have next : (finiteAt f q (f.infCode - 2)).getD 0 = f.magnitudeAt q (f.infCode - 2) := by
    simpa [Fmt.signedCode, Val.signed] using congrArg (Option.getD · 0) h
  have step : f.magnitudeAt q f.infCode + f.magnitudeAt q (f.infCode - 2) = 2 * f.magnitudeAt q (f.infCode - 1) := by
    unfold Fmt.magnitudeAt
    rw [← Nat.add_mul, fair.top_step, Nat.mul_assoc]
  rw [finiteAt_top fair hq, next]
  omega

variable {neg : Bool} {x r : Nat} (pos : 0 < x)
include pos

/-- A finite code of the value's sign is the rounded one where it is so by magnitudes. -/
theorem rounded_finite {mode : RoundMode} (finite : r < f.infCode)
    (nearest : ∀ w v : Int, w = Val.signed neg (f.magnitudeAt q r) → v = Val.signed neg x →
      let all (p : Int → Prop) : Prop := ∀ n j, j < f.infCode → p (Val.signed n (f.magnitudeAt q j))
      match mode with
      | .rdn => w ≤ v ∧ all (fun u => u ≤ v → u ≤ w)
      | .rup => v ≤ w ∧ all (fun u => v ≤ u → w ≤ u)
      | .rtz => w.natAbs ≤ v.natAbs ∧ all (fun u => u.natAbs ≤ v.natAbs → u.natAbs ≤ w.natAbs)
      | .rne => 2 * x < f.magnitudeAt q (f.infCode - 1) + f.magnitudeAt q f.infCode ∧
          all (fun u => (w - v).natAbs ≤ (u - v).natAbs ∧ (u ≠ w → (w - v).natAbs = (u - v).natAbs → r % 2 = 0))) :
    Rounded f mode q (Val.signed neg x) (f.signedCode neg r) := by
  obtain ⟨-, lt, -, even⟩ := fair.infCode_bounds
  obtain ⟨low, sign⟩ := signedCode_parts neg (finite.trans lt)
  have negative := Val.signed_neg_iff neg pos
  have value := finiteAt_signedCode hq neg (finite.trans lt)
  rw [if_pos finite] at value
  have all (p : Int → Prop) (h : ∀ n j, j < f.infCode → p (Val.signed n (f.magnitudeAt q j))) :
      ∀ k u, finiteAt f q k = some u → p u := fun k u hu => by
    obtain ⟨n, j, lt, rfl⟩ := finiteAt_some hq hu
    exact h n j lt
  have beyond := beyond_iff fair hq x
  have parity : f.signedCode neg r % 2 = r % 2 := by unfold Fmt.signedCode; split <;> omega
  unfold Rounded
  simp only [value, Val.natAbs_signed, sign, negative, beyond, parity]
  refine ⟨?_, by cases neg <;> simp, ?_⟩
  · rw [f.two_signBit, Fmt.signedCode]; split <;> omega
  · have near := nearest _ _ rfl rfl
    cases mode with
    | rdn => exact ⟨near.1, all _ near.2⟩
    | rup => exact ⟨near.1, all _ near.2⟩
    | rtz => rw [Val.natAbs_signed, Val.natAbs_signed] at near; exact ⟨near.1, all _ near.2⟩
    | rne => exact ⟨not_le.mpr near.1, all _ near.2⟩

/-- Infinity is the rounded code beyond the largest finite value, as the mode says. -/
theorem rounded_infinite {mode : RoundMode}
    (beyond : match mode with
      | .rdn => neg = true ∧ f.magnitudeAt q (f.infCode - 1) < x
      | .rup => neg = false ∧ f.magnitudeAt q (f.infCode - 1) < x
      | .rtz => False
      | .rne => f.magnitudeAt q (f.infCode - 1) + f.magnitudeAt q f.infCode ≤ 2 * x) :
    Rounded f mode q (Val.signed neg x) (f.signedCode neg f.infCode) := by
  obtain ⟨-, lt, -⟩ := fair.infCode_bounds
  obtain ⟨low, sign⟩ := signedCode_parts neg lt
  have negative := Val.signed_neg_iff neg pos
  have value := finiteAt_signedCode hq neg lt
  rw [if_neg (Nat.lt_irrefl _)] at value
  have far := beyond_iff fair hq x
  unfold Rounded
  simp only [value, Val.natAbs_signed, sign, negative, far, unpack_infCode fair]
  refine ⟨?_, by cases neg <;> simp, by cases neg <;> simp, ?_⟩
  · rw [f.two_signBit, Fmt.signedCode]; split <;> omega
  · have top := finiteAt_top fair hq
    cases mode with
    | rdn => obtain ⟨rfl, lt⟩ := beyond; simp only [top, Val.signed, if_true]; omega
    | rup => obtain ⟨rfl, lt⟩ := beyond; simp only [top, Val.signed, Bool.false_eq_true, if_false]; omega
    | rtz => exact beyond
    | rne => exact beyond

section

variable {mode : RoundMode} {lo : Nat} (h : Encloses (f.magnitudeAt q) x lo)
include h

/-- The last code whose magnitude is not beyond the value's, of those that are finite. -/
theorem rounded_inward (hm : mode = .rtz ∨ mode = .rdn ∧ neg = false ∨ mode = .rup ∧ neg = true) :
    Rounded f mode q (Val.signed neg x) (f.signedCode neg (min lo (f.infCode - 1))) := by
  have mono := f.magnitudeAt_strictMono q
  obtain ⟨four, -⟩ := fair.infCode_bounds
  have finite : min lo (f.infCode - 1) < f.infCode := by omega
  have le : f.magnitudeAt q (min lo (f.infCode - 1)) ≤ x := (h.le_iff mono _).mpr (by omega)
  have most (j : Nat) (hj : j < f.infCode) (hx : f.magnitudeAt q j ≤ x) :
      f.magnitudeAt q j ≤ f.magnitudeAt q (min lo (f.infCode - 1)) :=
    mono.monotone (by have := (h.le_iff mono j).mp hx; omega)
  refine rounded_finite fair hq pos finite ?_
  rintro w v rfl rfl
  rcases hm with rfl | ⟨rfl, rfl⟩ | ⟨rfl, rfl⟩
  · simp only [Val.natAbs_signed]
    exact ⟨le, fun n => most⟩
  · refine ⟨by simpa [Val.signed] using le, fun n j hj => ?_⟩
    have := most j hj
    cases n <;> simp only [Val.signed, Bool.false_eq_true, if_false, if_true] <;> omega
  · refine ⟨by simpa [Val.signed] using le, fun n j hj => ?_⟩
    have := most j hj
    cases n <;> simp only [Val.signed, Bool.false_eq_true, if_false, if_true] <;> omega

/-- The first code whose magnitude is not within the value's, infinity where none is finite. -/
theorem rounded_outward (hm : mode = .rdn ∧ neg = true ∨ mode = .rup ∧ neg = false) :
    Rounded f mode q (Val.signed neg x)
      (f.signedCode neg (min (lo + (decide (x - f.magnitudeAt q lo ≠ 0)).toNat) f.infCode)) := by
  have mono := f.magnitudeAt_strictMono q
  have outside := h.outward_le_iff mono
  generalize lo + (decide (x - f.magnitudeAt q lo ≠ 0)).toNat = r at outside
  obtain ⟨four, -⟩ := fair.infCode_bounds
  by_cases finite : r < f.infCode
  · rw [Nat.min_eq_left (by omega)]
    have ge : x ≤ f.magnitudeAt q r := (outside r).mp (Nat.le_refl r)
    have least (j : Nat) (hx : x ≤ f.magnitudeAt q j) : f.magnitudeAt q r ≤ f.magnitudeAt q j :=
      mono.monotone ((outside j).mpr hx)
    refine rounded_finite fair hq pos finite ?_
    rintro w v rfl rfl
    rcases hm with ⟨rfl, rfl⟩ | ⟨rfl, rfl⟩
    · refine ⟨by simpa [Val.signed] using ge, fun n j _ => ?_⟩
      have := least j
      cases n <;> simp only [Val.signed, Bool.false_eq_true, if_false, if_true] <;> omega
    · refine ⟨by simpa [Val.signed] using ge, fun n j _ => ?_⟩
      have := least j
      cases n <;> simp only [Val.signed, Bool.false_eq_true, if_false, if_true] <;> omega
  · rw [Nat.min_eq_right (by omega)]
    have top : f.magnitudeAt q (f.infCode - 1) < x := by have := (outside (f.infCode - 1)).not; omega
    refine rounded_infinite fair hq pos ?_
    rcases hm with ⟨rfl, rfl⟩ | ⟨rfl, rfl⟩
    · exact ⟨rfl, top⟩
    · exact ⟨rfl, top⟩

/-- The nearest code, of two as near the even one, infinity from half a step beyond the largest finite value. -/
theorem rounded_nearest : Rounded f .rne q (Val.signed neg x)
    (f.signedCode neg (min (chosen (f.magnitudeAt q) .rne neg x lo) f.infCode)) := by
  have mono := f.magnitudeAt_strictMono q
  have near := h.nearest neg
  generalize chosen (f.magnitudeAt q) .rne neg x lo = r at near
  obtain ⟨le, lt⟩ := h
  obtain ⟨four, -, even, -⟩ := fair.infCode_bounds
  by_cases finite : r < f.infCode
  · rw [Nat.min_eq_left (by omega)]
    refine rounded_finite fair hq pos finite ?_
    rintro w v rfl rfl
    refine ⟨?_, fun n j hj => ?_⟩
    · have below : lo + 1 ≤ f.infCode - 1 → f.magnitudeAt q (lo + 1) ≤ f.magnitudeAt q (f.infCode - 1) := fun k => mono.monotone k
      have step : f.magnitudeAt q (f.infCode - 1) < f.magnitudeAt q f.infCode := mono (by omega)
      by_cases last : lo = f.infCode - 1
      · rw [show f.infCode = lo + 1 by omega, Nat.add_sub_cancel]
        omega
      · have := below (by omega)
        omega
    · have before : j ≤ lo → f.magnitudeAt q j ≤ f.magnitudeAt q lo := fun k => mono.monotone k
      have after : lo + 1 ≤ j → f.magnitudeAt q (lo + 1) ≤ f.magnitudeAt q j := fun k => mono.monotone k
      generalize f.magnitudeAt q = g at *
      beta_reduce
      rw [Val.natAbs_signed_sub, Val.natAbs_signed_sub, if_pos rfl]
      by_cases same : n = neg
      · rw [if_pos same]
        have other : Val.signed n (g j) ≠ Val.signed neg (g r) → g j ≠ g r := fun differ e => differ (by rw [e, same])
        rcases near with ⟨rfl, near⟩ | ⟨rfl, near⟩
        · exact ⟨by omega, fun differ tie => by have := other differ; omega⟩
        · exact ⟨by omega, fun differ tie => by have := other differ; omega⟩
      · rw [if_neg same]
        refine ⟨by rcases near with ⟨rfl, near⟩ | ⟨rfl, near⟩ <;> omega, fun differ tie => ?_⟩
        rcases near with ⟨rfl, near⟩ | ⟨rfl, near⟩
        · exact absurd (by rw [show g j = 0 by omega, show g r = 0 by omega, Val.signed_zero, Val.signed_zero]) differ
        · omega
  · rw [Nat.min_eq_right (by omega)]
    have top : lo + 1 = f.infCode ∨ f.infCode ≤ lo := by omega
    have here : f.infCode ≤ lo → f.magnitudeAt q f.infCode ≤ f.magnitudeAt q lo := fun k => mono.monotone k
    have last : f.magnitudeAt q (f.infCode - 1) ≤ f.magnitudeAt q lo := mono.monotone (by omega)
    refine rounded_infinite fair hq pos ?_
    show _ ≤ _
    rcases top with top | top
    · rw [← top] at last ⊢
      omega
    · have := here top
      omega

end

/-- Of a value that two codes enclose, the code chosen is the rounded one, or what the mode gives beyond the largest finite value (R34). -/
theorem rounded_chosen (mode : RoundMode) {lo : Nat} (h : Encloses (f.magnitudeAt q) x lo) :
    Rounded f mode q (Val.signed neg x) (f.signedCode neg (
      if f.infCode ≤ chosen (f.magnitudeAt q) mode neg x lo then overflowCode f mode neg else chosen (f.magnitudeAt q) mode neg x lo)) := by
  obtain ⟨four, -⟩ := fair.infCode_bounds
  rcases chosen_cases (f.magnitudeAt q) mode neg x lo with rfl | ⟨hm, hc, ho⟩ | ⟨hm, hc, ho⟩
  · have r := rounded_nearest fair hq pos h (neg := neg)
    convert r using 2
    simp only [overflowCode]; split <;> omega
  · have r := rounded_inward fair hq pos h hm
    rw [hc, ho]
    convert r using 2
    split <;> omega
  · have r := rounded_outward fair hq pos h hm
    rw [hc, ho]
    convert r using 2
    split <;> omega

end

/-! ## Rounding and its flags (R34, R37) -/

theorem chosen_of_exact {g : Nat → Nat} {x lo : Nat} (h : Encloses g x lo) (exact : x = g lo) (mode : RoundMode) (neg : Bool) :
    chosen g mode neg x lo = lo := by
  have pos : 0 < g (lo + 1) - g lo := by have := h.lt; omega
  rw [chosen, exact, Nat.sub_self, roundsUp_exact _ _ _ pos]; rfl

/-- A code of the value's magnitude is the one at or below it. -/
theorem Encloses.eq_iff {g : Nat → Nat} (mono : StrictMono g) {x lo : Nat} (h : Encloses g x lo) (j : Nat) :
    g j = x ↔ j = lo ∧ x = g lo := by
  refine ⟨fun e => ?_, fun ⟨e, k⟩ => by rw [e, k]⟩
  have low : j ≤ lo := (h.le_iff mono j).mp e.le
  have high : lo ≤ j := mono.le_iff_le.mp (h.le.trans_eq e.symm)
  obtain rfl := Nat.le_antisymm low high
  exact ⟨rfl, e.symm⟩

theorem Val.signed_inj {n : Bool} {a b : Nat} : Val.signed n a = Val.signed n b ↔ a = b := by
  cases n <;> simp [Val.signed]

/-- What rounding a magnitude gives: the rounded code, NX where that is another value, neither NV nor DZ. -/
theorem roundMag_rounded {f : Fmt} (fair : f.Fair) (mode : RoundMode) (neg : Bool) {mant : Nat} (nz : mant ≠ 0) {exp p : Int}
    (hp : p ≤ f.least) (he : p ≤ exp) {x : Nat} (hx : mant * 2 ^ (exp - p).toNat = x) :
    let r := roundMag f mode false neg mant exp false
    Rounded f mode p (Val.signed neg x) r.1 ∧ (r.2.nx = false ↔ finiteAt f p r.1 = some (Val.signed neg x)) ∧
      r.2.nv = false ∧ r.2.dz = false := by
  intro r
  obtain ⟨lo, encloses, code, exact, quiet⟩ := roundMag_chooses fair mode neg nz hp he hx
  change r.1 = _ at code
  have pos : 0 < x := hx ▸ Nat.mul_pos (Nat.pos_of_ne_zero nz) (Nat.two_pow_pos _)
  obtain ⟨four, below, -⟩ := fair.infCode_bounds
  have stays := fun e => chosen_of_exact encloses e mode neg
  refine ⟨code ▸ rounded_chosen fair hp pos mode encloses, exact.trans ?_, quiet⟩
  have hits (k : Nat) (hk : k ≤ f.infCode) : finiteAt f p (f.signedCode neg k) = some (Val.signed neg x) ↔
      k < f.infCode ∧ k = lo ∧ x = f.magnitudeAt p lo := by
    rw [finiteAt_signedCode hp neg (by omega), ← encloses.eq_iff (f.magnitudeAt_strictMono p) k]
    split
    · next lt => simp [Val.signed_inj, lt]
    · next ge => simp [ge]
  have overflow := overflowCode_cases f mode neg
  rw [code, hits _ (by split <;> omega)]
  constructor
  · rintro ⟨lt, e⟩
    rw [if_neg (not_le.mpr lt)]
    exact ⟨lt, stays e, e⟩
  · rintro ⟨lt, here, e⟩
    have := stays e
    exact ⟨by omega, e⟩

/-- A flushed code is a zero of its sign in place of a subnormal. -/
theorem flushed_signedCode {f : Fmt} (n : Bool) {r : Nat} (hr : r < f.signBit) :
    flushed f (f.signedCode n r) = f.signedCode n (if r < 2 ^ f.mbits then 0 else r) := by
  obtain ⟨low, sign⟩ := signedCode_parts n hr
  have lt : f.signedCode n r < 2 ^ f.width := by rw [f.two_signBit, Fmt.signedCode]; split <;> omega
  have sub : r / 2 ^ f.mbits = 0 ↔ r < 2 ^ f.mbits := by
    rw [Nat.div_eq_zero_iff]; have := Nat.two_pow_pos f.mbits; omega
  unfold flushed
  rw [← f.exp_eq, low, sign]
  simp only [sub]
  split
  · cases n <;> simp [Fmt.signedCode]
  · exact Nat.mod_eq_of_lt lt

section

variable {f : Fmt} (fair : f.Fair)
include fair

theorem flushed_of_normal (n : Bool) {c : Nat} (lo : 2 ^ f.mbits ≤ c) (hi : c ≤ f.infCode) :
    flushed f (f.signedCode n c) = f.signedCode n c := by
  rw [flushed_signedCode n (hi.trans_lt fair.infCode_bounds.2.1), if_neg (not_lt.mpr lo)]

/-- Under FTZ a magnitude's code is flushed after its rounding (R36). -/
theorem roundMag_flush (mode : RoundMode) (n : Bool) (m : Nat) (e : Int) :
    (roundMag f mode true n m e false).1 = flushed f (roundMag f mode false n m e false).1 := by
  obtain ⟨b, k, em, pos, einf, esign⟩ := fair.infCode_eq
  unfold roundMag
  dsimp only
  generalize ((roundAt mode n m e _ false).1 : Int) + _ = code
  split
  · have overflow := overflowCode_cases f mode n
    exact (flushed_of_normal fair n (by omega) (by omega)).symm
  · next finite =>
    have lt : code.toNat < f.signBit := by omega
    have h := flushed_signedCode n lt
    simp only [Fmt.signedCode] at h
    simp only [Bool.true_and, Bool.false_and, Bool.false_eq_true, if_false, h]
    by_cases sub : code.toNat < 2 ^ f.mbits
    · by_cases zero : code.toNat = 0 <;> simp [sub, zero]
    · simp [sub]

/-- Under FTZ a result is flushed after its rounding (R36). -/
theorem round_flush (mode : RoundMode) (r : Val) : (round f mode true r).1 = flushed f (round f mode false r).1 := by
  cases r with
  | nan s =>
    have quiet : f.defaultNaN < f.signBit ∧ 2 ^ f.mbits ≤ f.defaultNaN := by
      obtain ⟨b, k, em, pos, einf, esign⟩ := fair.infCode_eq
      have half : 2 ^ f.mbits = 2 * 2 ^ (f.mbits - 1) := by rw [← Nat.pow_succ']; have := fair.mbits; congr 1; omega
      unfold Fmt.defaultNaN
      omega
    have h := flushed_signedCode false quiet.1
    rw [if_neg (not_lt.mpr quiet.2)] at h
    simpa [round, Fmt.signedCode] using h.symm
  | inf n =>
    have inside : 2 ^ f.mbits ≤ f.infCode := by obtain ⟨b, k, em, pos, einf, esign⟩ := fair.infCode_eq; omega
    exact (flushed_of_normal fair n inside (Nat.le_refl _)).symm
  | num n m e =>
    by_cases nz : m = 0
    · have h := flushed_signedCode n f.signBit_pos
      rw [ite_self] at h
      simpa [round, nz, Fmt.signedCode] using h.symm
    · rw [round, round, if_neg nz, if_neg nz, roundMag_flush fair]

end

/-! ## Exact values (R34, R164) -/

/-- A value is v in units of 2^q, with this sign. -/
def Val.Is (a : Val) (q v : Int) (n : Bool) : Prop := ∃ m e, a = .num n m e ∧ q ≤ e ∧ v = Val.signed n (m * 2 ^ (e - q).toNat)

theorem is_of_finiteAt {f : Fmt} {q : Int} (hq : q ≤ f.least) {c : Nat} {v : Int} (h : finiteAt f q c = some v) :
    (unpack f c).Is q v (signOf f c) := by
  unfold finiteAt at h
  split at h
  · next n m e hc =>
    obtain ⟨rfl, he⟩ := unpack_num hc
    exact ⟨m, e, hc, by omega, (Option.some.inj h).symm⟩
  · cases h

theorem load_false (f : Fmt) (x : Nat) : load false f x = unpack f x := by
  rw [load, flushIn_eq]; exact unpack_mod_width f x

theorem Val.signed_natAbs (s : Int) : Val.signed (decide (s < 0)) s.natAbs = s := by
  unfold Val.signed
  by_cases h : s < 0
  · rw [if_pos (decide_eq_true h)]; omega
  · rw [if_neg (by simpa using h)]; omega

namespace Val.Is

variable {a b : Val} {q q' u v : Int} {n n' : Bool}

theorem isNaN (h : a.Is q v n) : a.isNaN = false := by obtain ⟨m, e, rfl, -⟩ := h; rfl

theorem isSignalling (h : a.Is q v n) : a.isSignalling = false := by obtain ⟨m, e, rfl, -⟩ := h; rfl

theorem neg (h : a.Is q v n) : a.neg.Is q (-v) (!n) := by
  obtain ⟨m, e, rfl, he, rfl⟩ := h
  exact ⟨m, e, rfl, he, by cases n <;> simp [signed]⟩

theorem mul (h : a.Is q u n) (h' : b.Is q' v n') : (a.mul b).Is (q + q') (u * v) (n != n') := by
  obtain ⟨m, e, rfl, he, rfl⟩ := h
  obtain ⟨m', e', rfl, he', rfl⟩ := h'
  refine ⟨m * m', e + e', rfl, by omega, ?_⟩
  rw [show (e + e' - (q + q')).toNat = (e - q).toNat + (e' - q').toNat by omega, Nat.pow_add, Nat.mul_mul_mul_comm]
  cases n <;> cases n' <;> simp [signed]

/-- The exact sum; the sign of a zero one is the operands', or by the mode where they differ. -/
theorem add (h : a.Is q u n) (h' : b.Is q v n') (mode : RoundMode) (hq : q ≤ 0) :
    (a.add mode b).Is q (u + v) (if u + v = 0 then (if n = n' then n else mode == .rdn) else decide (u + v < 0)) := by
  obtain ⟨m, e, rfl, he, rfl⟩ := h
  obtain ⟨m', e', rfl, he', rfl⟩ := h'
  have low : q ≤ min e e' := by omega
  have pos : (0 : Int) < 2 ^ (min e e' - q).toNat := by positivity
  rw [signed_rescale n m low (Int.min_le_left e e'), signed_rescale n' m' low (Int.min_le_right e e'), ← Int.add_mul]
  simp only [Val.add]
  generalize signed n (m * 2 ^ (e - min e e').toNat) + signed n' (m' * 2 ^ (e' - min e e').toNat) = s
  have zero : s * 2 ^ (min e e' - q).toNat = 0 ↔ s = 0 := by simp
  have negative : s * 2 ^ (min e e' - q).toNat < 0 ↔ s < 0 := by rw [← not_iff_not, not_lt, not_lt, mul_nonneg_iff_of_pos_right pos]
  simp only [zero, negative]
  by_cases hs : s = 0
  · rw [if_pos hs, if_pos hs]
    exact ⟨0, 0, rfl, hq, by simp [hs]⟩
  · rw [if_neg hs, if_neg hs]
    refine ⟨s.natAbs, min e e', rfl, low, ?_⟩
    rw [signed_mul, signed_natAbs]
    simp

end Val.Is

/-- The result of one rounding of v units of 2^q with this sign: a zero of the sign, or the rounded code with NX where it is inexact. -/
def RoundsTo (f : Fmt) (mode : RoundMode) (r : Nat × Flags) (q v : Int) (zero : Bool) : Prop :=
  if v = 0 then r = ((if zero then f.signBit else 0), .none)
  else Rounded f mode q v r.1 ∧ (r.2.nx = false ↔ finiteAt f q r.1 = some v) ∧ r.2.nv = false ∧ r.2.dz = false

theorem round_num (f : Fmt) (mode : RoundMode) (ftz n : Bool) (m : Nat) (e : Int) : round f mode ftz (.num n m e) =
    if m = 0 then ((if n then f.signBit else 0), .none) else roundMag f mode ftz n m e false := rfl

theorem round_roundsTo {f : Fmt} (fair : f.Fair) (mode : RoundMode) {a : Val} {q v : Int} {n : Bool} (h : a.Is q v n) (hq : q ≤ f.least) :
    RoundsTo f mode (round f mode false a) q v n := by
  obtain ⟨m, e, rfl, he, rfl⟩ := h
  rw [RoundsTo, round_num]
  by_cases nz : m = 0
  · simp [nz]
  · have pos : 0 < m * 2 ^ (e - q).toNat := Nat.mul_pos (Nat.pos_of_ne_zero nz) (Nat.two_pow_pos _)
    have value : Val.signed n (m * 2 ^ (e - q).toNat) ≠ 0 := by
      rw [← Int.natAbs_ne_zero, Val.natAbs_signed]; omega
    rw [if_neg value, if_neg nz]
    exact roundMag_rounded fair mode n nz hq he rfl

/-- A sign that an operation gives a zero alone. -/
theorem RoundsTo.zero_sign {f : Fmt} {mode : RoundMode} {r : Nat × Flags} {q v : Int} {n z : Bool} (h : RoundsTo f mode r q v n)
    (hz : v = 0 → n = z) : RoundsTo f mode r q v z := by
  unfold RoundsTo at *
  split
  · next e => rw [if_pos e, hz e] at h; exact h
  · next e => rwa [if_neg e] at h

/-- No flag but the rounding's comes of operands and a result that are no NaN. -/
theorem store_of_number {f : Fmt} {mode : RoundMode} {ftz : Bool} {vs : List Val} {r : Val} (hv : vs.any Val.isSignalling = false)
    (hr : r.isNaN = false) : store f mode ftz vs r = round f mode ftz r := by
  simp [store, signalled, madeNaN, hv, hr]

theorem Fmt.Fair.least_nonpos {f : Fmt} (fair : f.Fair) : f.least ≤ 0 := by
  have := fair.mbits; unfold Fmt.least; omega

section

variable {f : Fmt} (fair : f.Fair) (mode : RoundMode) {x y : Nat} {a b : Int} (hx : finiteAt f f.least x = some a)
  (hy : finiteAt f f.least y = some b)
include fair hx hy

theorem fadd_roundsTo : RoundsTo f mode (fadd f mode false x y) f.least (a + b)
    (if signOf f x = signOf f y then signOf f x else mode == .rdn) := by
  have ha := is_of_finiteAt (Int.le_refl _) hx
  have hb := is_of_finiteAt (Int.le_refl _) hy
  have sum := ha.add hb mode fair.least_nonpos
  rw [fadd, load_false, load_false, store_of_number (by simp [ha.isSignalling, hb.isSignalling]) sum.isNaN]
  exact (round_roundsTo fair mode sum (Int.le_refl _)).zero_sign fun e => if_pos e

theorem fsub_roundsTo : RoundsTo f mode (fsub f mode false x y) f.least (a - b)
    (if signOf f x = !signOf f y then signOf f x else mode == .rdn) := by
  have ha := is_of_finiteAt (Int.le_refl _) hx
  have hb := is_of_finiteAt (Int.le_refl _) hy
  have sum := ha.add hb.neg mode fair.least_nonpos
  rw [fsub, load_false, load_false, store_of_number (by simp [ha.isSignalling, hb.isSignalling]) sum.isNaN]
  exact (round_roundsTo fair mode sum (Int.le_refl _)).zero_sign fun e => if_pos e

theorem fmul_roundsTo : RoundsTo f mode (fmul f mode false x y) (2 * f.least) (a * b) (signOf f x != signOf f y) := by
  have ha := is_of_finiteAt (Int.le_refl _) hx
  have hb := is_of_finiteAt (Int.le_refl _) hy
  have product := ha.mul hb
  rw [← Int.two_mul] at product
  rw [fmul, load_false, load_false, store_of_number (by simp [ha.isSignalling, hb.isSignalling]) product.isNaN]
  exact round_roundsTo fair mode product (by have := fair.least_nonpos; omega)

/-- The fused forms round their exact sum once. -/
theorem fused_rounded {p n : Bool} {z : Nat} {c : Int} (hz : finiteAt f (2 * f.least) z = some c)
    (nz : (if p then -(a * b) else a * b) + (if n then -c else c) ≠ 0) :
    Rounded f mode (2 * f.least) ((if p then -(a * b) else a * b) + (if n then -c else c)) (fused f mode false p n x y z).1 := by
  have below : 2 * f.least ≤ f.least := by have := fair.least_nonpos; omega
  have ha := is_of_finiteAt (Int.le_refl _) hx
  have hb := is_of_finiteAt (Int.le_refl _) hy
  have hc := is_of_finiteAt below hz
  have product := ha.mul hb
  rw [← Int.two_mul] at product
  have product' : ∃ s, (if p then ((unpack f x).mul (unpack f y)).neg else (unpack f x).mul (unpack f y)).Is (2 * f.least)
      (if p then -(a * b) else a * b) s := by
    cases p with
    | true => exact ⟨_, product.neg⟩
    | false => exact ⟨_, product⟩
  have addend : ∃ s, (if n then (unpack f z).neg else unpack f z).Is (2 * f.least) (if n then -c else c) s := by
    cases n with
    | true => exact ⟨_, hc.neg⟩
    | false => exact ⟨_, hc⟩
  obtain ⟨s, product'⟩ := product'
  obtain ⟨s', addend⟩ := addend
  have sum := product'.add addend mode (by have := fair.least_nonpos; omega)
  have rounds := round_roundsTo fair mode sum below
  rw [RoundsTo, if_neg nz] at rounds
  simp only [fused, load_false]
  rw [store_of_number (by simp [ha.isSignalling, hb.isSignalling, hc.isSignalling]) sum.isNaN]
  exact rounds.1

end

/-! ## Flushed results (R36) -/

theorem load_true (f : Fmt) (x : Nat) : load true f x = load false f (flushed f x) := by
  rw [load_false, load, flushIn_eq]; rfl

/-- Under FTZ the result of flushed operands is flushed (R36). -/
theorem store_flush {f : Fmt} (fair : f.Fair) (mode : RoundMode) (vs : List Val) (r : Val) :
    (store f mode true vs r).1 = flushed f (store f mode false vs r).1 := round_flush fair mode r

/-! ## Conversions (R39) -/

/-- A signed number is w units, rounded in this mode (R34). -/
def RoundedInt (mode : RoundMode) (one v w : Int) : Prop :=
  match mode with
  | .rdn => w * one ≤ v ∧ v < (w + 1) * one
  | .rup => (w - 1) * one < v ∧ v ≤ w * one
  | .rtz => (w * one).natAbs ≤ v.natAbs ∧ v.natAbs < (w * one).natAbs + one ∧ 0 ≤ w * v
  | .rne => 2 * (v - w * one).natAbs ≤ one ∧ (2 * (v - w * one).natAbs = one → w % 2 = 0)

/-- Whole units enclose a magnitude. -/
theorem encloses_div (x : Nat) {u : Nat} (pos : 0 < u) : Encloses (· * u) x (x / u) :=
  ⟨Nat.div_mul_le_self x u, Nat.lt_mul_of_div_lt (Nat.lt_succ_self _) pos⟩

theorem roundAt_chosen (mode : RoundMode) (neg : Bool) (mant : Nat) {exp q p : Int} (hq : p ≤ q) (he : p ≤ exp) :
    (roundAt mode neg mant exp q false).1 =
      chosen (· * 2 ^ (q - p).toNat) mode neg (mant * 2 ^ (exp - p).toNat) (mant * 2 ^ (exp - p).toNat / 2 ^ (q - p).toNat) := by
  rw [roundAt_eq rfl rfl he mode neg hq, chosen]
  generalize mant * 2 ^ (exp - p).toNat = x
  generalize 2 ^ (q - p).toNat = u
  have split := Nat.div_add_mod' x u
  dsimp only
  rw [show x - x / u * u = x % u by omega, Nat.succ_mul, Nat.add_sub_cancel_left]

theorem roundedInt_chosen (mode : RoundMode) (neg : Bool) (x : Nat) {u : Nat} (pos : 0 < u) :
    RoundedInt mode u (Val.signed neg x) (Val.signed neg (chosen (· * u) mode neg x (x / u))) := by
  have h := encloses_div x pos
  have le : x / u * u ≤ x := h.le
  have lt : x < x / u * u + u := by simpa [Nat.succ_mul] using h.lt
  generalize x / u = lo at h le lt
  have times (k : Nat) : Val.signed neg k * (u : Int) = Val.signed neg (k * u) := (Val.signed_mul neg k u).symm
  rcases chosen_cases (· * u) mode neg x lo with rfl | ⟨hm, hc, -⟩ | ⟨hm, hc, -⟩
  · have near := h.nearest neg
    generalize chosen (· * u) .rne neg x lo = r at near
    have parity : Val.signed neg r % 2 = 0 ↔ r % 2 = 0 := by cases neg <;> simp [Val.signed] <;> omega
    simp only [RoundedInt, times, parity, Val.natAbs_signed_sub, if_true]
    simp only [Nat.succ_mul] at near
    rcases near with ⟨rfl, near⟩ | ⟨rfl, near⟩
    · exact ⟨by omega, by omega⟩
    · rw [Nat.succ_mul]; exact ⟨by omega, by omega⟩
  · rw [hc]
    rcases hm with rfl | ⟨rfl, rfl⟩ | ⟨rfl, rfl⟩
    · have same : 0 ≤ Val.signed neg lo * Val.signed neg x := by cases neg <;> simp [Val.signed] <;> positivity
      simp only [RoundedInt, times, Val.natAbs_signed]
      exact ⟨le, by omega, same⟩
    · simp only [RoundedInt, Int.add_mul, times]
      simp only [Val.signed, Bool.false_eq_true, if_false]
      omega
    · simp only [RoundedInt, Int.sub_mul, times]
      simp only [Val.signed, if_true]
      omega
  · rw [hc]
    have out : (lo + (decide (x - lo * u ≠ 0)).toNat) * u = lo * u + if x = lo * u then 0 else u := by
      by_cases e : x = lo * u
      · simp [e]
      · have : x - lo * u ≠ 0 := by omega
        simp [e, this, Nat.succ_mul]
    rcases hm with ⟨rfl, rfl⟩ | ⟨rfl, rfl⟩
    · simp only [RoundedInt, Int.add_mul, times, out]
      simp only [Val.signed, if_true]
      split <;> omega
    · simp only [RoundedInt, Int.sub_mul, times, out]
      simp only [Val.signed, Bool.false_eq_true, if_false]
      split <;> omega

/-- A finite operand of a conversion to an integer: rounded, then clamped, NV where that changes it (R39). -/
theorem convFI_of_finiteAt {f : Fmt} (fair : f.Fair) (mode : RoundMode) {lo hi : Int} (ends : lo ≤ hi) {x : Nat} {v : Int}
    (h : finiteAt f f.least x = some v) : ∃ w, RoundedInt mode (2 ^ (-f.least).toNat) v w ∧
      (convFI f mode false lo hi x).1 = max lo (min hi w) ∧ ((convFI f mode false lo hi x).2.nv = true ↔ w < lo ∨ hi < w) := by
  obtain ⟨m, e, hc, he, rfl⟩ := is_of_finiteAt (Int.le_refl _) h
  have chosen_eq := roundAt_chosen mode (signOf f x) m fair.least_nonpos he
  have rounded := roundedInt_chosen mode (signOf f x) (m * 2 ^ (e - f.least).toNat) (Nat.two_pow_pos (0 - f.least).toNat)
  rw [← chosen_eq, Nat.cast_pow, Nat.cast_ofNat, Int.zero_sub] at rounded
  refine ⟨_, rounded, ?_⟩
  unfold convFI
  rw [load_false, hc]
  dsimp only
  generalize Val.signed (signOf f x) (roundAt mode (signOf f x) m e 0 false).1 = w
  split
  · exact ⟨by omega, by simp [Flags.invalid]; omega⟩
  · split
    · exact ⟨by omega, by simp [Flags.invalid]; omega⟩
    · refine ⟨by simp only; omega, ?_⟩
      split <;> simp [Flags.inexact, Flags.none] <;> omega

theorem convFF_rounded {f g : Fmt} (fair : g.Fair) (mode : RoundMode) {x : Nat} {v : Int}
    (h : finiteAt f (min f.least g.least) x = some v) (nz : v ≠ 0) :
    Rounded g mode (min f.least g.least) v (convFF f g mode false x).1 := by
  have value := is_of_finiteAt (Int.min_le_left _ _) h
  have rounds := round_roundsTo fair mode value (Int.min_le_right _ _)
  rw [RoundsTo, if_neg nz] at rounds
  rw [convFF, load_false, store_of_number (by simp [value.isSignalling]) value.isNaN]
  exact rounds.1

theorem convIF_rounded {g : Fmt} (fair : g.Fair) (mode : RoundMode) {n : Int} (nz : n ≠ 0) :
    Rounded g mode g.least (n * 2 ^ (-g.least).toNat) (convIF g mode false n).1 := by
  have value : (Val.num (decide (n < 0)) n.natAbs 0).Is g.least (n * 2 ^ (-g.least).toNat) (decide (n < 0)) := by
    refine ⟨_, _, rfl, fair.least_nonpos, ?_⟩
    rw [Val.signed_mul, Val.signed_natAbs]; simp
  have rounds := round_roundsTo fair mode value (Int.le_refl _)
  rw [RoundsTo, if_neg (by simp [nz])] at rounds
  exact rounds.1

end Sys2Proof.Num
end

section
/-! SUPPORT. Float arithmetic, the fused forms and the conversions at issue, and their roundings (R34 to R39, R160, R164, R165, R173). -/

namespace Sys2Proof.Num

open Sys2Proof.Machine

/-- Settles O21: one rounding of the exact sum, difference or product, and `floatBinary` of each operation. -/
theorem floatArithmetic : Obligations.FloatArithmetic := by
  refine ⟨fun f m x y hf => ?_, fun s d a b t k u v f ok hf => ?_⟩
  · have fair := fair_of_mem hf
    refine ⟨fun op hop => ?_, fun a b hx hy => ?_⟩
    · simp only [List.mem_cons, List.not_mem_nil, or_false] at hop
      rcases hop with rfl | rfl | rfl
      · rw [fadd, load_true, load_true]; exact store_flush fair m _ _
      · rw [fsub, load_true, load_true]; exact store_flush fair m _ _
      · rw [fmul, load_true, load_true]; exact store_flush fair m _ _
    · exact ⟨fadd_roundsTo fair m hx hy, fsub_roundsTo fair m hx hy, fmul_roundsTo fair m hx hy⟩
  · intro rm ftz gives
    have group {i : Instr} (op : Float2) {latency : Nat} (he : exec i s = floatBinary op latency d a b t k u v s) :
        gives i latency (op f rm ftz) := floatBinary_issues ok hf he
    exact ⟨group fadd (exec_fadd d a b t k u v s), group fsub (exec_fsub d a b t k u v s), group fmul (exec_fmul d a b t k u v s),
      group (fun f _ ftz x y => fminmax f ftz false x y) (exec_fmin d a b t k u v s),
      group (fun f _ ftz x y => fminmax f ftz true x y) (exec_fmax d a b t k u v s)⟩

/-- Settles O22: one rounding of the exact sum, and `floatFused` of each type; f32 is ILLEGAL in wide16. -/
theorem floatFused : Obligations.FloatFused := by
  refine ⟨fun f m p n x y z hf a b c hx hy hz => ?_, fun s d a b c k u v => ?_⟩
  · intro v nz
    exact fused_rounded (fair_of_mem hf) m hx hy hz nz
  intro o gives ready
  have group {i : Instr} {t : ElemType} {f : Fmt} {p n : Bool} (ok : floatOk s.laneBits t = true) (hf : t.fmt? = some f)
      (he : exec i s = Machine.floatFused t p n d a b c k u v s) : gives i f p n := floatFused_issues ok hf he ready
  refine ⟨⟨group rfl rfl (exec_fmaBf16 d a b c k u v s), group rfl rfl (exec_fmaF16 d a b c k u v s),
    group rfl rfl (exec_fmsBf16 d a b c k u v s), group rfl rfl (exec_fmsF16 d a b c k u v s),
    group rfl rfl (exec_fnmaBf16 d a b c k u v s), group rfl rfl (exec_fnmaF16 d a b c k u v s)⟩, ?_⟩
  have wide : floatOk s.laneBits .f32 = true ↔ s.laneBits = 32 := beq_iff_eq
  by_cases h : s.laneBits = 32
  · rw [if_pos h]
    exact ⟨group (wide.mpr h) rfl (exec_fmaF32 d a b c k u v s), group (wide.mpr h) rfl (exec_fmsF32 d a b c k u v s),
      group (wide.mpr h) rfl (exec_fnmaF32 d a b c k u v s)⟩
  · rw [if_neg h]
    have refused {i : Instr} {p n : Bool} (he : exec i s = Machine.floatFused .f32 p n d a b c k u v s) :
        exec i s = .next (trapSync s .execute .illegal) :=
      he.trans (issueX_illegal ready (by simp [valueOp, Bool.eq_false_iff.mpr (mt wide.mp h)]) _)
    intro i hi
    simp only [List.mem_cons, List.not_mem_nil, or_false] at hi
    rcases hi with rfl | rfl | rfl
    · exact refused (exec_fmaF32 d a b c k u v s)
    · exact refused (exec_fmsF32 d a b c k u v s)
    · exact refused (exec_fnmaF32 d a b c k u v s)

/-- A conversion that its word allows converts each lane. -/
theorem convert_issues {i : Instr} {s : State} {m : RoundMode} {sat : Bool} {d : Fin 256} {a : Fin 16} {src dst : ElemType} {k : Fin 8} {u : Bool}
    (hs : anyOk s.laneBits src = true) (hd : anyOk s.laneBits dst = true) (allowed : (sat && dst.fmt?.isSome) = false)
    (he : exec i s = convert m sat d a src dst k u s) {one : Nat → Nat × Flags}
    (same : ∀ x, convertLane src dst m sat (landDue s).ctx.ftz x = one x) (ready : ExecuteReady s (valueOp d [(a, u)] k 3 false)) :
    let o := valueOp d [(a, u)] k 3 false
    XIssues i s o (fun l => (one (o.lane s 0 l)).1) (o.flagsOf s (fun l => (one (o.lane s 0 l)).2)) := by
  intro o
  rw [convert, hs, hd, allowed] at he
  refine xissues_flagged (o := o) (value := fun l => one (o.lane s 0 l)) he ready nofun fun l => ?_
  rw [srcLane_landDue s o, same]

/-- Settles O28: the roundings of R39, and each lane of CVT and CVTS by the types it converts between. -/
theorem conversions : Obligations.Conversions := by
  refine ⟨fun f g m x n lo hi hf hg hlo hhi => ?_, fun s d a src dst k u hs hd => ?_⟩
  · have fair := fair_of_mem hf
    refine ⟨convIF_rounded (fair_of_mem hg) m, fun v hv nz => convFF_rounded (fair_of_mem hg) m hv nz, fun nan => ?_, fun neg inf => ?_, fun v hv => ?_⟩
    · cases h : unpack f x with
      | nan q => simp [convFI, load_false, h, Flags.invalid]
      | inf n => rw [h] at nan; cases nan
      | num n m e => rw [h] at nan; cases nan
    · simp [convFI, load_false, inf, Flags.invalid]
    · exact convFI_of_finiteAt fair m (hlo.trans hhi) hv
  · intro o ftz one gives ready
    have lane (m : RoundMode) (sat : Bool) (x : Nat) : convertLane src dst m sat ftz x = one m sat x := by
      simp only [convertLane, one]
      cases src.fmt? with
      | some f => cases dst.fmt? <;> rfl
      | none => cases dst.fmt? with
        | some g => rfl
        | none => simp only [ElemType.saturate_eq, ElemType.narrow, Num.wrapz, Bool.and_eq_true, decide_eq_true_eq]; split <;> rfl
    have group {i : Instr} {m : RoundMode} {sat : Bool} (allowed : (sat && dst.fmt?.isSome) = false)
        (he : exec i s = convert m sat d a src dst k u s) : gives i m sat := convert_issues hs hd allowed he (lane m sat) ready
    refine ⟨group rfl (exec_cvtRne d a src dst k u s), group rfl (exec_cvtRtz d a src dst k u s),
      group rfl (exec_cvtRup d a src dst k u s), group rfl (exec_cvtRdn d a src dst k u s), fun int => ?_, fun float i hi => ?_⟩
    · have allowed : (true && dst.fmt?.isSome) = false := by rw [int]; rfl
      exact ⟨group allowed (exec_cvtsRne d a src dst k u s), group allowed (exec_cvtsRtz d a src dst k u s),
        group allowed (exec_cvtsRup d a src dst k u s), group allowed (exec_cvtsRdn d a src dst k u s)⟩
    · have refused {m : RoundMode} (he : exec i s = convert m true d a src dst k u s) : exec i s = .next (trapSync s .execute .illegal) :=
        he.trans (issueX_illegal ready (by simp [valueOp, Option.isSome_iff_ne_none.mpr float]) _)
      simp only [List.mem_cons, List.not_mem_nil, or_false] at hi
      rcases hi with rfl | rfl | rfl | rfl
      · exact refused (exec_cvtsRne d a src dst k u s)
      · exact refused (exec_cvtsRtz d a src dst k u s)
      · exact refused (exec_cvtsRup d a src dst k u s)
      · exact refused (exec_cvtsRdn d a src dst k u s)

end Sys2Proof.Num
end

section
/-! SUPPORT. A MOUT to a result queue in a context that has outlived its unit and still owes a completion word (R208, R215, R302, R419). -/

namespace Sys2Proof.Machine

/-- A stream from the result queue of context 1024 to an input port of Gusset 0's first context, with nothing in it. -/
def outlivedStream : Stream :=
  { entry := 0, gen := 1, asid := 0, owner := 1024, prod := ⟨.resultQueue, 0, 1024, 0, 0⟩, cons := ⟨.gussetIn, 0, 128, 1, 0⟩, rows := 1, cols := 32
    etype := .f32, stride := 0, cls := 0, res := 8, rofs := 0, fen := false, flag := 0, off := 1, on := 1, lane := none, slice := 0, consOn := true
    prodOn := true, signals := [], outgoing := [], reserved := [], landed := [], unsent := 0, sent := 0, taken := 0, frames := 0, fromMinimum := 0
    slots := [], swz := 0, planes := 8, fork := 0, writing := false }

/-- A MOUT of tile 0 to the result queue, of which no flit has gone. -/
def queueMout : EngineOp := plainOp State.reset .moutRq 0

/-- The descriptor of space 0 and tables that map its first gigabyte to itself. -/
def identityTables : Memory := writeLE (writeLE (writeLE (writeLE [] 0 8 0x10000) 16 8 1) 0x10000 8 0x11001) 0x11000 8 0x13

/-- Context 1024 has outlived a unit that failed, owes the completion word at 0x2000, and moves its tile to its result queue. No run comes to this
state: `leaveCore` sets `counted` back, and no endpoint word names the result queue of a context from 1024 up. The statement is about every
state: it asks neither. -/
def outlivedMout : State :=
  { State.reset with
    self := 1024, mem := identityTables, hk := { State.reset.hk with dramcap := 1 }, streams := [outlivedStream]
    ctx := { Context.idle with
      endedX := true, counted := true, owesWord := true, fate := .failed .page, ops := [queueMout]
      info := { UnitInfo.none with done := 0x2000 } } }

theorem outlivedMout_ready : moutReady outlivedMout = some queueMout ∧ moutStream outlivedMout queueMout = some outlivedStream := by
  constructor <;> decide +kernel

/-- The sweep that follows the flits writes the completion word, with the status of a failed unit. -/
theorem exec_moutComplete_outlivedMout :
    ∃ t, exec .moutComplete outlivedMout = .next t ∧ readByte t.mem 0x2000 = 3 ∧ readByte outlivedMout.mem 0x2000 = 0 :=
  ⟨_, rfl, by decide +kernel⟩

/-- Refutes O58: while its tile has flits to go, a MOUT to a result queue is to leave memory as it is in every context from 128 up, and in
`outlivedMout` the completion word is written. -/
theorem not_eventsOfEngines : ¬ Obligations.EventsOfEngines := by
  unfold Obligations.EventsOfEngines
  intro h
  obtain ⟨-, -, -, -, -, -, -, mouts, -⟩ := h outlivedMout
  obtain ⟨ready, bound⟩ := outlivedMout_ready
  obtain ⟨-, queue⟩ := mouts _ ready
  obtain ⟨t, ht, -, rest⟩ := queue _ rfl bound
  have kept : t.mem = outlivedMout.mem := by
    split at rest
    case isTrue finished => exact absurd finished (by decide +kernel)
    case isFalse => exact rest (.inl (by decide))
  obtain ⟨t', ht', word, before⟩ := exec_moutComplete_outlivedMout
  obtain rfl : t = t' := Host.Outcome.next.inj (ht.symm.trans ht')
  rw [kept, before] at word
  exact absurd word (by decide)

end Sys2Proof.Machine
end

section
/-! SUPPORT. The system group beside its registers: mitten regions and SELFTEST.ARRAY at issue (R213, R405, R413). -/

namespace Sys2Proof.Machine

variable {s : State} {d a : Fin 32} {f : Fin 64}

/-! ## Mitten regions (R405, R413) -/

/-- An instruction whose slice is ready waits for no register that is final (R131). -/
theorem ControlReady.withFinal {gs : List (Fin 32)} (ready : ControlReady s [] []) (final : ∀ r ∈ gs, s.ctx.pendingG r = false) :
    ControlReady s gs [] := by
  obtain ⟨run, going, service, settled, -, votes⟩ := ready
  exact ⟨run, going, service, settled, final, votes⟩

/-- Opening a region says its handler and its range, and counts the operations that are queued as issued before (R405). -/
theorem crgnOpen_completes (ready : ControlReady s [d, a] []) (closed : s.ctx.region.isOpen = false) (aligned : (s.ctx.getG d).toNat % 4 = 0)
    (short : (s.ctx.getG a).toNat < 2 ^ 47) :
    Completes (.crgnOpen d a) .control s (s.mod (fun c => openRegion (c.getG d) (c.getG a) c)) := by
  have go : exec (.crgnOpen d a) s = _ := exec_crgnOpen d a s
  rw [execCrgnOpen, orTrap_false _ _ _ _ closed, ready.orTrapG_false (by simp [aligned]),
    ready.orTrapG_false (decide_eq_false (Nat.not_le.mpr short))] at go
  exact issueC_completes go ready

/-- A region opens on its handler's own address, and tracks the pages that its range names. -/
theorem openRegion_of_short {handler range : Word} (short : range.toNat < 2 ^ 47) (c : Context) :
    openRegion handler range c = { c with
      region := { c.region with
        isOpen := true, handler := BitVec.ofNat 64 handler.toNat, trk := range.toNat != 0, base := range.toNat / 2 ^ 12
        pages := range.toNat % 2 ^ 12 + 1, marked := [] }
      ops := c.ops.map (fun o => { o with sinceOpen := false }) } := by
  have tracked : (range != 0) = (range.toNat != 0) := by
    rw [Bool.eq_iff_iff, bne_iff_ne, bne_iff_ne, ne_eq, ne_eq, ← BitVec.toNat_inj]; rfl
  have base : bitsOf range.toNat 46 12 = range.toNat / 2 ^ 12 := Nat.mod_eq_of_lt (by omega)
  have pages : bitsOf range.toNat 11 0 = range.toNat % 2 ^ 12 := by simp [bitsOf]
  rw [openRegion, tracked, base, pages, BitVec.ofNat_toNat, BitVec.setWidth_eq]

/-- A handler or a range that breaks its rule traps (R413). -/
theorem crgnOpen_traps (ready : ControlReady s [d, a] []) (closed : s.ctx.region.isOpen = false) :
    ((s.ctx.getG d).toNat % 4 ≠ 0 → exec (.crgnOpen d a) s = .next (trapSync s .control .align)) ∧
    ((s.ctx.getG d).toNat % 4 = 0 → 2 ^ 47 ≤ (s.ctx.getG a).toNat → exec (.crgnOpen d a) s = .next (trapSync s .control .shape)) := by
  rw [exec_crgnOpen, execCrgnOpen, orTrap_false _ _ _ _ closed]
  constructor
  · intro skewed
    simp [orTrapG, ready.stalled, skewed]
  · intro aligned long
    rw [ready.orTrapG_false (by simp [aligned])]
    rw [orTrapG, ready.stalled, decide_eq_true long]
    rfl

/-- The mirror of a close goes to a link that is up as it stands (R425). -/
theorem mirrorLink_of_up (up : s.link.up = true) : mirrorLink s = s := if_pos up

section

variable (ready : ControlReady s [] []) (isOpen : s.ctx.region.isOpen = true)
include ready isOpen

/-- Inside a region an OPEN is ILLEGAL, and so is a close that names a flag which is not there (R413). -/
theorem crgn_illegal_of_open : exec (.crgnOpen d a) s = .next (trapSync s .control .illegal) ∧
    (s.ctx.info.header.nflag ≤ f.val → exec (.crgnCloseMirror f) s = .next (trapSync s .control .illegal)) :=
  ⟨ready.illegal isOpen _, fun absent => ready.illegal (by rw [decide_eq_true (show s.ctx.nflag ≤ f.val from absent), Bool.or_true]) _⟩

omit ready in
/-- A close with a mirror names a flag that is there, and goes on. -/
theorem crgnCloseMirror_allowed (known : f.val < s.ctx.info.header.nflag) :
    (!s.ctx.region.isOpen || decide (s.ctx.nflag ≤ f.val)) = false := by
  rw [isOpen, decide_eq_false (show ¬ s.ctx.nflag ≤ f.val from Nat.not_le.mpr known)]; rfl

omit ready in
/-- A close waits for the accesses and operations of its region. -/
theorem crgnClose_waits (busy : regionJoined s = false) : exec .crgnClose s = .next s ∧
    (f.val < s.ctx.info.header.nflag → exec (.crgnCloseMirror f) s = .next s) := by
  constructor
  · rw [exec_crgnClose, execCrgnClose, orTrap_false _ _ _ _ (by rw [isOpen]; rfl), busy]; rfl
  · intro known
    rw [exec_crgnCloseMirror, execCrgnCloseMirror, orTrap_false _ _ _ _ (crgnCloseMirror_allowed isOpen known), busy]; rfl

theorem crgnClose_completes (joined : regionJoined s = true) : Completes .crgnClose .control s (s.mod closeRegion) := by
  have go : exec .crgnClose s = _ := exec_crgnClose s
  rw [execCrgnClose, orTrap_false _ _ _ _ (by rw [isOpen]; rfl), joined, Bool.not_true, if_neg Bool.false_ne_true] at go
  exact issueC_completes go ready

/-- A close with a mirror puts the marked pages on the copy queue besides (R413). -/
theorem crgnCloseMirror_completes (joined : regionJoined s = true) (up : s.link.up = true) (known : f.val < s.ctx.info.header.nflag) :
    Completes (.crgnCloseMirror f) .control s (s.mod (fun c => { c with
      region := { c.region with isOpen := false, trk := false, marked := [], mir := true }, nextId := c.nextId + 1
      ops := c.ops ++ [{ plainOp s .mirror 0 with flag := f, pages := c.region.marked, sinceOpen := false }] })) := by
  have go : exec (.crgnCloseMirror f) s = _ := exec_crgnCloseMirror f s
  rw [execCrgnCloseMirror, orTrap_false _ _ _ _ (crgnCloseMirror_allowed isOpen known), joined, Bool.not_true, if_neg Bool.false_ne_true] at go
  have done := issueC_completes go ready
  rwa [mirrorLink_of_up (by rwa [State.mod_link])] at done

end

/-- Outside a region a close is ILLEGAL (R413). -/
theorem crgnClose_illegal (ready : ControlReady s [] []) (closed : s.ctx.region.isOpen = false) :
    exec .crgnClose s = .next (trapSync s .control .illegal) ∧ exec (.crgnCloseMirror f) s = .next (trapSync s .control .illegal) :=
  ⟨ready.illegal (by rw [closed]; rfl) _, ready.illegal (by rw [closed]; rfl) _⟩

/-! ## TLBINV (R240, R413) -/

/-- A TLBINV waits for the writes before it. -/
theorem tlbinv_waits (owed : writesPerformed s = false) : exec (.tlbinvPage d) s = .next s ∧ exec .tlbinvAsid s = .next s := by
  rw [exec_tlbinvPage, exec_tlbinvAsid, execTlbinvPage, execTlbinvAsid, owed]; exact ⟨rfl, rfl⟩

/-- With every write performed a TLBINV drops its translations. -/
theorem tlbinv_completes (ready : ControlReady s [] []) (performed : writesPerformed s = true) :
    (s.ctx.pendingG d = false → Completes (.tlbinvPage d) .control s { s with
      tlb := s.tlb.filter (fun t => !(t.asid == s.ctx.info.asid && t.attr.covers (s.ctx.getG d).toNat))
      walks := s.walks.filter (fun w => !(w.asid == s.ctx.info.asid && w.key == walkKey (s.ctx.getG d).toNat w.level)) }) ∧
    Completes .tlbinvAsid .control s { s with
      tlb := s.tlb.filter (fun t => t.asid != s.ctx.info.asid), walks := s.walks.filter (fun w => w.asid != s.ctx.info.asid)
      spaces := s.spaces.filter (fun x => x.asid != s.ctx.info.asid) } := by
  have page : exec (.tlbinvPage d) s = _ := exec_tlbinvPage d s
  have space : exec .tlbinvAsid s = _ := exec_tlbinvAsid s
  rw [execTlbinvPage, performed, Bool.not_true, if_neg Bool.false_ne_true] at page
  rw [execTlbinvAsid, performed, Bool.not_true, if_neg Bool.false_ne_true] at space
  exact ⟨fun final => issueC_completes page (ready.withFinal (List.forall_mem_singleton.mpr final)), issueC_completes space ready⟩

/-! ## SELFTEST.ARRAY (R213, R413) -/

section

variable (ready : ControlReady s [] [])
include ready

/-- A new test answers at once for an array that has failed or is under test, and otherwise begins (R213). -/
theorem selftestArray_begins (new : s.ctx.selftest = none) :
    (arrayFailed s = true → Completes (.selftestArray d) .control s (s.mod (Context.setG d 3))) ∧
    (arrayFailed s = false →
      if underTest s (arrayResource s.self) then Completes (.selftestArray d) .control s (s.mod (Context.setG d 2))
      else exec (.selftestArray d) s = .next ((startTest s (arrayResource s.self)).mod (fun c => { c with selftest := some none }))) := by
  have go : exec (.selftestArray d) s = _ := exec_selftestArray d s
  simp only [execSelftestArray, ready.stalled, new, Bool.false_eq_true, if_false] at go
  refine ⟨fun failed => ?_, fun whole => ?_⟩
  · rw [if_pos failed] at go
    exact issueC_completes go ready
  · rw [if_neg (by simp [whole])] at go
    split
    · next busy =>
      rw [if_pos busy] at go
      exact issueC_completes go ready
    · next idle => rw [go, if_neg idle]

/-- A test that runs is waited for, and one that has ended is answered (R213). -/
theorem selftestArray_ends :
    (s.ctx.selftest = some none → exec (.selftestArray d) s = .next s) ∧
    ∀ lasting, s.ctx.selftest = some (some lasting) →
      Completes (.selftestArray d) .control s (s.mod (fun c => { c.setG d (if lasting then 1 else 0) with selftest := none })) := by
  have go : exec (.selftestArray d) s = _ := exec_selftestArray d s
  simp only [execSelftestArray, ready.stalled, Bool.false_eq_true, if_false] at go
  refine ⟨fun runs => ?_, fun lasting ended => ?_⟩
  · rw [go, runs]
  · rw [ended] at go
    exact issueC_completes go ready

end

/-- Settles O51: TIME, the TLBINVs, regions that are open and that are not, and SELFTEST.ARRAY. -/
theorem systemOperations : Obligations.SystemOperations := by
  intro s d a f ready
  refine ⟨issueC_completes (exec_time d s) ready, tlbinv_waits, tlbinv_completes ready, fun isOpen => ?_, crgnClose_illegal ready,
    fun closed final final' => ?_, fun new => (selftestArray_begins ready new).1, fun new => (selftestArray_begins ready new).2,
    selftestArray_ends ready⟩
  · obtain ⟨nested, noFlag⟩ := crgn_illegal_of_open ready isOpen
    exact ⟨nested, noFlag, crgnClose_waits isOpen, fun joined =>
      ⟨crgnClose_completes ready isOpen joined, crgnCloseMirror_completes ready isOpen joined⟩⟩
  · have ready' : ControlReady s [d, a] [] := ready.withFinal (by simp [final, final'])
    obtain ⟨align, shape⟩ := crgnOpen_traps ready' closed
    refine ⟨align, shape, fun aligned short => ?_⟩
    have opens := crgnOpen_completes ready' closed aligned short
    rwa [State.mod, openRegion_of_short short] at opens

end Sys2Proof.Machine
end

section
/-! SUPPORT. The part itself: booting (R432, R433, R443), quotes (R434), the host's registers (R219, R435, R437), the link (R423, R425, R427,
R428, R437), heat (R438) and fatal events (R431). -/

namespace Sys2Proof.Machine

variable {r s t : State}

/-! ## Booting (R432, R433, R443) -/

/-- The checks of a boot slot, one by one. -/
theorem slotAccepted_iff (img : List Byte) : slotAccepted img = true ↔
    edsigOk img = true ∧ mlsigOk img = true ∧ Config.fusedMinVersion ≤ imageVersion img ∧ (∀ b ∈ (img.drop 0x18).take 40, b = 0) ∧
    0 < imageLength img ∧ imageLoad img + imageLength img ≤ installedGib * 2 ^ 30 := by
  simp only [slotAccepted, Bool.and_eq_true, decide_eq_true_eq, List.all_eq_true, beq_iff_eq, bne_iff_ne, Nat.pos_iff_ne_zero, and_assoc]

/-- What the image of a slot leaves in the boot registers (R432, R433). -/
def Booted (t : State) (n : Nat) (img : List Byte) : Prop :=
  t.boot.state = 1 ∧ t.boot.slot = n ∧ t.boot.measurement = Config.sha384 (signedBytes img) ∧ t.boot.version = imageVersion img ∧
  t.boot.entry = imageEntry img ∧ t.hk.dramcap = installedGib

theorem bootSlot_booted (s : State) (n : Nat) (img : List Byte) : Booted (bootSlot s n img) n img := ⟨rfl, rfl, rfl, rfl, rfl, rfl⟩

theorem bootUp_of_flash0 (first : slotAccepted s.boot.flash0 = true) : bootUp s = bootSlot s 0 s.boot.flash0 := if_pos first

theorem bootUp_of_flash1 (first : slotAccepted s.boot.flash0 = false) (second : slotAccepted s.boot.flash1 = true) :
    bootUp s = bootSlot s 1 s.boot.flash1 := by
  rw [bootUp, first, second]; rfl

theorem bootUp_recovers (first : slotAccepted s.boot.flash0 = false) (second : slotAccepted s.boot.flash1 = false) :
    bootUp s = { s with boot := { s.boot with state := 2, edf := !edsigOk s.boot.flash1, mlf := !mlsigOk s.boot.flash1 } } := by
  rw [bootUp, first, second]; rfl

/-- Booting fills memory and the boot registers, and nothing else. -/
theorem bootUp_only (s : State) :
    bootUp s = { s with boot := (bootUp s).boot, hk := (bootUp s).hk, mem := (bootUp s).mem, dram := (bootUp s).dram } := by
  unfold bootUp
  split <;> [skip; split] <;> rfl

/-- The part as power-good finds it: as after reset, with the boot flash and the model's own counters (assumption 76). -/
def State.restarted (s : State) : State :=
  { State.reset with
    agenda := s.agenda, moves := s.moves, draws := s.draws
    boot := { State.reset.boot with flash0 := s.boot.flash0, flash1 := s.boot.flash1 } }

theorem exec_powerGood_restarts (s : State) : exec .powerGood s = .next (bootUp s.restarted) := rfl

theorem execPowerGood_boots (s : State) :
    ∃ t, exec .powerGood s = .next t ∧ t.fatal = none ∧ t.rings = [] ∧ t.jobs = [] ∧ t.link.up = false ∧ t.agenda = s.agenda ∧
      (slotAccepted s.boot.flash0 = true → Booted t 0 s.boot.flash0 ∧
        t.mem = writeBytes [] (imageLoad s.boot.flash0) ((s.boot.flash0.drop 0x40).take (imageLength s.boot.flash0))) ∧
      (slotAccepted s.boot.flash0 = false → slotAccepted s.boot.flash1 = true → Booted t 1 s.boot.flash1) ∧
      (slotAccepted s.boot.flash0 = false → slotAccepted s.boot.flash1 = false → t.boot.state = 2 ∧ t.mem = [] ∧
        t.boot.edf = !edsigOk s.boot.flash1 ∧ t.boot.mlf = !mlsigOk s.boot.flash1) := by
  have only := bootUp_only s.restarted
  refine ⟨_, exec_powerGood_restarts s, by rw [only]; rfl, by rw [only]; rfl, by rw [only]; rfl, by rw [only]; rfl, by rw [only]; rfl,
    fun first => ?_, fun first second => ?_, fun first second => ?_⟩
  · rw [bootUp_of_flash0 (s := s.restarted) first]
    exact ⟨bootSlot_booted _ _ _, rfl⟩
  · rw [bootUp_of_flash1 (s := s.restarted) first second]
    exact bootSlot_booted _ _ _
  · rw [bootUp_recovers (s := s.restarted) first second]
    exact ⟨rfl, rfl, rfl, rfl⟩

/-- In recovery an accepted image that is written to slot 0 boots. -/
theorem execRecoveryImageWrite_boots (recovery : s.boot.state = 2) {img : List Byte} (accepted : slotAccepted img = true) :
    ∃ t, exec (.recoveryImageWrite 0 img) s = .next t ∧ t.boot.flash0 = img ∧ Booted t 0 img := by
  refine ⟨bootSlot { s with boot := { s.boot with flash0 := img } } 0 img, ?_, rfl, bootSlot_booted _ _ _⟩
  rw [exec_recoveryImageWrite, execRecoveryImageWrite, recovery]
  exact congrArg Host.Outcome.next (bootUp_of_flash0 (s := { s with boot := { s.boot with flash0 := img } }) accepted)

/-! ## Quotes (R434) -/

theorem writeHome_reads {line mask} (h : ReadsOnly r s) : ReadsOnly r (writeHome s line mask) :=
  touchSlice_reads (mergeDirty_reads (mapMapped_reads h))

/-- Noting a write at the home slices writes nothing itself. -/
theorem touchHomes_reads {pa n} (h : ReadsOnly r s) : ReadsOnly r (touchHomes s pa n) := foldl_inv (fun _ _ k => writeHome_reads k) h

/-- A store of bytes is a write of memory. -/
theorem storeBytes_mem (s : State) (pa : Nat) (bs : List Byte) : (storeBytes s pa bs).mem = writeBytes s.mem pa bs :=
  (touchHomes_reads (.refl _)).mem

theorem execQuoteRequest_begins (quiet : s.boot.quoting = false) {v : Word} (go : bitOf v.toNat 0 = true) :
    ∃ t, exec (.quoteRequest v) s = .next t ∧ t.mem = s.mem ∧ t.boot.quoting = true ∧ t.hk.qdone = false ∧
      t.hk.qaddr = bitsOf v.toNat 47 12 * 2 ^ 12 := by
  rw [exec_quoteRequest, execQuoteRequest, quiet, go]
  exact ⟨_, rfl, rfl, rfl, rfl, rfl⟩

theorem execQuoteDone_writes (quoting : s.boot.quoting = true) :
    ∃ t, exec .quoteDone s = .next t ∧ t.boot.quoting = false ∧ t.hk.qdone = true ∧
      t.mem = writeBytes s.mem s.hk.qaddr (quoteBody s ++ leBytes 64 (Config.ed25519Sign s.boot.measurement (quoteBody s)).toNat ++
        leBytes 3309 (Config.mldsa65Sign s.boot.measurement (quoteBody s)).toNat) := by
  rw [exec_quoteDone, execQuoteDone, quoting]
  exact ⟨_, rfl, rfl, rfl, storeBytes_mem _ _ _⟩

/-! ## The host's registers (R435, R437) -/

/-- A number of more bytes is one of the first of them and one of the rest. -/
theorem readLE_add (m : Memory) (k : Nat) : ∀ (n a : Nat), readLE m a (n + k) = readLE m a n + 256 ^ n * readLE m (a + n) k := by
  intro n
  induction n with
  | zero => intro a; simp [readLE, readBytes, leNat]
  | succ n ih =>
    intro a
    have rest := ih (a + 1)
    rw [show a + 1 + n = a + (n + 1) by omega] at rest
    simp only [readLE] at rest ⊢
    rw [show n + 1 + k = n + k + 1 by omega, readBytes, readBytes, leNat, leNat, rest]
    ring

/-- A register that is written whole holds what is written. -/
theorem mergeWord_whole (old : Nat) (v : Word) : mergeWord old 0 8 v = v := by
  have bytes : (leBytes 8 v.toNat).take 8 = leBytes 8 v.toNat := List.take_of_length_le (leBytes_length _ _).le
  have back : readLE (writeLE (writeLE [] 0 8 old) 0 8 v.toNat) 0 8 = v.toNat % 256 ^ 8 := readLE_writeLE (writeLE_wf rfl _ _ _) _ _ _
  rw [mergeWord, Nat.sub_zero, bytes, ← writeLE, back, Nat.mod_eq_of_lt (by have := v.isLt; omega), BitVec.ofNat_toNat, BitVec.setWidth_eq]

/-- Its low half is what is written there. -/
theorem mergeWord_low (old : Nat) (v : Word) : BitVec.ofNat 32 (mergeWord old 0 4 v).toNat = v.truncate 32 := by
  have bytes : (leBytes 4 v.toNat).take 8 = leBytes 4 v.toNat := List.take_of_length_le ((leBytes_length _ _).trans_le (by decide))
  have back : readLE (writeLE (writeLE [] 0 8 old) 0 4 v.toNat) 0 4 = v.toNat % 256 ^ 4 := readLE_writeLE (writeLE_wf rfl _ _ _) _ _ _
  have halves := readLE_add (writeLE (writeLE [] 0 8 old) 0 4 v.toNat) 4 4 0
  rw [back] at halves
  rw [mergeWord, Nat.sub_zero, bytes, ← writeLE, halves]
  apply BitVec.eq_of_toNat_eq
  simp only [BitVec.toNat_ofNat, BitVec.truncate_eq_setWidth, BitVec.toNat_setWidth]
  omega

/-- A housekeeping register that is written whole. -/
theorem exec_housekeepingWrite_register {k : Nat} (inside : k < 0x1000) (whole : k % 8 = 0) (v : Word) (s : State) :
    exec (.housekeepingWrite (0x310000 + k) 8 v) s = writeHousekeeping s k v v := by
  have place : (0x310000 + k) / 8 * 8 = 0x310000 + k := by omega
  have first : (0x310000 + k) % 8 = 0 := by omega
  rw [exec_housekeepingWrite, execHousekeepingWrite, place, first, writtenWord, mergeWord_whole, mergeWord_whole, Nat.add_sub_cancel_left]
  simp only [show ¬ 0x310000 + k < 0x100000 by omega, show ¬ 0x310000 + k < 0x200000 by omega, show ¬ 0x310000 + k < 0x300000 by omega,
    show ¬ 0x310000 + k < 0x300800 by omega, show ¬ (0x301000 ≤ 0x310000 + k ∧ 0x310000 + k < 0x305000) by omega,
    show ¬ (0x308000 ≤ 0x310000 + k ∧ 0x310000 + k < 0x30C000) by omega, show ¬ (0x30C000 ≤ 0x310000 + k ∧ 0x310000 + k < 0x30C200) by omega,
    show 0x310000 ≤ 0x310000 + k ∧ 0x310000 + k < 0x311000 by omega, and_self, if_true, if_false]

/-- A write of a notify page's TAIL. -/
theorem exec_housekeepingWrite_tail (n : Fin 256) (v : Word) (s : State) :
    exec (.housekeepingWrite (4096 * n.val) 4 v) s = exec (.tailWrite n (v.truncate 32)) s := by
  have place : 4096 * n.val / 8 * 8 = 4096 * n.val := by omega
  have first : 4096 * n.val % 8 = 0 := by omega
  have page : 4096 * n.val / 4096 = n.val := by omega
  have low : 4096 * n.val % 4096 = 0 := by omega
  rw [exec_housekeepingWrite, execHousekeepingWrite, place, first, page, low, if_pos (by omega), if_neg (by decide), writeNotify, if_pos rfl,
    mergeWord_low, exec_tailWrite]
  congr
  exact Fin.ext (Nat.mod_eq_of_lt n.isLt)

/-- Clearing a ring's CFG removes the ring. -/
theorem exec_housekeepingWrite_remove (n : Fin 256) (s : State) :
    exec (.housekeepingWrite (0x301020 + 64 * n.val) 8 0) s = exec (.ringRemove n) s := by
  have := n.isLt
  have place : (0x301020 + 64 * n.val) / 8 * 8 = 0x301020 + 64 * n.val := by omega
  have first : (0x301020 + 64 * n.val) % 8 = 0 := by omega
  have ring : (0x301020 + 64 * n.val - 0x301000) / 64 = n.val := by omega
  have field : (0x301020 + 64 * n.val) % 64 = 0x20 := by omega
  rw [exec_housekeepingWrite, execHousekeepingWrite, place, first, ring, field, mergeWord_whole, if_neg (by omega), if_neg (by omega),
    if_neg (by omega), if_neg (by omega), if_pos (by omega), writeDescriptor, if_pos ⟨rfl, rfl⟩, exec_ringRemove]
  congr
  exact Fin.ext (Nat.mod_eq_of_lt n.isLt)

/-- STASHCFG of an idle core moves its window, and empties its stash (R219; assumption 75). -/
theorem execStashcfgWrite_splits (c : Fin 128) {v : Word} (idle : (s.ctxAt c.val).run = .idle) (small : v.toNat % 16 ≤ 12) :
    ∃ t, exec (.stashcfgWrite c v) s = .next t ∧ (t.coreState c.val).wink = v.toNat % 16 ∧ (t.coreState c.val).stash = [] ∧
      (t.coreState c.val).window = [] := by
  have free : (s.ctxAt c.val).resident = false := by simp [Context.resident, idle]
  have kept : (cleanStash s c.val).ctxAt c.val = s.ctxAt c.val := by
    have reads : ReadsOnly s (cleanStash s c.val) := cleanStash_reads (.refl s)
    rw [reads]; rfl
  rw [exec_stashcfgWrite, execStashcfgWrite]
  simp only [free, kept, idle, decide_eq_false (Nat.not_lt.mpr small), Bool.or_self, Bool.false_eq_true, reduceCtorEq, if_false]
  refine ⟨_, rfl, ?_⟩
  rw [coreState_setCore_self (by exact core_coreState _ _)]
  exact ⟨rfl, rfl, window_replaceWindow c.isLt []⟩

/-! ## The link while it is up (R423, R427, R437) -/

section

variable (up : s.link.up = true) (settled : s.link.retraining = false)
include up settled

theorem execHeartbeatSend_sends (due : 500000 ≤ s.link.sinceSend) (free : s.link.hbhold = false) (booted : s.boot.state ≠ 2) :
    exec .heartbeatSend s = .next { s with
      link := { s.link with sinceSend := s.link.sinceSend - 500000 }, out := s.out ++ [.heartbeat (BitVec.ofNat 64 s.ctc) Config.partStrap] } := by
  rw [exec_heartbeatSend, execHeartbeatSend]
  simp [up, settled, free, booted, Nat.not_lt.mpr due]

/-- A flit that arrives ends the idle time and the failures of replays. -/
theorem flits_arrive :
    (∀ c p, ∃ t, exec (.heartbeatReceive c p) s = .next t ∧ t.link.sinceHeard = 0 ∧ t.link.idleIn = 0 ∧ t.link.heardOnce = true) ∧
    exec .idleFlitSend s = .next { s with out := s.out ++ [.idleFlit] } ∧
    exec .idleFlitReceive s = .next { s with link := { s.link with idleIn := 0, failedReplays := 0 } } ∧
    exec .linkFlitReplay s = .next { s with link := { s.link with failedReplays := s.link.failedReplays + 1 }, out := s.out ++ [.replayRequest] } := by
  refine ⟨fun c p => ?_, ?_, ?_, ?_⟩
  · rw [exec_heartbeatReceive, execHeartbeatReceive, up, settled]
    exact ⟨_, rfl, rfl, rfl, rfl⟩
  · rw [exec_idleFlitSend, execIdleFlitSend, up, settled]; rfl
  · rw [exec_idleFlitReceive, execIdleFlitReceive, up, settled]; rfl
  · rw [exec_linkFlitReplay, execLinkFlitReplay, up, settled]; rfl

theorem execLinkRetrain_begins (failed : 9 ≤ s.link.failedReplays) :
    exec .linkRetrain s = .next { s with link := { s.link with retraining := true, retrainFor := 0 } } := by
  rw [exec_linkRetrain, execLinkRetrain, up, settled, decide_eq_true failed]; rfl

end

theorem execLinkFlitAcknowledgment_counts (up : s.link.up = true) (n : Nat) :
    ∃ t, exec (.linkFlitAcknowledgment n) s = .next t ∧ t.link.acked = max s.link.acked (min n (flitsSent s)) ∧ t.link.up = true := by
  rw [exec_linkFlitAcknowledgment, execLinkFlitAcknowledgment, if_pos up]
  exact ⟨_, rfl, rfl, up⟩

theorem execLinkRetrained_ends (retraining : s.link.retraining = true) :
    ∃ t, exec .linkRetrained s = .next t ∧ t.link.retraining = false ∧ t.link.up = s.link.up ∧ t.link.idleIn = 0 := by
  rw [exec_linkRetrained, execLinkRetrained, if_pos retraining]
  exact ⟨_, rfl, rfl, rfl, rfl⟩

theorem execLinkEnable_trains (off : s.link.en = false) :
    exec .linkEnable s = .next { s with link := { s.link with en := true, training := !s.link.up } } := by
  rw [exec_linkEnable, execLinkEnable, off]; rfl

theorem StoresOnly.link (h : StoresOnly s t) : t.link = s.link := by rw [h]

theorem execLinkTrained_up (training : s.link.training = true) :
    ∃ t, exec .linkTrained s = .next t ∧ t.link.up = true ∧ t.link.training = false ∧ t.link.heardOnce = false := by
  rw [exec_linkTrained, execLinkTrained, training]
  refine ⟨_, rfl, ?_⟩
  rw [(hostEvent_stores (.refl _)).link]
  exact ⟨rfl, rfl, rfl⟩

/-! ## The link going down (R425, R428, R429) -/

theorem EnginesOnly.link (h : EnginesOnly s t) : t.link = s.link := by rw [h.1]
theorem LevelsOnly.link (h : LevelsOnly s t) : t.link = s.link := by rw [h]
theorem Settled.link (h : Settled s t) : t.link = s.link := by rw [h.1]
@[simp] theorem focus_link (s : State) (k : Nat) : (s.focus k).link = s.link := by unfold State.focus; split <;> rfl

theorem endAccess_link (s : State) (a : Access) : (endAccess s a).link = s.link := by
  have recorded {status kind flag code bytes addr} : (writeRecord s status kind flag code bytes addr).link = s.link :=
    (writeRecord_engines (.refl s)).link
  unfold endAccess
  split
  · rfl
  · split
    · exact recorded
    · exact recorded
    · exact recorded
    · exact recorded
    · exact recorded
    · exact recorded
    · exact recorded
    · rfl

theorem endOp_link (s : State) (o : EngineOp) : (endOp s o).link = s.link := by
  unfold endOp
  split
  · exact (failUnnamed_engines (.refl s)).link
  · exact (failUnnamed_engines (.refl s)).link
  · exact (failOp_engines (.refl s)).link
  · rfl

theorem sweep_link (s : State) : (sweep s).link = s.link := by
  refine sweep_keeps (P := fun t => t.link = s.link) rfl (fun _ => ?_) (fun _ h => h) (fun _ _ _ h => h) fun t _ _ h => ?_
  · exact settleWord_keeps (P := fun t => t.link = s.link) rfl (fun _ _ h => h) (fun _ h => (retireLaunch_levels (.refl _)).link.trans h)
      fun _ _ _ _ h => (writeDone_levels (.refl _)).link.trans h
  · unfold releaseSave
    split <;> exact h

/-- What waits for the peer ends without a change of the link. -/
theorem endAtPeer_link (s : State) : (endAtPeer s).link = s.link := by
  unfold endAtPeer
  rw [sweep_link, (settle_settled _).link]
  exact foldl_inv (p := fun t : State => t.link = s.link) (fun t o k => (endOp_link t o).trans k)
    (foldl_inv (p := fun t : State => t.link = s.link) (fun t a k => (endAccess_link t a).trans k) rfl)

theorem takeOver_link (s : State) : (takeOver s).link = s.link :=
  foldl_inv (p := fun t : State => t.link = s.link) (fun _ _ k => (hostEvent_stores (.refl _)).link.trans k) rfl

/-- A link that was up goes down for its reason, whatever ends with it. -/
theorem linkDown_link (up : s.link.up = true) (reason : Nat) :
    (linkDown s reason).link.up = false ∧ (linkDown s reason).link.en = false ∧ (linkDown s reason).link.reason = reason := by
  have down : (linkDown s reason).link =
      { s.link with en := false, up := false, training := false, retraining := false, reason := reason, failedReplays := 0 } := by
    rw [linkDown, up]
    refine (takeOver_link _).trans ((hostEvent_stores (.refl _)).link.trans ?_)
    exact foldl_inv (p := fun t : State => t.link = _) (fun _ _ k =>
      withCtx_keeps (P := fun t : State => t.link = _) k (fun t n h => (focus_link t n).trans h) (fun t h => (endAtPeer_link t).trans h)) rfl
  rw [down]
  exact ⟨rfl, rfl, rfl⟩

/-! ## Fatal events (R431, R438) -/

/-- What has gone to the host stays there as it is told of an event. -/
theorem mem_out_hostEvent {x : Outgoing} {cause status asid ident detail} (h : x ∈ s.out) : x ∈ (hostEvent s cause status asid ident detail).out := by
  have stored {pa bs} : (storeBytes s pa bs).out = s.out := by
    have reads : ReadsOnly { s with mem := writeBytes s.mem pa bs, poison := clearPoison s pa bs.length } (storeBytes s pa bs) :=
      touchHomes_reads (.refl _)
    rw [reads]
  unfold hostEvent
  dsimp only
  split
  · exact h
  · split
    · exact h
    · simp only [stored]
      exact holds_ite (p := fun l : List Outgoing => x ∈ l) (List.mem_append_left _ h) h

theorem fatalEvent_stops (s : State) (c : Cause) (detail : Nat) :
    (fatalEvent s c detail).fatal = some c ∧ (fatalEvent s c detail).agenda = [] ∧ (s.link.up = true → .fatalNotice ∈ (fatalEvent s c detail).out) := by
  refine ⟨rfl, rfl, fun up => ?_⟩
  rw [fatalEvent, if_pos up]
  exact mem_out_hostEvent (by simp)

/-! ## Heat (R438) -/

/-- t is s with the temperature measured and THR set or cleared. -/
def State.measured (s : State) (d : BitVec 8) (b : Bool) : State := { s with hk := { s.hk with temp := d, throttling := b } }

section

variable (d : BitVec 8) (w : BitVec 16)

/-- Below 115 °C the power estimate and the temperature begin and end throttling. -/
theorem throttles (cool : d.toNat < 115) :
    let begins := decide (s.hk.pwrlim < w.toNat) || decide (100 ≤ d.toNat)
    let ends := decide (d.toNat < 95) && decide (w.toNat < s.hk.pwrlim)
    exec (.throttleStart d w) s = .next (s.measured d (s.hk.throttling || begins)) ∧
    exec (.throttleEnd d w) s = .next (s.measured d (begins || (s.hk.throttling && !ends))) ∧
    exec (.overheat d) s = .next (s.measured d (s.hk.throttling || decide (100 ≤ d.toNat))) := by
  have heat (u : State) : measureHeat u d = u.measured d (u.hk.throttling || decide (100 ≤ d.toNat)) := if_pos cool
  intro begins ends
  have state : throttled s d w = (begins || (s.hk.throttling && !ends)) := by
    unfold throttled
    split
    · next h => rw [show begins = true from h, Bool.true_or]
    · next h => rw [show begins = false from Bool.eq_false_iff.mpr h, Bool.false_or]
  have hot : decide (100 ≤ d.toNat) = true → begins = true := fun h => by simp only [begins, h, Bool.or_true]
  have settles : ∀ on begins ends hot : Bool, (hot = true → begins = true) →
      (on || (begins || (on && !ends)) || hot) = (on || begins) ∧ (begins || (on && !ends) || hot) = (begins || (on && !ends)) := by decide
  obtain ⟨starts, stops⟩ := settles s.hk.throttling begins ends _ hot
  rw [exec_throttleStart, exec_throttleEnd, exec_overheat, execThrottleStart, execThrottleEnd, execOverheat, heat, heat, heat, state]
  exact ⟨congrArg (Host.Outcome.next ∘ s.measured d) starts, congrArg (Host.Outcome.next ∘ s.measured d) stops, rfl⟩

/-- At 115 °C every measurement is fatal. -/
theorem overheats (hot : 115 ≤ d.toNat) (e : Instr) (he : e = .throttleStart d w ∨ e = .throttleEnd d w ∨ e = .overheat d) :
    ∃ t, exec e s = .next t ∧ t.fatal = some .overheat ∧ t.agenda = [] ∧ (s.link.up = true → .fatalNotice ∈ t.out) := by
  have heat (u : State) (link : u.link = s.link) : (measureHeat u d).fatal = some .overheat ∧ (measureHeat u d).agenda = [] ∧
      (s.link.up = true → .fatalNotice ∈ (measureHeat u d).out) := by
    rw [measureHeat, if_neg (Nat.not_lt.mpr hot), ← link]
    exact fatalEvent_stops _ _ _
  rcases he with rfl | rfl | rfl
  · exact ⟨_, exec_throttleStart d w s, heat _ rfl⟩
  · exact ⟨_, exec_throttleEnd d w s, heat _ rfl⟩
  · exact ⟨_, exec_overheat d s, heat _ rfl⟩

end

/-! ## The statement -/

/-- Settles O60: booting, quotes, the host's registers, the link up and going down, heat, and fatal events. -/
theorem eventsOfThePart : Obligations.EventsOfThePart := by
  intro s boots edOk mlOk accepted fatal down
  have checked (img : List Byte) : slotAccepted img = true ↔ accepted img := slotAccepted_iff img
  have unchecked (img : List Byte) : slotAccepted img = false ↔ ¬ accepted img := by rw [← checked, Bool.not_eq_true]
  have goes (up : s.link.up = true) {e : Instr} {reason : Nat} (he : exec e s = .next (linkDown s reason)) : down e reason :=
    ⟨_, he, linkDown_link up reason⟩
  refine ⟨?_, fun recovery img ok => execRecoveryImageWrite_boots recovery ((checked img).mpr ok),
    fun quiet v go => execQuoteRequest_begins quiet go, execQuoteDone_writes, fun v => ⟨?_, ?_, ?_, fun n => exec_housekeepingWrite_tail n v s,
      fun n => exec_housekeepingWrite_remove n s⟩, fun c v idle small => execStashcfgWrite_splits c idle small,
    fun due up settled free booted => execHeartbeatSend_sends up settled due free booted, fun up settled => ?_,
    fun up => ⟨execLinkFlitAcknowledgment_counts up, ?_, ?_, ?_⟩, execLinkRetrained_ends, execLinkEnable_trains, execLinkTrained_up,
    fun d w => ⟨throttles d w, fun hot => ⟨?_, ?_, ?_⟩⟩, ?_, ?_⟩
  · obtain ⟨t, ht, running, rings, jobs, link, agenda, first, second, neither⟩ := execPowerGood_boots s
    refine ⟨t, ht, running, rings, jobs, link, agenda, ?_, ?_, ?_⟩
    · rwa [checked] at first
    · rwa [checked, unchecked] at second
    · rwa [unchecked, unchecked] at neither
  · exact exec_housekeepingWrite_register (k := 0x38) (by decide) (by decide) v s
  · exact exec_housekeepingWrite_register (k := 0x40) (by decide) (by decide) v s
  · exact exec_housekeepingWrite_register (k := 0x58) (by decide) (by decide) v s
  · obtain ⟨heartbeat, sent, received, replayed⟩ := flits_arrive up settled
    refine ⟨heartbeat, sent, received, replayed, execLinkRetrain_begins up settled, fun idle => goes up ?_⟩
    rw [exec_linkIdleTimeout, execLinkIdleTimeout, settled, decide_eq_true idle]; rfl
  · exact fun retraining => goes up (if_pos retraining)
  · exact goes up rfl
  · exact fun once late => goes up (if_pos (by rw [once, decide_eq_true late]; rfl))
  · exact overheats d w hot _ (.inl rfl)
  · exact overheats d w hot _ (.inr (.inl rfl))
  · exact overheats d w hot _ (.inr (.inr rfl))
  · exact ⟨_, exec_bootWatchdogStall s, fatalEvent_stops _ _ _⟩
  · exact fun place known => ⟨_, if_pos known, fatalEvent_stops _ _ _⟩

end Sys2Proof.Machine
end

section
/-! SUPPORT. One element of an access of a raw page in DRAM: the bytes it reads, the bytes it leaves, and what each kind of access makes of them
(R237, R252, R254 to R261, R403, R405). -/

namespace Sys2Proof.Machine

/-! ## Bytes of a raw page (R236, R237) -/

section

variable {attr : PageAttr} (raw : attr.fmt = .raw)
include raw

theorem physOf_raw (va : Nat) : physOf attr va = attr.pbase + va % 2 ^ attr.sizeLog := if_pos raw

/-- Inside a raw page addresses and places go up together. -/
theorem physOf_add {va n i : Nat} (fits : va % 2 ^ attr.sizeLog + n ≤ 2 ^ attr.sizeLog) (hi : i < n) :
    physOf attr (va + i) = physOf attr va + i := by
  have inside : (va + i) % 2 ^ attr.sizeLog = va % 2 ^ attr.sizeLog + i := by
    rw [Nat.add_mod, Nat.mod_eq_of_lt (show i < 2 ^ attr.sizeLog by omega), Nat.mod_eq_of_lt (by omega)]
  rw [physOf_raw raw, physOf_raw raw, inside, Nat.add_assoc]

/-- The element stream of a raw page is its bytes. -/
theorem streamBytes_raw (m : Memory) : ∀ (n va pa : Nat), (∀ i, i < n → physOf attr (va + i) = pa + i) →
    streamBytes m attr va n = readBytes m pa n := by
  intro n
  induction n with
  | zero => intro va pa _; rfl
  | succ n ih =>
    intro va pa place
    have here : physOf attr va = pa := place 0 (Nat.zero_lt_succ n)
    rw [streamBytes, readBytes, streamByte, if_neg (by rw [raw]; decide), here,
      ih (va + 1) (pa + 1) fun i hi => by rw [Nat.add_assoc, Nat.add_assoc, Nat.add_comm 1 i, place (i + 1) (Nat.succ_lt_succ hi)]]

theorem putStreamBytes_raw (bs : List Byte) : ∀ (m : Memory) (va pa : Nat), (∀ i, i < bs.length → physOf attr (va + i) = pa + i) →
    putStreamBytes m attr va bs = writeBytes m pa bs := by
  induction bs with
  | nil => intro m va pa _; rfl
  | cons b bs ih =>
    intro m va pa place
    have here : physOf attr va = pa := place 0 (Nat.zero_lt_succ _)
    rw [putStreamBytes, writeBytes, putStreamByte, if_neg (by rw [raw]; decide), here,
      ih _ (va + 1) (pa + 1) fun i hi => by rw [Nat.add_assoc, Nat.add_assoc, Nat.add_comm 1 i, place (i + 1) (Nat.succ_lt_succ hi)]]

/-- An address of a raw page that lies in DRAM lies where its page says. -/
theorem physOf_of_placeOf {s : State} {va pa : Nat} (at_ : placeOf s attr va = .dram pa) : physOf attr va = pa := by
  unfold placeOf at at_
  split at at_
  · split at at_ <;> contradiction
  · rw [if_neg (by rw [raw]; decide)] at at_
    dsimp only at at_
    split at at_
    · exact Place.dram.inj at_
    · contradiction
    · contradiction
    · contradiction

end

theorem leNat_lt : ∀ bs : List Byte, leNat bs < 256 ^ bs.length := by
  intro bs
  induction bs with
  | nil => simp [leNat]
  | cons b bs ih =>
    have := b.isLt
    rw [leNat, List.length_cons, Nat.pow_succ]
    omega

theorem readBytes_length (m : Memory) (n : Nat) : ∀ a, (readBytes m a n).length = n := by
  induction n with
  | zero => intro a; rfl
  | succ n ih => intro a; rw [readBytes, List.length_cons, ih]

/-- A number of n bytes has 8n bits. -/
theorem readLE_lt (m : Memory) (a n : Nat) : readLE m a n < 2 ^ (8 * n) := by
  have bound := leNat_lt (readBytes m a n)
  rw [readBytes_length] at bound
  rwa [Nat.pow_mul]

/-! ## Marks and poison (R403, R405) -/

/-- A write in a region marks its page there, and nothing else. -/
theorem markWrite_marks (va : Nat) (c : Context) : ∃ m, markWrite va c = { c with region := { c.region with marked := m } } := by
  unfold markWrite
  dsimp only
  split
  · exact ⟨_, rfl⟩
  · exact ⟨c.region.marked, rfl⟩

theorem placeOf_markWrite (s : State) (va : Nat) (attr : PageAttr) (x : Nat) : placeOf (s.mod (markWrite va)) attr x = placeOf s attr x := by
  obtain ⟨m, marks⟩ := markWrite_marks va s.ctx
  have same : SameCode s (s.mod (markWrite va)) :=
    { self := rfl, mem := rfl, tlb := rfl, walks := rfl, spaces := rfl, slots := rfl, hk := rfl
      info := by rw [State.mod_ctx, marks], home := by rw [State.mod_ctx, marks] }
  exact same.placeOf attr x

/-! ## An element of a raw page (R237, R252) -/

section

variable {s : State} {a : Access} {e : Elem} {pa : Nat} (raw : e.attr.fmt = .raw) (at_ : placeOf s e.attr e.va = .dram pa)
  (fits : e.va % 2 ^ e.attr.sizeLog + e.n ≤ 2 ^ e.attr.sizeLog)
include raw at_ fits

theorem elem_place {i : Nat} (hi : i < e.n) : physOf e.attr (e.va + i) = pa + i := by
  rw [physOf_add raw fits hi, physOf_of_placeOf raw at_]

theorem readElem_raw : readElem s e = readLE s.mem pa e.n := by
  rw [readElem, at_]
  exact congrArg leNat (streamBytes_raw raw s.mem e.n e.va pa fun _ hi => elem_place raw at_ fits hi)

theorem writeElem_raw (v : Nat) :
    writeElem s e v = { s.mod (markWrite e.va) with mem := writeLE s.mem pa e.n v, poison := clearPoison s pa e.n } := by
  have bytes : putStreamBytes s.mem e.attr e.va (leBytes e.n v) = writeLE s.mem pa e.n v :=
    putStreamBytes_raw raw _ _ _ _ fun _ hi => elem_place raw at_ fits (by rwa [leBytes_length] at hi)
  rw [writeElem]
  dsimp only
  rw [placeOf_markWrite, at_]
  dsimp only [State.mod_mem]
  rw [bytes, if_neg (by rw [raw]; decide)]
  rfl

end

/-- An element is performed by one write of its value, or by none. -/
theorem performElem_fst (s : State) (a : Access) (e : Elem) :
    (performElem (s, a) e).1 = s ∨ ∃ v, (performElem (s, a) e).1 = writeElem s e v := by
  unfold performElem
  dsimp only
  split
  · exact .inl rfl
  · exact .inl rfl
  · exact .inl rfl
  · exact .inl rfl
  · exact .inr ⟨_, rfl⟩
  · exact .inl rfl
  · exact .inl rfl
  · exact .inl rfl
  · exact .inr ⟨_, rfl⟩
  · exact .inr ⟨_, rfl⟩
  · exact .inr ⟨_, rfl⟩
  · exact .inr ⟨_, rfl⟩
  · exact .inr ⟨_, rfl⟩
  · exact iteInduction (motive := fun t => t = s ∨ ∃ v, t = writeElem s e v) (fun _ => .inr ⟨_, rfl⟩) fun _ => .inl rfl
  · exact .inl rfl

/-- t is s but for n bytes from pa up, poison that is written over, and the marked pages of the region in focus. -/
def WritesAt (s : State) (pa n : Nat) (t : State) : Prop :=
  t.mem.wf = true ∧ t = { s with ctx := t.ctx, mem := t.mem, poison := t.poison } ∧
  t.ctx = { s.ctx with region := { s.ctx.region with marked := t.ctx.region.marked } } ∧ (∀ w ∈ t.poison, w ∈ s.poison) ∧
  ∀ x, x < pa ∨ pa + n ≤ x → readByte t.mem x = readByte s.mem x

/-! ## Atomics (R260) -/

/-- A number below w read as a signed one. -/
def signedBelow (w y : Nat) : Int := if y < w / 2 then y else (y : Int) - w

theorem wrap_eq_signedBelow {n y : Nat} (pos : 0 < n) (small : y < 2 ^ (8 * n)) : Num.wrap y (8 * n) = signedBelow (2 ^ (8 * n)) y := by
  have half : 2 ^ (8 * n) / 2 = 2 ^ (8 * n - 1) := by
    rw [← Nat.pow_div (by omega) (by decide)]
  rw [wrap_field (by omega) small, signedBelow, half]
  push_cast
  rfl

/-- An n-byte atomic's result for an old value of n bytes, but for FADD's. -/
theorem amoNew_mod {n old : Nat} (b : Nat) (pos : 0 < n) (small : old < 2 ^ (8 * n)) :
    let w := 2 ^ (8 * n)
    let x := b % w
    amoNew n .swap old b % w = x ∧ amoNew n .add old b % w = (old + x) % w ∧ amoNew n .and old b % w = old &&& x ∧
    amoNew n .or old b % w = old ||| x ∧ amoNew n .xor old b % w = old ^^^ x ∧
    amoNew n .min old b % w = (if signedBelow w old ≤ signedBelow w x then old else x) ∧
    amoNew n .max old b % w = (if signedBelow w x ≤ signedBelow w old then old else x) ∧
    amoNew n .minu old b % w = Nat.min old x ∧ amoNew n .maxu old b % w = Nat.max old x := by
  intro w x
  have hx : x < 2 ^ (8 * n) := Nat.mod_lt _ (Nat.two_pow_pos _)
  have either (c : Prop) [Decidable c] : (if c then old else x) % w = if c then old else x :=
    Nat.mod_eq_of_lt (holds_ite (p := fun v => v < w) small hx)
  have signed : Num.wrap old (8 * n) = signedBelow w old ∧ Num.wrap x (8 * n) = signedBelow w x :=
    ⟨wrap_eq_signedBelow pos small, wrap_eq_signedBelow pos hx⟩
  refine ⟨Nat.mod_mod _ _, Nat.mod_mod _ _, Nat.mod_eq_of_lt (Nat.and_lt_two_pow _ hx), Nat.mod_eq_of_lt (Nat.or_lt_two_pow small hx),
    Nat.mod_eq_of_lt (Nat.xor_lt_two_pow small hx), ?_, ?_, Nat.mod_eq_of_lt (lt_of_le_of_lt (Nat.min_le_left _ _) small), Nat.mod_eq_of_lt (Nat.max_lt.mpr ⟨small, hx⟩)⟩
  · rw [← signed.1, ← signed.2]; exact either _
  · rw [← signed.1, ← signed.2]; exact either _

/-! ## The statement -/

section

variable {s : State} {a : Access} {e : Elem} {pa : Nat} (wf : s.mem.wf = true) (raw : e.attr.fmt = .raw)
  (at_ : placeOf s e.attr e.va = .dram pa) (fits : e.va % 2 ^ e.attr.sizeLog + e.n ≤ 2 ^ e.attr.sizeLog)
include wf raw at_ fits

theorem writeElem_writesAt (v : Nat) : WritesAt s pa e.n (writeElem s e v) := by
  rw [writeElem_raw raw at_ fits]
  obtain ⟨m, marks⟩ := markWrite_marks e.va s.ctx
  refine ⟨writeLE_wf wf _ _ _, rfl, ?_, fun w hw => List.mem_of_mem_filter hw, fun x hx => readByte_writeLE_out wf hx⟩
  rw [State.mod, marks]

theorem performElem_writesAt : WritesAt s pa e.n (performElem (s, a) e).1 := by
  rcases performElem_fst s a e with same | ⟨v, written⟩
  · rw [same]; exact ⟨wf, rfl, rfl, fun _ h => h, fun _ _ => rfl⟩
  · rw [written]; exact writeElem_writesAt wf raw at_ fits v

/-- What an element has written reads back. -/
theorem readLE_writeElem (v : Nat) : readLE (writeElem s e v).mem pa e.n = v % 2 ^ (8 * e.n) := by
  rw [writeElem_raw raw at_ fits, Nat.pow_mul]
  exact readLE_writeLE wf pa e.n v

/-- An element whose kind writes v leaves v in its bytes. -/
theorem readLE_of_writes {v : Nat} (writes : (performElem (s, a) e).1 = writeElem s e v) :
    readLE (performElem (s, a) e).1.mem pa e.n = v % 2 ^ (8 * e.n) := by
  rw [writes, readLE_writeElem wf raw at_ fits]

omit wf in
/-- Loads read and keep the state (R252, R254, R259). -/
theorem performElem_loads :
    (∀ n sg, a.kind = .load n sg → (performElem (s, a) e).1 = s ∧ (performElem (s, a) e).2.data = [readLE s.mem pa e.n]) ∧
    (a.kind = .vload ∨ a.kind = .gather ∨ a.kind = .vloads → (performElem (s, a) e).1 = s ∧
      (performElem (s, a) e).2.data = addLane a.laneWidth e.row e.lane (readLE s.mem pa e.n) a.data) := by
  have whole (v : Nat) : atPlanes a e v = v := by simp [atPlanes, raw]
  refine ⟨fun n sg kind => ?_, fun kind => ?_⟩
  · simp only [performElem, kind, readElem_raw raw at_ fits, and_self]
  · rcases kind with kind | kind | kind <;>
      simp only [performElem, kind, readElem_raw raw at_ fits, whole, and_self]

/-- Stores write their word, or their lane of a row (R252, R254, R256, R259). -/
theorem performElem_stores :
    let lane (j : Nat) := laneOf ((a.rows.drop j).headD 0) a.laneWidth e.lane
    let stores (v : Nat) : Prop := readLE (performElem (s, a) e).1.mem pa e.n = v % 2 ^ (8 * e.n)
    (∀ n, a.kind = .store n → stores a.v1.toNat) ∧ (a.kind = .vstore → stores (lane 0)) ∧ (a.kind = .scatter → stores (lane 1)) ∧
    (a.kind = .vstores → stores (lane e.row)) := by
  refine ⟨fun n kind => ?_, fun kind => ?_, fun kind => ?_, fun kind => ?_⟩
  · exact readLE_of_writes wf raw at_ fits (by simp only [performElem, kind])
  · exact readLE_of_writes wf raw at_ fits (by simp only [performElem, laneData, kind, List.drop_zero])
  · exact readLE_of_writes wf raw at_ fits (by simp only [performElem, laneData, kind])
  · exact readLE_of_writes wf raw at_ fits (by simp only [performElem, laneData, kind])

/-- VRADD writes the sum in its type (R257, R258). -/
theorem performElem_radd {y : ElemType} (kind : a.kind = .radd y) (width : y.width = 8 * e.n) :
    let old := readLE s.mem pa e.n
    let lane := laneOf ((a.rows.drop 1).headD 0) a.laneWidth e.lane
    let stores (v : Nat) : Prop := readLE (performElem (s, a) e).1.mem pa e.n = v % 2 ^ (8 * e.n)
    match y.fmt? with
    | some f => stores (Num.fadd f .rne false old (lane % 2 ^ (8 * e.n))).1
    | none => stores (old + lane) := by
  intro old lane stores
  have sum : stores (raddNew y old lane) :=
    readLE_of_writes wf raw at_ fits (by simp only [performElem, laneData, kind, readElem_raw raw at_ fits, old, lane])
  rw [raddNew, width, Nat.mod_eq_of_lt (readLE_lt s.mem pa e.n)] at sum
  split
  · next f float => rwa [float] at sum
  · next whole =>
    rw [whole] at sum
    exact sum.trans (Nat.mod_mod _ _)

/-- A compare-and-swap takes the old value, and writes only on a match (R261). -/
theorem performElem_cas {n : Nat} (kind : a.kind = .cas n) (size : e.n = n) :
    let old := readLE s.mem pa e.n
    (performElem (s, a) e).2.data = [old] ∧ readLE (performElem (s, a) e).1.mem pa e.n =
      if old = a.v2.toNat % 2 ^ (8 * n) then a.v1.toNat % 2 ^ (8 * n) else old := by
  intro old
  refine ⟨by simp only [performElem, kind, readElem_raw raw at_ fits, old], ?_⟩
  have step : (performElem (s, a) e).1 = if old = a.v2.toNat % 2 ^ (8 * n) then writeElem s e a.v1.toNat else s := by
    simp only [performElem, kind, readElem_raw raw at_ fits, old]
  rw [step]
  split
  · rw [readLE_writeElem wf raw at_ fits, size]
  · rfl

/-- An atomic takes the old value and writes its result (R260). -/
theorem performElem_amo {n : Nat} {o : AmoOp} (kind : a.kind = .amo n o) :
    let old := readLE s.mem pa e.n
    (performElem (s, a) e).2.data = [old] ∧
      readLE (performElem (s, a) e).1.mem pa e.n = amoNew n o old a.v1.toNat % 2 ^ (8 * e.n) := by
  intro old
  refine ⟨by simp only [performElem, kind, readElem_raw raw at_ fits, old], ?_⟩
  exact readLE_of_writes wf raw at_ fits (by simp only [performElem, kind, readElem_raw raw at_ fits, old])

end

theorem modifyNth_length {α : Type} (f : α → α) (n : Nat) (l : List α) : (modifyNth f n l).length = l.length := by
  induction l generalizing n with
  | nil => cases n <;> rfl
  | cons x xs ih =>
    cases n with
    | zero => rfl
    | succ n => exact congrArg Nat.succ (ih n)

theorem getElem?_modifyNth_eq_ite {α : Type} (f : α → α) (n i : Nat) (l : List α) :
    (modifyNth f n l)[i]? = l[i]?.map (fun x => if i = n then f x else x) := by
  by_cases here : i = n
  · subst here
    simp only [getElem?_modifyNth, if_true]
  · simp only [here, if_false, Option.map_id']
    induction l generalizing n i with
    | nil => cases n <;> rfl
    | cons x xs ih =>
      cases n with
      | zero =>
        obtain ⟨k, rfl⟩ := Nat.exists_eq_succ_of_ne_zero here
        rfl
      | succ n =>
        cases i with
        | zero => rfl
        | succ i => exact ih n i fun e => here (congrArg Nat.succ e)

/-- Settles O37: what every element leaves alone, then what each kind of access reads and writes. -/
theorem elementsPerform : Obligations.ElementsPerform := by
  intro s a e pa wf raw at_ fits old t b now stores lane
  obtain ⟨canonical, only, region, poison, outside⟩ := performElem_writesAt (a := a) wf raw at_ fits
  obtain ⟨load, rows⟩ := performElem_loads (a := a) raw at_ fits
  obtain ⟨store, vstore, scatter, vstores⟩ := performElem_stores (a := a) wf raw at_ fits
  refine ⟨canonical, only, region, poison, outside, load, fun kind => ?_, store, vstore, scatter, vstores,
    fun y kind width => performElem_radd wf raw at_ fits kind width, fun n kind size => performElem_cas wf raw at_ fits kind size,
    fun n size => ?_⟩
  · obtain ⟨same, data⟩ := rows kind
    refine ⟨same, ?_, fun i => ?_⟩
    · rw [data, addLane, modifyNth_length]
    · rw [data, addLane, getElem?_modifyNth_eq_ite]
  · intro w x signed gives
    have small : old < 2 ^ (8 * n) := size ▸ readLE_lt s.mem pa e.n
    have bits : 2 ^ (8 * e.n) = w := by rw [size]
    have done {o : AmoOp} {v : Nat} (value : amoNew n o old a.v1.toNat % w = v) : gives o v := by
      intro pos kind
      obtain ⟨data, written⟩ := performElem_amo wf raw at_ fits kind
      exact ⟨data, written.trans (by rw [bits]; exact value)⟩
    have fadd (four : n = 4) : gives .fadd ((Num.fadd Num.f32 .rne false old x).1 % w) := done rfl
    rcases n.eq_zero_or_pos with zero | pos
    · have none {o : AmoOp} {v : Nat} : gives o v := fun pos => absurd pos (by omega)
      exact ⟨none, none, none, none, none, none, none, none, none, fadd⟩
    · obtain ⟨swap, add, and, or, xor, min, max, minu, maxu⟩ := amoNew_mod a.v1.toNat pos small
      exact ⟨done swap, done add, done and, done or, done xor, done min, done max, done minu, done maxu, fadd⟩

end Sys2Proof.Machine
end

section
/-! SUPPORT. The lines that home slices hold and who has pinned them (R223, R227, R266): a touch leaves every pin where it is, and PIN and UNPIN
change the pins of their own lines alone. -/

namespace Sys2Proof.Machine

variable {r s t : State}

/-! ## What the caches' records leave alone -/

/-- t is s but for what slices and stashes hold. -/
def CachesOnly (s t : State) : Prop := t = { s with dram := t.dram, slices := t.slices, cores := t.cores, gussets := t.gussets }

namespace CachesOnly

theorem refl (s : State) : CachesOnly s s := rfl

theorem trans (h : CachesOnly r s) (k : CachesOnly s t) : CachesOnly r t := by
  unfold CachesOnly at h k
  rw [k, h]; rfl

theorem mem (h : CachesOnly s t) : t.mem = s.mem := by rw [h]
theorem ctx (h : CachesOnly s t) : t.ctx = s.ctx := by rw [h]

theorem sameCode (h : CachesOnly s t) : SameCode s t := by
  unfold CachesOnly at h
  rw [h]
  exact ⟨rfl, rfl, rfl, rfl, rfl, rfl, rfl, rfl, rfl⟩

/-- Which line an address is depends on no cache. -/
theorem plainLine (h : CachesOnly s t) (va : Nat) : plainLine t va = plainLine s va := by
  unfold Machine.plainLine
  rw [h.sameCode.resolve, h.ctx]
  simp only [h.sameCode.placeOf]

theorem held (h : CachesOnly s t) (asid : BitVec 16) (va : Nat) : held t asid va = held s asid va := by
  unfold Machine.held heldAt
  rw [h.sameCode.tlbPlaces, h.sameCode.tlb]

theorem descOf (h : CachesOnly s t) (asid : BitVec 16) : descOf t asid = descOf s asid := by
  unfold Machine.descOf readDesc
  rw [h.sameCode.spaces, h.sameCode.hk, h.sameCode.mem]

end CachesOnly

theorem wayFor_caches {n line} : OnSome (fun p => CachesOnly s p.1) (wayFor s n line) := by
  unfold wayFor
  dsimp only
  split
  · exact .refl s
  · exact OnSome.map fun _ => rfl

theorem touchSlice_caches {line mask dirty} : CachesOnly s (touchSlice s line mask dirty) := by
  unfold touchSlice
  dsimp only
  split
  · rfl
  · split
    · exact holds_ite (p := CachesOnly s) rfl rfl
    · next found =>
      have taken := OnSome.of_eq (p := fun p => CachesOnly s p.1) found wayFor_caches
      exact taken.trans rfl

theorem setPin_caches {line p} : CachesOnly s (setPin s line p) :=
  (holds_ite (p := CachesOnly s) touchSlice_caches (.refl s)).trans rfl

/-! ## Lists of lines -/

/-- Who has pinned a line among those of a list. -/
def pinIn (l : List SliceLine) (x : Nat) : Option (BitVec 16) := (l.find? (fun y => y.line == x)).bind SliceLine.pin

/-- Each line stands once in a list. -/
def Distinct (l : List SliceLine) : Prop := (l.map SliceLine.line).Nodup

section

variable {l : List SliceLine} {v y : SliceLine} {line x : Nat}

theorem Distinct.filter (p : SliceLine → Bool) (h : Distinct l) : Distinct (l.filter p) := h.sublist (List.filter_sublist.map _)

/-- A line that stands nowhere in a list may join it. -/
theorem Distinct.append (h : Distinct l) (new : l.find? (fun y => y.line == v.line) = none) : Distinct (l ++ [v]) := by
  have absent : v.line ∉ l.map SliceLine.line := by simpa using new
  unfold Distinct
  rw [List.map_append, List.map_singleton]
  exact List.nodup_append.mpr ⟨h, List.nodup_singleton _, fun a ha b hb e => absent (by rw [← List.mem_singleton.mp hb, ← e]; exact ha)⟩

theorem find?_of_distinct (h : Distinct l) (here : v ∈ l) : l.find? (fun y => y.line == v.line) = some v := by
  induction l with
  | nil => exact absurd here (List.not_mem_nil)
  | cons y ys ih =>
    obtain ⟨fresh, rest⟩ := List.nodup_cons.mp h
    rcases List.mem_cons.mp here with rfl | there
    · simp
    · have other : y.line ≠ v.line := fun e => fresh (e ▸ List.mem_map_of_mem there)
      rw [List.find?_cons, beq_eq_false_iff_ne.mpr other]
      exact ih rest there

theorem pinIn_filter (x : Nat) : pinIn (l.filter (fun y => y.line != line)) x = if x = line then none else pinIn l x := by
  unfold pinIn
  rw [List.find?_filter]
  split
  · next e =>
    rw [List.find?_eq_none.mpr fun y _ => by simp [e]]
    rfl
  · next ne =>
    congr 2
    funext y
    by_cases h : y.line = x <;> simp [h, ne]

/-- An unpinned line that leaves takes no pin with it. -/
theorem pinIn_drop (h : Distinct l) (here : v ∈ l) (free : v.pin = none) (x : Nat) : pinIn (l.filter (fun y => y.line != v.line)) x = pinIn l x := by
  rw [pinIn_filter]
  split
  · next e => rw [e, pinIn, find?_of_distinct h here]; exact free.symm
  · rfl

theorem pinIn_append (x : Nat) : pinIn (l ++ [v]) x = if x = v.line ∧ l.find? (fun y => y.line == x) = none then v.pin else pinIn l x := by
  unfold pinIn
  rw [List.find?_append]
  cases found : l.find? (fun y => y.line == x) with
  | some z => simp
  | none =>
    by_cases e : v.line = x
    · simp [e]
    · simp [e, Ne.symm e]

/-- A new line that is not pinned changes no pin. -/
theorem pinIn_new (free : v.pin = none) (x : Nat) : pinIn (l ++ [v]) x = pinIn l x := by
  rw [pinIn_append]
  split
  · next h => rw [pinIn, h.2]; exact free
  · rfl

/-- A line that is taken out and put back with its pin changes none. -/
theorem pinIn_touch (found : l.find? (fun z => z.line == line) = some y) (same : v.line = line) (pin : v.pin = y.pin) (x : Nat) :
    pinIn (l.filter (fun z => z.line != line) ++ [v]) x = pinIn l x := by
  have gone : (l.filter (fun z => z.line != line)).find? (fun z => z.line == line) = none := by simp
  rw [pinIn_append, same]
  by_cases e : x = line
  · rw [e, if_pos ⟨rfl, gone⟩, pinIn, found]; exact pin
  · rw [if_neg fun h => e h.1, pinIn_filter, if_neg e]

/-- Changing the pin of one line changes no other's. -/
theorem pinIn_setPin (p : Option (BitVec 16)) (x : Nat) :
    pinIn (l.map (fun y => if y.line = line then { y with pin := p } else y)) x =
      if x = line then (if l.any (fun y => y.line == line) then p else none) else pinIn l x := by
  have kept (y : SliceLine) : (if y.line = line then { y with pin := p } else y).line = y.line := by split <;> rfl
  unfold pinIn
  rw [List.find?_map]
  simp only [Function.comp_def, kept]
  by_cases e : x = line
  · subst e
    cases found : l.find? (fun y => y.line == x) with
    | none =>
      have gone : l.any (fun y => y.line == x) = false := List.any_eq_false.mpr (List.find?_eq_none.mp found)
      simp [gone]
    | some y =>
      have named : y.line = x := by simpa using List.find?_some found
      have held : l.any (fun y => y.line == x) = true := List.any_eq_true.mpr ⟨y, List.mem_of_find?_eq_some found, by simpa using named⟩
      simp [named, held]
  · rw [if_neg e]
    cases found : l.find? (fun y => y.line == x) with
    | none => rfl
    | some y =>
      have named : y.line = x := by simpa using List.find?_some found
      simp [named, e]

end

/-! ## Slices by their numbers -/

theorem sliceState_setSlice (s : State) (k : SliceState) (n : Nat) : (s.setSlice k).sliceState n = if k.slice = n then k else s.sliceState n := by
  have found := find?_upsert_key (key := SliceState.slice) (n := n) k s.slices
  simp only [State.sliceState, State.setSlice, beq_eq_decide]
  rw [found]
  split <;> rfl

/-- The lines of a slice. -/
def sliceLines (s : State) (n : Nat) : List SliceLine := (s.sliceState n).lines

theorem sliceLines_setLines (s : State) (n m : Nat) (l : List SliceLine) :
    sliceLines (s.setSlice { s.sliceState n with lines := l }) m = if n = m then l else sliceLines s m := by
  unfold sliceLines
  rw [sliceState_setSlice]
  simp only [slice_sliceState]
  split <;> rfl

/-- Every slice holds a line once, and each line is pinned in t as it is in s. -/
def PinsStay (s t : State) : Prop := (∀ n, Distinct (sliceLines t n)) ∧ ∀ n x, pinIn (sliceLines t n) x = pinIn (sliceLines s n) x

theorem PinsStay.trans (h : PinsStay r s) (k : PinsStay s t) : PinsStay r t := ⟨k.1, fun n x => (k.2 n x).trans (h.2 n x)⟩

theorem PinsStay.pinOwner (h : PinsStay s t) (x : Nat) : pinOwner t x = pinOwner s x := h.2 _ x

/-- New lines of one slice that keep its pins. -/
theorem setLines_pinsStay (h : ∀ n, Distinct (sliceLines s n)) {n : Nat} {l : List SliceLine} (distinct : Distinct l)
    (same : ∀ x, pinIn l x = pinIn (sliceLines s n) x) : PinsStay s (s.setSlice { s.sliceState n with lines := l }) := by
  refine ⟨fun m => ?_, fun m x => ?_⟩
  · rw [sliceLines_setLines]
    exact holds_ite distinct (h m)
  · rw [sliceLines_setLines]
    split
    · next e => rw [same, e]
    · rfl

/-! ## Touching a slice (R223) -/

/-- The way of a new line is free, or that of an unpinned line that leaves. -/
theorem wayFor_cases {n line w : Nat} (h : wayFor s n line = some (t, w)) :
    t = s ∨ ∃ v ∈ sliceLines s n, v.pin = none ∧ t = evictLine s n v := by
  unfold wayFor at h
  dsimp only at h
  split at h
  · left
    exact (Prod.mk.inj (Option.some.inj h)).1.symm
  · right
    obtain ⟨v, found, taken⟩ := Option.map_eq_some_iff.mp h
    have chosen := List.find?_some found
    simp only [Bool.and_eq_true, Option.isNone_iff_eq_none] at chosen
    exact ⟨v, List.mem_of_find?_eq_some found, chosen.1.2, (Prod.mk.inj taken).1.symm⟩

theorem wayFor_pinsStay (h : ∀ n, Distinct (sliceLines s n)) {n line w : Nat} (taken : wayFor s n line = some (t, w)) : PinsStay s t := by
  rcases wayFor_cases taken with rfl | ⟨v, here, free, rfl⟩
  · exact ⟨h, fun _ _ => rfl⟩
  · exact setLines_pinsStay (s := recallLine (writeBack s v.line (v.dirty ||| stashDirty s v.line)) v.line none) h ((h n).filter _)
      (pinIn_drop (h n) here free)

/-- What leaves for a new line is not that line. -/
theorem wayFor_find? {n line w : Nat} (new : (sliceLines s n).find? (fun x => x.line == line) = none) (taken : wayFor s n line = some (t, w)) :
    (sliceLines t n).find? (fun x => x.line == line) = none := by
  rcases wayFor_cases taken with rfl | ⟨v, -, -, rfl⟩
  · exact new
  · have left : sliceLines (evictLine s n v) n = (sliceLines s n).filter (fun x => x.line != v.line) :=
      (sliceLines_setLines (recallLine (writeBack s v.line (v.dirty ||| stashDirty s v.line)) v.line none) n n _).trans (if_pos rfl)
    rw [left]
    exact List.find?_eq_none.mpr fun x hx => List.find?_eq_none.mp new x (List.mem_of_mem_filter hx)

/-- A touch of a line leaves every pin where it is. -/
theorem touchSlice_pinsStay (h : ∀ n, Distinct (sliceLines s n)) (line : Nat) (mask : BitVec 4) (dirty : Bool) :
    PinsStay s (touchSlice s line mask dirty) := by
  unfold touchSlice
  dsimp only
  split
  · next y found =>
    have named : y.line = line := by simpa using List.find?_some found
    refine setLines_pinsStay h (((h _).filter _).append ?_) (pinIn_touch found named rfl)
    simp [named]
  · next new =>
    split
    · exact holds_ite (p := PinsStay s) ⟨h, fun _ _ => rfl⟩ ⟨h, fun _ _ => rfl⟩
    · next u w taken =>
      have stay := wayFor_pinsStay h taken
      exact stay.trans (setLines_pinsStay stay.1 ((stay.1 _).append (wayFor_find? new taken)) (pinIn_new rfl))

/-- Whether a line has a way depends on its home slice alone. -/
theorem wayOpen_of_slices (e : t.slices = s.slices) (line : Nat) : wayOpen t line = wayOpen s line := by
  have way (n : Nat) : (wayFor t n line).isSome = (wayFor s n line).isSome := by
    unfold wayFor
    rw [sliceState_of_slices e]
    dsimp only
    split
    · rfl
    · rw [Option.isSome_map, Option.isSome_map]
  rw [wayOpen, wayOpen, way, sliceHolds, sliceHolds, sliceState_of_slices e]

/-- A touch brings a line in where a way takes it (R223, R227). -/
theorem sliceHolds_touchSlice {line : Nat} (opens : wayOpen s line = true) (mask : BitVec 4) (dirty : Bool) :
    sliceHolds (touchSlice s line mask dirty) line = true := by
  have stands {u : State} {l : List SliceLine} {v : SliceLine} (named : v.line = line) :
      sliceHolds (u.setSlice { u.sliceState (sliceOf (line * 128)) with lines := l ++ [v] }) line = true := by
    unfold sliceHolds
    rw [sliceState_setSlice_self (by exact slice_sliceState _ _)]
    simp [named]
  unfold touchSlice
  dsimp only
  split
  · next y found => exact stands (by simpa using List.find?_some found)
  · next new =>
    have absent : sliceHolds s line = false := by
      unfold sliceHolds
      rw [List.any_eq_false]
      exact List.find?_eq_none.mp new
    split
    · next full => simp [wayOpen, absent, full] at opens
    · exact stands rfl

/-! ## Pins (R227) -/

theorem setPin_eq (s : State) (line : Nat) (p : Option (BitVec 16)) :
    setPin s line p =
      let u := if p.isSome then touchSlice s line 15 false else s
      u.setSlice { u.sliceState (sliceOf (line * 128)) with
        lines := (sliceLines u (sliceOf (line * 128))).map (fun x => if x.line = line then { x with pin := p } else x) } := rfl

theorem setPin_distinct (h : ∀ n, Distinct (sliceLines s n)) (line : Nat) (p : Option (BitVec 16)) : ∀ n, Distinct (sliceLines (setPin s line p) n) := by
  have touched : ∀ n, Distinct (sliceLines (if p.isSome then touchSlice s line 15 false else s) n) :=
    holds_ite (p := fun u : State => ∀ n, Distinct (sliceLines u n)) (touchSlice_pinsStay h line 15 false).1 h
  intro n
  rw [setPin_eq, sliceLines_setLines]
  refine holds_ite ?_ (touched n)
  have kept : SliceLine.line ∘ (fun x : SliceLine => if x.line = line then { x with pin := p } else x) = SliceLine.line := by
    funext x
    dsimp only [Function.comp]
    split <;> rfl
  unfold Distinct
  rw [List.map_map, kept]
  exact touched _

/-- The pin that a change of one line's pin leaves at each line. -/
theorem pinOwner_setLinePin (u : State) (line : Nat) (p : Option (BitVec 16)) (x : Nat) :
    pinOwner (u.setSlice { u.sliceState (sliceOf (line * 128)) with
        lines := (sliceLines u (sliceOf (line * 128))).map (fun y => if y.line = line then { y with pin := p } else y) }) x =
      if x = line then (if sliceHolds u line then p else none) else pinOwner u x := by
  change pinIn (sliceLines _ _) x = _
  rw [sliceLines_setLines]
  by_cases e : x = line
  · subst e
    rw [if_pos rfl, pinIn_setPin, if_pos rfl, if_pos rfl]
    rfl
  · rw [if_neg e]
    split
    · next same => rw [pinIn_setPin, if_neg e, same]; rfl
    · rfl

/-- Pinning a line for which there is a way. -/
theorem pinOwner_setPin_some (h : ∀ n, Distinct (sliceLines s n)) {line : Nat} (opens : wayOpen s line = true) (a : BitVec 16) (x : Nat) :
    pinOwner (setPin s line (some a)) x = if x = line then some a else pinOwner s x := by
  refine (pinOwner_setLinePin (touchSlice s line 15 false) line (some a) x).trans ?_
  rw [sliceHolds_touchSlice opens, if_pos rfl, (touchSlice_pinsStay h line 15 false).pinOwner]

theorem pinOwner_setPin_none (s : State) (line x : Nat) : pinOwner (setPin s line none) x = if x = line then none else pinOwner s x := by
  refine (pinOwner_setLinePin s line none x).trans ?_
  rw [ite_self]

end Sys2Proof.Machine
end

section
/-! SUPPORT. PIN and UNPIN line by line (R227, R265, R266), the late requests that they count (R287, R293), and PINCNT (R217). -/

namespace Sys2Proof.Machine

variable {r s t : State} {ea : Nat}

/-! ## Late requests (R287, R293) -/

/-- What k requests that are all late make of LATE: a count that stays at its largest, and the level's bit. -/
def lateAfter (late k : Nat) : Nat := min (2 ^ 32 - 1) (late % 2 ^ 32 + k) + 2 ^ 32 * (bitsOf late 39 32 ||| 1)

theorem lateAfter_lt (late k : Nat) : lateAfter late k < 2 ^ 40 := by
  have level : bitsOf late 39 32 ||| 1 < 2 ^ 8 := Nat.or_lt_two_pow (Nat.mod_lt _ (Nat.two_pow_pos 8)) (by decide)
  unfold lateAfter
  omega

/-- Late requests at level 0 of a context that counts in its own register, where they raise no event. -/
theorem countLates_late (here : countsHere s = true) (quiet : bitOf (s.ctx.slacktab[2]).toNat 0 = false) {k : Nat} (some_ : 0 < k) (va : Nat) :
    (countLates s 0 k va).ctx.late = BitVec.ofNat 64 (lateAfter s.ctx.late.toNat k) := by
  have first : countLate s 0 va = s.mod (fun c => { c with late := BitVec.ofNat 64 (lateAfter s.ctx.late.toNat 1) }) := by
    simp [countLate, lateOf, setLate, here, quiet, lateAfter]
  have counts : countsHere (countLate s 0 va) = true := by rw [first]; exact here
  have low : (BitVec.ofNat 64 (lateAfter s.ctx.late.toNat 1)).toNat = lateAfter s.ctx.late.toNat 1 :=
    Nat.mod_eq_of_lt ((lateAfter_lt _ _).trans (by decide))
  have level : bitsOf s.ctx.late.toNat 39 32 ||| 1 < 2 ^ 8 := Nat.or_lt_two_pow (Nat.mod_lt _ (Nat.two_pow_pos 8)) (by decide)
  unfold countLates
  rw [if_neg (Nat.pos_iff_ne_zero.mp some_)]
  simp only [lateOf, setLate, counts, if_true, State.mod_ctx]
  rw [first, State.mod_ctx, low]
  congr 1
  unfold lateAfter
  generalize bitsOf s.ctx.late.toNat 39 32 ||| 1 = b at level
  omega

/-- c is s's context but for LATE, which k requests of the slack of entry 0 have left so. -/
def LateOnly (s : State) (k : Nat) (c : Context) : Prop :=
  c = { s.ctx with late := c.late } ∧ (slackEntry s.ctx 0 = 4095 → c.late = s.ctx.late) ∧
  (slackEntry s.ctx 0 = 0 → 0 < k → c.late.toNat = lateAfter s.ctx.late.toNat k)

/-- In the same case, or where no request is urgent, requests of entry 0 change LATE alone. -/
theorem requestLates_register (here : countsHere s = true)
    (quiet : slackEntry s.ctx 0 = 4095 ∨ bitOf (s.ctx.slacktab[2]).toNat 0 = false) (k va : Nat) :
    ∃ d c, requestLates s (slackEntry s.ctx 0) 0 k va = { s with ctx := c, draws := d } ∧ LateOnly s k c := by
  by_cases unhurried : slackEntry s.ctx 0 = 4095
  · refine ⟨s.draws, s.ctx, by rw [unhurried, requestLates_unhurried], rfl, fun _ => rfl, fun zero => ?_⟩
    rw [unhurried] at zero
    exact absurd zero (by decide)
  · replace quiet : bitOf (s.ctx.slacktab[2]).toNat 0 = false := quiet.resolve_left unhurried
    unfold requestLates
    rw [if_neg unhurried]
    split
    · next zero =>
      refine ⟨s.draws, { s.ctx with late := (countLates s 0 k va).ctx.late }, ?_, rfl, fun e => absurd e unhurried, fun _ some_ => ?_⟩
      · conv_lhs => rw [countLates_register s 0 k va here quiet]
        rfl
      · exact (congrArg BitVec.toNat (countLates_late here quiet some_ va)).trans (Nat.mod_eq_of_lt ((lateAfter_lt _ _).trans (by decide)))
    · next nonzero =>
      let n := Config.lateRequests s.draws % (k + 1)
      refine ⟨s.draws + 1, { s.ctx with late := (countLates s.drawn 0 n va).ctx.late }, ?_, rfl, fun e => absurd e unhurried,
        fun e => absurd e nonzero⟩
      conv_lhs => rw [countLates_register s.drawn 0 _ va here quiet]
      rfl

/-! ## Lines of a range -/

/-- An address whose translation is held needs no walk. -/
theorem reachHere_of_held {va : Nat} (h : (held s s.ctx.info.asid va).isSome = true) : reachHere s va = s := if_pos h

/-- The lines i to i + n of a range are held, and are these lines of DRAM. -/
def Lines (ea : Nat) (l : Nat → Nat) (i n : Nat) (s : State) : Prop :=
  ∀ j, i ≤ j → j < i + n → (held s s.ctx.info.asid (lineAddr ea j)).isSome = true ∧ plainLine s (lineAddr ea j) = some (l j)

variable {l : Nat → Nat} {i n : Nat}

theorem Lines.of_caches (h : Lines ea l i n s) (k : CachesOnly s t) : Lines ea l i n t := by
  intro j low high
  rw [k.plainLine, k.held, k.ctx]
  exact h j low high

theorem Lines.tail (h : Lines ea l i (n + 1) s) : Lines ea l (i + 1) n s := fun j low high => h j (by omega) (by omega)

/-- Every line of such a range asks its home slice. -/
theorem countP_lines (h : Lines ea l 0 n s) {k : Nat} (inside : k ≤ n) :
    (List.range k).countP (fun i => (plainLine s (lineAddr ea i)).isSome) = k := by
  rw [List.countP_eq_length.mpr, List.length_range]
  intro j hj
  rw [(h j (Nat.zero_le j) (by have := List.mem_range.mp hj; omega)).2]
  rfl

/-! ## PIN (R266) -/

theorem setPin_reads {line p} (h : ReadsOnly r s) : ReadsOnly r (setPin s line p) :=
  setSlice_reads (holds_ite (touchSlice_reads h) h)

/-- PIN stops at a status from 1 to 3, or holds every line. -/
theorem tryPin_stop {va st : Nat} (h : tryPin s va = .stop st) : 1 ≤ st ∧ st ≤ 3 := by
  unfold tryPin at h
  dsimp only at h
  split at h
  · cases h; decide
  · split at h
    · split at h
      · cases h
      · cases h; decide
    · split at h
      · cases h; decide
      · split at h
        · cases h; decide
        · cases h

theorem pinLines_keeps (ea n : Nat) : ∀ (i : Nat) (s : State), let p := pinLines ea n i s
    ReadsOnly s p.1 ∧ i ≤ p.2.1 ∧ p.2.1 ≤ i + n ∧ p.2.2 ≤ 3 ∧ (p.2.2 = 0 ↔ p.2.1 = i + n) := by
  induction n with
  | zero => exact fun i s => ⟨.refl s, le_rfl, le_rfl, Nat.zero_le 3, fun _ => rfl, fun _ => rfl⟩
  | succ n ih =>
    intro i s
    have reached : ReadsOnly s (reachHere s (lineAddr ea i)) := reach_reads (.refl s)
    unfold pinLines
    dsimp only
    split
    · obtain ⟨reads, low, high, bound, all⟩ := ih (i + 1) (reachHere s (lineAddr ea i))
      exact ⟨reached.trans reads, by omega, by omega, bound, all.trans (by omega)⟩
    · next line _ =>
      obtain ⟨reads, low, high, bound, all⟩ := ih (i + 1) (setPin (reachHere s (lineAddr ea i)) line (some (reachHere s (lineAddr ea i)).ctx.info.asid))
      exact ⟨(setPin_reads reached).trans reads, by omega, by omega, bound, all.trans (by omega)⟩
    · next st stops =>
      obtain ⟨low, high⟩ := tryPin_stop stops
      refine ⟨reached, le_rfl, by dsimp only; omega, high, ?_⟩
      dsimp only
      omega

/-- Why PIN stops at a line: another space's, the quota, or a full set. -/
def PinStops (u : State) (line status : Nat) : Prop :=
  (status = 3 ∧ pinOwner u line ≠ none ∧ pinOwner u line ≠ some u.ctx.info.asid) ∨
  (pinOwner u line = none ∧ if (descOf u u.ctx.info.asid).pinq ≤ pinCount u u.ctx.info.asid then status = 2
    else status = 1 ∧ (pinLimit u line ≤ pinnedWays u line ∨ wayOpen u line = false))

/-- What PIN finds at a line of DRAM. -/
theorem tryPin_of_line {va line : Nat} (h : plainLine s va = some line) :
    (tryPin s va = .held ∧ pinOwner s line = some s.ctx.info.asid) ∨ (tryPin s va = .pin line ∧ wayOpen s line = true) ∨
    ∃ st, tryPin s va = .stop st ∧ PinStops s line st := by
  unfold tryPin
  simp only [h]
  cases owner : pinOwner s line with
  | some o =>
    by_cases mine : o = s.ctx.info.asid
    · exact .inl ⟨if_pos mine, congrArg some mine⟩
    · exact .inr (.inr ⟨3, if_neg mine, .inl ⟨rfl, by rw [owner]; nofun, by rw [owner]; exact fun e => mine (Option.some.inj e)⟩⟩)
  | none =>
    dsimp only
    split
    · next quota => exact .inr (.inr ⟨2, rfl, .inr ⟨owner, by rw [if_pos quota]⟩⟩)
    · next quota =>
      split
      · next full =>
        refine .inr (.inr ⟨1, rfl, .inr ⟨owner, ?_⟩⟩)
        rw [if_neg quota]
        exact ⟨rfl, by simpa using full⟩
      · next room =>
        have opens : wayOpen s line = true := by
          simp only [Bool.or_eq_true, not_or, Bool.not_eq_true, Bool.not_eq_false'] at room
          exact room.2
        exact .inr (.inl ⟨rfl, opens⟩)

/-- PIN takes its lines in order: those counted are pinned, no other line changes, and the line after them says why it stopped. -/
theorem pinLines_pins (n : Nat) : ∀ (i : Nat) (s : State), (∀ k, Distinct (sliceLines s k)) → Lines ea l i n s → let p := pinLines ea n i s
    CachesOnly s p.1 ∧ (∀ j, i ≤ j → j < p.2.1 → pinOwner p.1 (l j) = some s.ctx.info.asid) ∧
    (∀ x, (∀ j, i ≤ j → j < p.2.1 → x ≠ l j) → pinOwner p.1 x = pinOwner s x) ∧
    ((p.2.1 = i + n ∧ p.2.2 = 0) ∨ (p.2.1 < i + n ∧ PinStops p.1 (l p.2.1) p.2.2)) := by
  induction n with
  | zero => exact fun i s _ _ => ⟨.refl s, fun j low high => absurd high (Nat.not_lt.mpr low), fun _ _ => rfl, .inl ⟨rfl, rfl⟩⟩
  | succ n ih =>
    intro i s distinct lines
    obtain ⟨translated, here⟩ := lines i le_rfl (by omega)
    have goes {u : State} (only : CachesOnly s u) (distinct' : ∀ k, Distinct (sliceLines u k))
        (pin : ∀ x, pinOwner u x = if x = l i then some s.ctx.info.asid else pinOwner s x) : let p := pinLines ea n (i + 1) u
        CachesOnly s p.1 ∧ (∀ j, i ≤ j → j < p.2.1 → pinOwner p.1 (l j) = some s.ctx.info.asid) ∧
        (∀ x, (∀ j, i ≤ j → j < p.2.1 → x ≠ l j) → pinOwner p.1 x = pinOwner s x) ∧
        ((p.2.1 = i + (n + 1) ∧ p.2.2 = 0) ∨ (p.2.1 < i + (n + 1) ∧ PinStops p.1 (l p.2.1) p.2.2)) := by
      intro p
      have first : i < p.2.1 := (pinLines_keeps ea n (i + 1) u).2.1
      obtain ⟨caches, pinned, others, ends⟩ := ih (i + 1) u distinct' (lines.tail.of_caches only)
      rw [only.ctx] at pinned
      refine ⟨only.trans caches, fun j low high => ?_, fun x away => ?_, ?_⟩
      · rcases Nat.eq_or_lt_of_le low with rfl | later
        · by_cases again : ∃ j, i + 1 ≤ j ∧ j < p.2.1 ∧ l i = l j
          · obtain ⟨j, low', high', same⟩ := again
            rw [same]
            exact pinned j low' high'
          · rw [others (l i) fun j low' high' e => again ⟨j, low', high', e⟩, pin, if_pos rfl]
        · exact pinned j later high
      · rw [others x fun j low high => away j (by omega) high, pin, if_neg (away i le_rfl first)]
      · rwa [show i + (n + 1) = i + 1 + n by omega]
    have look := tryPin_of_line here
    unfold pinLines
    dsimp only
    rw [reachHere_of_held translated]
    rcases look with ⟨found, mine⟩ | ⟨found, opens⟩ | ⟨st, found, why⟩
    · rw [found]
      refine goes (.refl s) distinct fun x => ?_
      split
      · next e => rw [e, mine]
      · rfl
    · rw [found]
      exact goes setPin_caches (setPin_distinct distinct _ _) (pinOwner_setPin_some distinct opens _)
    · rw [found]
      exact ⟨.refl s, fun j low high => absurd high (Nat.not_lt.mpr low), fun _ _ => rfl, .inr ⟨by dsimp only; omega, why⟩⟩

/-! ## UNPIN (R265) -/

/-- UNPIN at one line of a range. -/
def unpinLine (ea i : Nat) (s : State) : State :=
  let s := reachHere s (lineAddr ea i)
  match plainLine s (lineAddr ea i) with
  | some line => if pinOwner s line = some s.ctx.info.asid then setPin s line none else s
  | none => s

theorem unpinLines_eq (ea n : Nat) (s : State) : unpinLines ea n s = (List.range n).foldl (fun s i => unpinLine ea i s) s := rfl

theorem unpinLines_reads (ea n : Nat) (s : State) : ReadsOnly s (unpinLines ea n s) := by
  rw [unpinLines_eq]
  refine foldl_inv (fun u i k => ?_) (.refl s)
  have reached : ReadsOnly s (reachHere u (lineAddr ea i)) := reach_reads k
  unfold unpinLine
  dsimp only
  split
  · exact holds_ite (setPin_reads reached) reached
  · exact reached

/-- At a line of DRAM UNPIN takes the pin of its own space, and no other. -/
theorem unpinLine_unpins {j : Nat} (translated : (held s s.ctx.info.asid (lineAddr ea j)).isSome = true)
    (here : plainLine s (lineAddr ea j) = some (l j)) :
    CachesOnly s (unpinLine ea j s) ∧
    ∀ x, pinOwner (unpinLine ea j s) x = if x = l j ∧ pinOwner s x = some s.ctx.info.asid then none else pinOwner s x := by
  unfold unpinLine
  dsimp only
  rw [reachHere_of_held translated, here]
  dsimp only
  split
  · next mine =>
    refine ⟨setPin_caches, fun x => ?_⟩
    rw [pinOwner_setPin_none]
    by_cases e : x = l j
    · simp [e, mine]
    · simp [e]
  · next other =>
    refine ⟨.refl s, fun x => ?_⟩
    rw [if_neg]
    rintro ⟨rfl, mine⟩
    exact other mine

/-- UNPIN takes its own space's pins from the lines of its range, and leaves the others. -/
theorem unpinLines_unpins (n : Nat) (lines : Lines ea l 0 n s) :
    CachesOnly s (unpinLines ea n s) ∧ (∀ j, j < n → pinOwner (unpinLines ea n s) (l j) ≠ some s.ctx.info.asid) ∧
    ∀ x, (∀ j, j < n → x ≠ l j) ∨ pinOwner s x ≠ some s.ctx.info.asid → pinOwner (unpinLines ea n s) x = pinOwner s x := by
  induction n with
  | zero => exact ⟨.refl s, fun j hj => absurd hj (Nat.not_lt_zero j), fun _ _ => rfl⟩
  | succ n ih =>
    obtain ⟨caches, gone, others⟩ := ih fun j low high => lines j low (by omega)
    obtain ⟨translated, here⟩ := (lines.of_caches caches) n (Nat.zero_le n) (by omega)
    obtain ⟨caches', pins⟩ := unpinLine_unpins translated here
    have last : unpinLines ea (n + 1) s = unpinLine ea n (unpinLines ea n s) := by
      rw [unpinLines_eq, List.range_succ, List.foldl_append]; rfl
    rw [caches.ctx] at pins
    rw [last]
    refine ⟨caches.trans caches', fun j hj => ?_, fun x away => ?_⟩
    · rw [pins]
      split
      · nofun
      · next kept =>
        rcases Nat.lt_succ_iff_lt_or_eq.mp hj with before | rfl
        · exact gone j before
        · exact fun mine => kept ⟨rfl, mine⟩
    · have before : pinOwner (unpinLines ea n s) x = pinOwner s x := others x (away.imp_left fun h j hj => h j (by omega))
      rw [pins, before, if_neg]
      rintro ⟨e, mine⟩
      exact away.elim (fun h => h n (Nat.lt_succ_self n) e) fun h => h mine

end Sys2Proof.Machine
end

section
/-! SUPPORT. STOUCH (R265): what filling lines into a stash leaves alone, and what one line leaves in it (R220, R226). -/

namespace Sys2Proof.Machine

variable {r s t : State}

/-! ## What STOUCH leaves alone -/

/-- t is s but for what holds copies of memory, and the number of free values drawn. -/
def TouchesOnly (s t : State) : Prop :=
  t = { s with draws := t.draws, dram := t.dram, tlb := t.tlb, walks := t.walks, spaces := t.spaces, slices := t.slices, cores := t.cores
               gussets := t.gussets }

theorem TouchesOnly.trans (h : TouchesOnly r s) (k : TouchesOnly s t) : TouchesOnly r t := by
  unfold TouchesOnly at h k
  rw [k, h]; rfl

theorem ReadsOnly.touches (h : ReadsOnly s t) : TouchesOnly s t := by
  unfold ReadsOnly at h
  rw [h]; rfl

/-- STOUCH at one line of a range. -/
def touchLine (ea : Nat) (excl : Bool) (i : Nat) (s : State) : State :=
  let s := reachHere s (lineAddr ea i)
  match plainLine s (lineAddr ea i) with
  | some line =>
    if Config.coin s.draws then
      let s := touchStash (touchSlice s.drawn line 15 false) s.self line 15 false
      if excl then
        let s := recallLine s line (some (holderOf s.self))
        setMapped s s.self ((mappedOf s s.self).map (fun x => if x.line = line then { x with owned := true } else x))
      else s
    else s.drawn
  | none => s

theorem touchLines_eq (ea n : Nat) (excl : Bool) (s : State) : touchLines ea n excl s = (List.range n).foldl (fun s i => touchLine ea excl i s) s := rfl

theorem touchLine_touches (ea : Nat) (excl : Bool) (i : Nat) (s : State) : TouchesOnly s (touchLine ea excl i s) := by
  have reached : ReadsOnly s (reachHere s (lineAddr ea i)) := reach_reads (.refl s)
  have drawn : TouchesOnly s (reachHere s (lineAddr ea i)).drawn := reached.touches.trans rfl
  unfold touchLine
  dsimp only
  split
  · next line _ =>
    split
    · have filled : ReadsOnly (reachHere s (lineAddr ea i)).drawn
          (touchStash (touchSlice (reachHere s (lineAddr ea i)).drawn line 15 false) (reachHere s (lineAddr ea i)).drawn.self line 15 false) :=
        touchStash_reads (touchSlice_reads (.refl _))
      refine drawn.trans (ReadsOnly.touches ?_)
      split
      · exact setMapped_reads (recallLine_reads (touchStash_reads (touchSlice_reads (.refl _))))
      · exact touchStash_reads (touchSlice_reads (.refl _))
    · exact drawn
  · exact reached.touches

theorem touchLines_touches (ea n : Nat) (excl : Bool) (s : State) : TouchesOnly s (touchLines ea n excl s) := by
  rw [touchLines_eq]
  exact foldl_inv (fun u i k => k.trans (touchLine_touches ea excl i u)) rfl

/-! ## Mapped parts -/

/-- What each mapped part makes of its lines shows in each core's stash. -/
theorem stash_mapMapped (s : State) {f : Nat → List StashLine → List StashLine} {n : Nat} (empty : f n [] = []) :
    ((mapMapped s f).coreState n).stash = f n (s.coreState n).stash := by
  unfold State.coreState mapMapped
  rw [List.find?_map]
  cases found : s.cores.find? ((fun k => k.core == n) ∘ fun k => { k with stash := f k.core k.stash }) with
  | none =>
    have absent : s.cores.find? (fun k => k.core == n) = none := found
    simp only [absent, Option.map_none, Option.getD_none, empty]
  | some k =>
    have here : s.cores.find? (fun k => k.core == n) = some k := found
    have named : k.core = n := by simpa using List.find?_some here
    simp only [here, Option.map_some, Option.getD_some, named]

theorem stash_setMapped (s : State) {n : Nat} (core : n < 128) (l : List StashLine) : ((setMapped s n l).coreState n).stash = l := by
  rw [setMapped, if_pos core, coreState_setCore_self (by exact core_coreState s n)]

theorem holderOf_core {n : Nat} (core : n < 128) : holderOf n = n := by
  rw [holderOf, if_neg (by simp [isGusset]; omega)]

/-- No mapped part but one holds dirty sectors of a line. -/
def CleanBut (s : State) (line : Nat) (but : Option Nat) : Prop :=
  (∀ k ∈ s.cores, but ≠ some k.core → ∀ x ∈ k.stash, x.line = line → x.dirty = 0) ∧
  ∀ g ∈ s.gussets, but ≠ some (128 + 4 * g.gid) → ∀ x ∈ g.mapped, x.line = line → x.dirty = 0

theorem foldl_or_eq_zero {α : Type} {p : α → Prop} [DecidablePred p] {f : BitVec 4 → α → BitVec 4} {q : α → Prop}
    (skips : ∀ m a, ¬ p a → f m a = m) (adds : ∀ m a, p a → (f m a = 0 ↔ m = 0 ∧ q a)) (l : List α) (m : BitVec 4) :
    l.foldl f m = 0 ↔ m = 0 ∧ ∀ a ∈ l, p a → q a := by
  induction l generalizing m with
  | nil => simp
  | cons a l ih =>
    rw [List.foldl_cons, ih, List.forall_mem_cons]
    by_cases h : p a
    · rw [adds m a h, and_assoc]
      simp [h]
    · rw [skips m a h]
      simp [h]

theorem or_eq_zero_iff (m d : BitVec 4) : m ||| d = 0 ↔ m = 0 ∧ d = 0 := by
  revert m d; decide

/-- The dirty sectors of one list of lines. -/
theorem foldl_dirty_eq_zero (line : Nat) (l : List StashLine) (m : BitVec 4) :
    l.foldl (fun m x => if x.line = line then m ||| x.dirty else m) m = 0 ↔ m = 0 ∧ ∀ x ∈ l, x.line = line → x.dirty = 0 :=
  foldl_or_eq_zero (fun _ _ h => if_neg h) (fun m x h => by rw [if_pos h, or_eq_zero_iff]) l m

theorem stashDirtyBut_eq_zero (s : State) (line : Nat) (but : Option Nat) : stashDirtyBut s line but = 0 ↔ CleanBut s line but := by
  unfold stashDirtyBut CleanBut
  dsimp only
  rw [foldl_or_eq_zero (p := fun g : GussetState => but ≠ some (128 + 4 * g.gid))
      (q := fun g => ∀ x ∈ g.mapped, x.line = line → x.dirty = 0) (fun m g h => if_pos (not_not.mp h))
      (fun m g h => by rw [if_neg h, foldl_dirty_eq_zero]),
    foldl_or_eq_zero (p := fun k : CoreState => but ≠ some k.core)
      (q := fun k => ∀ x ∈ k.stash, x.line = line → x.dirty = 0) (fun m k h => if_pos (not_not.mp h))
      (fun m k h => by rw [if_neg h, foldl_dirty_eq_zero])]
  simp

theorem CleanBut.weaken {line : Nat} (h : CleanBut s line none) (but : Option Nat) : CleanBut s line but :=
  ⟨fun k hk _ => h.1 k hk nofun, fun g hg _ => h.2 g hg nofun⟩

/-- Each mapped part of t holds some of the lines that it holds in s. -/
def Recalled (s t : State) : Prop := ∃ p : StashLine → Bool,
  t.cores = s.cores.map (fun k => { k with stash := k.stash.filter p }) ∧ t.gussets = s.gussets.map (fun g => { g with mapped := g.mapped.filter p })

theorem Recalled.refl (s : State) : Recalled s s := ⟨fun _ => true, by simp, by simp⟩

theorem Recalled.clean {line : Nat} {but : Option Nat} (h : Recalled s t) (clean : CleanBut s line but) : CleanBut t line but := by
  obtain ⟨p, cores, gussets⟩ := h
  unfold CleanBut
  rw [cores, gussets, List.forall_mem_map, List.forall_mem_map]
  exact ⟨fun k hk other x hx => clean.1 k hk other x (List.mem_of_mem_filter hx),
    fun g hg other x hx => clean.2 g hg other x (List.mem_of_mem_filter hx)⟩

theorem Recalled.stash_length (h : Recalled s t) (n : Nat) : (t.coreState n).stash.length ≤ (s.coreState n).stash.length := by
  obtain ⟨p, cores, -⟩ := h
  have same : (t.coreState n).stash = ((mapMapped s (fun _ l => l.filter p)).coreState n).stash := by
    rw [coreState_of_cores (s := mapMapped s (fun _ l => l.filter p)) cores]
  rw [same, stash_mapMapped s (by exact List.filter_nil)]
  exact List.length_filter_le _ _

/-- Making room for a line recalls at most the line that leaves. -/
theorem wayFor_recalled {n line w : Nat} (taken : wayFor s n line = some (t, w)) : Recalled s t := by
  rcases wayFor_cases taken with rfl | ⟨v, -, -, rfl⟩
  · exact .refl t
  · exact ⟨fun x => x.line != v.line, by simp [evictLine, recallLine, mapMapped, writeBack, State.setSlice],
      by simp [evictLine, recallLine, mapMapped, writeBack, State.setSlice]⟩

theorem touchSlice_recalled (s : State) (line : Nat) (mask : BitVec 4) (dirty : Bool) : Recalled s (touchSlice s line mask dirty) := by
  unfold touchSlice
  dsimp only
  split
  · exact .refl s
  · split
    · exact holds_ite (p := Recalled s) (.refl s) (.refl s)
    · next taken =>
      have evicted := wayFor_recalled taken
      exact evicted

/-- What stands in a list after an insertion stood in it before, or is new. -/
theorem mem_of_mem_upsert {α : Type} {key : α → Nat} {x y : α} {l : List α} (h : y ∈ upsert key x l) : y = x ∨ y ∈ l := by
  induction l with
  | nil => exact .inl (List.mem_singleton.mp h)
  | cons z zs ih =>
    unfold upsert at h
    split at h
    · exact List.mem_cons.mp h
    · split at h
      · exact (List.mem_cons.mp h).imp_right (List.mem_cons_of_mem z)
      · rcases List.mem_cons.mp h with rfl | rest
        · exact .inr List.mem_cons_self
        · exact (ih rest).imp_right (List.mem_cons_of_mem z)

/-! ## One line -/

/-- A line's entry after a fill of all its sectors. -/
def filledEntry (l : List StashLine) (line : Nat) : StashLine :=
  let o := (l.find? (fun x => x.line == line)).getD ⟨line, 0, 0, false⟩
  ⟨line, o.valid ||| 15, o.dirty ||| 0, o.owned || false⟩

/-- A stash with room after that fill: the line is the one used last. -/
def filledStash (l : List StashLine) (line : Nat) : List StashLine := l.filter (fun x => x.line != line) ++ [filledEntry l line]

theorem filledEntry_valid (l : List StashLine) (line : Nat) : (filledEntry l line).valid = 15 :=
  (show ∀ v : BitVec 4, v ||| 15 = 15 by decide) _

section

variable {n line : Nat} (core : n < 128)
include core

/-- A core's stash with room takes a line that its home slice holds, and no other mapped part writes it back (R220, R225, R226). -/
theorem touchStash_fills (holds : sliceHolds s line = true) (room : (s.coreState n).stash.length < 8) (clean : CleanBut s line (some n)) :
    touchStash s n line 15 false = shareLine (setMapped s n (filledStash (s.coreState n).stash line)) line (some n) := by
  have mapped : mappedOf s n = (s.coreState n).stash := if_pos core
  have fits : mappedVictim s n line ((s.coreState n).stash.filter (fun x => x.line != line)) = none := by
    have few : ((s.coreState n).stash.filter (fun x => x.line != line)).length < 8 := lt_of_le_of_lt (List.length_filter_le _ _) room
    rw [mappedVictim, if_pos core]
    exact if_pos (lt_of_le_of_lt (List.length_filter_le _ _) few)
  have nothing : stashDirtyBut (setMapped s n (filledStash (s.coreState n).stash line)) line (some n) = 0 := by
    rw [stashDirtyBut_eq_zero, setMapped, if_pos core]
    refine ⟨fun k hk other => ?_, clean.2⟩
    rcases mem_of_mem_upsert hk with rfl | old
    · exact absurd (congrArg some (core_coreState s n).symm) other
    · exact clean.1 k old other
  unfold touchStash
  rw [if_neg (by omega), holds, holderOf_core core, mapped]
  simp only [Bool.not_true, Bool.false_eq_true, if_false, fits]
  exact (congrArg (mergeDirty _ line) nothing).trans (if_pos rfl)

omit core in
theorem stash_shareLine (s : State) (line : Nat) : ((shareLine s line (some n)).coreState n).stash = (s.coreState n).stash := by
  refine (stash_mapMapped s ?_).trans (if_pos rfl)
  exact if_pos rfl

omit core in
theorem stash_recallLine (s : State) (line : Nat) : ((recallLine s line (some n)).coreState n).stash = (s.coreState n).stash := by
  refine (stash_mapMapped s ?_).trans (if_pos rfl)
  exact if_pos rfl

end

/-- One touched line stands in the stash, owned where it is to be, or is dropped (R265). -/
theorem touchLines_one {ea line : Nat} (excl : Bool) (core : s.self < 128) (translated : (held s s.ctx.info.asid (lineAddr ea 0)).isSome = true)
    (here : plainLine s (lineAddr ea 0) = some line) (opens : wayOpen s line = true) (clean : stashDirty s line = 0)
    (room : (s.coreState s.self).stash.length < 8) :
    if Config.coin s.draws = true then
      ∃ x ∈ ((touchLines ea 1 excl s).coreState s.self).stash, x.line = line ∧ x.valid = 15 ∧ (excl = true → x.owned = true)
    else touchLines ea 1 excl s = s.drawn := by
  have recalled : Recalled s (touchSlice s.drawn line 15 false) := touchSlice_recalled s.drawn line 15 false
  have filled := touchStash_fills core (sliceHolds_touchSlice ((wayOpen_of_slices (s := s) (t := s.drawn) rfl line).trans opens) 15 false)
    (lt_of_le_of_lt (recalled.stash_length s.self) room) (recalled.clean (((stashDirtyBut_eq_zero s line none).mp clean).weaken (some s.self)))
  have reads : ReadsOnly s.drawn (touchStash (touchSlice s.drawn line 15 false) s.self line 15 false) :=
    touchStash_reads (touchSlice_reads (.refl _))
  have one : touchLines ea 1 excl s = touchLine ea excl 0 s := rfl
  rw [one, touchLine]
  dsimp only
  rw [reachHere_of_held translated, here]
  dsimp only
  generalize touchStash (touchSlice s.drawn line 15 false) s.self line 15 false = w at filled reads
  have self : w.self = s.self := by rw [reads]; rfl
  have stash : (w.coreState s.self).stash = filledStash ((touchSlice s.drawn line 15 false).coreState s.self).stash line := by
    rw [filled, stash_shareLine, stash_setMapped _ core]
  generalize ((touchSlice s.drawn line 15 false).coreState s.self).stash = l at stash
  have stands : filledEntry l line ∈ (w.coreState s.self).stash := by rw [stash]; exact List.mem_append_right _ (List.mem_singleton_self _)
  split
  · cases excl with
    | false => exact ⟨_, stands, rfl, filledEntry_valid l line, nofun⟩
    | true =>
      have self' : (recallLine w line (some (holderOf w.self))).self = s.self := self
      refine ⟨{ filledEntry l line with owned := true }, ?_, rfl, filledEntry_valid l line, fun _ => rfl⟩
      rw [if_pos rfl, self', stash_setMapped _ core, mappedOf, if_pos core, self, holderOf_core core, stash_recallLine]
      exact List.mem_map.mpr ⟨_, stands, if_pos rfl⟩
  · rfl

/-! ## PIN, UNPIN and STOUCH at issue -/

section

variable {d a b : Fin 32} (ready : ControlReady s [a, b] [])
include ready

theorem pin_completes : let p := pinLines (s.ctx.getG a).toNat (lineCount (s.ctx.getG b)) 0 s
    Completes (.pin d a b) .control s
      ((writePincnt (askLines (s.ctx.getG a).toNat (min (p.2.1 + 1) (lineCount (s.ctx.getG b))) p.1) s.ctx.info.asid).mod
        (fun c => (c.setG d (BitVec.ofNat 64 (p.2.1 * 2 ^ 32 + p.2.2))).markEffect)) :=
  issueC_completes (exec_pin d a b s) ready

theorem unpin_completes : Completes (.unpin a b) .control s
    ((writePincnt (askLines (s.ctx.getG a).toNat (lineCount (s.ctx.getG b)) (unpinLines (s.ctx.getG a).toNat (lineCount (s.ctx.getG b)) s))
      s.ctx.info.asid).mod Context.markEffect) :=
  issueC_completes (exec_unpin a b s) ready

theorem stouch_completes (e : Bool) : Completes (.stouch a b e) .control s
    (if s.self < 128 then touchLines (s.ctx.getG a).toNat (lineCount (s.ctx.getG b)) e s else s) :=
  issueC_completes (exec_stouch a b e s) ready

end

/-! ## What PIN and UNPIN leave alone (R217, R265) -/

/-- PINCNT's address, and what a PIN or UNPIN of s leaves: the registers in any case, and where level 0 raises no event everything but LATE and
PINCNT. -/
def PinFrame (s u : State) : Prop :=
  let count := s.hk.asdbase + 32 * s.ctx.info.asid.toNat + 12
  u.ctx.g = s.ctx.g ∧ u.ctx.b = s.ctx.b ∧ u.ctx.c = s.ctx.c ∧ u.ctx.k = s.ctx.k ∧ u.ctx.v = s.ctx.v ∧ u.ctx.m = s.ctx.m ∧
  (countsHere s = true → slackEntry s.ctx 0 = 4095 ∨ bitOf (s.ctx.slacktab[2]).toNat 0 = false →
    u.ctx = { s.ctx with late := u.ctx.late } ∧ (slackEntry s.ctx 0 = 4095 → u.ctx.late = s.ctx.late) ∧
    u.others = s.others ∧ u.hk = s.hk ∧ u.streams = s.streams ∧ u.slots = s.slots ∧
    ∀ x, x < count ∨ count + 4 ≤ x → readByte u.mem x = readByte s.mem x)

/-- The lines of a PIN or UNPIN have been read, its requests counted, and PINCNT written. -/
theorem pinFrame (wf : s.mem.wf = true) (reads : ReadsOnly s t) (ea n : Nat) :
    PinFrame s (writePincnt (askLines ea n t) s.ctx.info.asid) := by
  have engines : EnginesOnly t (askLines ea n t) := requestLates_engines (.refl t)
  have counted {pa bs} : EnginesOnly t (storeBytes (askLines ea n t) pa bs) := engines.stores (storeBytes_stores (.refl _))
  have kept {α : Type} (f : Context → α) (hf : ∀ c : Context, f c.aside = f c) : f (writePincnt (askLines ea n t) s.ctx.info.asid).ctx = f s.ctx :=
    (counted.same f hf).trans (congrArg f reads.ctx)
  refine ⟨kept Context.g fun _ => rfl, kept Context.b fun _ => rfl, kept Context.c fun _ => rfl, kept Context.k fun _ => rfl,
    kept Context.v fun _ => rfl, kept Context.m fun _ => rfl, fun here quiet => ?_⟩
  have here' : countsHere t = true := by rw [reads]; exact here
  obtain ⟨d, c, asked, late, unhurried, -⟩ := requestLates_register here' (by rwa [reads.ctx])
    ((List.range n).countP (fun i => (plainLine t (lineAddr ea i)).isSome)) (lineAddr ea 0)
  rw [reads.ctx] at late unhurried
  have step : askLines ea n t = { t with ctx := c, draws := d } := asked
  have stores {pa bs} : ReadsOnly { t with ctx := c, draws := d, mem := writeBytes t.mem pa bs, poison := clearPoison t pa bs.length }
      (storeBytes { t with ctx := c, draws := d } pa bs) := touchHomes_reads (.refl _)
  rw [writePincnt, step]
  refine ⟨?_, ?_, ?_, ?_, ?_, ?_, fun x away => ?_⟩
  · rw [stores.ctx]; exact late
  · rw [stores.ctx]; exact unhurried
  · rw [stores, reads]
  · rw [stores, reads]
  · rw [stores, reads]
  · rw [stores, reads]
  · have same : t.mem = s.mem := reads.mem
    rw [storeBytes_mem]
    dsimp only
    rw [same, readByte_writeBytes_out _ wf]
    rwa [leBytes_length, reads]

/-! ## The lines of a held range (R266, R287) -/

section

variable {ea k m : Nat} {l : Nat → Nat} (caches : CachesOnly s t)
include caches

/-- The requests of such a range change LATE alone, each line asking once. -/
theorem askLines_register (lines : Lines ea l 0 m s) (inside : k ≤ m) (here : countsHere s = true)
    (quiet : slackEntry s.ctx 0 = 4095 ∨ bitOf (s.ctx.slacktab[2]).toNat 0 = false) :
    ∃ d c, askLines ea k t = { t with ctx := c, draws := d } ∧ LateOnly s k c := by
  have here' : countsHere t = true := by rw [caches]; exact here
  obtain ⟨d, c, asked, late⟩ := requestLates_register here' (by rwa [caches.ctx]) k (lineAddr ea 0)
  refine ⟨d, c, ?_, ?_⟩
  · rw [askLines, countP_lines (lines.of_caches caches) inside, asked]
  · rwa [LateOnly, caches.ctx] at late

/-- What stopped PIN still shows once its requests are counted. -/
theorem PinStops.asked {line status : Nat} (stops : PinStops t line status) (d : Nat) (c : Context) :
    let u : State := { t with ctx := c, draws := d }
    (status = 3 ∧ pinOwner u line ≠ none ∧ pinOwner u line ≠ some s.ctx.info.asid) ∨
    (pinOwner u line = none ∧ if (descOf s s.ctx.info.asid).pinq ≤ pinCount u s.ctx.info.asid then status = 2
      else status = 1 ∧ (pinLimit u line ≤ pinnedWays u line ∨ wayOpen u line = false)) := by
  intro u
  rw [wayOpen_of_slices (s := t) (t := u) rfl]
  rwa [PinStops, caches.ctx, caches.descOf] at stops

end

/-- Slices that hold each line once. -/
theorem distinct_of_slices (once : ∀ k ∈ s.slices, (k.lines.map SliceLine.line).Nodup) (n : Nat) : Distinct (sliceLines s n) := by
  unfold sliceLines State.sliceState
  cases found : s.slices.find? (fun k => k.slice == n) with
  | none => exact List.nodup_nil
  | some k => exact once k (List.mem_of_find?_eq_some found)

/-- Settles O39: what each of the three leaves alone, then the lines that it takes. -/
theorem pinsComplete : Obligations.PinsComplete := by
  constructor
  · intro s d a b e ready wf lines count frame
    obtain ⟨reads, -, high, bound, all⟩ := pinLines_keeps (s.ctx.getG a).toNat lines 0 s
    rw [Nat.zero_add] at high all
    have touches : TouchesOnly s (if s.self < 128 then touchLines (s.ctx.getG a).toNat (lineCount (s.ctx.getG b)) e s else s) :=
      holds_ite (p := TouchesOnly s) (touchLines_touches _ _ e s) rfl
    refine ⟨⟨_, _, _, pin_completes ready, pinFrame wf reads _ _, high, bound, all⟩,
      ⟨_, unpin_completes ready, pinFrame wf (unpinLines_reads _ _ s) _ _⟩, _, stouch_completes ready e,
      by rw [touches], by rw [touches], by rw [touches], by rw [touches], by rw [touches], by rw [touches],
      fun gusset => if_neg (Nat.not_lt.mpr gusset)⟩
  · intro s d a b e l ready asid lines va once translated late
    have range : Lines (s.ctx.getG a).toNat l 0 (lineCount (s.ctx.getG b)) s := fun j _ high => translated j (high.trans_eq (Nat.zero_add _))
    refine ⟨fun here quiet => ?_, fun here quiet => ?_, fun one core opens clean room => ?_⟩
    · obtain ⟨caches, pinned, others, ends⟩ := pinLines_pins _ 0 s (distinct_of_slices once) range
      rw [Nat.zero_add] at ends
      have completes := pin_completes (d := d) ready
      obtain ⟨_, c, asked, counted⟩ := askLines_register caches range
        (min_le_right ((pinLines (s.ctx.getG a).toNat (lineCount (s.ctx.getG b)) 0 s).2.1 + 1) _) here quiet
      dsimp only at completes
      rw [asked] at completes
      refine ⟨_, _, _, ?_, ?_, completes, fun i below => pinned i (Nat.zero_le i) below,
        fun x away => others x fun j _ below => away j below,
        ends.imp_right fun ⟨stopped, stops⟩ => ⟨stopped, stops.asked caches _ c⟩⟩
      · exact caches.mem
      · exact counted
    · obtain ⟨caches, gone, others⟩ := unpinLines_unpins _ range
      obtain ⟨_, c, asked, counted⟩ := askLines_register caches range le_rfl here quiet
      have completes := unpin_completes ready
      rw [asked] at completes
      refine ⟨_, ?_, ?_, completes, gone, others⟩
      · exact caches.mem
      · exact counted
    · have completes := stouch_completes ready e
      obtain ⟨held, line⟩ := translated 0 (by omega)
      rw [if_pos core, show lineCount (s.ctx.getG b) = 1 from one] at completes
      exact ⟨_, completes, touchLines_one e core held line opens clean room⟩

end Sys2Proof.Machine
end

section
/-! SUPPORT. Accesses at issue: what `accessC` answers to a ready control slice, and what an access changes besides joining the others (R131, R249,
R250, R366, R388). -/

namespace Sys2Proof.Machine

/-! ## What issuing an access changes besides -/

/-- What issuing an access does to its context before the access joins the others: the first side effect is marked, what earlier accesses owe its
destination is superseded, and its entries of lq are reserved (R108, R131, R366). -/
def issueEffect (lqs : Nat) (a : Access) (c : Context) : Context :=
  reserveLq false lqs ((if a.kind.writes || a.kind.isCache then c.markEffect else c).supersedeBy a)

/-- Entries are reserved under consecutive identifiers. -/
theorem reserveRows_eq_map (k : Nat) (tagged : Bool) (n : Nat) :
    reserveRows k tagged n = (List.range n).map (fun i => ⟨k + i, 0, false, tagged⟩) := by
  induction n with
  | zero => rfl
  | succ n ih => rw [reserveRows, ih, List.range_succ, List.map_append]; rfl

theorem reserveLq_eq_withRows (n : Nat) : reserveLq false n = Context.withRows n := by
  funext c; rw [reserveLq, reserveRows_eq_map]; rfl

@[simp] theorem reserveLq_none (tagged : Bool) (c : Context) : reserveLq tagged 0 c = c := by simp [reserveLq, reserveRows]

/-- An access that brings no g register a value supersedes nothing. -/
theorem supersedeBy_of_not_writesG {a : Access} (h : a.kind.writesG = false) (c : Context) : c.supersedeBy a = c := by
  simp [Context.supersedeBy, h]

/-- A read of memory that fills a register. -/
theorem issueEffect_read {a : Access} (h : (a.kind.writes || a.kind.isCache) = false) : issueEffect 0 a = Context.supersedeBy a := by
  funext c; simp only [issueEffect, h, Bool.false_eq_true, if_false, reserveLq_none]

/-- A write of memory, and a cache instruction. -/
theorem issueEffect_write {a : Access} (h : (a.kind.writes || a.kind.isCache) = true) :
    issueEffect 0 a = fun c => c.markEffect.supersedeBy a := by
  funext c; simp only [issueEffect, h, if_true, reserveLq_none]

/-- One that brings no register a value. -/
theorem issueEffect_store {a : Access} (h : (a.kind.writes || a.kind.isCache) = true) (g : a.kind.writesG = false) :
    issueEffect 0 a = Context.markEffect := by
  rw [issueEffect_write h]; funext c; exact supersedeBy_of_not_writesG g _

/-- A read of memory that fills lq. -/
theorem issueEffect_rows {a : Access} (n : Nat) (h : (a.kind.writes || a.kind.isCache) = false) (g : a.kind.writesG = false) :
    issueEffect n a = Context.withRows n := by
  funext c; simp only [issueEffect, h, Bool.false_eq_true, if_false, supersedeBy_of_not_writesG g, reserveLq_eq_withRows]

/-! ## What `accessC` answers -/

section

variable {s : State} {i : Instr} {gs : List (Fin 32)} {len lqs : Nat} {a : Access} {e : Context → Context}

/-- An aligned access that is ready issues (R131, R250). -/
theorem accessC_issues (effect : issueEffect lqs a = e) (he : ControlReady s gs [] → exec i s = accessC s gs len lqs false a)
    (ready : AccessReady s gs lqs a) : Issues i s (s.mod e) a := by
  subst effect
  obtain ⟨control, shape, few, room, free⟩ := ready
  exact ⟨_, (he control).trans (accessC_ready control len lqs false a rfl shape few room free), issueAccess_sent _ _ _ _ _⟩

/-- An aligned access that a page held at issue breaks traps with SHAPE (R249, R388). -/
theorem accessC_shape (h : ControlReady s gs []) (bad : shapeAtIssue s a = true) :
    accessC s gs len lqs false a = .next (trapSync s .control .shape) := by
  simp [accessC, h.stalled, bad]

/-- An access whose address is to be a multiple of n issues when it is and traps with ALIGN when it is not. -/
theorem accessC_issues_or_aligns {n : Nat} (effect : issueEffect lqs a = e)
    (he : exec i s = accessC s gs len lqs (a.ea.toNat % n != 0) a) :
    (AccessReady s gs lqs a → a.ea.toNat % n = 0 → Issues i s (s.mod e) a) ∧
    (ControlReady s gs [] → a.ea.toNat % n ≠ 0 → exec i s = .next (trapSync s .control .align)) := by
  refine ⟨fun ready aligned => ?_, fun control skewed => ?_⟩
  · rw [bne_eq_false_iff_eq.mpr aligned] at he
    exact accessC_issues effect (fun _ => he) ready
  · rw [he, bne_iff_ne.mpr skewed, accessC_align control]

/-- The same, with SHAPE where a page held at issue breaks it (R249, R388). -/
theorem accessC_goes {n : Nat} (effect : issueEffect lqs a = e)
    (he : ControlReady s gs [] → exec i s = accessC s gs len lqs (a.ea.toNat % n != 0) a) :
    if a.ea.toNat % n = 0 then
      (AccessReady s gs lqs a → Issues i s (s.mod e) a) ∧
      (shapeAtIssue s a = true → ControlReady s gs [] → exec i s = .next (trapSync s .control .shape))
    else ControlReady s gs [] → exec i s = .next (trapSync s .control .align) := by
  split
  · next aligned =>
    rw [bne_eq_false_iff_eq.mpr aligned] at he
    exact ⟨accessC_issues effect he, fun bad control => (he control).trans (accessC_shape control bad)⟩
  · next skewed =>
    rw [bne_iff_ne.mpr skewed] at he
    exact fun control => (he control).trans (accessC_align control ..)

end

/-- The scaled address of format CM as a number (R116, R252). -/
theorem effectiveAddr_eq_ofInt (c : Context) (b : Fin 32) (o : BitVec 8) (n : Nat) :
    effectiveAddr c b o n = BitVec.ofInt 64 ((c.getG b).toInt + o.toInt * n) := by
  rw [effectiveAddr, BitVec.ofInt_add, BitVec.ofInt_mul, BitVec.ofInt_toInt, BitVec.ofInt_natCast]
  rfl

/-! ## Scalar loads and stores (R249, R252) -/

section

variable {s : State} {i : Instr} {n : Nat} {sg : Bool} {d b : Fin 32} {c : Fin 16} {u : Fin 8} {o : BitVec 8}

theorem loadC_issues_or_aligns (he : exec i s = loadC n sg d b c u o s) :
    let ea : Word := BitVec.ofInt 64 ((s.ctx.getG b).toInt + o.toInt * n)
    let a := newAccess s (.load n sg) ea 0 0 ⟨0, 0, 0, 0⟩ d c u
    (AccessReady s [b] 0 a → ea.toNat % n = 0 → Issues i s (s.mod (Context.supersedeBy a)) a) ∧
    (ControlReady s [b] [] → ea.toNat % n ≠ 0 → exec i s = .next (trapSync s .control .align)) := by
  intro ea a
  rw [loadC, effectiveAddr_eq_ofInt] at he
  exact accessC_issues_or_aligns (a := a) (issueEffect_read rfl) he

theorem storeC_issues_or_aligns (he : exec i s = storeC n d b c u o s) :
    let ea : Word := BitVec.ofInt 64 ((s.ctx.getG b).toInt + o.toInt * n)
    let a := newAccess s (.store n) ea (s.ctx.getG d) 0 ⟨0, 0, 0, 0⟩ 0 c u
    (AccessReady s [d, b] 0 a → ea.toNat % n = 0 → Issues i s (s.mod Context.markEffect) a) ∧
    (ControlReady s [d, b] [] → ea.toNat % n ≠ 0 → exec i s = .next (trapSync s .control .align)) := by
  intro ea a
  rw [storeC, effectiveAddr_eq_ofInt] at he
  exact accessC_issues_or_aligns (a := a) (issueEffect_store rfl rfl) he

end

/-- Settles O33: each load is `loadC` and each store `storeC` of its own width. -/
theorem scalarAccesses : Obligations.ScalarAccesses := fun s d b c u o =>
  ⟨loadC_issues_or_aligns (exec_ldZ8 d b c u o s), loadC_issues_or_aligns (exec_ldZ16 d b c u o s),
    loadC_issues_or_aligns (exec_ldZ32 d b c u o s), loadC_issues_or_aligns (exec_ldZ64 d b c u o s),
    loadC_issues_or_aligns (exec_ldS8 d b c u o s), loadC_issues_or_aligns (exec_ldS16 d b c u o s),
    loadC_issues_or_aligns (exec_ldS32 d b c u o s), storeC_issues_or_aligns (exec_stZ8 d b c u o s),
    storeC_issues_or_aligns (exec_stZ16 d b c u o s), storeC_issues_or_aligns (exec_stZ32 d b c u o s),
    storeC_issues_or_aligns (exec_stZ64 d b c u o s)⟩

/-! ## Atomics, cache operations and ROI.RD (R260, R261, R265, R338) -/

section

variable {s : State} {i : Instr} {n : Nat} {d a b : Fin 32} {c : Fin 16}

/-- An atomic but the 64-bit FADD. -/
theorem amoC_issues_or_aligns {o : AmoOp} (allowed : (o == .fadd && n == 8) = false) (he : exec i s = amoC n d a b c o s) :
    let y := newAccess s (.amo n o) (s.ctx.getG a) (s.ctx.getG b) 0 ⟨0, 0, 0, 0⟩ d c 0
    (AccessReady s [a, b] 0 y → (s.ctx.getG a).toNat % n = 0 → Issues i s (s.mod (fun k => k.markEffect.supersedeBy y)) y) ∧
    (ControlReady s [a, b] [] → (s.ctx.getG a).toNat % n ≠ 0 → exec i s = .next (trapSync s .control .align)) :=
  accessC_issues_or_aligns (issueEffect_write rfl) (he.trans (orTrap_false _ _ _ _ allowed))

theorem amoC_illegal {o : AmoOp} (wide : (o == .fadd && n == 8) = true) (he : exec i s = amoC n d a b c o s) (h : ControlReady s [] []) :
    exec i s = .next (trapSync s .control .illegal) :=
  he.trans (h.illegal wide _)

theorem casC_issues_or_aligns (he : exec i s = casC n d a b c s) :
    let y := newAccess s (.cas n) (s.ctx.getG a) (s.ctx.getG b) (s.ctx.getG d) ⟨0, 0, 0, 0⟩ d c 0
    (AccessReady s [d, a, b] 0 y → (s.ctx.getG a).toNat % n = 0 → Issues i s (s.mod (fun k => k.markEffect.supersedeBy y)) y) ∧
    (ControlReady s [d, a, b] [] → (s.ctx.getG a).toNat % n ≠ 0 → exec i s = .next (trapSync s .control .align)) :=
  accessC_issues_or_aligns (issueEffect_write rfl) he

theorem cacheC_issues (he : exec i s = cacheC n a b c s) :
    let y := newAccess s (.cacheOp n) (s.ctx.getG a) (s.ctx.getG b) 0 ⟨0, 0, 0, 0⟩ 0 c 0
    AccessReady s [a, b] 0 y → Issues i s (s.mod Context.markEffect) y :=
  accessC_issues (issueEffect_store rfl rfl) fun _ => he

end

/-- Settles O35: each atomic is `amoC` or `casC` of its own width, each cache operation `cacheC` of its own code. -/
theorem atomicAndCacheAccesses : Obligations.AtomicAndCacheAccesses := by
  intro s d a b c sc ea x issues
  refine ⟨fun o => ⟨amoC_issues_or_aligns (Bool.and_false _) (exec_amoZ32 d a b c sc o s), fun other =>
      amoC_issues_or_aligns (by simp [other]) (exec_amoZ64 d a b c sc o s)⟩,
    amoC_illegal rfl (exec_amoZ64 d a b c sc .fadd s),
    casC_issues_or_aligns (exec_casZ32 d a b c sc s), casC_issues_or_aligns (exec_casZ64 d a b c sc s), ?_, ?_⟩
  · intro y p hp
    simp only [List.mem_cons, List.not_mem_nil, or_false] at hp
    rcases hp with rfl | rfl | rfl
    · exact cacheC_issues (exec_cflush a b c s)
    · exact cacheC_issues (exec_cinv a b c s)
    · exact cacheC_issues (exec_swb a b c s)
  · exact accessC_issues_or_aligns (issueEffect_read rfl) (exec_roiRd d a b s)

end Sys2Proof.Machine
end

section
/-! SUPPORT. Vector accesses at issue: rows, lanes at an index, and strided rows with the checks of their records (R71, R153, R254 to R259). -/

namespace Sys2Proof.Machine

/-- A slice that is ready has no prediction open whose slots are done (R153). -/
theorem ControlReady.noneOpen {s : State} {gs : List (Fin 32)} {cs : List (Fin 4)} (h : ControlReady s gs cs) :
    (s.ctx.prediction.isSome && s.ctx.redirC.isNone) = false := by
  obtain ⟨-, -, -, ahead, -⟩ := h
  rw [runAhead, Bool.or_eq_false_iff] at ahead
  exact ahead.1

/-- A slice that is not ahead of a prediction issues a vector load as any other access (R153). -/
theorem loadRows_eq_accessC {s : State} {gs : List (Fin 32)} (h : ControlReady s gs []) (len lqs : Nat) (mis : Bool) (a : Access) :
    loadRows s gs len lqs mis a = accessC s gs len lqs mis a := by
  rw [loadRows, h.noneOpen]; rfl

/-- An f32 page that holds the base of a row of 16-bit lanes breaks it (R254). -/
theorem shapeAtIssue_narrow {s : State} {a : Access} {p : PageAttr} (row : a.kind = .vload ∨ a.kind = .vstore) (every : a.allLanes = true)
    (unfixed : a.fmt = none) (width : a.laneWidth = 16) (found : held s s.ctx.info.asid a.ea.toNat = some p) (fmt : p.fmt = .f32) :
    shapeAtIssue s a = true := by
  have format : elemFormat s a = some .f32 := by simp [elemFormat, unfixed, baseFormat, found, fmt]
  have lane : 0 ∈ activeLanes a (s.rowBits / a.laneWidth) := by
    have : 0 < s.rowBits / 16 := by unfold State.rowBits; split <;> decide
    simpa [activeLanes, every, width] using this
  have broken : pageCheck s a p = some .shape := by
    rcases row with row | row <;> simp [pageCheck, row, format, fmt, narrowShape, width]
  have first : (0, 0, a.ea.toNat, elemBytes a.laneWidth .f32) ∈ (activeLanes a (s.rowBits / a.laneWidth)).map
      (fun l => (0, l, (a.ea.toNat + l * elemBytes a.laneWidth .f32) % 2 ^ 64, elemBytes a.laneWidth .f32)) :=
    List.mem_map.mpr ⟨0, lane, by rw [Nat.zero_mul, Nat.add_zero, Nat.mod_eq_of_lt a.ea.isLt]⟩
  have elems : elemsOf s a = .ok ((activeLanes a (s.rowBits / a.laneWidth)).map
      (fun l => (0, l, (a.ea.toNat + l * elemBytes a.laneWidth .f32) % 2 ^ 64, elemBytes a.laneWidth .f32))) := by
    rcases row with row | row <;> simp [elemsOf, row, format, AccKind.isIndexed]
  rw [shapeAtIssue, elems]
  exact List.any_eq_true.mpr ⟨_, first, by simp [found, broken]⟩

/-! ## Strided rows (R71, R259) -/

/-- The checks of VLDS and VSTS on a record whose words substitute: ALIGN before SHAPE. -/
theorem stridedRecord_eq {s : State} {r x : ShapeRec} (hx : substRecord s.ctx r = some x) (base : Word) : stridedRecord s base r =
    if base.toNat % x.etype.bytes = 0 ∧ x.stride % x.etype.bytes = 0 then
      if recordOk x = true ∧ x.blk = 0 ∧ x.aux < 2 ^ 7 ∧ x.etype.width ≤ s.laneBits ∧ entriesOf s.lanes x ≤ 16 then .ok x
      else .error .shape
    else .error .align := by
  have aux : x.aux / 2 ^ 7 = 0 ↔ x.aux < 2 ^ 7 := Nat.div_eq_zero_iff_lt (by decide)
  have aligned : (base.toNat % x.etype.bytes != 0 || !strideAligned x) = true ↔
      ¬ (base.toNat % x.etype.bytes = 0 ∧ x.stride % x.etype.bytes = 0) := by
    simp only [strideAligned, Bool.or_eq_true, bne_iff_ne, Bool.not_eq_true', beq_eq_false_iff_ne]; tauto
  have shaped : (!recordOk x || (x.blk != 0 || x.aux / 2 ^ 7 != 0 || decide (16 < entriesOf s.lanes x) ||
      decide (s.laneBits < x.etype.width))) = true ↔
      ¬ (recordOk x = true ∧ x.blk = 0 ∧ x.aux < 2 ^ 7 ∧ x.etype.width ≤ s.laneBits ∧ entriesOf s.lanes x ≤ 16) := by
    simp only [Bool.or_eq_true, Bool.not_eq_true', bne_iff_ne, decide_eq_true_eq, ← Nat.not_le, ← aux, ← Bool.not_eq_true]; tauto
  simp only [stridedRecord, recordTrap, substAll_of_substRecord hx, hx, aligned, shaped, ite_not]

/-- The class and urgency of a strided access are the low fields of AUX. -/
theorem stridedAccess_eq (s : State) (k : AccKind) (base : Word) (x : ShapeRec) :
    stridedAccess s k base x = newAccess s k base 0 0 x 0 (Fin.ofNat 16 x.aux) (Fin.ofNat 8 (x.aux / 16)) := by
  have cls : Fin.ofNat 16 (x.aux % 16) = Fin.ofNat 16 x.aux := Fin.ext (Nat.mod_mod _ _)
  have urg : Fin.ofNat 8 (bitsOf x.aux 6 4) = Fin.ofNat 8 (x.aux / 16) := Fin.ext (Nat.mod_mod _ _)
  rw [stridedAccess, cls, urg]

section

variable {s : State} {b : Fin 32} {r x : ShapeRec}

/-- A strided form whose record fails traps (R71, R388). -/
theorem strided_traps {y : Cause} (bad : stridedRecord s (s.ctx.getG b) r = .error y) :
    let traps (i : Instr) : Prop := ControlReady s (b :: recordRegs r) [] → exec i s = .next (trapSync s .control y)
    traps (.vlds b r) ∧ traps (.vsts b r) := by
  have trap (control : ControlReady s (b :: recordRegs r) []) :
      orTrapG s (b :: recordRegs r) true y (.next s) = .next (trapSync s .control y) := by simp [orTrapG, control.stalled]
  constructor <;> intro control
  · rw [exec_vlds, execVlds]
    simp only [bad, control.noneOpen, Bool.false_eq_true, if_false, trap control]
  · rw [exec_vsts, execVsts]
    simp only [bad, trap control]

theorem execVlds_eq_accessC (control : ControlReady s (b :: recordRegs r) []) (good : stridedRecord s (s.ctx.getG b) r = .ok x) :
    exec (.vlds b r) s = accessC s (b :: recordRegs r) 20 (entriesOf s.lanes x) false (stridedAccess s .vloads (s.ctx.getG b) x) := by
  rw [exec_vlds, execVlds]
  simp only [good, loadRows_eq_accessC control]

theorem execVsts_eq_accessC (good : stridedRecord s (s.ctx.getG b) r = .ok x) :
    exec (.vsts b r) s = accessC s (b :: recordRegs r) 20 0 false (stridedAccess s .vstores (s.ctx.getG b) x) := by
  rw [exec_vsts, execVsts]
  simp only [good]

end

/-- The types of VRADD (R258). -/
theorem raddTypeOk_iff (s : State) (t : ElemType) :
    raddTypeOk s.laneBits t = true ↔ if s.laneBits = 32 then t ∈ [ElemType.s32, .f32] else t ∈ [ElemType.s16, .bf16, .f16] := by
  have width : s.laneBits = 16 ∨ s.laneBits = 32 := by unfold State.laneBits; split <;> simp
  rcases width with w | w <;> rw [w] <;> cases t <;> decide

section

variable {s : State} (m b : Fin 32) (c : Fin 16) (u : Fin 8) (o : BitVec 8)

/-- A row that is read is an access to its scaled address with the lanes of its mask register (R254). -/
theorem exec_vld_eq_accessC (control : ControlReady s [m, b] []) :
    let ea := BitVec.ofInt 64 ((s.ctx.getG b).toInt + o.toInt * s.rowBytes)
    exec (.vld m b c u o) s = accessC s [m, b] 4 1 (ea.toNat % 16 != 0) (lanedAccess s .vload ea m c u) := by
  rw [exec_vld, execVld, effectiveAddr_eq_ofInt]
  exact loadRows_eq_accessC control ..

/-- One that is written likewise (R255). -/
theorem exec_vst_eq_accessC :
    let ea := BitVec.ofInt 64 ((s.ctx.getG b).toInt + o.toInt * s.rowBytes)
    exec (.vst m b c u o) s = accessC s [m, b] 4 0 (ea.toNat % 16 != 0) (lanedAccess s .vstore ea m c u) := by
  rw [exec_vst, execVst, effectiveAddr_eq_ofInt]

end

/-- A strided form whose record passes its checks issues, or traps with SHAPE on a page held at issue (R71, R259). -/
theorem strided_goes {s : State} {b : Fin 32} {r x : ShapeRec} (good : stridedRecord s (s.ctx.getG b) r = .ok x) :
    let gs := b :: recordRegs r
    let n := entriesOf s.lanes x
    let a (k : AccKind) := newAccess s k (s.ctx.getG b) 0 0 x 0 (Fin.ofNat 16 x.aux) (Fin.ofNat 8 (x.aux / 16))
    let trap (i : Instr) : Prop := ControlReady s gs [] → exec i s = .next (trapSync s .control .shape)
    (AccessReady s gs n (a .vloads) → Issues (.vlds b r) s (s.mod (Context.withRows n)) (a .vloads)) ∧
    (AccessReady s gs 0 (a .vstores) → Issues (.vsts b r) s (s.mod Context.markEffect) (a .vstores)) ∧
    (shapeAtIssue s (a .vloads) = true → trap (.vlds b r)) ∧ (shapeAtIssue s (a .vstores) = true → trap (.vsts b r)) := by
  intro gs n a trap
  have load (control : ControlReady s gs []) : exec (.vlds b r) s = accessC s gs 20 n false (a .vloads) :=
    (execVlds_eq_accessC control good).trans (congrArg _ (stridedAccess_eq ..))
  have store : exec (.vsts b r) s = accessC s gs 20 0 false (a .vstores) :=
    (execVsts_eq_accessC good).trans (congrArg _ (stridedAccess_eq ..))
  exact ⟨accessC_issues (issueEffect_rows n rfl rfl) load, accessC_issues (issueEffect_store rfl rfl) fun _ => store,
    fun bad control => (load control).trans (accessC_shape control bad), fun bad control => store.trans (accessC_shape control bad)⟩

/-- Settles O34: each form is an access with its lanes and its entries of lq; VRADD's type and a record are checked before. -/
theorem vectorAccesses : Obligations.VectorAccesses := by
  intro s m b c u base traps loads stores access goes
  refine ⟨fun o => ?_, accessC_goes (a := access .gather base) (issueEffect_rows 1 rfl rfl) fun _ => exec_vgather m b c u s,
    accessC_goes (a := access .scatter base) (issueEffect_store rfl rfl) fun _ => exec_vscatter m b c u s, fun t => ?_, fun r x hx => ?_⟩
  · intro ea
    have load : goes (.vld m b c u o) loads 1 16 (access .vload ea) :=
      accessC_goes (a := access .vload ea) (issueEffect_rows 1 rfl rfl) (exec_vld_eq_accessC m b c u o)
    have store : goes (.vst m b c u o) stores 0 16 (access .vstore ea) :=
      accessC_goes (a := access .vstore ea) (issueEffect_store rfl rfl) fun _ => exec_vst_eq_accessC m b c u o
    refine ⟨load, store, fun p found fmt narrow every aligned => ?_⟩
    subst every
    have broken (k : AccKind) (row : k = .vload ∨ k = .vstore) : shapeAtIssue s (access k ea) = true :=
      shapeAtIssue_narrow row rfl rfl narrow found fmt
    exact ⟨((if_pos aligned).mp load).2 (broken _ (.inl rfl)), ((if_pos aligned).mp store).2 (broken _ (.inr rfl))⟩
  · by_cases typed : raddTypeOk s.laneBits t = true
    · have go := (exec_vradd m b c u t s).trans (orTrap_false _ _ _ _ (by rw [typed]; rfl))
      exact (if_pos ((raddTypeOk_iff s t).mp typed)).mpr (accessC_goes (a := access (.radd t) base) (issueEffect_store rfl rfl) fun _ => go)
    · refine (if_neg (mt (raddTypeOk_iff s t).mpr typed)).mpr fun control => ?_
      exact (exec_vradd m b c u t s).trans (control.illegal (by simpa using typed) _)
  · intro gs n a each
    have record := stridedRecord_eq hx base
    split
    · next aligned =>
      rw [if_pos aligned] at record
      split
      · next fits => exact strided_goes (record.trans (if_pos fits))
      · next beyond => exact strided_traps (record.trans (if_neg beyond))
    · next skewed => exact strided_traps (record.trans (if_neg skewed))

end Sys2Proof.Machine
end

section
/-! SUPPORT. The copy family at issue: the checks that are common to it, and each operation's place on the queue (R267 to R277). -/

namespace Sys2Proof.Machine

section

variable {s : State} {i : Instr} {gs : List (Fin 32)} {f : Fin 64} {r x : ShapeRec} {align shape : ShapeRec → Bool} {wait : Bool}
  {op : State → EngineOp} (he : exec i s = copyC s gs f r align shape wait op)
include he

/-- A flag at or above NFLAG is ILLEGAL (R267). -/
theorem copyC_illegal (h : ControlReady s [] []) (flag : s.ctx.info.header.nflag ≤ f.val) :
    exec i s = .next (trapSync s .control .illegal) :=
  he.trans (h.illegal (decide_eq_true flag) _)

/-- An operation that passes its checks, waits for no place and needs no link that is down is put on its queue (R267, R268, R269, R276). -/
theorem copyC_enqueues (h : ControlReady s (gs ++ recordRegs r) []) (flag : f.val < s.ctx.info.header.nflag)
    (hx : substRecord s.ctx r = some x) (ok : recordOk x = true) (blk : x.blk = 0) (stride : x.stride % x.etype.bytes = 0)
    (ha : align x = false) (hs : shape x = false) (go : wait = false)
    (link : (((op s).kind == .copyPeer || (op s).kind == .wrq) && !s.link.up) = false) :
    Enqueues i s (s.mod Context.markEffect) { op s with flag := f, shape := x, cls := Fin.ofNat 16 (x.aux / 2 ^ 27) } := by
  have allowed : decide (s.ctx.nflag ≤ f.val) = false := decide_eq_false (Nat.not_le.mpr flag)
  have record : recordTrap s.ctx r (fun x => !strideAligned x || align x) (fun x => x.blk != 0 || shape x) = .ok x :=
    recordTrap_ok hx (by simp [strideAligned, stride, ha]) ok (by simp [blk, hs])
  have cls : Fin.ofNat 16 (bitsOf x.aux 30 27) = Fin.ofNat 16 (x.aux / 2 ^ 27) := Fin.ext (Nat.mod_mod _ _)
  rw [copyC, orTrap_false _ _ _ _ allowed] at he
  simp only [record, go, Bool.false_and, Bool.false_eq_true, if_false, cls] at he
  have done := issueC_completes he h
  simp only [link, Bool.false_eq_true, if_false] at done
  exact done

end

/-- The flag is checked before all else in each operation of the family. -/
theorem copies_illegal {s : State} (a b c : Fin 32) {f : Fin 64} (r : ShapeRec) (h : ControlReady s [] [])
    (flag : s.ctx.info.header.nflag ≤ f.val) :
    ∀ i ∈ [Instr.copy a b c f r, .copys a b c f r, .copyDec a b f r, .fill a b f r, .copyPeer a b c f r, .wrq a b c f r, .dtab a f r],
      exec i s = .next (trapSync s .control .illegal) := by
  intro i hi
  simp only [List.mem_cons, List.not_mem_nil, or_false] at hi
  rcases hi with rfl | rfl | rfl | rfl | rfl | rfl | rfl
  · exact copyC_illegal (exec_copy a b c f r s) h flag
  · exact copyC_illegal (exec_copys a b c f r s) h flag
  · exact copyC_illegal (exec_copyDec a b f r s) h flag
  · exact copyC_illegal (exec_fill a b f r s) h flag
  · exact copyC_illegal (exec_copyPeer a b c f r s) h flag
  · exact copyC_illegal (exec_wrq a b c f r s) h flag
  · exact copyC_illegal (exec_dtab a f r s) h flag

/-- Settles O45: each instruction is `copyC` of its own checks and operation; COPY's operation is queued when its time is still to come. -/
theorem copiesIssue : Obligations.CopiesIssue := by
  intro s a b c f r x ready va vb vc all
  have regs {gs : List (Fin 32)} (sub : gs ⊆ [a, b, c]) : ControlReady s (gs ++ recordRegs r) [] :=
    ready.mono (fun _ h => List.append_subset.mpr ⟨fun _ m => List.mem_append_left (recordRegs r) (sub m), List.subset_append_right [a, b, c] _⟩ h) nofun
  refine ⟨copies_illegal a b c r (ready.mono nofun nofun), fun flag hx ok blk stride => ?_⟩
  intro aligned noTbl pages op queued
  have three := regs (List.Subset.refl _)
  have two : ControlReady s ([a, b] ++ recordRegs r) [] := regs (by simp)
  have neither {p q : Bool} (hp : p = false) (hq : q = false) : (p || q) = false := Bool.or_eq_false_iff.mpr ⟨hp, hq⟩
  have bare (h : noTbl) : (!noTable x) = false := by
    have bits : bitsOf x.aux 26 24 = 0 := h
    rw [noTable, bits]; rfl
  have elem {v : Word} (h : aligned v) : offElem x v = false := bne_eq_false_iff_eq.mpr h
  have below {m n : Nat} (h : m < n) : decide (n ≤ m) = false := decide_eq_false (Nat.not_le.mpr h)
  have up (h : s.link.up = true) : (true && !s.link.up) = false := by rw [h]; rfl
  refine ⟨fun ha hb tbl pa pb due => ?copyNow, fun ha hb tbl pa pb later room => ?copyLater, fun ha hb hc tbl small pb rows => ?copys,
    fun ha type pa => ?copyDec, fun ha tbl pa => ?fill, fun ha hb tbl small pb link => ?copyPeer, fun ha hb hc tbl size pb link => ?wrq,
    fun ha tbl rows cols flat type spare pa => ?dtab⟩
  case copyNow =>
    have he := exec_copy a b c f r s
    have now : decide (s.ctc < (s.ctx.getG c).toNat) = false := decide_eq_false (Nat.not_lt.mpr due)
    simp only [execCopy, now, Bool.false_and, Bool.false_eq_true, if_false] at he
    exact copyC_enqueues he three flag hx ok blk stride (neither (elem ha) (elem hb)) (neither (neither (bare tbl) pb) pa) rfl rfl
  case copyLater =>
    have he := exec_copy a b c f r s
    have time : decide (s.ctc < (s.ctx.getG c).toNat) = true := decide_eq_true later
    simp only [execCopy, time, Bool.true_and, if_true] at he
    exact copyC_enqueues he three flag hx ok blk stride (neither (elem ha) (elem hb)) (neither (neither (bare tbl) pb) pa) (below room) rfl
  case copys =>
    exact copyC_enqueues (exec_copys a b c f r s) three flag hx ok blk stride (neither (neither (elem ha) (elem hb)) (elem hc))
      (neither (neither (neither (bare tbl) (below small)) pb) rows) rfl rfl
  case copyDec =>
    have known : (!(x.etype == .z8 || x.etype == .q)) = false := by rcases type with h | h <;> rw [h] <;> rfl
    exact copyC_enqueues (exec_copyDec a b f r s) two flag hx ok blk stride (elem ha) (neither known pa) rfl rfl
  case fill =>
    exact copyC_enqueues (exec_fill a b f r s) two flag hx ok blk stride (elem ha) (neither (bare tbl) pa) rfl rfl
  case copyPeer =>
    exact copyC_enqueues (exec_copyPeer a b c f r s) three flag hx ok blk stride (neither (elem ha) (elem hb))
      (neither (neither (bare tbl) (below small)) pb) rfl (up link)
  case wrq =>
    exact copyC_enqueues (exec_wrq a b c f r s) three flag hx ok blk stride
      (neither (neither (elem ha) (elem hb)) (bne_eq_false_iff_eq.mpr hc))
      (neither (neither (bare tbl) (decide_eq_false (Nat.not_lt.mpr size))) pb) rfl (up link)
  case dtab =>
    have same {α : Type} [DecidableEq α] {p q : α} (h : p = q) : (p != q) = false := bne_eq_false_iff_eq.mpr h
    exact copyC_enqueues (exec_dtab a f r s) (regs (gs := [a]) (by simp)) flag hx ok blk stride (same ha)
      (neither (neither (neither (neither (neither (neither (bare tbl) (same rows)) (same cols)) (same flat)) (same type)) (same spare)) pa)
      rfl rfl

end Sys2Proof.Machine
end
